-- ==== Sys2Proof/Word.lean ====
section
/-!
DEFINITION. The word types of the module and the plain data that commands and state share: sites, ports, grains,
control grains, facet frames and telemetry records. Each type cites the rule of the spec it writes down.
-/
namespace Sys2Proof

/-- One byte. -/
abbrev Byte := BitVec 8
/-- A 32-bit core register or instruction word (R109, R116). -/
abbrev Word := BitVec 32
/-- An 8 B word: the unit of register access and of the store's atomicity (R47, R521). -/
abbrev Dword := BitVec 64
/-- A 128-bit engine command descriptor (R149). -/
abbrev Desc := BitVec 128

/-- A site of the mesh by its physical coordinates (R7). -/
structure Site where
  px : Nat
  py : Nat
  deriving DecidableEq, Repr

/-- The key of a site in the state's maps; it follows the {py, px} order of R42. -/
def Site.key (t : Site) : Nat := t.py * 512 + t.px

/-- The five ports of a router (section "The router and the link" of chapter 1). -/
inductive Port where
  | north | east | south | west | loc
  deriving DecidableEq, Repr

/-- The four virtual channels of a link direction (R16). -/
inductive VC where
  | req | rpl | dat | esc
  deriving DecidableEq, Repr

/-- What a store read finds wrong with one physical row of a bank (R48, R51): the 8 B word, whether two bits are wrong,
and the syndrome. -/
structure Upset where
  row  : Nat
  word : Nat
  dbl  : Bool
  synd : Byte
  deriving DecidableEq, Repr

/-- What the loam code makes of one line (the table of R419). -/
inductive LoamErr where
  | clean
  | corrected
  | erasure (layer : Nat)
  | uncorrectable
  deriving DecidableEq, Repr

/-- Who asks the loam controller for a line (R75, R57). -/
inductive LoamSrc where
  | ld | remote | cache | scrub
  deriving DecidableEq, Repr

/-- The answer of an OPENR grain (R223, R224). -/
inductive OpenAnswer where
  /-- accepted: KIND and IGR of the port, item credit, or byte and record credit of a ring -/
  | accept (kind : Nat) (igr : Nat) (items : Nat) (bytes : Nat) (recs : Nat)
  /-- the number is taken; the lowest number at or above the proposal that is free at the destination -/
  | renumber (conn : Nat)
  /-- refused with a reason code of R224 -/
  | refuse (reason : Nat)
  deriving DecidableEq, Repr

/-- What a tile reports to the stewards in one SVC grain. -/
inductive SvcNote where
  | sparing (bank row spare : Nat)                                  -- R52
  | exhausted (bank : Nat)                                          -- R55
  | layerFailed (layer : Nat)                                       -- R420
  | doubleTrap (cause : Word) (epc tval : Word)                     -- R148
  | sparse (q : Nat) (ticket : Word) (groups vals : Nat)            -- R214
  | frameReport (next : Option Nat)                                 -- R140, R369
  | linkErr                                                         -- R423
  | twinMismatch                                                    -- R440
  | groupComplete (n : Nat)                                         -- R326, R334
  | heavy (phase level : Nat)                                       -- R143
  deriving DecidableEq, Repr

/-- The content of a grain's 32-byte payload, and what a grain of its KIND carries beside it. The spec fixes the bits of
ERR (R25), MSG headers (R241) and CRED subtypes (R245, R438); where it lays out none, the content alone is held. -/
inductive Payload where
  | data (bytes : List Byte)                                         -- DATA, MSG data, RDR
  | msgHead (len : Nat) (wrap : Bool) (slot off : Nat)               -- R241
  | wr (addr : Nat) (bytes : List Byte)
  | rd (addr : Nat)
  | wra
  | openReq (port : Nat) (vx vy : Nat) (tag : Nat)                   -- R223; tag names the request at its source
  | openR (tag : Nat) (ans : OpenAnswer)
  | close
  | ack
  | streamCred (items : Nat)                                         -- R245 subtype 0
  | ringCred (bytes recs : Nat)                                      -- R245 subtype 1
  | barArrive (n : Nat)                                              -- R245 subtype 2
  | barRelease (n : Nat)                                             -- R245 subtype 3
  | twin (point num : Nat) (digest : Dword)                          -- R438 subtype 4
  | escn
  | probe (origin min : Site) (conn hops : Nat)                      -- R246
  | err (seq conn kind code : Nat)                                   -- R25
  | svcRead (addr : Nat)                                             -- R43: a steward reads a control register
  | svcWrite (addr : Nat) (value : Dword)
  deriving DecidableEq, Repr

/-- A grain (R21): the header's fields and the payload. -/
structure Grain where
  rsv  : BitVec 5
  last : Bool
  seq  : BitVec 5
  conn : BitVec 10
  kind : BitVec 4
  cls  : BitVec 3
  sy   : BitVec 9
  sx   : BitVec 9
  dy   : BitVec 9
  dx   : BitVec 9
  body : Payload
  deriving DecidableEq, Repr

/-- The body of a cascade control grain (the CTYPE table of R324). -/
inductive CtrlBody where
  | mark (active : Nat) (slip : Bool)
  | commit (beat set : Nat)
  | slipreq (beat : Nat)
  | bararr (plot epoch : Nat)
  | barrel (plot epoch : Nat)
  | form (count fail : Nat) (map : BitVec 256)
  | roster (c leadId rrt : Nat)
  | nak (fseq : Nat)
  | attest (segment : Nat) (bytes : List Byte)
  | checked (set members : Nat)
  | reserved (ctype : Nat)
  deriving DecidableEq, Repr

/-- A cascade control grain (R324): sender's position, beat number, body. -/
structure CtrlGrain where
  pos  : Nat
  beat : Nat
  body : CtrlBody
  deriving DecidableEq, Repr

/-- FTYPE of a facet frame (R310). -/
inductive FrameType where
  | data | idle | ctrl | reserved
  deriving DecidableEq, Repr

/-- A facet frame (R310): its header and what its slots carry. -/
structure FacetFrame where
  ftype : FrameType
  fseq  : Nat
  cret  : Nat
  slots : List Grain
  ctrl  : List CtrlGrain
  deriving DecidableEq, Repr

/-- A telemetry record (R481), less SEQ, which it is given when it enters its ring (R484). -/
structure TRec where
  cls    : Nat
  multi  : Bool
  code   : Nat
  seq    : Nat
  cycle  : Nat
  source : Word
  rep    : Nat
  lost   : Nat
  arg    : Dword
  deriving DecidableEq, Repr

/-- The clock sources a reference-monitor window judges (R381, R383): nothing, the crystal, REFCLK_IN. -/
inductive RefSrc where
  | rc | crystal | refclk
  deriving DecidableEq, Repr

/-- A request of Topsoil to Bedrock, by the resource of R454 it names. -/
inductive TopReq where
  | sign | secWrite | flashWrite | tableWrite | safetyWrite | afterimage | keys
  | fence (plot cause : Nat) | resetPlot (plot : Nat)
  | powerWrite (addr : Nat) (value : Dword)
  deriving DecidableEq, Repr

/-- What a boot stage finds on the wafer (R457, R460 to R462): facts about the part, not of the model. -/
structure BootObs where
  bedrockOk   : Bool
  refclkOk    : Bool
  crystalOk   : Bool
  identOk     : Bool
  deadRouters : List Site
  deadUnits   : List Site
  failedTiles : List Site
  failedSpills : List Site
  pathToHost  : Bool
  deriving DecidableEq, Repr

/-- A frame at a host port, beside its payload (R339, R340, R345): the port; whether it has come under a MACsec channel that verifies; its
VLAN tag; the size of the largest Ethernet frame; whether it needs only what R339 supports and is no fragment. -/
structure Ether where
  port   : Nat
  secure : Bool
  vlan   : Option Nat
  size   : Nat
  plain  : Bool
  deriving DecidableEq, Repr

/-- The instructions of the TAP (R456): the mandatory ones, IDCODE, and the private ones. -/
inductive TapInstr where
  | bypass | sample | preload | extest | idcode | priv
  deriving DecidableEq, Repr

/-- Bits hi..lo of a 64-bit register (R6). -/
def Dword.field (w : Dword) (hi lo : Nat) : Nat := (w.toNat >>> lo) % 2 ^ (hi + 1 - lo)

/-- A 64-bit register with bits hi..lo replaced by the low bits of v. -/
def Dword.setField (w : Dword) (hi lo : Nat) (v : Nat) : Dword :=
  let m : Dword := BitVec.ofNat 64 ((2 ^ (hi + 1 - lo) - 1) <<< lo)
  (w &&& ~~~ m) ||| (BitVec.ofNat 64 (v <<< lo) &&& m)

/-- Bits hi..lo of a 32-bit word. -/
def Word.field (w : Word) (hi lo : Nat) : Nat := (w.toNat >>> lo) % 2 ^ (hi + 1 - lo)

/-- Bits hi..lo of a descriptor. -/
def Desc.field (w : Desc) (hi lo : Nat) : Nat := (w.toNat >>> lo) % 2 ^ (hi + 1 - lo)

end Sys2Proof
end

