-- ==== Sys2Proof/Syntax.lean ====
section
/-!
DEFINITION. The commands of the module, one constructor for each row of the spec's table of operations and events, in
the table's order. The operands are the model's: a unit's place, a value written, or what comes from outside the module
(DESIGN CHOICE, notes/assumptions/1.md).
-/
namespace Sys2Proof

/-- The commands the module takes. -/
inductive Instr where
  /-- GRAIN_ARRIVAL (R26). A grain is written into a router input buffer, its CRC is checked and its output port is computed from the field table or the intra-field rule. -/
  | grainArrival (r : Site) (p : Port) (crcOk : Bool)
  /-- REPLAY_REQUEST (R19). A replay request reaches the sender, which sends the failed grain again followed by the later grains. -/
  | replayRequest (r : Site) (p : Port)
  /-- LINK_FAILED (R20). A link that has failed CRC on the same grain 16 times in a row is declared failed, and both routers treat the far router as dead and raise an ALARM. -/
  | linkFailed (r : Site) (p : Port)
  /-- LINK_CREDIT_ARRIVAL (R17). A credit returns upstream on sideband and frees an entry of the downstream virtual-channel buffer. -/
  | linkCreditArrival (r : Site) (p : Port) (vc : VC)
  /-- OUTPUT_PORT_SEND (R18). An output port chooses a ready grain, ESC first and then RPL, REQ and DAT in rotating order, and sends it once downstream credit allows. -/
  | outputPortSend (r : Site) (p : Port)
  /-- MESH_ESC_WAIT (R31). A grain has stood at the head of its input buffer for MESH_ESC_WAIT MCLK without credit, so it becomes due to move to ESC. -/
  | meshEscWait (r : Site) (p : Port) (vc : VC)
  /-- ESCAPE_MOVE (R31). At the first edge with ESC credit, the router moves the grain onto ESC with CLS[2] = 1. -/
  | escapeMove (r : Site) (p : Port) (vc : VC)
  /-- ESCN_RECEIVE (R32). The source NI receives an escape notice and makes the connection sticky when it still has unacknowledged grains. -/
  | escnReceive (t : Site)
  /-- GRAIN_ACCEPT (R34). The destination NI accepts a sequenced grain, holds it in the reorder window or delivers it in SEQ order, and sends a cumulative ACK. -/
  | grainAccept (t : Site)
  /-- ACK_RECEIVE (R34). A cumulative ACK reaches the source NI, which frees its window and ends stickiness when no grain remains unacknowledged. -/
  | ackReceive (t : Site)
  /-- PRISM_FORWARD (R37). A router sends a prism grain on every port marked in its entry once all of them have DAT credit, or discards it with ERR PRISM. -/
  | prismForward (r : Site) (p : Port)
  /-- ERR_RECEIVE (R226). An ERR grain reaches the source NI, which closes the connection, refuses a pending OPEN or faults the command that is running. -/
  | errReceive (t : Site)
  /-- REMOTE_WRITE (R232). The destination NI performs a WR grain in its store, loam or spill and answers with WRA. -/
  | remoteWrite (t : Site)
  /-- REMOTE_READ (R43). The destination serves an RD grain and answers with RDR data, or with an ERR grain for a refused address. -/
  | remoteRead (t : Site)
  /-- RDR_RECEIVE (R233). Read-reply data reaches the NI that requested it and is written into the store for a GET. -/
  | rdrReceive (t : Site)
  /-- WRA_RECEIVE (R233). A write acknowledgement reaches the NI that sent the write and advances the PUT. -/
  | wraReceive (t : Site)
  /-- SVC_ACCESS (R43). A steward site reaches a tile control register or a service site through an SVC grain; any other source is refused with PERM. -/
  | svcAccess (t : Site)
  /-- STORE_SCRUB (R49). Every 2,048 MCLK a bank reads one physical row in a free cycle, or forced after 64 MCLK, and corrects it. -/
  | storeScrub (t : Site) (bank : Nat) (found : Option Upset)
  /-- SPARING_NOTICE (R54). Bedrock receives a sparing notice, updates the repair map and writes the entry to flash. -/
  | sparingNotice
  /-- CACHE_ACCESS (R58). In SPLIT a loam access reaches the cache controller and hits, or misses and evicts a victim into the write-back buffer. -/
  | cacheAccess (t : Site) (line : Nat) (store : Option (List Byte)) (strm : Bool)
  /-- CACHE_FILL (R58). A missed line arrives from loam and is delivered and allocated, with an uncorrectable error handled as R59 states. -/
  | cacheFill (t : Site) (err : LoamErr)
  /-- CACHE_WRITEBACK (R58). A buffered dirty line is written to loam, which frees an entry of the write-back buffer. -/
  | cacheWriteback (t : Site)
  /-- STORE_SPLIT_SWITCH (R61). Once the engines have finished their current commands after a commit, the tile writes back dirty lines, zeroes banks 8 to 11 and changes the split mode. -/
  | storeSplitSwitch (t : Site)
  /-- SPLIT_SWITCH_END (R61). The split-mode switch ends: SWITCHING clears and the engines resume their queues. -/
  | splitSwitchEnd (t : Site)
  /-- TC_GEN_CFG_WRITE (R66). A write of TC_GEN_CFG that sets EN from 0 to 1 clears MISMATCH_CNT and starts clearing the tags; otherwise it changes CORE_GEN or stops tagging. -/
  | tcGenCfgWrite (t : Site) (v : Dword)
  /-- GEN_TAG_CLEAR_END (R66). The 512 MCLK clearing of generation tags ends and comparisons begin. -/
  | genTagClearEnd (t : Site)
  /-- LOAM_LINE_REQUEST (R76). The loam controller takes a line request from the LD engine, a remote grain or the cache, alternating between sources, and serves it. -/
  | loamLineRequest (t : Site) (src : LoamSrc) (line : Nat) (err : LoamErr)
  /-- LOAM_REFRESH (R76). The loam controller refreshes its column and closes the open DRAM row. -/
  | loamRefresh (t : Site)
  /-- LOAM_SCRUB (R421). Every 65,536 MCLK the loam controller reads one line in a free slot and writes it back corrected or poisoned. -/
  | loamScrub (t : Site) (err : LoamErr)
  /-- ALU (R120). The core computes rd from s[ra] and s[rb] under the function fn. -/
  | alu (t : Site)
  /-- ADDI (R122). The core adds the sign-extended imm13 to s[ra]. -/
  | addi (t : Site)
  /-- ANDI (R122). The core ANDs s[ra] with the zero-extended imm13. -/
  | andi (t : Site)
  /-- ORI (R122). The core ORs s[ra] with the zero-extended imm13. -/
  | ori (t : Site)
  /-- XORI (R122). The core XORs s[ra] with the zero-extended imm13. -/
  | xori (t : Site)
  /-- SHI (R122). The core shifts or rotates s[ra] by an immediate amount. -/
  | shi (t : Site)
  /-- LIL (R122). The core sets rd to the zero-extended imm16. -/
  | lil (t : Site)
  /-- LIH (R122). The core replaces rd[31:16] with imm16. -/
  | lih (t : Site)
  /-- MFS (R110). The core reads a special register into rd. -/
  | mfs (t : Site)
  /-- MTS (R110). The core writes s[ra] into a writable special register. -/
  | mts (t : Site)
  /-- LB (R123). The core loads a sign-extended byte from the local address. -/
  | lb (t : Site)
  /-- LBU (R123). The core loads a zero-extended byte from the local address. -/
  | lbu (t : Site)
  /-- LH (R123). The core loads a sign-extended halfword from the local address. -/
  | lh (t : Site)
  /-- LHU (R123). The core loads a zero-extended halfword from the local address. -/
  | lhu (t : Site)
  /-- LW (R123). The core loads a word from the local address. -/
  | lw (t : Site)
  /-- LDD (R123). The core loads 8 B into an even register pair. -/
  | ldd (t : Site)
  /-- SB (R123). The core stores a byte through the store buffer. -/
  | sb (t : Site)
  /-- SH (R123). The core stores a halfword through the store buffer. -/
  | sh (t : Site)
  /-- SW (R123). The core stores a word through the store buffer. -/
  | sw (t : Site)
  /-- SDD (R123). The core stores an even register pair as 8 B through the store buffer. -/
  | sdd (t : Site)
  /-- STORE_BUFFER_PERFORM (R114). A buffered core store is performed in its bank in program order and stamps its generation tag. -/
  | storeBufferPerform (t : Site)
  /-- INSTRUCTION_FETCH (R113). When the store port is free of data accesses, the core fetches the next 8 B word into its fetch buffer, or raises FETCH. -/
  | instructionFetch (t : Site)
  /-- BR (R125). The core branches by a signed word offset. -/
  | br (t : Site)
  /-- BL (R125). The core branches and writes the return address into s31. -/
  | bl (t : Site)
  /-- JR (R125). The core jumps to s[ra] and writes the return address into rd. -/
  | jr (t : Site)
  /-- PCMP (R126). The core compares two registers and writes a predicate and its complement. -/
  | pcmp (t : Site)
  /-- PCMPI (R126). The core compares a register with imm8 and writes a predicate and its complement. -/
  | pcmpi (t : Site)
  /-- PLOG (R127). The core combines two predicates into a third. -/
  | plog (t : Site)
  /-- PMOV (R128). The core moves the predicates to or from a scalar register. -/
  | pmov (t : Site)
  /-- ISSUE (R129). The core pushes a descriptor into an engine queue and returns its ticket, or blocks while the queue is full. -/
  | issue (t : Site)
  /-- ISSUE_QUEUE_ROOM (R130). A blocked ISSUE writes its queue entry once an entry frees. -/
  | issueQueueRoom (t : Site)
  /-- WAITC (R131). The core waits until the completion counter of a queue reaches a ticket. -/
  | waitc (t : Site)
  /-- WAITC_RETIRE (R131). A waiting WAITC retires once the counter has reached its ticket. -/
  | waitcRetire (t : Site)
  /-- RDCC (R132). The core reads TC_CCNT[q] or ICNT[q] into rd. -/
  | rdcc (t : Site)
  /-- WAITM (R132). The core waits until every masked queue has completed all issued commands. -/
  | waitm (t : Site)
  /-- WAITM_RETIRE (R132). A waiting WAITM retires once every masked queue has drained. -/
  | waitmRetire (t : Site)
  /-- OPEN (R223). The core asks the NI to open a connection to a virtual tile and port, and blocks for the reply. -/
  | openConn (t : Site)
  /-- OPEN_REQUEST (R223). An OPEN grain reaches the destination NI, which binds the port and answers OPENR or refuses. -/
  | openRequest (t : Site)
  /-- OPENR_RECEIVE (R223). An OPENR reaches the source NI, which completes the OPEN or proposes another number. -/
  | openrReceive (t : Site)
  /-- CLOSE (R225). The core closes a connection at the sending NI and queues its CLOSE grain. -/
  | close (t : Site)
  /-- CLOSE_GRAIN_SEND (R225). At the first edge with no unacknowledged grain, the NI sends the CLOSE grain and frees the number at the source. -/
  | closeGrainSend (t : Site) (conn : Nat)
  /-- CLOSE_GRAIN_RECEIVE (R225). The destination takes a CLOSE and frees the number and the port once every arrived item or message is released. -/
  | closeGrainReceive (t : Site)
  /-- SEND (R242). The core asks the NI to send an active message, and blocks until the NI has read it. -/
  | send (t : Site)
  /-- SEND_START (R242). Once credit covers the placement, the NI writes any wrap marker and starts the message grains. -/
  | sendStart (t : Site)
  /-- SEND_RETIRE (R242). A started SEND retires the MCLK after the NI has taken the last grain from the store. -/
  | sendRetire (t : Site)
  /-- MESSAGE_ARRIVAL (R241). A message arrives whole in a receive ring and awaits dispatch, or is released at once when its slot is invalid. -/
  | messageArrival (t : Site)
  /-- HANDLER_DISPATCH (R138). The core dispatches the handler of an arrived message when handlers are enabled and the core is at a boundary or in a blocking wait. -/
  | handlerDispatch (t : Site)
  /-- HRET (R138). The running handler ends and its message space is released to the ring. -/
  | hret (t : Site)
  /-- MFENCE (R114). The core waits for every buffered store to be performed and empties its fetch buffer. -/
  | mfence (t : Site)
  /-- BAR (R139). The core announces arrival at a barrier group and blocks until the group releases. -/
  | bar (t : Site)
  /-- WFE (R135). The core waits for a completion, a message, a commit or a barrier release. -/
  | wfe (t : Site)
  /-- FIN (R140). The core waits for its queues to drain, then stops and reports its frame finished. -/
  | fin (t : Site)
  /-- FIN_STOP (R140). After the drain, the core stops and the NI sends the frame report. -/
  | finStop (t : Site)
  /-- STAGE (R141). The core writes a value into the tile's shadow slot for a key, to take effect at the plot's next commit instant. -/
  | stage (t : Site)
  /-- FRAME (R142). The core requests a switch to a valid configuration frame, or traps on an invalid one. -/
  | frame (t : Site)
  /-- FRAME_SWITCH (R250). Once queues and sends have drained, the NI closes connections, loads the new frame header and sends the open list. -/
  | frameSwitch (t : Site)
  /-- FRAME_ENTRY (R250). Once every RESULT of the open list has been written, the core enters the new frame's entry. -/
  | frameEntry (t : Site)
  /-- HEAVY (R143). The core sends a power-phase hint to its field's PWR site. -/
  | heavy (t : Site)
  /-- BRK (R144). The core raises a BREAK trap. -/
  | brk (t : Site)
  /-- TRET (R147). The core returns from a trap handler to EPC. -/
  | tret (t : Site)
  /-- NOP (R119). The core does nothing but advance PC. -/
  | nop (t : Site)
  /-- ENGINE_FAULT (R146). A pending asynchronous trap for a halted queue is taken at the next boundary or from a blocking instruction. -/
  | engineFault (t : Site)
  /-- WAIT_TIMEOUT (R134). A blocking instruction that has waited WLIMIT MCLK raises WAIT_TIMEOUT. -/
  | waitTimeout (t : Site)
  /-- TILE_IDLE_ENTRY (R394). A tile enters IDLE 16 MCLK after its core blocks or stops with every queue empty and no backfill. -/
  | tileIdleEntry (t : Site)
  /-- TE_PRODUCT (R160). The TE checks and runs a PRODUCT, accumulating in groups and draining each sub-tile through the FU. -/
  | teProduct (t : Site)
  /-- TE_SUBTILE_DRAIN (R168). The accumulators of a sub-tile are final and drain through the FU into C and X. -/
  | teSubtileDrain (t : Site)
  /-- VE_OPERATION (R171). The VE checks and runs an elementwise operation or a row reduction. -/
  | veOperation (t : Site)
  /-- SU_CONVERT (R175). The SU converts a matrix to another format. -/
  | suConvert (t : Site)
  /-- SU_COMPRESS (R217). The SU prunes a dense matrix and writes a sparse operand image. -/
  | suCompress (t : Site)
  /-- SU_DECOMPRESS (R219). The SU expands a sparse operand image into a dense matrix. -/
  | suDecompress (t : Site)
  /-- SU_PRUNE (R218). The SU writes a dense matrix with its pruned elements set to zero. -/
  | suPrune (t : Site)
  /-- TX_TRANSPOSE (R177). The TX writes the transpose of a matrix. -/
  | txTranspose (t : Site)
  /-- TX_STREAM (R178). The TX delivers a transposed matrix to the TE as operand B. -/
  | txStream (t : Site)
  /-- STREAM_PAIRING (R178). A TX STREAM and a TE PRODUCT with BSRC = 1 stand checked at their heads and pair, or both fault. -/
  | streamPairing (t : Site)
  /-- FU_EVAL (R180). The FU evaluates a function or its derivative over a vector. -/
  | fuEval (t : Site)
  /-- FU_LOADTAB (R181). The FU checks a table and loads it into a slot. -/
  | fuLoadtab (t : Site)
  /-- LD_LOAD (R184). The LD engine copies lines from the loam column into the store. -/
  | ldLoad (t : Site)
  /-- LD_SAVE (R184). The LD engine copies lines from the store into the loam column. -/
  | ldSave (t : Site)
  /-- SENDS (R230). The NI sends stream items on a connection as credit and the window allow. -/
  | sends (t : Site)
  /-- RECV (R231). The NI releases held items of a port, returns credit and sets the port's arrival target. -/
  | recv (t : Site)
  /-- PUT (R233). The NI writes lines to another tile's store or loam with WR grains. -/
  | put (t : Site)
  /-- GET (R233). The NI reads lines from another tile's store or loam with RD grains. -/
  | get (t : Site)
  /-- UPDATE (R293). The UE applies a parameter group's update rule to the tile's shard. -/
  | update (t : Site)
  /-- REDUCE (R288). The UE sums a gradient shard across the cascade ring and writes the sum in place. -/
  | reduce (t : Site) (fallingFirst : Bool)
  /-- UE_TE_PRODUCT (R300). A pending UE product of the orthogonalising rule takes the TE ahead of the next core command. -/
  | ueTeProduct (t : Site)
  /-- ENGINE_COMMAND_COMPLETE (R190). An engine increments TC_CCNT and records the command's flag byte in TC_QHIST and TC_QSTICKY. -/
  | engineCommandComplete (t : Site) (q : Nat)
  /-- ENGINE_FAULT_EFFECT (R192). After the allowed writes are performed, a detected fault takes effect and halts the queue. -/
  | engineFaultEffect (t : Site) (q : Nat)
  /-- RESUME (R194). A RESUME control descriptor counts the faulted command as complete and clears the halt. -/
  | resume (t : Site) (q : Nat)
  /-- RETRY (R194). A RETRY control descriptor re-executes the faulted command from its start under its ticket. -/
  | retry (t : Site) (q : Nat)
  /-- DISCARD (R194). A DISCARD control descriptor counts the faulted and older entries as complete and clears the halt. -/
  | discard (t : Site) (q : Nat)
  /-- CLRFLAGS (R194). A CLRFLAGS control descriptor clears TC_QSTICKY at its position in the queue. -/
  | clrflags (t : Site) (q : Nat)
  /-- SPARSE_DROP_REPORT (R214). Bedrock takes a LENIENT drop report, adds it to the plot counters and writes PLOT_SP_LAST. -/
  | sparseDropReport
  /-- ITEM_ARRIVAL (R231). A stream item's last grain is performed in its slot or in spill, and a RECV whose target is reached completes. -/
  | itemArrival (t : Site)
  /-- SPILL_READBACK_DONE (R239). A spilled item read back into a freed slot counts as arrived. -/
  | spillReadbackDone (t : Site) (port : Nat)
  /-- STREAM_CREDIT (R245). A stream CRED grain returns item credit to a sender. -/
  | streamCredit (t : Site)
  /-- RING_CREDIT (R245). A ring CRED grain returns byte and record credit to a sender. -/
  | ringCredit (t : Site)
  /-- BARRIER_ARRIVAL (R245). A child arrival reaches an NI, which forwards one arrival to its parent or, at the root, releases the group. -/
  | barrierArrival (t : Site)
  /-- BARRIER_RELEASE (R245). A release grain clears the group's arrival bit and child count, and the member's BAR retires. -/
  | barrierRelease (t : Site)
  /-- STEER_MERGE (R234). A MERGE steering unit emits whole items from two inputs in order of arrival. -/
  | steerMerge (t : Site) (u : Nat)
  /-- STEER_SPLIT (R234). A SPLIT steering unit copies each item to every output once all have credit. -/
  | steerSplit (t : Site) (u : Nat)
  /-- STEER_SELECT (R235). A SELECT steering unit emits the lowest complete pairing entry, choosing one input by its token. -/
  | steerSelect (t : Site) (u : Nat)
  /-- STEER_GATE (R235). A GATE steering unit emits or discards the lowest complete pairing entry by its token. -/
  | steerGate (t : Site) (u : Nat)
  /-- NI_STEER_WRITE (R236). A write of NI_STEER is ignored while the unit runs, unless it sets MODE to OFF, which discards the pairing queue. -/
  | niSteerWrite (t : Site) (u : Nat) (v : Dword)
  /-- NI_PORT_WRITE (R221). A write of NI_PORT is ignored while a connection is bound to the port. -/
  | niPortWrite (t : Site) (port : Nat) (v : Dword)
  /-- DEADLOCK_WINDOW (R246). A blocked send has waited a detection window without credit, and the NI sends a PROBE. -/
  | deadlockWindow (t : Site) (conn : Nat)
  /-- PROBE_RECEIVE (R247). An NI forwards, discards or, as origin holding the minimum, acts on a PROBE. -/
  | probeReceive (t : Site)
  /-- PLOT_DRAINED (R252). Every tile of a draining plot reports NI_STAT.DRAINED = 1. -/
  | plotDrained (p : Nat)
  /-- FRAME_REPORT (R369). The steward takes a tile's FIN report and completes the RUN when every tile has finished. -/
  | frameReport
  /-- LAYER_ADVANCE (R369). When every tile has executed FIN and one holds NEXT_FRAME, the steward commits the staged keys at an instant. -/
  | layerAdvance (p : Nat)
  /-- PLACEMENT_COMMIT (R276). Tilth writes a placement's tables into the plot's routers and NIs at a commit instant, and the plot becomes PLACED. -/
  | placementCommit (p : Nat)
  /-- REPLACEMENT (R277). After a retirement, Tilth places the fenced plot again, copies surviving regions and lists missing ones. -/
  | replacement (p : Nat)
  /-- FACET_CFG_WRITE (R315). A write of FACET_CFG.EN = 1 turns the lasers on and starts link-up of the facet. -/
  | facetCfgWrite (f : Nat) (v : Dword)
  /-- FACET_TRAINING_DONE (R315). The lanes of a facet lock, join or are marked MISWIRED, and the facet enters ATTEST. -/
  | facetTrainingDone (f : Nat) (joined miswired : BitVec 14) (peerId peerFacet : Nat)
  /-- ATTEST (R316). An ATTEST control grain carries a segment of the peer's nonce, report or signature. -/
  | attest (f : Nat) (g : CtrlGrain)
  /-- FACET_ATTEST_DONE (R316). Both ends verify each other, and the facet becomes UP after measuring its round trip, or DENIED. -/
  | facetAttestDone (f : Nat) (failStep : Option Nat) (rtt : List Nat)
  /-- FACET_FRAME_SEND (R312). Every 8.5 ns a port sends a DATA, CTRL or IDLE frame as credit allows. -/
  | facetFrameSend (port : Nat)
  /-- FACET_FRAME_RECEIVE (R311). A port corrects and takes a frame, or discards an uncorrectable one and sends a NAK. -/
  | facetFrameReceive (port : Nat) (frame : FacetFrame) (symErrs : Option Nat)
  /-- NAK (R311). A NAK makes the sender resend from the named frame onward. -/
  | nak (port : Nat) (g : CtrlGrain)
  /-- FACET_PORT_FAIL (R317). A port that fails one frame 16 times or loses lock leaves LANEUP, and its grains are answered with LINKFAIL. -/
  | facetPortFail (port : Nat)
  /-- OPT_RELAY_OPEN (R322). An OPT unit relays a cross-module OPEN, writes a relay entry and translates the target through its plot map. -/
  | optRelayOpen (port : Nat) (incoming : Bool)
  /-- FORMATION_START (R319). A lead whose facets 0 and 4 are UP sends FORM downstream. -/
  | formationStart
  /-- FORM (R319). A member takes a FORM grain, takes its position and forwards it, or records a failure. -/
  | form (g : CtrlGrain)
  /-- FORM_TIMEOUT (R320). FORM has not returned to the lead within 100 ms, and formation fails with OPENRING. -/
  | formTimeout
  /-- ROSTER (R319). A member writes FACET_CASC and FACET_RING from ROSTER and forwards it. -/
  | roster (g : CtrlGrain)
  /-- BEAT_TIMER (R325). The lead sends MARK for the next beat every ACTIVE period. -/
  | beatTimer
  /-- MARK (R325). A cascade unit takes MARK, forwards it and counts the beat, and the plot's lag is updated. -/
  | mark (g : CtrlGrain)
  /-- BEAT_GROUP_COMPLETE (R326). The root of the beat group reports completion, and the release goes out at the later of beat start and completion. -/
  | beatGroupComplete (p : Nat)
  /-- SLIPREQ (R333). The lead takes SLIPREQ and declares a slip that lengthens ACTIVE by 5/4, or ignores it within the window. -/
  | slipreq (g : CtrlGrain)
  /-- BARARR (R334). The lead collects cascade barrier arrivals and sends BARREL when all members have arrived. -/
  | bararr (g : CtrlGrain)
  /-- BARREL (R334). A cascade unit releases group 14 of the plot through its root and forwards BARREL. -/
  | barrel (g : CtrlGrain)
  /-- CHECKED (R335). The lead collects CHECKED and sends COMMIT for its next beat once all members hold the set. -/
  | checked (g : CtrlGrain)
  /-- COMMIT_GRAIN (R335). A member takes COMMIT naming a beat whose start edge becomes its commit instant. -/
  | commitGrain (g : CtrlGrain)
  /-- MARK_TIMEOUT (R337). No MARK for 4 periods sets FAILED with RINGLOST and fences the plots holding sequence slots. -/
  | markTimeout
  /-- ROCE_WRITE (R343). A host RDMA WRITE is written into a plot's store or loam, or refused with NAK. -/
  | roceWrite (e : Ether) (qpn : Nat) (rkey : Word) (va : Dword) (bytes : List Byte)
  /-- ROCE_READ (R343). A host RDMA READ is answered from a plot's store or loam, or refused with NAK. -/
  | roceRead (e : Ether) (qpn : Nat) (rkey : Word) (va : Dword) (len : Nat)
  /-- ROCE_SEND (R344). A host SEND is delivered as an active message to the context's tile and slot. -/
  | roceSend (e : Ether) (qpn : Nat) (bytes : List Byte)
  /-- CNP_RECEIVE (R342). A CNP halves the device's sending rate. -/
  | cnpReceive
  /-- CNP_RATE_RECOVERY (R342). Every 55 µs the sending rate recovers by 1/16 of line rate. -/
  | cnpRateRecovery
  /-- RDMA_READ_RESPONSE (R351). Data of a device RDMA READ arrives and is written into the staged package. -/
  | rdmaReadResponse (q : Nat) (bytes : List Byte)
  /-- RDMA_WRITE_ACK (R351). The host acknowledges a device RDMA WRITE of afterimage data. -/
  | rdmaWriteAck (q : Nat)
  /-- QP_RETRY_TIMEOUT (R530). An unacknowledged device request is retried every 1 ms, and the context enters ERROR after 7 retries. -/
  | qpRetryTimeout (n : Nat)
  /-- HOST_QP_W0_WRITE (R529). A write of W0 that sets VALID checks the context into READY or ERROR, and VALID = 0 returns it to RESET. -/
  | hostQpW0Write (n : Nat) (v : Dword)
  /-- VHCP_COMMAND_ARRIVAL (R346). A COMMAND frame is judged by its SEQ and accepted, refused or answered as a duplicate, with a RECEIPT. -/
  | vhcpCommandArrival (e : Ether) (payload : List Byte)
  /-- LOAD_PACKAGE (R351). The device takes staging extents and reads package parts from the host by RDMA. -/
  | loadPackage (q : Nat)
  /-- PLACE (R276). Tilth places the loaded package on the plot or refuses it. -/
  | place (q : Nat)
  /-- RUN (R351). The arguments are written into every usable tile and every core starts at its frame entry. -/
  | run (q : Nat)
  /-- HOST_STAGE (R362). Each part of a STAGE command stages an item into a shadow set or fails. -/
  | hostStage (q : Nat)
  /-- CHECK (R364). The set is checked against the device state and becomes CHECKED or FAILED. -/
  | check (q : Nat)
  /-- COMMIT (R365). The set is checked again and armed, and its items are sent to the sites. -/
  | commit (q : Nat)
  /-- ABORT (R356). An ABORT is latched and stops, cancels or reports on its target command. -/
  | abort (q : Nat)
  /-- QUERY (R351). The device returns plot registers, the placement record, a fault record, energy, an attestation report or queue state. -/
  | query (q : Nat)
  /-- REG_READ (R351). Each part reads an 8 B steward register. -/
  | regRead (q : Nat)
  /-- REG_WRITE (R351). Each part writes an 8 B steward register within the queue's permissions. -/
  | regWrite (q : Nat)
  /-- DUMP_FETCH (R351). Each part writes a range of the afterimage to the host by RDMA. -/
  | dumpFetch (q : Nat)
  /-- RECOVER (R477). A chunk of a signed object is collected, and the completing chunk is verified and written to flash. -/
  | recover (q : Nat)
  /-- COMMAND_TIMEOUT (R348). A command's timeout expires, the command stops, and a plot command fences its plot. -/
  | commandTimeout (q : Nat)
  /-- COMMIT_ACKS_COMPLETE (R366). The last site acknowledges an armed set, and the steward computes and sends the instant. -/
  | commitAcksComplete (k : Nat)
  /-- COMMIT_INSTANT (R366). At the instant every site applies its pending items, tile-staged keys apply and COMMIT completes. -/
  | commitInstant (k : Nat)
  /-- REF_MONITOR_WINDOW (R383). A reference-monitor window ends and judges whether the reference is in window. -/
  | refMonitorWindow (src : RefSrc) (count : Nat) (gap : Bool)
  /-- PLL_COAST (R386). A field PLL whose reference shows no edge for 1 µs slews to LOW and sets COAST. -/
  | pllCoast (f : Nat)
  /-- PLL_RELOCK (R386). After 1 ms of reference in window, a coasting PLL returns to LOCK. -/
  | pllRelock (f : Nat)
  /-- PLL_SLEW_DONE (R385). A PLL slew or lock completes. -/
  | pllSlewDone (f : Nat)
  /-- CLK_MUX_SEL_WRITE (R389). A write of SEL starts a glitch-free switch of a clock multiplexer. -/
  | clkMuxSelWrite (m : Nat) (v : Dword)
  /-- CLK_MUX_SWITCH_DONE (R389). The multiplexer releases its output on the new clock and clears BUSY. -/
  | clkMuxSwitchDone (m : Nat)
  /-- CLK_MUX_HANG (R390). The old clock shows no edge within 64 new cycles, so HANG is set. -/
  | clkMuxHang (m : Nat)
  /-- CLK_MUX_FORCE (R390). A write of FORCE while HANG is 1 forces the switch to the new clock. -/
  | clkMuxForce (m : Nat)
  /-- CLK_MEAS_GO (R391). A write of GO starts counting the edges of a clock. -/
  | clkMeasGo (v : Dword)
  /-- CLK_MEAS_DONE (R391). The measurement window ends, COUNT is written and GO clears. -/
  | clkMeasDone (count : Nat)
  /-- TILE_NAP_WAKE (R394). A tile leaves NAP 2 µs after the wake request. -/
  | tileNapWake (t : Site)
  /-- TILE_DARK_WAKE (R394). A tile leaves DARK through a TILE reset. -/
  | tileDarkWake (t : Site)
  /-- FIELD_TO_PENUMBRA (R397). A field's tiles go to NAP and its PLL slews to LOW. -/
  | fieldToPenumbra (f : Nat)
  /-- FIELD_TO_LIT (R397). A field's PLL slews to LOCK and its tiles leave NAP. -/
  | fieldToLit (f : Nat)
  /-- FIELD_TO_UMBRA (R397). A field's power stage switches off, planned after new tables or at once in an emergency. -/
  | fieldToUmbra (f : Nat) (emergency : Bool)
  /-- FIELD_POWER_UP (R397). A field's power stage soft-starts, and the field enters PENUMBRA for its scan test. -/
  | fieldPowerUp (f : Nat)
  /-- CAP_LOOP (R401). Every 10 µs the cap controller computes plot shares and steps plot rates. -/
  | capLoop (pin : Nat) (plots : List (Nat × Nat))
  /-- HEAVY_HINT_RECEIVE (R402). Topsoil takes a HEAVY hint, sets the plot's rate from its estimate and updates the estimate of the ended phase. -/
  | heavyHintReceive (meanPower meanRate : Nat)
  /-- PWR_CAP_SET_WRITE (R403). A write of the cap is clamped to 4,000 to 42,000 W and takes effect at the next loop. -/
  | pwrCapSetWrite (v : Dword)
  /-- ENERGY_SAMPLE (R404). Every 10 µs a PWR site samples rail power and apportions energy to the counters. -/
  | energySample (f : Nat) (plots queues : List (Nat × Nat)) (dev ein watts : Nat)
  /-- DROOP_CROSSING (R405). A core rail crosses the droop threshold, and the field's TEs stop issuing. -/
  | droopCrossing (f : Nat)
  /-- DROOP_CLAMP_STEP (R406). Every 100 ns the droop clamp raises the rate by 1 toward the rate in force. -/
  | droopClampStep (f : Nat)
  /-- BACKFILL_STEP (R407). Every STEP × 100 ns backfill steps the rate down, or after a barrier steps it back up. -/
  | backfillStep (t : Site)
  /-- SUPPLY_SAMPLE (R408). Every 50 ns the supply monitor samples the input and sets or clears the warning. -/
  | supplySample (vin : Nat)
  /-- SUPPLY_CEILING_STEP (R408). After a warning ends, the rate ceiling rises by 1 every µs. -/
  | supplyCeilingStep
  /-- OVERLOAD_STEP (R409). While the 1 ms input average exceeds 42.0 kW, every plot steps down 1 every 10 µs. -/
  | overloadStep (avg : Nat)
  /-- SHUTDOWN_STAGE (R410). A timed stage of the shutdown fences the plots, darkens the fields and deasserts PWR_OK. -/
  | shutdownStage
  /-- THERMAL_SAMPLE (R411). Every 10 µs a field's temperature is sampled and its thermal actions are taken. -/
  | thermalSample (f t0 t1 t2 t3 : Nat)
  /-- THM_CFG_WRITE (R412). A threshold written above its reset value stores the reset value. -/
  | thmCfgWrite (v : Dword)
  /-- FIELD_SHORT (R413). A field power stage latches off on a short, and the field enters UMBRA. -/
  | fieldShort (f : Nat)
  /-- SHORT_RETRY (R413). Every 10 ms the stage retries a soft start, and the field is retired after the third failure. -/
  | shortRetry (f : Nat) (short : Bool)
  /-- TABLE_COMMIT (R422). Bedrock's new tables take effect at every router at one instant, and promoted spares become rated. -/
  | tableCommit
  /-- FENCE (R427). Bedrock decides a fence, stops the plot's cores and refuses new requests. -/
  | fence (p cause : Nat)
  /-- FENCE_DRAINED (R427). No engine is busy and no grain unacknowledged, so the plot becomes FENCED and its record is written. -/
  | fenceDrained (p : Nat)
  /-- FENCE_DRAIN_LIMIT (R427). The drain limit expires, every engine still executing stops and the plot becomes FENCED with CUT. -/
  | fenceDrainLimit (p : Nat)
  /-- TWIN_DIGEST (R439). The even twin pairs a twin digest with its own and compares them. -/
  | twinDigest (t : Site)
  /-- RESET_N_LOW (R503). RESET_N reads low for 12 consecutive GCLK samples, and a DEVICE reset starts. -/
  | resetNLow
  /-- RAS_RESET_DEVICE (R431). A write of RAS_RESET with DOMAIN DEVICE resets the whole module. -/
  | rasResetDevice
  /-- RAS_RESET_WARM (R431). A write of RAS_RESET with DOMAIN WARM completes every command FENCED and resets the tiles and Topsoil. -/
  | rasResetWarm
  /-- RAS_RESET_FIELD (R431). A write of RAS_RESET with DOMAIN FIELD fences the affected plots and resets one field. -/
  | rasResetField (f : Nat)
  /-- RAS_RESET_PLOT (R431). A write of RAS_RESET with DOMAIN PLOT fences and resets one plot. -/
  | rasResetPlot (p : Nat)
  /-- RAS_RESET_TILE (R431). A write of RAS_RESET with DOMAIN TILE fences the affected plots and resets one tile. -/
  | rasResetTile (t : Site)
  /-- PLOT_RESET_RESET (R451). A write of PLOT_RESET.RESET starts a PLOT reset of the queue's own plot. -/
  | plotResetReset (p : Nat)
  /-- PLOT_RESET_FENCE (R451). A write of PLOT_RESET.FENCE fences the plot with cause HOST. -/
  | plotResetFence (p : Nat)
  /-- RESET_COMPLETE (R433). A reset ends, tile state is restored, and a PLOT reset lifts the fence. -/
  | resetComplete
  /-- LOAM_ZEROING (R435). Loam that leaves a plot is written with zeros before any reuse. -/
  | loamZeroing (p : Nat)
  /-- RAS_DRAIN_WRITE (R450). A write of the drain limit below 10 µs stores 10. -/
  | rasDrainWrite (v : Dword)
  /-- SCAN_GO (R444). A write of RAS_SCAN.GO scans a named field, fencing the plots that use it when FORCE is 1. -/
  | scanGo (v : Dword)
  /-- SCAN_PERIOD (R444). The scan period expires, and Bedrock scans the next eligible field. -/
  | scanPeriod
  /-- SCAN_DONE (R443). A field's scan ends, failing tiles and spill sites are retired or removed, and the field returns to LIT. -/
  | scanDone (f : Nat) (tiles spills : List Site)
  /-- FATAL_ERROR (R446). A fatal error freezes the device and starts the dump walkers. -/
  | fatalError (cause : Nat)
  /-- AI_TRIGGER (R445). A write of RAS_AI.TRIGGER raises the fatal cause HOST. -/
  | aiTrigger
  /-- AFTERIMAGE_SIGNED (R446). Every site record is written, the header is signed and RAS_AI.VALID is set. -/
  | afterimageSigned
  /-- AI_RELEASE (R449). A write of 1 to RAS_AI.VALID releases the afterimage extents. -/
  | aiRelease
  /-- WATCHDOG_ANSWER (R455). Topsoil answers Bedrock's watchdog. -/
  | watchdogAnswer
  /-- WATCHDOG_EXPIRY (R455). The watchdog goes unanswered for 1 s, and the fatal cause WATCHDOG is raised. -/
  | watchdogExpiry
  /-- TOPSOIL_REQUEST (R455). Bedrock serves a Topsoil request or refuses it with an ALARM. -/
  | topsoilRequest (req : TopReq)
  /-- POWER_UP (R514). The input rises through 50.0 V, and the auxiliary converter and steward supplies start. -/
  | powerUp
  /-- AUX_STOP (R498). The input falls through 40.0 V, and the auxiliary converter stops. -/
  | auxStop
  /-- DEVICE_BOOT (R457). At the later of RESET_N rising and regulation, the straps are sampled and the mask ROM starts boot. -/
  | deviceBoot (straps : Dword)
  /-- BOOT_STAGE (R457). A boot stage completes and the next begins. -/
  | bootStage (obs : BootObs)
  /-- REFWAIT_RETRY (R458). Every 10 ms in REFWAIT the monitor judges both sources again. -/
  | refwaitRetry (refclkOk crystalOk : Bool)
  /-- TOPSOIL_READY (R457). Topsoil reports ready, queue 0 admits commands and the watchdog is armed. -/
  | topsoilReady
  /-- TOPSOIL_START_TIMEOUT (R460). Topsoil fails to report ready within 2 s and is restarted, or recovery follows. -/
  | topsoilStartTimeout
  /-- FLASH_WRITE_DONE (R478). A flash write of a delivered object ends, and the completing chunk completes. -/
  | flashWriteDone (ok : Bool)
  /-- TELEM_RECORD_RECEIVE (R484). A telemetry record enters its class's ring with its SEQ, coalescing or dropping under overload. -/
  | telemRecordReceive (t : Site)
  /-- TELEM_DATAGRAM_SEND (R486). A telemetry datagram leaves when full or when its oldest record has waited 1 ms. -/
  | telemDatagramSend (cls : Nat)
  /-- ALARM_RESEND (R487). Every ARETX × 10 ms an unacknowledged ALARM is sent again. -/
  | alarmResend
  /-- TELEM_AACK_WRITE (R487). A write of TELEM_AACK acknowledges ALARM records up to a SEQ, and a backward write is ignored. -/
  | telemAackWrite (v : Dword)
  /-- SUMMARY_CLOSE (R490). An open SUMMARY closes after 1 ms or when the ring drains, and it enters the ring. -/
  | summaryClose (code : Nat)
  /-- MESH_CFG_WRITE (R526). A write of ESCWAIT below 16 stores 16 and reaches every router within 10 µs. -/
  | meshCfgWrite (v : Dword)
  /-- MESH_ROUTER_QUERY (R527). A read of MESH_RERR or MESH_RLINK asks the selected router for its state. -/
  | meshRouterQuery (rlink : Bool)
  /-- ROUTE_TABLE_READ (R528). A read of ROUTE_TDATA fetches the selected table entry from its router. -/
  | routeTableRead
  /-- REGISTER_WRITE (R8). A write to a register with no row of its own stores, clears or ignores its fields by type. -/
  | registerWrite (addr : Nat) (v : Dword)
  /-- ILLEGAL_INSTRUCTION (R118). The core decodes a word with a reserved major opcode, such as the all-zero word, and raises ILLEGAL. -/
  | illegalInstruction (t : Site)
  /-- REFERENCE_EDGE_GAP (R387). The reference shows no edge for more than 8 RC cycles, and within 2 RC cycles the monitor fails over GCLK to the RC oscillator. -/
  | referenceEdgeGap
  /-- FORWARDED_CLOCK_STOP (R397). A neighbour router whose forwarded clock from a field has stopped for 16 MCLK declares that link failed, as under R20. -/
  | forwardedClockStop (r : Site) (p : Port)
  /-- TILE_RESET_TIMEOUT (R436). A tile named by RAS_RESET with DOMAIN TILE has not left reset within 20 µs, and Bedrock retires it. -/
  | tileResetTimeout (t : Site)
  /-- HOST_LINK_CHANGE (R339). A host port gains or loses PCS lock and link with its partner, updating LINK and PCSLOCK, correcting a receive-pair swap and holding or resuming its traffic. -/
  | hostLinkChange (a : Nat) (up swapped : Bool)
  /-- SECURE_ASSOCIATION (R470). Bedrock's MKA exchange with the peer brings a MACsec secure association live on a port, or loses it, which sets or clears HOST_PORT_STAT.MACSEC. -/
  | secureAssociation (a : Nat) (live : Bool)
  /-- PFC_FRAME (R339). A priority flow control frame is received on the PFCPRI priority and pauses or resumes the port's transmission on that priority. -/
  | pfcFrame (a : Nat) (pause : Bool)
  /-- PTP_EVENT_MESSAGE (R339). A PTP event message passes the MII and receives its IEEE 1588 hardware timestamp, with a one-step timestamp written into a transmitted Sync. -/
  | ptpEventMessage (a : Nat) (transmitSync : Bool) (time : Nat)
  /-- TAP_ACCESS (R456). The TAP on TCK, TMS, TDI and TRST_N executes an IEEE 1149.1 instruction, with private instructions active only under SERVICE and acting as BYPASS otherwise. -/
  | tapAccess (code : TapInstr)
  /-- STEWARD_SUPPLY_LOSS (R515). The steward-field supplies leave regulation, and PWR_OK goes low until the next DEVICE reset brings them back. -/
  | stewardSupplyLoss
  deriving DecidableEq, Repr

end Sys2Proof
end

