-- ==== Sys2Proof/Decode.lean ====
section
/-!
DEFINITION. The decoder asked of a block over the rows of the table that give bits. No row of this hardware's table gives
any, so no word spells a command (DESIGN CHOICE, notes/assumptions/1.md).
-/
namespace Sys2Proof

/-- The command that a word spells by the table's bits: none, because the table gives no row bits. -/
def decodeTableWord (_nbits _w : Nat) : Option Instr := none

end Sys2Proof
end

