-- ==== Sys2Proof/Config.lean ====
section
/-!
DEFINITION. What the part fixes: the counts of its units, what its certificate and its fuses hold, the functions of its
cryptographic engines, and the values the spec leaves free. A free value is an opaque constant: no proof can see it
(DESIGN CHOICE, notes/assumptions/4.md, 5.md).
-/
namespace Sys2Proof.Config

/-- Host command queues (R347, R524). -/
def hostQueues : Nat := 64
/-- Plots of a device (R254). -/
def plots : Nat := 64
/-- Lines of a loam column: 96 MiB of 64 B (R74). -/
def loamLines : Nat := 1572864
/-- Receive ports of an NI (R220). -/
def tilePorts : Nat := 64
/-- Steering units of an NI (R234). -/
def steerUnits : Nat := 4
/-- Numbers of clock multiplexers: 0, 1 and 64 to 127 (R389, R524). -/
def clkMuxes : Nat := 128
/-- Shadow set slots (R359). -/
def shadowSlots : Nat := 8
/-- RoCEv2 queue pairs (R342). -/
def qps : Nat := 1024
/-- Optical ports (R309). -/
def optPorts : Nat := 112

/-- Whether field F is present (R11): the PRESENT bits of ID_FPRESENT. -/
def fieldPresent (f : Nat) : Bool := decide (f < 64) && (0x3CFFFFFFFFFFFF3C : Nat).testBit f

/-- A free value of a step: what the spec leaves open, taken with the state's own counter (DESIGN CHOICE, notes/assumptions/4.md). -/
opaque free : Nat → Dword
/-- A free value that is a function of two operands. -/
opaque freeOf : Nat → Nat → Nat → Dword

/-- Whether a fused multiply-add of zero, infinity and a quiet NaN raises NV: the standard leaves it open (R83). -/
opaque fmaNanInvalid : Bool

/-- The hash of the boot and placement chapters, SHA3-512 (R262, R467). -/
opaque sha3 : List Byte → BitVec 512
/-- ML-DSA verification under a public key (R463 to R468). -/
opaque mldsaVerify : (key msg sig : List Byte) → Bool
/-- The signature under the device's identity key; under SERVICE the device has another key (R446, R462, R474). -/
opaque mldsaSign : (service : Bool) → (msg : List Byte) → List Byte
/-- The device's identity and wrapping public keys (R462, R463). -/
opaque identityKey : (service : Bool) → List Byte
opaque wrappingKey : (service : Bool) → List Byte
/-- The Nothes factory keys and image keys that the mask ROM holds (R463, R467). -/
opaque factoryKey : Nat → List Byte
opaque imageKey : Nat → List Byte
/-- ML-KEM decapsulation by the wrapping key and AES-GCM opening of a wrapped MKA key; none where the tag does not match (R470). -/
opaque unwrap : (service : Bool) → (sealed : List Byte) → Option (List Byte)
/-- The MAC addresses of ports A and B: locally administered, derived from SERIAL in a way the spec does not give (R470). -/
opaque mac : Nat → BitVec 48
/-- The device certificate in the identity region of flash (R463); its first 16 bytes are SERIAL. -/
opaque certificate : List Byte
/-- SHA3-512 of the repair map in force (R473), whose bytes in flash the spec does not lay out. -/
opaque repairDigest : List (List Nat) → BitVec 512
/-- ML-DSA signatures have this many bytes (FIPS 204, ML-DSA-87). -/
def sigBytes : Nat := 4627

end Sys2Proof.Config
end

