-- ==== Sys2Proof/Machine/Map.lean ====
section
/-!
DEFINITION. The one canonical form of sparse data in the state: a list of (key, value) pairs with strictly rising keys
and no entry equal to what an unlisted key reads as. Memory, the register files and the tables of units are all held so.
-/
namespace Sys2Proof.Machine

/-- What key k holds: the listed value, or d k where k is not listed. -/
def mapGet {α : Type} (d : Nat → α) : List (Nat × α) → Nat → α
  | [], k => d k
  | (j, v) :: m, k => if k = j then v else mapGet d m k

/-- The list with key k bound to v, in rising order. -/
def mapPut {α : Type} : List (Nat × α) → Nat → α → List (Nat × α)
  | [], k, v => [(k, v)]
  | (j, w) :: m, k, v => if k < j then (k, v) :: (j, w) :: m else if k = j then (k, v) :: m else (j, w) :: mapPut m k v

/-- The list without key k. -/
def mapDel {α : Type} : List (Nat × α) → Nat → List (Nat × α)
  | [], _ => []
  | (j, w) :: m, k => if k = j then m else (j, w) :: mapDel m k

/-- Key k now holds v; a value equal to the default is not listed, so that equal contents are equal lists. -/
def mapSet {α : Type} [DecidableEq α] (d : Nat → α) (m : List (Nat × α)) (k : Nat) (v : α) : List (Nat × α) :=
  if v = d k then mapDel m k else mapPut m k v

/-- Every listed value rewritten; what comes to equal the default is no longer listed. -/
def mapEach {α : Type} [DecidableEq α] (d : Nat → α) (f : α → α) (m : List (Nat × α)) : List (Nat × α) :=
  (m.map (fun e => (e.1, f e.2))).filter (fun e => decide (e.2 ≠ d e.1))

/-- Keys strictly above lo and rising. -/
def mapSorted {α : Type} : Option Nat → List (Nat × α) → Bool
  | _, [] => true
  | none, (j, _) :: m => mapSorted (some j) m
  | some lo, (j, _) :: m => decide (lo < j) && mapSorted (some j) m

/-- The canonical form. -/
def mapWf {α : Type} [DecidableEq α] (d : Nat → α) (m : List (Nat × α)) : Bool :=
  mapSorted none m && m.all (fun e => decide (e.2 ≠ d e.1))

end Sys2Proof.Machine
end

