-- ==== Sys2Proof/Machine/Device.lean ====
section
/-!
DEFINITION. The state of the units that serve the whole module: repair map, plots, host queues, shadow sets, facets and
cascade unit, clocks, supply, heat, resets, boot, telemetry (chapters 8 and 10 to 18 of the spec). Plain data. Registers
that software reads live in the steward register file of State; the structures here hold what has no register.
-/
namespace Sys2Proof.Machine

/-! ### Repair map and tables -/

/-- The repair map (R50, R420, R436, R437, R532). Sites are held by their keys. -/
structure Repair where
  deadTiles   : List Nat
  deadRouters : List Nat
  retired     : List Nat
  promoted    : List Nat
  deadUnits   : List Nat
  badSpills   : List Nat
  retiredFields : List Nat
  /-- spared rows: site key, bank, logical row, spare (R50, R54) -/
  rows        : List (Nat × Nat × Nat × Nat)
  /-- banks that have needed a 17th spare: site key, bank (R55) -/
  exhausted   : List (Nat × Nat)
  /-- failed loam layers: site key, layer (R420) -/
  layers      : List (Nat × Nat)
  deriving DecidableEq, Repr

def Repair.empty : Repair :=
  { deadTiles := [], deadRouters := [], retired := [], promoted := [], deadUnits := [], badSpills := [],
    retiredFields := [], rows := [], exhausted := [], layers := [] }

/-- What the routing and escape tables in force were built from (R27, R29): dead routers, failed links as site key and
port number, and the fields in PENUMBRA and UMBRA at the table instant. The tables are functions of it. -/
structure TableBasis where
  dead      : List Nat
  links     : List (Nat × Nat)
  penumbra  : List Nat
  umbra     : List Nat
  deriving DecidableEq, Repr

/-! ### Plots -/

/-- A 64 KiB extent of loam: site key and loam offset (R269, R351). -/
structure Extent where
  site : Nat
  off  : Nat
  deriving DecidableEq, Repr

/-- A package in a plot's staging area (R351): its size, its extents, the byte ranges written since MODE 0. -/
structure Package where
  size    : Nat
  extents : List Extent
  written : List (Nat × Nat)
  deriving DecidableEq, Repr

/-- The region of a package that a column holds: kind 0 frame image, 1 weight shard, 2 OPT block; its layer, the number of its tile
in raster order, package offset, length, column, loam offset, digest (R268, R277, R351). -/
structure Region where
  kind   : Nat
  layer  : Nat
  tile   : Nat
  pkgOff : Nat
  len    : Nat
  site   : Nat
  loam   : Nat
  digest : BitVec 512
  deriving DecidableEq, Repr

/-- What a layer record says that placement uses after the package is gone (R259). -/
structure LayerRec where
  roles    : Nat
  frameb   : Nat
  datab    : Nat
  shardb   : Nat
  conns    : Nat
  ports    : Nat
  hslots   : Nat
  steer    : Nat
  bars     : Nat
  tree0    : Nat
  treen    : Nat
  flags    : Nat
  frameOff : Nat
  shardOff : Nat
  optOff   : Nat
  optl     : Nat
  jfirst   : Nat
  jcount   : Nat
  deriving DecidableEq, Repr

/-- A stage of a join's path: role, time, β (R261). -/
structure Stage where
  role : Nat
  time : Nat
  beta : Nat
  deriving DecidableEq, Repr

/-- A join record (R261). -/
structure JoinRec where
  layer  : Nat
  index  : Nat
  fork   : Nat
  join   : Nat
  port   : Nat
  nshort : Nat
  nlong  : Nat
  tau    : Nat
  j      : Nat
  short  : List Stage
  long   : List Stage
  deriving DecidableEq, Repr

/-- What Tilth computed for a join (R271, R272): layer, index, role of the join, port, τ, σ, λ, β, Θ, SLOTS, SPEN, SPQ. -/
structure JoinSet where
  layer : Nat
  index : Nat
  role  : Nat
  port  : Nat
  tau   : Nat
  sigma : Nat
  lam   : Nat
  beta  : Nat
  theta : Nat
  slots : Nat
  spen  : Nat
  spq   : Nat
  deriving DecidableEq, Repr

/-- A prism tree of a plot by roles (R262): its number, its root and its leaves. -/
structure TreeRec where
  num    : Nat
  root   : Nat
  leaves : List Nat
  deriving DecidableEq, Repr

/-- What Tilth computed for a plot (R263 to R274): everything the layout of a column and a store follows from. -/
structure Placement where
  seq     : Nat
  flags   : Nat
  /-- usable tiles in raster order, by site key (R256, R263) -/
  tiles   : List Nat
  mirror  : Bool
  train   : Bool
  split   : Bool
  layers  : List LayerRec
  kvb     : Nat
  actb    : Nat
  optb    : Nat
  beatcyc : Nat
  ntree   : Nat
  kvslots : Nat
  /-- sequence slots allotted (R270) -/
  slots   : List Nat
  /-- prism trees: the package's, then the release trees (R262) -/
  trees   : List TreeRec
  /-- layer, barrier group and number of each release tree (R262) -/
  groups  : List (Nat × Nat × Nat)
  recs    : List JoinRec
  joins   : List JoinSet
  /-- per tile: spill site key and index among the tiles it serves (R267) -/
  spill   : List (Nat × Nat)
  regions : List Region
  /-- regions that a re-placement could not copy (R277) -/
  missing : List Region
  /-- its first write has been made: Tilth's first move of a region (R356) -/
  moved   : Bool
  deriving DecidableEq, Repr

/-- A RUN in progress (R351, R369, R440). -/
structure RunSt where
  seq      : Nat
  args     : List Word
  /-- site keys of the tiles whose frame report has come, with what they stage next (R369) -/
  reports  : List (Nat × Option Nat)
  /-- KEEP-INPUTS when it started (R370) -/
  keep     : Bool
  deriving DecidableEq, Repr

/-- A fence in progress or in force (R426, R427): what its record says, the SEQ of the command that caused it with the STATUS
it gives that command, whether the RUN is to be replayed, and whether it ended at the limit. -/
structure FenceSt where
  cause   : Nat
  cycle   : Nat
  queue   : Nat
  seq     : Nat
  tile    : Option Nat
  engine  : Nat
  field   : Nat
  more    : Nat
  tcause  : Nat
  epc     : Word
  tval    : Word
  culprit : Option Nat
  status  : Nat
  replay  : Option RunSt
  cut     : Bool
  deriving DecidableEq, Repr

/-- A cap-controller estimate of one phase (R402), in mW. -/
structure Phase where
  num   : Nat
  est   : Nat
  deriving DecidableEq, Repr

structure PlotSt where
  pkg     : Option Package
  /-- a PLACE result that waits for its commit instant (R276) -/
  placing : Option Placement
  placed  : Option Placement
  /-- the layer whose frames are in force, for the frames that are reloaded (R266) -/
  layer   : Nat
  /-- the text of the latest placement record (R278) -/
  record  : List Byte
  run     : Option RunSt
  fence   : Option FenceSt
  /-- the drain of an ABORTed RUN is in progress (R252, R356) -/
  draining : Bool
  /-- beats begun, and whether the beat group is complete (R326, R327) -/
  begun    : Nat
  marks    : Nat
  beatDone : Bool
  sentSlip : Bool
  /-- completed cascade barriers (R334) -/
  barEpoch : Nat
  phase    : Option Nat
  phases   : List Phase
  /-- UE_RING of the plot's tiles (R307) -/
  ueRing   : Dword
  deriving DecidableEq, Repr

def PlotSt.reset : PlotSt :=
  { pkg := none, placing := none, placed := none, layer := 0, record := [], run := none, fence := none, draining := false, begun := 0,
    marks := 0, beatDone := false, sentSlip := false, barEpoch := 0, phase := none, phases := [], ueRing := 0 }

/-! ### Host side -/

/-- A command accepted on a host queue and still outstanding (R347). -/
structure HostCmd where
  seq     : Nat
  op      : Nat
  timeout : Nat
  cookie  : Dword
  npart   : Nat
  flags   : Nat
  port    : Nat
  body    : List Byte
  started : Bool
  part    : Nat
  codes   : List Nat
  data    : List Byte
  /-- the STATUS it is to stop with, once what is in flight has ended (R356) -/
  stop    : Option Nat
  deriving DecidableEq, Repr

/-- A completion record (R349): SEQ, STATUS and the whole frame. -/
structure Completion where
  seq    : Nat
  status : Nat
  frame  : List Byte
  deriving DecidableEq, Repr

structure HostQueue where
  cmds  : List HostCmd
  done  : List Completion
  /-- the attestation report of the latest offset-0 QUERY (R474) -/
  report : Option (List Byte)
  deriving DecidableEq, Repr

def HostQueue.reset : HostQueue := { cmds := [], done := [], report := none }

/-- What leaves the module on the host ports, on the TAP and on the facets' control path, in order. -/
inductive HostOut where
  | frame (port : Nat) (bytes : List Byte)                   -- VHCP receipt or completion (R345)
  | nak (port qpn : Nat)                                     -- remote access error (R343)
  | ack (port qpn : Nat)
  | readData (port qpn : Nat) (bytes : List Byte)
  | rdmaRead (qpn : Nat) (va : Dword) (rkey : Word) (len : Nat)       -- R351
  | rdmaWrite (qpn : Nat) (va : Dword) (rkey : Word) (bytes : List Byte)
  | telemetry (port : Nat) (cls : Nat) (dseq : Nat) (recs : List TRec)  -- R485
  | sync (port : Nat) (time : Nat)                           -- one-step timestamp (R339)
  | tdo (value : Word)                                       -- what the TAP shifts out (R456)
  deriving DecidableEq, Repr

/-- A device RDMA request in flight: queue, kind, package or dump offset, length, context, retries made, and the request (R351, R530). -/
structure Rdma where
  queue : Nat
  write : Bool
  off   : Nat
  len   : Nat
  qp    : Nat
  tries : Nat
  msg   : HostOut
  deriving DecidableEq, Repr

/-- A host port's running state (R339, R507): whether its peer has paused the RoCEv2 priority, whether the receive pairs' swap is being
corrected, the latest IEEE 1588 timestamp, and what waits for the link or for the end of a pause. -/
structure HostPort where
  paused  : Bool
  swapped : Bool
  stamp   : Nat
  held    : List HostOut
  deriving DecidableEq, Repr

/-! ### Shadow sets -/

structure ShadowItem where
  item  : Nat
  plot  : Nat
  value : Dword
  deriving DecidableEq, Repr

/-- A shadow set in its slot (R359, R379). state: 0 STAGING, 1 CHECKED, 2 FAILED, 3 ARMED. -/
structure ShadowSet where
  num    : Nat
  owner  : Nat
  state  : Nat
  code   : Nat
  items  : List ShadowItem
  whenKind : Nat
  instant  : Nat
  /-- WHEN and instant of the COMMIT that armed it, and whether I has been sent (R366) -/
  want   : Nat
  named  : Nat
  sent   : Bool
  deriving DecidableEq, Repr

/-! ### Facets and the cascade unit -/

/-- A relay entry (R322): its number, which the link's grains name at both ends, the tile's site and connection on this module, the
plot, the tag of the OPEN at its source, the OPENs made to the target so far, whether the connection is open, and whether this
module opened it. -/
structure Relay where
  idx    : Nat
  site   : Nat
  conn   : Nat
  plot   : Nat
  tag    : Nat
  tries  : Nat
  opened : Bool
  mine   : Bool
  deriving DecidableEq, Repr

/-- One optical port (R310 to R314). -/
structure OptPort where
  txSeq   : Nat
  rxSeq   : Nat
  credit  : Nat
  freed   : Nat
  /-- the frame of the current slot -/
  line    : Option FacetFrame
  replay  : List FacetFrame
  resend  : List FacetFrame
  discarding : Bool
  fails   : Nat
  /-- entries of the receive buffer, oldest first, each with the grains that have not left it -/
  rxbuf   : List (List Grain)
  req     : List Grain
  rpl     : List Grain
  dat     : List Grain
  turn    : Nat
  /-- control grains of this link that wait to be sent, and that have come in -/
  ctrl    : List CtrlGrain
  ctrlIn  : List CtrlGrain
  relays  : List Relay
  deriving DecidableEq, Repr

def OptPort.reset : OptPort :=
  { txSeq := 0, rxSeq := 0, credit := 0, freed := 0, line := none, replay := [], resend := [], discarding := false, fails := 0,
    rxbuf := [], req := [], rpl := [], dat := [], turn := 0, ctrl := [], ctrlIn := [], relays := [] }

/-- A facet's link-up (R315, R316): the joined lanes, the nonce sent, and the segments of the peer's message received. -/
structure FacetRt where
  joined : BitVec 14
  nonce  : List Byte
  segs   : List (Nat × List Byte)
  deriving DecidableEq, Repr

/-- The cascade unit (section "The cascade unit" of chapter 10). -/
structure Casc where
  /-- SHADOW_CYCLE at which the lead sent FORM -/
  formSent   : Option Nat
  rosterSent : Bool
  /-- control grains taken from the facets, in order; true for one that came from the upstream neighbour -/
  inbox      : List (Bool × CtrlGrain)
  /-- per set number the positions whose CHECKED the lead holds (R335) -/
  checked    : List (Nat × List Nat)
  /-- per plot and epoch the positions whose BARARR the lead holds; per plot the latest epoch released (R334) -/
  arrivals   : List (Nat × Nat × List Nat)
  released   : List (Nat × Nat)
  /-- the beat of the latest slip, a slip that the next MARK declares, SLIPREQs counted (R333) -/
  slipBeat   : Option Nat
  slipDue    : Bool
  slipReqs   : Nat
  /-- sets that a COMMIT names, with their beats (R335) -/
  commitBeat : List (Nat × Nat)
  /-- MARKs of the lead that have not returned: beat, SHADOW_CYCLE -/
  markSent   : List (Nat × Nat)
  running    : Bool
  /-- control grains to be sent downstream and upstream -/
  down : List CtrlGrain
  up   : List CtrlGrain
  deriving DecidableEq, Repr

def Casc.reset : Casc :=
  { formSent := none, rosterSent := false, inbox := [], checked := [], arrivals := [], released := [], slipBeat := none,
    slipDue := false, slipReqs := 0, commitBeat := [], markSent := [], running := false, down := [], up := [] }

/-! ### Clocks, power, heat -/

/-- A multiplexer's switch in progress: the source it goes to (R389). -/
structure MuxRt where
  target : Nat
  deriving DecidableEq, Repr

/-- A field's running state: droop clamp, coming PLL point and field state, thermal timers in samples, the history of its shorts. -/
structure FieldRt where
  /-- the clamp's rate while it acts; 0 holds issue (R406) -/
  clamp     : Option Nat
  droops    : List Nat
  /-- operating point the PLL slews to: 0 OFF, 1 LOCK, 2 LOW -/
  pllTo     : Option Nat
  /-- the field state the change in progress ends in (R397) -/
  stateTo   : Option Nat
  /-- what the thermal rules ask for: 0 LIT, 1 PENUMBRA, 3 emergency UMBRA, 4 powering up (R411) -/
  asked     : Option Nat
  /-- samples in a row: at or above HOT, at the least ceiling and at or above WARN, below WARN − 10, and toward the next step up or
  down of the ceiling (R411) -/
  hot       : Nat
  atOne     : Nat
  cool      : Nat
  warm      : Nat
  below     : Nat
  warned    : Bool
  /-- the thermal rules have darkened the field (R411) -/
  thermal   : Bool
  /-- back from UMBRA, and not yet scanned (R397, R444) -/
  untested  : Bool
  /-- the stage is latched off by a short (R413), and the SHADOW_CYCLE of the field's shorts -/
  latched   : Bool
  shorts    : List Nat
  /-- plots that Tilth re-places once the field is retired or back in LIT (R414) -/
  lost      : List Nat
  /-- spill sites that failed in the latest scan (R443) -/
  failed    : List Nat
  deriving DecidableEq, Repr

def FieldRt.reset : FieldRt :=
  { clamp := none, droops := [], pllTo := none, stateTo := none, asked := none, hot := 0, atOne := 0, cool := 0, warm := 0, below := 0,
    warned := false, thermal := false, untested := false, latched := false, shorts := [], lost := [], failed := [] }

/-- The supply monitor (R408 to R410). -/
structure Supply where
  low49   : Nat
  low46   : Nat
  good    : Nat
  over58  : Nat
  over60  : Nat
  lowest  : Nat
  warnAt  : Nat
  ceil    : Nat
  /-- steps down of the overload in progress, which FIXED-RATE takes (R409) -/
  drops   : Nat
  /-- stage of the shutdown in progress or done: 0 none, 1 decided, 2 fenced, 3 fields dark, 4 done -/
  stage   : Nat
  /-- the auxiliary converter runs (R498); the input's last sample in 10 mV units -/
  aux     : Bool
  steward : Bool
  vin     : Nat
  deriving DecidableEq, Repr

/-- The reference monitor (R383, R387, R388). -/
structure RefMon where
  failed   : Option RefSrc
  goodRuns : Nat
  deriving DecidableEq, Repr

/-! ### Resets, boot, telemetry -/

/-- The reset domains (R431) with their targets. -/
inductive Domain where
  | device | warm
  | field (f : Nat)
  | plot (p : Nat)
  | tile (t : Site)
  deriving DecidableEq, Repr

/-- A delivery of a signed object by RECOVER (R477). -/
structure Delivery where
  queue  : Nat
  total  : Nat
  /-- the loam it is collected in, in service -/
  extents : List Extent
  /-- the ranges received, rising and apart, each as its first byte and the one after its last -/
  got    : List (Nat × Nat)
  /-- the bytes collected in spill SRAM, in recovery -/
  cells  : List Host.Cell
  deriving DecidableEq, Repr

/-- The flash write of a verified object (R478). -/
structure FlashWrite where
  queue : Nat
  kind  : Nat
  obj   : List Byte
  deriving DecidableEq, Repr

structure Boot where
  /-- the mask ROM runs: time 0 of R383 has passed -/
  running  : Bool
  tries    : Nat
  /-- the watchdog is armed, and the SHADOW_CYCLE of its latest answer (R455) -/
  watchdog : Bool
  answered : Nat
  /-- bytes of the configuration block, roster block and image in force; empty for none -/
  config   : List Byte
  roster   : List Byte
  image    : List Byte
  /-- the configuration block whose addresses and MKA key the latest DEVICE reset applied (R457, R472) -/
  applied  : List Byte
  /-- the attestation report with NONCE 0 that READY signed (R474) -/
  report   : List Byte
  delivery : Option Delivery
  writing  : Option FlashWrite
  deriving DecidableEq, Repr

def Boot.reset : Boot :=
  { running := false, tries := 0, watchdog := false, answered := 0, config := [], roster := [], image := [], applied := [], report := [], delivery := none,
    writing := none }

/-- A scan in progress (R443). -/
structure Scan where
  field : Nat
  next  : Nat
  active : Bool
  deriving DecidableEq, Repr

structure Telem where
  alarms : List TRec
  /-- how many of the held ALARM records have been sent -/
  alarmSent : List Nat
  events : List TRec
  traces : List TRec
  sums   : List TRec
  aseq   : Nat
  eseq   : Nat
  tseq   : Nat
  dseqA  : Nat
  dseqE  : Nat
  dseqT  : Nat
  deriving DecidableEq, Repr

def Telem.reset : Telem :=
  { alarms := [], alarmSent := [], events := [], traces := [], sums := [], aseq := 0, eseq := 0, tseq := 0, dseqA := 0,
    dseqE := 0, dseqT := 0 }

end Sys2Proof.Machine
end

