-- ==== Sys2Proof/Machine/Tile.lean ====
section
/-!
DEFINITION. The state of one site: the router, and for a compute tile its core, engine queues, network interface, update
engine, store and loam side (chapters 1, 2, 4, 5, 7 and 9 of the spec). Plain data.
-/
namespace Sys2Proof.Machine

/-! ### The router -/

/-- A grain in an input buffer, with the output its router has chosen and whether it is due to move to ESC (R17, R31). -/
structure Buffered where
  grain  : Grain
  out    : Port
  dueEsc : Bool
  deriving DecidableEq, Repr

/-- One input port: four virtual-channel buffers (R16) and the state of the link receiver (R19). -/
structure InPort where
  req : List Buffered
  rpl : List Buffered
  dat : List Buffered
  esc : List Buffered
  /-- true from a CRC failure until the failed grain has been sent again -/
  discarding : Bool
  /-- CRC failures in a row on the same grain -/
  fails : Nat
  deriving DecidableEq, Repr

/-- One output port: the grains on the wire, the replay store of 8 (R19), credit downstream (R16) and the rotating
pointers (R18). -/
structure OutPort where
  wire    : List Grain
  replay  : List Grain
  creq    : Nat
  crpl    : Nat
  cdat    : Nat
  cesc    : Nat
  /-- grains the receiver has asked to have sent again, oldest first -/
  resend  : List Grain
  /-- credits on the sideband toward this output, one entry per freed entry downstream (R17) -/
  credits : List VC
  turn    : Nat
  turnIn  : Nat
  /-- the link was declared failed (R20) -/
  failed  : Bool
  deriving DecidableEq, Repr

/-- A router with the local port's two queues to and from its NI or service unit. -/
structure Router where
  iN : InPort
  iE : InPort
  iS : InPort
  iW : InPort
  iL : InPort
  oN : OutPort
  oE : OutPort
  oS : OutPort
  oW : OutPort
  oL : OutPort
  /-- MESH_RERR.CRC and HDR of this router (R527) -/
  crc : Nat
  hdr : Nat
  /-- the SHADOW_CYCLE of the latest LINKFAIL answer per prism tree (R39) -/
  prismErr : List (Nat × Nat)
  deriving DecidableEq, Repr

def InPort.empty : InPort := { req := [], rpl := [], dat := [], esc := [], discarding := false, fails := 0 }
def OutPort.empty : OutPort :=
  { wire := [], replay := [], creq := 8, crpl := 8, cdat := 8, cesc := 8, resend := [], credits := [], turn := 0,
    turnIn := 0, failed := false }
def Router.empty : Router :=
  { iN := .empty, iE := .empty, iS := .empty, iW := .empty, iL := .empty, oN := .empty, oE := .empty, oS := .empty,
    oW := .empty, oL := .empty, crc := 0, hdr := 0, prismErr := [] }

/-! ### The control core -/

/-- Whether the core executes (R111, R140, R148, R427). -/
inductive CoreRun where
  | stopped | running | finished
  deriving DecidableEq, Repr

/-- What a core that blocks waits for (R133), and FIN's wait (R140). -/
inductive Blocked where
  | waitc (q : Nat) (ticket : Word)
  | waitm (mask : Nat)
  | issue (q : Nat) (desc : Desc) (rd : Nat)
  | openConn (tag : Nat) (rd : Nat)
  | send (conn addr len slot : Nat)
  | bar (n : Nat)
  | wfe
  | frame (f : Nat)
  | fin
  deriving DecidableEq, Repr

/-- One entry of the store buffer: an aligned 8 B word, the bytes written and their values (R114). -/
structure SbEntry where
  addr : Nat
  mask : BitVec 8
  data : Dword
  deriving DecidableEq, Repr

/-- One word of the fetch buffer, and whether its read met an uncorrectable error (R113, R144). -/
structure FetchWord where
  data : Dword
  bad  : Bool
  deriving DecidableEq, Repr

/-- The tile's shadow slot of staged keys (R141). -/
structure Staged where
  frame  : Option Nat
  genCfg : Option Word
  wlimit : Option Word
  he     : Option Bool
  deriving DecidableEq, Repr

/-- A configuration-frame switch in progress (R142, R250). -/
structure Switch where
  frame   : Nat
  /-- true once the header has been loaded and the open list sent -/
  opening : Bool
  entry   : Nat
  deriving DecidableEq, Repr

/-- The message a running handler holds, as the port and the place in its record queue (R138, R243). -/
structure HeldMsg where
  port : Nat
  off  : Nat
  deriving DecidableEq, Repr

structure Core where
  regs   : Vector Word 32
  bank   : Vector Word 8
  preds  : BitVec 8
  pc     : BitVec 19
  run    : CoreRun
  blocked : Option Blocked
  /-- SHADOW_CYCLE at which the current blocking instruction began (R426) -/
  blockedAt : Nat
  /-- STATUS.T, H, HE (R110) -/
  trapT  : Bool
  handH  : Bool
  handE  : Bool
  /-- queues whose halt awaits its ENGINE_FAULT (R146); STATUS.PEND is 1 while there is one -/
  pendQ  : List Nat
  epc    : Word
  cause  : Word
  tval   : Word
  tvec   : Word
  hpc    : Word
  wlimit : Word
  cychi  : Word
  commits : Word
  frame  : Nat
  /-- SHADOW_CYCLE at the tile's latest reset: CYCLO counts from it -/
  cycBase : Nat
  staged : Staged
  stbuf  : List SbEntry
  /-- the fetch buffer: words from the one that holds the PC onward -/
  fetch  : List FetchWord
  switch : Option Switch
  held   : Option HeldMsg
  deriving DecidableEq, Repr

def Staged.none : Staged := { frame := .none, genCfg := .none, wlimit := .none, he := .none }

/-- The state of R111. -/
def Core.reset : Core :=
  { regs := Vector.replicate 32 0, bank := Vector.replicate 8 0, preds := 1, pc := 0, run := .stopped, blocked := none,
    blockedAt := 0, trapT := false, handH := false, handE := false, pendQ := [], epc := 0, cause := 0, tval := 0,
    tvec := 0, hpc := 0, wlimit := 0, cychi := 0, commits := 0, frame := 0, cycBase := 0, staged := .none, stbuf := [],
    fetch := [], switch := none, held := none }

/-! ### Engine queues -/

structure QEntry where
  desc   : Desc
  ticket : Word
  deriving DecidableEq, Repr

/-- A fault that has been detected and has not yet taken effect (R192). -/
structure Detected where
  cause    : Nat
  opnd     : Nat
  addr     : Nat
  progress : Nat
  deriving DecidableEq, Repr

/-- One sub-tile whose accumulators are final and which awaits its drain (R161, R168). -/
structure SubTile where
  row0   : Nat
  col0   : Nat
  rows   : Nat
  /-- groups each element received (the G of R167) -/
  groups : Nat
  /-- accumulators, row by row, 16 to a row -/
  acc    : List Word
  deriving DecidableEq, Repr

/-- Where REDUCE stands (R289, R290): pieces done, and which path's partial comes first at the own chunk. -/
structure ReduceSt where
  piece   : Nat
  falling : Bool
  deriving DecidableEq, Repr

/-- Where an orthogonalising UPDATE stands (R301): stage 0 to 6 and the pieces of the work at this tile. -/
structure OrthoSt where
  stage   : Nat
  iter    : Nat
  /-- UE products still to run on the TE at this point, and how many have run (R300) -/
  pend    : Nat
  prods   : Nat
  x : List Word
  y : List Word
  z : List Word
  g : List Word
  m : List Word
  sumsq : Word
  part  : List Word
  deriving DecidableEq, Repr

/-- What an engine still has to do for a started command. -/
inductive Work where
  | none
  | te (tiles : List SubTile)
  | ld (lines : Nat)                                  -- lines moved so far (R184)
  | tePair                                        -- checked, waits for its TX stream (R178)
  | txPair                                        -- checked, waits for its TE command (R178)
  | sends (item : Nat)                                -- items handed over so far (R230)
  | recv
  | put (sent answered : Nat)                         -- lines sent, WR grains answered (R233)
  | get (asked got : Nat)                             -- lines asked, half lines answered
  | reduce (r : ReduceSt)
  | ortho (o : OrthoSt)
  deriving DecidableEq, Repr

/-- A command that has started and has neither completed nor faulted (R68). -/
structure InFlight where
  entry  : QEntry
  flags  : Byte
  /-- every write of the command has been performed -/
  done   : Bool
  fault  : Option Detected
  progress : Nat
  /-- the sparse policy and seed taken at the checks (R212, R370) -/
  strict : Bool
  seed   : Dword
  groups : Nat
  vals   : Nat
  work   : Work
  deriving DecidableEq, Repr

structure Queue where
  entries : List QEntry
  flight  : List InFlight
  halted  : Bool
  icnt    : Word
  ccnt    : Word
  fdesc   : Desc
  fault   : Dword
  detail  : Dword
  hist    : Vector Byte 16
  sticky  : Dword
  deriving DecidableEq, Repr

def Queue.reset : Queue :=
  { entries := [], flight := [], halted := false, icnt := 0, ccnt := 0, fdesc := 0, fault := 0, detail := 0,
    hist := Vector.replicate 16 0, sticky := 0 }

/-! ### The network interface -/

/-- A connection the tile sends on (R222 to R226, R32, R34, R242). -/
structure TxConn where
  conn   : Nat
  dst    : Site
  kind   : Nat
  igr    : Nat
  items  : Nat
  bytes  : Nat
  recs   : Nat
  ring   : Nat
  woff   : Nat
  nextSeq : Nat
  unacked : Nat
  sticky : Bool
  /-- closed by CLOSE or by an ERR grain; frees its number when nothing is unacknowledged (R225) -/
  closed : Bool
  /-- grains handed to the NI that the window holds back: KIND, LAST, body (R34) -/
  q      : List (Nat × Bool × Payload)
  deriving DecidableEq, Repr

/-- The receiving end of a connection or of a pair context: the reorder window (R34). -/
structure RxConn where
  conn    : Nat
  src     : Site
  port    : Nat
  nextSeq : Nat
  held    : List Grain
  closing : Bool
  deriving DecidableEq, Repr

/-- A message record in a ring, in ring order (R241 to R243). -/
structure MsgRec where
  off   : Nat
  len   : Nat
  size  : Nat
  slot  : Nat
  src   : Site
  conn  : Nat
  wrap  : Bool
  /-- released, once every earlier record is (R243) -/
  done  : Bool
  /-- the record lies in the lap of R248 -/
  lap   : Bool
  deriving DecidableEq, Repr

/-- The running state of a receive port (R220, R221, R231, R239). -/
structure PortRt where
  bound    : Option Nat
  /-- items whose last grain has come, items arrived, items released, the RECV target; the items that have come and not
  arrived lie in spill (R239) -/
  came     : Nat
  arrived  : Nat
  released : Nat
  target   : Nat
  /-- a grant of R248 is in force -/
  grant    : Bool
  msgs     : List MsgRec
  deriving DecidableEq, Repr

/-- An OPEN that awaits its answer (R223). -/
structure OpenReq where
  tag   : Nat
  conn  : Nat
  vx    : Nat
  vy    : Nat
  port  : Nat
  dst   : Site
  tries : Nat
  /-- the open-list entry of a frame header it belongs to (R249), or none for the OPEN instruction -/
  entry : Option Nat
  /-- timed out or abandoned for a trap (R134, R146) -/
  stale : Bool
  deriving DecidableEq, Repr

/-- The NI's state of one barrier group (R139, R245). -/
structure BarRt where
  arrived : Bool
  count   : Nat
  sent    : Bool
  deriving DecidableEq, Repr

/-- One pairing-queue entry (R235): item index and presence of A, B and T. -/
structure PairEnt where
  idx  : Nat
  hasA : Bool
  hasB : Bool
  hasT : Bool
  deriving DecidableEq, Repr

/-- The running state of a steering unit (R234, R235). -/
structure SteerRt where
  pairs : List PairEnt
  /-- MERGE: inputs (0 or 1) of the items that wait, in the order their last grains arrived -/
  order : List Nat
  deriving DecidableEq, Repr

/-- A digest a twin holds or sends (R438, R439). -/
structure Digest where
  point : Nat
  num   : Nat
  value : Dword
  deriving DecidableEq, Repr

structure Ni where
  tx     : List TxConn
  rx     : List RxConn
  ports  : List (Nat × PortRt)
  opens  : List OpenReq
  nextTag : Nat
  /-- grains delivered in SEQ order and not yet consumed -/
  ready  : List Grain
  /-- grains arrived at the local port and not yet taken -/
  inbox  : List Grain
  /-- grains handed to the router and not yet in its local input buffer -/
  outbox : List Grain
  bars   : List (Nat × BarRt)
  steer  : List (Nat × SteerRt)
  /-- messages that wait for dispatch, in arrival order: port and ring offset -/
  waiting : List HeldMsg
  /-- the connection of a SEND that has started (R242) -/
  sendLeft : Option Nat
  digests : List Digest
  twinNum : Nat
  /-- the telemetry queue of R483: EVENT and TRACE entries, the kept ALARM entry, the LOST count -/
  tele    : List TRec
  teleAlarm : Option TRec
  teleLost  : Nat
  deriving DecidableEq, Repr

def Ni.reset : Ni :=
  { tx := [], rx := [], ports := [], opens := [], nextTag := 0, ready := [], inbox := [], outbox := [],
    bars := [], steer := [], waiting := [], sendLeft := none, digests := [], twinNum := 0, tele := [], teleAlarm := none,
    teleLost := 0 }

def PortRt.reset : PortRt :=
  { bound := none, came := 0, arrived := 0, released := 0, target := 0, grant := false, msgs := [] }
def BarRt.reset : BarRt := { arrived := false, count := 0, sent := false }
def SteerRt.reset : SteerRt := { pairs := [], order := [] }

/-! ### The store's and the loam's own state -/

/-- One cache line's tag entry (R56). -/
structure Tag where
  valid : Bool
  dirty : Bool
  tag   : Nat
  deriving DecidableEq, Repr

/-- A cache miss whose line has been asked of the loam (R58). -/
structure Miss where
  line  : Nat
  store : Option (List Byte)
  strm  : Bool
  deriving DecidableEq, Repr

structure Cache where
  /-- key 4 * set + way -/
  tags   : List (Nat × Tag)
  /-- three tree pseudo-LRU bits per set -/
  plru   : List (Nat × Nat)
  /-- the write-back buffer of 8 lines, oldest first: line, poisoned, bytes -/
  wback  : List (Nat × Bool × List Byte)
  misses : List Miss
  deriving DecidableEq, Repr

structure Meta where
  /-- generation tag of each logical row, key = store offset [18:6] (R64) -/
  gens     : List (Nat × Nat)
  /-- the 512 MCLK clearing of R66 is in progress -/
  clearing : Bool
  /-- words in error in the store and not yet found, key = 8 B word number (R48) -/
  upsets   : List (Nat × Upset)
  /-- poisoned 8 B words of the store, rising (R53) -/
  poison   : List Nat
  /-- rows corrected once and written back (R51), key = bank * 512 + logical row -/
  once     : List Nat
  /-- remap tables: key bank * 512 + logical row, value spare 0 to 15 (R50) -/
  remap    : List (Nat × Nat)
  /-- scrub pointer of each bank (R49) -/
  scrub    : List (Nat × Nat)
  deriving DecidableEq, Repr

structure LoamCtl where
  openRow : Option Nat
  lastSrc : LoamSrc
  /-- lines poisoned by the scrub or by a lost dirty cache line (R421, R59) -/
  poison  : List Nat
  /-- SHADOW_CYCLE of the erasure corrections of each layer (R420) -/
  erased  : List (Nat × List Nat)
  scrub   : Nat
  /-- corrected lines that await their write-back (R419) -/
  wback   : List Nat
  deriving DecidableEq, Repr

/-- The tile power states (R394). -/
inductive TilePower where
  | active | idle | nap | dark
  deriving DecidableEq, Repr

structure Tile where
  core   : Core
  queues : Vector Queue 8
  /-- FU table slots 1 to 15, as the table's words (R181); an unlisted slot is the identity -/
  fu     : List (Nat × List Word)
  ni     : Ni
  /-- tile control registers by local address (R71, R253, R307) -/
  creg   : List (Nat × Dword)
  cache  : Cache
  info   : Meta
  loam   : LoamCtl
  power  : TilePower
  /-- the split-mode switch waits for its commands to end (R61): the mode it goes to -/
  splitTo : Option Bool
  /-- the TE issue rate backfill holds, while it runs (R407) -/
  backfill : Option Nat
  /-- after a barrier: the rate the climb of R407 has reached -/
  climb    : Option Nat
  /-- whether the last served TE start was a UE product (R300) -/
  ueTurn   : Bool
  deriving DecidableEq, Repr

def Cache.reset : Cache := { tags := [], plru := [], wback := [], misses := [] }
def Meta.reset : Meta :=
  { gens := [], clearing := false, upsets := [], poison := [], once := [], remap := [], scrub := [] }
def LoamCtl.reset : LoamCtl :=
  { openRow := none, lastSrc := .remote, poison := [], erased := [], scrub := 0, wback := [] }

/-- A tile that nothing has woken: the state of R433, DARK (R394, R459). -/
def Tile.reset : Tile :=
  { core := .reset, queues := Vector.replicate 8 .reset, fu := [], ni := .reset, creg := [], cache := .reset,
    info := .reset, loam := .reset, power := .dark, splitTo := none, backfill := none, climb := none,
    ueTurn := false }

/-- A tile after a reset that includes it (R433). -/
def Tile.awake : Tile := { Tile.reset with power := .active }

end Sys2Proof.Machine
end

