-- ==== Sys2Proof/Machine/State.lean ====
section
/-!
DEFINITION. The state of the module, its reset, and the reasons a command can stop. Every piece of state the spec names
is here; INVENTORY.md lists each with its rule.
-/
namespace Sys2Proof.Machine

/-- The afterimage (R446 to R448): what the dump walkers took of the frozen device, from which every byte of it follows. -/
structure AiSnap where
  cause   : Nat
  cycle   : Nat
  sites   : Nat
  lost    : Nat
  sreg    : List (Nat × Dword)
  /-- the steward registers that read other than the register file holds them -/
  shown   : List (Nat × Dword)
  tiles   : List (Nat × Tile)
  routers : List (Nat × Router)
  repair  : Repair
  plots   : List (Nat × PlotSt)
  alarms  : List TRec
  events  : List TRec
  noIdent : Bool
  service : Bool
  deriving DecidableEq, Repr

/-- The module. Maps are canonical (Machine/Map.lean); what they do not list stands at its reset value. -/
structure State where
  /-- the commands that wait, first in first out -/
  pending : List Instr
  /-- SHADOW_CYCLE: MCLK edges since DEVICE reset (R379) -/
  cycle   : Nat
  /-- the model's own counter of free values taken (DESIGN CHOICE, notes/assumptions/4.md) -/
  freeCtr : Nat
  /-- tile stores, loam and spill SRAM by 48-bit device address (R42) -/
  mem     : List Host.Cell
  /-- steward registers by address (R518, R524) -/
  sreg    : List (Nat × Dword)
  tiles   : List (Nat × Tile)
  routers : List (Nat × Router)
  repair  : Repair
  /-- the repair map as flash holds it (R54, R437, R465) -/
  flashRepair : Repair
  tables  : TableBasis
  /-- links declared failed since the last DEVICE reset: site key and port number (R20, R422) -/
  failedLinks : List (Nat × Nat)
  /-- tiles and fields whose retirement takes effect at the next table instant (R437, R525) -/
  retiring : List Nat
  retiringFields : List Nat
  /-- a table rebuild is due (R422) -/
  tablesDue : Bool
  /-- prism entries in force: key site key * 256 + tree (R37) -/
  prism   : List (Nat × Nat)
  plots   : List (Nat × PlotSt)
  /-- the afterimage extents in map order (R269), relative to where they start; a moved extent is listed -/
  aiMoved : List (Nat × Extent)
  hostQ   : List (Nat × HostQueue)
  hostPorts : List (Nat × HostPort)
  rdma    : List Rdma
  out     : List HostOut
  /-- the device's RoCEv2 sending rate in 1/2^40 of line rate (R342) -/
  cnpRate : Nat
  /-- the answer of the latest router or table query (R527, R528) -/
  queried : Dword
  shadow  : List (Nat × ShadowSet)
  svc     : List (Site × SvcNote)
  optPorts : List (Nat × OptPort)
  facets  : List (Nat × FacetRt)
  casc    : Casc
  muxes   : List (Nat × MuxRt)
  fields  : List (Nat × FieldRt)
  supply  : Supply
  refmon  : RefMon
  /-- temperature samples in a row with a spread above 8 K (R412) -/
  spread  : Nat
  /-- resets that have been asked for and have not ended, in order (R432) -/
  resets  : List Domain
  /-- loam that has left a plot and awaits its zeros (R435): plot, site key, offset, length -/
  zeroing : List (Nat × Nat × Nat × Nat)
  scan    : Scan
  boot    : Boot
  flash   : List Host.Cell
  /-- the afterimage that is held, and the SHADOW_CYCLE of the freeze whose afterimage the walkers are still to end (R446, R449) -/
  ai      : Option AiSnap
  aiDue   : Option Nat
  frozen  : Bool
  telem   : Telem
  /-- output pins: PWR_OK, ALERT_N held by boot or freeze, CLKOUT driven (R501, R515) -/
  pwrOk   : Bool
  alertN  : Bool
  clkOut  : Bool
  resetN  : Bool
  deriving DecidableEq, Repr

/-- Why the machine stops with a fault. -/
inductive Fault where
  /-- Raised by any command that names a site outside the wafer or of the wrong kind (R12, R13). Safe: the model stops. -/
  | noSuchSite
  /-- Raised by any command that names a queue, port, plot, field or other unit outside its range. Safe. -/
  | noSuchUnit
  deriving DecidableEq, Repr

/-- Why a command has no effect at all here. -/
inductive Refusal where
  /-- Raised by exec for a row that has no meaning yet. Safe. -/
  | notModelled (mnemonic : String)
  /-- Raised by the meaning of an event that cannot occur in the state: its unit does not stand where the rule has the
  event happen. The string is the row's mnemonic. Safe: the hardware has no such step there. -/
  | notEnabled (mnemonic : String)
  /-- Raised by every event of a tile, a router or a facet while the device is frozen (R446). Safe: they hold their state. -/
  | frozen
  deriving DecidableEq, Repr

/-- What an unlisted byte of the device address space reads as (DESIGN CHOICE, notes/assumptions/2.md). -/
def memDefault : Nat → Byte := fun _ => 0

/-- What an unlisted byte of flash reads as (DESIGN CHOICE, notes/assumptions/2.md). -/
def flashDefault : Nat → Byte := fun _ => 0

/-- The module right after a DEVICE reset, before DEVICE_BOOT (R10, R434). -/
def State.reset : State :=
  { pending := [], cycle := 0, freeCtr := 0, mem := [], sreg := [], tiles := [], routers := [], repair := .empty,
    flashRepair := .empty, tables := { dead := [], links := [], penumbra := [], umbra := [] }, failedLinks := [],
    retiring := [], retiringFields := [], tablesDue := false, prism := [], plots := [], aiMoved := [], hostQ := [], hostPorts := [], rdma := [], out := [],
    cnpRate := 2 ^ 40, queried := 0, shadow := [], svc := [], optPorts := [], facets := [], casc := .reset, muxes := [],
    fields := [],
    supply := { low49 := 0, low46 := 0, good := 0, over58 := 0, over60 := 0, lowest := 0, warnAt := 0, ceil := 16, drops := 0,
                stage := 0, aux := true, steward := true, vin := 0 },
    refmon := { failed := none, goodRuns := 0 }, spread := 0, resets := [], zeroing := [],
    scan := { field := 0, next := 0, active := false }, boot := .reset, flash := [], ai := none, aiDue := none, frozen := false,
    telem := .reset, pwrOk := true, alertN := false, clkOut := false, resetN := true }

/-- The device memory is in its canonical form. -/
abbrev Memory.wf (m : List Host.Cell) : Prop := mapWf memDefault m = true

end Sys2Proof.Machine
end

