-- ==== Sys2Proof/Machine/Regs.lean ====
section
/-!
DEFINITION. The steward register space (chapter 18): which addresses are assigned, the reset value and the field types of
each register, and the raw read and write of one. The rows follow the spec's field tables.
-/
namespace Sys2Proof.Machine

/-- A register or an array of them: first address, stride, count, reset value, and the masks of the RW, W1C, SC and WO
fields (R8). Every other field is RO or reserved. -/
structure RegRow where
  first  : Nat
  stride : Nat
  count  : Nat
  reset  : Nat
  rw     : Nat
  w1c    : Nat
  sc     : Nat
  wo     : Nat
  deriving DecidableEq, Repr

/-- The ID block (R524). -/
def regsId : List RegRow := [
  ⟨0x7f0000000000, 8, 1, 0x15600a1000000, 0, 0, 0, 0⟩,  -- ID_DEVICE
  ⟨0x7f0000000008, 8, 2, 0, 0, 0, 0, 0⟩,  -- ID_SERIAL0
  ⟨0x7f0000000018, 8, 1, 0, 0, 0, 0, 0⟩,  -- ID_TILES
  ⟨0x7f0000000020, 8, 1, 0x3cffffffffffff3c, 0, 0, 0, 0⟩,  -- ID_FPRESENT
  ⟨0x7f0000000028, 8, 1, 0, 0, 0, 0, 0⟩,  -- ID_FRETIRED
  ⟨0x7f0000000030, 8, 2, 0, 0, 0, 0, 0⟩  -- ID_MACA
]

/-- The STRAP block (R524). -/
def regsStrap : List RegRow := [
  ⟨0x7f0000010000, 8, 1, 0, 0, 0, 0, 0⟩,  -- STRAP_VAL
  ⟨0x7f0000010008, 8, 1, 0, 0, 0, 0, 0⟩  -- STRAP_PINS
]

/-- The CLK block (R524). -/
def regsClk : List RegRow := [
  ⟨0x7f0000020000, 8, 1, 0, 0, 0x81, 0, 0⟩,  -- CLK_REF
  ⟨0x7f0000020008, 8, 1, 0, 0xffffff00, 0, 1, 0⟩,  -- CLK_MEAS
  ⟨0x7f0000020010, 8, 1, 0, 0x1f, 0, 0, 0⟩,  -- CLK_OUT
  ⟨0x7f0000020100, 8, 64, 0, 0, 0x80, 0, 0⟩,  -- CLK_FIELD[F]
  ⟨0x7f0000020400, 8, 2, 0, 0xff, 0, 0x100, 0⟩,  -- CLK_MUX[m]
  ⟨0x7f0000020600, 8, 64, 0, 0xff, 0, 0x100, 0⟩,  -- CLK_MUX[m]
  ⟨0x7f0000020800, 8, 2, 0, 0, 0, 0, 0⟩,  -- CLK_MUX_STAT[m]
  ⟨0x7f0000020a00, 8, 64, 0, 0, 0, 0, 0⟩  -- CLK_MUX_STAT[m]
]

/-- The PWR block (R524). -/
def regsPwr : List RegRow := [
  ⟨0x7f0000030000, 8, 1, 0xf8ca0, 0xfffff, 0, 0, 0⟩,  -- PWR_CAP_SET
  ⟨0x7f0000030008, 8, 1, 0, 0, 0, 0, 0⟩,  -- PWR_STAT
  ⟨0x7f0000030010, 8, 1, 0, 0, 8, 0, 0⟩,  -- PWR_SUPPLY
  ⟨0x7f0000030018, 8, 1, 0xa21, 0xfff1, 0, 0, 0⟩,  -- PWR_BF
  ⟨0x7f0000030020, 8, 2, 0, 0, 0, 0, 0⟩,  -- PWR_EIN, PWR_EDEV
  ⟨0x7f0000030100, 8, 64, 0xf00000000, 0, 0x80000000, 0, 0⟩,  -- PWR_FIELD[F]
  ⟨0x7f0000030400, 8, 64, 0xff0000, 0xff0f0001, 0, 0, 0⟩,  -- PWR_PLOT[p]
  ⟨0x7f0000030600, 8, 64, 0, 0, 0, 0, 0⟩,  -- PWR_EPLOT[p]
  ⟨0x7f0000030800, 8, 64, 0, 0, 0, 0, 0⟩  -- PWR_EQUEUE[q]
]

/-- The THM block (R524). -/
def regsThm : List RegRow := [
  ⟨0x7f0000040000, 8, 1, 0x73695f, 0xffffff, 0, 0, 0⟩,  -- THM_CFG
  ⟨0x7f0000040008, 8, 1, 0, 0, 0, 0, 0⟩,  -- THM_STAT
  ⟨0x7f0000040100, 8, 64, 0, 0, 0, 0, 0⟩  -- THM_FIELD[F]
]

/-- The MESH block (R524). -/
def regsMesh : List RegRow := [
  ⟨0x7f0000050000, 8, 1, 0x40, 0xfff, 0, 0, 0⟩,  -- MESH_CFG
  ⟨0x7f0000050008, 8, 1, 0, 0, 0, 0, 0⟩,  -- MESH_ERR_CNT
  ⟨0x7f0000050010, 8, 1, 0, 0, 0, 0, 0⟩,  -- MESH_STAT
  ⟨0x7f0000050018, 8, 1, 0, 0x3ffff, 0, 0, 0⟩,  -- MESH_RSEL
  ⟨0x7f0000050020, 8, 1, 0, 0, 0, 0, 0⟩,  -- MESH_RERR
  ⟨0x7f0000050028, 8, 1, 0, 0, 0, 0, 0⟩  -- MESH_RLINK
]

/-- The ROUTE block (R524). -/
def regsRoute : List RegRow := [
  ⟨0x7f0000060000, 8, 1, 0, 0, 0, 0, 0⟩,  -- ROUTE_STAT
  ⟨0x7f0000060008, 8, 1, 0, 0, 0, 0, 0⟩,  -- ROUTE_LAST
  ⟨0x7f0000060010, 8, 1, 0, 0xc00000001fffffff, 0, 0, 0⟩,  -- ROUTE_TSEL
  ⟨0x7f0000060018, 8, 1, 0, 0, 0, 0, 0⟩  -- ROUTE_TDATA
]

/-- The FACET block (R524). -/
def regsFacet : List RegRow := [
  ⟨0x7f0000070000, 0x40, 8, 0xfffe, 0xffff, 0, 0, 0⟩,  -- FACET_CFG[f]
  ⟨0x7f0000070008, 0x40, 8, 0, 0, 0, 0, 0⟩,  -- FACET_STAT[f]
  ⟨0x7f0000070010, 0x40, 8, 0, 0, 0, 0, 0⟩,  -- FACET_ERR[f]
  ⟨0x7f0000070400, 8, 1, 0, 0, 0, 0, 0⟩,  -- FACET_CASC
  ⟨0x7f0000070408, 8, 1, 0x9c400000000, 0, 0, 0, 0⟩,  -- FACET_BEAT
  ⟨0x7f0000070410, 8, 1, 0, 0, 0, 0, 0⟩,  -- FACET_BEATSTAT
  ⟨0x7f0000070418, 8, 1, 0, 0, 0, 0, 0⟩  -- FACET_RING
]

/-- The HOST block (R524). -/
def regsHost : List RegRow := [
  ⟨0x7f0000080000, 0x40, 2, 0x3c8001, 0xfffffffe7, 0, 0, 0⟩,  -- HOST_PORT_CFG[a]
  ⟨0x7f0000080008, 0x40, 2, 0, 0, 0, 0, 0⟩,  -- HOST_PORT_STAT[a]
  ⟨0x7f0000080100, 8, 1, 0xbcb6, 0xffff, 0, 0, 0⟩,  -- HOST_VHCP
  ⟨0x7f0000080200, 8, 64, 1, 3, 0, 0, 0⟩,  -- HOST_QCFG[q]
  ⟨0x7f0000080400, 8, 64, 0, 0, 0, 0, 0⟩,  -- HOST_QSTAT[q]
  ⟨0x7f0000084000, 0x30, 1024, 0, 0x8ff8ffffff000000, 0, 0, 0⟩,  -- HOST_QP[n] W0
  ⟨0x7f0000084008, 0x30, 1024, 0, 0xffffffff00ffffff, 0, 0, 0⟩,  -- HOST_QP[n] W1
  ⟨0x7f0000084010, 0x30, 1024, 0, 0xffffff0000ffffff, 0, 0, 0⟩,  -- HOST_QP[n] W2
  ⟨0x7f0000084018, 0x30, 1024, 0, 0xffffffffffffffff, 0, 0, 0⟩,  -- HOST_QP[n] W3 and W4
  ⟨0x7f0000084020, 0x30, 1024, 0, 0xffffffffffffffff, 0, 0, 0⟩,  -- HOST_QP[n] W3 and W4
  ⟨0x7f0000084028, 0x30, 1024, 0, 0xffffffffffffffff, 0, 0, 0⟩  -- HOST_QP[n] W5
]

/-- The PLOT block (R524). -/
def regsPlot : List RegRow := [
  ⟨0x7f0000090000, 0x400, 64, 0, 0, 0, 0, 0⟩,  -- PLOT_RECT
  ⟨0x7f0000090008, 0x400, 64, 0, 0, 0, 0, 0⟩,  -- PLOT_MAPINFO
  ⟨0x7f0000090010, 0x400, 64, 0, 0, 0, 0, 0⟩,  -- PLOT_PLACE
  ⟨0x7f0000090018, 0x400, 64, 8, 0x3f, 0, 0, 0⟩,  -- PLOT_PLACE_CFG
  ⟨0x7f0000090020, 0x400, 64, 1, 0, 0, 0, 0⟩,  -- PLOT_MODE
  ⟨0x7f0000090028, 0x400, 64, 0, 0, 0, 0, 0⟩,  -- PLOT_SEED
  ⟨0x7f0000090030, 0x400, 64, 0, 0, 0, 3, 0⟩,  -- PLOT_RESET
  ⟨0x7f00000900c0, 0x400, 64, 0, 0xffffffffffffffff, 0, 0, 0⟩,  -- PLOT_SP_GRP
  ⟨0x7f00000900c8, 0x400, 64, 0, 0xffffffffffffffff, 0, 0, 0⟩,  -- PLOT_SP_VAL
  ⟨0x7f00000900d0, 0x400, 64, 0, 0, 0x8000000000000000, 0, 0⟩  -- PLOT_SP_LAST
]

/-- The SHADOW block (R524). -/
def regsShadow : List RegRow := [
  ⟨0x7f00000a0000, 0x10, 8, 0, 0, 0, 0, 0⟩,  -- SHADOW_SLOT[k]
  ⟨0x7f00000a0008, 0x10, 8, 0, 0, 0, 0, 0⟩,  -- SHADOW_WHEN[k]
  ⟨0x7f00000a0100, 8, 1, 0, 0, 0, 0, 0⟩,  -- SHADOW_CYCLE
  ⟨0x7f00000a0108, 8, 1, 0x14, 0, 0, 0, 0⟩,  -- SHADOW_DEV
  ⟨0x7f00000a0110, 8, 1, 0, 0, 1, 0, 0⟩  -- SHADOW_LAST
]

/-- The RAS block (R524). -/
def regsRas : List RegRow := [
  ⟨0x7f00000b0000, 8, 1, 0, 0, 0, 0, 0xe0000000003ffff⟩,  -- RAS_RESET
  ⟨0x7f00000b0008, 8, 1, 0, 0, 0x40000000, 0, 0⟩,  -- RAS_RESET_STAT
  ⟨0x7f00000b0010, 8, 1, 0x1f4, 0xffff, 0, 0, 0⟩,  -- RAS_DRAIN
  ⟨0x7f00000b0018, 8, 1, 0, 0, 0, 0, 0⟩,  -- RAS_LOAM
  ⟨0x7f00000b0020, 8, 1, 1, 1, 0, 0, 0⟩,  -- RAS_SCRUB
  ⟨0x7f00000b0028, 8, 1, 0xa80000, 0x10ff0000ffff0000, 0, 0x2000000000000000, 0⟩,  -- RAS_SCAN
  ⟨0x7f00000b0030, 8, 1, 0, 0, 0x8000000000000000, 0x2000000000000000, 0⟩,  -- RAS_AI
  ⟨0x7f00000b0100, 8, 64, 2, 0xe, 0, 0, 0⟩,  -- RAS_PLOT[p]
  ⟨0x7f00000b1000, 8, 512, 0, 0, 0, 0, 0⟩  -- RAS_FLT[p]
]

/-- The TELEM block (R524). -/
def regsTelem : List RegRow := [
  ⟨0x7f00000c0000, 8, 1, 0xbcb703e80a000000, 0xffffffffff000003, 0, 0, 0⟩,  -- TELEM_CFG
  ⟨0x7f00000c0008, 8, 2, 0, 0xffffffffffffffff, 0, 0, 0⟩,  -- TELEM_DEST[i]
  ⟨0x7f00000c0018, 8, 1, 0, 0xfff, 0, 0, 0⟩,  -- TELEM_TRACE
  ⟨0x7f00000c0020, 8, 1, 0xffffffff, 0xffffffff, 0, 0, 0⟩,  -- TELEM_AACK
  ⟨0x7f00000c0028, 8, 1, 0, 0, 0, 0, 0⟩,  -- TELEM_STAT
  ⟨0x7f00000c0030, 8, 1, 0, 0, 0, 0, 0⟩  -- TELEM_DROP
]

/-- The SEC block (R524). -/
def regsSec : List RegRow := [
  ⟨0x7f00000d0000, 8, 1, 0x100, 0, 0, 0, 0⟩,  -- SEC_BOOT
  ⟨0x7f00000d0008, 8, 1, 0, 0, 0, 0, 0⟩,  -- SEC_IMG
  ⟨0x7f00000d0010, 8, 1, 0, 0, 0, 0, 0⟩,  -- SEC_CFGSEQ
  ⟨0x7f00000d0018, 8, 1, 0, 0, 0, 0, 0⟩,  -- SEC_OWN
  ⟨0x7f00000d0020, 8, 1, 0, 0, 0, 0, 0⟩  -- SEC_RECOV
]

/-- The register index (R524). -/
def regTable : List RegRow :=
  regsId ++ regsStrap ++ regsClk ++ regsPwr ++ regsThm ++ regsMesh ++ regsRoute ++ regsFacet ++ regsHost ++ regsPlot ++
  regsShadow ++ regsRas ++ regsTelem ++ regsSec

/-- The row that names a register at address a; none for a reserved address (R519). -/
def regRow (a : Nat) : Option RegRow :=
  regTable.find? (fun r => decide (r.first ≤ a) && decide ((a - r.first) % r.stride = 0) &&
    decide ((a - r.first) / r.stride < r.count))

/-! ### Addresses -/

def rIdTiles : Nat := 0x7f0000000018
def rIdFretired : Nat := 0x7f0000000028
def rStrapVal : Nat := 0x7f0000010000
def rStrapPins : Nat := 0x7f0000010008
def rClkRef : Nat := 0x7f0000020000
def rClkMeas : Nat := 0x7f0000020008
def rClkOut : Nat := 0x7f0000020010
def rClkField (f : Nat) : Nat := 0x7f0000020100 + 8 * f
def rClkMux (m : Nat) : Nat := 0x7f0000020400 + 8 * m
def rClkMuxStat (m : Nat) : Nat := 0x7f0000020800 + 8 * m
def rPwrCapSet : Nat := 0x7f0000030000
def rPwrStat : Nat := 0x7f0000030008
def rPwrSupply : Nat := 0x7f0000030010
def rPwrBf : Nat := 0x7f0000030018
def rPwrEin : Nat := 0x7f0000030020
def rPwrEdev : Nat := 0x7f0000030028
def rPwrField (f : Nat) : Nat := 0x7f0000030100 + 8 * f
def rPwrPlot (p : Nat) : Nat := 0x7f0000030400 + 8 * p
def rPwrEplot (p : Nat) : Nat := 0x7f0000030600 + 8 * p
def rPwrEqueue (q : Nat) : Nat := 0x7f0000030800 + 8 * q
def rThmCfg : Nat := 0x7f0000040000
def rThmStat : Nat := 0x7f0000040008
def rThmField (f : Nat) : Nat := 0x7f0000040100 + 8 * f
def rMeshCfg : Nat := 0x7f0000050000
def rMeshErrCnt : Nat := 0x7f0000050008
def rMeshStat : Nat := 0x7f0000050010
def rMeshRsel : Nat := 0x7f0000050018
def rMeshRerr : Nat := 0x7f0000050020
def rMeshRlink : Nat := 0x7f0000050028
def rRouteStat : Nat := 0x7f0000060000
def rRouteLast : Nat := 0x7f0000060008
def rRouteTsel : Nat := 0x7f0000060010
def rRouteTdata : Nat := 0x7f0000060018
def rFacetCfg (f : Nat) : Nat := 0x7f0000070000 + 0x40 * f
def rFacetStat (f : Nat) : Nat := 0x7f0000070008 + 0x40 * f
def rFacetErr (f : Nat) : Nat := 0x7f0000070010 + 0x40 * f
def rFacetCasc : Nat := 0x7f0000070400
def rFacetBeat : Nat := 0x7f0000070408
def rFacetBeatstat : Nat := 0x7f0000070410
def rFacetRing : Nat := 0x7f0000070418
def rHostPortCfg (a : Nat) : Nat := 0x7f0000080000 + 0x40 * a
def rHostPortStat (a : Nat) : Nat := 0x7f0000080008 + 0x40 * a
def rHostVhcp : Nat := 0x7f0000080100
def rHostQcfg (q : Nat) : Nat := 0x7f0000080200 + 8 * q
def rHostQstat (q : Nat) : Nat := 0x7f0000080400 + 8 * q
def rHostQp (n w : Nat) : Nat := 0x7f0000084000 + 0x30 * n + 8 * w
def rPlotRect (p : Nat) : Nat := 0x7f0000090000 + 0x400 * p
def rPlotMapinfo (p : Nat) : Nat := 0x7f0000090008 + 0x400 * p
def rPlotPlace (p : Nat) : Nat := 0x7f0000090010 + 0x400 * p
def rPlotPlaceCfg (p : Nat) : Nat := 0x7f0000090018 + 0x400 * p
def rPlotMode (p : Nat) : Nat := 0x7f0000090020 + 0x400 * p
def rPlotSeed (p : Nat) : Nat := 0x7f0000090028 + 0x400 * p
def rPlotReset (p : Nat) : Nat := 0x7f0000090030 + 0x400 * p
def rPlotSpGrp (p : Nat) : Nat := 0x7f00000900c0 + 0x400 * p
def rPlotSpVal (p : Nat) : Nat := 0x7f00000900c8 + 0x400 * p
def rPlotSpLast (p : Nat) : Nat := 0x7f00000900d0 + 0x400 * p
def rShadowSlot (k : Nat) : Nat := 0x7f00000a0000 + 0x10 * k
def rShadowWhen (k : Nat) : Nat := 0x7f00000a0008 + 0x10 * k
def rShadowCycle : Nat := 0x7f00000a0100
def rShadowDev : Nat := 0x7f00000a0108
def rShadowLast : Nat := 0x7f00000a0110
def rRasReset : Nat := 0x7f00000b0000
def rRasResetStat : Nat := 0x7f00000b0008
def rRasDrain : Nat := 0x7f00000b0010
def rRasLoam : Nat := 0x7f00000b0018
def rRasScrub : Nat := 0x7f00000b0020
def rRasScan : Nat := 0x7f00000b0028
def rRasAi : Nat := 0x7f00000b0030
def rRasPlot (p : Nat) : Nat := 0x7f00000b0100 + 8 * p
def rRasFlt (p w : Nat) : Nat := 0x7f00000b1000 + 0x40 * p + 8 * w
def rTelemCfg : Nat := 0x7f00000c0000
def rTelemDest (i : Nat) : Nat := 0x7f00000c0008 + 8 * i
def rTelemTrace : Nat := 0x7f00000c0018
def rTelemAack : Nat := 0x7f00000c0020
def rTelemStat : Nat := 0x7f00000c0028
def rTelemDrop : Nat := 0x7f00000c0030
def rSecBoot : Nat := 0x7f00000d0000
def rSecImg : Nat := 0x7f00000d0008
def rSecCfgseq : Nat := 0x7f00000d0010
def rSecOwn : Nat := 0x7f00000d0018
def rSecRecov : Nat := 0x7f00000d0020

/-- The value a register has after a DEVICE reset (R10). HOST_QCFG.DEV is 1 for queue 0 alone. -/
def regReset (a : Nat) : Dword :=
  if a = rHostQcfg 0 then 3
  else match regRow a with
    | some r => BitVec.ofNat 64 r.reset
    | none => 0

/-- What the register file holds at address a. -/
def State.reg (s : State) (a : Nat) : Dword := mapGet regReset s.sreg a

/-- The register file with v at address a. -/
def State.setReg (s : State) (a : Nat) (v : Dword) : State := { s with sreg := mapSet regReset s.sreg a v }

/-- Bits hi..lo of a register. -/
def State.fld (s : State) (a hi lo : Nat) : Nat := Dword.field (s.reg a) hi lo

/-- Bits hi..lo of a register set to v. -/
def State.setFld (s : State) (a hi lo v : Nat) : State := s.setReg a (Dword.setField (s.reg a) hi lo v)

/-- A counter field that saturates at all ones. -/
def State.bump (s : State) (a hi lo n : Nat) : State :=
  s.setFld a hi lo (min (2 ^ (hi + 1 - lo) - 1) (s.fld a hi lo + n))

/-- A counter field that wraps. -/
def State.count (s : State) (a hi lo n : Nat) : State := s.setFld a hi lo ((s.fld a hi lo + n) % 2 ^ (hi + 1 - lo))

/-- What a register holds after software writes v, by the type of each field (R8, R9): RW stores, W1C clears where v is 1,
RO and reserved fields ignore the write. SC and WO fields have their own meanings. -/
def regStore (r : RegRow) (old v : Dword) : Dword :=
  let rw : Dword := BitVec.ofNat 64 r.rw
  let w1c : Dword := BitVec.ofNat 64 r.w1c
  ((old &&& ~~~ rw) ||| (v &&& rw)) &&& ~~~ (v &&& w1c)

end Sys2Proof.Machine
end

