-- ==== Sys2Proof/WellFormed.lean ====
section
/-!
DEFINITION. Which commands are well formed: every unit that a command names lies in the range the spec gives that unit.
-/
namespace Sys2Proof

/-- Site (px, py) lies on the wafer (R12): in a present field, with px and py below 320. -/
def Site.onWafer (t : Site) : Bool :=
  decide (t.px < 320) && decide (t.py < 320) && Config.fieldPresent (8 * (t.py / 40) + t.px / 40)

/-- The units that a command names exist. -/
def Instr.wellFormed : Instr → Bool
  | .grainArrival r _ _ => r.onWafer
  | .replayRequest r _ => r.onWafer
  | .linkFailed r _ => r.onWafer
  | .linkCreditArrival r _ _ => r.onWafer
  | .outputPortSend r _ => r.onWafer
  | .meshEscWait r _ _ => r.onWafer
  | .escapeMove r _ _ => r.onWafer
  | .escnReceive t => t.onWafer
  | .grainAccept t => t.onWafer
  | .ackReceive t => t.onWafer
  | .prismForward r _ => r.onWafer
  | .errReceive t => t.onWafer
  | .remoteWrite t => t.onWafer
  | .remoteRead t => t.onWafer
  | .rdrReceive t => t.onWafer
  | .wraReceive t => t.onWafer
  | .svcAccess t => t.onWafer
  | .storeScrub t bank _ => t.onWafer && decide (bank < 12)
  | .sparingNotice => true
  | .cacheAccess t line _ _ => t.onWafer && decide (line < Config.loamLines)
  | .cacheFill t _ => t.onWafer
  | .cacheWriteback t => t.onWafer
  | .storeSplitSwitch t => t.onWafer
  | .splitSwitchEnd t => t.onWafer
  | .tcGenCfgWrite t _ => t.onWafer
  | .genTagClearEnd t => t.onWafer
  | .loamLineRequest t _ line _ => t.onWafer && decide (line < Config.loamLines)
  | .loamRefresh t => t.onWafer
  | .loamScrub t _ => t.onWafer
  | .alu t => t.onWafer
  | .addi t => t.onWafer
  | .andi t => t.onWafer
  | .ori t => t.onWafer
  | .xori t => t.onWafer
  | .shi t => t.onWafer
  | .lil t => t.onWafer
  | .lih t => t.onWafer
  | .mfs t => t.onWafer
  | .mts t => t.onWafer
  | .lb t => t.onWafer
  | .lbu t => t.onWafer
  | .lh t => t.onWafer
  | .lhu t => t.onWafer
  | .lw t => t.onWafer
  | .ldd t => t.onWafer
  | .sb t => t.onWafer
  | .sh t => t.onWafer
  | .sw t => t.onWafer
  | .sdd t => t.onWafer
  | .storeBufferPerform t => t.onWafer
  | .instructionFetch t => t.onWafer
  | .br t => t.onWafer
  | .bl t => t.onWafer
  | .jr t => t.onWafer
  | .pcmp t => t.onWafer
  | .pcmpi t => t.onWafer
  | .plog t => t.onWafer
  | .pmov t => t.onWafer
  | .issue t => t.onWafer
  | .issueQueueRoom t => t.onWafer
  | .waitc t => t.onWafer
  | .waitcRetire t => t.onWafer
  | .rdcc t => t.onWafer
  | .waitm t => t.onWafer
  | .waitmRetire t => t.onWafer
  | .openConn t => t.onWafer
  | .openRequest t => t.onWafer
  | .openrReceive t => t.onWafer
  | .close t => t.onWafer
  | .closeGrainSend t conn => t.onWafer && decide (conn < 1024)
  | .closeGrainReceive t => t.onWafer
  | .send t => t.onWafer
  | .sendStart t => t.onWafer
  | .sendRetire t => t.onWafer
  | .messageArrival t => t.onWafer
  | .handlerDispatch t => t.onWafer
  | .hret t => t.onWafer
  | .mfence t => t.onWafer
  | .bar t => t.onWafer
  | .wfe t => t.onWafer
  | .fin t => t.onWafer
  | .finStop t => t.onWafer
  | .stage t => t.onWafer
  | .frame t => t.onWafer
  | .frameSwitch t => t.onWafer
  | .frameEntry t => t.onWafer
  | .heavy t => t.onWafer
  | .brk t => t.onWafer
  | .tret t => t.onWafer
  | .nop t => t.onWafer
  | .engineFault t => t.onWafer
  | .waitTimeout t => t.onWafer
  | .tileIdleEntry t => t.onWafer
  | .teProduct t => t.onWafer
  | .teSubtileDrain t => t.onWafer
  | .veOperation t => t.onWafer
  | .suConvert t => t.onWafer
  | .suCompress t => t.onWafer
  | .suDecompress t => t.onWafer
  | .suPrune t => t.onWafer
  | .txTranspose t => t.onWafer
  | .txStream t => t.onWafer
  | .streamPairing t => t.onWafer
  | .fuEval t => t.onWafer
  | .fuLoadtab t => t.onWafer
  | .ldLoad t => t.onWafer
  | .ldSave t => t.onWafer
  | .sends t => t.onWafer
  | .recv t => t.onWafer
  | .put t => t.onWafer
  | .get t => t.onWafer
  | .update t => t.onWafer
  | .reduce t _ => t.onWafer
  | .ueTeProduct t => t.onWafer
  | .engineCommandComplete t q => t.onWafer && decide (q < 8)
  | .engineFaultEffect t q => t.onWafer && decide (q < 8)
  | .resume t q => t.onWafer && decide (q < 8)
  | .retry t q => t.onWafer && decide (q < 8)
  | .discard t q => t.onWafer && decide (q < 8)
  | .clrflags t q => t.onWafer && decide (q < 8)
  | .sparseDropReport => true
  | .itemArrival t => t.onWafer
  | .spillReadbackDone t port => t.onWafer && decide (port < Config.tilePorts)
  | .streamCredit t => t.onWafer
  | .ringCredit t => t.onWafer
  | .barrierArrival t => t.onWafer
  | .barrierRelease t => t.onWafer
  | .steerMerge t u => t.onWafer && decide (u < Config.steerUnits)
  | .steerSplit t u => t.onWafer && decide (u < Config.steerUnits)
  | .steerSelect t u => t.onWafer && decide (u < Config.steerUnits)
  | .steerGate t u => t.onWafer && decide (u < Config.steerUnits)
  | .niSteerWrite t u _ => t.onWafer && decide (u < Config.steerUnits)
  | .niPortWrite t port _ => t.onWafer && decide (port < Config.tilePorts)
  | .deadlockWindow t conn => t.onWafer && decide (conn < 1024)
  | .probeReceive t => t.onWafer
  | .plotDrained p => decide (p < Config.plots)
  | .frameReport => true
  | .layerAdvance p => decide (p < Config.plots)
  | .placementCommit p => decide (p < Config.plots)
  | .replacement p => decide (p < Config.plots)
  | .facetCfgWrite f _ => decide (f < 8)
  | .facetTrainingDone f _ _ _ _ => decide (f < 8)
  | .attest f _ => decide (f < 8)
  | .facetAttestDone f _ _ => decide (f < 8)
  | .facetFrameSend port => decide (port < Config.optPorts)
  | .facetFrameReceive port _ _ => decide (port < Config.optPorts)
  | .nak port _ => decide (port < Config.optPorts)
  | .facetPortFail port => decide (port < Config.optPorts)
  | .optRelayOpen port _ => decide (port < Config.optPorts)
  | .formationStart => true
  | .form _ => true
  | .formTimeout => true
  | .roster _ => true
  | .beatTimer => true
  | .mark _ => true
  | .beatGroupComplete p => decide (p < Config.plots)
  | .slipreq _ => true
  | .bararr _ => true
  | .barrel _ => true
  | .checked _ => true
  | .commitGrain _ => true
  | .markTimeout => true
  | .roceWrite e qpn _ _ _ => decide (e.port < 2) && decide (qpn < 2 ^ 24)
  | .roceRead e qpn _ _ _ => decide (e.port < 2) && decide (qpn < 2 ^ 24)
  | .roceSend e qpn _ => decide (e.port < 2) && decide (qpn < 2 ^ 24)
  | .cnpReceive => true
  | .cnpRateRecovery => true
  | .rdmaReadResponse q _ => decide (q < Config.hostQueues)
  | .rdmaWriteAck q => decide (q < Config.hostQueues)
  | .qpRetryTimeout n => decide (n < Config.qps)
  | .hostQpW0Write n _ => decide (n < Config.qps)
  | .vhcpCommandArrival e _ => decide (e.port < 2)
  | .loadPackage q => decide (q < Config.hostQueues)
  | .place q => decide (q < Config.hostQueues)
  | .run q => decide (q < Config.hostQueues)
  | .hostStage q => decide (q < Config.hostQueues)
  | .check q => decide (q < Config.hostQueues)
  | .commit q => decide (q < Config.hostQueues)
  | .abort q => decide (q < Config.hostQueues)
  | .query q => decide (q < Config.hostQueues)
  | .regRead q => decide (q < Config.hostQueues)
  | .regWrite q => decide (q < Config.hostQueues)
  | .dumpFetch q => decide (q < Config.hostQueues)
  | .recover q => decide (q < Config.hostQueues)
  | .commandTimeout q => decide (q < Config.hostQueues)
  | .commitAcksComplete k => decide (k < Config.shadowSlots)
  | .commitInstant k => decide (k < Config.shadowSlots)
  | .refMonitorWindow _ _ _ => true
  | .pllCoast f => Config.fieldPresent f
  | .pllRelock f => Config.fieldPresent f
  | .pllSlewDone f => Config.fieldPresent f
  | .clkMuxSelWrite m _ => decide (m < Config.clkMuxes)
  | .clkMuxSwitchDone m => decide (m < Config.clkMuxes)
  | .clkMuxHang m => decide (m < Config.clkMuxes)
  | .clkMuxForce m => decide (m < Config.clkMuxes)
  | .clkMeasGo _ => true
  | .clkMeasDone _ => true
  | .tileNapWake t => t.onWafer
  | .tileDarkWake t => t.onWafer
  | .fieldToPenumbra f => Config.fieldPresent f
  | .fieldToLit f => Config.fieldPresent f
  | .fieldToUmbra f _ => Config.fieldPresent f
  | .fieldPowerUp f => Config.fieldPresent f
  | .capLoop _ _ => true
  | .heavyHintReceive _ _ => true
  | .pwrCapSetWrite _ => true
  | .energySample f _ _ _ _ _ => Config.fieldPresent f
  | .droopCrossing f => Config.fieldPresent f
  | .droopClampStep f => Config.fieldPresent f
  | .backfillStep t => t.onWafer
  | .supplySample _ => true
  | .supplyCeilingStep => true
  | .overloadStep _ => true
  | .shutdownStage => true
  | .thermalSample f _ _ _ _ => Config.fieldPresent f
  | .thmCfgWrite _ => true
  | .fieldShort f => Config.fieldPresent f
  | .shortRetry f _ => Config.fieldPresent f
  | .tableCommit => true
  | .fence p _ => decide (p < Config.plots)
  | .fenceDrained p => decide (p < Config.plots)
  | .fenceDrainLimit p => decide (p < Config.plots)
  | .twinDigest t => t.onWafer
  | .resetNLow => true
  | .rasResetDevice => true
  | .rasResetWarm => true
  | .rasResetField f => Config.fieldPresent f
  | .rasResetPlot p => decide (p < Config.plots)
  | .rasResetTile t => t.onWafer
  | .plotResetReset p => decide (p < Config.plots)
  | .plotResetFence p => decide (p < Config.plots)
  | .resetComplete => true
  | .loamZeroing p => decide (p < Config.plots)
  | .rasDrainWrite _ => true
  | .scanGo _ => true
  | .scanPeriod => true
  | .scanDone f _ _ => Config.fieldPresent f
  | .fatalError _ => true
  | .aiTrigger => true
  | .afterimageSigned => true
  | .aiRelease => true
  | .watchdogAnswer => true
  | .watchdogExpiry => true
  | .topsoilRequest _ => true
  | .powerUp => true
  | .auxStop => true
  | .deviceBoot _ => true
  | .bootStage _ => true
  | .refwaitRetry _ _ => true
  | .topsoilReady => true
  | .topsoilStartTimeout => true
  | .flashWriteDone _ => true
  | .telemRecordReceive t => t.onWafer
  | .telemDatagramSend cls => decide (cls < 3)
  | .alarmResend => true
  | .telemAackWrite _ => true
  | .summaryClose _ => true
  | .meshCfgWrite _ => true
  | .meshRouterQuery _ => true
  | .routeTableRead => true
  | .registerWrite addr _ => decide (addr < 2 ^ 48)
  | .illegalInstruction t => t.onWafer
  | .referenceEdgeGap => true
  | .forwardedClockStop r _ => r.onWafer
  | .tileResetTimeout t => t.onWafer
  | .hostLinkChange a _ _ => decide (a < 2)
  | .secureAssociation a _ => decide (a < 2)
  | .pfcFrame a _ => decide (a < 2)
  | .ptpEventMessage a _ _ => decide (a < 2)
  | .tapAccess _ => true
  | .stewardSupplyLoss => true

end Sys2Proof
end

