-- ==== Sys2Proof/Machine/Ops.lean ====
section
/-!
DEFINITION. The named operations that every meaning is built from: outcomes, kinds of site, access to the units of the
state, bytes of the device memory, telemetry records and reports to the stewards.
-/
namespace Sys2Proof

/-! ### Sites -/

/-- The field number of a site (R11). -/
def Site.field (t : Site) : Nat := 8 * (t.py / 40) + t.px / 40

/-- Local coordinates (R7). -/
def Site.lx (t : Site) : Nat := t.px % 40
def Site.ly (t : Site) : Nat := t.py % 40

def isServiceCoord (c : Nat) : Bool := decide (c % 5 = 2)

/-- A service site (R13). -/
def Site.isService (t : Site) : Bool := isServiceCoord t.lx && isServiceCoord t.ly

/-- A compute tile site (R13). -/
def Site.isTile (t : Site) : Bool := t.onWafer && !t.isService

/-- A steward site: (17,17) and (22,22) of the four central fields (R13). -/
def Site.isSteward (t : Site) : Bool :=
  t.onWafer && (decide (t.field = 27) || decide (t.field = 28) || decide (t.field = 35) || decide (t.field = 36)) &&
    ((decide (t.lx = 17) && decide (t.ly = 17)) || (decide (t.lx = 22) && decide (t.ly = 22)))

/-- The service positions of every field that hold no spill SRAM: TST, THM, OPT, CLK and PWR (R13). -/
def servicePlaces : List (Nat × Nat) :=
  [(2, 2), (7, 7), (32, 7), (7, 32), (32, 32), (12, 27), (27, 12), (17, 22), (22, 17)]

/-- A spill site (R13). -/
def Site.isSpill (t : Site) : Bool :=
  t.onWafer && t.isService && !t.isSteward && !servicePlaces.contains (t.lx, t.ly)

/-- The port toward the neighbour at the far end of a port. -/
def Port.opposite : Port → Port
  | .north => .south | .east => .west | .south => .north | .west => .east | .loc => .loc

/-- Port numbers of R528: 0 N, 1 E, 2 S, 3 W, 4 LOCAL. -/
def Port.num : Port → Nat
  | .north => 0 | .east => 1 | .south => 2 | .west => 3 | .loc => 4

/-- The neighbour of a site through a port, where it exists. North is toward lower py (chapter 1). -/
def Site.next (t : Site) (p : Port) : Option Site :=
  let n : Option Site := match p with
    | .north => if t.py = 0 then none else some { t with py := t.py - 1 }
    | .south => some { t with py := t.py + 1 }
    | .west => if t.px = 0 then none else some { t with px := t.px - 1 }
    | .east => some { t with px := t.px + 1 }
    | .loc => none
  match n with
  | some u => if u.onWafer then some u else none
  | none => none

/-- Hops of a minimal route. -/
def Site.hops (a b : Site) : Nat := (a.px - b.px) + (b.px - a.px) + ((a.py - b.py) + (b.py - a.py))

end Sys2Proof

namespace Sys2Proof.Machine

/-- The outcome type of every meaning. -/
abbrev Out := Host.Outcome State Fault Refusal

/-! ### Outcomes -/

/-- An event that its unit has where g holds; elsewhere the event does not occur. -/
def when_ (name : String) (g : Bool) (t : State) : Out := if g then .next t else .refused (.notEnabled name)

/-- An event whose effect exists where the option does. -/
def whenSome {α : Type} (name : String) (o : Option α) (f : α → Out) : Out :=
  match o with
  | some a => f a
  | none => .refused (.notEnabled name)

/-- A command that names a unit of a numbered kind. -/
def onUnit (ok : Bool) (k : Out) : Out := if ok then k else .fault .noSuchUnit

/-! ### Naming sites -/

/-- The site of a key. -/
def siteOf (k : Nat) : Site := { px := k % 512, py := k / 512 }

/-- The steward site that the model names as the source of the stewards' grains (DESIGN CHOICE, notes/assumptions/6.md). -/
def stewardSite : Site := { px := 137, py := 137 }

/-- An event of a compute tile; a frozen device holds every tile (R446). -/
def onTile (t : Site) (s : State) (k : Out) : Out :=
  if !t.isTile then .fault .noSuchSite else if s.frozen then .refused .frozen else k

/-- An event of a router or of any site of the wafer. -/
def onSite (t : Site) (s : State) (k : Out) : Out :=
  if !t.onWafer then .fault .noSuchSite else if s.frozen then .refused .frozen else k

/-! ### Units of the state -/

def State.tile (s : State) (t : Site) : Tile := mapGet (fun _ => Tile.reset) s.tiles t.key
def State.setTile (s : State) (t : Site) (v : Tile) : State :=
  { s with tiles := mapSet (fun _ => Tile.reset) s.tiles t.key v }
def State.onTile (s : State) (t : Site) (f : Tile → Tile) : State := s.setTile t (f (s.tile t))
def State.core (s : State) (t : Site) : Core := (s.tile t).core
def State.onCore (s : State) (t : Site) (f : Core → Core) : State := s.onTile t (fun x => { x with core := f x.core })
def State.ni (s : State) (t : Site) : Ni := (s.tile t).ni
def State.onNi (s : State) (t : Site) (f : Ni → Ni) : State := s.onTile t (fun x => { x with ni := f x.ni })

def Tile.queue (x : Tile) (q : Nat) : Queue := if h : q < 8 then x.queues[q] else .reset
def Tile.setQueue (x : Tile) (q : Nat) (v : Queue) : Tile :=
  if h : q < 8 then { x with queues := x.queues.set q v } else x
def State.queue (s : State) (t : Site) (q : Nat) : Queue := (s.tile t).queue q
def State.onQueue (s : State) (t : Site) (q : Nat) (f : Queue → Queue) : State :=
  s.onTile t (fun x => x.setQueue q (f (x.queue q)))

def State.router (s : State) (t : Site) : Router := mapGet (fun _ => Router.empty) s.routers t.key
def State.setRouter (s : State) (t : Site) (v : Router) : State :=
  { s with routers := mapSet (fun _ => Router.empty) s.routers t.key v }
def State.onRouter (s : State) (t : Site) (f : Router → Router) : State := s.setRouter t (f (s.router t))

def Router.inp (r : Router) : Port → InPort
  | .north => r.iN | .east => r.iE | .south => r.iS | .west => r.iW | .loc => r.iL
def Router.setInp (r : Router) (p : Port) (v : InPort) : Router :=
  match p with
  | .north => { r with iN := v } | .east => { r with iE := v } | .south => { r with iS := v }
  | .west => { r with iW := v } | .loc => { r with iL := v }
def Router.outp (r : Router) : Port → OutPort
  | .north => r.oN | .east => r.oE | .south => r.oS | .west => r.oW | .loc => r.oL
def Router.setOutp (r : Router) (p : Port) (v : OutPort) : Router :=
  match p with
  | .north => { r with oN := v } | .east => { r with oE := v } | .south => { r with oS := v }
  | .west => { r with oW := v } | .loc => { r with oL := v }

def State.plot (s : State) (p : Nat) : PlotSt := mapGet (fun _ => PlotSt.reset) s.plots p
def State.setPlot (s : State) (p : Nat) (v : PlotSt) : State :=
  { s with plots := mapSet (fun _ => PlotSt.reset) s.plots p v }
def State.onPlot (s : State) (p : Nat) (f : PlotSt → PlotSt) : State := s.setPlot p (f (s.plot p))

def State.hostq (s : State) (q : Nat) : HostQueue := mapGet (fun _ => HostQueue.reset) s.hostQ q
def State.setHostq (s : State) (q : Nat) (v : HostQueue) : State :=
  { s with hostQ := mapSet (fun _ => HostQueue.reset) s.hostQ q v }
def State.onHostq (s : State) (q : Nat) (f : HostQueue → HostQueue) : State := s.setHostq q (f (s.hostq q))

def HostPort.reset : HostPort := { paused := false, swapped := false, stamp := 0, held := [] }
def State.hostPort (s : State) (a : Nat) : HostPort := mapGet (fun _ => HostPort.reset) s.hostPorts a
def State.onHostPort (s : State) (a : Nat) (f : HostPort → HostPort) : State :=
  { s with hostPorts := mapSet (fun _ => HostPort.reset) s.hostPorts a (f (s.hostPort a)) }

def State.opt (s : State) (o : Nat) : OptPort := mapGet (fun _ => OptPort.reset) s.optPorts o
def State.onOpt (s : State) (o : Nat) (f : OptPort → OptPort) : State :=
  { s with optPorts := mapSet (fun _ => OptPort.reset) s.optPorts o (f (s.opt o)) }

def FacetRt.reset : FacetRt := { joined := 0, nonce := [], segs := [] }
def State.facet (s : State) (f : Nat) : FacetRt := mapGet (fun _ => FacetRt.reset) s.facets f
def State.onFacet (s : State) (f : Nat) (g : FacetRt → FacetRt) : State :=
  { s with facets := mapSet (fun _ => FacetRt.reset) s.facets f (g (s.facet f)) }

def State.fieldRt (s : State) (f : Nat) : FieldRt := mapGet (fun _ => FieldRt.reset) s.fields f
def State.onField (s : State) (f : Nat) (g : FieldRt → FieldRt) : State :=
  { s with fields := mapSet (fun _ => FieldRt.reset) s.fields f (g (s.fieldRt f)) }

/-- Tile control register values after a reset that includes the tile (R433): NI_CFG 0x0000_0100_0000_0001, UE_CFG 1. -/
def cregReset (a : Nat) : Dword :=
  if a = 0x71000 then 0x0000010000000001 else if a = 0x72008 then 1 else 0
def Tile.creg' (x : Tile) (a : Nat) : Dword := mapGet cregReset x.creg a
def State.creg (s : State) (t : Site) (a : Nat) : Dword := (s.tile t).creg' a
def State.setCreg (s : State) (t : Site) (a : Nat) (v : Dword) : State :=
  s.onTile t (fun x => { x with creg := mapSet cregReset x.creg a v })
def State.cfld (s : State) (t : Site) (a hi lo : Nat) : Nat := Dword.field (s.creg t a) hi lo
def State.setCfld (s : State) (t : Site) (a hi lo v : Nat) : State :=
  s.setCreg t a (Dword.setField (s.creg t a) hi lo v)
def State.cbump (s : State) (t : Site) (a hi lo : Nat) : State :=
  s.setCfld t a hi lo (min (2 ^ (hi + 1 - lo) - 1) (s.cfld t a hi lo + 1))

/-! ### Field states (R394, R397) -/

/-- PWR_FIELD.STATE of the field: 0 LIT, 1 PENUMBRA, 2 UMBRA. -/
def State.fieldState (s : State) (f : Nat) : Nat := s.fld (rPwrField f) 27 26
def State.inUmbra (s : State) (t : Site) : Bool := decide (s.fieldState t.field = 2)

/-! ### Device memory -/

/-- A free value, and the counter moved on (DESIGN CHOICE, notes/assumptions/4.md). -/
def State.takeFree (s : State) : Dword × State := (Config.free s.freeCtr, { s with freeCtr := s.freeCtr + 1 })

/-- Store, loam and spill addresses of a site (R42). -/
def storeAddr (t : Site) (off : Nat) : Nat := 2 ^ 28 * t.py + 2 ^ 19 * t.px + off
def loamAddr (t : Site) (off : Nat) : Nat := 0x200000000000 + 2 ^ 36 * t.py + 2 ^ 27 * t.px + off
def spillAddr (t : Site) (off : Nat) : Nat := 0x400000000000 + 2 ^ 29 * t.py + 2 ^ 20 * t.px + off

def State.byte (s : State) (a : Nat) : Byte := mapGet memDefault s.mem a
def State.setByte (s : State) (a : Nat) (b : Byte) : State := { s with mem := mapSet memDefault s.mem a b }
def State.bytes (s : State) (a n : Nat) : List Byte := (List.range n).map (fun i => s.byte (a + i))
/-- Bytes written at rising addresses from a. -/
def State.setBytes (s : State) (a : Nat) : List Byte → State
  | [] => s
  | b :: bs => (s.setByte a b).setBytes (a + 1) bs

/-- Little-endian number of bytes (R6). -/
def leNat : List Byte → Nat
  | [] => 0
  | b :: bs => b.toNat + 256 * leNat bs

/-- The n little-endian bytes of a number. -/
def leBytes : Nat → Nat → List Byte
  | 0, _ => []
  | n + 1, v => BitVec.ofNat 8 v :: leBytes n (v / 256)

def flashByte (s : State) (a : Nat) : Byte := mapGet flashDefault s.flash a
def State.setFlash (s : State) (a : Nat) : List Byte → State
  | [] => s
  | b :: bs => { s with flash := mapSet flashDefault s.flash a b }.setFlash (a + 1) bs
def State.flashBytes (s : State) (a n : Nat) : List Byte := (List.range n).map (fun i => flashByte s (a + i))

/-- Bytes taken at an offset of a list; short lists read 0 beyond their end. -/
def takeAt (bs : List Byte) (off n : Nat) : List Byte := (List.range n).map (fun i => bs.getD (off + i) 0)
def leAt (bs : List Byte) (off n : Nat) : Nat := leNat (takeAt bs off n)

/-! ### Plots -/

/-- PLOT_RECT.VALID. -/
def State.plotValid (s : State) (p : Nat) : Bool := decide (p < 64) && decide (s.fld (rPlotRect p) 63 63 = 1)

/-- Whether plot p's committed rectangle contains a site (R279). -/
def State.inRect (s : State) (p : Nat) (t : Site) : Bool :=
  s.plotValid p && decide (s.fld (rPlotRect p) 8 0 ≤ t.px) && decide (t.px ≤ s.fld (rPlotRect p) 26 18) &&
    decide (s.fld (rPlotRect p) 17 9 ≤ t.py) && decide (t.py ≤ s.fld (rPlotRect p) 35 27)

/-- The plot whose rectangle contains a site. -/
def State.plotOf (s : State) (t : Site) : Option Nat := (List.range 64).find? (fun p => s.inRect p t)

/-- RAS_PLOT.FENCE: 0 none, 1 FENCING, 2 FENCED. -/
def State.fenceState (s : State) (p : Nat) : Nat := s.fld (rRasPlot p) 63 62

/-- PLOT_PLACE.STATE. -/
def State.placeState (s : State) (p : Nat) : Nat := s.fld (rPlotPlace p) 63 60

/-! ### Telemetry (R480 to R490) -/

def State.traceLevel (s : State) : Nat := s.fld rShadowDev 5 4
def State.stage (s : State) : Nat := s.fld rSecBoot 7 4
def State.onTelem (s : State) (f : Telem → Telem) : State := { s with telem := f s.telem }

/-- SOURCE of a record (R481): a site and its plot. -/
def State.source (s : State) (t : Site) : Word :=
  BitVec.ofNat 32 (t.px + t.py * 2 ^ 9 + (s.plotOf t).getD 0 * 2 ^ 18)
/-- SOURCE of the module as a whole. -/
def wholeModule : Word := 0xFFFFFFFF
/-- SOURCE of a plot: the model names it by its number alone (DESIGN CHOICE, notes/assumptions/7.md). -/
def plotSource (p : Nat) : Word := BitVec.ofNat 32 (p * 2 ^ 18)

/-- The first entry that satisfies p, rewritten. -/
def updFirst {α : Type} (p : α → Bool) (f : α → α) : List α → List α
  | [] => []
  | a :: l => if p a then f a :: l else a :: updFirst p f l
/-- The last entry that satisfies p, rewritten. -/
def updLast {α : Type} (p : α → Bool) (f : α → α) (l : List α) : List α := (updFirst p f l.reverse).reverse

def satAdd (m a b : Nat) : Nat := min m (a + b)

/-- An ALARM enters Bedrock's ring or is folded into a record of its code (R484, R488). -/
def alarmIn (tm : Telem) (r : TRec) : Telem :=
  let fresh := fun x : TRec => decide (x.code = r.code) && decide (x.source = r.source) && !tm.alarmSent.contains x.seq
  let fold := fun x : TRec => { x with rep := satAdd 0xFFFF x.rep 1, arg := r.arg }
  if tm.alarms.any fresh then { tm with alarms := updFirst fresh fold tm.alarms }
  else if !decide (tm.alarms.length < 65280) && tm.alarms.any (fun x => decide (x.code = r.code)) then
    { tm with alarms := updLast (fun x => decide (x.code = r.code)) (fun x => { fold x with multi := true }) tm.alarms }
  else { tm with alarms := tm.alarms ++ [{ r with cls := 0, seq := tm.aseq }], aseq := (tm.aseq + 1) % 2 ^ 32 }

/-- EVENT coalescing is active while its flag stands (R490); TELEM_STAT.COALESCING holds the flag. -/
def State.coalescing (s : State) : Bool := decide (s.fld rTelemStat 31 31 = 1)

/-- An EVENT enters Topsoil's ring, or the open SUMMARY of its code (R490). -/
def State.eventIn (s : State) (r : TRec) : State :=
  if s.coalescing || !decide (s.telem.events.length < 16384) then
    let open_ := fun x : TRec => decide (x.code = r.code)
    let s := s.bump rTelemDrop 31 0 1
    if s.telem.sums.any open_ then
      s.onTelem (fun tm => { tm with sums := updFirst open_ (fun x => { x with
        rep := satAdd 0xFFFF x.rep 1, multi := x.multi || decide (x.source ≠ r.source),
        arg := BitVec.ofNat 64 r.cycle }) tm.sums })
    else s.onTelem (fun tm => { tm with sums := tm.sums ++ [{ r with cls := 3, arg := BitVec.ofNat 64 r.cycle }] })
  else
    let s := s.onTelem (fun tm => { tm with events := tm.events ++ [{ r with cls := 1, seq := tm.eseq }],
                                            eseq := (tm.eseq + 1) % 2 ^ 32 })
    if !decide (s.telem.events.length < 12288) then s.setFld rTelemStat 31 31 1 else s

/-- A TRACE record enters its ring or is dropped and counted (R489). -/
def State.traceIn (s : State) (r : TRec) (outside : Bool) : State :=
  if s.coalescing || !decide (s.telem.traces.length < 262144) || outside then s.bump rTelemDrop 63 32 1
  else s.onTelem (fun tm => { tm with traces := tm.traces ++ [{ r with cls := 2, seq := tm.tseq }],
                                      tseq := (tm.tseq + 1) % 2 ^ 32 })

def mkRec (cls code cycle : Nat) (source : Word) (arg : Dword) : TRec :=
  { cls := cls, multi := false, code := code, seq := 0, cycle := cycle, source := source, rep := 0, lost := 0, arg := arg }

/-- A steward produces an ALARM (R480: at every trace level). -/
def State.alarm (s : State) (code : Nat) (source : Word) (arg : Nat) : State :=
  s.onTelem (fun tm => alarmIn tm (mkRec 0 code s.cycle source (BitVec.ofNat 64 arg)))

/-- A steward produces an EVENT: at trace levels EVENTS and FULL, once the device is READY (R480, R491). -/
def State.event (s : State) (code : Nat) (source : Word) (arg : Nat) : State :=
  if decide (1 ≤ s.traceLevel) && decide (s.stage = 8) then
    s.eventIn (mkRec 1 code s.cycle source (BitVec.ofNat 64 arg))
  else s

/-- A TELEM_TRACE source is on under trace level FULL (R480). -/
def State.traced (s : State) (bit : Nat) : Bool :=
  decide (s.traceLevel = 2) && decide (s.fld rTelemTrace bit bit = 1) && decide (s.stage = 8)

/-- A steward produces a TRACE record. -/
def State.trace (s : State) (bit code : Nat) (source : Word) (arg : Nat) : State :=
  if s.traced bit then s.traceIn (mkRec 2 code s.cycle source (BitVec.ofNat 64 arg)) false else s

/-- An EVENT of a tile enters the NI's telemetry queue under the rules of a full queue (R483). -/
def niEvent (ni : Ni) (r : TRec) : Ni :=
  if ni.tele.length < 7 then { ni with tele := ni.tele ++ [r] }
  else if ni.tele.any (fun x => decide (x.cls = 1) && decide (x.code = r.code)) then
    { ni with tele := updFirst (fun x => decide (x.cls = 1) && decide (x.code = r.code))
                        (fun x => { x with rep := satAdd 0xFFFF x.rep 1 }) ni.tele }
  else
    { ni with tele := updLast (fun x => decide (x.cls = 2)) (fun _ => r) ni.tele,
              teleLost := satAdd 0xFFFF ni.teleLost 1 }

/-- A TRACE record of a tile (R483): it carries the LOST count, or is dropped and counted. -/
def niTrace (ni : Ni) (r : TRec) : Ni :=
  if ni.tele.length < 7 then { ni with tele := ni.tele ++ [{ r with lost := ni.teleLost }], teleLost := 0 }
  else { ni with teleLost := satAdd 0xFFFF ni.teleLost 1 }

/-- An ALARM of a tile takes the kept entry (R483). -/
def niAlarm (ni : Ni) (r : TRec) : Ni :=
  { ni with teleAlarm := match ni.teleAlarm with
      | some x => some { x with rep := satAdd 0xFFFF x.rep 1, arg := r.arg }
      | none => some r }

def State.tileEvent (s : State) (t : Site) (code arg : Nat) : State :=
  if decide (1 ≤ s.traceLevel) && decide (s.stage = 8) then
    s.onNi t (fun ni => niEvent ni (mkRec 1 code s.cycle (s.source t) (BitVec.ofNat 64 arg)))
  else s
def State.tileTrace (s : State) (t : Site) (bit code arg : Nat) : State :=
  if s.traced bit then s.onNi t (fun ni => niTrace ni (mkRec 2 code s.cycle (s.source t) (BitVec.ofNat 64 arg))) else s
def State.tileAlarm (s : State) (t : Site) (code arg : Nat) : State :=
  s.onNi t (fun ni => niAlarm ni (mkRec 0 code s.cycle (s.source t) (BitVec.ofNat 64 arg)))

/-- An event that falls on a known edge: SHADOW_CYCLE has reached it (DESIGN CHOICE, notes/assumptions/3.md). -/
def State.atEdge (s : State) (c : Nat) : State := { s with cycle := max s.cycle c }

/-- A tile reports to the stewards in a SVC grain; the model delivers reports in order (DESIGN CHOICE, notes/assumptions/8.md). -/
def State.report (s : State) (t : Site) (n : SvcNote) : State := { s with svc := s.svc ++ [(t, n)] }

/-- The first report in the stewards' hands that satisfies p, and the list without it. -/
def takeFirst {α : Type} (p : α → Bool) : List α → Option (α × List α)
  | [] => none
  | a :: l => if p a then some (a, l) else match takeFirst p l with
    | some (b, m) => some (b, a :: m)
    | none => none

end Sys2Proof.Machine
end

