-- ==== Sys2Proof/Machine/Plots.lean ====
section
/-!
DEFINITION. Which tiles are rated and usable, the virtual coordinates of a plot, and the numbers that registers show of
them (R255 to R257, R437, R532, R525).
-/
namespace Sys2Proof.Machine

/-- A hot spare of the module as the model takes it to be shipped: 64 per present full field row position (lx 38 and 39 with
ly below 40 of field rows 1 to 6), and lx = 36, ly below 32 of field row 1. They are 4,096 sites, so that exactly 81,920
tiles are rated (R3; which sites are spares is the repair map's, DESIGN CHOICE, notes/assumptions/9.md). -/
def spareAsShipped (t : Site) : Bool :=
  decide (1 ≤ t.py / 40) && decide (t.py / 40 ≤ 6) &&
    (decide (38 ≤ t.lx) || (decide (t.py / 40 = 1) && decide (t.lx = 36) && decide (t.ly < 32)))

/-- A tile whose own logic, router or site is out of use (R436, R437, R532). -/
def State.tileGone (s : State) (t : Site) : Bool :=
  s.repair.deadTiles.contains t.key || s.repair.deadRouters.contains t.key || s.repair.retired.contains t.key ||
    s.repair.retiredFields.contains t.field

/-- TC_ID.RATED: a good tile that is no hot spare, or a promoted one (R3, R437). -/
def State.rated (s : State) (t : Site) : Bool :=
  t.isTile && !s.tileGone t && (!spareAsShipped t || s.repair.promoted.contains t.key)

/-- A good hot spare not yet promoted. -/
def State.spare (s : State) (t : Site) : Bool :=
  t.isTile && !s.tileGone t && spareAsShipped t && !s.repair.promoted.contains t.key

/-- The first four conditions of R255, for a site of some rectangle. -/
def State.goodSite (s : State) (t : Site) : Bool := s.rated t && !s.inUmbra t

/-- An irregular hole: a hole that is neither a service site nor absent (R257). -/
def State.irregular (s : State) (t : Site) : Bool := t.isTile && !s.goodSite t

/-- The usable px of a row, in rising order, until its 33rd irregular hole (R256, R257). -/
def rowWalk (s : State) (py : Nat) : Nat → List Nat → List Nat
  | _, [] => []
  | holes, px :: l =>
    let t : Site := { px := px, py := py }
    if s.goodSite t then px :: rowWalk s py holes l
    else if s.irregular t then (if holes = 32 then [] else rowWalk s py (holes + 1) l)
    else rowWalk s py holes l

def State.rectXs (s : State) (p : Nat) : List Nat :=
  let x0 := s.fld (rPlotRect p) 8 0
  (List.range (s.fld (rPlotRect p) 26 18 + 1 - x0)).map (fun i => x0 + i)
def State.rectYs (s : State) (p : Nat) : List Nat :=
  let y0 := s.fld (rPlotRect p) 17 9
  (List.range (s.fld (rPlotRect p) 35 27 + 1 - y0)).map (fun i => y0 + i)

/-- The usable tiles of row py of plot p. -/
def State.rowOf (s : State) (p py : Nat) : List Nat :=
  if s.plotValid p then rowWalk s py 0 (s.rectXs p) else []

/-- The usable tiles of a plot in raster order (R263). -/
def State.usable (s : State) (p : Nat) : List Site :=
  if s.plotValid p then (s.rectYs p).flatMap (fun y => (s.rowOf p y).map (fun x => { px := x, py := y })) else []

/-- Where an element stands in a list. -/
def indexIn (l : List Nat) (x : Nat) : Option Nat :=
  match l with
  | [] => none
  | a :: m => if a = x then some 0 else (indexIn m x).map (· + 1)

/-- The plot and virtual coordinates (p, vx, vy) of a usable tile (R256). -/
def State.virt (s : State) (t : Site) : Option (Nat × Nat × Nat) :=
  match s.plotOf t with
  | none => none
  | some p => (indexIn (s.rowOf p t.py) t.px).map (fun vx => (p, vx, t.py - s.fld (rPlotRect p) 17 9))

/-- The site of virtual tile (vx, vy) of plot p; none outside the plot map (R257). -/
def State.phys (s : State) (p vx vy : Nat) : Option Site :=
  let py := s.fld (rPlotRect p) 17 9 + vy
  if s.plotValid p && decide (py ≤ s.fld (rPlotRect p) 35 27) then
    ((s.rowOf p py)[vx]?).map (fun px => { px := px, py := py })
  else none

/-- A peer of a tile by virtual coordinates, through the plot map of its NI. -/
def State.peer (s : State) (t : Site) (vx vy : Nat) : Option Site :=
  match s.plotOf t with
  | some p => s.phys p vx vy
  | none => none

/-- The word {vy, vx} of R110 and R138; 0 outside a plot. -/
def State.vxy (s : State) (t : Site) : Nat :=
  match s.virt t with
  | some (_, vx, vy) => vy * 2 ^ 16 + vx
  | none => 0

/-- Good sites of the rectangle that lie beyond the end of their row: the cut tiles of R257. -/
def State.cutTiles (s : State) (p : Nat) : List Site :=
  if s.plotValid p then
    (s.rectYs p).flatMap (fun y =>
      let row := s.rowOf p y
      ((s.rectXs p).filter (fun x => s.goodSite { px := x, py := y } && !row.contains x)).map
        (fun x => { px := x, py := y }))
  else []

/-- PLOT_MAPINFO of plot p (R279). -/
def State.mapInfo (s : State) (p : Nat) : Dword :=
  if s.plotValid p then
    let ws := (s.rectYs p).map (fun y => (s.rowOf p y).length)
    BitVec.ofNat 64 (ws.foldl (· + ·) 0 * 2 ^ 47 + ws.foldl max 0 * 2 ^ 38 +
      (match ws with | [] => 0 | w :: l => l.foldl min w) * 2 ^ 29 + (s.cutTiles p).length * 2 ^ 16)
  else 0

/-- Tiles of the module that satisfy c (R525). -/
def countTiles (c : Site → Bool) : Nat :=
  (List.range 320).foldl (fun n y => (List.range 320).foldl (fun n x => if c { px := x, py := y } then n + 1 else n) n) 0

/-- ID_TILES (R525): rated, retired since manufacture, hot spares left. -/
def State.idTiles (s : State) : Dword :=
  BitVec.ofNat 64 (countTiles s.rated * 2 ^ 34 +
    countTiles (fun t => t.isTile && (s.repair.retired.contains t.key || s.repair.retiredFields.contains t.field) &&
      !s.repair.deadTiles.contains t.key) * 2 ^ 17 + countTiles s.spare)

/-- A tile's TC_ID (R72). -/
def State.tcId (s : State) (t : Site) : Dword :=
  BitVec.ofNat 64 ((if s.rated t then 2 ^ 24 else 0) + (s.plotOf t).getD 0 * 2 ^ 18 + t.py * 2 ^ 9 + t.px)

/-- Whether a RUN of plot p is running. -/
def State.running (s : State) (p : Nat) : Bool := (s.plot p).run.isSome

/-- A tile sends by itself: no fence of its plot stops it (R427). -/
def State.maySend (s : State) (t : Site) : Bool :=
  match s.plotOf t with
  | some p => decide (s.fenceState p = 0)
  | none => true

/-! ### Dark and reset tiles (R394, R433) -/

/-- The bytes of a tile's store are dropped: an unlisted byte reads 0. -/
def State.dropStore (s : State) (t : Site) : State :=
  { s with mem := s.mem.filter (fun (e : Host.Cell) => !(decide (storeAddr t 0 ≤ e.1) && decide (e.1 < storeAddr t 0x80000))) }

/-- A tile goes DARK: nothing of it is kept but its loam (R394, R396). -/
def State.darken (s : State) (t : Site) : State := (s.dropStore t).setTile t { Tile.reset with loam := (s.tile t).loam }

/-- The rows of a tile that the repair map names, as the tile loads them (R50). -/
def Repair.remapOf (r : Repair) (t : Site) : List (Nat × Nat) :=
  r.rows.foldl (fun (m : List (Nat × Nat)) (e : Nat × Nat × Nat × Nat) =>
    if e.1 = t.key then mapPut m (e.2.1 * 512 + e.2.2.1) e.2.2.2 else m) []

/-- A tile that leaves a reset: its core's clock count begins, its remap tables and its store mode are set. -/
def Tile.wake (loam : LoamCtl) (cycle : Nat) (remap : List (Nat × Nat)) (regs : List (Nat × Dword)) : Tile :=
  let x := Tile.awake
  { x with loam := loam, core := { x.core with cycBase := cycle }, info := { x.info with remap := remap }, creg := regs }

/-- What a site holds of the untracked traffic of tile t is dropped. -/
def Ni.partFrom (t : Site) (n : Ni) : Ni :=
  { n with rx := n.rx.filter (fun r => !(decide (0x3C0 ≤ r.conn) && decide (r.src = t)))
           tx := n.tx.filter (fun c => !(decide (0x3C0 ≤ c.conn) && decide (c.dst = t))) }

/-- TC_STORE_CFG of a tile that leaves a reset: the store mode of its plot. -/
def State.storeMode (s : State) (t : Site) : List (Nat × Dword) :=
  match s.plotOf t with
  | some p => if s.fld (rPlotMode p) 3 3 = 1 then [(0x70108, 1)] else []
  | none => []

/-- A reset of a tile (R50, R111, R433): its store zeroed, its remap tables loaded, every register at its reset value, the store mode
of its plot; its loam is kept. What its peers hold of its untracked traffic goes with it (DESIGN CHOICE, notes/assumptions/22.md). -/
def State.resetTile (s : State) (t : Site) : State :=
  let regs := s.storeMode t
  let x := Tile.wake (s.tile t).loam s.cycle (s.repair.remapOf t) regs
  let s := { s with tiles := mapEach (fun _ => Tile.reset) (fun y => { y with ni := y.ni.partFrom t }) s.tiles }
  (s.dropStore t).setTile t x

/-- FACET_CASC.STATE: 0 SOLO, 1 FORMING, 2 FORMED, 3 BROKEN, 4 FAILED. -/
def State.cascState (s : State) : Nat := s.fld rFacetCasc 63 60

/-! ### The TE issue rate (R399, R400, R405 to R407) -/

/-- A shutdown is in effect (R410). -/
def State.shutDown (s : State) : Bool := decide (s.fld rPwrSupply 2 2 = 1)

/-- The least of the ceilings of R400 but the droop clamp: what the clamp and the climb after a barrier rise to. -/
def State.rateGoal (s : State) (t : Site) : Nat :=
  let plot := match s.plotOf t with
    | some p => min (s.fld (rPwrPlot p) 19 16 + 1)
        (if s.fld rShadowDev 3 2 = 2 then max 1 (s.fld rPwrCapSet 19 16 + 1 - s.supply.drops) else s.fld (rPwrPlot p) 23 20 + 1)
    | none => 16
  min plot (min (s.fld (rPwrField t.field) 35 32 + 1) (min s.supply.ceil 16))

/-- The rate in force at a tile: sixteenths of the full issue rate, 0 while issue is stopped. -/
def State.rateAt (s : State) (t : Site) : Nat :=
  if s.shutDown then 0
  else
    let r := min (s.rateGoal t) (match (s.fieldRt t.field).clamp with | some n => n | none => 16)
    match (s.tile t).climb with | some n => min r n | none => r

/-- The TE of a tile issues. -/
def State.issues (s : State) (t : Site) : Bool := decide (s.rateAt t ≠ 0)

/-- Work that reaches the TE ends backfill (R407). -/
def Tile.stopBackfill (x : Tile) : Tile := { x with backfill := none }

/-- Backfill starts at a tile whose core blocks in BAR while its TE queue holds no command (R407). In the beat group it holds the
rate of the last microsecond of work, which the state does not measure: a free value. -/
def State.startBackfill (s : State) (t : Site) : State :=
  match (s.core t).blocked with
  | some (.bar n) =>
    if decide (s.fld rPwrBf 0 0 = 1) && (s.queue t 0).entries.isEmpty && (s.queue t 0).flight.isEmpty && (s.tile t).backfill.isNone then
      if n = 15 then
        let (v, s) := s.takeFree
        s.onTile t (fun x => { x with backfill := some (v.toNat % 16 + 1), climb := none })
      else
        let r := s.rateAt t
        s.onTile t (fun x => { x with backfill := some r, climb := none })
    else s
  | _ => s

end Sys2Proof.Machine
end

