-- ==== Sys2Proof/Machine/Mirror.lean ====
section
/-!
DEFINITION. Grains as an NI makes them (R21 to R24), and the twins of a plot under MIRROR: pairs, digests and compare
points (R263, R438, R439).
-/
namespace Sys2Proof.Machine

/-- The ordering class of a KIND (R23): 0 REQ, 1 RPL, 2 DAT. -/
def kindClass (k : Nat) : Nat :=
  if k ≤ 1 then 2 else if decide (k = 2) || decide (k = 3) || decide (k = 6) || decide (k = 8) || decide (k = 14) then 0
  else 1

/-- KINDs that carry a SEQ (R23). -/
def kindSequenced (k : Nat) : Bool := decide (k ≤ 5)

/-- A grain of the tile's NI to a site. -/
def mkGrain (src dst : Site) (kind conn seq : Nat) (last : Bool) (body : Payload) : Grain :=
  { rsv := 0, last := last, seq := BitVec.ofNat 5 seq, conn := BitVec.ofNat 10 conn, kind := BitVec.ofNat 4 kind,
    cls := BitVec.ofNat 3 (kindClass kind), sy := BitVec.ofNat 9 src.py, sx := BitVec.ofNat 9 src.px,
    dy := BitVec.ofNat 9 dst.py, dx := BitVec.ofNat 9 dst.px, body := body }

/-- A grain handed to the router's local port. -/
def State.niSend (s : State) (t : Site) (g : Grain) : State := s.onNi t (fun n => { n with outbox := n.outbox ++ [g] })

/-- PLOT_MODE bit b of the plot that owns a tile. -/
def State.plotBit (s : State) (t : Site) (b : Nat) : Bool :=
  match s.plotOf t with
  | some p => decide (s.fld (rPlotMode p) b b = 1)
  | none => false

/-- The index of a tile in its plot's raster order. -/
def State.rank (s : State) (t : Site) : Nat :=
  match s.plotOf t with
  | some p => (indexIn ((s.usable p).map Site.key) t.key).getD 0
  | none => 0

/-- The even twin of a tile's pair (R263). -/
def State.evenTwin (s : State) (t : Site) : Site :=
  match s.plotOf t with
  | some p => ((s.usable p)[s.rank t / 2 * 2]?).getD t
  | none => t

/-- Whether a tile is the odd twin of its pair. -/
def State.oddTwin (s : State) (t : Site) : Bool := decide (s.rank t % 2 = 1)

/-- The ECMA-182 polynomial of CRC-64. -/
def crcPoly : Dword := 0x42F0E1EBA9EA3693

/-- One bit of the CRC register, most significant bit first. -/
def crcBit (c : Dword) : Dword := if c.msb then (c <<< 1) ^^^ crcPoly else c <<< 1

/-- CRC-64 of R438: polynomial of ECMA-182, initial value all ones, final XOR all ones. -/
def crc64 (bs : List Byte) : Dword :=
  ~~~ (bs.foldl (fun c b => Nat.repeat crcBit 8 (c ^^^ (BitVec.setWidth 64 b <<< 56))) (BitVec.allOnes 64))

/-- PLOT_MODE.MIRROR at a tile whose plot runs a RUN. -/
def State.mirrored (s : State) (t : Site) : Bool :=
  s.plotBit t 1 && (match s.plotOf t with | some p => s.running p | none => false)

/-- A compare point (R438): the even twin keeps its digest, the odd twin sends its own. The kinds are numbered in the order
of R438's list: 0 TE drain, 1 LD SAVE, 2 cache write-back, 3 PUT, 4 SENDS, 5 SEND, 6 UE write to loam, 7 REDUCE. -/
def State.mirrorPoint (s : State) (t : Site) (kind : Nat) (bs : List Byte) : State :=
  if s.mirrored t then
    let n := (s.ni t).twinNum
    let s' := s.onNi t (fun x => { x with twinNum := n + 1 })
    if s.oddTwin t then
      s'.niSend t (mkGrain t (s.evenTwin t) 10 0 0 true (.twin kind n (crc64 bs)))
    else s'.onNi t (fun x => { x with digests := x.digests ++ [{ point := kind, num := n, value := crc64 bs }] })
  else s

/-- The even twin holds 64 digests that await their partners: its drains and sends stall (R439). -/
def State.twinStall (s : State) (t : Site) : Bool := s.mirrored t && !s.oddTwin t && decide (64 ≤ (s.ni t).digests.length)

end Sys2Proof.Machine
end

