-- ==== Sys2Proof/Machine/Store.lean ====
section
/-!
DEFINITION. The tile store with its code, row sparing and generation tags, the cache of SPLIT, and the loam column
(chapter 2; R418 to R421), with the meanings of the events of these units.
-/
namespace Sys2Proof.Machine

/-! ### Local register addresses (R71) -/

def aStoreCfg : Nat := 0x70108
def aEccStat : Nat := 0x70110
def aEccLog : Nat := 0x70118
def aSpareStat : Nat := 0x70120
def aGenCfg : Nat := 0x70128
def aGenStat : Nat := 0x70130
def aGenLog : Nat := 0x70138

/-- TC_STORE_CFG.SPLIT: banks 8 to 11 are cache. -/
def State.isSplit (s : State) (t : Site) : Bool := decide (s.cfld t aStoreCfg 0 0 = 1)

/-- Bytes of scratchpad: 384 KiB, or the 256 KiB that R60 leaves. -/
def State.storeEnd (s : State) (t : Site) : Nat := if s.isSplit t then 0x40000 else 0x60000

/-! ### Error correction and sparing -/

/-- The 64 B rows, and the 8 B words, that n bytes from an offset touch. -/
def rowsOf (off n : Nat) : List Nat := (List.range ((off + n + 63) / 64 - off / 64)).map (fun i => off / 64 + i)
def wordsOf (off n : Nat) : List Nat := (List.range ((off + n + 7) / 8 - off / 8)).map (fun i => off / 8 + i)

/-- A number added to a rising list. -/
def insertNat (l : List Nat) (w : Nat) : List Nat :=
  l.filter (fun x => decide (x < w)) ++ [w] ++ l.filter (fun x => decide (w < x))

def State.onInfo (s : State) (t : Site) (f : Meta → Meta) : State := s.onTile t (fun x => { x with info := f x.info })

/-- Physical row of a logical row: its spare, where the remap table names one (R50). -/
def physRow (m : Meta) (bank row : Nat) : Nat :=
  match m.remap.find? (fun e => decide (e.1 = bank * 512 + row)) with
  | some e => 512 + e.2
  | none => row

/-- Spares of a bank in use: the next free one has this number. -/
def sparesUsed (m : Meta) (bank : Nat) : Nat :=
  m.remap.foldl (fun n e => if e.1 / 512 = bank then max n (e.2 + 1) else n) 0

/-- TC_ECC_STAT and TC_ECC_LOG after an error (R48, R73). -/
def State.eccEvent (s : State) (t : Site) (ue : Bool) (bank prow word : Nat) (synd : Nat) : State :=
  let s := if ue then (s.setCfld t aEccStat 1 1 1).cbump t aEccStat 63 48
           else (s.setCfld t aEccStat 0 0 1).cbump t aEccStat 47 32
  if decide (s.cfld t aEccLog 63 62 = 3) && !ue then s
  else s.setCreg t aEccLog (BitVec.ofNat 64
    (2 ^ 63 + (if ue then 2 ^ 62 else 0) + bank * 2 ^ 58 + prow * 2 ^ 48 + synd * 2 ^ 40 + word * 2 ^ 37))

/-- A logical row is spared (R52, R53), or stays in place when its bank has no spare left (R55). The notice goes to the
steward. poison: every word of the spare is written with the poison pattern. -/
def State.spareRow (s : State) (t : Site) (bank row : Nat) (poison : Bool) : State :=
  let m := (s.tile t).info
  let n := sparesUsed m bank
  if 16 ≤ n then (s.setCfld t aSpareStat 60 60 1).report t (.exhausted bank)
  else
    let w0 := (bank * 512 + row) * 8
    let s := s.onInfo t (fun m => { m with
      remap := mapPut m.remap (bank * 512 + row) n
      upsets := m.upsets.filter (fun e => !(decide (w0 ≤ e.1) && decide (e.1 < w0 + 8)))
      once := m.once.filter (fun r => decide (r ≠ bank * 512 + row))
      poison := if poison then
          (wordsOf (8 * w0) 64).foldl insertNat m.poison
        else m.poison })
    s.report t (.sparing bank row n)

/-- One word in error meets a read (R48, R51). -/
def State.eccWord (s : State) (t : Site) (word : Nat) (u : Upset) : State :=
  let bank := word / 4096
  let row := word / 8 % 512
  let m := (s.tile t).info
  let s := s.eccEvent t u.dbl bank (physRow m bank row) (word % 8) u.synd.toNat
  if u.dbl then s.spareRow t bank row true
  else
    let s := s.onInfo t (fun m => { m with upsets := mapDel m.upsets word })
    if m.once.contains (bank * 512 + row) then s.spareRow t bank row false
    else s.onInfo t (fun m => { m with once := m.once ++ [bank * 512 + row] })

/-- A poisoned word meets a read: an uncorrectable error again (R53). The spec gives its syndrome no value: a free one. -/
def State.eccPoison (s : State) (t : Site) (word : Nat) : State :=
  let (v, s) := s.takeFree
  s.eccEvent t true (word / 4096) (physRow (s.tile t).info (word / 4096) (word / 8 % 512)) (word % 8) (v.toNat % 256)

/-- A read of n bytes from store offset off meets the code (R48): the state after, and whether an error was uncorrectable. -/
def State.eccRead (s : State) (t : Site) (off n : Nat) : State × Bool :=
  let m := (s.tile t).info
  let inside := fun w : Nat => decide (off / 8 ≤ w) && decide (w < (off + n + 7) / 8)
  let ps := m.poison.filter inside
  let us := m.upsets.filter (fun e => inside e.1 && !m.poison.contains e.1)
  let s := ps.foldl (fun s w => s.eccPoison t w) s
  let s := us.foldl (fun s e => s.eccWord t e.1 e.2) s
  (s, !ps.isEmpty || us.any (fun e => e.2.dbl))

/-- The uncorrectable word of lowest address in a range, if any. -/
def State.firstUe (s : State) (t : Site) (off n : Nat) : Option Nat :=
  let m := (s.tile t).info
  (wordsOf off n).find? (fun w =>
    m.poison.contains w || m.upsets.any (fun e => decide (e.1 = w) && e.2.dbl))

/-! ### Generation tags (R64 to R66) -/

def State.genOn (s : State) (t : Site) : Bool := decide (s.cfld t aGenCfg 0 0 = 1)

/-- One mismatch (R65). -/
def State.genMismatch (s : State) (t : Site) (q g found row : Nat) : State :=
  let s := (s.setCfld t aGenStat 0 0 1).cbump t aGenStat 63 32
  let s := if s.cfld t aGenLog 63 63 = 0 then
      s.setCreg t aGenLog (BitVec.ofNat 64 (2 ^ 63 + q * 2 ^ 56 + g * 2 ^ 52 + found * 2 ^ 48 + row * 2 ^ 6))
    else s
  s.tileEvent t 0x0100 (s.creg t aGenLog).toNat

/-- An engine read compares the tag of each row with a generation other than 0. -/
def State.genCheck (s : State) (t : Site) (off n g q : Nat) : State :=
  if s.genOn t && !(s.tile t).info.clearing && decide (g ≠ 0) && decide (n ≠ 0) then
    (rowsOf off n).foldl (fun s r =>
      let found := mapGet (fun _ => 0) (s.tile t).info.gens r
      if found = g then s else s.genMismatch t q g found r) s
  else s

/-- A write stamps each row it touches. -/
def State.genStamp (s : State) (t : Site) (off n g : Nat) : State :=
  if s.genOn t && decide (n ≠ 0) then
    s.onInfo t (fun m => { m with gens := (rowsOf off n).foldl (fun gs r => mapSet (fun _ => 0) gs r g) m.gens })
  else s

/-- A write of TC_GEN_CFG (R66), by a core store, a steward, or the commit of key 0x02. -/
def State.writeGenCfg (s : State) (t : Site) (v : Dword) : State :=
  let en := Dword.field v 0 0
  let s' := s.setCreg t aGenCfg (v &&& 0xF01)
  if decide (en = 1) && !s.genOn t then
    (s'.setCfld t aGenStat 63 32 0).onInfo t (fun m => { m with gens := [], clearing := true })
  else if en = 0 then s'.onInfo t (fun m => { m with clearing := false })
  else s'

/-! ### Store access -/

/-- What a read of the store delivers; the code is met first. -/
def State.readStore (s : State) (t : Site) (off n : Nat) : List Byte × State × Bool :=
  let (s, ue) := s.eccRead t off n
  (s.bytes (storeAddr t off) n, s, ue)

/-- Words wholly written lose their errors and their poison; a word written in part is read first (R47, R53). -/
def State.writeStore (s : State) (t : Site) (off : Nat) (bs : List Byte) (g : Nat) : State :=
  if bs.isEmpty then s
  else
    let e := off + bs.length
    let whole := fun w : Nat => decide (off ≤ 8 * w) && decide (8 * w + 8 ≤ e)
    let s := if whole (off / 8) then s else (s.eccRead t off 1).1
    let s := if whole ((e - 1) / 8) || decide ((e - 1) / 8 = off / 8) then s else (s.eccRead t (e - 1) 1).1
    let s := s.onInfo t (fun m => { m with
      poison := m.poison.filter (fun w => !whole w), upsets := m.upsets.filter (fun x => !whole x.1) })
    (s.setBytes (storeAddr t off) bs).genStamp t off bs.length g

/-! ### The loam column -/

def State.onLoam (s : State) (t : Site) (f : LoamCtl → LoamCtl) : State := s.onTile t (fun x => { x with loam := f x.loam })
def State.onCache (s : State) (t : Site) (f : Cache → Cache) : State := s.onTile t (fun x => { x with cache := f x.cache })

/-- Every access the controller performs leaves its own DRAM row open (R76). -/
def State.openRow (s : State) (t : Site) (line : Nat) : State := s.onLoam t (fun l => { l with openRow := some (line / 32) })

def State.loamLine (s : State) (t : Site) (line : Nat) : List Byte := s.bytes (loamAddr t (64 * line)) 64

/-- A line written whole: it stops being poisoned (R421). -/
def State.putLine (s : State) (t : Site) (line : Nat) (bs : List Byte) : State :=
  ((s.setBytes (loamAddr t (64 * line)) bs).onLoam t (fun l => { l with
    poison := l.poison.filter (fun x => decide (x ≠ line)) })).openRow t line

def State.poisonLine (s : State) (t : Site) (line : Nat) : State :=
  s.onLoam t (fun l => { l with poison := insertNat l.poison line })

/-- What the code makes of a line that is read (R419, R420): counts, write-backs, and the marks of failing layers. -/
def State.loamDecode (s : State) (t : Site) (line : Nat) (err : LoamErr) : State :=
  match err with
  | .clean => s
  | .corrected => (s.bump rRasLoam 31 0 1).onLoam t (fun l => { l with wback := l.wback ++ [line] })
  | .erasure layer =>
    let s := (s.bump rRasLoam 47 32 1).onLoam t (fun l => { l with wback := l.wback ++ [line] })
    let recent := ((mapGet (fun _ => []) (s.tile t).loam.erased layer).filter
      (fun c => decide (s.cycle < c + 1500000000))) ++ [s.cycle]
    let s := s.onLoam t (fun l => { l with erased := mapSet (fun _ => []) l.erased layer recent })
    if decide (16 ≤ recent.length) && !s.repair.layers.contains (t.key, layer) then
      { s with repair := { s.repair with layers := s.repair.layers ++ [(t.key, layer)] } }.report t (.layerFailed layer)
    else s
  | .uncorrectable => (s.bump rRasLoam 63 48 1).poisonLine t line

/-! ### The cache of SPLIT (R56 to R59) -/

def Tag.none : Tag := { valid := false, dirty := false, tag := 0 }
def Tile.tagAt (x : Tile) (set way : Nat) : Tag := mapGet (fun _ => Tag.none) x.cache.tags (4 * set + way)
def State.setTag (s : State) (t : Site) (set way : Nat) (v : Tag) : State :=
  s.onCache t (fun c => { c with tags := mapSet (fun _ => Tag.none) c.tags (4 * set + way) v })
def wayOff (set way : Nat) : Nat := (8 + way) * 0x8000 + set * 64

/-- The way that holds a line. -/
def Tile.hit (x : Tile) (line : Nat) : Option Nat :=
  (List.range 4).find? (fun w => (x.tagAt (line % 512) w).valid && decide ((x.tagAt (line % 512) w).tag = line / 512))

/-- Tree pseudo-LRU of 3 bits: bit 0 the half, bit 1 the way of ways 0 and 1, bit 2 the way of ways 2 and 3, each naming
the side to replace next (R56; which bit is which is the model's, DESIGN CHOICE, notes/assumptions/10.md). -/
def plruVictim (b : Nat) : Nat := if b % 2 = 0 then b / 2 % 2 else 2 + b / 4 % 2
def plruTouch (b way : Nat) : Nat :=
  let b0 := if way < 2 then 1 else 0
  let b1 := if way < 2 then 1 - way % 2 else b / 2 % 2
  let b2 := if way < 2 then b / 4 % 2 else 1 - way % 2
  b0 + 2 * b1 + 4 * b2
def State.touch (s : State) (t : Site) (set way : Nat) : State :=
  s.onCache t (fun c => { c with plru := mapSet (fun _ => 0) c.plru set (plruTouch (mapGet (fun _ => 0) c.plru set) way) })

/-- The oldest line of the write-back buffer goes to loam (R58). -/
def State.writeBackOldest (s : State) (t : Site) : State :=
  match (s.tile t).cache.wback with
  | [] => s
  | (line, bad, bs) :: rest =>
    let s := ((s.mirrorPoint t 2 bs).putLine t line bs).onCache t (fun c => { c with wback := rest })
    if bad then s.poisonLine t line else s

/-- Every buffered line goes to loam. -/
def State.writeBackAll (s : State) (t : Site) : State :=
  (s.tile t).cache.wback.foldl (fun s _ => s.writeBackOldest t) s

/-- A way gives up its line: a dirty one enters the write-back buffer, poisoned when an error has cost its data (R58, R59). -/
def State.evict (s : State) (t : Site) (set way : Nat) : State :=
  let g := (s.tile t).tagAt set way
  let s' := s.setTag t set way Tag.none
  if g.valid && g.dirty then
    let s' := if 8 ≤ (s.tile t).cache.wback.length then s'.writeBackOldest t else s'
    let bad := (s.firstUe t (wayOff set way) 64).isSome
    s'.onCache t (fun c => { c with wback := c.wback ++
      [(g.tag * 512 + set, bad, s.bytes (storeAddr t (wayOff set way)) 64)] })
  else s'

/-- The way a miss replaces: the lowest invalid one, or the pseudo-LRU way (R56). -/
def Tile.victim (x : Tile) (set : Nat) : Nat :=
  match (List.range 4).find? (fun w => !(x.tagAt set w).valid) with
  | some w => w
  | none => plruVictim (mapGet (fun _ => 0) x.cache.plru set)

/-- The bytes of a cache row, written whole. -/
def State.setRow (s : State) (t : Site) (off : Nat) (bs : List Byte) : State :=
  (s.onInfo t (fun m => { m with
    poison := m.poison.filter (fun w => !(decide (off / 8 ≤ w) && decide (w < off / 8 + 8)))
    upsets := m.upsets.filter (fun e => !(decide (off / 8 ≤ e.1) && decide (e.1 < off / 8 + 8))) })).setBytes
    (storeAddr t off) bs

/-- A line is allocated. -/
def State.allocate (s : State) (t : Site) (line : Nat) (bs : List Byte) (dirty : Bool) : State :=
  let set := line % 512
  let way := (s.tile t).victim set
  let s := s.evict t set way
  ((s.setRow t (wayOff set way) bs).setTag t set way { valid := true, dirty := dirty, tag := line / 512 }).touch t set way

/-- A line that waits in the write-back buffer goes to loam before the line is read again. -/
def State.flushLine (s : State) (t : Site) (line : Nat) : State :=
  if (s.tile t).cache.wback.any (fun e => decide (e.1 = line)) then s.writeBackAll t else s

/-- A hit's row is read through the code (R59): the bytes, or none where a dirty line's data is lost; a clean line in error
is invalidated and left to be fetched again. -/
def State.hitRead (s : State) (t : Site) (line way : Nat) : Option (Option (List Byte)) × State :=
  let set := line % 512
  let (bs, s', ue) := s.readStore t (wayOff set way) 64
  if ue then
    if ((s.tile t).tagAt set way).dirty then
      (some none, ((s'.setTag t set way Tag.none).putLine t line bs).poisonLine t line)
    else (none, s'.setTag t set way Tag.none)
  else (some (some bs), s'.touch t set way)

/-- A line read from the column, through the cache in SPLIT (R57): none where the error is uncorrectable (R78). -/
def State.loamRead (s : State) (t : Site) (line : Nat) (strm : Bool) : Option (List Byte) × State :=
  let fetch := fun s : State =>
    let s := (s.flushLine t line).openRow t line
    if (s.tile t).loam.poison.contains line then (none, s)
    else
      let bs := s.loamLine t line
      (some bs, if s.isSplit t && !strm then s.allocate t line bs false else s)
  match (if s.isSplit t then (s.tile t).hit line else none) with
  | some way =>
    match s.hitRead t line way with
    | (some r, s') => (r, s')
    | (none, s') => fetch s'
  | none => fetch s

/-- A line written whole to the column, through the cache in SPLIT. -/
def State.loamWrite (s : State) (t : Site) (line : Nat) (bs : List Byte) (strm : Bool) : State :=
  if s.isSplit t then
    match (s.tile t).hit line with
    | some way =>
      let set := line % 512
      ((s.setRow t (wayOff set way) bs).setTag t set way { (s.tile t).tagAt set way with dirty := true }).touch t set way
    | none => if strm then (s.flushLine t line).putLine t line bs else (s.flushLine t line).allocate t line bs true
  else s.putLine t line bs

/-- n bytes of the column from loam offset off; none where a line is uncorrectable. -/
def State.loamBytes (s : State) (t : Site) (off n : Nat) : Option (List Byte) × State :=
  let lines := rowsOf off n
  let (r, s) := lines.foldl (fun (a : Option (List Byte) × State) l =>
    match a with
    | (none, s) => (none, s)
    | (some bs, s) => match s.loamRead t l false with
      | (some x, s) => (some (bs ++ x), s)
      | (none, s) => (none, s)) (some [], s)
  (r.map (fun bs => takeAt bs (off % 64) n), s)

/-- Bytes written into the column: a line written in part is read, merged and written back (R76); a poisoned line written
in part stays poisoned. -/
def State.loamPut (s : State) (t : Site) (off : Nat) (bs : List Byte) : State :=
  (rowsOf off bs.length).foldl (fun s l =>
    let lo := 64 * l
    if decide (off ≤ lo) && decide (lo + 64 ≤ off + bs.length) then s.loamWrite t l (takeAt bs (lo - off) 64) false
    else match s.loamRead t l false with
      | (none, s) => s
      | (some old, s) =>
        s.loamWrite t l ((List.range 64).map (fun i =>
          if decide (off ≤ lo + i) && decide (lo + i < off + bs.length) then bs.getD (lo + i - off) 0
          else old.getD i 0)) false) s

/-! ### Meanings -/

/-- STORE_SCRUB (R49). The bank reads the physical row of its scrub pointer, and meets what is wrong with it. found is an
error that has arisen in the bank by then, in any physical row. -/
def execStoreScrub (t : Site) (bank : Nat) (found : Option Upset) (s : State) : Out :=
  onTile t s (onUnit (decide (bank < 12)) (
    let m := (s.tile t).info
    let logical := fun p : Nat =>
      if p < 512 then (if m.remap.any (fun e => decide (e.1 = bank * 512 + p)) then none else some p)
      else (m.remap.find? (fun e => decide (e.1 / 512 = bank) && decide (512 + e.2 = p))).map (fun e => e.1 % 512)
    let s := match found with
      | none => s
      | some u => match logical u.row with
        | none => s
        | some r => s.onInfo t (fun m => { m with upsets := mapPut m.upsets ((bank * 512 + r) * 8 + u.word % 8) u })
    let prow := mapGet (fun _ => 0) m.scrub bank
    let s := s.onInfo t (fun m => { m with scrub := mapSet (fun _ => 0) m.scrub bank ((prow + 1) % 528) })
    match logical prow with
    | none => .next s
    | some r => .next (s.eccRead t ((bank * 512 + r) * 64) 64).1))

/-- CACHE_ACCESS (R57, R58). A hit is served at once; a miss evicts its victim and asks the loam for the line. -/
def execCacheAccess (t : Site) (line : Nat) (store : Option (List Byte)) (strm : Bool) (s : State) : Out :=
  onTile t s (onUnit (decide (line < Config.loamLines)) (
    let miss := fun s : State =>
      let s := s.flushLine t line
      let s := if strm then s else s.evict t (line % 512) ((s.tile t).victim (line % 512))
      s.onCache t (fun c => { c with misses := c.misses ++ [{ line := line, store := store, strm := strm }] })
    when_ "CACHE_ACCESS" (s.isSplit t) (
      match (s.tile t).hit line with
      | none => miss s
      | some way =>
        match store with
        | some bs => s.loamWrite t line (takeAt bs 0 64) strm
        | none => match s.hitRead t line way with
          | (some _, s') => s'
          | (none, s') => miss s')))

/-- CACHE_FILL (R58, R59). The oldest missed line arrives: it is delivered, and allocated unless it streams. -/
def execCacheFill (t : Site) (err : LoamErr) (s : State) : Out :=
  onTile t s (match (s.tile t).cache.misses with
    | [] => .refused (.notEnabled "CACHE_FILL")
    | m :: rest =>
      let s := (s.onCache t (fun c => { c with misses := rest })).openRow t m.line
      let s := s.loamDecode t m.line err
      .next (match m.store with
        | some bs => s.loamWrite t m.line (takeAt bs 0 64) m.strm
        | none =>
          if (s.tile t).loam.poison.contains m.line || m.strm then s
          else s.allocate t m.line (s.loamLine t m.line) false))

/-- CACHE_WRITEBACK (R58). -/
def execCacheWriteback (t : Site) (s : State) : Out :=
  onTile t s (when_ "CACHE_WRITEBACK" (!(s.tile t).cache.wback.isEmpty) (s.writeBackOldest t))

/-- No engine of the tile executes a command. -/
def Tile.enginesIdle (x : Tile) : Bool := x.queues.toList.all (fun q => q.flight.isEmpty)

/-- Every dirty line goes to loam, and every tag is invalidated. -/
def State.flushCache (s : State) (t : Site) : State :=
  let s := (s.tile t).cache.tags.foldl (fun s e => (s.evict t (e.1 / 4) (e.1 % 4)).writeBackAll t) s
  (s.writeBackAll t).onCache t (fun c => { c with tags := [], plru := [] })

/-- Banks 8 to 11 written with zeros; no row keeps an error. -/
def State.zeroCacheBanks (s : State) (t : Site) : State :=
  let lo := storeAddr t 0x40000
  let s := { s with mem := s.mem.filter (fun e => !(decide (lo ≤ e.1) && decide (e.1 < lo + 0x20000))) }
  s.onInfo t (fun m => { m with
    poison := m.poison.filter (fun w => decide (w < 0x8000)), upsets := m.upsets.filter (fun e => decide (e.1 < 0x8000)),
    gens := m.gens.filter (fun e => decide (e.1 < 0x1000)) })

/-- STORE_SPLIT_SWITCH (R61). The switch runs once every engine has finished its current command: dirty lines to loam,
banks 8 to 11 zeroed, the mode changed. -/
def execStoreSplitSwitch (t : Site) (s : State) : Out :=
  onTile t s (match (s.tile t).splitTo with
    | none => .refused (.notEnabled "STORE_SPLIT_SWITCH")
    | some split =>
      when_ "STORE_SPLIT_SWITCH" ((s.tile t).enginesIdle && decide (s.cfld t aStoreCfg 1 1 = 1)) (
        let s := if s.isSplit t then s.flushCache t else s
        let s := (s.zeroCacheBanks t).setCfld t aStoreCfg 0 0 (if split then 1 else 0)
        s.onTile t (fun x => { x with splitTo := none })))

/-- SPLIT_SWITCH_END (R61). -/
def execSplitSwitchEnd (t : Site) (s : State) : Out :=
  onTile t s (when_ "SPLIT_SWITCH_END" (decide (s.cfld t aStoreCfg 1 1 = 1) && (s.tile t).splitTo.isNone)
    (s.setCfld t aStoreCfg 1 1 0))

/-- TC_GEN_CFG_WRITE (R66). -/
def execTcGenCfgWrite (t : Site) (v : Dword) (s : State) : Out := onTile t s (.next (s.writeGenCfg t v))

/-- GEN_TAG_CLEAR_END (R66). -/
def execGenTagClearEnd (t : Site) (s : State) : Out :=
  onTile t s (when_ "GEN_TAG_CLEAR_END" (s.tile t).info.clearing (s.onInfo t (fun m => { m with clearing := false })))

/-- LOAM_REFRESH (R76). A refresh closes the open row. -/
def execLoamRefresh (t : Site) (s : State) : Out := onTile t s (.next (s.onLoam t (fun l => { l with openRow := none })))

/-- LOAM_SCRUB (R421). The line of the scrub pointer is read and written back, corrected or poisoned. -/
def execLoamScrub (t : Site) (err : LoamErr) (s : State) : Out :=
  onTile t s (when_ "LOAM_SCRUB" (decide (s.fld rRasScrub 0 0 = 1)) (
    let line := (s.tile t).loam.scrub
    let s := (s.loamDecode t line err).openRow t line
    s.onLoam t (fun l => { l with scrub := (line + 1) % Config.loamLines, lastSrc := .scrub,
                                  wback := l.wback.filter (fun x => decide (x ≠ line)) })))

end Sys2Proof.Machine
end

