-- ==== Sys2Proof/Machine/Ctrl.lean ====
section
/-!
DEFINITION. The tile's local window from 0x7_0000 (R71, R191, R253, R307): the size of each register, what it reads, and
what a core store or a steward writes.
-/
namespace Sys2Proof.Machine

def aTcId : Nat := 0x70100
def aNiCfg : Nat := 0x71000
def aNiSpill : Nat := 0x71008
def aNiStat : Nat := 0x71010
def aNiBar (n : Nat) : Nat := 0x71040 + 4 * n
def aNiFrame (f : Nat) : Nat := 0x71080 + 8 * f
def aNiSteer (u : Nat) : Nat := 0x710C0 + 8 * u
def aNiPort (p : Nat) : Nat := 0x71100 + 8 * p
def aNiHslot (h : Nat) : Nat := 0x71300 + 4 * h
def aUeStep : Nat := 0x72000
def aUeCfg : Nat := 0x72008
def aUeStat : Nat := 0x72010
def aUeRing : Nat := 0x72018

/-- The size of the register that holds local address a, and its first address; none for a reserved address. -/
def ctrlReg (a : Nat) : Option (Nat × Nat) :=
  let four := some (4, a / 4 * 4)
  let eight := some (8, a / 8 * 8)
  if a < 0x70000 then none
  else if a < 0x70020 then four
  else if a < 0x70040 then none
  else if a < 0x70060 then four
  else if a < 0x70100 then none
  else if a < 0x70140 then eight
  else if a < 0x71000 then none
  else if a < 0x71018 then eight
  else if a < 0x71040 then none
  else if a < 0x71080 then four
  else if a < 0x710E0 then eight
  else if a < 0x71100 then none
  else if a < 0x71300 then eight
  else if a < 0x71400 then four
  else if a < 0x72000 then none
  else if a < 0x72004 then four
  else if a < 0x72008 then none
  else if a < 0x72020 then eight
  else if a < 0x78000 then none
  else if a < 0x79000 then eight
  else none

/-! ### Ports and spill (R220, R238) -/

def State.portKind (s : State) (t : Site) (p : Nat) : Nat := s.cfld t (aNiPort p) 63 62
def State.portIgr (s : State) (t : Site) (p : Nat) : Nat := s.cfld t (aNiPort p) 45 39 + 1
def State.portSlots (s : State) (t : Site) (p : Nat) : Nat := s.cfld t (aNiPort p) 38 27 + 1
def State.portBase (s : State) (t : Site) (p : Nat) : Nat := 64 * s.cfld t (aNiPort p) 25 13
def State.portSpq (s : State) (t : Site) (p : Nat) : Nat := s.cfld t (aNiPort p) 12 5
/-- Π, the pitch of item slots in bytes (R220). -/
def State.pitch (s : State) (t : Site) (p : Nat) : Nat := 64 * ((32 * s.portIgr t p + 63) / 64)
/-- Bytes of a receive ring. -/
def State.ringSize (s : State) (t : Site) (p : Nat) : Nat := 4096 * 2 ^ s.cfld t (aNiPort p) 29 27

/-- Bytes of spill that a port asks for: SPQ items, or one ring. -/
def State.spillWant (s : State) (t : Site) (p : Nat) : Nat :=
  if s.portSpq t p = 0 || s.portKind t p = 0 then 0
  else if s.portKind t p = 2 then s.ringSize t p else s.portSpq t p * s.pitch t p

/-- The spill site of the tile, and where the region of a port begins within the site's SRAM (R238). -/
def State.spillRegion (s : State) (t : Site) (p : Nat) : Option (Site × Nat) :=
  let size := 4096 * s.cfld t aNiSpill 33 26
  let before := (List.range p).foldl (fun n i =>
    if n + s.spillWant t i ≤ size then n + s.spillWant t i else n) 0
  if decide (s.spillWant t p ≠ 0) && decide (before + s.spillWant t p ≤ size) then
    some ({ px := s.cfld t aNiSpill 8 0, py := s.cfld t aNiSpill 17 9 }, 4096 * s.cfld t aNiSpill 25 18 + before)
  else none

/-- NI_STAT.SPILLFULL is set where a port's region does not fit. -/
def State.checkSpill (s : State) (t : Site) : State :=
  if (List.range 64).any (fun p => decide (s.spillWant t p ≠ 0) && (s.spillRegion t p).isNone) then
    s.setCfld t aNiStat 61 61 1
  else s

def Ni.port (n : Ni) (p : Nat) : PortRt := mapGet (fun _ => PortRt.reset) n.ports p
def Ni.setPort (n : Ni) (p : Nat) (v : PortRt) : Ni := { n with ports := mapSet (fun _ => PortRt.reset) n.ports p v }
def State.portRt (s : State) (t : Site) (p : Nat) : PortRt := (s.ni t).port p
def State.onPort (s : State) (t : Site) (p : Nat) (f : PortRt → PortRt) : State :=
  s.onNi t (fun n => n.setPort p (f (n.port p)))

/-- NI_STAT.SPILLUSED in 64 B units. -/
def State.spillUsed (s : State) (t : Site) : Nat :=
  (s.ni t).ports.foldl (fun n e =>
    n + (e.2.came - e.2.arrived) * (s.pitch t e.1 / 64) +
      (e.2.msgs.filter (fun m => m.lap && !m.done)).foldl (fun k m => k + (m.size + 63) / 64) 0) 0

/-- Connection numbers in use (R222): a connection to the tile itself counts once. -/
def Ni.inUse (n : Ni) (c : Nat) : Bool :=
  n.tx.any (fun x => decide (x.conn = c)) || n.ports.any (fun e => decide (e.2.bound = some c)) ||
    n.opens.any (fun o => decide (o.conn = c))
def Ni.openCount (n : Ni) : Nat :=
  ((List.range 0x3C0).filter (fun c => decide (1 ≤ c) && n.inUse c)).length

/-- NI_STAT.DRAINED (R252). -/
def State.drained (s : State) (t : Site) : Bool :=
  let x := s.tile t
  x.queues.toList.all (fun q => q.entries.isEmpty && q.flight.isEmpty) &&
    (match x.core.blocked with | some (.send ..) => false | _ => true) && x.ni.sendLeft.isNone &&
    x.ni.tx.all (fun c => decide (c.unacked = 0) && c.q.isEmpty) &&
    x.ni.ports.all (fun e => decide (e.2.came = e.2.released) && e.2.msgs.isEmpty)

/-! ### Queues -/

/-- Entries occupied under R68. -/
def Queue.depth (q : Queue) : Nat := q.entries.length + q.flight.length

/-- TC_QSTAT[q] (R72). -/
def Queue.stat (q : Queue) : Nat :=
  (if q.halted then 64 else 0) + (if q.flight.isEmpty then 0 else 32) + q.depth

/-- Word i of the queue window 0x7_8000 (R191). -/
def Tile.window (x : Tile) (a : Nat) : Dword :=
  let o := a - 0x78000
  let half := fun (d : Desc) (h : Nat) => BitVec.ofNat 64 (d.toNat / 2 ^ (64 * h))
  if o < 0x800 then
    let q := x.queue (o / 0x100)
    match (q.flight.map (fun f => f.entry) ++ q.entries)[o % 0x100 / 16]? with
    | some e => half e.desc (o / 8 % 2)
    | none => 0
  else if o < 0x900 then
    let q := x.queue ((o - 0x800) / 0x20)
    match o / 8 % 4 with
    | 0 => half q.fdesc 0
    | 1 => half q.fdesc 1
    | 2 => q.fault
    | _ => q.detail
  else if o < 0x980 then
    let q := x.queue ((o - 0x900) / 0x10)
    BitVec.ofNat 64 (leNat ((q.hist.toList.drop (8 * (o / 8 % 2))).take 8))
  else if o < 0x9C0 then (x.queue ((o - 0x980) / 8)).sticky
  else 0

/-! ### Reading and writing -/

/-- What a tile control register reads; the value of a 4 B register stands in the low half. -/
def State.ctrlRead (s : State) (t : Site) (a : Nat) : Dword :=
  if a < 0x70020 then BitVec.ofNat 64 ((s.queue t ((a - 0x70000) / 4)).stat)
  else if a < 0x70060 then BitVec.setWidth 64 (s.queue t ((a - 0x70040) / 4)).ccnt
  else if a = aTcId then s.tcId t
  else if a = aSpareStat then
    let used := (List.range 12).foldl (fun n b => n + sparesUsed (s.tile t).info b * 2 ^ (5 * b)) 0
    let ex := s.repair.exhausted.any (fun e => decide (e.1 = t.key)) || decide (s.cfld t aSpareStat 60 60 = 1)
    BitVec.ofNat 64 (used + if ex then 2 ^ 60 else 0)
  else if a = aNiStat then
    let v := s.creg t aNiStat
    let v := Dword.setField v 59 59 (if s.drained t then 1 else 0)
    let v := Dword.setField v 25 16 (s.ni t).openCount
    Dword.setField v 15 0 (s.spillUsed t)
  else if !decide (a < 0x71100) && decide (a < 0x71300) then
    match (s.portRt t ((a - 0x71100) / 8)).bound with
    | some c => Dword.setField (Dword.setField (s.creg t a) 60 60 1) 55 46 c
    | none => s.creg t a
  else if a = aUeRing then (match s.plotOf t with | some p => (s.plot p).ueRing | none => 0)
  else if !decide (a < 0x78000) then (s.tile t).window a
  else s.creg t a

/-- The RW and W1C masks of a tile control register (R73, R253, R307). -/
def ctrlMasks (a : Nat) : Nat × Nat :=
  if a = aEccStat then (0, 3)
  else if decide (a = aEccLog) || decide (a = aGenLog) then (0, 2 ^ 63)
  else if a = aGenStat then (0, 1)
  else if a = aNiCfg then (0xFFFF00000001, 0)
  else if a = aNiSpill then (0x3FFFFFFFF, 0)
  else if a = aNiStat then (0, 0xF010000000000000)
  else if !decide (a < 0x71040) && decide (a < 0x71080) then (0xFFFFFFFF, 0)
  else if !decide (a < 0x71080) && decide (a < 0x710C0) then (0x8000000000001FFF, 0)
  else if !decide (a < 0x710C0) && decide (a < 0x710E0) then (0xFFFFF8FFFFFFFFFF, 0)
  else if !decide (a < 0x71100) && decide (a < 0x71300) then (0xEF003FFFFBFFFFE0, 0)
  else if !decide (a < 0x71300) && decide (a < 0x71400) then (0x8007FFFC, 0)
  else if a = aUeStep then (0xFFFFFFFF, 0)
  else if a = aUeCfg then (1, 0)
  else if a = aUeStat then (0, 0xC000000000000000)
  else (0, 0)

/-- The plain effect of R8 on a tile control register. -/
def State.ctrlStore (s : State) (t : Site) (a : Nat) (v : Dword) : State :=
  let (rw, w1c) := ctrlMasks a
  let rw : Dword := BitVec.ofNat 64 rw
  s.setCreg t a (((s.creg t a &&& ~~~ rw) ||| (v &&& rw)) &&& ~~~ (v &&& BitVec.ofNat 64 w1c))

/-- A write of NI_PORT[p]: ignored while a connection is bound (R221). -/
def State.writePort (s : State) (t : Site) (p : Nat) (v : Dword) : State :=
  if (s.portRt t p).bound.isSome then s else (s.ctrlStore t (aNiPort p) v).checkSpill t

/-- The receiving end of the connection bound to a port. -/
def Ni.rxOf (n : Ni) (p : Nat) : Option RxConn := n.rx.find? (fun r => decide (r.port = p) && decide (r.conn < 0x3C0))

/-- Nothing of a connection is unreleased or on its way to the port. -/
def Ni.allReleased (n : Ni) (r : RxConn) : Bool :=
  decide ((n.port r.port).came = (n.port r.port).released) && (n.port r.port).msgs.isEmpty &&
    !n.ready.any (fun g => decide (g.conn.toNat = r.conn) && decide (g.kind.toNat ≤ 1))

/-- A closing connection whose arrivals are all released frees its number and its port (R225). A RECV that still waits at
the port keeps what its target lacks (DEDUCED, notes/assumptions/21.md). -/
def State.settleClose (s : State) (t : Site) (p : Nat) : State :=
  match (s.ni t).rxOf p with
  | some r =>
    if r.closing && (s.ni t).allReleased r then
      s.onNi t (fun n =>
        let rt := n.port p
        { n.setPort p { PortRt.reset with target := rt.target - rt.arrived } with
          rx := n.rx.filter (fun x => !(decide (x.port = p) && decide (x.conn = r.conn))) })
    else s
  | none => s

/-- n items released at a port: one CRED grain for them goes to the sender (R231, R235). -/
def State.releaseItems (s : State) (t : Site) (p n : Nat) : State :=
  if n = 0 then s
  else
    let s := s.onPort t p (fun r => { r with released := min r.came (r.released + n) })
    match (s.ni t).rxOf p with
    | some r => (s.niSend t (mkGrain t r.src 10 r.conn 0 true (.streamCred n))).settleClose t p
    | none => s

/-- Every slot the unit's pairing queue held is released (R236). -/
def State.clearSteer (s : State) (t : Site) (u : Nat) : State :=
  let w := s.creg t (aNiSteer u)
  let es := (mapGet (fun _ => SteerRt.reset) (s.ni t).steer u).pairs
  let s := s.releaseItems t (Dword.field w 60 55) (es.filter (fun e => e.hasA)).length
  let s := s.releaseItems t (Dword.field w 54 49) (es.filter (fun e => e.hasB)).length
  let s := s.releaseItems t (Dword.field w 48 43) (es.filter (fun e => e.hasT)).length
  s.onNi t (fun n => { n with steer := mapDel n.steer u })

/-- A write of NI_STEER[u]: ignored while the unit runs, unless it sets MODE to OFF (R236). -/
def State.writeSteer (s : State) (t : Site) (u : Nat) (v : Dword) : State :=
  if s.cfld t (aNiSteer u) 63 61 = 0 then s.ctrlStore t (aNiSteer u) v
  else if Dword.field v 63 61 = 0 then (s.clearSteer t u).ctrlStore t (aNiSteer u) v
  else s

/-- A write of a tile control register. -/
def State.ctrlWrite (s : State) (t : Site) (a : Nat) (v : Dword) : State :=
  if a = aGenCfg then s.writeGenCfg t v
  else if !decide (a < 0x71100) && decide (a < 0x71300) then s.writePort t ((a - 0x71100) / 8) v
  else if !decide (a < 0x710C0) && decide (a < 0x710E0) then s.writeSteer t ((a - 0x710C0) / 8) v
  else if a = aNiSpill then (s.ctrlStore t a v).checkSpill t
  else s.ctrlStore t a v

/-- NI_STEER_WRITE (R236). -/
def execNiSteerWrite (t : Site) (u : Nat) (v : Dword) (s : State) : Out :=
  onTile t s (onUnit (decide (u < Config.steerUnits)) (.next (s.writeSteer t u v)))

/-- NI_PORT_WRITE (R221). -/
def execNiPortWrite (t : Site) (port : Nat) (v : Dword) (s : State) : Out :=
  onTile t s (onUnit (decide (port < Config.tilePorts)) (.next (s.writePort t port v)))

end Sys2Proof.Machine
end

