-- ==== Sys2Proof/Machine/CoreOps.lean ====
section
/-!
DEFINITION. The operations of the control core that every instruction shares (chapter 4): registers and predicates, the
fetch buffer, the store buffer, traps and double traps, and the one path from a fetched word to its effect.
-/
namespace Sys2Proof.Machine

/-! ### Registers (R109, R138) -/

/-- Scalar register i; s0 reads 0, and the handler bank stands for s24 to s31 while a handler runs. -/
def Core.get (c : Core) (i : Nat) : Word :=
  if i = 0 then 0
  else if c.handH && decide (24 ≤ i) then (if h : i - 24 < 8 then c.bank[i - 24] else 0)
  else if h : i < 32 then c.regs[i] else 0

/-- A write of scalar register i; a write of s0 is discarded. -/
def Core.put (c : Core) (i : Nat) (v : Word) : Core :=
  if i = 0 then c
  else if c.handH && decide (24 ≤ i) then (if h : i - 24 < 8 then { c with bank := c.bank.set (i - 24) v } else c)
  else if h : i < 32 then { c with regs := c.regs.set i v } else c

/-- Predicate i; p0 reads 1 in every state, whatever the byte holds. -/
def Core.pred (c : Core) (i : Nat) : Bool := decide (i = 0) || c.preds.getLsbD i

/-- A write of predicate i; a write of p0 is discarded. -/
def Core.setPred (c : Core) (i : Nat) (b : Bool) : Core :=
  if i = 0 then c
  else { c with preds := if b then c.preds ||| BitVec.ofNat 8 (2 ^ i) else c.preds &&& ~~~ BitVec.ofNat 8 (2 ^ i) }

/-- STATUS (R110). -/
def Core.status (c : Core) : Word :=
  BitVec.ofNat 32 ((if c.pendQ.isEmpty then 0 else 8) + (if c.handE then 4 else 0) + (if c.handH then 2 else 0) +
    (if c.trapT then 1 else 0))

/-- STGSTAT (R141): one bit per staged key. -/
def Staged.stat (g : Staged) : Nat :=
  (if g.frame.isSome then 2 else 0) + (if g.genCfg.isSome then 4 else 0) + (if g.wlimit.isSome then 8 else 0) +
    (if g.he.isSome then 16 else 0)

/-- The least multiple of 4 at or below an address, in the 19 bits of the PC. -/
def pcOf (a : Nat) : BitVec 19 := BitVec.ofNat 19 (a / 4 * 4)

/-! ### The fetch buffer (R113, R114) -/

/-- The PC leaves for the next word in line; a word that it leaves drops out of the fetch buffer. -/
def Core.advance (c : Core) : Core :=
  { c with pc := c.pc + 4, fetch := if c.pc.toNat % 8 = 4 then c.fetch.drop 1 else c.fetch }

/-- The PC goes elsewhere, and the fetch buffer is emptied. -/
def Core.jump (c : Core) (pc : BitVec 19) : Core := { c with pc := pc, fetch := [] }

/-- The word at the PC, once it has been fetched whole. -/
def Core.word (c : Core) : Option Word :=
  match c.fetch with
  | w :: _ => if w.bad then none else
      some (BitVec.ofNat 32 (if c.pc.toNat % 8 = 4 then w.data.toNat / 2 ^ 32 else w.data.toNat))
  | [] => none

/-! ### Traps (R144 to R148) -/

/-- Trap causes (R144). -/
def trFetch : Nat := 1
def trIllegal : Nat := 2
def trMisalign : Nat := 3
def trAddr : Nat := 4
def trCtrlsize : Nat := 5
def trStoreUe : Nat := 6
def trChannel : Nat := 7
def trStage : Nat := 8
def trWaitTimeout : Nat := 9
def trBreak : Nat := 10
def trFrame : Nat := 11
def trEngineFault : Nat := 16

/-- Taking a trap (R147), or stopping for a double trap (R148). The cause word carries ASYNC. EPC is the core's own PC. An
OPEN that the trap abandons leaves its request outstanding (R134, R146). -/
def State.takeTrap (s : State) (t : Site) (cause tval : Word) : State :=
  let c := s.core t
  let epc : Word := BitVec.setWidth 32 c.pc
  let s := match c.blocked with
    | some (.openConn tag _) => s.onNi t (fun n => { n with
        opens := n.opens.map (fun (o : OpenReq) => if o.tag = tag then { o with stale := true } else o) })
    | _ => s
  let saved := fun c : Core => { c with epc := epc, cause := cause, tval := tval }
  if c.trapT then
    (s.onCore t (fun c => { c with run := .stopped, blocked := none })).report t (.doubleTrap cause epc tval)
  else if c.tvec = 0 then
    (s.onCore t (fun c => { saved c with run := .stopped, blocked := none })).report t (.doubleTrap cause epc tval)
  else s.onCore t (fun c => ({ saved c with trapT := true, blocked := none }).jump (pcOf c.tvec.toNat))

/-- A return from a trap handler (R147). EPC holds any 32 bits that MTS has written; the PC takes its low 19, on a multiple
of 4 (DEDUCED, notes/assumptions/11.md). -/
def Core.trapReturn (c : Core) : Core := ({ c with trapT := false }).jump (pcOf c.epc.toNat)

/-! ### From word to effect -/

/-- What an instruction does at its boundary: an effect, a synchronous trap with its cause and TVAL, or a wait for earlier
stores or for room (R114). -/
inductive Eff where
  | ok (s : State)
  | trap (cause : Nat) (tval : Word) (s : State)
  | wait

/-- The core has power (R394). -/
def Tile.powered (x : Tile) : Bool := decide (x.power = .active) || decide (x.power = .idle)

/-- The core stands at an instruction boundary of a running program. -/
def State.atBoundary (s : State) (t : Site) : Bool :=
  let c := s.core t
  decide (c.run = .running) && c.blocked.isNone && c.switch.isNone && (s.tile t).powered

/-- The fields of the formats (R116). -/
def fOp (w : Word) : Nat := Word.field w 31 26
def fPg (w : Word) : Nat := Word.field w 25 23
def fRd (w : Word) : Nat := Word.field w 22 18
def fRa (w : Word) : Nat := Word.field w 17 13
def fRb (w : Word) : Nat := Word.field w 12 8
def fFn (w : Word) : Nat := Word.field w 7 0
def fImm13 (w : Word) : Nat := Word.field w 12 0
def fImm16 (w : Word) : Nat := Word.field w 15 0
def fQ (w : Word) : Nat := Word.field w 12 10
def fV (w : Word) : Nat := Word.field w 9 9
def fOff9 (w : Word) : Nat := Word.field w 8 0
/-- imm13, sign-extended to a word. -/
def simm13 (w : Word) : Word := BitVec.signExtend 32 (BitVec.ofNat 13 (fImm13 w))

/-- The path of every instruction: the word at the PC has the major opcode op; a word that its decoding refuses is ILLEGAL
whatever its guard (R118); a false guard only advances the PC (R117); otherwise the body acts. A pending asynchronous trap
comes first, but after the synchronous causes of the instruction itself (R146). -/
def instr (name : String) (op : Nat) (t : Site) (legal : Word → Bool) (body : Word → State → Eff) (s : State) : Out :=
  onTile t s (
    let c := s.core t
    match c.word with
    | none => .refused (.notEnabled name)
    | some w =>
      if !(s.atBoundary t && decide (fOp w = op)) then .refused (.notEnabled name)
      else if !legal w then .next (s.takeTrap t (BitVec.ofNat 32 trIllegal) w)
      else
        let async := !c.pendQ.isEmpty && !c.trapT
        let run := fun s' : State => if async then (.refused (.notEnabled name) : Out) else .next s'
        if !c.pred (fPg w) then run (s.onCore t Core.advance)
        else match body w s with
          | .ok s' => run s'
          | .trap cause tval s' => .next (s'.takeTrap t (BitVec.ofNat 32 cause) tval)
          | .wait => .refused (.notEnabled name))

/-- A body that writes one register and goes on. -/
def effReg (t : Site) (s : State) (rd : Nat) (v : Word) : Eff := .ok (s.onCore t (fun c => (c.put rd v).advance))

/-- A body that only goes on. -/
def effNext (t : Site) (s : State) : Eff := .ok (s.onCore t Core.advance)

/-- A body that blocks: the instruction stays at the PC (R133, R426). -/
def effBlock (t : Site) (s : State) (b : Blocked) : Eff :=
  .ok (s.onCore t (fun c => { c with blocked := some b, blockedAt := s.cycle }))

/-- The instruction that blocks retires with a change of the core. -/
def State.retire (s : State) (t : Site) (f : Core → Core) : State :=
  s.onCore t (fun c => (f { c with blocked := none }).advance)

/-- WFE retires at an event (R135). -/
def State.wfeWake (s : State) (t : Site) : State :=
  if (s.core t).blocked = some .wfe then s.retire t id else s

/-! ### Loads and stores (R114, R123) -/

/-- The newest buffered byte for an address, if a buffered store covers it. -/
def bufferedByte (sb : List SbEntry) (a : Nat) : Option Byte :=
  (sb.reverse.find? (fun e => decide (e.addr = a / 8 * 8) && e.mask.getLsbD (a % 8))).map
    (fun e => BitVec.ofNat 8 (e.data.toNat / 2 ^ (8 * (a % 8))))

/-- EA of a load or store, with the checks of R123 in the order of R145: the address, or a cause. -/
def effAddr (s : State) (t : Site) (w : Word) (size : Nat) : Except Nat Nat :=
  let ea := ((s.core t).get (fRa w) + simm13 w).toNat
  if ea % size ≠ 0 then .error trMisalign
  else if !decide (ea < 0x80000) then .error trAddr
  else if ea < 0x70000 then (if ea < s.storeEnd t then .ok ea else .error trAddr)
  else match ctrlReg ea with
    | none => .error trAddr
    | some (n, base) => if decide (n = size) && decide (base = ea) then .ok ea else .error trCtrlsize

def eaWord (s : State) (t : Site) (w : Word) : Word := (s.core t).get (fRa w) + simm13 w

/-- A load of size bytes: f makes the core's change of the bytes read. A store word in error raises STORE_UE (R124). -/
def loadBody (size : Nat) (t : Site) (f : Word → List Byte → Core → Core) (w : Word) (s : State) : Eff :=
  match effAddr s t w size with
  | .error c => .trap c (eaWord s t w) s
  | .ok ea =>
    if !decide (ea < 0x70000) then
      if (s.core t).stbuf.isEmpty then
        .ok (s.onCore t (fun c => (f w (leBytes size (s.ctrlRead t ea).toNat) c).advance))
      else .wait
    else
      let (bs, s', ue) := s.readStore t ea size
      if ue then .trap trStoreUe (eaWord s t w) s'
      else
        let sb := (s.core t).stbuf
        let bs := (List.range size).map (fun i => (bufferedByte sb (ea + i)).getD (bs.getD i 0))
        .ok (s'.onCore t (fun c => (f w bs c).advance))

/-- A store of size bytes of a value: into the store buffer, or into a tile control register once it is empty. -/
def storeBody (size : Nat) (t : Site) (val : Word → Core → Nat) (w : Word) (s : State) : Eff :=
  match effAddr s t w size with
  | .error c => .trap c (eaWord s t w) s
  | .ok ea =>
    let c := s.core t
    if !decide (ea < 0x70000) then
      if c.stbuf.isEmpty then .ok ((s.ctrlWrite t ea (BitVec.ofNat 64 (val w c))).onCore t Core.advance) else .wait
    else if 4 ≤ c.stbuf.length then .wait
    else
      let e : SbEntry := { addr := ea / 8 * 8, mask := BitVec.ofNat 8 ((2 ^ size - 1) * 2 ^ (ea % 8)),
                           data := BitVec.ofNat 64 (val w c % 2 ^ (8 * size) * 2 ^ (8 * (ea % 8))) }
      .ok (s.onCore t (fun c => ({ c with stbuf := c.stbuf ++ [e] }).advance))

end Sys2Proof.Machine
end

