-- ==== Sys2Proof/Machine/CoreIsa.lean ====
section
/-!
DEFINITION. The instructions of VTI-32 that act in the tile alone (chapter 4), the store buffer and the fetch.
-/
namespace Sys2Proof.Machine

/-! ### ALU (R120 to R122) -/

/-- Signed division rounded toward zero, and its remainder, with R121's corner cases. -/
def divs (a b : Word) : Word := if b = 0 then 0xFFFFFFFF else BitVec.ofInt 32 (a.toInt.tdiv b.toInt)
def rems (a b : Word) : Word := if b = 0 then a else BitVec.ofInt 32 (a.toInt.tmod b.toInt)

def clz (a : Word) : Nat := if a = 0 then 32 else 31 - Nat.log2 a.toNat
def popcount (n : Nat) (w : Nat) : Nat := ((List.range n).filter (fun i => w.testBit i)).length

/-- ALU functions by fn; none for a reserved fn. -/
def aluFn (fn : Nat) (a b : Word) : Option Word :=
  let sh := b.toNat % 32
  match fn with
  | 0x00 => some (a + b)
  | 0x01 => some (a - b)
  | 0x02 => some (a &&& b)
  | 0x03 => some (a ||| b)
  | 0x04 => some (a ^^^ b)
  | 0x05 => some (a <<< sh)
  | 0x06 => some (a >>> sh)
  | 0x07 => some (a.sshiftRight sh)
  | 0x08 => some (a * b)
  | 0x09 => some (BitVec.ofNat 32 (a.toNat * b.toNat / 2 ^ 32))
  | 0x0A => some (BitVec.ofInt 32 (a.toInt * b.toInt / 2 ^ 32))
  | 0x0B => some (if b = 0 then 0xFFFFFFFF else BitVec.ofNat 32 (a.toNat / b.toNat))
  | 0x0C => some (if b = 0 then a else BitVec.ofNat 32 (a.toNat % b.toNat))
  | 0x0D => some (divs a b)
  | 0x0E => some (rems a b)
  | 0x0F => some (if a.toInt ≤ b.toInt then a else b)
  | 0x10 => some (if a.toInt ≤ b.toInt then b else a)
  | 0x11 => some (if a.toNat ≤ b.toNat then a else b)
  | 0x12 => some (if a.toNat ≤ b.toNat then b else a)
  | 0x13 => some (BitVec.ofNat 32 (clz a))
  | 0x14 => some (BitVec.ofNat 32 (popcount 32 a.toNat))
  | _ => none

/-- ALU decodes when fn is assigned, and rb is 0 for CLZ and POPC. -/
def aluLegal (w : Word) : Bool :=
  decide (fFn w ≤ 0x14) && (decide (fFn w < 0x13) || decide (fRb w = 0))

/-- ALU (R120). -/
def execAlu (t : Site) (s : State) : Out :=
  instr "ALU" 0x01 t aluLegal (fun w s =>
    effReg t s (fRd w) ((aluFn (fFn w) ((s.core t).get (fRa w)) ((s.core t).get (fRb w))).getD 0)) s

/-- The shape of the immediate ALU instructions. -/
def immBody (t : Site) (f : Word → Word → Word) (w : Word) (s : State) : Eff :=
  effReg t s (fRd w) (f ((s.core t).get (fRa w)) w)

/-- ADDI (R122). -/
def execAddi (t : Site) (s : State) : Out :=
  instr "ADDI" 0x02 t (fun _ => true) (immBody t (fun a w => a + simm13 w)) s
/-- ANDI (R122). -/
def execAndi (t : Site) (s : State) : Out :=
  instr "ANDI" 0x03 t (fun _ => true) (immBody t (fun a w => a &&& BitVec.ofNat 32 (fImm13 w))) s
/-- ORI (R122). -/
def execOri (t : Site) (s : State) : Out :=
  instr "ORI" 0x04 t (fun _ => true) (immBody t (fun a w => a ||| BitVec.ofNat 32 (fImm13 w))) s
/-- XORI (R122). -/
def execXori (t : Site) (s : State) : Out :=
  instr "XORI" 0x05 t (fun _ => true) (immBody t (fun a w => a ^^^ BitVec.ofNat 32 (fImm13 w))) s

/-- SHI's kinds by imm13[6:5]. -/
def shiFn (a w : Word) : Word :=
  let n := fImm13 w % 32
  match fImm13 w / 32 % 4 with
  | 0 => a <<< n
  | 1 => a >>> n
  | 2 => a.sshiftRight n
  | _ => a.rotateRight n
/-- SHI (R122). -/
def execShi (t : Site) (s : State) : Out :=
  instr "SHI" 0x06 t (fun w => decide (fImm13 w < 128)) (immBody t shiFn) s

/-- LIM leaves [17:16] at 0. -/
def limLegal (w : Word) : Bool := decide (Word.field w 17 16 = 0)
/-- LIL (R122). -/
def execLil (t : Site) (s : State) : Out :=
  instr "LIL" 0x08 t limLegal (fun w s => effReg t s (fRd w) (BitVec.ofNat 32 (fImm16 w))) s
/-- LIH (R122). -/
def execLih (t : Site) (s : State) : Out :=
  instr "LIH" 0x09 t limLegal (fun w s =>
    effReg t s (fRd w) (BitVec.ofNat 32 (fImm16 w * 2 ^ 16 + ((s.core t).get (fRd w)).toNat % 2 ^ 16))) s

/-! ### Special registers (R110) -/

/-- MCLK count since tile reset. -/
def State.coreCycles (s : State) (t : Site) : Nat := s.cycle - (s.core t).cycBase

/-- The value of special register n. -/
def State.special (s : State) (t : Site) (n : Nat) : Word :=
  let c := s.core t
  match n with
  | 0 => BitVec.ofNat 32 (s.coreCycles t)
  | 1 => c.cychi
  | 2 => BitVec.ofNat 32 (s.vxy t)
  | 3 => BitVec.ofNat 32 ((s.plotOf t).getD 0)
  | 4 => BitVec.ofNat 32 c.frame
  | 5 => c.status
  | 6 => c.epc
  | 7 => c.cause
  | 8 => c.tval
  | 9 => c.tvec
  | 10 => c.hpc
  | 11 => c.wlimit
  | 12 => BitVec.ofNat 32 c.staged.stat
  | 13 => c.commits
  | _ => 0

/-- A write of a writable special register: STATUS takes HE alone, TVEC loses its bits [1:0]. -/
def Core.putSpecial (c : Core) (n : Nat) (v : Word) : Core :=
  match n with
  | 5 => { c with handE := v.getLsbD 2 }
  | 6 => { c with epc := v }
  | 9 => { c with tvec := v &&& 0xFFFFFFFC }
  | 10 => { c with hpc := v }
  | 11 => { c with wlimit := v }
  | _ => c

/-- MFS (R110). Reading CYCLO latches CYCHI. -/
def execMfs (t : Site) (s : State) : Out :=
  instr "MFS" 0x0A t (fun w => decide (fRa w = 0) && decide (fRb w = 0) && decide (fFn w ≤ 13)) (fun w s =>
    let v := s.special t (fFn w)
    let s := if fFn w = 0 then s.onCore t (fun c => { c with cychi := BitVec.ofNat 32 (s.coreCycles t / 2 ^ 32) }) else s
    effReg t s (fRd w) v) s

/-- MTS (R110). -/
def execMts (t : Site) (s : State) : Out :=
  instr "MTS" 0x0B t (fun w => decide (fRd w = 0) && decide (fRb w = 0) && [5, 6, 9, 10, 11].contains (fFn w)) (fun w s =>
    .ok (s.onCore t (fun c => (c.putSpecial (fFn w) (c.get (fRa w))).advance))) s

/-! ### Store access (R123, R124) -/

/-- LB (R123). -/
def execLb (t : Site) (s : State) : Out :=
  instr "LB" 0x10 t (fun _ => true)
    (loadBody 1 t (fun w bs c => c.put (fRd w) (BitVec.signExtend 32 (BitVec.ofNat 8 (leNat bs))))) s
/-- LBU (R123). -/
def execLbu (t : Site) (s : State) : Out :=
  instr "LBU" 0x11 t (fun _ => true) (loadBody 1 t (fun w bs c => c.put (fRd w) (BitVec.ofNat 32 (leNat bs)))) s
/-- LH (R123). -/
def execLh (t : Site) (s : State) : Out :=
  instr "LH" 0x12 t (fun _ => true)
    (loadBody 2 t (fun w bs c => c.put (fRd w) (BitVec.signExtend 32 (BitVec.ofNat 16 (leNat bs))))) s
/-- LHU (R123). -/
def execLhu (t : Site) (s : State) : Out :=
  instr "LHU" 0x13 t (fun _ => true) (loadBody 2 t (fun w bs c => c.put (fRd w) (BitVec.ofNat 32 (leNat bs)))) s
/-- LW (R123). -/
def execLw (t : Site) (s : State) : Out :=
  instr "LW" 0x14 t (fun _ => true) (loadBody 4 t (fun w bs c => c.put (fRd w) (BitVec.ofNat 32 (leNat bs)))) s

def evenRd (w : Word) : Bool := decide (fRd w % 2 = 0)
/-- LDD (R123). With rd = s0 the low word is discarded. -/
def execLdd (t : Site) (s : State) : Out :=
  instr "LDD" 0x15 t evenRd (loadBody 8 t (fun w bs c =>
    (c.put (fRd w) (BitVec.ofNat 32 (leNat bs))).put (fRd w + 1) (BitVec.ofNat 32 (leNat bs / 2 ^ 32)))) s
/-- SB (R123). -/
def execSb (t : Site) (s : State) : Out :=
  instr "SB" 0x18 t (fun _ => true) (storeBody 1 t (fun w c => (c.get (fRd w)).toNat)) s
/-- SH (R123). -/
def execSh (t : Site) (s : State) : Out :=
  instr "SH" 0x19 t (fun _ => true) (storeBody 2 t (fun w c => (c.get (fRd w)).toNat)) s
/-- SW (R123). -/
def execSw (t : Site) (s : State) : Out :=
  instr "SW" 0x1A t (fun _ => true) (storeBody 4 t (fun w c => (c.get (fRd w)).toNat)) s
/-- SDD (R123). -/
def execSdd (t : Site) (s : State) : Out :=
  instr "SDD" 0x1B t evenRd
    (storeBody 8 t (fun w c => (c.get (fRd w)).toNat + (c.get (fRd w + 1)).toNat * 2 ^ 32)) s

/-- The lowest byte of an entry's mask, and how many bytes it writes. -/
def SbEntry.lo (e : SbEntry) : Nat := ((List.range 8).find? (fun i => e.mask.getLsbD i)).getD 0
def SbEntry.len (e : SbEntry) : Nat := popcount 8 e.mask.toNat

/-- STORE_BUFFER_PERFORM (R114, R64). The oldest buffered store is performed; its row takes CORE_GEN. -/
def execStoreBufferPerform (t : Site) (s : State) : Out :=
  onTile t s (match (s.core t).stbuf with
    | [] => .refused (.notEnabled "STORE_BUFFER_PERFORM")
    | e :: rest =>
      let s := s.onCore t (fun c => { c with stbuf := rest })
      .next (s.writeStore t (e.addr + e.lo) (leBytes e.len (e.data.toNat / 2 ^ (8 * e.lo))) (s.cfld t aGenCfg 11 8)))

/-- The store address of the word that the fetch reads next. -/
def Core.fetchAddr (c : Core) : Nat := c.pc.toNat / 8 * 8 + 8 * c.fetch.length

/-- INSTRUCTION_FETCH (R113, R114). The next word enters the fetch buffer. A fetch of the PC's own word from outside the
range, or one whose word is in error, raises FETCH once the core stands at it. -/
def execInstructionFetch (t : Site) (s : State) : Out :=
  onTile t s (
    let c := s.core t
    let trap := fun s : State => Host.Outcome.next (s.takeTrap t (BitVec.ofNat 32 trFetch) (BitVec.setWidth 32 c.pc))
    if !(decide (c.run = .running) && c.switch.isNone) then .refused (.notEnabled "INSTRUCTION_FETCH")
    else match c.fetch with
      | w :: _ =>
        if w.bad && c.blocked.isNone then trap s
        else if decide (c.fetch.length < 4) && decide (c.fetchAddr + 8 ≤ s.storeEnd t) then
          let (bs, s, ue) := s.readStore t c.fetchAddr 8
          .next (s.onCore t (fun c => { c with fetch := c.fetch ++ [{ data := BitVec.ofNat 64 (leNat bs), bad := ue }] }))
        else .refused (.notEnabled "INSTRUCTION_FETCH")
      | [] =>
        if s.storeEnd t < c.fetchAddr + 8 then trap s
        else
          let (bs, s, ue) := s.readStore t c.fetchAddr 8
          if ue && c.blocked.isNone then trap s
          else .next (s.onCore t (fun c => { c with fetch := [{ data := BitVec.ofNat 64 (leNat bs), bad := ue }] })))

/-! ### Branches (R125) -/

def branchTo (c : Core) (w : Word) : BitVec 19 :=
  BitVec.ofInt 19 (c.pc.toNat + 4 * (BitVec.ofNat 23 (Word.field w 22 0)).toInt)

/-- BR (R125). -/
def execBr (t : Site) (s : State) : Out :=
  instr "BR" 0x20 t (fun _ => true) (fun w s => .ok (s.onCore t (fun c => c.jump (branchTo c w)))) s
/-- BL (R125). -/
def execBl (t : Site) (s : State) : Out :=
  instr "BL" 0x21 t (fun _ => true) (fun w s => .ok (s.onCore t (fun c =>
    (c.put 31 (BitVec.setWidth 32 (c.pc + 4))).jump (branchTo c w)))) s
/-- JR (R125). s[ra] is read before rd is written (DEDUCED, notes/assumptions/12.md). -/
def execJr (t : Site) (s : State) : Out :=
  instr "JR" 0x22 t (fun w => decide (fRb w = 0) && decide (fFn w = 0)) (fun w s =>
    let a := (s.core t).get (fRa w)
    if a.toNat % 4 ≠ 0 then .trap trMisalign a s
    else if !decide (a.toNat < 0x80000) then .trap trAddr a s
    else .ok (s.onCore t (fun c => (c.put (fRd w) (BitVec.setWidth 32 (c.pc + 4))).jump (pcOf a.toNat)))) s

/-! ### Predicates (R126 to R128) -/

/-- The tests of R126. -/
def compare (cond : Nat) (a b : Word) : Bool :=
  match cond with
  | 0x0 => decide (a = b)
  | 0x1 => decide (a ≠ b)
  | 0x2 => decide (a.toInt < b.toInt)
  | 0x3 => decide (b.toInt ≤ a.toInt)
  | 0x4 => decide (a.toNat < b.toNat)
  | 0x5 => decide (b.toNat ≤ a.toNat)
  | 0x6 => decide (b.toInt < a.toInt)
  | 0x7 => decide (a.toInt ≤ b.toInt)
  | 0x8 => decide (b.toNat < a.toNat)
  | 0x9 => decide (a.toNat ≤ b.toNat)
  | 0xA => decide (a &&& b ≠ 0)
  | _ => decide (a &&& b = 0)

/-- pd takes the result and pn its complement. Where both name one predicate other than p0, the spec does not say which
stays: the predicate takes a free value. -/
def effPred (t : Site) (s : State) (pd pn : Nat) (r : Bool) : Eff :=
  if decide (pd = pn) && decide (pd ≠ 0) then
    let (v, s) := s.takeFree
    .ok (s.onCore t (fun c => (c.setPred pd (v.getLsbD 0)).advance))
  else .ok (s.onCore t (fun c => ((c.setPred pd r).setPred pn (!r)).advance))

/-- PCMP (R126). -/
def execPcmp (t : Site) (s : State) : Out :=
  instr "PCMP" 0x24 t (fun w => decide (Word.field w 2 0 = 0) && decide (Word.field w 6 3 ≤ 0xB)) (fun w s =>
    let c := s.core t
    effPred t s (Word.field w 22 20) (Word.field w 19 17)
      (compare (Word.field w 6 3) (c.get (Word.field w 16 12)) (c.get (Word.field w 11 7)))) s
/-- PCMPI (R126). -/
def execPcmpi (t : Site) (s : State) : Out :=
  instr "PCMPI" 0x25 t (fun w => decide (Word.field w 11 8 ≤ 0xB)) (fun w s =>
    effPred t s (Word.field w 22 20) (Word.field w 19 17)
      (compare (Word.field w 11 8) ((s.core t).get (Word.field w 16 12))
        (BitVec.signExtend 32 (BitVec.ofNat 8 (Word.field w 7 0))))) s

/-- The operations of PLOG (R127). -/
def plogFn (op : Nat) (a b : Bool) : Bool :=
  match op with
  | 0 => a && b
  | 1 => a || b
  | 2 => a != b
  | 3 => a && !b
  | 4 => a || !b
  | 5 => !(a && b)
  | 6 => true
  | _ => false
/-- PLOG (R127). -/
def execPlog (t : Site) (s : State) : Out :=
  instr "PLOG" 0x26 t (fun w => decide (Word.field w 13 10 ≤ 7) && decide (Word.field w 9 0 = 0)) (fun w s =>
    .ok (s.onCore t (fun c => (c.setPred (Word.field w 22 20)
      (plogFn (Word.field w 13 10) (c.pred (Word.field w 19 17)) (c.pred (Word.field w 16 14)))).advance))) s
/-- PMOV (R128). -/
def execPmov (t : Site) (s : State) : Out :=
  instr "PMOV" 0x27 t (fun w => decide (fRb w = 0) &&
      ((decide (fFn w = 0) && decide (fRa w = 0)) || (decide (fFn w = 1) && decide (fRd w = 0)))) (fun w s =>
    if fFn w = 0 then effReg t s (fRd w) (BitVec.setWidth 32 ((s.core t).preds ||| 1))
    else .ok (s.onCore t (fun c => ({ c with preds := BitVec.setWidth 8 (c.get (fRa w)) ||| 1 }).advance))) s

/-! ### Engine commands and waits (R129 to R135) -/

/-- A descriptor enters queue q under the next ticket, which rd receives. -/
def State.pushCmd (s : State) (t : Site) (q : Nat) (d : Desc) : State × Word :=
  let tk := (s.queue t q).icnt + 1
  let s := s.onQueue t q (fun x => { x with icnt := tk, entries := x.entries ++ [{ desc := d, ticket := tk }] })
  (if q = 0 then s.onTile t Tile.stopBackfill else s, tk)

/-- The descriptor that ISSUE names (R129): from the store, or from four registers. -/
def issueDesc (t : Site) (w : Word) (s : State) : Eff ⊕ (Desc × State) :=
  let c := s.core t
  if fV w = 1 then
    .inr (BitVec.ofNat 128 ((c.get (fRa w)).toNat + (c.get (fRa w + 1)).toNat * 2 ^ 32 +
      (c.get (fRa w + 2)).toNat * 2 ^ 64 + (c.get (fRa w + 3)).toNat * 2 ^ 96), s)
  else
    let a := c.get (fRa w) + BitVec.ofNat 32 (16 * fOff9 w)
    if a.toNat % 16 ≠ 0 then .inl (.trap trMisalign a s)
    else if s.storeEnd t < a.toNat + 16 then .inl (.trap trAddr a s)
    else
      let (bs, s', ue) := s.readStore t a.toNat 16
      if ue then .inl (.trap trStoreUe a s') else .inr (BitVec.ofNat 128 (leNat bs), s')

/-- Room for a descriptor (R68, R193): a halted queue keeps its last entry for a control descriptor. -/
def Queue.room (k : Queue) (d : Desc) : Bool :=
  decide (k.depth < if k.halted && decide (Desc.field d 17 17 = 0) then 15 else 16)

/-- ISSUE (R129, R130, R193). -/
def execIssue (t : Site) (s : State) : Out :=
  instr "ISSUE" 0x28 t (fun w => decide (fV w = 0) || (decide (fRa w % 4 = 0) && decide (fOff9 w = 0))) (fun w s =>
    if !(s.core t).stbuf.isEmpty then
      match issueDesc t w s with
      | .inl (.trap c v s') => if c = trStoreUe then .wait else .trap c v s'
      | _ => .wait
    else match issueDesc t w s with
      | .inl e => e
      | .inr (d, s) =>
        if !(s.queue t (fQ w)).room d then effBlock t s (.issue (fQ w) d (fRd w))
        else
          let (s, tk) := s.pushCmd t (fQ w) d
          effReg t s (fRd w) tk) s

/-- ISSUE_QUEUE_ROOM (R130). -/
def execIssueQueueRoom (t : Site) (s : State) : Out :=
  onTile t s (match (s.core t).blocked with
    | some (.issue q d rd) =>
      let (s', tk) := s.pushCmd t q d
      when_ "ISSUE_QUEUE_ROOM" ((s.queue t q).room d) (s'.retire t (fun c => c.put rd tk))
    | _ => .refused (.notEnabled "ISSUE_QUEUE_ROOM"))

/-- WAITC (R131). -/
def execWaitc (t : Site) (s : State) : Out :=
  instr "WAITC" 0x29 t (fun w => decide (fRd w = 0) && decide (fV w = 0) && decide (fOff9 w = 0)) (fun w s =>
    effBlock t s (.waitc (fQ w) ((s.core t).get (fRa w)))) s

/-- The counter has reached a ticket (R131). -/
def reached (ccnt ticket : Word) : Bool := decide (0 ≤ (ccnt - ticket).toInt)

/-- WAITC_RETIRE (R131). -/
def execWaitcRetire (t : Site) (s : State) : Out :=
  onTile t s (match (s.core t).blocked with
    | some (.waitc q ticket) => when_ "WAITC_RETIRE" (reached (s.queue t q).ccnt ticket) (s.retire t id)
    | _ => .refused (.notEnabled "WAITC_RETIRE"))

/-- RDCC (R132). -/
def execRdcc (t : Site) (s : State) : Out :=
  instr "RDCC" 0x2A t (fun w => decide (fRa w = 0) && decide (fOff9 w = 0)) (fun w s =>
    effReg t s (fRd w) (if fV w = 0 then (s.queue t (fQ w)).ccnt else (s.queue t (fQ w)).icnt)) s

/-- WAITM (R132). -/
def execWaitm (t : Site) (s : State) : Out :=
  instr "WAITM" 0x2B t (fun w => decide (fRd w = 0) && decide (fRa w = 0) && decide (fRb w = 0)) (fun w s =>
    effBlock t s (.waitm (fFn w))) s

/-- Every queue of a mask has completed what was issued to it. -/
def State.allDone (s : State) (t : Site) (mask : Nat) : Bool :=
  (List.range 8).all (fun q => !mask.testBit q || decide ((s.queue t q).ccnt = (s.queue t q).icnt))

/-- WAITM_RETIRE (R132). -/
def execWaitmRetire (t : Site) (s : State) : Out :=
  onTile t s (match (s.core t).blocked with
    | some (.waitm mask) => when_ "WAITM_RETIRE" (s.allDone t mask) (s.retire t id)
    | _ => .refused (.notEnabled "WAITM_RETIRE"))

/-- An instruction all of whose fields are 0. -/
def bareLegal (w : Word) : Bool := decide (Word.field w 22 0 = 0)
/-- An IMM instruction that uses imm13 alone. -/
def immOnly (w : Word) : Bool := decide (fRd w = 0) && decide (fRa w = 0)

/-- WFE (R135). -/
def execWfe (t : Site) (s : State) : Out := instr "WFE" 0x36 t bareLegal (fun _ s => effBlock t s .wfe) s

/-- MFENCE (R114). -/
def execMfence (t : Site) (s : State) : Out :=
  instr "MFENCE" 0x34 t bareLegal (fun _ s =>
    if (s.core t).stbuf.isEmpty then .ok (s.onCore t (fun c => { c.advance with fetch := [] })) else .wait) s

/-- FIN (R140): the wait begins; FIN_STOP ends it. -/
def execFin (t : Site) (s : State) : Out :=
  instr "FIN" 0x37 t bareLegal (fun _ s => if (s.core t).stbuf.isEmpty then effBlock t s .fin else .wait) s

/-- FIN_STOP (R140). The core stops, and the NI reports the frame as finished, with what the tile has staged next (R369). -/
def execFinStop (t : Site) (s : State) : Out :=
  onTile t s (when_ "FIN_STOP" (decide ((s.core t).blocked = some .fin) && s.allDone t 0xFF && (s.core t).pendQ.isEmpty)
    ((s.onCore t (fun c => { c with blocked := none, run := .finished })).report t
      (.frameReport (s.core t).staged.frame)))

/-- The rule of each staged key (R141): what the shadow slot becomes, or none where the key or the value is refused. -/
def stageKey (s : State) (t : Site) (key : Nat) (v : Word) (g : Staged) : Option Staged :=
  match key with
  | 0 => some .none
  | 1 =>
    if decide (v.toNat < 8) && decide (s.cfld t (aNiFrame v.toNat) 63 63 = 1) then some { g with frame := some v.toNat }
    else none
  | 2 => if v &&& 0xFFFFF0FE = 0 then some { g with genCfg := some v } else none
  | 3 => some { g with wlimit := some v }
  | 4 => if v.toNat < 2 then some { g with he := some (decide (v.toNat = 1)) } else none
  | _ => none

/-- STAGE (R141). -/
def execStage (t : Site) (s : State) : Out :=
  instr "STAGE" 0x38 t (fun w => decide (fRd w = 0) && decide (fFn w = 0)) (fun w s =>
    let c := s.core t
    let key := (c.get (fRa w)).toNat % 256
    match stageKey s t key (c.get (fRb w)) c.staged with
    | some g => .ok (s.onCore t (fun c => ({ c with staged := g }).advance))
    | none => .trap trStage (BitVec.ofNat 32 key) s) s

/-- FRAME (R142): the check, then the wait that FRAME_SWITCH ends. -/
def execFrame (t : Site) (s : State) : Out :=
  instr "FRAME" 0x39 t (fun w => immOnly w && decide (fImm13 w < 8)) (fun w s =>
    if s.cfld t (aNiFrame (fImm13 w)) 63 63 = 0 then .trap trFrame (BitVec.ofNat 32 (fImm13 w)) s
    else if (s.core t).stbuf.isEmpty then effBlock t s (.frame (fImm13 w)) else .wait) s

/-- HEAVY (R143). -/
def execHeavy (t : Site) (s : State) : Out :=
  instr "HEAVY" 0x3C t (fun w => immOnly w && decide (fImm13 w < 0x1000)) (fun w s =>
    let phase := fImm13 w % 256
    let level := fImm13 w / 256 % 16
    let s := (s.report t (.heavy phase level)).tileTrace t 8 0x0410 (phase + level * 2 ^ 32)
    effNext t s) s

/-- BRK (R144). -/
def execBrk (t : Site) (s : State) : Out :=
  instr "BRK" 0x3D t immOnly (fun w s => .trap trBreak (BitVec.ofNat 32 (fImm13 w)) s) s

/-- TRET (R147, R117): ILLEGAL where no trap handler runs. -/
def execTret (t : Site) (s : State) : Out :=
  instr "TRET" 0x3E t bareLegal (fun w s =>
    if (s.core t).trapT then .ok (s.onCore t Core.trapReturn) else .trap trIllegal w s) s

/-- NOP (R119). -/
def execNop (t : Site) (s : State) : Out := instr "NOP" 0x3F t bareLegal (fun _ s => effNext t s) s

/-- The major opcodes of R119. -/
def assignedOps : List Nat :=
  [1, 2, 3, 4, 5, 6, 8, 9, 10, 11, 0x10, 0x11, 0x12, 0x13, 0x14, 0x15, 0x18, 0x19, 0x1A, 0x1B, 0x20, 0x21, 0x22,
   0x24, 0x25, 0x26, 0x27, 0x28, 0x29, 0x2A, 0x2B, 0x30, 0x31, 0x32, 0x33, 0x34, 0x35, 0x36, 0x37, 0x38, 0x39, 0x3C, 0x3D,
   0x3E, 0x3F]

/-- ILLEGAL_INSTRUCTION (R118): a word with a reserved major opcode, the all-zero word among them. -/
def execIllegalInstruction (t : Site) (s : State) : Out :=
  onTile t s (match (s.core t).word with
    | some w => when_ "ILLEGAL_INSTRUCTION" (s.atBoundary t && !assignedOps.contains (fOp w))
        (s.takeTrap t (BitVec.ofNat 32 trIllegal) w)
    | none => .refused (.notEnabled "ILLEGAL_INSTRUCTION"))

/-- ENGINE_FAULT (R146). The lowest queue whose halt is pending is taken at the boundary, or from a blocking instruction; a
SEND that has started retires first, and a frame switch is abandoned while its frame stays (R142). -/
def execEngineFault (t : Site) (s : State) : Out :=
  onTile t s (
    let c := s.core t
    let low := (List.range 8).find? (fun q => c.pendQ.contains q)
    let sending := match c.blocked with | some (.send ..) => (s.ni t).sendLeft.isSome | _ => false
    let opening := match c.switch with | some x => x.opening | none => false
    match low with
    | none => .refused (.notEnabled "ENGINE_FAULT")
    | some q =>
      when_ "ENGINE_FAULT" (decide (c.run = .running) && !c.trapT && !sending && !opening)
        ((s.onCore t (fun c => { c with pendQ := c.pendQ.filter (fun x => decide (x ≠ q)), switch := none })).takeTrap t
          (BitVec.ofNat 32 (0x80000000 + trEngineFault)) (BitVec.ofNat 32 q)))

/-- The major opcode of a blocking instruction of R133. -/
def Blocked.op : Blocked → Option Nat
  | .waitc .. => some 0x29
  | .waitm .. => some 0x2B
  | .issue .. => some 0x28
  | .openConn .. => some 0x30
  | .send .. => some 0x32
  | .bar .. => some 0x35
  | .wfe => some 0x36
  | .frame .. => some 0x39
  | .fin => none

/-- WAIT_TIMEOUT (R134). A SEND that has started no longer waits (R242). -/
def execWaitTimeout (t : Site) (s : State) : Out :=
  onTile t s (
    let c := s.core t
    let sending := match c.blocked with | some (.send ..) => (s.ni t).sendLeft.isSome | _ => false
    match c.blocked.bind Blocked.op with
    | none => .refused (.notEnabled "WAIT_TIMEOUT")
    | some op =>
      when_ "WAIT_TIMEOUT" (decide (c.wlimit ≠ 0) && !sending && c.switch.isNone)
        ((s.atEdge (c.blockedAt + c.wlimit.toNat)).takeTrap t (BitVec.ofNat 32 trWaitTimeout) (BitVec.ofNat 32 op)))

/-- Nothing keeps the tile awake: its core blocks or has stopped, its queues are empty, and no backfill runs (R394). -/
def Tile.quiet (x : Tile) : Bool :=
  (decide (x.core.run ≠ .running) || x.core.blocked.isSome) &&
    x.queues.toList.all (fun q => q.entries.isEmpty && q.flight.isEmpty) && x.backfill.isNone

/-- TILE_IDLE_ENTRY (R394). -/
def execTileIdleEntry (t : Site) (s : State) : Out :=
  onTile t s (when_ "TILE_IDLE_ENTRY" (decide ((s.tile t).power = .active) && (s.tile t).quiet)
    (s.onTile t (fun x => { x with power := .idle })))

end Sys2Proof.Machine
end

