-- ==== Sys2Proof/Machine/Flags.lean ====
section
/-!
DEFINITION. Numbers and their flags (chapter 3): exact values, the formats of R79 decoded and encoded, the three rounding
modes, the draws of R100 and the flag byte of R102.
-/
namespace Sys2Proof.Machine

/-! ### Flag byte (R102) -/

def flNX : Nat := 1
def flUF : Nat := 2
def flOF : Nat := 4
def flDZ : Nat := 8
def flNV : Nat := 16
def flSAT : Nat := 32
def flSDROP : Nat := 128

/-! ### Draws (R100, R101) -/

def mix64 (z : Dword) : Dword :=
  let z := z + 0x9E3779B97F4A7C15
  let z := (z ^^^ (z >>> 30)) * 0xBF58476D1CE4E5B9
  let z := (z ^^^ (z >>> 27)) * 0x94D049BB133111EB
  z ^^^ (z >>> 31)

/-- The random byte of one rounding. -/
def draw (seed : Dword) (q : Nat) (c : Word) (j k : Nat) : Nat :=
  let w := mix64 (seed ^^^ (BitVec.ofNat 64 q <<< 60) ^^^ ((BitVec.setWidth 64 c) <<< 28) ^^^ BitVec.ofNat 64 (j % 2 ^ 32))
  (mix64 (w + BitVec.ofNat 64 (k % 2 ^ 32))).toNat % 256

/-! ### Exact values -/

/-- An exact value: (−1)^neg · mag · 2^exp, an infinity, or a NaN with its fraction in the 23 bits of FP32. -/
inductive Val where
  | fin (neg : Bool) (mag : Nat) (exp : Int)
  | inf (neg : Bool)
  | nan (neg : Bool) (frac : Nat)
  deriving DecidableEq, Repr

/-- A NaN is signalling when the top bit of its fraction is 0 (R82, R106). -/
def Val.signalling : Val → Bool
  | .nan _ f => decide (f < 0x400000)
  | _ => false
def Val.isNan : Val → Bool
  | .nan .. => true
  | _ => false
def Val.isZero : Val → Bool
  | .fin _ m _ => decide (m = 0)
  | _ => false
def Val.neg : Val → Bool
  | .fin n _ _ => n | .inf n => n | .nan n _ => n
def Val.setNeg (v : Val) (n : Bool) : Val :=
  match v with
  | .fin _ m e => .fin n m e | .inf _ => .inf n | .nan _ f => .nan n f
def Val.quiet : Val → Val
  | .nan n f => .nan n (f ||| 0x400000)
  | v => v
/-- The canonical NaN (R84). -/
def Val.cnan : Val := .nan false 0x400000
def Val.zero : Val := .fin false 0 0

/-- 2^n for an exponent that is not negative. -/
def pow2 (n : Int) : Nat := 2 ^ n.toNat

/-- The magnitude in units of 2^q, where q does not exceed the value's exponent. -/
def magAt (mag : Nat) (exp q : Int) : Nat := mag * pow2 (exp - q)

/-- The integer of a finite value in units of 2^q. -/
def Val.intAt (v : Val) (q : Int) : Int :=
  match v with
  | .fin n m e => if n then -(magAt m e q : Int) else (magAt m e q : Int)
  | _ => 0
def Val.exp : Val → Int
  | .fin _ _ e => e
  | _ => 0

/-- A finite value from an integer in units of 2^q; z is the sign that an exact zero takes. -/
def ofUnits (i : Int) (q : Int) (z : Bool) : Val :=
  if i = 0 then .fin z 0 0 else .fin (decide (i < 0)) i.natAbs q

def Val.ofInt (i : Int) : Val := ofUnits i 0 false

/-- The exact sum of two finite values; an exact zero sum is +0 unless both terms are −0 (R98). -/
def addFin (a b : Val) : Val :=
  let q := min a.exp b.exp
  ofUnits (a.intAt q + b.intAt q) q (a.neg && b.neg && a.isZero && b.isZero)

def mulFin (a b : Val) : Val :=
  match a, b with
  | .fin n m e, .fin n' m' e' => .fin (n != n') (m * m') (e + e')
  | _, _ => .cnan

/-- Order of two finite or infinite values: negative when a < b. -/
def cmpVal (a b : Val) : Int :=
  match a, b with
  | .inf n, .inf n' => if n = n' then 0 else if n then -1 else 1
  | .inf n, _ => if n then -1 else 1
  | _, .inf n => if n then 1 else -1
  | a, b =>
    let q := min a.exp b.exp
    a.intAt q - b.intAt q

/-! ### Rounding (R97, R99) -/

/-- The rounded multiple of 2^q of a magnitude: the multiple and whether it is inexact. mode: 0 RNE, 1 RTZ, 2 STOCH with the
random byte r; odd says whether the code of the neighbour toward zero is odd. -/
def roundMag (mode r : Nat) (odd : Nat → Bool) (mag : Nat) (exp q : Int) : Nat × Bool :=
  if q ≤ exp then (magAt mag exp q, false)
  else
    let u := pow2 (q - exp)
    let lo := mag / u
    let d := mag % u
    if d = 0 then (lo, false)
    else
      let up := match mode with
        | 0 => decide (u < 2 * d) || (decide (u = 2 * d) && odd lo)
        | 2 => decide (256 ≤ 256 * d / u + r)
        | _ => false
      (if up then lo + 1 else lo, true)

/-- floor(log2) of a non-zero magnitude. -/
def ilog (mag : Nat) (exp : Int) : Int := (Nat.log2 mag : Int) + exp

/-- A floating format: exponent bits, mantissa bits, bias; ieee: the top exponent codes infinity and NaN. -/
structure FFmt where
  e    : Nat
  m    : Nat
  bias : Int
  ieee : Bool
  deriving DecidableEq, Repr

def fFP32 : FFmt := { e := 8, m := 23, bias := 127, ieee := true }
def fFP16 : FFmt := { e := 5, m := 10, bias := 15, ieee := true }
def fVB16 : FFmt := { e := 8, m := 7, bias := 127, ieee := true }
def fVF8a : FFmt := { e := 4, m := 3, bias := 8, ieee := false }
def fVF8b : FFmt := { e := 5, m := 2, bias := 15, ieee := true }
def fVF6 : FFmt := { e := 3, m := 2, bias := 3, ieee := false }
/-- VF4 (R90): codes E = 1 to 7 hold 2^(E − 4). -/
def fVF4 : FFmt := { e := 3, m := 0, bias := 4, ieee := false }

/-- The floating format of a code of R79. -/
def fmtOf (c : Nat) : Option FFmt :=
  match c with
  | 0 => some fFP32 | 1 => some fFP16 | 2 => some fVB16 | 3 => some fVF8a | 4 => some fVF8a
  | 5 => some fVF8b | 6 => some fVF8b | 7 => some fVF6 | 8 => some fVF4 | _ => none

/-- Formats with scale bytes (R79). -/
def isScaled (c : Nat) : Bool := decide (c = 4) || decide (c = 6) || decide (c = 7) || decide (c = 8)
/-- Integer formats and their bits. -/
def intBits (c : Nat) : Option Nat :=
  match c with | 9 => some 8 | 10 => some 4 | 11 => some 32 | _ => none
/-- Bits per element (R79); 0 for a reserved code. -/
def fmtBits (c : Nat) : Nat :=
  match c with
  | 0 => 32 | 1 => 16 | 2 => 16 | 3 => 8 | 4 => 8 | 5 => 8 | 6 => 8 | 7 => 6 | 8 => 4 | 9 => 8 | 10 => 4 | 11 => 32
  | _ => 0

/-- Largest exponent field of a finite value, and the largest mantissa there. -/
def FFmt.topE (f : FFmt) : Nat := if f.ieee then 2 ^ f.e - 2 else 2 ^ f.e - 1
/-- Weight of the unit in the last place of subnormals; VF4 has none, and its first point stands alone. -/
def FFmt.qmin (f : FFmt) : Int := 1 - f.bias - f.m
/-- The largest finite magnitude: mantissa and exponent. -/
def FFmt.maxMag (f : FFmt) : Nat × Int := (2 ^ (f.m + 1) - 1, (f.topE : Int) - f.bias - f.m)
/-- The exponent T of the largest finite value (R94). -/
def FFmt.top (f : FFmt) : Int := (f.topE : Int) - f.bias

/-- The value of an element's bits (R82, R86 to R91). -/
def decodeFloat (c : Nat) (f : FFmt) (x : Nat) : Val :=
  let s := x.testBit (f.e + f.m)
  let E := x / 2 ^ f.m % 2 ^ f.e
  let M := x % 2 ^ f.m
  if decide (c = 3) || decide (c = 4) then
    if x = 0x80 then .cnan
    else if E = 0 then .fin (s && decide (M ≠ 0)) M f.qmin
    else .fin s (8 + M) ((E : Int) - f.bias - f.m)
  else if c = 8 then (if E = 0 then .zero else .fin s 1 ((E : Int) - f.bias))
  else if f.ieee && decide (E = 2 ^ f.e - 1) then
    if M = 0 then .inf s else .nan s (M * 2 ^ (23 - f.m))
  else if E = 0 then .fin (s && (decide (M ≠ 0) || decide (c ≠ 7))) M f.qmin
  else .fin s (2 ^ f.m + M) ((E : Int) - f.bias - f.m)

/-- Two's complement of n bits. -/
def decodeInt (n x : Nat) : Int := (BitVec.ofNat n x).toInt

/-- The value of an element in format c. -/
def decodeVal (c x : Nat) : Val :=
  match fmtOf c with
  | some f => decodeFloat c f x
  | none => .ofInt (decodeInt ((intBits c).getD 32) x)

/-- The scale byte's factor 2^(S − 127) (R92). -/
def Val.scale (v : Val) (sb : Nat) : Val :=
  match v with
  | .fin n m e => .fin n m (e + sb - 127)
  | v => v

def signBit (f : FFmt) (neg : Bool) : Nat := if neg then 2 ^ (f.e + f.m) else 0

/-- The code of n · 2^q, for a multiple that the format holds. -/
def packFinite (f : FFmt) (neg : Bool) (n : Nat) (q : Int) : Nat :=
  if n < 2 ^ f.m then signBit f neg + n
  else
    let (n, q) := if 2 ^ (f.m + 1) ≤ n then (n / 2, q + 1) else (n, q)
    signBit f neg + (q + f.m + f.bias).toNat * 2 ^ f.m + (n - 2 ^ f.m)

/-- Tiny after rounding (R84): rounded with an unbounded exponent, the value lies below the smallest normal. -/
def tiny (f : FFmt) (mode r mag : Nat) (exp : Int) : Bool :=
  let q := ilog mag exp - f.m
  let (n, _) := roundMag mode r (fun n => n % 2 = 1) mag exp q
  decide (ilog n q < 1 - f.bias)

/-- A result beyond the largest finite value (R84, R88, R89, R91, R103). -/
def overflowCode (f : FFmt) (mode : Nat) (neg : Bool) : Nat × Nat :=
  if f.ieee then
    (if mode = 1 then signBit f neg + f.topE * 2 ^ f.m + (2 ^ f.m - 1) else signBit f neg + (2 ^ f.e - 1) * 2 ^ f.m,
     flOF ||| flNX)
  else (signBit f neg + f.topE * 2 ^ f.m + (2 ^ f.m - 1), flSAT ||| flNX)

/-- The code and flags of an exact value converted to floating format c in a mode, with the random byte r. -/
def encodeFloat (c : Nat) (f : FFmt) (mode r : Nat) (v : Val) : Nat × Nat :=
  let signedZero := f.ieee
  match v with
  | .nan neg frac =>
    let nv := if frac < 0x400000 then flNV else 0
    if decide (c = 3) || decide (c = 4) then (0x80, nv)
    else if decide (c = 7) || decide (c = 8) then (0, flNV)
    else if decide (c = 5) || decide (c = 6) then (if neg then 0xFE else 0x7E, nv)
    else (signBit f neg + (2 ^ f.e - 1) * 2 ^ f.m + (frac ||| 0x400000) / 2 ^ (23 - f.m), nv)
  | .inf neg =>
    if f.ieee then (signBit f neg + (2 ^ f.e - 1) * 2 ^ f.m, 0)
    else (signBit f neg + f.topE * 2 ^ f.m + (2 ^ f.m - 1), flSAT)
  | .fin neg mag exp =>
    if mag = 0 then (if signedZero then signBit f neg else 0, 0)
    else
      let (mm, mq) := f.maxMag
      let beyond := decide (0 < cmpVal (.fin false mag exp) (.fin false mm mq))
      if beyond && !f.ieee then overflowCode f mode neg
      else
        let lg := ilog mag exp
        -- VF4's first point stands one binade above its neighbour 0: between them the unit is 2^-3
        let q := if c = 8 then max lg (1 - f.bias) else max (lg - f.m) f.qmin
        let odd := fun n : Nat => if c = 8 then decide (n = 1) && decide ((q + f.bias) % 2 = 1) else n % 2 = 1
        let md := if beyond && decide (mode = 2) then 0 else mode
        let (n, inexact) := roundMag md r odd mag exp q
        let past := beyond && (decide (mode = 1) || decide (0 < cmpVal (.fin false n q) (.fin false mm mq)))
        if past then overflowCode f mode neg
        else
          let uf := if inexact && tiny f mode r mag exp then flUF else 0
          let fl := if inexact then flNX ||| uf else 0
          let code := if c = 8 then
              (if n = 0 then 0 else signBit f neg + (ilog n q + f.bias).toNat)
            else packFinite f neg n q
          (if decide (n = 0) && !signedZero then 0 else code, fl)

/-- An integer of n bits from an exact value (R96). From a floating value a result outside the range raises SAT and NV; from
an integer it raises SAT. -/
def encodeInt (n mode r : Nat) (fromInt : Bool) (v : Val) : Nat × Nat :=
  let hi : Int := 2 ^ (n - 1) - 1
  let lo : Int := -(2 ^ (n - 1))
  let put := fun i : Int => (BitVec.ofInt n i).toNat
  let sat := fun neg : Bool => (put (if neg then lo else hi), if fromInt then flSAT else flSAT ||| flNV)
  match v with
  | .nan .. => (0, flNV)
  | .inf neg => sat neg
  | .fin neg mag exp =>
    let (m, inexact) := roundMag mode r (fun k => k % 2 = 1) mag exp 0
    let i : Int := if neg then -(m : Int) else m
    if decide (hi < i) || decide (i < lo) then sat neg else (put i, if inexact then flNX else 0)

/-- The code and flags of an exact value converted to format c. -/
def encodeVal (c mode r : Nat) (fromInt : Bool) (v : Val) : Nat × Nat :=
  match fmtOf c with
  | some f => encodeFloat c f mode r v
  | none => encodeInt ((intBits c).getD 32) mode r fromInt v

/-- A value rounded into a floating format and read back, with its flags. -/
def roundTo (c mode r : Nat) (v : Val) : Val × Nat :=
  let (x, fl) := encodeVal c mode r false v
  (decodeVal c x, fl)

/-- The scale byte of a block of exact values (R94): the largest finite magnitude falls into the top binade. -/
def scaleByte (c : Nat) (vs : List Val) : Nat :=
  let t := ((fmtOf c).map FFmt.top).getD 0
  let logs := vs.filterMap (fun v => match v with
    | .fin _ m e => if m = 0 then none else some (ilog m e)
    | _ => none)
  match logs with
  | [] => 127
  | l :: ls => (max 0 (min 254 (ls.foldl max l - t + 127))).toNat

/-! ### Operations of IEEE 754 on exact values (R83, R84) -/

/-- The NaN that an operation returns: the first NaN operand, quietened; NV for a signalling one. -/
def nanOf (vs : List Val) : Option (Val × Nat) :=
  match vs.find? Val.isNan with
  | some v => some (v.quiet, if vs.any Val.signalling then flNV else 0)
  | none => none

/-- An invalid operation with no NaN operand (R84). -/
def invalid : Val × Nat := (.cnan, flNV)

def opAdd (a b : Val) : Val × Nat :=
  match nanOf [a, b] with
  | some r => r
  | none => match a, b with
    | .inf n, .inf n' => if n = n' then (a, 0) else invalid
    | .inf _, _ => (a, 0)
    | _, .inf _ => (b, 0)
    | _, _ => (addFin a b, 0)

def Val.negate (v : Val) : Val := v.setNeg (!v.neg)

/-- The product of two operands of which at least one may be special. -/
def mulCore (a b : Val) : Val × Nat :=
  match a, b with
  | .inf n, y => if y.isZero then invalid else (.inf (n != y.neg), 0)
  | x, .inf n => if x.isZero then invalid else (.inf (x.neg != n), 0)
  | _, _ => (mulFin a b, 0)

def opMul (a b : Val) : Val × Nat := (nanOf [a, b]).getD (mulCore a b)

/-- A × B + C, exact. -/
def opFma (a b c : Val) : Val × Nat :=
  match nanOf [a, b, c] with
  | some (v, fl) =>
    -- 754-2019 leaves to the implementation whether 0 × ∞ + quiet NaN is invalid
    (v, if c.isNan && ((mulCore a b).2 ≠ 0) && !a.isNan && !b.isNan && Config.fmaNanInvalid then fl ||| flNV else fl)
  | none =>
    let (p, fl) := mulCore a b
    if fl ≠ 0 then (p, fl) else opAdd p c

/-- Bits of quotient or root beyond any format's precision that the engine keeps, with a sticky bit below. -/
def extraBits : Nat := 64

def opDiv (a b : Val) : Val × Nat :=
  match nanOf [a, b] with
  | some r => r
  | none => match a, b with
    | .inf _, .inf _ => invalid
    | .inf n, y => (.inf (n != y.neg), 0)
    | x, .inf n => (.fin (x.neg != n) 0 0, 0)
    | .fin n m e, .fin n' m' e' =>
      if m' = 0 then (if m = 0 then invalid else (.inf (n != n'), flDZ))
      else
        let k := extraBits + Nat.log2 m' + 1
        let num := m * 2 ^ k
        (.fin (n != n') (2 * (num / m') + (if num % m' = 0 then 0 else 1)) (e - e' - k - 1), 0)
    | _, _ => invalid

/-- The largest r with r · r ≤ n, by one bit at a time. -/
def isqrt (n : Nat) : Nat :=
  ((List.range (Nat.log2 n / 2 + 1)).reverse).foldl (fun r i => if (r + 2 ^ i) * (r + 2 ^ i) ≤ n then r + 2 ^ i else r) 0

def opSqrt (a : Val) : Val × Nat :=
  match nanOf [a] with
  | some r => r
  | none => match a with
    | .inf n => if n then invalid else (a, 0)
    | .fin n m e =>
      if m = 0 then (a, 0)
      else if n then invalid
      else
        let k : Nat := 2 * extraBits + (if (e % 2 = 0) then 0 else 1)
        let x := m * 2 ^ k
        let r := isqrt x
        (.fin false (2 * r + (if r * r = x then 0 else 1)) ((e - k) / 2 - 1), 0)
    | _ => invalid

/-- IEEE minimum and maximum: a NaN operand wins; −0 orders below +0. -/
def lessSigned (a b : Val) : Bool :=
  if a.isZero && b.isZero then a.neg && !b.neg else decide (cmpVal a b < 0)
def opMin (a b : Val) : Val × Nat := (nanOf [a, b]).getD (if lessSigned b a then b else a, 0)
def opMax (a b : Val) : Val × Nat := (nanOf [a, b]).getD (if lessSigned a b then b else a, 0)
/-- IEEE minimumNumber and maximumNumber: a number wins over a NaN. -/
def opNum (pick : Val → Val → Val × Nat) (a b : Val) : Val × Nat :=
  let nv := if a.signalling || b.signalling then flNV else 0
  if a.isNan && b.isNan then (nanOf [a, b]).getD (a, 0)
  else if a.isNan then (b, nv)
  else if b.isNan then (a, nv)
  else pick a b

/-- roundToIntegral: the sign of a zero result is the operand's; it raises no NX (R83). -/
def opRint (mode r : Nat) (a : Val) : Val × Nat :=
  match nanOf [a] with
  | some x => x
  | none => match a with
    | .fin n m e => (.fin n (roundMag mode r (fun k => k % 2 = 1) m e 0).1 0, 0)
    | v => (v, 0)

/-- The comparisons by FN 0x10 to 0x15: EQ, NE, LT, LE, GT, GE. -/
def opCmp (fn : Nat) (a b : Val) : Bool × Nat :=
  if a.isNan || b.isNan then
    (decide (fn = 0x11), if a.signalling || b.signalling || decide (0x12 ≤ fn) then flNV else 0)
  else
    let d := cmpVal a b
    (match fn with
      | 0x10 => decide (d = 0) | 0x11 => decide (d ≠ 0) | 0x12 => decide (d < 0) | 0x13 => decide (d ≤ 0)
      | 0x14 => decide (0 < d) | _ => decide (0 ≤ d), 0)

end Sys2Proof.Machine
end

