-- ==== Sys2Proof/Machine/Operands.lean ====
section
/-!
DEFINITION. Operand layouts of engine commands (R151 to R153), what reading and writing them meets, the checks of R155 to
R157, and the start, the run and the end of a command that every engine shares (R68, R190, R192).
-/
namespace Sys2Proof.Machine

/-! ### Layout (R81, R152) -/

/-- Bytes of a row of len elements in format c. -/
def rowBytes (c len : Nat) : Nat := if c = 7 then 24 * ((len + 31) / 32) else (len * fmtBits c + 7) / 8
def pitchOf (c len : Nat) : Nat := 64 * ((rowBytes c len + 63) / 64)
def scalesPerRow (len : Nat) : Nat := (len + 31) / 32

/-- A matrix in the store: base offset, format, rows, elements per row. -/
structure Mat where
  base : Nat
  fmt  : Nat
  rows : Nat
  len  : Nat
  deriving DecidableEq, Repr

def Mat.pitch (m : Mat) : Nat := pitchOf m.fmt m.len
def Mat.rowOff (m : Mat) (r : Nat) : Nat := m.base + r * m.pitch
def Mat.scaleOff (m : Mat) (r i : Nat) : Nat := m.base + m.rows * m.pitch + r * scalesPerRow m.len + i / 32
def Mat.extent (m : Mat) : Nat :=
  m.rows * m.pitch + (if isScaled m.fmt then m.rows * scalesPerRow m.len else 0)
/-- The byte ranges that hold the matrix. -/
def Mat.ranges (m : Mat) : List (Nat × Nat) :=
  (List.range m.rows).map (fun r => (m.rowOff r, rowBytes m.fmt m.len)) ++
    (if isScaled m.fmt then [(m.base + m.rows * m.pitch, m.rows * scalesPerRow m.len)] else [])

/-- The first bit of element i within its row. -/
def elemBit (c i : Nat) : Nat := if c = 7 then i / 32 * 192 + 6 * (i % 32) else i * fmtBits c

/-- Codes packed into n bytes; each code with the number of its first bit. -/
def packBits (n : Nat) (cs : List (Nat × Nat)) : List Byte := leBytes n (cs.foldl (fun a e => a ||| (e.2 <<< e.1)) 0)

/-- A row of codes (R81). -/
def packRow (c : Nat) (codes : List Nat) : List Byte :=
  packBits (rowBytes c codes.length) (codes.zipIdx.map (fun e => (elemBit c e.2, e.1)))

/-! ### Faults of a running command -/

/-- Engine fault causes (R155, R229). -/
def ecDesc : Nat := 1
def ecFormat : Nat := 3
def ecAddr : Nat := 2
def ecShape : Nat := 4
def ecOverlap : Nat := 5
def ecStoreUe : Nat := 6
def ecLoamUe : Nat := 7
def ecSparse : Nat := 8
def ecPeer : Nat := 9
def ecConn : Nat := 10

def det (cause opnd addr : Nat) : Detected := { cause := cause, opnd := opnd, addr := addr, progress := 0 }

/-- An uncorrectable word among n bytes that an operand read touches. -/
def State.badAt (s : State) (t : Site) (off n : Nat) : Bool := (s.firstUe t off n).isSome

/-- n bits of the store from bit b of byte offset off. -/
def State.bitsAt (s : State) (t : Site) (off b n : Nat) : Nat :=
  leNat (s.bytes (storeAddr t (off + b / 8)) ((b % 8 + n + 7) / 8)) / 2 ^ (b % 8) % 2 ^ n

/-- The stored bits of element (r, i), or the error that its read meets. -/
def rawElem (s : State) (t : Site) (opnd : Nat) (m : Mat) (r i : Nat) : Except Detected Nat :=
  let b := elemBit m.fmt i
  let n := fmtBits m.fmt
  if s.badAt t (m.rowOff r + b / 8) ((b % 8 + n + 7) / 8) then .error (det ecStoreUe opnd (m.rowOff r + b / 8))
  else .ok (s.bitsAt t (m.rowOff r) b n)

/-- The scale byte of element (r, i); 127 where the format has none. 0xFF faults with FORMAT (R92). -/
def scaleAt (s : State) (t : Site) (m : Mat) (r i : Nat) : Except Detected Nat :=
  if isScaled m.fmt then
    let o := m.scaleOff r i
    if s.badAt t o 1 then .error (det ecStoreUe 4 o)
    else
      let v := (s.byte (storeAddr t o)).toNat
      if v = 0xFF then .error (det ecFormat 4 o) else .ok v
  else .ok 127

/-- The exact value of element (r, i), its scale byte applied. -/
def elemVal (s : State) (t : Site) (opnd : Nat) (m : Mat) (r i : Nat) : Except Detected Val :=
  match rawElem s t opnd m r i, scaleAt s t m r i with
  | .error e, _ => .error e
  | _, .error e => .error e
  | .ok x, .ok sb => .ok ((decodeVal m.fmt x).scale sb)

/-- The code meets every operand read; generation tags are compared (R48, R154). On a fault the words in error that were
met are the failing one alone. -/
def State.meetReads (s : State) (t : Site) (q g : Nat) (rs : List (Nat × Nat)) (fault : Option Detected) : State :=
  let s := rs.foldl (fun s r => s.genCheck t r.1 r.2 g q) s
  match fault with
  | some d => if d.cause = ecStoreUe then (s.eccRead t d.addr 1).1 else s
  | none => rs.foldl (fun s r => (s.eccRead t r.1 r.2).1) s

/-! ### Results by element, until the first fault -/

/-- Results 0, 1, … of a command while its operands are readable: the results in order, their flags, and the fault that
stopped them. -/
def collect {α : Type} (f : Nat → Except Detected (α × Nat)) (n : Nat) : List α × Nat × Option Detected :=
  let (xs, fl, e, _) := (List.range n).foldl (fun (a : List α × Nat × Option Detected × Nat) i =>
    match a with
    | (xs, fl, none, k) => match f i with
      | .ok (x, g) => (x :: xs, fl ||| g, none, k + 1)
      | .error d => (xs, fl, some { d with progress := k }, k)
    | a => a) ([], 0, none, 0)
  (xs.reverse, fl, e)

/-- The first n codes of a row written; a last nibble alone leaves its neighbour's bits (R46 writes whole bytes). -/
def State.writeCodes (s : State) (t : Site) (m : Mat) (r : Nat) (codes : List Nat) (g : Nat) : State :=
  let bs := packRow m.fmt codes
  let bs := if codes.length = m.len then bs else bs.take (codes.length * fmtBits m.fmt / 8)
  s.writeStore t (m.rowOff r) bs g

/-- Rows of codes written from a flat list. -/
def State.writeRows (s : State) (t : Site) (m : Mat) (codes : List Nat) (g : Nat) : State :=
  (List.range m.rows).foldl (fun s r =>
    let cs := (codes.drop (r * m.len)).take m.len
    if cs.isEmpty then s else s.writeCodes t m r cs g) s

/-! ### Checks (R155 to R157) -/

/-- The row fields of a descriptor are store offsets [18:6]. -/
def rowOff (f : Nat) : Nat := 64 * f

def overlaps (a b : Nat × Nat) : Bool := decide (a.1 < b.1 + b.2) && decide (b.1 < a.1 + a.2)

/-- The first failing check; each list is in the order of R156, operands of one check by rising OPND code. -/
def firstFail (l : List (Bool × Detected)) : Option Detected := (l.find? (fun e => e.1)).map (fun e => e.2)

/-- ADDR checks of extents (opnd, offset, bytes). -/
def addrChecks (s : State) (t : Site) (es : List (Nat × Nat × Nat)) : List (Bool × Detected) :=
  es.map (fun e => (decide (s.storeEnd t < e.2.1 + e.2.2), det ecAddr e.1 e.2.1))

/-- OVERLAP checks: the members of every overlapping pair, by rising OPND code (R156, R157). -/
def overlapChecks (pairs : List ((Nat × Nat × Nat) × (Nat × Nat × Nat))) : List (Bool × Detected) :=
  let bad := (pairs.filter (fun p => overlaps (p.1.2.1, p.1.2.2) (p.2.2.1, p.2.2.2))).flatMap (fun p => [p.1, p.2])
  ((List.range 8).flatMap (fun o => bad.filter (fun e => decide (e.1 = o)))).map (fun e => (true, det ecOverlap e.1 e.2.1))

/-- The fields of the header (R149). -/
def dGen (d : Desc) : Nat := Desc.field d 31 28
def dTag (d : Desc) : Nat := Desc.field d 27 20
def dRnd (d : Desc) : Nat := Desc.field d 19 18
def dCtl (d : Desc) : Nat := Desc.field d 17 17
def dEng (d : Desc) : Nat := Desc.field d 15 12
def dOpc (d : Desc) : Nat := Desc.field d 11 8
def dFA (d : Desc) : Nat := Desc.field d 7 4
def dFC (d : Desc) : Nat := Desc.field d 3 0

/-- DESC conditions of the header that hold for every engine. -/
def headerBad (d : Desc) (q maxOpc : Nat) : Bool :=
  decide (dEng d ≠ q) || decide (Desc.field d 16 16 ≠ 0) || decide (maxOpc < dOpc d)

def noOpnd : Nat := 15
def descFault (b : Bool) : Bool × Detected := (b, det ecDesc noOpnd 0)

/-- FORMAT checks: operands whose code is refused (opnd, base), by rising OPND code, then the rounding mode (R108). -/
def formatChecks (d : Desc) (ops : List (Bool × Nat × Nat)) : List (Bool × Detected) :=
  ops.map (fun e => (e.1, det ecFormat e.2.1 e.2.2)) ++ [(decide (dRnd d = 3), det ecFormat 15 0)]

/-! ### Plot policies and seeds -/

/-- The policy STRICT; outside a plot the reset value 1 holds. -/
def State.strict (s : State) (t : Site) : Bool :=
  match s.plotOf t with
  | some p => decide (s.fld (rPlotMode p) 0 0 = 1)
  | none => true

/-- The tile seed (R101). Under MIRROR both twins take the even twin's coordinates. -/
def State.tileSeed (s : State) (t : Site) : Dword :=
  match s.plotOf t with
  | some p =>
    let u := if s.plotBit t 1 then s.evenTwin t else t
    mix64 (s.reg (rPlotSeed p) ^^^ BitVec.ofNat 64 (s.vxy u))
  | none => mix64 0

/-! ### A command's life -/

/-- A queue may take its head up: it is not halted, no split switch waits, and no fence, freeze or sleep holds the tile
(R61, R68, R394, R427, R446). -/
def State.queueOpen (s : State) (t : Site) (q : Nat) : Bool :=
  !(s.queue t q).halted && decide (s.cfld t aStoreCfg 1 1 = 0) && !s.frozen &&
    (s.tile t).powered &&
    s.maySend t

/-- A queue may start its head: it is open, and no earlier command is in flight (R68). -/
def State.mayStart (s : State) (t : Site) (q : Nat) : Bool := s.queueOpen t q && (s.queue t q).flight.isEmpty

def InFlight.start (s : State) (t : Site) (e : QEntry) : InFlight :=
  { entry := e, flags := 0, done := false, fault := none, progress := 0, strict := s.strict t, seed := s.tileSeed t,
    groups := 0, vals := 0, work := .none }

/-- The head of the queue leaves for execution. -/
def State.launch (s : State) (t : Site) (q : Nat) (f : InFlight) : State :=
  (s.onQueue t q (fun k => { k with entries := k.entries.drop 1, flight := k.flight ++ [f] })).onTile t
    (fun x => if x.power = .idle then { x with power := .active } else x)

/-- What an engine does with its operation: how the checks find it, the header read that belongs to the checks (R181, R206),
and its work at the store, which answers the state after it and the command as it then stands. -/
structure EngineOp where
  check : State → Desc → Option Detected
  pre   : State → Desc → State
  run   : State → InFlight → Desc → State × InFlight

/-- The head of a queue is checked and run. -/
def EngineOp.start (o : EngineOp) (t : Site) (q : Nat) (e : QEntry) (s : State) : State :=
  let f := InFlight.start s t e
  let c := o.check s e.desc
  let s := if (c.map (fun d => d.cause)) = some ecDesc then s else o.pre s e.desc
  match c with
  | some d => s.launch t q { f with fault := some d, done := true }
  | none =>
    let (s', f') := o.run s f e.desc
    s'.launch t q f'

/-- The start of an engine command (R68, R156). opc says which operations this event is for; beside says whether the head
may start although an earlier command is in flight. -/
def engineBeside (name : String) (q : Nat) (t : Site) (opc : Nat → Bool) (beside : State → Desc → Bool) (o : EngineOp)
    (s : State) : Out :=
  onTile t s (match (s.queue t q).entries with
    | [] => .refused (.notEnabled name)
    | e :: _ =>
      when_ name (s.queueOpen t q && ((s.queue t q).flight.isEmpty || beside s e.desc) && decide (dCtl e.desc = 0) &&
        opc (dOpc e.desc)) (o.start t q e s))

/-- The start of a command of an engine that runs one command at a time. -/
def engine (name : String) (q : Nat) (t : Site) (opc : Nat → Bool) (o : EngineOp) (s : State) : Out :=
  engineBeside name q t opc (fun _ _ => false) o s

/-- No header is read at the checks. -/
def noPre : State → Desc → State := fun s _ => s

/-- A command whose writes are all performed: its flags, and the fault that cut it short, if one did. -/
def InFlight.finish (f : InFlight) (flags : Nat) (fault : Option Detected) : InFlight :=
  { f with flags := f.flags ||| BitVec.ofNat 8 flags, done := true, fault := fault,
           progress := match fault with | some d => d.progress | none => f.progress }

/-- The command in flight at the front of a queue. -/
def State.flightOf (s : State) (t : Site) (q : Nat) : Option InFlight := (s.queue t q).flight.head?

/-- The front command of a queue, changed. -/
def State.onFlight (s : State) (t : Site) (q : Nat) (f : InFlight → InFlight) : State :=
  s.onQueue t q (fun k => { k with flight := match k.flight with | [] => [] | a :: l => f a :: l })

/-- A command counts as complete: TC_CCNT, TC_QHIST and TC_QSTICKY in one edge (R190), a DONE record, and WFE's event. -/
def State.countDone (s : State) (t : Site) (q : Nat) (flags : Nat) : State :=
  let k := s.queue t q
  let tk := k.ccnt + 1
  let s := s.onQueue t q (fun k => { k with
    ccnt := tk
    hist := k.hist.set (tk.toNat % 16) (BitVec.ofNat 8 flags) (Nat.mod_lt _ (by decide))
    sticky := if flags = 0 then k.sticky
      else Dword.setField (Dword.setField k.sticky 63 32 tk.toNat) 7 0 (Dword.field k.sticky 7 0 ||| flags) })
  (s.tileTrace t q (0x0400 + q) (tk.toNat + flags * 2 ^ 32)).wfeWake t

/-- ENGINE_COMMAND_COMPLETE (R190, R214). -/
def execEngineCommandComplete (t : Site) (q : Nat) (s : State) : Out :=
  onTile t s (onUnit (decide (q < 8)) (match s.flightOf t q with
    | none => .refused (.notEnabled "ENGINE_COMMAND_COMPLETE")
    | some f =>
      when_ "ENGINE_COMMAND_COMPLETE" (f.done && f.fault.isNone) (
        let s := s.onQueue t q (fun k => { k with flight := k.flight.drop 1 })
        let s := s.countDone t q f.flags.toNat
        let s := if q = 0 then s.startBackfill t else s
        if f.groups = 0 then s else s.report t (.sparse q f.entry.ticket f.groups f.vals))))

/-- A fault takes effect (R192): the faulted descriptor is copied out, the queue halts, and the trap becomes pending. A later
command that has started becomes the unstarted head again. -/
def State.faultEffect (s : State) (t : Site) (q : Nat) (f : InFlight) (d : Detected) : State :=
  let fault : Dword := BitVec.ofNat 64 (2 ^ 63 + d.cause * 2 ^ 48 + dTag f.entry.desc * 2 ^ 40 +
    f.flags.toNat * 2 ^ 32 + f.entry.ticket.toNat)
  let detail : Dword := BitVec.ofNat 64 (f.progress % 2 ^ 32 * 2 ^ 32 + d.opnd * 2 ^ 28 + d.addr % 2 ^ 27)
  (s.onQueue t q (fun k => { k with
    entries := (k.flight.drop 1).map (fun x => x.entry) ++ k.entries
    flight := [], halted := true, fdesc := f.entry.desc, fault := fault, detail := detail })).onCore t (fun c =>
      { c with pendQ := insertNat (c.pendQ.filter (fun x => decide (x ≠ q))) q })

/-- The TX command of a faulted pair, whose fault takes effect with that of the TE (R178). -/
def State.pairedFault (s : State) (t : Site) : State :=
  match s.flightOf t 3 with
  | some g => match g.work, g.fault with
    | .txPair, some e => s.faultEffect t 3 g e
    | _, _ => s
  | none => s

/-- ENGINE_FAULT_EFFECT (R192). -/
def execEngineFaultEffect (t : Site) (q : Nat) (s : State) : Out :=
  onTile t s (onUnit (decide (q < 8)) (match s.flightOf t q with
    | none => .refused (.notEnabled "ENGINE_FAULT_EFFECT")
    | some f => whenSome "ENGINE_FAULT_EFFECT" f.fault (fun d =>
        when_ "ENGINE_FAULT_EFFECT" f.done (
          let s := s.faultEffect t q f d
          if q = 0 then s.pairedFault t else s))))

/-- A well-formed control descriptor (R194). -/
def ctlOk (d : Desc) (q : Nat) : Bool :=
  decide (dCtl d = 1) && decide (dEng d = q) && decide (d.toNat / 2 ^ 32 = 0) && decide (dGen d = 0) &&
    decide (dRnd d = 0) && decide (Desc.field d 16 16 = 0) && decide (Desc.field d 7 0 = 0)

/-- The oldest well-formed RESUME, RETRY or DISCARD of a halted queue. -/
def Queue.acting (k : Queue) (q : Nat) : Option QEntry := k.entries.find? (fun e => ctlOk e.desc q && decide (dOpc e.desc ≤ 2))

/-- HALTED and TC_QFAULT.VALID clear. -/
def Queue.clearHalt (k : Queue) : Queue := { k with halted := false, fault := Dword.setField k.fault 63 63 0 }

/-- A control descriptor at the head of a queue that is not halted (R194): a no-op, but for CLRFLAGS; an ill-formed one
faults with DESC. -/
def headControl (name : String) (opc : Nat → Bool) (clear : Bool) (t : Site) (q : Nat) (s : State) : Out :=
  match (s.queue t q).entries with
  | [] => .refused (.notEnabled name)
  | e :: _ =>
    if !(s.mayStart t q && decide (dCtl e.desc = 1) && opc (dOpc e.desc)) then .refused (.notEnabled name)
    else if ctlOk e.desc q then
      let s := s.onQueue t q (fun k => { k with entries := k.entries.drop 1,
                                                sticky := if clear then 0 else k.sticky })
      .next (s.countDone t q 0)
    else .next (s.launch t q { InFlight.start s t e with fault := some (det ecDesc noOpnd 0), done := true })

/-- The acting entry of a halted queue, when it is of this kind. -/
def haltedControl (name : String) (opc : Nat) (t : Site) (q : Nat) (s : State) (act : QEntry → State) : Out :=
  match (s.queue t q).acting q with
  | some e => when_ name (decide (dOpc e.desc = opc)) (act e)
  | none => .refused (.notEnabled name)

/-- RESUME (R194). The entry then stays in the queue, as a no-op of its position. -/
def execResume (t : Site) (q : Nat) (s : State) : Out :=
  onTile t s (onUnit (decide (q < 8)) (
    if (s.queue t q).halted then haltedControl "RESUME" 0 t q s (fun _ =>
      let fl := Dword.field (s.queue t q).fault 39 32
      (s.onQueue t q Queue.clearHalt).countDone t q fl)
    else headControl "RESUME" (fun o => decide (o = 0) || decide (4 ≤ o)) false t q s))

/-- RETRY (R194). The saved copy runs again from its start, under its original ticket. -/
def execRetry (t : Site) (q : Nat) (s : State) : Out :=
  onTile t s (onUnit (decide (q < 8)) (
    if (s.queue t q).halted then haltedControl "RETRY" 1 t q s (fun _ =>
      s.onQueue t q (fun k => { k.clearHalt with
        entries := { desc := k.fdesc, ticket := BitVec.ofNat 32 (Dword.field k.fault 31 0) } :: k.entries }))
    else headControl "RETRY" (fun o => decide (o = 1)) false t q s))

/-- DISCARD (R194). The faulted command and every older entry count as complete with flag byte 0. -/
def execDiscard (t : Site) (q : Nat) (s : State) : Out :=
  onTile t s (onUnit (decide (q < 8)) (
    if (s.queue t q).halted then haltedControl "DISCARD" 2 t q s (fun e =>
      let older := (s.queue t q).entries.takeWhile (fun x => decide (x.ticket ≠ e.ticket))
      let s := s.onQueue t q (fun k => { k.clearHalt with entries := k.entries.drop older.length })
      (List.range (older.length + 1)).foldl (fun s _ => s.countDone t q 0) s)
    else headControl "DISCARD" (fun o => decide (o = 2)) false t q s))

/-- CLRFLAGS (R194): at its position it clears TC_QSTICKY; on a halted queue it waits in order. -/
def execClrflags (t : Site) (q : Nat) (s : State) : Out :=
  onTile t s (onUnit (decide (q < 8)) (headControl "CLRFLAGS" (fun o => decide (o = 3)) true t q s))

end Sys2Proof.Machine
end

