-- ==== Sys2Proof/Machine/Fu.lean ====
section
/-!
DEFINITION. The function unit (R180 to R183, R167): tables, the evaluation of f and its derivative, and the two commands.
-/
namespace Sys2Proof.Machine

/-! ### Evaluation (R182) -/

/-- An FP32 value of a table. -/
def f32 (w : Word) : Val := decodeVal 0 w.toNat
/-- A value rounded into FP32 under RNE. -/
def rne (r : Val × Nat) : Val × Nat :=
  let (v, fl) := roundTo 0 0 0 r.1
  (v, r.2 ||| fl)

def opSub (a b : Val) : Val × Nat :=
  match nanOf [a, b] with
  | some r => r
  | none => opAdd a b.negate

/-- One Horner step: a · t + b, rounded. -/
def horner (t : Val) (a : Val × Nat) (b : Val) : Val × Nat :=
  let (v, fl) := rne (opFma a.1 t b)
  (v, a.2 ||| fl)

/-- What the FU makes of x in a table: f and f′, each with the flags of its own evaluation. -/
structure FuOut where
  f  : Val × Nat
  f' : Val × Nat

def tabAt (tab : List Word) (i : Nat) : Val := f32 (tab.getD i 0)

/-- The segment that holds x (R182 step 1). Where the product is a NaN, which a table of infinite bounds allows, the spec
states no index: a free function of the operands. -/
def fuSegment (tab : List Word) (x : Val) : Nat :=
  let n := 2 ^ ((tab.getD 8 0).toNat % 8)
  let (d, _) := roundTo 0 1 0 (opSub x (tabAt tab 0)).1
  let (p, _) := roundTo 0 1 0 (opMul d (tabAt tab 2)).1
  match p with
  | .nan .. => (Config.freeOf 182 (tab.getD 0 0).toNat (encodeVal 0 0 0 false x).1).toNat % n
  | .inf neg => if neg then 0 else n - 1
  | .fin neg m e => if neg then 0 else min (n - 1) (if e < 0 then m / 2 ^ (-e).toNat else m * 2 ^ e.toNat)

/-- A tail: a coefficient of 0 returns the constant (R182). -/
def fuTail (a b x : Val) : FuOut :=
  { f := if b.isZero then (a, 0) else rne (opFma b x a), f' := (b, 0) }

/-- f and f′ of the table in a slot; none is the identity (R180, R182). -/
def fuEvalAt (tab : Option (List Word)) (x : Val) : FuOut :=
  if x.isNan then
    let nv := if x.signalling then flNV else 0
    { f := (x.quiet, nv), f' := (x.quiet, nv) }
  else match tab with
    | none => { f := (x, 0), f' := (.fin false 1 0, 0) }
    | some tab =>
      if cmpVal x (tabAt tab 0) < 0 then fuTail (tabAt tab 3) (tabAt tab 4) x
      else if 0 ≤ cmpVal x (tabAt tab 1) then fuTail (tabAt tab 5) (tabAt tab 6) x
      else
        let b := 16 + 8 * fuSegment tab x
        let t := rne (opSub x (tabAt tab b))
        let from_ := fun (k : Nat) => (tabAt tab (b + k), t.2)
        { f := horner t.1 (horner t.1 (horner t.1 (from_ 4) (tabAt tab (b + 3))) (tabAt tab (b + 2))) (tabAt tab (b + 1)),
          f' := horner t.1 (horner t.1 (from_ 7) (tabAt tab (b + 6))) (tabAt tab (b + 5)) }

/-- z · d, exact (R167). -/
def fuProduct (z d : Val) : Val × Nat :=
  if z.isNan then (z.quiet, if z.signalling then flNV else 0)
  else if d.isNan then (d.quiet, if d.signalling then flNV else 0)
  else mulCore z d

/-- A result converted to FC with one more rounding. -/
def fuOut (fc mode r : Nat) (v : Val × Nat) : Nat × Nat :=
  let (x, fl) := encodeVal fc mode r false v.1
  (x, v.2 ||| fl)

/-- The table of a slot. -/
def State.fuTab (s : State) (t : Site) (slot : Nat) : Option (List Word) :=
  ((s.tile t).fu.find? (fun e => decide (e.1 = slot))).map (fun e => e.2)

/-! ### FU EVAL (R180) -/

def fuMode (d : Desc) : Nat := Desc.field d 95 93
def fuSlot (d : Desc) : Nat := Desc.field d 92 89
def fuLen (d : Desc) : Nat := Desc.field d 88 71 + 1
def fuX (d : Desc) : Nat := rowOff (Desc.field d 70 58)
def fuC (d : Desc) : Nat := rowOff (Desc.field d 57 45)
def fuA (d : Desc) : Nat := rowOff (Desc.field d 44 32)

def fuMatA (d : Desc) : Mat := { base := fuA d, fmt := dFA d, rows := 1, len := fuLen d }
def fuMatC (d : Desc) : Mat := { base := fuC d, fmt := dFC d, rows := 1, len := fuLen d }
def fuMatX (d : Desc) : Mat :=
  { base := fuX d, fmt := if fuMode d = 3 then dFA d else dFC d, rows := 1, len := fuLen d }

/-- FP32, FP16 and VB16 are read by the FU; these and the 8-bit formats without scales are written (R158). -/
def fuReads (c : Nat) : Bool := decide (c ≤ 2)
def fuWrites (c : Nat) : Bool := decide (c ≤ 3) || decide (c = 5)

def fuEvalCheck (s : State) (t : Site) (d : Desc) : Option Detected :=
  let a := (0, fuA d, (fuMatA d).extent)
  let c := (2, fuC d, (fuMatC d).extent)
  let x := (3, fuX d, (fuMatX d).extent)
  let usesX := decide (fuMode d = 1) || decide (fuMode d = 3)
  firstFail ([descFault (headerBad d 4 1 || decide (d.toNat / 2 ^ 96 ≠ 0) || decide (3 < fuMode d) ||
      (!usesX && decide (fuX d ≠ 0)))] ++
    formatChecks d [(!fuReads (dFA d), 0, fuA d), (!fuWrites (dFC d), 2, fuC d)] ++
    addrChecks s t ([a, c] ++ if usesX then [x] else []) ++
    overlapChecks ([(c, a)] ++ (if usesX then [(c, x)] else []) ++ if fuMode d = 1 then [(x, a)] else []))

/-- Element i of EVAL: the codes of C and of X. -/
def fuElem (s : State) (t : Site) (f : InFlight) (d : Desc) (i : Nat) : Except Detected ((Nat × Nat) × Nat) :=
  let tab := s.fuTab t (fuSlot d)
  let rnd := fun k => draw f.seed 4 f.entry.ticket i k
  let conv := fun (k : Nat) (v : Val × Nat) => fuOut (dFC d) (dRnd d) (rnd k) v
  match elemVal s t 0 (fuMatA d) 0 i with
  | .error e => .error e
  | .ok a =>
    let o := fuEvalAt tab a
    match fuMode d with
    | 0 => let (c, fl) := conv 0 o.f
           .ok ((c, 0), fl)
    | 1 => let (c, fl) := conv 0 o.f
           let (x, fx) := conv 1 o.f'
           .ok ((c, x), fl ||| fx)
    | 2 => let (c, fl) := conv 0 o.f'
           .ok ((c, 0), fl)
    | _ => match elemVal s t 3 (fuMatX d) 0 i with
      | .error e => .error e
      | .ok x =>
        let g := (fuEvalAt tab x).f'
        let p := fuProduct a g.1
        let (c, fl) := conv 0 (p.1, p.2 ||| g.2)
        .ok ((c, 0), fl)

def fuEvalRun (t : Site) (s : State) (f : InFlight) (d : Desc) : State × InFlight :=
  let (rs, fl, e) := collect (fuElem s t f d) (fuLen d)
  let s := s.meetReads t 4 (dGen d) ((fuMatA d).ranges ++ if fuMode d = 3 then (fuMatX d).ranges else []) e
  let s := s.writeRows t (fuMatC d) (rs.map (fun r => r.1)) (dGen d)
  let s := if fuMode d = 1 then s.writeRows t (fuMatX d) (rs.map (fun r => r.2)) (dGen d) else s
  (s, f.finish fl e)

/-- FU_EVAL (R180, R182). An EVAL or a descriptor whose OPC the FU reserves, which faults with DESC. -/
def execFuEval (t : Site) (s : State) : Out :=
  engine "FU_EVAL" 4 t (fun o => decide (o ≠ 1))
    { check := fun s d => fuEvalCheck s t d, pre := noPre, run := fuEvalRun t } s

/-! ### FU LOADTAB (R181) -/

/-- n words of the store from an offset. -/
def State.words (s : State) (t : Site) (off n : Nat) : List Word :=
  (List.range n).map (fun i => BitVec.ofNat 32 (leNat (s.bytes (storeAddr t (off + 4 * i)) 4)))

/-- A header that LOADTAB refuses (R181). -/
def tabBad (h : List Word) : Bool :=
  let lo := tabAt h 0
  let hi := tabAt h 1
  lo.isNan || hi.isNan || !decide (0 < cmpVal hi lo) || decide (6 < (h.getD 8 0).toNat) ||
    (h.drop 9).any (fun w => decide (w ≠ 0))

def tabBytes (h : List Word) : Nat := 64 + 32 * 2 ^ (h.getD 8 0).toNat

def fuTabCheck (s : State) (t : Site) (d : Desc) : Option Detected :=
  let a := fuA d
  let h := s.words t a 16
  firstFail ([descFault (headerBad d 4 1 || decide (d.toNat / 2 ^ 93 ≠ 0) || decide (fuSlot d = 0) ||
      decide (Desc.field d 88 45 ≠ 0) || decide (dFA d ≠ 0) || decide (dFC d ≠ 0) || decide (dRnd d ≠ 0)),
    (decide (s.storeEnd t < a + 64), det ecAddr 5 a), (s.badAt t a 64, det ecStoreUe 5 ((s.firstUe t a 64).getD 0 * 8)),
    (tabBad h, det ecFormat 5 a), (decide (s.storeEnd t < a + tabBytes h), det ecAddr 5 a)])

/-- The header read at the checks, where it lies in the store. -/
def fuTabPre (t : Site) (s : State) (d : Desc) : State :=
  if s.storeEnd t < fuA d + 64 then s else s.meetReads t 4 (dGen d) [(fuA d, 64)] none

def fuTabRun (t : Site) (s : State) (f : InFlight) (d : Desc) : State × InFlight :=
  let a := fuA d
  let n := tabBytes (s.words t a 16)
  let e := (s.firstUe t (a + 64) (n - 64)).map (fun w => det ecStoreUe 5 (8 * w))
  let tab := s.words t a (n / 4)
  let s := s.meetReads t 4 (dGen d) [(a + 64, n - 64)] e
  let s := if e.isSome then s else s.onTile t (fun x => { x with fu := mapPut x.fu (fuSlot d) tab })
  (s, f.finish 0 e)

/-- FU_LOADTAB (R181). After a fault the slot keeps its previous table. -/
def execFuLoadtab (t : Site) (s : State) : Out :=
  engine "FU_LOADTAB" 4 t (fun o => decide (o = 1))
    { check := fun s d => fuTabCheck s t d, pre := fuTabPre t, run := fuTabRun t } s

end Sys2Proof.Machine
end

