-- ==== Sys2Proof/Machine/Sparse.lean ====
section
/-!
DEFINITION. The sparse operand image (R196 to R215) and the sparse unit's four commands (R175, R216 to R219).
-/
namespace Sys2Proof.Machine

/-! ### Group modes and image layout (R196 to R202) -/

def knN (kn : Nat) : Nat := if kn ≤ 2 then 4 else 8
def knK (kn : Nat) : Nat := match kn with | 1 => 1 | 2 => 2 | 3 => 1 | 4 => 2 | 5 => 4 | _ => 1
def codeBits (kn : Nat) : Nat := if kn ≤ 2 then 2 else 3

/-- A sparse operand image in the store. -/
structure Img where
  base : Nat
  fmt  : Nat
  kn   : Nat
  rows : Nat
  len  : Nat
  deriving DecidableEq, Repr

def Img.q (m : Img) : Nat := 64 * knK m.kn / knN m.kn
def Img.vrow (m : Img) : Nat := m.q * fmtBits m.fmt / 8
def Img.crow (m : Img) : Nat := m.q * codeBits m.kn / 8
def Img.br (m : Img) : Nat := (m.rows + 63) / 64
def Img.bc (m : Img) : Nat := (m.len + 63) / 64
def Img.head (m : Img) : Nat := 64 + 64 * ((m.br * m.bc + 7) / 8)
def Img.bs (m : Img) : Nat := 64 * m.vrow + 64 * m.crow + if isScaled m.fmt then 64 else 0
def Img.extent (m : Img) : Nat := m.head + m.br * m.bc * m.bs
def Img.hdrOff (m : Img) (i j : Nat) : Nat := m.base + 64 + 8 * (i * m.bc + j)
def Img.blkOff (m : Img) (i j : Nat) : Nat := m.base + m.head + (i * m.bc + j) * m.bs
def Img.valOff (m : Img) (i j r : Nat) : Nat := m.blkOff i j + r * m.vrow
def Img.codeOff (m : Img) (i j r : Nat) : Nat := m.blkOff i j + 64 * m.vrow + r * m.crow
def Img.sclOff (m : Img) (i j r : Nat) : Nat := m.blkOff i j + 64 * m.vrow + 64 * m.crow + r

/-- The image header that R, L, KN and FMT give (R201). -/
def Img.header (m : Img) : Nat := 0x5A91 + m.fmt * 2 ^ 16 + m.kn * 2 ^ 20 + (m.rows - 1) * 2 ^ 24 + (m.len - 1) * 2 ^ 36

/-- The header word of an image in the store, and the image it describes. -/
def State.imgHeader (s : State) (t : Site) (base : Nat) : Dword := BitVec.ofNat 64 (leNat (s.bytes (storeAddr t base) 8))
def imgOf (base : Nat) (h : Dword) : Img :=
  { base := base, fmt := Dword.field h 19 16, kn := Dword.field h 22 20, rows := Dword.field h 35 24 + 1,
    len := Dword.field h 49 36 + 1 }
/-- A header that breaks R201 for format fmt (R206). -/
def imgBad (h : Dword) (fmt : Nat) : Bool :=
  decide (Dword.field h 15 0 ≠ 0x5A91) || decide (Dword.field h 19 16 ≠ fmt) || decide (Dword.field h 22 20 = 0) ||
    decide (5 < Dword.field h 22 20) || decide (Dword.field h 23 23 ≠ 0) || decide (Dword.field h 63 50 ≠ 0)

/-- A value whose code is zero (R204). -/
def zeroCode (fmt x : Nat) : Bool :=
  match fmt with
  | 0 => decide (x % 2 ^ 31 = 0)
  | 1 => decide (x % 2 ^ 15 = 0)
  | 2 => decide (x % 2 ^ 15 = 0)
  | 5 => decide (x % 2 ^ 7 = 0)
  | 6 => decide (x % 2 ^ 7 = 0)
  | 7 => decide (x % 2 ^ 5 = 0)
  | 8 => decide (x % 2 ^ 3 = 0)
  | _ => decide (x = 0)

/-! ### Reading (R203, R205, R207, R211 to R213) -/

/-- The block header of block (i, j): KB and DENS, or the fault of R207. -/
def blkHeader (s : State) (t : Site) (opnd : Nat) (m : Img) (i j : Nat) : Except Detected (Nat × Nat) :=
  let o := m.hdrOff i j
  if s.badAt t o 8 then .error (det ecStoreUe opnd o)
  else
    let w : Dword := BitVec.ofNat 64 (leNat (s.bytes (storeAddr t o) 8))
    let kb := Dword.field w 2 0
    let dens := Dword.field w 15 3
    if decide (Dword.field w 63 16 ≠ 0) || decide (kb = 0) || decide (5 < kb) || decide (knN kb ≠ knN m.kn) ||
        decide (knK m.kn < knK kb) || decide (4096 < dens) then .error (det ecFormat opnd o)
    else .ok (kb, dens)

/-- What a group of k slots (code, value) becomes when its first u slots are in use and it has w positions: the slots in
use, none for a dropped one; whether it is malformed; how many dropped slots held a non-zero value. -/
def judgeGroup (fmt u w : Nat) (slots : List (Nat × Nat)) : List (Option (Nat × Nat)) × Bool × Nat :=
  let excess := ((slots.drop u).filter (fun e => !zeroCode fmt e.2)).length
  let (kept, bad, lost, _) := (slots.take u).foldl
    (fun (a : List (Option (Nat × Nat)) × Bool × Nat × Option Nat) e =>
      let (kept, bad, lost, last) := a
      let order := match last with | some c => decide (e.1 ≤ c) | none => false
      if order || decide (w ≤ e.1) then
        (none :: kept, true, lost + (if zeroCode fmt e.2 then 0 else 1), last)
      else (some e :: kept, bad, lost, some e.1))
    ([], decide (0 < excess), excess, none)
  (kept.reverse, bad, lost)

/-- One block row as it is read: its slots in use as (position in the block, value bits), its scale byte, and the counts of
R213. -/
structure BlkRow where
  slots  : List (Option (Nat × Nat))
  scale  : Nat
  groups : Nat
  vals   : Nat
  deriving DecidableEq, Repr

/-- Block row r of block (i, j) under mode KB. -/
def readBlkRow (s : State) (t : Site) (opnd : Nat) (strict : Bool) (m : Img) (kb i j r : Nat) : Except Detected BlkRow :=
  let vo := m.valOff i j r
  let co := m.codeOff i j r
  let so := m.sclOff i j r
  let e := fmtBits m.fmt
  let b := codeBits m.kn
  let n := knN m.kn
  let k := knK m.kn
  let sc := (s.byte (storeAddr t so)).toNat
  if s.badAt t vo m.vrow then .error (det ecStoreUe opnd vo)
  else if s.badAt t co m.crow then .error (det ecStoreUe opnd co)
  else if isScaled m.fmt && s.badAt t so 1 then .error (det ecStoreUe 4 so)
  else if isScaled m.fmt && decide (sc = 0xFF) then .error (det ecFormat 4 so)
  else
    (List.range (64 / n)).foldl (fun (a : Except Detected BlkRow) g =>
      match a with
      | .error d => .error d
      | .ok row =>
        let start := 64 * j + g * n
        if m.len ≤ start then .ok row
        else
          let w := min n (m.len - start)
          let slots := (List.range k).map (fun x =>
            (s.bitsAt t co (b * (g * k + x)) b, s.bitsAt t vo (e * (g * k + x)) e))
          let (kept, bad, lost) := judgeGroup m.fmt (min (knK kb) w) w slots
          if bad && strict then .error (det ecSparse opnd (co + b * (g * k) / 8))
          else .ok { row with
            slots := row.slots ++ kept.map (fun o => o.map (fun x => (g * n + x.1, x.2)))
            groups := row.groups + (if bad then 1 else 0), vals := row.vals + lost })
      (.ok { slots := [], scale := if isScaled m.fmt then sc else 127, groups := 0, vals := 0 })

/-! ### Units of dense work -/

/-- Runs of at most u consecutive elements of a rows × len matrix, in element order: row, first element, length. -/
def unitsOf (rows len u : Nat) : List (Nat × Nat × Nat) :=
  (List.range rows).flatMap (fun r =>
    (List.range ((len + u - 1) / u)).map (fun b => (r, b * u, min u (len - b * u))))

/-- Results of a list of units until the first fault, whose progress counts the elements of the units before it. -/
def collectU {α : Type} (size : α → Nat) (f : Nat × Nat × Nat → Except Detected (α × Nat))
    (us : List (Nat × Nat × Nat)) : List α × Nat × Option Detected :=
  let (xs, fl, e, _) := us.foldl (fun (a : List α × Nat × Option Detected × Nat) u =>
    match a with
    | (xs, fl, none, k) => match f u with
      | .ok (x, g) => (x :: xs, fl ||| g, none, k + size x)
      | .error d => (xs, fl, some { d with progress := k }, k)
    | a => a) ([], 0, none, 0)
  (xs.reverse, fl, e)

/-- Values of a unit, or the first error among them. -/
def unitVals {α : Type} (f : Nat → Except Detected α) (i0 n : Nat) : Except Detected (List α) :=
  (List.range n).foldl (fun (a : Except Detected (List α)) i =>
    match a with
    | .error d => .error d
    | .ok xs => match f (i0 + i) with
      | .ok x => .ok (xs ++ [x])
      | .error d => .error d) (.ok [])

/-- An exact value divided by the scale byte's factor (R94). -/
def Val.unscale (v : Val) (sb : Nat) : Val :=
  match v with
  | .fin n m e => .fin n m (e + 127 - sb)
  | v => v

/-- A block of exact values converted into format c (R94, R103): its codes, scale byte and flags. rnd gives the random byte
of each element. -/
def convertBlock (c mode : Nat) (fromInt : Bool) (rnd : Nat → Nat) (vs : List Val) : List Nat × Nat × Nat :=
  let sb := if isScaled c then scaleByte c vs else 127
  let rs := vs.zipIdx.map (fun e => encodeVal c mode (rnd e.2) fromInt (e.1.unscale sb))
  (rs.map (fun r => r.1), sb, rs.foldl (fun a r => a ||| r.2) 0)

/-- Scale bytes of the first units of a matrix, in block order. -/
def State.writeScales (s : State) (t : Site) (m : Mat) (sbs : List Nat) (g : Nat) : State :=
  if isScaled m.fmt then s.writeStore t (m.base + m.rows * m.pitch) (sbs.map (BitVec.ofNat 8)) g else s

/-! ### SU descriptors (R175) -/

def suKn (d : Desc) : Nat := Desc.field d 86 84
def suL (d : Desc) : Nat := Desc.field d 83 70 + 1
def suR (d : Desc) : Nat := Desc.field d 69 58 + 1
def suC (d : Desc) : Nat := rowOff (Desc.field d 57 45)
def suA (d : Desc) : Nat := rowOff (Desc.field d 44 32)
def suMatA (d : Desc) : Mat := { base := suA d, fmt := dFA d, rows := suR d, len := suL d }
def suMatC (d : Desc) : Mat := { base := suC d, fmt := dFC d, rows := suR d, len := suL d }
def suImg (d : Desc) (base : Nat) : Img := { base := base, fmt := dFA d, kn := suKn d, rows := suR d, len := suL d }

/-- The DESC conditions of an SU command: kn says whether it takes a group mode, rounds whether it uses RND. -/
def suDescBad (d : Desc) (kn rounds : Bool) : Bool :=
  headerBad d 2 3 || decide (d.toNat / 2 ^ 87 ≠ 0) ||
    (if kn then decide (suKn d = 0) || decide (5 < suKn d) else decide (suKn d ≠ 0)) || (!rounds && decide (dRnd d ≠ 0))

/-- The checks of an SU command with operand and result extents of na and nc bytes. -/
def suCheck (s : State) (t : Site) (d : Desc) (descBad aBad cBad : Bool) (more : List (Bool × Detected)) (na nc : Nat) :
    Option Detected :=
  let a := (0, suA d, na)
  let c := (2, suC d, nc)
  firstFail ([descFault descBad] ++ formatChecks d [(aBad, 0, suA d), (cBad, 2, suC d)] ++ more ++ addrChecks s t [a, c] ++
    overlapChecks [(c, a)])

/-! ### CONVERT -/

def suConvertCheck (s : State) (t : Site) (d : Desc) : Option Detected :=
  suCheck s t d (suDescBad d false true) (decide (11 < dFA d)) (decide (11 < dFC d)) [] (suMatA d).extent (suMatC d).extent

/-- A unit of a matrix converted. -/
def convertUnit (f : InFlight) (d : Desc) (q : Nat) (val : Nat → Nat → Except Detected Val)
    (rowLen : Nat) (u : Nat × Nat × Nat) : Except Detected ((List Nat × Nat) × Nat) :=
  match unitVals (val u.1) u.2.1 u.2.2 with
  | .error e => .error e
  | .ok vs =>
    let (cs, sb, fl) := convertBlock (dFC d) (dRnd d) ((intBits (dFA d)).isSome)
      (fun i => draw f.seed q f.entry.ticket (u.1 * rowLen + u.2.1 + i) 0) vs
    .ok ((cs, sb), fl)

def suConvertRun (t : Site) (s : State) (f : InFlight) (d : Desc) : State × InFlight :=
  let a := suMatA d
  let c := suMatC d
  let (rs, fl, e) := collectU (fun r => r.1.length) (convertUnit f d 2 (fun r i => elemVal s t 0 a r i) a.len)
    (unitsOf a.rows a.len (if isScaled c.fmt then 32 else 1))
  let s := s.meetReads t 2 (dGen d) a.ranges e
  let s := s.writeRows t c (rs.flatMap (fun r => r.1)) (dGen d)
  let s := s.writeScales t c (rs.map (fun r => r.2)) (dGen d)
  (s, f.finish fl e)

/-- SU_CONVERT (R175). An SU descriptor with a reserved OPC starts here too and faults with DESC. -/
def execSuConvert (t : Site) (s : State) : Out :=
  engine "SU_CONVERT" 2 t (fun o => decide (o = 0) || decide (3 < o))
    { check := fun s d => suConvertCheck s t d, pre := noPre, run := suConvertRun t } s

/-! ### Pruning (R216) -/

/-- a ranks above b by magnitude: NaNs first, then infinities, then finite values. -/
def ranksAbove (a b : Val) : Bool :=
  if a.isNan then !b.isNan else if b.isNan then false else decide (0 < cmpVal (a.setNeg false) (b.setNeg false))

/-- The positions of a group's k largest elements, ascending; a tie goes to the lower position. -/
def keepLargest (k : Nat) (vs : List Val) : List Nat :=
  let es := vs.zipIdx
  (es.filter (fun e => decide ((es.filter (fun o =>
    ranksAbove o.1 e.1 || (!ranksAbove e.1 o.1 && decide (o.2 < e.2)))).length < k))).map (fun e => e.2)

/-! ### PRUNE (R218) -/

def pruneFmt (d : Desc) : Bool := decide (1 ≤ dFA d) && decide (dFA d ≤ 10)

def suPruneCheck (s : State) (t : Site) (d : Desc) : Option Detected :=
  suCheck s t d (suDescBad d true false) (!pruneFmt d) (decide (dFC d ≠ dFA d)) [] (suMatA d).extent (suMatC d).extent

/-- A unit pruned: the bits that stay, and the block's scale byte. -/
def pruneUnit (s : State) (t : Site) (d : Desc) (u : Nat × Nat × Nat) : Except Detected ((List Nat × Nat) × Nat) :=
  let a := suMatA d
  let n := knN (suKn d)
  match unitVals (rawElem s t 0 a u.1) u.2.1 u.2.2, scaleAt s t a u.1 u.2.1 with
  | .error e, _ => .error e
  | _, .error e => .error e
  | .ok xs, .ok sb =>
    let keep := (List.range ((xs.length + n - 1) / n)).flatMap (fun g =>
      (keepLargest (knK (suKn d)) (((xs.drop (g * n)).take n).map (decodeVal a.fmt))).map (fun p => g * n + p))
    .ok ((xs.zipIdx.map (fun e => if keep.contains e.2 then e.1 else 0), sb), 0)

def suPruneRun (t : Site) (s : State) (f : InFlight) (d : Desc) : State × InFlight :=
  let a := suMatA d
  let (rs, fl, e) := collectU (fun r => r.1.length) (pruneUnit s t d)
    (unitsOf a.rows a.len (if isScaled a.fmt then 32 else knN (suKn d)))
  let s := s.meetReads t 2 (dGen d) a.ranges e
  let s := s.writeRows t (suMatC d) (rs.flatMap (fun r => r.1)) (dGen d)
  let s := s.writeScales t (suMatC d) (rs.map (fun r => r.2)) (dGen d)
  (s, f.finish fl e)

/-- SU_PRUNE (R218). -/
def execSuPrune (t : Site) (s : State) : Out :=
  engine "SU_PRUNE" 2 t (fun o => decide (o = 3))
    { check := fun s d => suPruneCheck s t d, pre := noPre, run := suPruneRun t } s

/-! ### COMPRESS (R217) -/

def suCompressCheck (s : State) (t : Site) (d : Desc) : Option Detected :=
  suCheck s t d (suDescBad d true (isScaled (dFA d))) (!pruneFmt d) (decide (dFC d ≠ dFA d)) [] (suMatA d).extent
    (suImg d (suC d)).extent

/-- A block row of the image: (code, value) by slot, its scale byte, and its non-zero slots in use. -/
structure PackedRow where
  slots : List (Nat × Nat)
  scale : Nat
  dens  : Nat
  deriving DecidableEq, Repr

/-- Positions 64j to 64j + 63 of row r compressed. -/
def compressUnit (s : State) (t : Site) (f : InFlight) (d : Desc) (u : Nat × Nat × Nat) :
    Except Detected (PackedRow × Nat) :=
  let a := suMatA d
  let n := knN (suKn d)
  let k := knK (suKn d)
  match unitVals (fun i => match rawElem s t 0 a u.1 i, scaleAt s t a u.1 i with
      | .error e, _ => .error e
      | _, .error e => .error e
      | .ok x, .ok sb => .ok (x, sb)) u.2.1 u.2.2 with
  | .error e => .error e
  | .ok xs =>
    let kept := (List.range (64 / n)).map (fun g =>
      (keepLargest k (((xs.drop (g * n)).take n).map (fun x => decodeVal a.fmt x.1))).map (fun p => g * n + p))
    let val := fun p : Nat => let x := xs.getD p (0, 127)
                              (decodeVal a.fmt x.1).scale x.2
    let sb := if isScaled a.fmt then scaleByte a.fmt (kept.flatten.map val) else 127
    let enc := fun p : Nat =>
      if isScaled a.fmt then
        encodeVal a.fmt (dRnd d) (draw f.seed 2 f.entry.ticket (u.1 * a.len + u.2.1 + p) 0) false ((val p).unscale sb)
      else ((xs.getD p (0, 127)).1, 0)
    let used := kept.flatten.map enc
    .ok ({ slots := kept.flatMap (fun ps => (ps.map (fun p => (p % n, (enc p).1))) ++ List.replicate (k - ps.length) (0, 0))
           scale := sb, dens := (used.filter (fun e => !zeroCode a.fmt e.1)).length },
      used.foldl (fun fl e => fl ||| e.2) 0)

/-- A block row stored into the image. -/
def State.putPacked (s : State) (t : Site) (m : Img) (r j g : Nat) (p : PackedRow) : State :=
  let i := r / 64
  let bits := fun (w n : Nat) (xs : List Nat) => packBits n (xs.zipIdx.map (fun e => (w * e.2, e.1)))
  let s := s.writeStore t (m.valOff i j (r % 64)) (bits (fmtBits m.fmt) m.vrow (p.slots.map (fun e => e.2))) g
  let s := s.writeStore t (m.codeOff i j (r % 64)) (bits (codeBits m.kn) m.crow (p.slots.map (fun e => e.1))) g
  if isScaled m.fmt then s.writeStore t (m.sclOff i j (r % 64)) [BitVec.ofNat 8 p.scale] g else s

def suCompressRun (t : Site) (s : State) (f : InFlight) (d : Desc) : State × InFlight :=
  let a := suMatA d
  let m := suImg d (suC d)
  let us := unitsOf a.rows a.len 64
  let (rs, fl, e) := collectU (fun r => r.slots.length) (compressUnit s t f d) us
  let s := s.meetReads t 2 (dGen d) a.ranges e
  let s := if e.isNone then s.writeStore t m.base (List.replicate m.extent 0) (dGen d) else s
  let done := us.zip rs
  let s := done.foldl (fun s x => s.putPacked t m x.1.1 (x.1.2.1 / 64) (dGen d) x.2) s
  let s := if e.isSome then s
    else
      let s := (List.range (m.br * m.bc)).foldl (fun s b =>
        let dens := (done.filter (fun x => decide (x.1.1 / 64 = b / m.bc) && decide (x.1.2.1 / 64 = b % m.bc))).foldl
          (fun n x => n + x.2.dens) 0
        s.writeStore t (m.hdrOff (b / m.bc) (b % m.bc)) (leBytes 8 (m.kn + dens * 8)) (dGen d)) s
      s.writeStore t m.base (leBytes 8 m.header) (dGen d)
  (s, f.finish fl e)

/-- SU_COMPRESS (R217). -/
def execSuCompress (t : Site) (s : State) : Out :=
  engine "SU_COMPRESS" 2 t (fun o => decide (o = 1))
    { check := fun s d => suCompressCheck s t d, pre := noPre, run := suCompressRun t } s

/-! ### DECOMPRESS (R219) -/

/-- The header of an image is read at the checks, where it lies in the store (R206). -/
def imgPre (t : Site) (q base g : Nat) (s : State) : State :=
  if s.storeEnd t < base + 64 then s else s.meetReads t q g [(base, 8)] none

def suDecompressCheck (s : State) (t : Site) (d : Desc) : Option Detected :=
  let h := s.imgHeader t (suA d)
  let m := imgOf (suA d) h
  let bad := suDescBad d true false
  if !bad && decide (s.storeEnd t < suA d + 64) then some (det ecAddr 0 (suA d))
  else if !bad && s.badAt t (suA d) 8 then some (det ecStoreUe 0 (suA d))
  else suCheck s t d bad (!pruneFmt d || imgBad h (dFA d)) (decide (dFC d ≠ dFA d))
    [(decide (m.rows ≠ suR d) || decide (m.len ≠ suL d) || decide (m.kn ≠ suKn d), det ecShape 0 (suA d))]
    m.extent (suMatC d).extent

/-- The dense elements that a block row expands to, as element codes. -/
def expandRow (m : Img) (j : Nat) (b : BlkRow) : List Nat :=
  (List.range (min 64 (m.len - 64 * j))).map (fun p =>
    match b.slots.find? (fun o => match o with | some x => decide (x.1 = p) | none => false) with
    | some (some x) => x.2
    | _ => 0)

/-- Block rows in the SU's reading order (R215): block row, block, row of the block; the headers of a block row come first. -/
def imgOrder (m : Img) : List (Nat × Nat × Nat) :=
  (List.range m.br).flatMap (fun i => (List.range m.bc).flatMap (fun j =>
    (List.range (min 64 (m.rows - 64 * i))).map (fun r => (i, j, r))))

/-- One block row of DECOMPRESS: its codes, its scale byte and its counts. -/
def decompressUnit (s : State) (t : Site) (strict : Bool) (m : Img) (u : Nat × Nat × Nat) :
    Except Detected ((List Nat × BlkRow) × Nat) :=
  let first := if decide (u.2.1 = 0) && decide (u.2.2 = 0) then
      (List.range m.bc).findSome? (fun j => match blkHeader s t 0 m u.1 j with | .error e => some e | .ok _ => none)
    else none
  match first, blkHeader s t 0 m u.1 u.2.1 with
  | some e, _ => .error e
  | none, .error e => .error e
  | none, .ok (kb, _) => match readBlkRow s t 0 strict m kb u.1 u.2.1 u.2.2 with
    | .error e => .error e
    | .ok b => .ok ((expandRow m u.2.1 b, b), if b.groups = 0 then 0 else flSDROP)

/-- A segment of 64 elements, and the scale bytes of its blocks, stored into a dense matrix. -/
def State.putSegment (s : State) (t : Site) (c : Mat) (r j g : Nat) (codes : List Nat) (sb : Nat) : State :=
  let s := s.writeStore t (c.rowOff r + elemBit c.fmt (64 * j) / 8) (packRow c.fmt codes) g
  if isScaled c.fmt then
    s.writeStore t (c.scaleOff r (64 * j)) (List.replicate ((codes.length + 31) / 32) (BitVec.ofNat 8 sb)) g
  else s

def suDecompressRun (t : Site) (s : State) (f : InFlight) (d : Desc) : State × InFlight :=
  let m := imgOf (suA d) (s.imgHeader t (suA d))
  let us := imgOrder m
  let (rs, fl, e) := collectU (fun r => r.1.length) (decompressUnit s t f.strict m) us
  let s := s.meetReads t 2 (dGen d) [(m.base + 64, m.extent - 64)] e
  let s := (us.zip rs).foldl (fun s x =>
    s.putSegment t (suMatC d) (64 * x.1.1 + x.1.2.2) x.1.2.1 (dGen d) x.2.1 x.2.2.scale) s
  let sat := 0xFFFFFFFF
  (s, { f.finish fl e with groups := rs.foldl (fun n r => satAdd sat n r.2.groups) 0,
                           vals := rs.foldl (fun n r => satAdd sat n r.2.vals) 0 })

/-- SU_DECOMPRESS (R219). -/
def execSuDecompress (t : Site) (s : State) : Out :=
  engine "SU_DECOMPRESS" 2 t (fun o => decide (o = 2))
    { check := fun s d => suDecompressCheck s t d, pre := fun s d => imgPre t 2 (suA d) (dGen d) s,
      run := suDecompressRun t } s

end Sys2Proof.Machine
end

