-- ==== Sys2Proof/Machine/Te.lean ====
section
/-!
DEFINITION. The tensor engine (R104 to R107, R159 to R168, R206 to R215): PRODUCT, its groups and its drain.
-/
namespace Sys2Proof.Machine

/-! ### The descriptor (R159) -/

def teFb (d : Desc) : Nat := Desc.field d 127 124
def teSpb (d : Desc) : Bool := decide (Desc.field d 123 123 = 1)
def teBsrc (d : Desc) : Bool := decide (Desc.field d 122 122 = 1)
def teAddc (d : Desc) : Bool := decide (Desc.field d 121 121 = 1)
def teDrv (d : Desc) : Nat := Desc.field d 120 118
def teFn (d : Desc) : Nat := Desc.field d 117 114
def teN (d : Desc) : Nat := 16 * (Desc.field d 113 110 + 1)
def teK (d : Desc) : Nat := Desc.field d 109 96 + 1
def teM (d : Desc) : Nat := Desc.field d 95 84 + 1
def teX (d : Desc) : Nat := rowOff (Desc.field d 83 71)
def teC (d : Desc) : Nat := rowOff (Desc.field d 70 58)
def teB (d : Desc) : Nat := rowOff (Desc.field d 57 45)
def teA (d : Desc) : Nat := rowOff (Desc.field d 44 32)

/-- An integer product (R165). -/
def teInt (d : Desc) : Bool := decide (dFA d = 9) || decide (dFA d = 10)

def teMatA (d : Desc) : Mat := { base := teA d, fmt := dFA d, rows := teM d, len := teK d }
def teMatB (d : Desc) : Mat := { base := teB d, fmt := teFb d, rows := teN d, len := teK d }
def teMatC (d : Desc) : Mat := { base := teC d, fmt := dFC d, rows := teM d, len := teN d }
def teMatX (d : Desc) : Mat := { base := teX d, fmt := dFC d, rows := teM d, len := teN d }
def teImg (s : State) (t : Site) (d : Desc) : Img := imgOf (teB d) (s.imgHeader t (teB d))

/-- The DRV modes that write X, and those that read it (R166). -/
def teWritesX (d : Desc) : Bool := decide (teDrv d = 1) || decide (teDrv d = 2)
def teReadsX (d : Desc) : Bool := decide (teDrv d = 3) || decide (teDrv d = 4)

/-! ### Checks -/

def teDescBad (d : Desc) : Bool :=
  headerBad d 0 0 ||
    (if teInt d then decide (teFn d ≠ 0) || decide (teDrv d ≠ 0) || decide (teX d ≠ 0) || decide (dRnd d ≠ 0)
     else decide (4 < teDrv d) || (decide (teDrv d = 3) && decide (teFn d ≠ 0)) ||
       (decide (teDrv d = 0) && decide (teX d ≠ 0))) ||
    (teBsrc d && (decide (teB d ≠ 0) || teSpb d))

/-- The extents of A, B, C and X with their OPND codes. -/
def teExtA (d : Desc) : Nat × Nat × Nat := (0, teA d, (teMatA d).extent)
def teExtB (s : State) (t : Site) (d : Desc) : List (Nat × Nat × Nat) :=
  if teBsrc d then [] else [(1, teB d, if teSpb d then (teImg s t d).extent else (teMatB d).extent)]
def teExtC (d : Desc) : Nat × Nat × Nat := (2, teC d, (teMatC d).extent)
def teExtX (d : Desc) : List (Nat × Nat × Nat) := if teDrv d = 0 then [] else [(3, teX d, (teMatX d).extent)]

def teCheck (s : State) (t : Site) (d : Desc) : Option Detected :=
  let h := s.imgHeader t (teB d)
  let m := imgOf (teB d) h
  let bad := teDescBad d
  let reads := teExtA d :: teExtB s t d
  let outs := if teWritesX d then teExtX d else []
  let ins := if teReadsX d then teExtX d else []
  if !bad && teSpb d && decide (s.storeEnd t < teB d + 64) then some (det ecAddr 1 (teB d))
  else if !bad && teSpb d && s.badAt t (teB d) 8 then some (det ecStoreUe 1 (teB d))
  else firstFail ([descFault bad] ++
    formatChecks d [(decide (10 < dFA d), 0, teA d),
      (decide (teFb d ≠ dFA d) || (teSpb d && (decide (teFb d = 0) || imgBad h (teFb d))), 1, teB d),
      ((if teInt d then decide (dFC d ≠ 11) && decide (dFC d ≠ 9) else !fuWrites (dFC d)) ||
        (teAddc d && decide (dFC d ≠ 0) && decide (dFC d ≠ 11)), 2, teC d)] ++
    [(teSpb d && (decide (m.rows ≠ teN d) || decide (m.len ≠ teK d)), det ecShape 1 (teB d))] ++
    addrChecks s t (reads ++ [teExtC d] ++ teExtX d) ++
    overlapChecks ((reads ++ ins ++ outs).map (fun e => (teExtC d, e)) ++
      outs.flatMap (fun x => reads.map (fun e => (x, e)))))

/-! ### Groups (R104 to R107) -/

/-- The sum of a floating group of products, and its flags (R105, R106). -/
def groupSum (ps : List (Val × Val)) : Val × Nat :=
  let snan := ps.any (fun p => p.1.signalling || p.2.signalling)
  let nan := ps.any (fun p => p.1.isNan || p.2.isNan)
  let prods := ps.map (fun p => if p.1.isNan || p.2.isNan then (Val.cnan, 0) else mulCore p.1 p.2)
  let badProd := prods.any (fun r => decide (r.2 ≠ 0))
  if nan || badProd then (.cnan, if snan || badProd then flNV else 0)
  else
    let vs := prods.map (fun r => r.1)
    let infs := vs.filter (fun v => match v with | .inf _ => true | _ => false)
    match infs with
    | i :: rest => if rest.all (fun v => decide (v.neg = i.neg)) then (i, 0) else (.cnan, flNV)
    | [] =>
      match vs.filter (fun v => !v.isZero) with
      | [] => (.fin (vs.all Val.neg) 0 0, 0)
      | v :: rest =>
        -- the largest Ei stands 2m above the largest exponent of a product
        let q := rest.foldl (fun e w => max e w.exp) v.exp - 3
        let trunc := fun v : Val => match v with
          | .fin n m e => if q ≤ e then (v, false) else
              (.fin n (m / pow2 (q - e)) q, decide (m % pow2 (q - e) ≠ 0))
          | v => (v, false)
        let ts := (v :: rest).map trunc
        (ofUnits (ts.foldl (fun a x => a + x.1.intAt q) 0) q false, if ts.any (fun x => x.2) then flNX else 0)

/-- The new FP32 accumulator (R105 step 6, R106). -/
def accFloat (mode r : Nat) (acc : Word) (g : Val × Nat) : Word × Nat :=
  let a := decodeVal 0 acc.toNat
  if a.isNan || g.1.isNan then (0x7FC00000, g.2)
  else
    let (v, fl) := opAdd a g.1
    let (c, fe) := encodeVal 0 mode r false v
    (BitVec.ofNat 32 c, g.2 ||| fl ||| fe)

/-- The new INT32 accumulator (R107). -/
def accInt (acc : Word) (ps : List (Val × Val)) : Word × Nat :=
  let sum := ps.foldl (fun a p => a + p.1.intAt 0 * p.2.intAt 0) acc.toInt
  let (c, fl) := encodeInt 32 0 0 true (.ofInt sum)
  (BitVec.ofNat 32 c, fl)

/-! ### Sub-tiles (R161, R209) -/

/-- A list cut into runs of 16. -/
def runs16 {α : Type} (l : List α) : List (List α) :=
  (List.range ((l.length + 15) / 16)).map (fun i => (l.drop (16 * i)).take 16)

/-- K-chunk c of R169. -/
def teChunk (fmt : Nat) : Nat := if fmt = 0 then 4 else if fmtBits fmt = 16 then 16 else if fmtBits fmt = 4 then 64 else 32

def errOf {α : Type} (e : Except Detected α) : Option Detected := match e with | .error d => some d | .ok _ => none
def valOf (e : Except Detected Val) : Val := match e with | .ok v => v | .error _ => .zero

/-- What operand B gives one row n of a sub-tile: its groups, each a list of (position k, value); none as a position is a
slot dropped under LENIENT. -/
abbrev BGroups := List (List (Option Nat × Val))

/-- Operand B as the TE takes it: for a column block, the first error of a pass over row block rb; and the groups of a row.
errChunk is the error of one K-chunk of a dense operand. -/
structure BSource where
  errChunk : Nat → Nat → Option Detected
  groups   : Nat → BGroups
  errBlock : Nat → Option Detected
  counts   : Nat → Nat × Nat

/-- Dense rows of B by element. -/
def denseSource (k chunk : Nat) (elem : Nat → Nat → Except Detected Val) : BSource :=
  { errChunk := fun n0 ch => (List.range 16).findSome? (fun i =>
      (List.range (min chunk (k - ch * chunk))).findSome? (fun x => errOf (elem (n0 + i) (ch * chunk + x))))
    groups := fun n => runs16 ((List.range k).map (fun x => (some x, valOf (elem n x))))
    errBlock := fun _ => none, counts := fun _ => (0, 0) }

/-- The block rows of column block n0 of a sparse image, by block: KB, DENS and the rows; or the first error in reading
order (R207, R215). -/
def sparseBlocks (s : State) (t : Site) (strict : Bool) (m : Img) (n0 : Nat) :
    Except Detected (List (Nat × Nat × List BlkRow)) :=
  (List.range m.bc).foldl (fun (a : Except Detected (List (Nat × Nat × List BlkRow))) j =>
    match a with
    | .error d => .error d
    | .ok bs => match blkHeader s t 1 m (n0 / 64) j with
      | .error d => .error d
      | .ok (kb, dens) => match unitVals (readBlkRow s t 1 strict m kb (n0 / 64) j) (n0 % 64) 16 with
        | .error d => .error d
        | .ok rows => .ok (bs ++ [(kb, dens, rows)])) (.ok [])

/-- A sparse image as operand B. -/
def sparseSource (s : State) (t : Site) (strict : Bool) (m : Img) : BSource :=
  let blocks := fun n => match sparseBlocks s t strict m (n / 16 * 16) with | .ok bs => bs | .error _ => []
  { errChunk := fun _ _ => none
    errBlock := fun n0 => errOf (sparseBlocks s t strict m n0)
    groups := fun n => (blocks n).zipIdx.flatMap (fun e =>
      let j := e.2
      let row := e.1.2.2.getD (n % 16) { slots := [], scale := 127, groups := 0, vals := 0 }
      let val := fun x : Nat => (decodeVal m.fmt x).scale row.scale
      if e.1.2.1 ≤ 2560 then
        runs16 (row.slots.map (fun o => match o with
          | some (p, x) => (some (64 * j + p), val x)
          | none => (none, .zero)))
      else runs16 ((expandRow m j row).zipIdx.map (fun c => (some (64 * j + c.2), val c.1))))
    counts := fun n0 => (blocks n0).foldl (fun c e =>
      e.2.2.foldl (fun c r => (c.1 + r.groups, c.2 + r.vals)) c) (0, 0) }

/-- One sub-tile: its accumulators and flags, or the first fault. -/
def teSub (s : State) (t : Site) (f : InFlight) (d : Desc) (b : BSource) (cb rb : Nat) : Except Detected (SubTile × Nat) :=
  let a := teMatA d
  let c := teMatC d
  let m0 := 16 * rb
  let n0 := 16 * cb
  let rows := min 16 (teM d - m0)
  let chunk := teChunk a.fmt
  let initErr := if teAddc d then
      (List.range rows).findSome? (fun r => (List.range 16).findSome? (fun i => errOf (rawElem s t 2 c (m0 + r) (n0 + i))))
    else none
  let aErr := fun ch : Nat => (List.range rows).findSome? (fun r =>
    (List.range (min chunk (teK d - ch * chunk))).findSome? (fun x => errOf (elemVal s t 0 a (m0 + r) (ch * chunk + x))))
  let err := initErr <|> b.errBlock n0 <|> (List.range ((teK d + chunk - 1) / chunk)).findSome? (fun ch =>
    aErr ch <|> b.errChunk n0 ch)
  match err with
  | some e => .error e
  | none =>
    let bg := (List.range 16).map (fun i => b.groups (n0 + i))
    let one := fun (r i : Nat) =>
      let acc0 : Word := if teAddc d then (match rawElem s t 2 c (m0 + r) (n0 + i) with
          | .ok x => BitVec.ofNat 32 x | .error _ => 0) else 0
      (bg.getD i []).zipIdx.foldl (fun (p : Word × Nat) g =>
        let ps := g.1.map (fun e => match e.1 with
          | some k => (valOf (elemVal s t 0 a (m0 + r) k), e.2)
          | none => (Val.zero, Val.zero))
        let (w, fl) := if teInt d then accInt p.1 ps
          else accFloat (dRnd d) (draw f.seed 0 f.entry.ticket ((m0 + r) * teN d + n0 + i) g.2) p.1 (groupSum ps)
        (w, p.2 ||| fl)) (acc0, 0)
    let es := (List.range rows).flatMap (fun r => (List.range 16).map (one r))
    .ok ({ row0 := m0, col0 := n0, rows := rows, groups := (bg.getD 0 []).length, acc := es.map (fun e => e.1) },
      es.foldl (fun fl e => fl ||| e.2) 0)

/-- The reads of one sub-tile. -/
def teReads (s : State) (t : Site) (d : Desc) (cb rb : Nat) : List (Nat × Nat) :=
  let a := teMatA d
  let rowsA := (List.range (min 16 (teM d - 16 * rb))).flatMap (fun r =>
    (a.rowOff (16 * rb + r), rowBytes a.fmt a.len) ::
      if isScaled a.fmt then [(a.scaleOff (16 * rb + r) 0, scalesPerRow a.len)] else [])
  let rowsC := if teAddc d then
      (List.range (min 16 (teM d - 16 * rb))).map (fun r =>
        ((teMatC d).rowOff (16 * rb + r) + 64 * cb, 64))
    else []
  let rowsB := if teBsrc d then []
    else if teSpb d then
      let m := teImg s t d
      (List.range m.bc).flatMap (fun j => (m.hdrOff (cb / 4) j, 8) :: (List.range 16).flatMap (fun i =>
        let r := 16 * cb % 64 + i
        (m.valOff (cb / 4) j r, m.vrow) :: (m.codeOff (cb / 4) j r, m.crow) ::
          if isScaled m.fmt then [(m.sclOff (cb / 4) j r, 1)] else []))
    else
      let b := teMatB d
      (List.range 16).flatMap (fun i => (b.rowOff (16 * cb + i), rowBytes b.fmt b.len) ::
        if isScaled b.fmt then [(b.scaleOff (16 * cb + i) 0, scalesPerRow b.len)] else [])
  rowsC ++ rowsA ++ rowsB

/-- The sub-tiles in the order of R161: column blocks outside, row blocks inside. -/
def teOrder (d : Desc) : List (Nat × Nat) :=
  (List.range (teN d / 16)).flatMap (fun cb => (List.range ((teM d + 15) / 16)).map (fun rb => (cb, rb)))

/-- The sub-tiles of a product until the first fault; malformed groups count while row block 0 is read (R213). -/
def teAccumulate (t : Site) (q : Nat) (s : State) (f : InFlight) (d : Desc) (b : BSource) : State × InFlight :=
  let (s, tiles, f, e) := (teOrder d).foldl (fun (a : State × List SubTile × InFlight × Option Detected) p =>
    match a with
    | (s, tiles, f, some e) => (s, tiles, f, some e)
    | (s, tiles, f, none) => match teSub s t f d b p.1 p.2 with
      | .error e => (s.meetReads t q (dGen d) (teReads s t d p.1 p.2) (some e), tiles, f, some e)
      | .ok (tile, fl) =>
        let (g, v) := if p.2 = 0 then b.counts (16 * p.1) else (0, 0)
        (s.meetReads t q (dGen d) (teReads s t d p.1 p.2) none, tile :: tiles,
          { f with flags := f.flags ||| BitVec.ofNat 8 (fl ||| (if g = 0 then 0 else flSDROP)),
                   groups := satAdd 0xFFFFFFFF f.groups g, vals := satAdd 0xFFFFFFFF f.vals v }, none))
    (s, [], f, none)
  (s, { f with work := .te tiles.reverse, fault := e, done := tiles.isEmpty })

/-- The work of a product at its start; with BSRC = 1 it waits for its pair (R178). -/
def teRun (t : Site) (s : State) (f : InFlight) (d : Desc) : State × InFlight :=
  if teBsrc d then (s, { f with work := .tePair })
  else teAccumulate t 0 s f d
    (if teSpb d then sparseSource s t f.strict (teImg s t d)
     else denseSource (teK d) (teChunk (teFb d)) (fun n x => elemVal s t 1 (teMatB d) n x))

def tePre (t : Site) (s : State) (d : Desc) : State := if teSpb d then imgPre t 0 (teB d) (dGen d) s else s

def teOp (t : Site) : EngineOp := { check := fun s d => teCheck s t d, pre := tePre t, run := teRun t }

/-- The next command may start behind a product whose MACs have ended, unless it reads what that one still writes (R169). -/
def teBeside (t : Site) (s : State) (d : Desc) : Bool :=
  match (s.queue t 0).flight with
  | [f] =>
    let reads := teExtA d :: teExtB s t d ++ if teAddc d then [teExtC d] else []
    let writes := teExtC f.entry.desc :: if teWritesX f.entry.desc then teExtX f.entry.desc else []
    (match f.work with | .te _ => true | _ => false) && f.fault.isNone &&
      reads.all (fun r => writes.all (fun w => !overlaps (r.2.1, r.2.2) (w.2.1, w.2.2)))
  | _ => false

/-- A UE product waits for the TE (R300). -/
def State.uePending (s : State) (t : Site) : Bool :=
  match s.flightOf t 7 with
  | some f => (match f.work with | .ortho o => decide (o.pend ≠ 0) && !f.done | _ => false)
  | none => false

/-- A core command waits for the TE. -/
def State.teWaits (s : State) (t : Site) : Bool := s.queueOpen t 0 && !(s.queue t 0).entries.isEmpty

/-- TE_PRODUCT (R160, R161, R300). A pending UE product goes first, but for one core command after each UE product. -/
def execTeProduct (t : Site) (s : State) : Out :=
  if !s.issues t || (s.uePending t && !(s.tile t).ueTurn) then onTile t s (.refused (.notEnabled "TE_PRODUCT"))
  else engineBeside "TE_PRODUCT" 0 t (fun _ => true) (teBeside t) (teOp t) (s.onTile t (fun x => { x with ueTurn := false }))

/-! ### The drain (R166, R167) -/

/-- What the drain makes of element i of a sub-tile: the codes of C and X, and flags. -/
def drainElem (s : State) (t : Site) (f : InFlight) (d : Desc) (tile : SubTile) (i : Nat) :
    Except Detected ((Nat × Nat) × Nat) :=
  let m := tile.row0 + i / 16
  let n := tile.col0 + i % 16
  let w := tile.acc.getD i 0
  if teInt d then
    if dFC d = 11 then .ok ((w.toNat, 0), 0)
    else
      let (c, fl) := encodeVal (dFC d) 0 0 true (.ofInt w.toInt)
      .ok ((c, 0), fl)
  else
    let z := f32 w
    let tab := if teFn d = 0 then none else s.fuTab t (teFn d)
    let conv := fun (k : Nat) (v : Val × Nat) =>
      fuOut (dFC d) (dRnd d) (draw f.seed 0 f.entry.ticket (m * teN d + n) (tile.groups + k)) v
    let two := fun (v x : Val × Nat) =>
      let (c, fl) := conv 0 v
      let (y, fy) := conv 1 x
      ((c, y), fl ||| fy)
    let one := fun (v : Val × Nat) => let (c, fl) := conv 0 v
                                      ((c, 0), fl)
    match teDrv d with
    | 0 => .ok (one (fuEvalAt tab z).f)
    | 1 => .ok (two (fuEvalAt tab z).f (fuEvalAt tab z).f')
    | 2 => .ok (two (fuEvalAt tab z).f (z, 0))
    | drv => match elemVal s t 3 (teMatX d) m n with
      | .error e => .error e
      | .ok x =>
        let g := if drv = 3 then (x, 0) else (fuEvalAt tab x).f'
        let p := fuProduct z g.1
        .ok (one (p.1, p.2 ||| g.2))

/-- 16 codes of row m from column n0. -/
def State.writeSeg (s : State) (t : Site) (c : Mat) (m n0 g : Nat) (codes : List Nat) : State :=
  s.writeStore t (c.rowOff m + elemBit c.fmt n0 / 8) (packRow c.fmt codes) g

/-- A sub-tile drained: whole rows until a row whose X cannot be read. -/
def drainTile (t : Site) (s : State) (f : InFlight) (d : Desc) (tile : SubTile) : State × Nat × Option Detected :=
  let (rs, fl, e) := collect (drainElem s t f d tile) (16 * tile.rows)
  let rows := rs.length / 16
  let s := if teReadsX d then
      s.meetReads t 0 (dGen d) ((List.range tile.rows).map (fun r =>
        ((teMatX d).rowOff (tile.row0 + r) + tile.col0 * fmtBits (dFC d) / 8, 2 * fmtBits (dFC d)))) e
    else s
  let s := (List.range rows).foldl (fun s r =>
    let es := (rs.drop (16 * r)).take 16
    let s := s.writeSeg t (teMatC d) (tile.row0 + r) tile.col0 (dGen d) (es.map (fun e => e.1))
    if teWritesX d then s.writeSeg t (teMatX d) (tile.row0 + r) tile.col0 (dGen d) (es.map (fun e => e.2)) else s) s
  let part := fun pick : (Nat × Nat) → Nat =>
    (List.range rows).flatMap (fun r => packRow (dFC d) (((rs.drop (16 * r)).take 16).map pick))
  let c := part (fun e => e.1)
  let x := if teWritesX d then part (fun e => e.2) else []
  (s.mirrorPoint t 0 (if (teMatC d).base ≤ (teMatX d).base then c ++ x else x ++ c), fl, e)

/-- A command with its first sub-tile drained. -/
def InFlight.drained (f : InFlight) (rest : List SubTile) (fl : Nat) (e : Option Detected) : InFlight :=
  let f := { f with flags := f.flags ||| BitVec.ofNat 8 fl }
  match e with
  | some x => { f with work := .te [], fault := some x, done := true }
  | none => { f with work := .te rest, progress := f.progress + 1, done := rest.isEmpty }

/-- TE_SUBTILE_DRAIN (R168, R192, R439): the oldest final sub-tile passes through the FU into C and X. -/
def execTeSubtileDrain (t : Site) (s : State) : Out :=
  onTile t s (if s.twinStall t then .refused (.notEnabled "TE_SUBTILE_DRAIN") else match (s.queue t 0).flight.find? (fun f => !f.done) with
    | some f => match f.work with
      | .te (tile :: rest) =>
        let (s, fl, e) := drainTile t s f f.entry.desc tile
        let upd := updFirst (fun g : InFlight => !g.done) (fun g => g.drained rest fl e)
        .next (s.onQueue t 0 (fun k => { k with flight := upd k.flight }))
      | _ => .refused (.notEnabled "TE_SUBTILE_DRAIN")
    | none => .refused (.notEnabled "TE_SUBTILE_DRAIN"))

end Sys2Proof.Machine
end

