-- ==== Sys2Proof/Machine/Tx.lean ====
section
/-!
DEFINITION. The transposer and its stream into the tensor engine (R177 to R179).
-/
namespace Sys2Proof.Machine

def txL (d : Desc) : Nat := Desc.field d 83 70 + 1
def txR (d : Desc) : Nat := Desc.field d 69 58 + 1
def txC (d : Desc) : Nat := rowOff (Desc.field d 57 45)
def txA (d : Desc) : Nat := rowOff (Desc.field d 44 32)
def txMatA (d : Desc) : Mat := { base := txA d, fmt := dFA d, rows := txR d, len := txL d }
def txMatC (d : Desc) : Mat := { base := txC d, fmt := dFC d, rows := txL d, len := txR d }

/-- Bits move unchanged: FC equals FA and is not scaled (R177). -/
def txMoves (d : Desc) : Bool := decide (dFC d = dFA d) && !isScaled (dFA d)

def txCheck (s : State) (t : Site) (d : Desc) : Option Detected :=
  let a := (0, txA d, (txMatA d).extent)
  let c := (2, txC d, (txMatC d).extent)
  let stream := decide (dOpc d = 1)
  firstFail ([descFault (headerBad d 3 1 || decide (d.toNat / 2 ^ 84 ≠ 0) || (stream && decide (txC d ≠ 0)) ||
      (txMoves d && decide (dRnd d ≠ 0)))] ++
    formatChecks d [(decide (10 < dFA d), 0, txA d), (decide (10 < dFC d), 2, txC d)] ++
    addrChecks s t ([a] ++ if stream then [] else [c]) ++ overlapChecks (if stream then [] else [(c, a)]))

/-- A unit of the transposed matrix: codes and scale byte. -/
def txUnit (s : State) (t : Site) (f : InFlight) (d : Desc) (u : Nat × Nat × Nat) :
    Except Detected ((List Nat × Nat) × Nat) :=
  let a := txMatA d
  if txMoves d then (unitVals (fun r => rawElem s t 0 a r u.1) u.2.1 u.2.2).map (fun xs => ((xs, 127), 0))
  else convertUnit f d 3 (fun i r => elemVal s t 0 a r i) (txR d) u

def txRun (t : Site) (s : State) (f : InFlight) (d : Desc) : State × InFlight :=
  let c := txMatC d
  let (rs, fl, e) := collectU (fun r => r.1.length) (txUnit s t f d)
    (unitsOf c.rows c.len (if isScaled c.fmt then 32 else 1))
  let s := s.meetReads t 3 (dGen d) (txMatA d).ranges e
  let s := s.writeRows t c (rs.flatMap (fun r => r.1)) (dGen d)
  let s := s.writeScales t c (rs.map (fun r => r.2)) (dGen d)
  (s, f.finish fl e)

/-- TX_TRANSPOSE (R177). A TX descriptor with a reserved OPC starts here too and faults with DESC. -/
def execTxTranspose (t : Site) (s : State) : Out :=
  engine "TX_TRANSPOSE" 3 t (fun o => decide (o ≠ 1))
    { check := fun s d => txCheck s t d, pre := noPre, run := txRun t } s

/-- TX_STREAM (R178): checked, it waits for the TE command that it feeds. -/
def execTxStream (t : Site) (s : State) : Out :=
  engine "TX_STREAM" 3 t (fun o => decide (o = 1))
    { check := fun s d => txCheck s t d, pre := noPre, run := fun s f _ => (s, { f with work := .txPair }) } s

/-! ### Pairing (R178) -/

/-- An error of the stream's own operand, told apart from the TE's by its OPND. -/
def fromTx (e : Detected) : Detected := { e with opnd := 16 + e.opnd }

/-- The unit of the transposed matrix that holds element x of row n. -/
def txUnitOf (d : Desc) (n x : Nat) : Nat × Nat × Nat :=
  if isScaled (dFC d) then (n, x / 32 * 32, min 32 (txR d - x / 32 * 32)) else (n, x, 1)

/-- Element x of row n as the stream delivers it, its scale byte applied. -/
def txElem (s : State) (t : Site) (f : InFlight) (d : Desc) (n x : Nat) : Except Detected Val :=
  let u := txUnitOf d n x
  match txUnit s t f d u with
  | .error e => .error (fromTx e)
  | .ok ((cs, sb), _) => .ok ((decodeVal (dFC d) (cs.getD (x - u.2.1) 0)).scale sb)

/-- A command of a pair that faults at once. -/
def InFlight.failed (f : InFlight) (e : Detected) (done : Bool) : InFlight := { f with fault := some e, done := done }

/-- The TE command f and the TX command g of a pair, after pairing. -/
def pairRun (s : State) (t : Site) (f g : InFlight) : State × InFlight × InFlight :=
  let d := f.entry.desc
  let e := g.entry.desc
  if dFC e ≠ teFb d then (s, f.failed (det ecFormat 1 0) true, g.failed (det ecFormat 2 0) false)
  else if decide (txL e ≠ teN d) || decide (txR e ≠ teK d) then
    (s, f.failed (det ecShape 1 0) true, g.failed (det ecShape 2 0) false)
  else
    let (s, f) := teAccumulate t 0 s f d (denseSource (teK d) (teChunk (teFb d)) (txElem s t g e))
    let fl := (unitsOf (txL e) (txR e) (if isScaled (dFC e) then 32 else 1)).foldl (fun fl u =>
      match txUnit s t g e u with | .ok (_, x) => fl ||| x | .error _ => fl) 0
    let g := { g with flags := g.flags ||| BitVec.ofNat 8 fl }
    match f.fault with
    | none => (s.meetReads t 3 (dGen e) (txMatA e).ranges none, f, { g with done := true })
    | some x =>
      if 16 ≤ x.opnd then
        let own := { x with opnd := x.opnd - 16 }
        (s.meetReads t 3 (dGen e) [] (some own), { f with fault := some (det ecPeer 7 0) }, g.failed own false)
      else (s, f, g.failed (det ecPeer 7 0) false)

/-- STREAM_PAIRING (R178): both commands stand checked at their heads; they pair, and the TX delivers B. -/
def execStreamPairing (t : Site) (s : State) : Out :=
  let waits := fun f : InFlight => decide (f.work = .tePair) && f.fault.isNone
  onTile t s (match (s.queue t 0).flight.find? waits, s.flightOf t 3 with
    | some f, some g =>
      when_ "STREAM_PAIRING" (s.issues t && decide (g.work = .txPair) && g.fault.isNone && !g.done) (
        let (s, f', g') := pairRun s t f g
        let upd := updFirst waits (fun _ => f')
        (s.onQueue t 0 (fun k => { k with flight := upd k.flight })).onFlight t 3 (fun _ => g'))
    | _, _ => .refused (.notEnabled "STREAM_PAIRING"))

end Sys2Proof.Machine
end

