-- ==== Sys2Proof/Machine/Ld.lean ====
section
/-!
DEFINITION. The loam DMA engine and the loam controller's line requests (R74 to R78, R184 to R187).
-/
namespace Sys2Proof.Machine

def ldStrm (d : Desc) : Bool := decide (Desc.field d 112 112 = 1)
def ldStride (d : Desc) : Nat := Desc.field d 111 91
def ldRows (d : Desc) : Nat := Desc.field d 90 79 + 1
def ldLines (d : Desc) : Nat := Desc.field d 78 66 + 1
def ldLine (d : Desc) : Nat := Desc.field d 65 45
def ldS (d : Desc) : Nat := rowOff (Desc.field d 44 32)
def ldSave (d : Desc) : Bool := decide (dOpc d = 1)
def ldTotal (d : Desc) : Nat := ldRows d * ldLines d
/-- The loam line of line i in ascending store order. -/
def ldLineAt (d : Desc) (i : Nat) : Nat := ldLine d + i / ldLines d * ldStride d + i % ldLines d

/-- The checks of R185. -/
def ldCheck (s : State) (t : Site) (d : Desc) : Option Detected :=
  firstFail [descFault (headerBad d 5 1 || decide (d.toNat / 2 ^ 113 ≠ 0) || decide (dFA d ≠ 0) || decide (dFC d ≠ 0) ||
      decide (dRnd d ≠ 0)),
    (ldSave d && decide (1 < ldRows d) && decide (ldStride d < ldLines d), det ecShape noOpnd 0),
    (decide (s.storeEnd t < ldS d + 64 * ldTotal d), det ecAddr (if ldSave d then 0 else 2) (ldS d)),
    (!decide (ldLine d + (ldRows d - 1) * ldStride d + ldLines d - 1 < Config.loamLines), det ecAddr 6 (64 * ldLine d))]

def ldOp (t : Site) : EngineOp :=
  { check := fun s d => ldCheck s t d, pre := noPre, run := fun s f _ => (s, { f with work := .ld 0 }) }

/-- LD_LOAD (R184): checked, it asks the loam controller for its lines. A reserved OPC starts here and faults with DESC. -/
def execLdLoad (t : Site) (s : State) : Out := engine "LD_LOAD" 5 t (fun o => decide (o ≠ 1)) (ldOp t) s

/-- LD_SAVE (R184). -/
def execLdSave (t : Site) (s : State) : Out := engine "LD_SAVE" 5 t (fun o => decide (o = 1)) (ldOp t) s

/-- The column itself is read or written, not a line of the cache. -/
def State.reachesColumn (s : State) (t : Site) (line : Nat) : Bool := !(s.isSplit t && ((s.tile t).hit line).isSome)

/-- Line i of an LD command (R186, R187): the state after it, and the fault that it met. -/
def ldMove (t : Site) (s : State) (d : Desc) (i : Nat) (err : LoamErr) : State × Option Detected :=
  let line := ldLineAt d i
  let off := ldS d + 64 * i
  if ldSave d then
    let s := s.genCheck t off 64 (dGen d) 5
    let e := if s.badAt t off 64 then some (det ecStoreUe 0 off) else none
    let (bs, s, _) := s.readStore t off 64
    (if e.isSome then s else (s.mirrorPoint t 1 bs).loamWrite t line bs (ldStrm d), e)
  else
    let s := if s.reachesColumn t line then s.loamDecode t line err else s
    match s.loamRead t line (ldStrm d) with
    | (none, s) => (s, some (det ecLoamUe 6 (64 * line)))
    | (some bs, s) => (s.writeStore t off bs (dGen d), none)

/-- The line an LD command asks for next. -/
def State.ldNext (s : State) (t : Site) : Option (InFlight × Nat) :=
  match s.flightOf t 5 with
  | some f => match f.work with
    | .ld i => if f.done then none else some (f, i)
    | _ => none
  | none => none

/-- The loam line of this tile that a remote grain names (R42). -/
def grainLine (t : Site) (g : Grain) : Option Nat :=
  let of := fun a : Nat => if decide (loamAddr t 0 ≤ a) && decide (a < loamAddr t 0 + 64 * Config.loamLines) then
      some ((a - loamAddr t 0) / 64) else none
  match g.body with
  | .rd a => of a
  | .wr a _ => of a
  | _ => none

/-- The line that the first remote grain at the NI names. -/
def State.remoteNext (s : State) (t : Site) : Option Nat := ((s.ni t).ready ++ (s.ni t).inbox).findSome? (grainLine t)

/-- LOAM_LINE_REQUEST (R75 to R77, R419). The controller takes a line of the LD engine, of a remote grain or of the cache;
LD lines and remote lines alternate whenever both wait. A line of the cache meets its error at CACHE_FILL. -/
def execLoamLineRequest (t : Site) (src : LoamSrc) (line : Nat) (err : LoamErr) (s : State) : Out :=
  onTile t s (onUnit (decide (line < Config.loamLines)) (
    let took := fun s : State => s.onLoam t (fun l => { l with lastSrc := src })
    let last := (s.tile t).loam.lastSrc
    match src with
    | .ld => whenSome "LOAM_LINE_REQUEST" (s.ldNext t) (fun (f, i) =>
        when_ "LOAM_LINE_REQUEST" (decide (ldLineAt f.entry.desc i = line) && !s.frozen &&
            !(decide (last = .ld) && (s.remoteNext t).isSome)) (
          let (s, e) := ldMove t s f.entry.desc i err
          (took s).onFlight t 5 (fun f => match e with
            | some x => { f with fault := some x, done := true, progress := i }
            | none => { f with work := .ld (i + 1), progress := i + 1, done := decide (i + 1 = ldTotal f.entry.desc) })))
    | .remote => when_ "LOAM_LINE_REQUEST" (decide (s.remoteNext t = some line) &&
        !(decide (last = .remote) && (s.ldNext t).isSome))
        (took ((if s.reachesColumn t line then s.loamDecode t line err else s).openRow t line))
    | .cache => when_ "LOAM_LINE_REQUEST" ((s.tile t).cache.misses.any (fun m => decide (m.line = line)))
        (took (s.openRow t line))
    | .scrub => .refused (.notEnabled "LOAM_LINE_REQUEST")))

end Sys2Proof.Machine
end

