-- ==== Sys2Proof/Machine/Route.lean ====
section
/-!
DEFINITION. The routing and escape tables as functions of what they were built from (R26, R27, R29, R30), and the route of
a grain at a router.
-/
namespace Sys2Proof.Machine

/-! ### Routers and links in use -/

/-- The four mesh ports in the order E, W, N, S of R27, and in the order N, E, S, W of R29. -/
def portsEwns : List Port := [.east, .west, .north, .south]
def portsNesw : List Port := [.north, .east, .south, .west]

/-- A router of a field that is not in UMBRA, not marked dead. -/
def TableBasis.up (b : TableBasis) (t : Site) : Bool :=
  t.onWafer && !b.dead.contains t.key && !b.umbra.contains t.field

/-- The router beyond a port, where both routers and the link between them work. -/
def TableBasis.across (b : TableBasis) (t : Site) (p : Port) : Option Site :=
  match t.next p with
  | some u => if b.up t && b.up u && !b.links.contains (t.key, p.num) && !b.links.contains (u.key, p.opposite.num)
      then some u else none
  | none => none

/-! ### The escape tree (R29) -/

/-- The site of the field from which its search starts. -/
def fieldSite (f lx ly : Nat) : Site := { px := 40 * (f % 8) + lx, py := 40 * (f / 8) + ly }

/-- The CLK site, or the good router with the lowest (ly, lx). -/
def TableBasis.root (b : TableBasis) (f : Nat) : Option Site :=
  let clk := fieldSite f 17 22
  if b.up clk then some clk
  else (List.range 1600).findSome? (fun i =>
    let t := fieldSite f (i % 40) (i / 40)
    if b.up t then some t else none)

def far : Nat := 1000000000

/-- Depths of a field's routers by breadth-first search, as 40 · ly + lx: level after level, n more levels. -/
def depthLevels (b : TableBasis) (f : Nat) : Nat → Nat → Array Nat → Array Nat
  | 0, _, a => a
  | n + 1, lvl, a =>
    let nextOf := (List.range 1600).filter (fun i =>
      let t := fieldSite f (i % 40) (i / 40)
      decide (a.getD i far = far) && portsNesw.any (fun p => match b.across t p with
        | some u => decide (u.field = f) && decide (a.getD (40 * u.ly + u.lx) far = lvl)
        | none => false))
    if nextOf.isEmpty then a else depthLevels b f n (lvl + 1) (nextOf.foldl (fun a i => a.setIfInBounds i (lvl + 1)) a)

/-- The depth of every router of a field; far for one that the search does not reach. In a field with nothing out of use the
search spreads evenly, and the depth is the distance from the CLK site. -/
def TableBasis.depths (b : TableBasis) (f : Nat) : Array Nat :=
  if b.dead.isEmpty && b.links.isEmpty && Config.fieldPresent f && !b.umbra.contains f then
    (Array.range 1600).map (fun i => (fieldSite f (i % 40) (i / 40)).hops (fieldSite f 17 22))
  else match b.root f with
  | none => Array.replicate 1600 far
  | some r => depthLevels b f 1600 0 ((Array.replicate 1600 far).setIfInBounds (40 * r.ly + r.lx) 0)

/-- The parent's port: the neighbour of least depth, ties in the order N, E, S, W. -/
def parentPort (b : TableBasis) (d : Array Nat) (t : Site) : Option Port :=
  let at_ := fun p : Port => match b.across t p with
    | some u => if u.field = t.field then d.getD (40 * u.ly + u.lx) far else far
    | none => far
  let best := portsNesw.foldl (fun m p => min m (at_ p)) far
  if decide (d.getD (40 * t.ly + t.lx) far = 0) || decide (best = far) then none
  else portsNesw.find? (fun p => decide (at_ p = best))

/-- The path from a router up to the start of its field's search: n more steps. -/
def climbPath (b : TableBasis) (d : Array Nat) : Nat → Site → List Site
  | 0, t => [t]
  | n + 1, t => match parentPort b d t with
    | none => [t]
    | some p => match t.next p with
      | some u => t :: climbPath b d n u
      | none => [t]

/-- The tree port of router t toward router u of the same field (the escape local table). -/
def TableBasis.treePort (b : TableBasis) (t u : Site) : Option Port :=
  let d := b.depths t.field
  if d.getD (40 * u.ly + u.lx) far = far then none
  else if t = u then some .loc
  else
    let path := climbPath b d 1600 u
    match (path.zip (path.drop 1)).find? (fun e => decide (e.2 = t)) with
    | some (child, _) => portsNesw.find? (fun p => decide (t.next p = some child))
    | none => parentPort b d t

/-- Fields that the tree joins. -/
def TableBasis.fieldUp (b : TableBasis) (f : Nat) : Bool := Config.fieldPresent f && !b.umbra.contains f

/-- The field beyond a side of a field. -/
def fieldNext (f : Nat) (p : Port) : Option Nat :=
  match p with
  | .north => if f / 8 = 0 then none else some (f - 8)
  | .south => if f / 8 = 7 then none else some (f + 8)
  | .east => if f % 8 = 7 then none else some (f + 1)
  | .west => if f % 8 = 0 then none else some (f - 1)
  | .loc => none

/-- The link that joins a field to its neighbour: the good one of lowest px or py on their shared edge, between routers of
both trees; the router on this side. -/
def TableBasis.fieldLink (b : TableBasis) (ds : Nat → Array Nat) (f : Nat) (p : Port) : Option Site :=
  match fieldNext f p with
  | none => none
  | some g =>
    let d := ds f
    let e := ds g
    (List.range 40).findSome? (fun i =>
      let t := match p with
        | .north => fieldSite f i 0
        | .south => fieldSite f i 39
        | .east => fieldSite f 39 i
        | _ => fieldSite f 0 i
      match b.across t p with
      | some u => if decide (d.getD (40 * t.ly + t.lx) far ≠ far) && decide (e.getD (40 * u.ly + u.lx) far ≠ far)
          then some t else none
      | none => none)

/-- Breadth-first search over the fields from field (3,3), level after level: each field reached with its parent and the
port to it, ties in the order N, E, S, W (DEDUCED, notes/assumptions/13.md). -/
def fieldTree (b : TableBasis) (ds : Nat → Array Nat) : Nat → List (Nat × Nat × Port) → List (Nat × Nat × Port)
  | 0, acc => acc
  | n + 1, acc =>
    let inTree := fun g : Nat => decide (g = 27) || acc.any (fun e => decide (e.1 = g))
    let found := (List.range 64).filterMap (fun g =>
      if inTree g || !b.fieldUp g then none
      else portsNesw.findSome? (fun p => match fieldNext g p with
        | some f => if inTree f && (b.fieldLink ds g p).isSome then some (g, f, p) else none
        | none => none))
    if found.isEmpty then acc else fieldTree b ds n (acc ++ found)

/-- A field's path up to field (3,3). -/
def fieldPath (tr : List (Nat × Nat × Port)) : Nat → Nat → List Nat
  | 0, f => [f]
  | n + 1, f => match tr.find? (fun e => decide (e.1 = f)) with
    | some e => f :: fieldPath tr n e.2.1
    | none => [f]

/-- The escape field table: the router that leaves field f toward field g, and its port. -/
def TableBasis.exitOf (b : TableBasis) (f g : Nat) : Option (Site × Port) :=
  let all := (List.range 64).map b.depths
  let ds := fun k => all.getD k #[]
  let tr := if b.fieldUp 27 then fieldTree b ds 64 [] else []
  let up := fieldPath tr 64 g
  let port := match (up.zip (up.drop 1)).find? (fun e => decide (e.2 = f)) with
    | some (child, _) => portsNesw.find? (fun p => decide (fieldNext f p = some child))
    | none => (tr.find? (fun e => decide (e.1 = f))).map (fun e => e.2.2)
  match port with
  | none => none
  | some p =>
    -- the joining link was chosen from the parent's side; both sides choose the same edge position
    (b.fieldLink ds f p).map (fun t => (t, p))

/-- The ESC route at router t toward site u (R30). -/
def TableBasis.escPort (b : TableBasis) (t u : Site) : Option Port :=
  if t.field = u.field then b.treePort t u
  else match b.exitOf t.field u.field with
    | none => none
    | some (x, p) => if t = x then some p else b.treePort t x

/-! ### The field table (R27) -/

/-- A router that the escape tree of its field reaches: the others are treated as dead. -/
def TableBasis.good (b : TableBasis) (t : Site) : Bool :=
  b.up t && decide ((b.depths t.field).getD (40 * t.ly + t.lx) far ≠ far)

/-- Nothing is out of use: every minimal route is open. -/
def TableBasis.clean (b : TableBasis) : Bool :=
  b.dead.isEmpty && b.links.isEmpty && b.penumbra.isEmpty && b.umbra.isEmpty

/-- The router of field g nearest to t, where nothing is out of use. -/
def nearestIn (t : Site) (g : Nat) : Site :=
  { px := max (40 * (g % 8)) (min (40 * (g % 8) + 39) t.px), py := max (40 * (g / 8)) (min (40 * (g / 8) + 39) t.py) }

/-- Weight of a hop out of a router: 1 in a LIT field, 4 in a PENUMBRA field. -/
def TableBasis.weight (b : TableBasis) (t : Site) : Nat := if b.penumbra.contains t.field then 4 else 1

/-- One sweep of path lengths to the routers of a field; the lengths, and whether any fell. -/
def sweep (b : TableBasis) (good : Site → Bool) (a : Array Nat) : Array Nat × Bool :=
  (List.range (320 * 512)).foldl (fun (x : Array Nat × Bool) k =>
    let t := siteOf k
    if !good t then x
    else
      let best := portsEwns.foldl (fun m p => match b.across t p with
        | some u => if good u then min m (x.1.getD u.key far + b.weight t) else m
        | none => m) (x.1.getD k far)
      if best < x.1.getD k far then (x.1.setIfInBounds k best, true) else x) (a, false)

/-- Sweeps until no length falls, n at most. -/
def settle (b : TableBasis) (good : Site → Bool) : Nat → Array Nat → Array Nat
  | 0, a => a
  | n + 1, a => let (a', more) := sweep b good a
                if more then settle b good n a' else a'

/-- An entry of a field table: a port, ESC, or INVALID. -/
inductive FieldEntry where
  | port (p : Port)
  | esc
  | invalid
  deriving DecidableEq, Repr

/-- The field table of router t at field g (R27). Where nothing is out of use, the first hop of a minimal route. -/
def TableBasis.fieldEntry (b : TableBasis) (t : Site) (g : Nat) : FieldEntry :=
  if !b.fieldUp g then .invalid
  else if b.clean then
    let u := nearestIn t g
    match portsEwns.find? (fun p => match t.next p with | some v => decide (v.hops u < t.hops u) | none => false) with
    | some p => .port p
    | none => .esc
  else
    let ds := (List.range 64).map b.depths
    let good := fun v : Site => b.up v && decide ((ds.getD v.field #[]).getD (40 * v.ly + v.lx) far ≠ far)
    let start := (List.range 1600).foldl (fun (a : Array Nat) i =>
      let v := fieldSite g (i % 40) (i / 40)
      if good v then a.setIfInBounds v.key 0 else a) (Array.replicate (320 * 512) far)
    let d := settle b good (320 * 512) start
    match portsEwns.find? (fun p => match b.across t p with
        | some u => good u && decide (d.getD u.key far < far) && decide (d.getD t.key far = d.getD u.key far + b.weight t)
        | none => false) with
    | some p => .port p
    | none => .esc

/-! ### The route of a grain (R22, R26) -/

def Grain.dst (g : Grain) : Site := { px := g.dx.toNat, py := g.dy.toNat }
def Grain.src (g : Grain) : Site := { px := g.sx.toNat, py := g.sy.toNat }
def grainDst (g : Grain) : Site := Grain.dst g
def grainSrc (g : Grain) : Site := Grain.src g
/-- A prism grain (R36). -/
def isPrism (g : Grain) : Bool := decide (g.dx.toNat = 0x1FF)
def onEsc (g : Grain) : Bool := g.cls.getLsbD 2
def toEsc (g : Grain) : Grain := { g with cls := g.cls ||| 4 }

/-- The virtual channel of a grain. -/
def vcOf (g : Grain) : VC :=
  if onEsc g then .esc else match g.cls.toNat % 4 with | 0 => .req | 1 => .rpl | _ => .dat

/-- A link that its routers know as failed, since their last table instant or before it. -/
def State.linkDown (s : State) (t : Site) (p : Port) : Bool := s.failedLinks.contains (t.key, p.num)

/-- What a router does with a grain on REQ, RPL or DAT: a port, ESC, or INVALID. -/
def State.route (s : State) (t u : Site) : FieldEntry :=
  if t = u then .port .loc
  else
    let e := if u.field ≠ t.field then s.tables.fieldEntry t u.field
      else
        let p := if u.px ≠ t.px then (if t.px < u.px then Port.east else .west) else if t.py < u.py then .south else .north
        match t.next p with
        | some v => if s.tables.up v then .port p else .esc
        | none => .esc
    match e with
    | .port p => if s.linkDown t p then .esc else .port p
    | e => e

end Sys2Proof.Machine
end

