-- ==== Sys2Proof/Machine/Mesh.lean ====
section
/-!
DEFINITION. The router and the link (R15 to R20), grains on their way (R21 to R32), prism multicast (R36 to R39), and what
registers show of routers and tables (R526 to R528).
-/
namespace Sys2Proof.Machine

/-! ### Buffers -/

def InPort.buf (i : InPort) : VC → List Buffered
  | .req => i.req | .rpl => i.rpl | .dat => i.dat | .esc => i.esc
def InPort.setBuf (i : InPort) (v : VC) (l : List Buffered) : InPort :=
  match v with
  | .req => { i with req := l } | .rpl => { i with rpl := l } | .dat => { i with dat := l } | .esc => { i with esc := l }
def OutPort.credit (o : OutPort) : VC → Nat
  | .req => o.creq | .rpl => o.crpl | .dat => o.cdat | .esc => o.cesc
def OutPort.setCredit (o : OutPort) (v : VC) (n : Nat) : OutPort :=
  match v with
  | .req => { o with creq := n } | .rpl => { o with crpl := n } | .dat => { o with cdat := n } | .esc => { o with cesc := n }

def State.onInp (s : State) (t : Site) (p : Port) (f : InPort → InPort) : State :=
  s.onRouter t (fun r => r.setInp p (f (r.inp p)))
def State.onOutp (s : State) (t : Site) (p : Port) (f : OutPort → OutPort) : State :=
  s.onRouter t (fun r => r.setOutp p (f (r.outp p)))
def State.head (s : State) (t : Site) (p : Port) (v : VC) : Option Buffered := (((s.router t).inp p).buf v).head?

def allPorts : List Port := [.north, .east, .south, .west, .loc]
def allVCs : List VC := [.req, .rpl, .dat, .esc]
def vcNum : VC → Nat | .req => 0 | .rpl => 1 | .dat => 2 | .esc => 3

/-- A freed entry of an input buffer: its credit goes upstream on sideband (R17). -/
def State.freeEntry (s : State) (t : Site) (p : Port) (v : VC) : State :=
  match t.next p with
  | some u => s.onOutp u p.opposite (fun o => { o with credits := o.credits ++ [v] })
  | none => s

/-- The head of a buffer leaves it. -/
def State.popHead (s : State) (t : Site) (p : Port) (v : VC) : State :=
  (s.onInp t p (fun i => i.setBuf v ((i.buf v).drop 1))).freeEntry t p v

/-- The plot of the site is fenced and was cut short of its drain: what arrives later is discarded (R427). -/
def State.cutOff (s : State) (t : Site) : Bool :=
  match s.plotOf t with
  | some p => decide (s.fenceState p = 2) && (match (s.plot p).fence with | some f => f.cut | none => false)
  | none => false

/-- The local port takes a grain for the NI or the service unit. -/
def State.deliver (s : State) (t : Site) (g : Grain) : State :=
  if s.cutOff t && decide (g.kind.toNat ≠ 14) then s else s.onNi t (fun n => { n with inbox := n.inbox ++ [g] })

/-- A grain leaves through an output port, on virtual channel v: it uses one downstream entry and enters the replay store. -/
def State.sendOut (s : State) (t : Site) (p : Port) (v : VC) (g : Grain) : State :=
  match p with
  | .loc => s.deliver t g
  | p => s.onOutp t p (fun o => ({ o with wire := o.wire ++ [g], replay := (o.replay ++ [g]).drop (o.replay.length - 7) }).setCredit v
      (o.credit v - 1))

/-- An output has room downstream. -/
def State.hasCredit (s : State) (t : Site) (p : Port) (v : VC) : Bool :=
  match p with | .loc => true | p => decide (0 < ((s.router t).outp p).credit v)

/-! ### Errors (R25) -/

def errHdr : Nat := 1
def errNoroute : Nat := 2
def errAddr : Nat := 3
def errPerm : Nat := 4
def errPrism : Nat := 5
def errLinkfail : Nat := 6
def errFenced : Nat := 7

/-- A refused grain's ERR to its source; none for an ERR grain. -/
def State.returnErr (s : State) (t : Site) (g : Grain) (code : Nat) : State :=
  if g.kind.toNat = 13 then s
  else s.niSend t (mkGrain t (grainSrc g) 13 0 0 true (.err g.seq.toNat g.conn.toNat g.kind.toNat code))

/-- The conditions of R25, and the code of the ERR that the model returns for each: a destination that does not exist or
lies in UMBRA has no route. -/
def State.headerFault (s : State) (g : Grain) : Option Nat :=
  let k := g.kind.toNat
  let multi := isPrism g
  if decide (g.rsv ≠ 0) || decide (g.cls.toNat % 4 = 3) || decide (k = 15) || decide (g.cls.toNat % 4 ≠ kindClass k) ||
      (multi && (decide (1 < k) || g.dy.getLsbD 8)) ||
      (!multi && (decide (319 < g.dx.toNat) || decide (319 < g.dy.toNat))) then some errHdr
  else if !multi && (!(grainDst g).onWafer || s.tables.umbra.contains (grainDst g).field) then some errNoroute
  else none

/-! ### The edge of a plot (R252, R427) -/

/-- Kinds that a fenced plot answers with FENCED: what asks something of it. Its own answers still come in. -/
def fenceAnswers (k : Nat) : Bool := decide (k ≤ 3) || decide (k = 6) || decide (k = 8)

/-- The plot that a grain enters from outside by this port: it comes from outside, is meant for the plot, and the sending router stands
outside (DEDUCED, notes/assumptions/48.md). -/
def State.entered (s : State) (t : Site) (p : Port) (g : Grain) : Option Nat :=
  if isPrism g then none
  else match t.next p, s.plotOf t with
    | some u, some n => if !s.inRect n u && s.inRect n (grainDst g) && !s.inRect n (grainSrc g) then some n else none
    | _, _ => none

/-- A grain that the boundary router of a fenced plot answers. -/
def State.fencedOff (s : State) (t : Site) (p : Port) (g : Grain) : Bool :=
  match s.entered t p g with
  | some n => decide (s.fenceState n ≠ 0) && fenceAnswers g.kind.toNat
  | none => false

/-- An item or a message that waits at the edge of a plot that drains. -/
def State.edgeHolds (s : State) (t : Site) (p : Port) (g : Grain) : Bool :=
  match s.entered t p g with
  | some n => (s.plot n).draining && decide (g.kind.toNat ≤ 1)
  | none => false

/-! ### Arrival -/

/-- What the router makes of a whole grain that has entered an input: discarded with an ERR, or buffered with its output. -/
def State.accept (s : State) (t : Site) (p : Port) (g : Grain) : State :=
  let drop := fun (s : State) (code : Nat) => (s.returnErr t g code).freeEntry t p (vcOf g)
  let put := fun (out : Port) (due : Bool) =>
    s.onInp t p (fun i => i.setBuf (vcOf g) (i.buf (vcOf g) ++ [{ grain := g, out := out, dueEsc := due }]))
  match s.headerFault g with
  | some code => drop ((s.bump rMeshErrCnt 31 0 1).onRouter t (fun r => { r with hdr := satAdd 0xFFFFFFFF r.hdr 1 })) code
  | none =>
    if isPrism g then put .loc false
    else if s.fencedOff t p g then drop s errFenced
    else if onEsc g then
      if t = grainDst g then put .loc false
      else match s.tables.escPort t (grainDst g) with
        | none => drop s errNoroute
        | some out => if s.linkDown t out then drop s errLinkfail else put out false
    else match s.route t (grainDst g) with
      | .invalid => drop s errNoroute
      | .esc => put .loc true
      | .port out => put out false

/-- A connection is sticky: its grains go out on ESC (R32). -/
def stickyGrain (n : Ni) (g : Grain) : Grain :=
  if kindSequenced g.kind.toNat && n.tx.any (fun c => c.sticky && decide (c.conn = g.conn.toNat) &&
      decide (c.dst = grainDst g)) then toEsc g else g

/-- GRAIN_ARRIVAL (R17, R19, R25, R26). From the local port, the NI's next grain enters; from a link, the next grain on the
wire is written, unless its CRC fails or the receiver discards until a replay. -/
def execGrainArrival (r : Site) (p : Port) (crcOk : Bool) (s : State) : Out :=
  onSite r s (match p with
    | .loc => match (s.ni r).outbox with
      | [] => .refused (.notEnabled "GRAIN_ARRIVAL")
      | g :: rest =>
        let g := stickyGrain (s.ni r) g
        when_ "GRAIN_ARRIVAL" (decide ((((s.router r).inp .loc).buf (vcOf g)).length < 8)) (
          let s := s.onNi r (fun n => { n with outbox := rest })
          let esc := kindSequenced g.kind.toNat && !isPrism g && !onEsc g && decide (s.route r (grainDst g) = .esc)
          let s := if esc then s.onNi r (fun n => { n with tx := n.tx.map (fun c =>
              if decide (c.conn = g.conn.toNat) && decide (c.dst = grainDst g) then { c with sticky := true } else c) }) else s
          s.accept r .loc g)
    | p => match r.next p with
      | none => .refused (.notEnabled "GRAIN_ARRIVAL")
      | some u => match ((s.router u).outp p.opposite).wire with
        | [] => .refused (.notEnabled "GRAIN_ARRIVAL")
        | g :: rest =>
          let s := s.onOutp u p.opposite (fun o => { o with wire := rest })
          let again := fun s : State => s.onOutp u p.opposite (fun o => { o with resend := o.resend ++ [g] })
          if ((s.router r).inp p).discarding then .next (again s)
          else if crcOk then .next ((s.onInp r p (fun i => { i with fails := 0 })).accept r p g)
          else
            let s := (s.bump rMeshErrCnt 63 32 1).onRouter r (fun x => { x with crc := satAdd 0xFFFFFFFF x.crc 1 })
            .next (again (s.onInp r p (fun i => { i with discarding := true, fails := i.fails + 1 }))))

/-- REPLAY_REQUEST (R19). The sender sends the failed grain again, followed by the later ones. -/
def execReplayRequest (r : Site) (p : Port) (s : State) : Out :=
  onSite r s (match r.next p with
    | none => .refused (.notEnabled "REPLAY_REQUEST")
    | some u =>
      when_ "REPLAY_REQUEST" (((s.router u).inp p.opposite).discarding && !((s.router r).outp p).failed) (
        (s.onOutp r p (fun o => { o with wire := o.resend ++ o.wire, resend := [] })).onInp u p.opposite
          (fun i => { i with discarding := false })))

/-- LINK_CREDIT_ARRIVAL (R17). -/
def execLinkCreditArrival (r : Site) (p : Port) (vc : VC) (s : State) : Out :=
  onSite r s (match takeFirst (fun v => decide (v = vc)) ((s.router r).outp p).credits with
    | some (_, rest) => .next (s.onOutp r p (fun o => ({ o with credits := rest }).setCredit vc (min 8 (o.credit vc + 1))))
    | none => .refused (.notEnabled "LINK_CREDIT_ARRIVAL"))

/-! ### Failed links (R20, R39) -/

/-- Grains that a router can no longer send on a failed output: those on normal channels become due for ESC, and those whose
ESC route uses the link are discarded with LINKFAIL. -/
def State.divert (s : State) (t : Site) (p : Port) : State :=
  allPorts.foldl (fun s i => allVCs.foldl (fun s v =>
    let l := ((s.router t).inp i).buf v
    let hit := fun b : Buffered => decide (b.out = p) && !isPrism b.grain
    match v with
    | .esc =>
      let s := s.onInp t i (fun x => x.setBuf v (l.filter (fun b => !hit b)))
      (l.filter hit).foldl (fun s b => (s.returnErr t b.grain errLinkfail).freeEntry t i v) s
    | v => s.onInp t i (fun x => x.setBuf v (l.map (fun b => if hit b then { b with dueEsc := true } else b)))) s) s

/-- One side of a link that is declared failed. Grains that it sent and the far side never took go by ESC. -/
def State.failSide (s : State) (t : Site) (p : Port) : State :=
  if s.linkDown t p then s
  else
    let o := (s.router t).outp p
    let s := { s with failedLinks := s.failedLinks ++ [(t.key, p.num)], tablesDue := true }
    let s := (s.bump rMeshStat 63 48 1).onOutp t p (fun o => { o with failed := true, wire := [], resend := [] })
    let s := s.onNi t (fun n => { n with outbox := n.outbox ++ ((o.resend ++ o.wire).filter (fun g => !isPrism g)).map toEsc })
    (s.divert t p).alarm 0x0001 (s.source t) p.num

/-- Both sides of a link: the tables are due to be rebuilt (R422). -/
def State.failLink (s : State) (t : Site) (p : Port) : State :=
  match t.next p with
  | some u => (s.failSide t p).failSide u p.opposite
  | none => s

/-- LINK_FAILED (R20). -/
def execLinkFailed (r : Site) (p : Port) (s : State) : Out :=
  onSite r s (when_ "LINK_FAILED" (decide (16 ≤ ((s.router r).inp p).fails) && (r.next p).isSome && !s.linkDown r p)
    (s.failLink r p))

/-- FORWARDED_CLOCK_STOP (R397). The neighbour's field is dark, and its forwarded clock has stopped. -/
def execForwardedClockStop (r : Site) (p : Port) (s : State) : Out :=
  onSite r s (match r.next p with
    | none => .refused (.notEnabled "FORWARDED_CLOCK_STOP")
    | some u => when_ "FORWARDED_CLOCK_STOP"
        (decide (u.field ≠ r.field) && s.inUmbra u && !s.inUmbra r && !s.linkDown r p) (s.failSide r p))

/-! ### Sending (R18) -/

/-- The input whose head an output serves on a channel, in rotating order from the pointer of that channel. -/
def State.ready (s : State) (t : Site) (out : Port) (v : VC) : Option Port :=
  let start := ((s.router t).outp out).turnIn / 5 ^ (vcNum v) % 5
  if !s.hasCredit t out v then none
  else ((allPorts.drop start) ++ allPorts.take start).find? (fun i => match s.head t i v with
    | some b => decide (b.out = out) && !b.dueEsc && !isPrism b.grain && !s.edgeHolds t i b.grain
    | none => false)

/-- RPL, REQ and DAT in the order of R18. -/
def turnVC (n : Nat) : VC := match n % 3 with | 0 => .rpl | 1 => .req | _ => .dat

/-- What the output sends next: the channel and the input. -/
def State.choose (s : State) (t : Site) (out : Port) : Option (VC × Port) :=
  let turn := ((s.router t).outp out).turn
  match s.ready t out .esc with
  | some i => some (.esc, i)
  | none => [0, 1, 2].findSome? (fun k => (s.ready t out (turnVC (turn + k))).map (fun i => (turnVC (turn + k), i)))

/-- The pointers after a grain of channel v from input i. -/
def OutPort.turned (o : OutPort) (v : VC) (i : Port) : OutPort :=
  { o with
    turn := match v with | .rpl => 1 | .req => 2 | .dat => 0 | .esc => o.turn
    turnIn := o.turnIn - o.turnIn / 5 ^ (vcNum v) % 5 * 5 ^ (vcNum v) + (i.num + 1) % 5 * 5 ^ (vcNum v) }

/-- OUTPUT_PORT_SEND (R15, R16, R18). -/
def execOutputPortSend (r : Site) (p : Port) (s : State) : Out :=
  onSite r s (match s.choose r p with
    | none => .refused (.notEnabled "OUTPUT_PORT_SEND")
    | some (v, i) => match s.head r i v with
      | none => .refused (.notEnabled "OUTPUT_PORT_SEND")
      | some b => .next (((s.popHead r i v).sendOut r p v b.grain).onOutp r p (fun o => o.turned v i)))

/-! ### The escape channel (R31) -/

/-- MESH_ESC_WAIT (R31). -/
def execMeshEscWait (r : Site) (p : Port) (vc : VC) (s : State) : Out :=
  onSite r s (match s.head r p vc with
    | none => .refused (.notEnabled "MESH_ESC_WAIT")
    | some b => when_ "MESH_ESC_WAIT" (decide (vc ≠ .esc) && !isPrism b.grain && !b.dueEsc && !s.hasCredit r b.out vc)
        (s.onInp r p (fun i => i.setBuf vc ({ b with dueEsc := true } :: (i.buf vc).drop 1))))

/-- ESCAPE_MOVE (R31). The grain moves to ESC where its ESC output has credit; its source is told, unless the grain carries
no SEQ. An ESC route over a failed link discards it (R20). -/
def execEscapeMove (r : Site) (p : Port) (vc : VC) (s : State) : Out :=
  onSite r s (match s.head r p vc with
    | none => .refused (.notEnabled "ESCAPE_MOVE")
    | some b =>
      if !b.dueEsc || s.edgeHolds r p b.grain then .refused (.notEnabled "ESCAPE_MOVE")
      else match s.tables.escPort r (grainDst b.grain) with
        | none => .next ((s.popHead r p vc).returnErr r b.grain errNoroute)
        | some out =>
          if s.linkDown r out then .next ((s.popHead r p vc).returnErr r b.grain errLinkfail)
          else when_ "ESCAPE_MOVE" (s.hasCredit r out .esc) (
            let s := ((s.popHead r p vc).sendOut r out .esc (toEsc b.grain)).count rMeshStat 31 0 1
            if kindSequenced b.grain.kind.toNat then
              s.niSend r (mkGrain r (grainSrc b.grain) 11 b.grain.conn.toNat 0 true .escn)
            else s))

/-! ### Prism (R36 to R39) -/

/-- The prism entry of a router. -/
def State.prismEntry (s : State) (t : Site) (tree : Nat) : Nat := mapGet (fun _ => 0) s.prism (t.key * 256 + tree)

/-- Ports that an entry marks: bit 4 L, 3 W, 2 S, 1 E, 0 N. -/
def markedPorts (e : Nat) : List Port :=
  [(0, Port.north), (1, .east), (2, .south), (3, .west), (4, .loc)].filterMap (fun x => if e.testBit x.1 then some x.2 else none)

/-- A marked port that leads nowhere (R39). -/
def State.portLost (s : State) (t : Site) (p : Port) : Bool :=
  match p with
  | .loc => false
  | p => match t.next p with
    | none => true
    | some u => s.linkDown t p || s.repair.deadRouters.contains u.key || s.inUmbra u

/-- PRISM_FORWARD (R37, R39). -/
def execPrismForward (r : Site) (p : Port) (s : State) : Out :=
  onSite r s (match s.head r p .dat with
    | none => .refused (.notEnabled "PRISM_FORWARD")
    | some b =>
      let g := b.grain
      let tree := g.dy.toNat % 256
      let e := s.prismEntry r tree
      let drop := fun code => Host.Outcome.next ((s.popHead r p .dat).returnErr r g code)
      if !isPrism g then .refused (.notEnabled "PRISM_FORWARD")
      else if !e.testBit 7 || decide (s.plotOf r = none) || decide (s.plotOf (grainSrc g) ≠ s.plotOf r) then drop errPrism
      else
        let marked := markedPorts e
        let ports := marked.filter (fun q => !s.portLost r q)
        when_ "PRISM_FORWARD" (ports.all (fun q => s.hasCredit r q .dat)) (
          let s := ports.foldl (fun s q => s.sendOut r q .dat g) (s.popHead r p .dat)
          let last := ((s.router r).prismErr.find? (fun x => decide (x.1 = tree))).map (fun x => x.2)
          let due := match last with | some c => decide (c + 1024 ≤ s.cycle) | none => true
          if decide (ports.length < marked.length) && due then
            (s.onRouter r (fun x => { x with prismErr := mapPut x.prismErr tree s.cycle })).returnErr r g errLinkfail
          else s))

/-! ### Registers of routers and tables (R526 to R528) -/

/-- MESH_CFG_WRITE (R526). A value below 16 stores 16. -/
def execMeshCfgWrite (v : Dword) (s : State) : Out := .next (s.setFld rMeshCfg 11 0 (max 16 (Dword.field v 11 0)))

/-- A port field of MESH_RLINK. -/
def State.linkCode (s : State) (t : Site) (p : Port) : Nat :=
  match t.next p with
  | none => 2
  | some u =>
    if s.repair.deadRouters.contains u.key then 3
    else if s.inUmbra u then 4
    else if s.linkDown t p then 1
    else if s.fieldState u.field = 1 then 5 else 0

/-- The router that MESH_RSEL names answers; a site that does not exist or lies in UMBRA reads 0. -/
def State.routerAnswer (s : State) (rlink : Bool) : Dword :=
  let t : Site := { px := s.fld rMeshRsel 8 0, py := s.fld rMeshRsel 17 9 }
  if !t.onWafer || s.inUmbra t then 0
  else if rlink then
    BitVec.ofNat 64 (2 ^ 63 + (if s.repair.deadRouters.contains t.key then 2 ^ 62 else 0) +
      s.linkCode t .north * 2 ^ 16 + s.linkCode t .east * 2 ^ 12 + s.linkCode t .south * 2 ^ 8 + s.linkCode t .west * 2 ^ 4)
  else BitVec.ofNat 64 ((s.router t).crc * 2 ^ 32 + (s.router t).hdr)

/-- MESH_ROUTER_QUERY (R527). -/
def execMeshRouterQuery (rlink : Bool) (s : State) : Out := .next { s with queried := s.routerAnswer rlink }

/-- The field table's entry for the router's own field: the spec states none, so it is free among the codes that occur. -/
def freeEntryCode (k : Nat) : Nat := [0, 1, 2, 3, 4, 7].getD ((Config.freeOf 528 k 0).toNat % 6) 0

/-- The table entry that ROUTE_TSEL names (R528). -/
def State.tableAnswer (s : State) : Dword :=
  let t : Site := { px := s.fld rRouteTsel 8 0, py := s.fld rRouteTsel 17 9 }
  let i := s.fld rRouteTsel 28 18
  if !t.onWafer || s.inUmbra t then 0
  else BitVec.ofNat 64 (match s.fld rRouteTsel 63 62 with
    | 0 =>
      if 64 ≤ i then 0
      else if i = t.field then freeEntryCode t.key
      else match s.tables.fieldEntry t i with
        | .port p => p.num
        | .esc => 4
        | .invalid => 7
    | 1 => if 64 ≤ i then 0 else match s.tables.exitOf t.field i with
      | some (x, p) => 2 ^ 15 + p.num * 2 ^ 12 + x.ly * 2 ^ 6 + x.lx
      | none => 0
    | 2 => if 1600 ≤ i then 0 else match s.tables.treePort t (fieldSite t.field (i % 40) (i / 40)) with
      | some p => p.num
      | none => 0
    | _ => if decide (256 ≤ i) || decide (s.plotOf t = none) then 0 else s.prismEntry t i)

/-- ROUTE_TABLE_READ (R528). -/
def execRouteTableRead (s : State) : Out := .next { s with queried := s.tableAnswer }

end Sys2Proof.Machine
end

