-- ==== Sys2Proof/Machine/Ni.lean ====
section
/-!
DEFINITION. The network interface: the window and the reorder buffer (R32 to R34), connections (R220 to R226), remote
accesses (R42, R43, R232) and error grains (R25, R226, R423).
-/
namespace Sys2Proof.Machine

/-! ### Optical ports, as OPEN names them (R308, R322) -/

/-- Port o of field index o / 2: port 0 (downstream) or port 1 (upstream). -/
def presentFields : List Nat := (List.range 64).filter Config.fieldPresent
def optField (o : Nat) : Nat := presentFields.getD (o / 2) 0
def optSite (o : Nat) : Site := if o % 2 = 0 then fieldSite (optField o) 12 27 else fieldSite (optField o) 27 12
def optFacet (o : Nat) : Nat := 4 * (o % 2) + o / 2 % 4
def optLane (o : Nat) : Nat := o / 2 / 4
/-- The port of a facet's lane. -/
def optPortOf (facet lane : Nat) : Nat := 2 * (4 * lane + facet % 4) + facet / 4

/-- A port carries traffic: its facet is UP and its lane is in LANEUP. -/
def State.portUp (s : State) (o : Nat) : Bool :=
  decide (s.fld (rFacetStat (optFacet o)) 63 60 = 3) &&
    (s.reg (rFacetStat (optFacet o))).getLsbD (34 + optLane o)

/-- The port of a direction for a tile: its own field's, or the nearest that is up, ties to the lower lane (R322). -/
def State.optFor (s : State) (t : Site) (d : Nat) : Option Nat :=
  let all := ((List.range 14).flatMap (fun l => (List.range 4).map (fun i => optPortOf (4 * d + i) l))).filter
    (fun o => s.portUp o)
  match all.find? (fun o => decide (optField o = t.field)) with
  | some o => some o
  | none => all.foldl (fun b o => match b with
    | none => some o
    | some c => if t.hops (optSite o) < t.hops (optSite c) then some o else some c) none

/-! ### Sending under the window (R34) -/

/-- What the window lets out of a connection's waiting grains, numbered. -/
def pumpConn (t : Site) (c : TxConn) : TxConn × List Grain :=
  let n := min c.q.length (32 - c.unacked)
  ({ c with q := c.q.drop n, nextSeq := (c.nextSeq + n) % 32, unacked := c.unacked + n },
    ((c.q.take n).zipIdx).map (fun e => mkGrain t c.dst e.1.1 c.conn ((c.nextSeq + e.2) % 32) e.1.2.1 e.1.2.2))

/-- The first connection that satisfies p, changed and then pumped. -/
def pumpFirst (t : Site) (p : TxConn → Bool) (f : TxConn → TxConn) : List TxConn → List TxConn × List Grain
  | [] => ([], [])
  | c :: l => if p c then let (c', gs) := pumpConn t (f c)
                          (c' :: l, gs)
    else let (l', gs) := pumpFirst t p f l
         (c :: l', gs)

/-- The first connection that satisfies p, changed; what the window lets out goes to the router. -/
def State.onTx (s : State) (t : Site) (p : TxConn → Bool) (f : TxConn → TxConn) : State :=
  s.onNi t (fun n =>
    let (tx, gs) := pumpFirst t p f n.tx
    { n with tx := tx, outbox := n.outbox ++ gs })

/-- Connection c, opened by OPEN. -/
def isConn (c : Nat) (x : TxConn) : Bool := decide (x.conn = c) && decide (c < 0x3C0)

/-- A fresh sending end. -/
def newTx (conn : Nat) (dst : Site) : TxConn :=
  { conn := conn, dst := dst, kind := 0, igr := 0, items := 0, bytes := 0, recs := 0, ring := 0, woff := 0, nextSeq := 0,
    unacked := 0, sticky := false, closed := false, q := [] }

/-- A fresh receiving end; a pair context has no port, which the number 64 stands for. -/
def newRx (conn : Nat) (src : Site) (port : Nat) : RxConn :=
  { conn := conn, src := src, port := port, nextSeq := 0, held := [], closing := false }

/-- The pair context of a peer (R24): the model numbers it by its source (DESIGN CHOICE, notes/assumptions/22.md). -/
def pairConn (src : Site) : Nat := 0x3C0 + src.key % 64
def isPair (t peer : Site) (x : TxConn) : Bool := decide (x.conn = pairConn t) && decide (x.dst = peer)

/-- Grains handed to the pair context of a peer, which the NI opens at need. -/
def State.emitPair (s : State) (t peer : Site) (gs : List (Nat × Bool × Payload)) : State :=
  let s := if (s.ni t).tx.any (isPair t peer) then s
    else s.onNi t (fun n => { n with tx := n.tx ++ [newTx (pairConn t) peer] })
  s.onTx t (isPair t peer) (fun x => { x with q := x.q ++ gs })

/-- The window of a peer's pair context has room for everything handed to it. -/
def State.pairClear (s : State) (t peer : Site) : Bool :=
  (s.ni t).tx.all (fun x => !isPair t peer x || (x.q.isEmpty && decide (x.unacked < 32)))

def Ni.txOf (n : Ni) (c : Nat) : Option TxConn := n.tx.find? (isConn c)

/-- A connection open for sending (R225). -/
def Ni.openTx (n : Ni) (c : Nat) : Option TxConn := (n.txOf c).filter (fun x => !x.closed)

/-! ### Grains by kind -/

/-- The first grain at the local port of a kind, not a prism grain, that satisfies p. -/
def State.inKind (s : State) (t : Site) (k : Nat) (p : Grain → Bool) : Option (Grain × State) :=
  (takeFirst (fun g : Grain => decide (g.kind.toNat = k) && !isPrism g && p g) (s.ni t).inbox).map
    (fun e => (e.1, s.onNi t (fun n => { n with inbox := e.2 })))

/-- The first grain of a kind that has been delivered in order. -/
def State.readyKind (s : State) (t : Site) (k : Nat) : Option (Grain × State) :=
  (takeFirst (fun g : Grain => decide (g.kind.toNat = k)) (s.ni t).ready).map
    (fun e => (e.1, s.onNi t (fun n => { n with ready := e.2 })))

def anyGrain : Grain → Bool := fun _ => true

/-- A grain of a connection that an OPT unit relays: that unit takes it, not its NI (R322). -/
def relayed (t : Site) (g : Grain) : Bool :=
  ((t.lx == 12 && t.ly == 27) || (t.lx == 27 && t.ly == 12)) && decide (g.conn.toNat < 0x3C0)

/-- ESCN_RECEIVE (R32). The notice names the connection; every open one of that number with a grain unacknowledged becomes
sticky. -/
def execEscnReceive (t : Site) (s : State) : Out :=
  onSite t s (whenSome "ESCN_RECEIVE" (s.inKind t 11 (fun g => !relayed t g)) (fun (g, s) =>
    .next (s.onNi t (fun n => { n with tx := n.tx.map (fun x =>
      if decide (x.conn = g.conn.toNat) && decide (0 < x.unacked) then { x with sticky := true } else x) }))))

/-! ### Acceptance (R34, R226) -/

/-- The grains that follow in order from SEQ n, taken out of the reorder buffer. -/
def drainHeld : Nat → Nat → List Grain → List Grain × Nat × List Grain
  | 0, n, held => ([], n, held)
  | k + 1, n, held =>
    match takeFirst (fun g : Grain => decide (g.seq.toNat = n)) held with
    | some (g, rest) =>
      let (gs, m, h) := drainHeld k ((n + 1) % 32) rest
      (g :: gs, m, h)
    | none => ([], n, held)

/-- The receiving end a grain belongs to. -/
def rxFor (g : Grain) (r : RxConn) : Bool := decide (r.conn = g.conn.toNat) && decide (r.src = grainSrc g)

/-- KIND of the port matches the grain's (R226): a DATA grain at a STREAM or STEER port, a MSG grain at a RING port. -/
def State.kindMatches (s : State) (t : Site) (r : RxConn) (g : Grain) : Bool :=
  if 0x3C0 ≤ r.conn then decide (2 ≤ g.kind.toNat)
  else if s.portKind t r.port = 2 then decide (g.kind.toNat = 1) else decide (g.kind.toNat = 0)

/-- GRAIN_ACCEPT (R34, R226). The first sequenced grain at the local port that is no prism grain. -/
def execGrainAccept (t : Site) (s : State) : Out :=
  onSite t s (match takeFirst (fun g : Grain => kindSequenced g.kind.toNat && !isPrism g && !relayed t g) (s.ni t).inbox with
    | none => .refused (.notEnabled "GRAIN_ACCEPT")
    | some (g, rest) =>
      let s := s.onNi t (fun n => { n with inbox := rest })
      let s := if decide (0x3C0 ≤ g.conn.toNat) && !(s.ni t).rx.any (rxFor g) then
          s.onNi t (fun n => { n with rx := n.rx ++ [newRx g.conn.toNat (grainSrc g) 64] })
        else s
      match (s.ni t).rx.find? (rxFor g) with
      | none => .next (s.returnErr t g errAddr)
      | some r =>
        let (gs, next, held) := drainHeld 32 r.nextSeq (r.held ++ [g])
        let good := gs.filter (fun x => s.kindMatches t r x)
        let bad := gs.filter (fun x => !s.kindMatches t r x)
        let s := s.onNi t (fun n => { n with
          rx := updFirst (rxFor g) (fun x => { x with nextSeq := next, held := held }) n.rx
          ready := n.ready ++ good })
        let s := bad.foldl (fun s x => s.returnErr t x errAddr) s
        .next (if gs.isEmpty then s else s.niSend t (mkGrain t r.src 9 r.conn next true .ack)))

/-- Every grain before SEQ n is acknowledged. -/
def ackTo (n : Nat) (x : TxConn) : TxConn :=
  let base := (x.nextSeq + 32 * 2 - x.unacked) % 32
  let d := (n + 32 - base) % 32
  let d := if decide (d = 0) && decide (x.unacked = 32) then 32 else d
  if d ≤ x.unacked then { x with unacked := x.unacked - d, sticky := x.sticky && decide (d ≠ x.unacked) } else x

/-- ACK_RECEIVE (R32, R34). SEQ holds the next expected number. -/
def execAckReceive (t : Site) (s : State) : Out :=
  onSite t s (whenSome "ACK_RECEIVE" (s.inKind t 9 (fun g => !relayed t g)) (fun (g, s) =>
    .next (s.onTx t (fun x => decide (x.conn = g.conn.toNat) && decide (x.dst = grainSrc g)) (ackTo g.seq.toNat))))

/-! ### Opening (R222 to R224) -/

/-- The lowest free number at or above a, from 0x001 again after 0x3BF. -/
def lowestFree (inUse : Nat → Bool) (a : Nat) : Option Nat :=
  (((List.range 0x3C0).drop (max a 1)) ++ ((List.range a).drop 1)).find? (fun c => !inUse c)

/-- Where an OPEN goes (R223, R319, R321, R322), or the reason it is refused at the source. -/
def State.openTarget (s : State) (t : Site) (module vx vy : Nat) : Except Nat Site :=
  if module = 0 then (match s.peer t vx vy with | some u => .ok u | none => .error 4)
  else if module = 3 then .error 4
  else if s.fld rFacetCasc 1 0 = 0 then .error 5
  else match s.optFor t (module - 1) with
    | some o => .ok (optSite o)
    | none => .error 5

/-- The OPEN grain of a request. -/
def State.sendOpen (s : State) (t : Site) (o : OpenReq) : State :=
  s.niSend t (mkGrain t o.dst 6 o.conn 0 true (.openReq o.port o.vx o.vy o.tag))

/-- An OPEN begins: its tag, or the reason for which the source alone refuses it. -/
def State.startOpen (s : State) (t : Site) (module vx vy port : Nat) (entry : Option Nat) : Except Nat (Nat × State) :=
  match s.openTarget t module vx vy with
  | .error r => .error r
  | .ok dst => match lowestFree (s.ni t).inUse 1 with
    | none => .error 3
    | some c =>
      let o : OpenReq := { tag := (s.ni t).nextTag, conn := c, vx := vx, vy := vy, port := port, dst := dst, tries := 1,
                           entry := entry, stale := false }
      .ok (o.tag, (s.onNi t (fun n => { n with nextTag := o.tag + 1, opens := n.opens ++ [o] })).sendOpen t o)

/-- What rd receives on a refusal (R224). -/
def refusal (r : Nat) : Word := BitVec.ofNat 32 (0x80000000 + r)

/-- OPEN (R136, R223). -/
def execOpenConn (t : Site) (s : State) : Out :=
  instr "OPEN" 0x30 t (fun w => decide (fImm13 w / 64 = 0)) (fun w s =>
    let a := (s.core t).get (fRa w)
    match s.startOpen t (Word.field a 31 30) (Word.field a 8 0) (Word.field a 24 16) (fImm13 w % 64) none with
    | .error r => effReg t s (fRd w) (refusal r)
    | .ok (tag, s) => effBlock t s (.openConn tag (fRd w))) s

/-- The extent of a port lies outside scratchpad, or its RING fields are out of range (R221). -/
def State.portBad (s : State) (t : Site) (p : Nat) : Bool :=
  let k := s.portKind t p
  if k = 2 then
    decide (4 < s.cfld t (aNiPort p) 29 27) || decide (s.cfld t (aNiPort p) 38 30 ≠ 0) ||
      decide (s.storeEnd t < s.portBase t p + s.ringSize t p)
  else decide (k = 0) || decide (s.storeEnd t < s.portBase t p + s.portSlots t p * s.pitch t p)

/-- Items of spill that a port has: SPQ, where it has a region (R238). -/
def State.spillItems (s : State) (t : Site) (p : Nat) : Nat := if (s.spillRegion t p).isSome then s.portSpq t p else 0

/-- The answer to an OPEN grain (R221, R223, R224). -/
def State.openAnswer (s : State) (t : Site) (g : Grain) (port tag : Nat) : OpenAnswer :=
  let n := s.ni t
  let n := if grainSrc g = t then { n with opens := n.opens.filter (fun o => decide (o.tag ≠ tag)) } else n
  if s.portBad t port then .refuse 1
  else if (n.port port).bound.isSome then .refuse 2
  else if n.inUse g.conn.toNat then (match lowestFree n.inUse g.conn.toNat with | some c => .renumber c | none => .refuse 3)
  else if s.portKind t port = 2 then .accept 2 0 0 (s.ringSize t port) 64
  else .accept (s.portKind t port) (s.portIgr t port)
    (s.portSlots t port + if s.cfld t (aNiPort port) 61 61 = 1 then s.spillItems t port else 0) 0 0

/-- A port bound to a connection. -/
def State.bind (s : State) (t : Site) (port conn : Nat) (src : Site) : State :=
  s.onNi t (fun n => { n.setPort port { n.port port with bound := some conn } with rx := n.rx ++ [newRx conn src port] })

/-- OPEN_REQUEST (R223). -/
def execOpenRequest (t : Site) (s : State) : Out :=
  onTile t s (whenSome "OPEN_REQUEST" (s.inKind t 6 anyGrain) (fun (g, s) =>
    match g.body with
    | .openReq port _ _ tag =>
      let a := s.openAnswer t g (port % 64) tag
      let s := match a with | .accept .. => s.bind t (port % 64) g.conn.toNat (grainSrc g) | _ => s
      .next (s.niSend t (mkGrain t (grainSrc g) 7 g.conn.toNat 0 true (.openR tag a)))
    | _ => .next s))

/-- The end of an OPEN: rd, or the RESULT of a frame's open list, is written (R223, R249). A stale request writes nothing. -/
def State.openResult (s : State) (t : Site) (o : OpenReq) (conn : Except Nat Nat) : State :=
  let s := s.onNi t (fun n => { n with opens := n.opens.filter (fun x => decide (x.tag ≠ o.tag)) })
  if o.stale then s
  else match o.entry with
    | none => (match (s.core t).blocked with
      | some (.openConn tag rd) =>
        if tag = o.tag then s.retire t (fun c => c.put rd (match conn with | .ok c => BitVec.ofNat 32 c | .error r => refusal r))
        else s
      | _ => s)
    | some a =>
      let v := match conn with | .ok c => c | .error r => 0x8000 + r
      (s.eccRead t a 2).1.setBytes (storeAddr t a) (leBytes 2 v)

/-- OPENR_RECEIVE (R134, R223). -/
def execOpenrReceive (t : Site) (s : State) : Out :=
  onTile t s (whenSome "OPENR_RECEIVE" (s.inKind t 7 anyGrain) (fun (g, s) =>
    match g.body with
    | .openR tag ans =>
      match (s.ni t).opens.find? (fun o => decide (o.tag = tag)) with
      | none => .next s
      | some o => match ans with
        | .accept k igr items bytes recs =>
          let c : TxConn := { newTx o.conn o.dst with kind := k, igr := igr, items := items, bytes := bytes, recs := recs,
                                                      ring := bytes, closed := o.stale }
          .next ((s.onNi t (fun n => { n with tx := n.tx ++ [c] })).openResult t o (.ok o.conn))
        | .refuse r => .next (s.openResult t o (.error r))
        | .renumber c =>
          if o.stale then .next (s.openResult t o (.error 3))
          else if o.tries = 8 then .next (s.openResult t o (.error 3))
          else match lowestFree (fun x => decide (x ≠ o.conn) && (s.ni t).inUse x) c with
            | none => .next (s.openResult t o (.error 3))
            | some c =>
              let o' := { o with conn := c, tries := o.tries + 1 }
              let upd := updFirst (fun x : OpenReq => decide (x.tag = tag)) (fun _ => o')
              .next ((s.onNi t (fun n => { n with opens := upd n.opens })).sendOpen t o')
    | _ => .next s))

/-! ### Closing (R225) -/

/-- The connection counts as closed at the sender; its number stays in use until the CLOSE grain goes. -/
def State.closeTx (s : State) (t : Site) (c : Nat) : State :=
  s.onNi t (fun n => { n with tx := n.tx.map (fun x => if isConn c x then { x with closed := true } else x) })

/-- CLOSE (R136, R225). -/
def execClose (t : Site) (s : State) : Out :=
  instr "CLOSE" 0x31 t (fun w => decide (fRd w = 0) && decide (fRb w = 0) && decide (fFn w = 0)) (fun w s =>
    effNext t (s.closeTx t ((s.core t).get (fRa w)).toNat)) s

/-- The CLOSE grain of a connection goes, and the number is free at the source. -/
def State.sendClose (s : State) (t : Site) (x : TxConn) : State :=
  (s.onNi t (fun n => { n with tx := n.tx.filter (fun y => !isConn x.conn y) })).niSend t
    (mkGrain t x.dst 8 x.conn 0 true .close)

/-- CLOSE_GRAIN_SEND (R225). -/
def execCloseGrainSend (t : Site) (conn : Nat) (s : State) : Out :=
  onTile t s (whenSome "CLOSE_GRAIN_SEND" ((s.ni t).txOf conn) (fun x =>
    when_ "CLOSE_GRAIN_SEND" (x.closed && decide (x.unacked = 0) && x.q.isEmpty) (s.sendClose t x)))

/-- CLOSE_GRAIN_RECEIVE (R225). -/
def execCloseGrainReceive (t : Site) (s : State) : Out :=
  onTile t s (whenSome "CLOSE_GRAIN_RECEIVE" (s.inKind t 8 anyGrain) (fun (g, s) =>
    match (s.ni t).rx.find? (rxFor g) with
    | none => .next s
    | some r =>
      .next ((s.onNi t (fun n => { n with rx := updFirst (rxFor g) (fun x => { x with closing := true }) n.rx })).settleClose
        t r.port)))

/-! ### Remote accesses (R42, R43, R232, R233) -/

/-- Where a remote access lands at the site it has reached. -/
inductive Window where
  | store (off : Nat)
  | loam (off : Nat)
  | spill (off : Nat)
  deriving DecidableEq, Repr

/-- A buffer site of the facets (R313). -/
def isFacetSpill (t : Site) : Bool := (t.lx == 12 && t.ly == 32) || (t.lx == 27 && t.ly == 7)

/-- The window of a request of n bytes, or the code that refuses it (R43, R60, R313). -/
def State.window (s : State) (t : Site) (a n : Nat) : Except Nat Window :=
  if decide (storeAddr t 0 ≤ a) && decide (a < storeAddr t 0 + 0x80000) then
    let o := a - storeAddr t 0
    if !t.isTile then .error errAddr
    else if !decide (o < 0x70000) then .error errPerm
    else if s.storeEnd t < o + n then .error errAddr else .ok (.store o)
  else if decide (loamAddr t 0 ≤ a) && decide (a < loamAddr t 0 + 0x8000000) then
    let o := a - loamAddr t 0
    if !t.isTile || !decide (o + n ≤ 64 * Config.loamLines) then .error errAddr else .ok (.loam o)
  else if decide (spillAddr t 0 ≤ a) && decide (a < spillAddr t 0 + 0x100000) then
    let o := a - spillAddr t 0
    if !t.isService then .error errAddr
    else if !t.isSpill || isFacetSpill t then .error errPerm
    else if !decide (o + n ≤ 0x100000) then .error errAddr else .ok (.spill o)
  else .error errAddr

/-- REMOTE_WRITE (R43, R76, R232): the WR grain's 32 B, and WRA to its source. -/
def execRemoteWrite (t : Site) (s : State) : Out :=
  onSite t s (whenSome "REMOTE_WRITE" (s.readyKind t 2) (fun (g, s) =>
    match g.body with
    | .wr a bs =>
      match s.window t a bs.length with
      | .error e => .next (s.returnErr t g e)
      | .ok w =>
        let s := match w with
          | .store o => s.writeStore t o bs (s.cfld t aNiCfg 47 44)
          | .loam o => s.loamPut t o bs
          | .spill o => s.setBytes (spillAddr t o) bs
        .next (s.emitPair t (grainSrc g) [(5, true, .wra)])
    | _ => .next s))

/-- REMOTE_READ (R43, R48, R78): 64 B in two RDR grains, or ERR. -/
def execRemoteRead (t : Site) (s : State) : Out :=
  onSite t s (whenSome "REMOTE_READ" (s.readyKind t 3) (fun (g, s) =>
    match g.body with
    | .rd a =>
      match s.window t a 64 with
      | .error e => .next (s.returnErr t g e)
      | .ok w =>
        let r := match w with
          | .store o => let (bs, s, ue) := s.readStore t o 64
                        (if ue then none else some bs, s)
          | .loam o => s.loamBytes t o 64
          | .spill o => (some (s.bytes (spillAddr t o) 64), s)
        match r with
        | (none, s) => .next (s.returnErr t g errAddr)
        | (some bs, s) => .next (s.emitPair t (grainSrc g) [(4, false, .data (bs.take 32)), (4, true, .data (bs.drop 32))])
    | _ => .next s))

/-- The command of the NI queue that now runs. -/
def State.niFlight (s : State) (t : Site) : Option InFlight := (s.flightOf t 6).filter (fun f => !f.done)

/-- A PUT or a GET ends when every line it has sent or asked for is answered. -/
def settleRemote (f : InFlight) : InFlight :=
  let all := Desc.field f.entry.desc 57 45 + 1
  match f.work with
  | .put sent ans => { f with done := decide (ans = 2 * sent) && (f.fault.isSome || decide (sent = all)) }
  | .get asked got => { f with done := decide (got = 2 * asked) && (f.fault.isSome || decide (asked = all)) }
  | _ => f

/-- PUT and GET: the remote offset of a line. -/
def remoteOff (d : Desc) (i : Nat) : Nat := 64 * Desc.field d 97 77 + 64 * i

/-- WRA_RECEIVE (R233). -/
def execWraReceive (t : Site) (s : State) : Out :=
  onTile t s (whenSome "WRA_RECEIVE" (s.readyKind t 5) (fun (_, s) =>
    .next (s.onFlight t 6 (fun f => match f.work with
      | .put sent ans => settleRemote { f with
          work := .put sent (ans + 1), progress := if f.fault.isSome then f.progress else (ans + 1) / 2 }
      | _ => f))))

/-- RDR_RECEIVE (R232, R233): 32 B into the store under the GET's GEN. -/
def execRdrReceive (t : Site) (s : State) : Out :=
  onTile t s (whenSome "RDR_RECEIVE" (s.readyKind t 4) (fun (g, s) =>
    match s.niFlight t with
    | none => .next s
    | some f => match f.work, g.body with
      | .get asked got, .data bs =>
        let d := f.entry.desc
        let s := if f.fault.isSome then s else s.writeStore t (rowOff (Desc.field d 44 32) + 32 * got) bs (dGen d)
        .next (s.onFlight t 6 (fun f => settleRemote { f with
          work := .get asked (got + 1), progress := if f.fault.isSome then f.progress else (got + 1) / 2 }))
      | _, _ => .next s))

/-- A PUT or GET that an ERR grain has met (R233). -/
def remoteErr (f : InFlight) : InFlight :=
  let d := f.entry.desc
  let fault := fun line : Nat => some (f.fault.getD { det ecAddr 7 (remoteOff d line) with progress := f.progress })
  match f.work with
  | .put sent ans => settleRemote { f with fault := fault (ans / 2), work := .put sent (ans + 1) }
  | .get asked got => settleRemote { f with fault := fault (got / 2), work := .get asked (got + 2) }
  | _ => f

/-- The reason of R224 for an ERR code. -/
def openReason (code : Nat) : Nat :=
  if decide (code = errNoroute) || decide (code = errLinkfail) then 5 else if code = errFenced then 6 else 7

/-- A connection whose grain of this SEQ was refused counts as closed (R226). The ERR answers that grain and those before it, as an
ACK would (DEDUCED, notes/assumptions/95.md). -/
def State.refusedTx (s : State) (t : Site) (c seq : Nat) : State :=
  s.onTx t (isConn c) (fun x => { ackTo ((seq + 1) % 32) x with closed := true })

/-- ERR_RECEIVE (R224, R226, R233, R423). -/
def execErrReceive (t : Site) (s : State) : Out :=
  onTile t s (whenSome "ERR_RECEIVE" (s.inKind t 13 anyGrain) (fun (g, s) =>
    match g.body with
    | .err seq conn kind code =>
      let running := match s.plotOf t with | some p => s.running p | none => false
      let s := if decide (code = errLinkfail) && running then s.report t .linkErr else s
      if kind = 6 then
        match (s.ni t).opens.find? (fun o => decide (o.conn = conn)) with
        | some o => .next (s.openResult t o (.error (openReason code)))
        | none => .next s
      else if decide (kind = 2) || decide (kind = 3) then
        .next (s.onFlight t 6 (fun f => if f.done then f else remoteErr f))
      else if decide (kind ≤ 1) && decide (conn < 0x3C0) then .next (s.refusedTx t conn seq)
      else .next s
    | _ => .next s))

/-! ### Steward service (R43, R72) -/

/-- SVC_ACCESS (R43). What a steward reads is held as the stewards' latest answer. Of a service site that is no spill site
the spec lays out no window: a read answers a free value, a write changes nothing the spec describes. -/
def execSvcAccess (t : Site) (s : State) : Out :=
  onSite t s (whenSome "SVC_ACCESS" (s.inKind t 14 anyGrain) (fun (g, s) =>
    let a := match g.body with | .svcRead a => a | .svcWrite a _ => a | _ => 0
    if !(grainSrc g).isSteward then .next (s.returnErr t g errPerm)
    else if t.isTile then
      let o := a - storeAddr t 0
      if !(decide (storeAddr t 0 ≤ a) && decide (o < 0x80000)) then .next (s.returnErr t g errAddr)
      else match ctrlReg o with
        | none => .next (s.returnErr t g errAddr)
        | some (_, base) => match g.body with
          | .svcWrite _ v => .next (s.ctrlWrite t base v)
          | _ => .next { s with queried := s.ctrlRead t base }
    else match g.body with
      | .svcWrite .. => .next s
      | _ => let (v, s) := s.takeFree
             .next { s with queried := v }))

end Sys2Proof.Machine
end

