-- ==== Sys2Proof/Machine/NiStream.lean ====
section
/-!
DEFINITION. Streams, their receive ports and spill (R227 to R232, R238, R239), remote transfers of the NI queue (R233), and
the steering units (R234, R235).
-/
namespace Sys2Proof.Machine

/-! ### Items -/

def pitchOfItem (igr : Nat) : Nat := 64 * ((32 * igr + 63) / 64)

/-- An item's bytes as its grains, LAST on the final one (R227). -/
def itemGrains (bs : List Byte) : List (Nat × Bool × Payload) :=
  (List.range (bs.length / 32)).map (fun i => (0, decide (i + 1 = bs.length / 32), .data (takeAt bs (32 * i) 32)))

/-- One item handed to a connection, and its credit taken. -/
def State.sendItem (s : State) (t : Site) (c : Nat) (bs : List Byte) : State :=
  s.onTx t (isConn c) (fun x => { x with items := x.items - 1, q := x.q ++ itemGrains bs })

/-- A connection has credit for an item, and the window holds nothing back. -/
def TxConn.itemRoom (x : TxConn) : Bool := decide (0 < x.items) && x.q.isEmpty

/-- Bytes that a sender reads of which the spec says no fault: a word in error reads a free value (R48, R53,
DESIGN CHOICE, notes/assumptions/23.md). -/
def State.readAny (s : State) (t : Site) (off n : Nat) : List Byte × State :=
  let bad := (wordsOf off n).filter (fun w => (s.firstUe t (8 * w) 8).isSome)
  let (bs, s, _) := s.readStore t off n
  let (fs, s) := bad.foldl (fun (a : List (Nat × List Byte) × State) w =>
    let (v, s) := a.2.takeFree
    ((w, leBytes 8 v.toNat) :: a.1, s)) ([], s)
  ((List.range n).map (fun i => match fs.find? (fun e => decide (e.1 = (off + i) / 8)) with
    | some e => e.2.getD ((off + i) % 8) 0
    | none => bs.getD i 0), s)

/-! ### SENDS (R228 to R230) -/

def sdIgr (d : Desc) : Nat := Desc.field d 73 67 + 1
def sdItems (d : Desc) : Nat := Desc.field d 66 56 + 1
def sdConn (d : Desc) : Nat := Desc.field d 54 45
def sdA (d : Desc) : Nat := rowOff (Desc.field d 44 32)
/-- The header of every NI descriptor: FA, FC and RND at 0 (R228). -/
def niHeaderBad (d : Desc) : Bool := headerBad d 6 3 || decide (dFA d ≠ 0) || decide (dFC d ≠ 0) || decide (dRnd d ≠ 0)

/-- A connection on which SENDS cannot send (R229). -/
def State.sendsConnBad (s : State) (t : Site) (c : Nat) : Bool :=
  match (s.ni t).openTx c with | some x => decide (x.kind = 2) | none => true

/-- The checks of a SENDS. CONN stands beside DESC, before the shape that depends on it (DEDUCED, notes/assumptions/24.md). -/
def sendsCheck (s : State) (t : Site) (d : Desc) : Option Detected :=
  let c := sdConn d
  firstFail ([descFault (niHeaderBad d || decide (Desc.field d 127 74 ≠ 0) || decide (Desc.field d 55 55 ≠ 0)),
    (s.sendsConnBad t c, det ecConn 7 c),
    (decide (((s.ni t).openTx c).map (fun x => x.igr) ≠ some (sdIgr d)), det ecShape 7 c)] ++
    addrChecks s t [(0, sdA d, sdItems d * pitchOfItem (sdIgr d))])

/-- The next item of a SENDS: it is read and handed over when the connection has room, else the SENDS waits. -/
def sendsNext (t : Site) (s : State) (f : InFlight) (k : Nat) : State × InFlight :=
  let d := f.entry.desc
  let c := sdConn d
  if s.sendsConnBad t c then (s, { f with fault := some (det ecConn 7 c), done := true, progress := k })
  else if s.twinStall t || !(((s.ni t).openTx c).map TxConn.itemRoom).getD false then (s, f)
  else
    let off := sdA d + k * pitchOfItem (sdIgr d)
    let n := 32 * sdIgr d
    let s := s.genCheck t off n (dGen d) 6
    if s.badAt t off n then
      ((s.eccRead t off n).1, { f with fault := some (det ecStoreUe 0 (((s.firstUe t off n).getD 0) * 8)), done := true, progress := k })
    else
      let (bs, s, _) := s.readStore t off n
      let s := (s.mirrorPoint t 4 bs).sendItem t c bs
      (s, { f with work := .sends (k + 1), progress := k + 1, done := decide (k + 1 = sdItems d) })

def sendsOp (t : Site) : EngineOp :=
  { check := fun s d => sendsCheck s t d, pre := noPre, run := fun s f _ => sendsNext t s { f with work := .sends 0 } 0 }

/-- SENDS (R230): the command starts, or sends its next item. A reserved OPC starts here and faults with DESC. -/
def execSends (t : Site) (s : State) : Out :=
  match s.niFlight t with
  | some f => onTile t s (match f.work with
    | .sends k =>
      let (s', f') := sendsNext t s f k
      when_ "SENDS" (decide (f' ≠ f)) (s'.onFlight t 6 (fun _ => f'))
    | _ => .refused (.notEnabled "SENDS"))
  | none => engine "SENDS" 6 t (fun o => decide (o = 0) || decide (4 ≤ o)) (sendsOp t) s

/-! ### RECV (R229, R231) -/

def rcCount (d : Desc) : Nat := Desc.field d 61 50
def rcFree (d : Desc) : Nat := Desc.field d 49 38
def rcPort (d : Desc) : Nat := Desc.field d 37 32

/-- Items that a port can hold (R229). -/
def State.portHolds (s : State) (t : Site) (p : Nat) : Nat :=
  s.portSlots t p + if decide (s.cfld t (aNiPort p) 61 61 = 1) || (s.portRt t p).grant then s.spillItems t p else 0

def recvCheck (s : State) (t : Site) (d : Desc) : Option Detected :=
  let p := rcPort d
  let r := s.portRt t p
  firstFail [descFault (niHeaderBad d || decide (Desc.field d 127 62 ≠ 0) || decide (dGen d ≠ 0)),
    (decide (s.portKind t p ≠ 1), det ecDesc 7 p),
    (decide (r.arrived - r.released < rcFree d) ||
      decide (s.portHolds t p < r.target + rcCount d - (r.released + rcFree d)), det ecShape 7 p)]

/-- A RECV whose port has reached its target completes. -/
def State.recvDone (s : State) (t : Site) : State :=
  s.onFlight t 6 (fun f => match f.work with
    | .recv => { f with done := f.done || decide ((s.portRt t (rcPort f.entry.desc)).target ≤ (s.portRt t (rcPort f.entry.desc)).arrived) }
    | _ => f)

def recvOp (t : Site) : EngineOp :=
  { check := fun s d => recvCheck s t d, pre := noPre,
    run := fun s f d =>
      let p := rcPort d
      let s := (s.releaseItems t p (rcFree d)).onPort t p (fun r => { r with target := r.target + rcCount d })
      (s, { f with work := .recv, done := decide ((s.portRt t p).target ≤ (s.portRt t p).arrived) }) }

/-- RECV (R231). -/
def execRecv (t : Site) (s : State) : Out := engine "RECV" 6 t (fun o => decide (o = 1)) (recvOp t) s

/-! ### PUT and GET (R233) -/

def rmLines (d : Desc) : Nat := Desc.field d 57 45 + 1
def rmA (d : Desc) : Nat := rowOff (Desc.field d 44 32)
def rmLoam (d : Desc) : Bool := decide (Desc.field d 76 76 = 1)
def rmPeer (s : State) (t : Site) (d : Desc) : Option Site := s.peer t (Desc.field d 66 58) (Desc.field d 75 67)
def rmAddr (d : Desc) (u : Site) (i : Nat) : Nat := if rmLoam d then loamAddr u (remoteOff d i) else storeAddr u (remoteOff d i)

def remoteCheck (s : State) (t : Site) (d : Desc) : Option Detected :=
  let limit := if rmLoam d then 64 * Config.loamLines else s.storeEnd t
  firstFail ([descFault (niHeaderBad d || decide (Desc.field d 127 98 ≠ 0))] ++
    addrChecks s t [(0, rmA d, 64 * rmLines d)] ++
    [((rmPeer s t d).isNone || decide (limit < remoteOff d 0 + 64 * rmLines d), det ecAddr 7 (remoteOff d 0))])

/-- The next line of a PUT: two WR grains, when the window allows. -/
def putNext (t : Site) (s : State) (f : InFlight) : State × InFlight :=
  let d := f.entry.desc
  match f.work, rmPeer s t d with
  | .put sent ans, some u =>
    if f.fault.isSome || decide (sent = rmLines d) || !s.pairClear t u || s.twinStall t then (s, f)
    else
      let off := rmA d + 64 * sent
      let s := s.genCheck t off 64 (dGen d) 6
      if s.badAt t off 64 then
        ((s.eccRead t off 64).1, settleRemote { f with fault := some (det ecStoreUe 0 (((s.firstUe t off 64).getD 0) * 8)) })
      else
        let (bs, s, _) := s.readStore t off 64
        let a := rmAddr d u sent
        ((s.mirrorPoint t 3 bs).emitPair t u [(2, false, .wr a (bs.take 32)), (2, true, .wr (a + 32) (bs.drop 32))],
          { f with work := .put (sent + 1) ans })
  | _, _ => (s, f)

/-- The next line of a GET: one RD grain, when the window allows (DEDUCED, notes/assumptions/25.md). -/
def getNext (t : Site) (s : State) (f : InFlight) : State × InFlight :=
  let d := f.entry.desc
  match f.work, rmPeer s t d with
  | .get asked got, some u =>
    if f.fault.isSome || decide (asked = rmLines d) || !s.pairClear t u then (s, f)
    else (s.emitPair t u [(3, true, .rd (rmAddr d u asked))], { f with work := .get (asked + 1) got })
  | _, _ => (s, f)

def putOp (t : Site) : EngineOp :=
  { check := fun s d => remoteCheck s t d, pre := noPre, run := fun s f _ => putNext t s { f with work := .put 0 0 } }
def getOp (t : Site) : EngineOp :=
  { check := fun s d => remoteCheck s t d, pre := noPre, run := fun s f _ => getNext t s { f with work := .get 0 0 } }

/-- PUT (R233): the command starts, or sends its next line. -/
def execPut (t : Site) (s : State) : Out :=
  match s.niFlight t with
  | some f => onTile t s (
      let (s', f') := putNext t s f
      when_ "PUT" (decide (f' ≠ f)) (s'.onFlight t 6 (fun _ => f')))
  | none => engine "PUT" 6 t (fun o => decide (o = 2)) (putOp t) s

/-- GET (R233): the command starts, or asks for its next line. -/
def execGet (t : Site) (s : State) : Out :=
  match s.niFlight t with
  | some f => onTile t s (
      let (s', f') := getNext t s f
      when_ "GET" (decide (f' ≠ f)) (s'.onFlight t 6 (fun _ => f')))
  | none => engine "GET" 6 t (fun o => decide (o = 3)) (getOp t) s

/-! ### Arrival (R231, R239) -/

/-- The first run of grains of kind k, up to one with LAST, that the NI has in order: its connection, the grains, the rest. -/
def wholeRun (k : Nat) (l : List Grain) : Option (Nat × List Grain × List Grain) :=
  match l.find? (fun g => decide (g.kind.toNat = k) && g.last) with
  | none => none
  | some g =>
    let mine := fun x : Grain => decide (x.kind = g.kind) && decide (x.conn = g.conn)
    let run := (l.filter mine).takeWhile (fun x => !x.last) ++ [g]
    let rec drop : Nat → List Grain → List Grain
      | _, [] => []
      | 0, l => l
      | n + 1, x :: l => if mine x then drop n l else x :: drop (n + 1) l
    some (g.conn.toNat, run, drop run.length l)

def grainBytes (g : Grain) : List Byte := match g.body with | .data bs => bs | _ => []

def steerMode (s : State) (t : Site) (u : Nat) : Nat := s.cfld t (aNiSteer u) 63 61
def steerIn0 (s : State) (t : Site) (u : Nat) : Nat := s.cfld t (aNiSteer u) 60 55
def steerIn1 (s : State) (t : Site) (u : Nat) : Nat := s.cfld t (aNiSteer u) 54 49
def steerTok (s : State) (t : Site) (u : Nat) : Nat := s.cfld t (aNiSteer u) 48 43
def State.steerRt (s : State) (t : Site) (u : Nat) : SteerRt := mapGet (fun _ => SteerRt.reset) (s.ni t).steer u
def State.onSteer (s : State) (t : Site) (u : Nat) (f : SteerRt → SteerRt) : State :=
  s.onNi t (fun n => { n with steer := mapSet (fun _ => SteerRt.reset) n.steer u (f (s.steerRt t u)) })

/-- The parts an entry has of the items that have arrived in index order: item i of an input sets its bit, taking a free
entry where none has index i (R235). -/
def pairInput (have_ : PairEnt → Bool) (set : PairEnt → PairEnt) : Nat → Nat → List PairEnt → List PairEnt
  | 0, _, es => es
  | n + 1, i, es =>
    if es.any (fun e => decide (e.idx = i)) then
      pairInput have_ set n (i + 1) (es.map (fun e => if e.idx = i then set e else e))
    else if es.length < 8 then
      pairInput have_ set n (i + 1) (es ++ [set { idx := i, hasA := false, hasB := false, hasT := false }])
    else es

/-- The pairing queue of a SELECT or GATE unit takes what its ports hold (R235). -/
def State.pairUp (s : State) (t : Site) (u : Nat) : State :=
  let m := steerMode s t u
  if decide (m = 3) || decide (m = 4) then
    let input := fun (p : Nat) (has : PairEnt → Bool) (set : PairEnt → PairEnt) (es : List PairEnt) =>
      let r := s.portRt t p
      let held := (es.filter has).length
      if s.portKind t p ≠ 3 then es else pairInput has set (r.arrived - r.released - held) (r.released + held) es
    s.onSteer t u (fun x =>
      let es := input (steerIn0 s t u) (fun e => e.hasA) (fun e => { e with hasA := true }) x.pairs
      let es := if m = 3 then input (steerIn1 s t u) (fun e => e.hasB) (fun e => { e with hasB := true }) es else es
      let es := input (steerTok s t u) (fun e => e.hasT) (fun e => { e with hasT := true }) es
      { x with pairs := es })
  else s

/-- An item stands in its slot: a RECV may be complete, and the steering units take note. -/
def State.itemIn (s : State) (t : Site) : State :=
  (List.range Config.steerUnits).foldl (fun s u => s.pairUp t u) (s.recvDone t)

/-- MERGE notes which input an item has come to (R234). -/
def State.noteMerge (s : State) (t : Site) (p : Nat) : State :=
  (List.range Config.steerUnits).foldl (fun s u =>
    if decide (steerMode s t u = 1) then
      if p = steerIn0 s t u then s.onSteer t u (fun x => { x with order := x.order ++ [0] })
      else if p = steerIn1 s t u then s.onSteer t u (fun x => { x with order := x.order ++ [1] })
      else s
    else s) s

/-- Store offset of the slot of item i of a port (R220). -/
def State.slotOff (s : State) (t : Site) (p i : Nat) : Nat := s.portBase t p + i % 2 ^ 32 % s.portSlots t p * s.pitch t p

/-- ITEM_ARRIVAL (R231, R232, R239). -/
def execItemArrival (t : Site) (s : State) : Out :=
  onTile t s (whenSome "ITEM_ARRIVAL" (wholeRun 0 (s.ni t).ready) (fun (c, run, rest) =>
    match (s.ni t).rx.find? (fun r => decide (r.conn = c)) with
    | none => .next (s.onNi t (fun n => { n with ready := rest }))
    | some r =>
      let p := r.port
      let rt := s.portRt t p
      let bs := run.flatMap grainBytes
      let s := s.onNi t (fun n => { n with ready := rest })
      if decide (rt.came = rt.arrived) && decide (rt.came - rt.released < s.portSlots t p) then
        let s := s.writeStore t (s.slotOff t p rt.came) bs (s.cfld t (aNiPort p) 59 56)
        let s := s.onPort t p (fun x => { x with came := x.came + 1, arrived := x.arrived + 1 })
        .next ((s.noteMerge t p).itemIn t)
      else match s.spillRegion t p with
        | some (u, off) =>
          when_ "ITEM_ARRIVAL" (decide (rt.came - rt.arrived < s.portSpq t p)) (
            let s := s.setBytes (spillAddr u (off + rt.came % s.portSpq t p * s.pitch t p)) bs
            (s.onPort t p (fun x => { x with came := x.came + 1 })).noteMerge t p)
        | none => .refused (.notEnabled "ITEM_ARRIVAL")))

/-- SPILL_READBACK_DONE (R239, R418): the oldest spilled item is written into the slot that a release has freed. -/
def execSpillReadbackDone (t : Site) (port : Nat) (s : State) : Out :=
  onTile t s (onUnit (decide (port < Config.tilePorts)) (
    let rt := s.portRt t port
    match s.spillRegion t port with
    | none => .refused (.notEnabled "SPILL_READBACK_DONE")
    | some (u, off) =>
      when_ "SPILL_READBACK_DONE" (decide (rt.arrived < rt.came) && decide (rt.arrived - rt.released < s.portSlots t port)) (
        let bs := s.bytes (spillAddr u (off + rt.arrived % s.portSpq t port * s.pitch t port)) (32 * s.portIgr t port)
        let s := s.writeStore t (s.slotOff t port rt.arrived) bs (s.cfld t (aNiPort port) 59 56)
        (s.onPort t port (fun x => { x with arrived := x.arrived + 1 })).itemIn t)))

/-- STREAM_CREDIT (R245). -/
def execStreamCredit (t : Site) (s : State) : Out :=
  onTile t s (whenSome "STREAM_CREDIT"
    (s.inKind t 10 (fun g => match g.body with | .streamCred _ => true | _ => false)) (fun (g, s) =>
      match g.body with
      | .streamCred n => .next (s.onTx t (fun x => decide (x.conn = g.conn.toNat) && decide (x.dst = grainSrc g))
          (fun x => { x with items := x.items + n }))
      | _ => .next s))

/-! ### Steering units (R234, R235) -/

/-- Output o of a unit. -/
def steerOut (s : State) (t : Site) (u o : Nat) : Nat := s.cfld t (aNiSteer u) (10 * o + 9) (10 * o)

/-- A connection can take an item now. -/
def State.outReady (s : State) (t : Site) (c : Nat) : Bool :=
  (((s.ni t).openTx c).map TxConn.itemRoom).getD false && !s.twinStall t

/-- The oldest item that a port holds, read from its slot. -/
def State.slotItem (s : State) (t : Site) (p i : Nat) : List Byte × State :=
  s.readAny t (s.slotOff t p i) (32 * s.portIgr t p)

/-- A port of kind STEER holds an item that has arrived. -/
def State.holdsItem (s : State) (t : Site) (p : Nat) : Bool :=
  decide (s.portKind t p = 3) && decide ((s.portRt t p).released < (s.portRt t p).arrived)

/-- The input that MERGE takes next: items that came before the unit ran go first, IN0 before IN1 (DEDUCED, notes/assumptions/26.md). -/
def State.mergeNext (s : State) (t : Site) (u : Nat) : Nat :=
  let r := s.steerRt t u
  let older := fun (p k : Nat) =>
    decide ((r.order.filter (fun x => decide (x = k))).length < (s.portRt t p).came - (s.portRt t p).released)
  if older (steerIn0 s t u) 0 then 0 else if older (steerIn1 s t u) 1 then 1 else r.order.headD 0

/-- STEER_MERGE (R234). -/
def execSteerMerge (t : Site) (u : Nat) (s : State) : Out :=
  onTile t s (onUnit (decide (u < Config.steerUnits)) (
    let k := s.mergeNext t u
    let p := if k = 0 then steerIn0 s t u else steerIn1 s t u
    let c := steerOut s t u 0
    when_ "STEER_MERGE" (decide (steerMode s t u = 1) && s.maySend t && s.holdsItem t p && s.outReady t c) (
      let older := decide (((s.steerRt t u).order.filter (fun x => decide (x = k))).length <
        (s.portRt t p).came - (s.portRt t p).released)
      let (bs, s) := s.slotItem t p (s.portRt t p).released
      let s := (s.sendItem t c bs).releaseItems t p 1
      if older then s else s.onSteer t u (fun x => { x with order := x.order.drop 1 }))))

/-- STEER_SPLIT (R234). -/
def execSteerSplit (t : Site) (u : Nat) (s : State) : Out :=
  onTile t s (onUnit (decide (u < Config.steerUnits)) (
    let p := steerIn0 s t u
    let outs := ((List.range 4).map (steerOut s t u)).filter (fun c => decide (c ≠ 0))
    when_ "STEER_SPLIT" (decide (steerMode s t u = 2) && s.maySend t && s.holdsItem t p && outs.all (fun c => s.outReady t c)) (
      let (bs, s) := s.slotItem t p (s.portRt t p).released
      (outs.foldl (fun s c => s.sendItem t c bs) s).releaseItems t p 1)))

/-- The lowest entry of a pairing queue, when it is complete. -/
def lowestComplete (needB : Bool) (es : List PairEnt) : Option PairEnt :=
  let low := es.foldl (fun (b : Option PairEnt) e => match b with
    | none => some e
    | some x => if e.idx < x.idx then some e else some x) none
  low.filter (fun e => e.hasA && e.hasT && (e.hasB || !needB))

/-- The token of item i: byte 0 of its first grain is non-zero (R234). -/
def State.token (s : State) (t : Site) (u i : Nat) : Bool × State :=
  let (bs, s) := s.readAny t (s.slotOff t (steerTok s t u) i) 1
  (decide (bs.getD 0 0 ≠ 0), s)

/-- The entry leaves the queue, and its slots are released with credit to each sender. -/
def State.finishPair (s : State) (t : Site) (u : Nat) (e : PairEnt) : State :=
  let s := s.onSteer t u (fun x => { x with pairs := x.pairs.filter (fun y => decide (y.idx ≠ e.idx)) })
  let s := s.releaseItems t (steerIn0 s t u) 1
  let s := if e.hasB then s.releaseItems t (steerIn1 s t u) 1 else s
  (s.releaseItems t (steerTok s t u) 1).pairUp t u

/-- STEER_SELECT (R235). -/
def execSteerSelect (t : Site) (u : Nat) (s : State) : Out :=
  onTile t s (onUnit (decide (u < Config.steerUnits)) (
    let s := s.pairUp t u
    let c := steerOut s t u 0
    whenSome "STEER_SELECT" (lowestComplete true (s.steerRt t u).pairs) (fun e =>
      when_ "STEER_SELECT" (decide (steerMode s t u = 3) && s.maySend t && s.outReady t c) (
        let (tok, s) := s.token t u e.idx
        let (bs, s) := s.slotItem t (if tok then steerIn0 s t u else steerIn1 s t u) e.idx
        (s.sendItem t c bs).finishPair t u e))))

/-- STEER_GATE (R235): an item whose token is false goes nowhere and needs no credit. -/
def execSteerGate (t : Site) (u : Nat) (s : State) : Out :=
  onTile t s (onUnit (decide (u < Config.steerUnits)) (
    let s := s.pairUp t u
    let c := steerOut s t u 0
    whenSome "STEER_GATE" (lowestComplete false (s.steerRt t u).pairs) (fun e =>
      let ready := s.outReady t c
      let (tok, s) := s.token t u e.idx
      when_ "STEER_GATE" (decide (steerMode s t u = 4) && s.maySend t && (ready || !tok)) (
        let (bs, s) := s.slotItem t (steerIn0 s t u) e.idx
        (if tok then s.sendItem t c bs else s).finishPair t u e))))

end Sys2Proof.Machine
end

