-- ==== Sys2Proof/Machine/NiMsg.lean ====
section
/-!
DEFINITION. Active messages and their handlers (R136 to R138, R241 to R244), barrier groups (R139, R245), and deadlock
detection (R246 to R248).
-/
namespace Sys2Proof.Machine

/-! ### SEND (R136, R137, R242) -/

/-- SEND (R136, R137): it blocks until the NI has read the message. -/
def execSend (t : Site) (s : State) : Out :=
  instr "SEND" 0x32 t (fun w => decide (fFn w / 64 = 0)) (fun w s =>
    let c := s.core t
    let conn := c.get (fRa w)
    let addr := c.get (fRb w)
    let len := c.get (fRd w)
    if addr.toNat % 8 ≠ 0 then .trap trMisalign addr s
    else if s.storeEnd t < addr.toNat + len.toNat then .trap trAddr addr s
    else if ((s.ni t).openTx conn.toNat).isNone then .trap trChannel conn s
    else if decide (len.toNat = 0) || decide (4096 < len.toNat) then .trap trChannel len s
    else if !c.stbuf.isEmpty then .wait
    else effBlock t s (.send conn.toNat addr.toNat len.toNat (fFn w))) s

/-- A message's data grains; the last grain's bytes beyond LEN are free (DESIGN CHOICE, notes/assumptions/27.md). -/
def msgGrains (bs : List Byte) (pad : List Byte) : List (Nat × Bool × Payload) :=
  let n := (bs.length + 31) / 32
  (List.range n).map (fun i => (1, decide (i + 1 = n), .data (((bs ++ pad).drop (32 * i)).take 32)))

/-- 32 free bytes. -/
def State.freeBytes (s : State) : List Byte × State :=
  (List.range 4).foldl (fun (a : List Byte × State) _ =>
    let (v, s) := a.2.takeFree
    (a.1 ++ leBytes 8 v.toNat, s)) ([], s)

/-- The message leaves the store: the marker, when the placement has one, the header and the data (R241, R242). -/
def State.startMessage (s : State) (t : Site) (x : TxConn) (addr len slot : Nat) (wrap : Bool) : State :=
  let size := 32 * ((len + 31) / 32)
  let e := x.ring - x.woff
  let off := if wrap then 0 else x.woff
  let (bs, s) := s.readAny t addr len
  let (pad, s) := if len % 32 = 0 then ([], s) else s.freeBytes
  let marker : List (Nat × Bool × Payload) := if wrap then [(1, true, .msgHead 0 true 0 (x.woff / 32))] else []
  let gs := marker ++ [(1, false, .msgHead len false slot (off / 32))] ++ msgGrains bs pad
  let s := s.mirrorPoint t 5 bs
  let s := s.onTx t (isConn x.conn) (fun x => { x with
    bytes := x.bytes - (if wrap then e + size else size), recs := x.recs - (if wrap then 2 else 1)
    woff := (off + size) % x.ring, q := x.q ++ gs })
  s.onNi t (fun n => { n with sendLeft := some x.conn })

/-- SEND_START (R242). -/
def execSendStart (t : Site) (s : State) : Out :=
  onTile t s (match (s.core t).blocked with
    | some (.send conn addr len slot) =>
      if (s.ni t).sendLeft.isSome || s.twinStall t then .refused (.notEnabled "SEND_START")
      else whenSome "SEND_START" ((s.ni t).openTx conn) (fun x =>
        let size := 32 * ((len + 31) / 32)
        let e := x.ring - x.woff
        if size ≤ e then
          when_ "SEND_START" (decide (size ≤ x.bytes) && decide (1 ≤ x.recs)) (s.startMessage t x addr len slot false)
        else if e + size ≤ x.ring then
          when_ "SEND_START" (decide (e + size ≤ x.bytes) && decide (2 ≤ x.recs)) (s.startMessage t x addr len slot true)
        else
          when_ "SEND_START" (decide (e ≤ x.bytes) && decide (1 ≤ x.recs)) (s.onTx t (isConn conn) (fun x => { x with
            bytes := x.bytes - e, recs := x.recs - 1, woff := 0
            q := x.q ++ [(1, true, .msgHead 0 true 0 (x.woff / 32))] })))
    | _ => .refused (.notEnabled "SEND_START"))

/-- SEND_RETIRE (R242): the window has let the last grain out. -/
def execSendRetire (t : Site) (s : State) : Out :=
  onTile t s (match (s.core t).blocked, (s.ni t).sendLeft with
    | some (.send ..), some c =>
      when_ "SEND_RETIRE" (((s.ni t).txOf c).all (fun x => x.q.isEmpty))
        ((s.onNi t (fun n => { n with sendLeft := none })).retire t id)
    | _, _ => .refused (.notEnabled "SEND_RETIRE"))

/-! ### The receive ring (R241 to R244, R248) -/

def inRange (a n b m : Nat) : Bool := decide (a < b + m) && decide (b < a + n)

/-- The ring's oldest records that are done leave it, each with a CRED grain for its bytes and its record (R243). -/
def State.releaseFront : Nat → State → Site → Nat → State
  | 0, s, _, _ => s
  | k + 1, s, t, p =>
    match (s.portRt t p).msgs with
    | m :: rest =>
      if m.done then
        let s := s.onPort t p (fun r => { r with msgs := rest })
        let s := match (s.ni t).rxOf p with
          | some r => s.niSend t (mkGrain t r.src 10 r.conn 0 true (.ringCred m.size 1))
          | none => s
        releaseFront k s t p
      else s
    | [] => s

/-- A record of the lap whose ring bytes are free is copied into the ring, and waits for dispatch (R248). -/
def State.copyLap (s : State) (t : Site) (p : Nat) : State :=
  let ms := (s.portRt t p).msgs
  (ms.zipIdx).foldl (fun s e =>
    let m := e.1
    let blocked := ((s.portRt t p).msgs.take e.2).any (fun x => inRange x.off x.size m.off m.size)
    if m.lap && !m.done && !blocked then
      match s.spillRegion t p with
      | some (u, off) =>
        let bs := s.bytes (spillAddr u (off + m.off)) m.size
        let s := s.writeStore t (s.portBase t p + m.off) bs (s.cfld t (aNiPort p) 59 56)
        let s := s.onPort t p (fun r => { r with msgs := r.msgs.zipIdx.map (fun f =>
          if f.2 = e.2 then { f.1 with lap := false } else f.1) })
        s.onNi t (fun n => { n with waiting := n.waiting ++ [{ port := p, off := m.off }] })
      | none => s
    else s) s

/-- Released space leaves the ring, and the lap moves up (R243, R248). -/
def State.releaseRing (s : State) (t : Site) (p : Nat) : State :=
  let s := State.releaseFront (s.portRt t p).msgs.length s t p
  (s.copyLap t p).settleClose t p

def slotValid (s : State) (t : Site) (h : Nat) : Bool := decide (s.cfld t (aNiHslot h) 31 31 = 1)

/-- A record enters a port's record queue: a message in the ring or its lap, or a wrap marker. -/
def State.takeRecord (s : State) (t : Site) (p : Nat) (src : Site) (conn len slot off : Nat) (wrap : Bool) (bs : List Byte) :
    State :=
  let size := if wrap then s.ringSize t p - off else 32 * ((len + 31) / 32)
  let lap := !wrap && (s.portRt t p).msgs.any (fun x => inRange x.off x.size off size)
  let bad := !wrap && !slotValid s t slot
  let m : MsgRec := { off := off, len := len, size := size, slot := slot, src := src, conn := conn, wrap := wrap,
                      done := wrap || bad, lap := lap }
  let s := if wrap then s
    else if lap then (match s.spillRegion t p with | some (u, o) => s.setBytes (spillAddr u (o + off)) bs | none => s)
    else s.writeStore t (s.portBase t p + off) bs (s.cfld t (aNiPort p) 59 56)
  let s := s.onPort t p (fun r => { r with msgs := r.msgs ++ [m] })
  let s := if bad then s.setCfld t aNiStat 60 60 1 else s
  let s := if wrap || bad || lap then s else s.onNi t (fun n => { n with waiting := n.waiting ++ [{ port := p, off := off }] })
  let s := s.releaseRing t p
  if wrap then s else s.wfeWake t

/-- MESSAGE_ARRIVAL (R135, R241, R243, R244). -/
def execMessageArrival (t : Site) (s : State) : Out :=
  onTile t s (whenSome "MESSAGE_ARRIVAL" (wholeRun 1 (s.ni t).ready) (fun (c, run, rest) =>
    let s := s.onNi t (fun n => { n with ready := rest })
    match (s.ni t).rx.find? (fun r => decide (r.conn = c)), run with
    | some r, g :: data => (match g.body with
      | .msgHead len wrap slot off =>
        .next (s.takeRecord t r.port r.src r.conn len slot (32 * off) wrap (data.flatMap grainBytes))
      | _ => .next s)
    | _, _ => .next s))

/-- RING_CREDIT (R245). -/
def execRingCredit (t : Site) (s : State) : Out :=
  onTile t s (whenSome "RING_CREDIT"
    (s.inKind t 10 (fun g => match g.body with | .ringCred .. => true | _ => false)) (fun (g, s) =>
      match g.body with
      | .ringCred b n => .next (s.onTx t (fun x => decide (x.conn = g.conn.toNat) && decide (x.dst = grainSrc g))
          (fun x => { x with bytes := x.bytes + b, recs := x.recs + n }))
      | _ => .next s))

/-! ### Handlers (R138) -/

/-- The core stands where a handler may begin: at a boundary, or in a wait whose condition does not yet hold. -/
def State.mayHandle (s : State) (t : Site) : Bool :=
  let c := s.core t
  decide (c.run = .running) && (s.tile t).powered && c.switch.isNone && c.handE && !c.handH && !c.trapT &&
    (match c.blocked with
      | none => true
      | some (.waitc q ticket) => !reached (s.queue t q).ccnt ticket
      | some (.waitm mask) => !s.allDone t mask
      | some (.issue ..) => true
      | some (.bar _) => true
      | some .wfe => true
      | _ => false)

/-- The word {vy, vx} of a message's source; of a source outside the plot map the spec states none: a free value. -/
def State.sourceWord (s : State) (u : Site) : Word × State :=
  match s.virt u with
  | some _ => (BitVec.ofNat 32 (s.vxy u), s)
  | none => let (v, s) := s.takeFree
            (BitVec.setWidth 32 v, s)

/-- HANDLER_DISPATCH (R135, R138). -/
def execHandlerDispatch (t : Site) (s : State) : Out :=
  onTile t s (match (s.ni t).waiting with
    | [] => .refused (.notEnabled "HANDLER_DISPATCH")
    | h :: rest =>
      if !s.mayHandle t then .refused (.notEnabled "HANDLER_DISPATCH")
      else match (s.portRt t h.port).msgs.find? (fun m => decide (m.off = h.off) && !m.done && !m.lap && !m.wrap) with
        | none => .next (s.onNi t (fun n => { n with waiting := rest }))
        | some m =>
          let (who, s) := s.sourceWord m.src
          let entry := pcOf (s.cfld t (aNiHslot m.slot) 18 2 * 4)
          let s := s.onNi t (fun n => { n with waiting := rest })
          .next (s.onCore t (fun c =>
            let hpc := if c.blocked = some .wfe then c.pc + 4 else c.pc
            let c := { c with blocked := none, handH := true, held := some h, hpc := BitVec.setWidth 32 hpc }
            let c := ((((c.put 24 (BitVec.ofNat 32 (s.portBase t h.port + m.off))).put 25 (BitVec.ofNat 32 m.len)).put 26
              who).put 27 (BitVec.ofNat 32 m.conn)).put 28 (BitVec.ofNat 32 m.slot)
            c.jump entry)))

/-- HRET (R117, R138, R243). -/
def execHret (t : Site) (s : State) : Out :=
  instr "HRET" 0x33 t bareLegal (fun w s =>
    let c := s.core t
    if !c.handH then .trap trIllegal w s
    else
      let s := s.onCore t (fun c => ({ c with handH := false, held := none }).jump (pcOf c.hpc.toNat))
      match c.held with
      | none => .ok s
      | some h =>
        let mine := fun m : MsgRec => decide (m.off = h.off) && !m.done && !m.lap && !m.wrap
        .ok ((s.onPort t h.port (fun r => { r with msgs := updFirst mine (fun m => { m with done := true }) r.msgs })).releaseRing
          t h.port)) s

/-! ### Barrier groups (R139, R245) -/

def barFld (s : State) (t : Site) (n hi lo : Nat) : Nat := s.cfld t (aNiBar n) hi lo
def State.barRt (s : State) (t : Site) (n : Nat) : BarRt := mapGet (fun _ => BarRt.reset) (s.ni t).bars n
def State.onBar (s : State) (t : Site) (n : Nat) (f : BarRt → BarRt) : State :=
  s.onNi t (fun x => { x with bars := mapSet (fun _ => BarRt.reset) x.bars n (f (s.barRt t n)) })

/-- A plot whose placement holds sequence slots. -/
def State.holdsSlots (s : State) (p : Nat) : Bool :=
  match (s.plot p).placed with | some x => !x.slots.isEmpty | none => false

/-- Groups 14 and 15 of a plot that holds sequence slots, in a cascade (R326, R334). -/
def State.cascadeGroup (s : State) (t : Site) (n : Nat) : Bool :=
  decide (14 ≤ n) && decide (s.fld rFacetCasc 1 0 ≠ 0) && (match s.plotOf t with | some p => s.holdsSlots p | none => false)

/-- The root's release of a group: one prism DATA grain with CONN 0 on the group's tree. -/
def State.sendRelease (s : State) (t : Site) (n : Nat) : State :=
  s.niSend t { mkGrain t t 0 0 0 true (.barRelease n) with dx := 0x1FF, dy := BitVec.ofNat 9 (barFld s t n 7 0) }

/-- A group that is complete at this tile announces itself once: to its parent, at the root by the release, and for the
cascade's groups by a report to the cascade unit. -/
def State.barStep (s : State) (t : Site) (n : Nat) : State :=
  let r := s.barRt t n
  let ready := decide (barFld s t n 31 31 = 1) && !r.sent && (r.arrived || decide (barFld s t n 8 8 = 0)) &&
    decide (barFld s t n 29 27 ≤ r.count)
  let said := fun s : State => s.onBar t n (fun r => { r with sent := true })
  if !ready then s
  else if barFld s t n 30 30 = 1 then
    if s.cascadeGroup t n then said (s.report t (.groupComplete n)) else said (s.sendRelease t n)
  else match s.peer t (barFld s t n 17 9) (barFld s t n 26 18) with
    | some u => said (s.niSend t (mkGrain t u 10 0 0 true (.barArrive n)))
    | none => s.setCfld t aNiStat 52 52 1

/-- BAR (R139): it arrives once, and blocks until the release clears its bit. -/
def execBar (t : Site) (s : State) : Out :=
  instr "BAR" 0x35 t (fun w => immOnly w && decide (fImm13 w < 16)) (fun w s =>
    let n := fImm13 w
    if decide (barFld s t n 31 31 = 0) || decide (barFld s t n 8 8 = 0) then .trap trChannel (BitVec.ofNat 32 n) s
    else
      let s := if (s.barRt t n).arrived then s else (s.onBar t n (fun r => { r with arrived := true })).barStep t n
      .ok ((s.onCore t (fun c => { c with blocked := some (.bar n), blockedAt := s.cycle })).startBackfill t)) s

/-- BARRIER_ARRIVAL (R245). -/
def execBarrierArrival (t : Site) (s : State) : Out :=
  onTile t s (whenSome "BARRIER_ARRIVAL"
    (s.inKind t 10 (fun g => match g.body with | .barArrive _ => true | _ => false)) (fun (g, s) =>
      match g.body with
      | .barArrive n => .next ((s.onBar t n (fun r => { r with count := r.count + 1 })).barStep t n)
      | _ => .next s))

/-- After a barrier, backfill climbs back to the full rate (R407). -/
def Tile.endBackfill (x : Tile) : Tile := { x with climb := match x.backfill with | some r => some r | none => x.climb, backfill := none }

/-- BARRIER_RELEASE (R135, R139, R245). -/
def execBarrierRelease (t : Site) (s : State) : Out :=
  onTile t s (whenSome "BARRIER_RELEASE"
    (takeFirst (fun g : Grain => isPrism g && (match g.body with | .barRelease _ => true | _ => false)) (s.ni t).inbox)
    (fun (g, rest) =>
      let s := s.onNi t (fun n => { n with inbox := rest })
      match g.body with
      | .barRelease n =>
        let had := (s.barRt t n).arrived
        let s := s.onBar t n (fun _ => BarRt.reset)
        let s := if (s.core t).blocked = some (.bar n) then (s.onTile t Tile.endBackfill).retire t id else s
        .next (if had then s.wfeWake t else s)
      | _ => .next s))

/-! ### Deadlock detection (R246 to R248) -/

/-- A steering unit has an output ready for connection c. -/
def State.steerWaits (s : State) (t : Site) (u c : Nat) : Bool :=
  let out := steerOut s t u
  match steerMode s t u with
  | 1 => decide (out 0 = c) && (s.holdsItem t (steerIn0 s t u) || s.holdsItem t (steerIn1 s t u))
  | 2 => (List.range 4).any (fun o => decide (out o = c)) && s.holdsItem t (steerIn0 s t u)
  | 3 => decide (out 0 = c) && (lowestComplete true (s.steerRt t u).pairs).isSome
  | 4 => decide (out 0 = c) && (match lowestComplete false (s.steerRt t u).pairs with
      | some e => (s.token t u e.idx).1
      | none => false)
  | _ => false

/-- Credit that the blocked SEND of a core lacks. -/
def sendLacks (x : TxConn) (len : Nat) : Bool :=
  let size := 32 * ((len + 31) / 32)
  let e := x.ring - x.woff
  if size ≤ e then decide (x.bytes < size) || decide (x.recs < 1)
  else if e + size ≤ x.ring then decide (x.bytes < e + size) || decide (x.recs < 2)
  else decide (x.bytes < e) || decide (x.recs < 1)

/-- A blocked send on connection c: a SEND, a SENDS or a steering output that waits for credit (R246). -/
def State.blockedOn (s : State) (t : Site) (x : TxConn) : Bool :=
  (match (s.core t).blocked with
    | some (.send conn _ len _) => decide (conn = x.conn) && (s.ni t).sendLeft.isNone && sendLacks x len
    | _ => false) ||
  (decide (x.items = 0) &&
    ((match s.niFlight t with
      | some f => (match f.work with | .sends _ => decide (sdConn f.entry.desc = x.conn) | _ => false)
      | none => false) ||
     (List.range Config.steerUnits).any (fun u => s.steerWaits t u x.conn)))

def State.sendProbe (s : State) (t : Site) (x : TxConn) (origin low : Site) (hops : Nat) : State :=
  s.niSend t (mkGrain t x.dst 12 x.conn 0 true (.probe origin low x.conn hops))

/-- DEADLOCK_WINDOW (R246). -/
def execDeadlockWindow (t : Site) (conn : Nat) (s : State) : Out :=
  onTile t s (whenSome "DEADLOCK_WINDOW" ((s.ni t).txOf conn) (fun x =>
    when_ "DEADLOCK_WINDOW" (decide (s.cfld t aNiCfg 0 0 = 1) && s.blockedOn t x) (s.sendProbe t x t t 0)))

/-- Sites compare by py first, then by px (R247). -/
def siteLt (a b : Site) : Bool := decide (a.py < b.py) || (decide (a.py = b.py) && decide (a.px < b.px))

/-- The cycle is broken at the port bound to a connection (R248), or found stuck there: the port has no spill region, or
its grant is already in force (DEDUCED, notes/assumptions/28.md). -/
def State.breakCycle (s : State) (t : Site) (conn : Nat) : State :=
  match (s.ni t).rx.find? (fun r => decide (r.conn = conn)) with
  | none => s
  | some r =>
    if (s.spillRegion t r.port).isNone || (s.portRt t r.port).grant then
      (s.setCfld t aNiStat 62 62 1).tileAlarm t 0x0008 r.port
    else
      let body := if s.portKind t r.port = 2 then Payload.ringCred (s.ringSize t r.port) 64
        else Payload.streamCred (s.portSpq t r.port)
      let s := s.onPort t r.port (fun p => { p with grant := true })
      let s := (s.setCfld t aNiStat 63 63 1).setCfld t aNiStat 58 53 r.port
      (s.niSend t (mkGrain t r.src 10 r.conn 0 true body)).tileEvent t 0x0105 r.port

/-- PROBE_RECEIVE (R247). -/
def execProbeReceive (t : Site) (s : State) : Out :=
  onTile t s (whenSome "PROBE_RECEIVE" (s.inKind t 12 anyGrain) (fun (g, s) =>
    match g.body with
    | .probe origin low conn hops =>
      if origin = t then .next (if low = t then s.breakCycle t conn else s)
      else
        let low := if siteLt t low then t else low
        .next ((s.ni t).tx.foldl (fun s x =>
          if s.blockedOn t x && decide (hops + 1 < 255) then s.sendProbe t x origin low (hops + 1) else s) s)
    | _ => .next s))

end Sys2Proof.Machine
end

