-- ==== Sys2Proof/Machine/HostOps.lean ====
section
/-!
DEFINITION. The host command queues: VHCP frames, completions and receipts, which command of a queue may run, and the codes of
the answers (R345 to R354, R356, R428).
-/
namespace Sys2Proof.Machine

/-! ### STATUS (R352) -/

def stOk : Nat := 0
def stPartial : Nat := 1
def stAlready : Nat := 2
def stAborted : Nat := 3
def stTimeout : Nat := 4
def stRefused : Nat := 5
def stFault : Nat := 6
def stState : Nat := 7
def stFenced : Nat := 8
def stPerm : Nat := 9
def stAddr : Nat := 10
def stBadop : Nat := 11
def stNospace : Nat := 12
def stRdma : Nat := 13
def stDigest : Nat := 14
def stNotfound : Nat := 15
def stBusy : Nat := 16
def stSeqgap : Nat := 17
def stRecovery : Nat := 18

/-! ### Commands (R350) -/

def opLoad : Nat := 1
def opPlace : Nat := 2
def opRun : Nat := 3
def opStage : Nat := 4
def opCheck : Nat := 5
def opCommit : Nat := 6
def opAbort : Nat := 7
def opQuery : Nat := 8
def opRegRead : Nat := 9
def opRegWrite : Nat := 10
def opDump : Nat := 11
def opRecover : Nat := 12

/-- ABORT and QUERY act at acceptance, beside the command that runs (R347). -/
def besides (op : Nat) : Bool := decide (op = opAbort) || decide (op = opQuery)

/-- A queue's commands that run one at a time: the first of them is the one that executes. -/
def HostQueue.front (h : HostQueue) : Option HostCmd := h.cmds.find? (fun c => !besides c.op)

/-- The command that a row of this OP acts on. -/
def State.command (s : State) (q op : Nat) : Option HostCmd :=
  if besides op then (s.hostq q).cmds.find? (fun c => decide (c.op = op) && !c.started)
  else match (s.hostq q).front with
    | some c => if c.op = op then some c else none
    | none => none

/-- A queue's command changed. -/
def State.onCommand (s : State) (q seq : Nat) (f : HostCmd → HostCmd) : State :=
  s.onHostq q (fun h => { h with cmds := h.cmds.map (fun c => if c.seq = seq then f c else c) })

/-- HOST_QCFG.DEV and EN. -/
def State.queueDev (s : State) (q : Nat) : Bool := decide (s.fld (rHostQcfg q) 1 1 = 1)
def State.queueEn (s : State) (q : Nat) : Bool := decide (s.fld (rHostQcfg q) 0 0 = 1)

/-- A field of a command's body. -/
def HostCmd.num (c : HostCmd) (off n : Nat) : Nat := leAt c.body off n

/-! ### Frames (R345, R353) -/

/-- A frame. Its TIMEOUT and FLAGS in a completion or a receipt are values the spec leaves open: they are free. -/
def mkFrame (kind q op seq : Nat) (cookie : Dword) (status npart ok : Nat) (body : List Byte) : List Byte :=
  leBytes 2 0x5648 ++ leBytes 1 1 ++ leBytes 1 kind ++ leBytes 1 q ++ leBytes 1 op ++ leBytes 2 body.length ++
    leBytes 4 seq ++ leBytes 4 (Config.freeOf 200 q seq).toNat ++ leBytes 8 cookie.toNat ++ leBytes 2 status ++
    leBytes 1 npart ++ leBytes 1 (Config.freeOf 201 q seq).toNat ++ leBytes 2 ok ++ leBytes 2 0 ++ body

/-- PARTOK: bit i is 1 when part i succeeded. -/
def partOk (codes : List Nat) : Nat := codes.zipIdx.foldl (fun n e => if e.1 = 0 then n + 2 ^ e.2 else n) 0

/-- The port by which something leaves; none for the TAP. A device request goes by the port that its context names (R529). -/
def State.outPort (s : State) : HostOut → Option Nat
  | .frame p _ => some p
  | .nak p _ => some p
  | .ack p _ => some p
  | .readData p _ _ => some p
  | .rdmaRead qpn _ _ _ => some (s.fld (rHostQp (qpn - 0x100) 0) 51 51)
  | .rdmaWrite qpn _ _ _ => some (s.fld (rHostQp (qpn - 0x100) 0) 51 51)
  | .telemetry p _ _ _ => some p
  | .sync p _ => some p
  | .tdo _ => none

/-- RoCEv2 traffic, which has the priority that PFC pauses (R339). -/
def HostOut.isRoce : HostOut → Bool
  | .nak .. => true | .ack .. => true | .readData .. => true | .rdmaRead .. => true | .rdmaWrite .. => true
  | .frame .. => false | .telemetry .. => false | .sync .. => false | .tdo .. => false

/-- HOST_PORT_STAT.LINK. -/
def State.linkOn (s : State) (a : Nat) : Bool := decide (s.fld (rHostPortStat a) 0 0 = 1)

/-- A port holds what it cannot send: all of it without a link, RoCEv2 traffic while it is paused. -/
def State.linkHolds (s : State) (a : Nat) (o : HostOut) : Bool :=
  !s.linkOn a || (o.isRoce && (s.hostPort a).paused)

/-- What leaves the module. -/
def State.hostOut (s : State) (o : HostOut) : State :=
  match s.outPort o with
  | some a => if s.linkHolds a o then s.onHostPort a (fun x => { x with held := x.held ++ [o] }) else { s with out := s.out ++ [o] }
  | none => { s with out := s.out ++ [o] }

/-- A port sends what it no longer has to hold. -/
def State.flushPort (s : State) (a : Nat) : State :=
  let held := (s.hostPort a).held
  let s := { s with out := s.out ++ held.filter (fun o => !s.linkHolds a o) }
  s.onHostPort a (fun x => { x with held := held.filter (fun o => s.linkHolds a o) })

/-- A frame leaves on a port. -/
def State.sendFrame (s : State) (port : Nat) (bytes : List Byte) : State := s.hostOut (.frame port bytes)

/-- A receipt (R346): its body is empty but for SEQGAP, which carries EXP (DEDUCED, notes/assumptions/90.md). -/
def State.receipt (s : State) (port q op seq : Nat) (cookie : Dword) (npart status : Nat) (body : List Byte) : State :=
  s.sendFrame port (mkFrame 3 q op seq cookie status npart 0 body)

/-- The codes of a split command's parts when it ends early: the parts that have not run count as ABORTED where the command was
stopped (R354, R356), and else carry the command's own STATUS. -/
def HostCmd.padded (c : HostCmd) (status : Nat) : List Nat :=
  if c.npart = 0 then []
  else c.codes ++ List.replicate (c.npart - c.codes.length)
    (if decide (status = stPartial) || decide (status = stOk) || decide (status = stTimeout) then stAborted else status % 256)

/-- The completion record of a command: 64 are kept, and the frame leaves (R349). -/
def State.record (s : State) (q : Nat) (c : HostCmd) (status detail : Nat) (data : List Byte) : State :=
  let codes := c.padded status
  let data := if c.op = opRegRead then takeAt c.data 0 (8 * codes.length) else data
  let fr := mkFrame 2 q c.op c.seq c.cookie status c.npart (partOk codes)
    (leBytes 8 detail ++ codes.map (fun x => BitVec.ofNat 8 x) ++ data)
  let x : Completion := { seq := c.seq, status := status, frame := fr }
  (s.onHostq q (fun h => { h with
    cmds := h.cmds.filter (fun x => decide (x.seq ≠ c.seq)), done := (h.done ++ [x]).drop (h.done.length - 63) })).sendFrame
    c.port fr

/-- An ABORT that waits for its target (R356): it has been latched, and names the target. -/
def waitsFor (seq : Nat) (c : HostCmd) : Bool := decide (c.op = opAbort) && c.started && decide (c.num 0 4 = seq)

/-- A command is outstanding. -/
def State.outstanding (s : State) (q seq : Nat) : Bool := (s.hostq q).cmds.any (fun c => decide (c.seq = seq))

/-- A command completes; the ABORTs that wait for it complete after it (R356). One that has completed already stays so. -/
def State.complete (s : State) (q : Nat) (c : HostCmd) (status detail : Nat) (data : List Byte) : State :=
  if !s.outstanding q c.seq then s
  else
  let waiting := (s.hostq q).cmds.filter (waitsFor c.seq)
  waiting.foldl (fun s a =>
    if status = stAborted then s.record q a stOk 0 [] else s.record q a stAlready status [])
    (s.record q c status detail data)

/-! ### What a queue may run -/

/-- Assigned OPs. -/
def assignedOp (op : Nat) : Bool := decide (1 ≤ op) && decide (op ≤ 12)

/-- What a fenced plot's queue serves (R428). -/
def State.fenceServes (s : State) (q : Nat) (c : HostCmd) : Bool :=
  besides c.op || decide (c.op = opRegRead) || decide (c.op = opRegWrite) || decide (c.op = opStage) ||
    decide (c.op = opCheck) || decide (c.op = opCommit) ||
    (decide (c.op = opLoad) && decide (c.num 8 1 = 1) && decide (s.placeState q = 5))

/-- What a frozen device serves (R446). -/
def frozenServes (op : Nat) : Bool :=
  decide (op = opQuery) || decide (op = opRegRead) || decide (op = opRegWrite) || decide (op = opDump)

/-- Bytes of body before the parts, and of one part (R350, R360). -/
def partShape (op : Nat) : Option (Nat × Nat) :=
  if op = opLoad then some (16, 32) else if op = opStage then some (0, 16) else if op = opRegRead then some (0, 8)
  else if op = opRegWrite then some (0, 16) else if op = opDump then some (0, 32) else none

/-- Bytes of body of the commands that are not split. -/
def bodyLen (op : Nat) : Option Nat :=
  if op = opPlace then some 0 else if op = opRun then some 16 else if op = opCheck then some 4 else if op = opCommit then some 16
  else if op = opAbort then some 4 else if op = opQuery then some 8 else none

/-- The first byte of a frame that breaks R345, R350 or the body's table, counted from the frame's start
(DESIGN CHOICE, notes/assumptions/33.md). -/
def HostCmd.badByte (c : HostCmd) : Option Nat :=
  let zero := fun (off n : Nat) => decide (c.num off n = 0)
  if !assignedOp c.op then some 5
  else if c.timeout = 0 then some 12
  else match partShape c.op with
    | some (head, size) =>
      if decide (c.npart = 0) || decide (16 < c.npart) then some 26
      else if c.body.length ≠ head + size * c.npart then some 6
      else if c.op = opLoad then (if 1 < c.num 8 1 then some 40 else if zero 9 7 then none else some 41)
      else none
    | none =>
      if c.npart ≠ 0 then some 26
      else if (match bodyLen c.op with | some n => decide (c.body.length ≠ n) | none => false) then some 6
      else if c.op = opCommit then (if 2 < c.num 4 1 then some 36 else if zero 5 3 then none else some 37)
      else if c.op = opQuery then (if 5 < c.num 0 1 then some 32 else if zero 1 3 then none else some 33)
      else if c.op = opRecover then
        (if decide (c.body.length < 16) || decide (16 + 8064 < c.body.length) then some 6 else none)
      else none

/-- A fence of the plot keeps the command from running. -/
def State.fenceStops (s : State) (q : Nat) (c : HostCmd) : Bool :=
  decide (s.fenceState q ≠ 0) && !s.fenceServes q c && !(s.frozen && frozenServes c.op)

/-- Why a queue's command may not run at all: its STATUS and DETAIL. One that had started when the fence came ends with the fence. -/
def State.refusedCmd (s : State) (q : Nat) (c : HostCmd) : Option (Nat × Nat) :=
  match c.badByte with
  | some n => some (stBadop, n)
  | none =>
    if (decide (c.op = opDump) || decide (c.op = opRecover)) && !s.queueDev q then some (stPerm, 0)
    else if s.frozen && !frozenServes c.op then some (stFenced, 0)
    else if !c.started && s.fenceStops q c then some (stFenced, 0)
    else none

/-- The commands at the front of a queue that may not run at all complete at once, in their order. -/
def State.sweep : Nat → State → Nat → State
  | 0, s, _ => s
  | n + 1, s, q => match (s.hostq q).front with
    | some c =>
      if assignedOp c.op then s
      else State.sweep n (match s.refusedCmd q c with
        | some (st, d) => s.complete q c st d []
        | none => s) q
    | none => s

/-- The row of one OP at queue q: what it does with the command, unless the command is refused. -/
def hostRow (name : String) (op q : Nat) (s : State) (f : HostCmd → Out) : Out :=
  onUnit (decide (q < Config.hostQueues)) (whenSome name (s.command q op) (fun c =>
    match s.refusedCmd q c with
    | some (st, d) => .next ((s.complete q c st d []).sweep 32 q)
    | none => if s.fenceStops q c then .refused (.notEnabled name) else f c))

/-- A row that ends its command. -/
def State.finish (s : State) (q : Nat) (c : HostCmd) (status detail : Nat) (data : List Byte) : State :=
  (s.complete q c status detail data).sweep 32 q

/-- A split command whose parts have all ended (R354). -/
def State.completeParts (s : State) (q : Nat) (c : HostCmd) : State :=
  s.finish q c (if c.codes.all (fun x => decide (x = 0)) then stOk else stPartial) 0 c.data

/-- One part of a split command has ended with a code, and with the data it returns. After a failed part under STOPONFAIL the
later parts are ABORTED. -/
def State.endPart (s : State) (q : Nat) (c : HostCmd) (code : Nat) (data : List Byte) : State :=
  let codes := c.codes ++ [code]
  let cut := decide (code ≠ 0) && c.flags.testBit 1
  let codes := if cut then codes ++ List.replicate (c.npart - codes.length) stAborted else codes
  let c' := { c with codes := codes, part := codes.length, data := c.data ++ data, started := true }
  match c'.stop with
  | some st => s.finish q c' st 0 []
  | none => if c.npart ≤ codes.length then s.completeParts q c' else s.onCommand q c.seq (fun _ => c')

end Sys2Proof.Machine
end

