-- ==== Sys2Proof/Machine/Layout.lean ====
section
/-!
DEFINITION. How a placement lays out each column and each store (R263, R266, R268), and which loam of the module is free
(R269, R351).
-/
namespace Sys2Proof.Machine

/-- n rounded up to a multiple of a. -/
def roundUp (n a : Nat) : Nat := (n + a - 1) / a * a
/-- 64 KiB, the size of an extent and the alignment of a region. -/
def k64 : Nat := 0x10000
def columnBytes : Nat := 64 * Config.loamLines
/-- Bytes of an idle frame's image (R263): the header and at most four instructions, in whole rows. -/
def idleBytes : Nat := 1088

def sumOf {α : Type} (f : α → Nat) (l : List α) : Nat := l.foldl (fun n a => n + f a) 0

/-! ### Roles and images -/

/-- The role that tile number i of a plot runs (R263). -/
def Placement.role (pl : Placement) (i : Nat) : Nat := if pl.mirror then i / 2 else i

/-- Bytes of a layer's frame image at the tile of a role: its image, or the idle frame where the layer has no such role. -/
def imgSize (role : Nat) (r : LayerRec) : Nat := if role < r.roles then roundUp r.frameb 64 else idleBytes

/-- Bytes of a layer's weight shard and of its OPT block at the tile of a role. -/
def shardSize (role : Nat) (r : LayerRec) : Nat := if role < r.roles then r.shardb else 0
def optSize (role : Nat) (r : LayerRec) : Nat := if role < r.roles then r.optl else 0

/-! ### The loam column (R268) -/

def Placement.frameLoam (pl : Placement) (role l : Nat) : Nat := sumOf (imgSize role) (pl.layers.take l)
def Placement.shardBase (pl : Placement) (role : Nat) : Nat := roundUp (pl.frameLoam role pl.layers.length) k64
def Placement.shardLoam (pl : Placement) (role l : Nat) : Nat :=
  pl.shardBase role + sumOf (shardSize role) (pl.layers.take l)
def Placement.optBase (pl : Placement) (role : Nat) : Nat := roundUp (pl.shardLoam role pl.layers.length) k64
def Placement.optLoam (pl : Placement) (role l : Nat) : Nat := pl.optBase role + sumOf (optSize role) (pl.layers.take l)
def Placement.actBase (pl : Placement) (role : Nat) : Nat :=
  pl.optBase role + if pl.train then roundUp pl.optb k64 else 0
def Placement.kvBase (pl : Placement) (role : Nat) : Nat :=
  pl.actBase role + if pl.train then roundUp pl.actb k64 else 0
/-- The region of the k-th sequence slot. -/
def Placement.kvLoam (pl : Placement) (role k : Nat) : Nat := pl.kvBase role + k * roundUp pl.kvb k64
/-- Bytes of a column with n sequence slots. -/
def Placement.columnOf (pl : Placement) (role n : Nat) : Nat := pl.kvLoam role n
def Placement.column (pl : Placement) (role : Nat) : Nat := pl.columnOf role pl.slots.length

/-! ### The store (R266) -/

def Placement.scratch (pl : Placement) : Nat := if pl.split then 0x40000 else 0x60000

/-- The data area: the largest DATAB of any layer at the tile. -/
def Placement.dataArea (pl : Placement) (role : Nat) : Nat :=
  roundUp ((pl.layers.filter (fun r => decide (role < r.roles))).foldl (fun n r => max n r.datab) 0) 64

/-- A number put into a list in falling order. -/
def insertDesc (n : Nat) : List Nat → List Nat
  | [] => [n]
  | a :: l => if a ≤ n then n :: a :: l else a :: insertDesc n l

/-- F: the largest number of frames from 2 to 8 whose largest images fit beside the data area; none where 2 do not. -/
def Placement.frames (pl : Placement) (role : Nat) : Option Nat :=
  let sizes := (pl.layers.map (imgSize role)).foldl (fun l n => insertDesc n l) []
  [8, 7, 6, 5, 4, 3, 2].find? (fun f => decide (pl.dataArea role + sumOf id (sizes.take f) ≤ pl.scratch))

/-- The frame number of a layer at a tile that holds f frames: layers take the frames in turn (DESIGN CHOICE, notes/assumptions/34.md). -/
def frameNum (f l : Nat) : Nat := l % f

/-- A frame area where all are alike: the largest image of the tile, in whole KiB. -/
def Placement.frameArea (pl : Placement) (role : Nat) : Nat :=
  roundUp (pl.layers.foldl (fun n r => max n (imgSize role r)) 0) 1024

/-- The data area in whole KiB, and f areas alike, fit the scratchpad. -/
def Placement.areasAlike (pl : Placement) (role f : Nat) : Bool :=
  decide (roundUp (pl.dataArea role) 1024 + f * pl.frameArea role ≤ pl.scratch)

/-- Bytes of frame area k of f where they cannot be alike: the largest image that it ever holds. -/
def Placement.areaSize (pl : Placement) (role f k : Nat) : Nat :=
  (pl.layers.zipIdx.filter (fun e => decide (frameNum f e.2 = k))).foldl (fun n e => max n (imgSize role e.1)) 0

/-- Store offset of frame area k of f: the areas lie above the data area, one after another (DESIGN CHOICE, notes/assumptions/91.md). -/
def Placement.areaBase (pl : Placement) (role f k : Nat) : Nat :=
  if pl.areasAlike role f then roundUp (pl.dataArea role) 1024 + k * pl.frameArea role
  else pl.dataArea role + sumOf (pl.areaSize role f) (List.range k)

/-! ### Free loam (R269, R351) -/

def k40 : List Nat := [0, 1, 3, 4]

/-- Where afterimage extent i lies as shipped: the model takes 1,024 columns of each field of field rows 2 to 5, the sites
lx < 32 of the rows that hold no service site (DESIGN CHOICE, notes/assumptions/35.md). -/
def extentHome (i : Nat) : Extent :=
  let f := 16 + i / 1024
  let r := i % 1024 / 32
  let t : Site := { px := 40 * (f % 8) + i % 32, py := 40 * (f / 8) + 5 * (r / 4) + k40.getD (r % 4) 0 }
  { site := t.key, off := columnBytes - k64 }

/-- The extent that lies in a column as shipped. -/
def homeExtent (t : Site) : Option Nat :=
  let fy := t.py / 40
  match indexIn k40 (t.ly % 5) with
  | some k =>
    if decide (2 ≤ fy) && decide (fy ≤ 5) && decide (t.lx < 32) && decide (t.px < 320) then
      some (1024 * (8 * (fy - 2) + t.px / 40) + 32 * (4 * (t.ly / 5) + k) + t.lx)
    else none
  | none => none

/-- Where extent i of the afterimage lies now. -/
def State.extent (s : State) (i : Nat) : Extent :=
  match s.aiMoved.find? (fun e => decide (e.1 = i)) with
  | some e => e.2
  | none => extentHome i

/-- The afterimage extents in a column: number and loam offset. -/
def State.aiIn (s : State) (t : Site) : List (Nat × Nat) :=
  (match homeExtent t with
    | some i => if s.aiMoved.any (fun e => decide (e.1 = i)) then [] else [(i, (extentHome i).off)]
    | none => []) ++
  (s.aiMoved.filter (fun e => decide (e.2.site = t.key))).map (fun e => (e.1, e.2.off))

/-- Bytes of a column that placed regions take. -/
def State.placedBytes (s : State) (t : Site) : Nat :=
  (List.range 64).foldl (fun n p => match (s.plot p).placed with
    | some pl => match indexIn pl.tiles t.key with
      | some i => max n (pl.column (pl.role i))
      | none => n
    | none => n) 0

/-- Staging extents and open deliveries in a column, by offset. -/
def State.stagedIn (s : State) (t : Site) : List Nat :=
  (List.range 64).flatMap (fun p => match (s.plot p).pkg with
    | some k => (k.extents.filter (fun e => decide (e.site = t.key))).map (fun e => e.off)
    | none => []) ++
  (match s.boot.delivery with
    | some d => (d.extents.filter (fun e => decide (e.site = t.key))).map (fun e => e.off)
    | none => [])

/-- The free extents of a column, from its top down. -/
def State.freeIn (s : State) (t : Site) : List Nat :=
  let low := roundUp (s.placedBytes t) k64
  let ai := (s.aiIn t).map (fun e => e.2)
  let st := s.stagedIn t
  ((List.range (columnBytes / k64)).map (fun i => columnBytes - k64 * (i + 1))).filter (fun o =>
    decide (low ≤ o) && !ai.contains o && !st.contains o)

/-- Extents taken from a list of columns in turn, until n are found. -/
def State.takeFrom (s : State) : List Site → Nat → List Extent
  | [], _ => []
  | _, 0 => []
  | t :: ts, n + 1 =>
    let l := (s.freeIn t).take (n + 1)
    l.map (fun o => { site := t.key, off := o }) ++ s.takeFrom ts (n + 1 - l.length)

/-- The columns of the module in the order in which extents are taken from them: first those outside the plot's rectangle,
in raster order (DESIGN CHOICE, notes/assumptions/36.md). -/
def State.columns (s : State) (p : Nat) : List Site :=
  let all := ((List.range 320).flatMap (fun y => (List.range 320).map (fun x => ({ px := x, py := y } : Site)))).filter
    (fun t => s.goodSite t)
  all.filter (fun t => !s.inRect p t) ++ all.filter (fun t => s.inRect p t)

/-- n free extents for plot p, or none where there are fewer. -/
def State.takeExtents (s : State) (p n : Nat) : Option (List Extent) :=
  let l := s.takeFrom (s.columns p) n
  if l.length = n then some l else none

/-! ### The bytes of a package -/

def Package.addr (k : Package) (off : Nat) : Nat :=
  match k.extents[off / k64]? with
  | some e => loamAddr (siteOf e.site) (e.off + off % k64)
  | none => 0

/-- n bytes of a staged package from an offset. -/
def State.pkgBytes (s : State) (k : Package) (off n : Nat) : List Byte :=
  (List.range n).map (fun i => s.byte (k.addr (off + i)))

/-- Bytes written into loam by a steward: whole lines, and parts of lines, lose their errors (R421). -/
def State.putLoam (s : State) (t : Site) (off : Nat) (bs : List Byte) : State :=
  let s := s.setBytes (loamAddr t off) bs
  let whole := fun l : Nat => decide (off ≤ 64 * l) && decide (64 * l + 64 ≤ off + bs.length)
  s.onTile t (fun x => { x with loam := { x.loam with poison := x.loam.poison.filter (fun l => !whole l) } })

/-- Bytes written into a staged package. -/
def State.putPkg (s : State) (k : Package) (off : Nat) (bs : List Byte) : State :=
  bs.zipIdx.foldl (fun s e => s.setByte (k.addr (off + e.2)) e.1) s

/-- Whether the written ranges of a package cover it from 0 (R351). -/
def coveredFrom : Nat → Nat → List (Nat × Nat) → Nat
  | 0, a, _ => a
  | n + 1, a, rs => match rs.find? (fun r => decide (r.1 ≤ a) && decide (a < r.1 + r.2)) with
    | some r => coveredFrom n (r.1 + r.2) rs
    | none => a

def Package.whole (k : Package) : Bool := decide (k.size ≤ coveredFrom k.written.length 0 k.written)

end Sys2Proof.Machine
end

