-- ==== Sys2Proof/Machine/Commit.lean ====
section
/-!
DEFINITION. A plot's states, and shadow sets: the checks of CHECK and COMMIT, arming and cancelling, and what every item does at
the commit instant (R254, R359 to R375, R378).
-/
namespace Sys2Proof.Machine

/-! ### A plot's states -/

def State.setPlace (s : State) (p n : Nat) : State := s.setFld (rPlotPlace p) 63 60 n

/-- Whether placed regions of some plot stand in an extent. -/
def State.placedOver (s : State) (e : Extent) : Bool := decide (e.off < s.placedBytes (siteOf e.site))

/-- The plot's placement, its sequence slots and its regions are freed (R254, R270, R435). -/
def State.freePlaced (s : State) (p : Nat) : State :=
  match (s.plot p).placed with
  | none => s
  | some pl =>
    let z := pl.tiles.zipIdx.map (fun e => (p, e.1, 0, pl.column (pl.role e.2)))
    let s := (s.onPlot p (fun x => { x with placed := none })).setFld (rPlotMode p) 63 48 0
    { s with zeroing := s.zeroing ++ z }

/-- The plot's staged package is freed (R351, R435). -/
def State.freeStaging (s : State) (p : Nat) : State :=
  match (s.plot p).pkg with
  | none => s
  | some k =>
    let s := s.onPlot p (fun x => { x with pkg := none })
    { s with zeroing := s.zeroing ++ (k.extents.filter (fun e => !s.placedOver e)).map (fun e => (p, e.site, e.off, k64)) }

/-- The state becomes EMPTY; the power estimates of the plot are cleared (R402). -/
def State.emptyPlot (s : State) (p : Nat) : State := (s.setPlace p 0).onPlot p (fun x => { x with phase := none, phases := [] })

/-- A fence is lifted (R429). Queue entries that had not started when it began never start (R427). -/
def State.liftFence (s : State) (p : Nat) : State :=
  if s.fenceState p = 0 then s
  else
    let s := (s.usable p).foldl (fun s t => s.onTile t (fun x => { x with
      queues := x.queues.map (fun k => { k with entries := [] }) })) s
    (s.setFld (rRasPlot p) 63 62 0).onPlot p (fun x => { x with fence := none })

/-- A queue-pair context of a plot that is no longer valid enters ERROR (R530). -/
def State.qpsLose (s : State) (p : Nat) : State :=
  (List.range Config.qps).foldl (fun s n =>
    if decide (s.fld (rHostQp n 0) 62 60 = 1) && decide (s.fld (rHostQp n 0) 59 54 = p) then
      s.setFld (rHostQp n 0) 62 60 2
    else s) s

/-! ### Sets -/

def itRect : Nat := 8
def itUnplace : Nat := 10

def State.setAt (s : State) (k : Nat) : Option ShadowSet := (s.shadow.find? (fun e => decide (e.1 = k))).map (fun e => e.2)
def State.setNamed (s : State) (num : Nat) : Option (Nat × ShadowSet) := s.shadow.find? (fun e => decide (e.2.num = num))
def State.putSet (s : State) (k : Nat) (x : ShadowSet) : State := { s with shadow := mapPut s.shadow k x }
def State.dropSet (s : State) (k : Nat) : State := { s with shadow := mapDel s.shadow k }

/-- The plots that the set's plot items name (R362). -/
def ShadowSet.mask (x : ShadowSet) : List Nat :=
  (List.range 64).filter (fun p => x.items.any (fun i => decide (i.item < 0x10) && decide (i.plot = p)))
def ShadowSet.device (x : ShadowSet) : Bool := x.items.any (fun i => decide (0x10 ≤ i.item))

/-- The value a set holds for an item. -/
def ShadowSet.get (x : ShadowSet) (item plot : Nat) : Option Nat :=
  (x.items.find? (fun i => decide (i.item = item) && decide (i.plot = plot))).map (fun i => i.value.toNat)
def ShadowSet.has (x : ShadowSet) (item plot : Nat) : Bool := (x.get item plot).isSome

/-- PLOT_MODE bit of a plot item, or none for an item that is no mode. -/
def modeBit (item : Nat) : Option Nat :=
  match item with
  | 1 => some 0 | 2 => some 1 | 3 => some 2 | 4 => some 3 | 5 => some 4 | 6 => some 5 | _ => none

/-- A mode of a plot after the set (R364). -/
def State.modeAfter (s : State) (x : ShadowSet) (p item : Nat) : Nat :=
  (x.get item p).getD (match modeBit item with | some b => s.fld (rPlotMode p) b b | none => 0)

/-- Whether the set changes a mode of a plot. -/
def State.changes (s : State) (x : ShadowSet) (p item : Nat) : Bool :=
  match x.get item p, modeBit item with
  | some v, some b => decide (v ≠ s.fld (rPlotMode p) b b)
  | _, _ => false

def State.rectAfter (s : State) (x : ShadowSet) (p : Nat) : Dword :=
  match x.get itRect p with
  | some v => BitVec.ofNat 64 v
  | none => s.reg (rPlotRect p)

/-- The state with the set's rectangles in force. -/
def State.withRects (s : State) (x : ShadowSet) : State := x.mask.foldl (fun s p => s.setReg (rPlotRect p) (s.rectAfter x p)) s

def State.newRect (s : State) (x : ShadowSet) (p : Nat) : Bool :=
  x.has itRect p && decide (s.rectAfter x p ≠ s.reg (rPlotRect p))

/-- The slots that a plot holds, as the bits of PLOT_MODE.SLOTS. -/
def State.slotBits (s : State) (p : Nat) : Nat := s.fld (rPlotMode p) 63 48

/-- The slots after the set: UNPLACE and a new rectangle free them (R370). -/
def State.slotsAfter (s : State) (x : ShadowSet) (p : Nat) : Nat :=
  if x.has itUnplace p || s.newRect x p then 0 else s.slotBits p

def State.roleNow (s : State) : Nat := s.fld rShadowDev 1 0

/-- The state of the plot once UNPLACE or RECT of the set has acted. -/
def State.placedAfter (s : State) (x : ShadowSet) (p : Nat) : Bool :=
  !(x.has itUnplace p || s.newRect x p) &&
    (decide (s.placeState p = 3) || decide (s.placeState p = 4) || decide (s.placeState p = 5))

def rectFld (r : Dword) : Nat × Nat × Nat × Nat :=
  (Dword.field r 8 0, Dword.field r 17 9, Dword.field r 26 18, Dword.field r 35 27)

/-- Two rectangles share a site. -/
def overlap (a b : Dword) : Bool :=
  let (ax0, ay0, ax1, ay1) := rectFld a
  let (bx0, by0, bx1, by1) := rectFld b
  decide (ax0 ≤ bx1) && decide (bx0 ≤ ax1) && decide (ay0 ≤ by1) && decide (by0 ≤ ay1)

/-- Check 0x03: a staged rectangle. -/
def State.rectBad (s : State) (x : ShadowSet) (p : Nat) : Bool :=
  x.has itRect p && decide (Dword.field (s.rectAfter x p) 63 63 = 1) && (
    let r := s.rectAfter x p
    let (x0, y0, x1, y1) := rectFld r
    let least := if s.modeAfter x p 2 = 1 then 2 else 1
    decide (x1 < x0) || decide (y1 < y0) || decide (319 < x1) || decide (319 < y1) ||
      (List.range 64).any (fun o => decide (o ≠ p) && decide (Dword.field (s.rectAfter x o) 63 63 = 1) &&
        overlap r (s.rectAfter x o)) ||
      decide (((s.withRects x).usable p).length < least))

/-- An item of the set that may not meet a running RUN or a moving placement (R364, R372). -/
def ShadowSet.heavy (x : ShadowSet) (p : Nat) : Bool :=
  x.has itRect p || x.has itUnplace p || x.has 2 p || x.has 4 p || x.has 5 p

/-- The FLAGS of the package that a plot's placement came from. -/
def State.pkgFlags (s : State) (p : Nat) : Nat := match (s.plot p).placed with | some pl => pl.flags | none => 0

/-- The checks of R364 from 0x02 on, in table order: the code of the first that fails, or 0. -/
def State.checkSet (s : State) (x : ShadowSet) : Nat :=
  let ps := x.mask
  let others := s.shadow.filter (fun e => decide (e.2.state = 3) && decide (e.2.num ≠ x.num))
  let roleAfter := (x.get 0x10 0).getD s.roleNow
  if decide (x.state = 3) || others.any (fun e => e.2.mask.any ps.contains || (e.2.device && x.device)) then 2
  else if ps.any (s.rectBad x) then 3
  else if ps.any (fun p => (s.changes x p 2 || s.changes x p 4 || s.changes x p 5) && decide (1 < s.placeState p) &&
      !x.has itUnplace p && !s.newRect x p) then 4
  else if (List.range 64).any (fun p => s.placedAfter x p &&
      (((s.pkgFlags p).testBit 3 && s.changes x p 3 && decide (s.modeAfter x p 3 = 0)) ||
       ((s.pkgFlags p).testBit 4 && decide (x.get 0x10 0 = some 0)))) then 5
  else if ps.any (fun p => (s.running p || decide (s.placeState p = 2) || decide (s.placeState p = 4)) && x.heavy p) ||
      ((x.get 0x10 0).isSome && (List.range 64).any (fun p => decide (s.slotBits p ≠ 0) && s.running p)) then 6
  else if ps.any (fun p => decide (s.fenceState p ≠ 0) && x.items.any (fun i => decide (i.item < 0x10) && decide (i.plot = p) &&
      decide (i.item ≠ itRect) && decide (i.item ≠ itUnplace) && decide (i.item ≠ 11))) then 7
  else if ps.any (fun p => match x.get 9 p with
      | some m => decide (m ≠ s.slotsAfter x p)
      | none => decide (roleAfter ≠ 0) && decide (s.slotsAfter x p ≠ 0)) then 8
  else if decide (x.get 0x13 0 = some 1) && decide (s.fld rShadowDev 6 6 = 0) &&
      [0, 1].any (fun a => decide (s.fld (rHostPortCfg a) 0 0 = 1) && decide (s.fld (rHostPortStat a) 2 2 = 0)) then 9
  else 0

/-- FACET_CASC.STATE is FORMED. -/
def State.formed (s : State) : Bool := decide (s.fld rFacetCasc 63 60 = 2)

/-- A set that only a beat can commit in a formed cascade (R365, R374). -/
def State.needsBeat (s : State) (x : ShadowSet) : Bool :=
  (x.get 0x14 0).isSome || (x.get 0x10 0).isSome || x.mask.any (fun p => decide (s.slotBits p ≠ 0))

/-- Check 0x0A of R365. -/
def State.whenBad (s : State) (x : ShadowSet) (w : Nat) : Bool :=
  (decide (w = 2) && !s.formed) || (decide (w ≠ 2) && s.formed && s.needsBeat x)

/-- PLOT_MODE.ARMED of every plot, from the armed sets. -/
def State.showArmed (s : State) (ps : List Nat) : State :=
  ps.foldl (fun s p => s.setFld (rPlotMode p) 7 7
    (if s.shadow.any (fun e => decide (e.2.state = 3) && e.2.mask.contains p) then 1 else 0)) s

/-- The COMMIT that armed a set. -/
def State.commitOf (s : State) (x : ShadowSet) : Option HostCmd :=
  match s.command x.owner opCommit with
  | some c => if c.num 0 4 = x.num then some c else none
  | none => none

/-- An armed set leaves its armed state: its sites drop the pending items. -/
def State.disarm (s : State) (k : Nat) (x : ShadowSet) (state code : Nat) : State :=
  (s.putSet k { x with state := state, code := code, whenKind := 0, instant := 0, want := 0, named := 0, sent := false }).showArmed
    x.mask

/-- An event of R371 meets the sets: an armed one whose instant has not been sent fails with the code and its COMMIT is
refused; in a formed cascade so does, until the named beat, one that a beat is to commit (R375). -/
def State.cancelSets (s : State) (hit : ShadowSet → Bool) (code : Nat) : State :=
  s.shadow.foldl (fun s e =>
    let x := e.2
    if hit x && decide (x.state = 3) && (!x.sent || decide (x.whenKind = 2)) then
      let s := s.disarm e.1 x 2 code
      match s.commitOf x with
      | some c => s.finish x.owner c stRefused code []
      | none => s
    else if hit x && decide (x.state = 1) && s.formed && s.needsBeat x then s.disarm e.1 x 2 code
    else s) s

/-! ### The instant -/

/-- The staged keys of a tile apply (R141, R142). -/
def State.applyStaged (s : State) (t : Site) : State :=
  let g := (s.core t).staged
  let s := s.onCore t (fun c => { c with
    staged := .none, wlimit := g.wlimit.getD c.wlimit, handE := g.he.getD c.handE })
  let s := match g.genCfg with
    | some v => s.writeGenCfg t (BitVec.setWidth 64 v)
    | none => s
  match g.frame with
  | some f =>
    if decide (s.cfld t (aNiFrame f) 63 63 = 1) && decide ((s.core t).run ≠ .stopped) then
      let s := match (s.core t).blocked with
        | some (.openConn tag _) => s.onNi t (fun n => { n with
            opens := n.opens.map (fun (o : OpenReq) => if o.tag = tag then { o with stale := true } else o) })
        | _ => s
      s.onCore t (fun c => { c with blocked := none, switch := some { frame := f, opening := false, entry := 0 } })
    else s
  | none => s

/-- A commit instant at one tile (R366, R135, R394). -/
def State.instantAt (s : State) (t : Site) : State :=
  (((s.onCore t (fun c => { c with commits := c.commits + 1 })).onTile t (fun x =>
    if x.power = .idle then { x with power := .active } else x)).applyStaged t).wfeWake t

/-- The frame image of layer l goes from the loam of a tile into its frame area, and its frame is valid (R251, R266). -/
def State.loadFrame (s : State) (pl : Placement) (role f : Nat) (t : Site) (l : Nat) (r : LayerRec) : State :=
  let k := frameNum f l
  let b := pl.areaBase role f k
  let bs := s.bytes (loamAddr t (pl.frameLoam role l)) (imgSize role r)
  (s.setBytes (storeAddr t b) bs).ctrlStore t (aNiFrame k) (BitVec.ofNat 64 (2 ^ 63 + b / 64))

/-- A tile enters a frame at an instant of its plot (R142). -/
def State.entersFrame (s : State) (t : Site) : Bool :=
  match (s.core t).staged.frame with
  | some f => decide (s.cfld t (aNiFrame f) 63 63 = 1) && decide ((s.core t).run ≠ .stopped)
  | none => false

/-- The next layer of the placement is in force: the layer after it, where its frames are not resident, is reloaded from loam
while this one runs (R251, R266; DESIGN CHOICE, notes/assumptions/92.md: at the start of this one). -/
def State.nextLayer (s : State) (p : Nat) (pl : Placement) : State :=
  let n := (s.plot p).layer + 2
  let s := s.onPlot p (fun x => { x with layer := x.layer + 1 })
  match pl.layers[n]? with
  | some r => pl.tiles.zipIdx.foldl (fun s e =>
      let f := (pl.frames (pl.role e.2)).getD 2
      if f ≤ n then s.loadFrame pl (pl.role e.2) f (siteOf e.1) n r else s) s
  | none => s

/-- Tiles that enter a frame have a layer to run: what they reported of the one before is past. -/
def State.dropReports (s : State) (p : Nat) (ts : List Site) : State :=
  s.onPlot p (fun x => { x with run := x.run.map (fun r =>
    { r with reports := r.reports.filter (fun e => !ts.any (fun t => decide (e.1 = t.key))) }) })

/-- A commit instant of a plot, at every usable tile. Where a tile enters a frame the plot goes to its next layer. -/
def State.instantOf (s : State) (p : Nat) : State :=
  let entering := (s.usable p).filter (fun t => s.entersFrame t)
  let s := (s.usable p).foldl (fun s t => s.instantAt t) s
  if entering.isEmpty then s
  else
    let s := s.dropReports p entering
    match (s.plot p).placed with
    | some pl => s.nextLayer p pl
    | none => s

/-- UNPLACE takes effect (R370). -/
def State.applyUnplace (s : State) (p : Nat) : State := (((s.liftFence p).freePlaced p).freeStaging p).emptyPlot p

/-- RECT takes effect (R254, R370, R394): a changed rectangle costs the plot its placement, and its former tiles go DARK. -/
def State.applyRect (s : State) (p : Nat) (v : Dword) : State :=
  if v = s.reg (rPlotRect p) then s.liftFence p
  else
    let old := s.usable p
    let s := (s.liftFence p).freePlaced p
    let s := old.foldl (fun s t => s.darken t) s
    let s := s.setReg (rPlotRect p) v
    let s := if Dword.field v 63 63 = 0 then s.qpsLose p else s
    match (s.plot p).pkg with
    | some k => if k.whole then s.setPlace p 1 else s.emptyPlot p
    | none => s.emptyPlot p

/-- SPLIT takes effect at the plot's tiles, with the switch of R61. -/
def State.applySplit (s : State) (p v : Nat) : State :=
  if v = s.fld (rPlotMode p) 3 3 then s
  else (s.usable p).foldl (fun s t => (s.setCfld t aStoreCfg 1 1 1).onTile t (fun x => { x with splitTo := some (decide (v = 1)) }))
    (s.setFld (rPlotMode p) 3 3 v)

/-- ROLE takes effect (R319): SOLO leaves the ring, another role starts forming one. -/
def State.applyRole (s : State) (v : Nat) : State :=
  let s := (s.setFld rShadowDev 1 0 v).setFld rFacetCasc 1 0 v
  let s := { s with casc := .reset }
  let s := (s.setFld rFacetCasc 63 60 (if v = 0 then 0 else 1)).setFld rFacetCasc 59 56 0
  if v = 0 then (List.range 64).foldl (fun s p => s.onPlot p (fun x => { x with ueRing := 0 })) s else s

/-- A plot item takes effect. -/
def State.applyItem (s : State) (i : ShadowItem) : State :=
  let v := i.value.toNat
  match i.item with
  | 1 => s.setFld (rPlotMode i.plot) 0 0 v
  | 2 => s.setFld (rPlotMode i.plot) 1 1 v
  | 3 => s.setFld (rPlotMode i.plot) 2 2 v
  | 4 => s.applySplit i.plot v
  | 5 => s.setFld (rPlotMode i.plot) 4 4 v
  | 6 => s.setFld (rPlotMode i.plot) 5 5 v
  | 7 => s.setReg (rPlotSeed i.plot) i.value
  | 0x10 => s.applyRole v
  | 0x11 => s.setFld rShadowDev 3 2 v
  | 0x12 => s.setFld rShadowDev 5 4 v
  | 0x13 => s.setFld rShadowDev 6 6 v
  | 0x14 =>
    let s := s.setFld rFacetBeat 48 32 v
    if s.casc.slipBeat = some (s.fld rFacetBeatstat 63 32) then s else s.setFld rFacetBeat 16 0 v
  | _ => s

/-- Every item of a set takes effect: UNPLACE and RECT first (R370). -/
def State.applySet (s : State) (x : ShadowSet) : State :=
  let un := x.items.filter (fun i => decide (i.item = itUnplace))
  let re := x.items.filter (fun i => decide (i.item = itRect))
  let s := un.foldl (fun s i => s.applyUnplace i.plot) s
  let s := re.foldl (fun s i => s.applyRect i.plot i.value) s
  x.items.foldl (fun s i => s.applyItem i) s

/-- The instant of a set in slot k (R366, R367). -/
def State.commitSet (s : State) (k : Nat) (x : ShadowSet) : State :=
  let late := decide (x.instant < s.cycle)
  let s := s.atEdge x.instant
  let s := s.applySet x
  let s := x.mask.foldl (fun s p => s.instantOf p) s
  let s := ((s.setFld rShadowLast 63 32 x.num).dropSet k).showArmed x.mask
  let s := s.trace 10 0x0412 wholeModule x.num
  let s := if late then
      (s.setFld rShadowLast 0 0 1).alarm 0x000B (match x.mask.flatMap s.usable with | t :: _ => s.source t | [] => wholeModule) x.num
    else s
  match s.commitOf x with
  | some c => s.finish x.owner c stOk 0 []
  | none => s

/-! ### Meanings -/

/-- COMMIT_ACKS_COMPLETE (R366). The last acknowledgement has come at this edge A; the instant is named and sent. -/
def execCommitAcksComplete (k : Nat) (s : State) : Out :=
  onUnit (decide (k < Config.shadowSlots)) (whenSome "COMMIT_ACKS_COMPLETE" (s.setAt k) (fun x =>
    if !(decide (x.state = 3) && !x.sent && decide (x.want ≠ 2)) then .refused (.notEnabled "COMMIT_ACKS_COMPLETE")
    else
      let at_ := s.cycle + 2048
      if decide (x.want = 1) && decide (x.named < at_) then
        let s := s.disarm k x 2 11
        .next (match s.commitOf x with
          | some c => s.finish x.owner c stRefused 11 []
          | none => s)
      else .next (s.putSet k { x with sent := true, whenKind := 1, instant := if x.want = 1 then x.named else at_ })))

/-- COMMIT_INSTANT (R366, R370). -/
def execCommitInstant (k : Nat) (s : State) : Out :=
  onUnit (decide (k < Config.shadowSlots)) (whenSome "COMMIT_INSTANT" (s.setAt k) (fun x =>
    when_ "COMMIT_INSTANT" (x.sent && decide (x.whenKind = 1)) (s.commitSet k x)))

/-! ### STAGE (R359 to R362) -/

/-- Whether a value is one that the item takes (R361). -/
def itemValueOk (item v : Nat) : Bool :=
  match item with
  | 0 => decide (v = 0)
  | 1 => decide (v ≤ 1) | 2 => decide (v ≤ 1) | 3 => decide (v ≤ 1) | 4 => decide (v ≤ 1) | 5 => decide (v ≤ 1) | 6 => decide (v ≤ 1)
  | 7 => true
  | 8 => decide (v % 2 ^ 63 < 2 ^ 36)
  | 9 => decide (v < 2 ^ 16)
  | 10 => decide (v = 0) | 11 => decide (v = 0)
  | 0x10 => decide (v ≤ 2) | 0x11 => decide (v ≤ 2) | 0x12 => decide (v ≤ 2)
  | 0x13 => decide (v ≤ 1)
  | 0x14 => decide (625 ≤ v) && decide (v ≤ 125000)
  | _ => false

def isPlotItem (item : Nat) : Bool := decide (1 ≤ item) && decide (item ≤ 11)

/-- The item replaces one for the same plot, or joins the set. -/
def ShadowSet.put (x : ShadowSet) (i : ShadowItem) : ShadowSet :=
  let same := fun j : ShadowItem => decide (j.item = i.item) && decide (j.plot = i.plot)
  { x with items := if x.items.any same then x.items.map (fun j => if same j then i else j) else x.items ++ [i]
           state := 0 }

/-- The lowest free slot. -/
def State.freeSlot (s : State) : Option Nat := (List.range Config.shadowSlots).find? (fun k => (s.setAt k).isNone)

/-- One part of STAGE: its code, and the state after it (R362). -/
def State.stagePart (s : State) (q : Nat) (c : HostCmd) (i : Nat) : Nat × State :=
  let b := 16 * i
  let num := c.num b 4
  let item := c.num (b + 4) 1
  let plot := c.num (b + 5) 1
  let v := c.num (b + 8) 8
  let it : ShadowItem := { item := item, plot := plot, value := BitVec.ofNat 64 v }
  if decide (num = 0) || decide (c.num (b + 6) 2 ≠ 0) || !itemValueOk item v ||
      (if isPlotItem item then decide (63 < plot) else decide (plot ≠ 0)) then (stBadop, s)
  else if !s.queueDev q && (decide (0x10 ≤ item) || (isPlotItem item && decide (plot ≠ q))) then (stPerm, s)
  else match s.setNamed num with
    | some (k, x) =>
      if x.owner ≠ q then (stPerm, s)
      else if x.state = 3 then (stState, s)
      else if item = 0 then (stOk, s.dropSet k)
      else if decide (255 ≤ x.items.length) && decide ((x.put it).items.length ≠ x.items.length) then (stNospace, s)
      else (stOk, s.putSet k (x.put it))
    | none =>
      if item = 0 then (stOk, s)
      else match s.freeSlot with
        | none => (stNospace, s)
        | some k =>
          let x : ShadowSet := { num := num, owner := q, state := 0, code := 0, items := [it], whenKind := 0, instant := 0,
                                 want := 0, named := 0, sent := false }
          (stOk, s.putSet k x)

/-- STAGE (R362): the next part of the command. -/
def execHostStage (q : Nat) (s : State) : Out :=
  hostRow "HOST_STAGE" opStage q s (fun c =>
    let (code, s) := s.stagePart q c c.part
    .next (s.endPart q c code []))

/-- The codes of R364 for a command of queue q that names a set: 1 where the queue holds no such set. -/
def State.judge (s : State) (q num : Nat) : Nat :=
  match s.setNamed num with
  | some (_, x) => if x.owner = q then s.checkSet x else 1
  | none => 1

/-- CHECKED goes to the lead (R335, R374): the members that hold the set as checked are counted there. -/
def State.ownChecked (s : State) (num : Nat) : State :=
  if s.formed then
    let pos := s.fld rFacetCasc 47 40
    let g : CtrlGrain := { pos := pos, beat := 0, body := .checked num 1 }
    let entry := (s.casc.checked.find? (fun e => decide (e.1 = num))).map (fun e => e.2)
    if s.fld rFacetCasc 1 0 = 1 then
      { s with casc := { s.casc with checked := mapPut s.casc.checked num ((entry.getD []).filter (fun x => decide (x ≠ 0)) ++ [0]) } }
    else if 2 * pos ≤ s.fld rFacetCasc 39 32 + 1 then { s with casc := { s.casc with up := s.casc.up ++ [g] } }
    else { s with casc := { s.casc with down := s.casc.down ++ [g] } }
  else s

/-- A set named by a device-scope command of a queue without DEV (R350). -/
def State.devRefused (s : State) (q num : Nat) : Bool :=
  !s.queueDev q && (match s.setNamed num with | some (_, x) => x.device && decide (x.owner = q) | none => false)

/-- CHECK (R364). -/
def execCheck (q : Nat) (s : State) : Out :=
  hostRow "CHECK" opCheck q s (fun c =>
    let num := c.num 0 4
    if s.devRefused q num then .next (s.finish q c stPerm 0 [])
    else
      let code := s.judge q num
      let s' := match s.setNamed num with
        | some (k, x) =>
          if decide (x.owner ≠ q) || decide (x.state = 3) then s
          else s.putSet k { x with state := if code = 0 then 1 else 2, code := code }
        | none => s
      if code = 0 then .next ((s'.ownChecked num).finish q c stOk 0 []) else .next (s'.finish q c stRefused code []))

/-- COMMIT (R365, R374): the set is checked again and armed; the command completes at the instant. -/
def execCommit (q : Nat) (s : State) : Out :=
  hostRow "COMMIT" opCommit q s (fun c =>
    let num := c.num 0 4
    let w := c.num 4 1
    if c.started then .refused (.notEnabled "COMMIT")
    else if s.devRefused q num then .next (s.finish q c stPerm 0 [])
    else
      let code := s.judge q num
      match s.setNamed num with
      | some (k, x) =>
        let code := if decide (code = 0) && s.whenBad x w then 10 else code
        if code = 0 then
          .next (((s.putSet k { x with state := 3, code := 0, want := w, named := c.num 8 8 }).showArmed x.mask).onCommand q c.seq
            (fun c => { c with started := true }))
        else
          let s := if decide (x.owner = q) && decide (x.state ≠ 3) then s.putSet k { x with state := 2, code := code } else s
          .next (s.finish q c stRefused code [])
      | none => .next (s.finish q c stRefused 1 []))

end Sys2Proof.Machine
end

