-- ==== Sys2Proof/Machine/Fence.lean ====
section
/-!
DEFINITION. Fences: who names one, what it stops, its record, and how it ends (R423 to R430, R440).
-/
namespace Sys2Proof.Machine

/-! ### Causes (R425) -/

def fcDoubleTrap : Nat := 1
def fcTimeout : Nat := 2
def fcDrain : Nat := 3
def fcMirror : Nat := 4
def fcLink : Nat := 5
def fcRing : Nat := 6
def fcThermal : Nat := 7
def fcFieldShort : Nat := 8
def fcSupply : Nat := 9
def fcField : Nat := 10
def fcRetire : Nat := 11
def fcHost : Nat := 12
def fcFatal : Nat := 13

/-- What whoever decides a fence knows of it: the tile that reported the cause, the trap that a double trap carries, the field,
the command that caused it with its STATUS, and the RUN to replay. -/
structure FenceCall where
  tile    : Option Site
  tcause  : Nat
  epc     : Word
  tval    : Word
  field   : Nat
  culprit : Option Nat
  status  : Nat
  replay  : Option RunSt
  deriving DecidableEq, Repr

def FenceCall.plain : FenceCall :=
  { tile := none, tcause := 0, epc := 0, tval := 0, field := 0xFFFF, culprit := none, status := 0, replay := none }

/-! ### The tile that the record names (R426) -/

def Tile.haltedQ (x : Tile) : Option Nat := (List.range 8).find? (fun q => (x.queue q).halted)
def Tile.busyQ (x : Tile) : Option Nat := (List.range 8).find? (fun q => !(x.queue q).flight.isEmpty)

/-- A core that FIN has stopped, or that stands in no blocking instruction, is not blocked. -/
def Tile.blockedAt (x : Tile) : Option Nat := if x.core.blocked.isSome then some x.core.blockedAt else none
def Tile.blockedQ (x : Tile) : Nat := match x.core.blocked with | some (.waitc q _) => q | _ => 8

/-- Sites by rising (py, px): the raster order of the usable tiles. -/
def State.halted (s : State) (p : Nat) : Option (Site × Nat) :=
  ((s.usable p).filterMap (fun t => ((s.tile t).haltedQ).map (fun q => (t, q)))).head?

def State.longest (s : State) (p : Nat) : Option (Site × Nat) :=
  let l := (s.usable p).filterMap (fun t => ((s.tile t).blockedAt).map (fun c => (t, c)))
  match l with
  | [] => none
  | a :: l =>
    let b := l.foldl (fun b e => if e.2 < b.2 then e else b) a
    some (b.1, (s.tile b.1).blockedQ)

def State.busy (s : State) (p : Nat) : Option (Site × Nat) :=
  ((s.usable p).filterMap (fun t => ((s.tile t).busyQ).map (fun q => (t, q)))).head?

/-- ENGINE for a tile that reported the cause itself. -/
def Tile.engineOf (x : Tile) (other : Nat) : Nat :=
  match x.haltedQ with
  | some q => q
  | none => if x.core.blocked.isSome then x.blockedQ else x.busyQ.getD other

def State.named (s : State) (p cause : Nat) (c : FenceCall) : Option Site × Nat :=
  match c.tile with
  | some t => (some t, (s.tile t).engineOf (if cause = fcDoubleTrap then 8 else 0xFF))
  | none => match (s.halted p).orElse (fun _ => (s.longest p).orElse (fun _ => s.busy p)) with
    | some (t, q) => (some t, q)
    | none => (none, 0xFF)

/-! ### The record (R424) -/

/-- The descriptor and the ticket that the record names: the faulted one of a halted queue, or the one at its head. -/
def Tile.namedCmd (x : Tile) (q : Nat) : Option (Desc × Nat × Nat) :=
  let k := x.queue q
  if 8 ≤ q then none
  else if k.halted then some (k.fdesc, Dword.field k.fault 31 0, Dword.field k.fault 55 48)
  else match k.flight, k.entries with
    | f :: _, _ => some (f.entry.desc, f.entry.ticket.toNat, 0)
    | [], e :: _ => some (e.desc, e.ticket.toNat, 0)
    | [], [] => none

def State.faultRecord (s : State) (p : Nat) (f : FenceSt) (drained : Bool) : List Byte :=
  let t := f.tile.map siteOf
  let x := match t with | some t => s.tile t | none => Tile.reset
  let cmd := x.namedCmd f.engine
  let core := f.cause = fcDoubleTrap
  let v := t.bind s.virt
  let beat := if s.roleNow = 0 then 0 else s.fld rFacetBeatstat 63 32
  leBytes 1 1 ++ leBytes 1 f.cause ++ leBytes 1 p ++ leBytes 1 f.queue ++ leBytes 4 f.seq ++ leBytes 8 f.cycle ++
    leBytes 2 (match t with | some t => t.px | none => 0xFFFF) ++ leBytes 2 (match t with | some t => t.py | none => 0xFFFF) ++
    leBytes 2 (match v with | some (_, x, _) => x | none => 0xFFFF) ++
    leBytes 2 (match v with | some (_, _, y) => y | none => 0xFFFF) ++
    leBytes 1 f.engine ++ leBytes 1 (match cmd with | some (d, _, _) => dTag d | none => 0) ++
    leBytes 1 (match cmd with | some (_, _, c) => c | none => 0) ++
    leBytes 1 (if core then f.tcause else if x.core.trapT then x.core.cause.toNat % 256 else 0) ++
    leBytes 4 (match cmd with | some (_, k, _) => k | none => 0) ++
    leBytes 4 (if core then f.epc else if t.isSome then x.core.epc else 0).toNat ++
    leBytes 4 (if core then f.tval else if t.isSome then x.core.tval else 0).toNat ++
    leBytes 8 (if f.engine < 8 then (x.queue f.engine).detail.toNat else 0) ++
    leBytes 2 f.field ++ leBytes 2 f.more ++ leBytes 4 beat ++
    leBytes 1 ((if drained then 1 else 0) + (if f.cut then 2 else 0) + (if f.replay.isSome then 4 else 0)) ++ leBytes 7 0

/-- RAS_FLT[p] takes the record. -/
def State.writeRecord (s : State) (p : Nat) (r : List Byte) : State :=
  (List.range 8).foldl (fun s i => s.setReg (rRasFlt p i) (BitVec.ofNat 64 (leAt r (8 * i) 8))) s

/-! ### Deciding a fence -/

/-- A core is stopped at an instruction boundary, without a trap; what it waits for is abandoned (R427). -/
def Core.stop (c : Core) : Core := { c with run := .stopped, blocked := none, switch := none }

def State.stopCores (s : State) (p : Nat) : State :=
  (s.usable p).foldl (fun s t =>
    let s := match (s.core t).blocked with
      | some (.openConn tag _) => s.onNi t (fun n => { n with
          opens := n.opens.map (fun (o : OpenReq) => if o.tag = tag then { o with stale := true } else o) })
      | _ => s
    s.onCore t Core.stop) s

/-- One more cause, or one more tile that reports, of a fence that stands (R426, R429). -/
def State.moreFault (s : State) (p : Nat) : State :=
  if s.fenceState p = 1 then
    s.onPlot p (fun x => { x with fence := x.fence.map (fun f => { f with more := satAdd 0xFFFF f.more 1 }) })
  else s.bump (rRasFlt p 6) 31 16 1

/-- A fence is decided (R427): FENCING, the armed sets cancelled, the cores stopped. A fence of a fenced plot only counts. -/
def State.fencePlot (s : State) (p cause : Nat) (c : FenceCall) : State :=
  if s.fenceState p ≠ 0 then s.moreFault p
  else
    let (tile, engine) := s.named p cause c
    let running := (s.hostq p).front.filter (fun c => c.started)
    let f : FenceSt := {
      cause := cause, cycle := s.cycle, queue := if running.isSome then p else 0xFF
      seq := match running with | some c => c.seq | none => 0
      tile := tile.map Site.key, engine := engine, field := c.field, more := 0, tcause := c.tcause, epc := c.epc
      tval := c.tval, culprit := c.culprit, status := c.status, replay := c.replay, cut := false }
    let s := (s.setFld (rRasPlot p) 63 62 1).setFld (rRasPlot p) 55 48 cause
    let s := (s.onPlot p (fun x => { x with fence := some f })).event 0x0107 (plotSource p) (cause + p * 2 ^ 32)
    (s.cancelSets (fun x => x.mask.contains p) 7).stopCores p

/-- The RUN of a plot whose work has faulted is the command that the fence ends with FAULT. -/
def State.runFault (s : State) (p : Nat) (c : FenceCall) : FenceCall :=
  match (s.plot p).run with
  | some r => { c with culprit := some r.seq, status := stFault }
  | none => c

/-- A fence with no reporting tile (R425). Where a field is its cause, the RUN's work fails with the record (R398); for the
other causes the RUN counts as one of the plot's other commands, and completes FENCED (DEDUCED, notes/assumptions/37.md). -/
def State.fence (s : State) (p cause field : Nat) : State :=
  let c : FenceCall := { FenceCall.plain with field := field }
  s.fencePlot p cause (if field = 0xFFFF then c else s.runFault p c)

/-! ### The end of a fence -/

/-- Nothing of the plot executes and nothing is unacknowledged (R427). -/
def State.fenceDrained (s : State) (p : Nat) : Bool :=
  (s.usable p).all (fun t =>
    let x := s.tile t
    x.queues.toList.all (fun q => q.flight.isEmpty) && x.ni.tx.all (fun c => decide (c.unacked = 0)))

/-- Every engine that still executes stops at once: its command neither completes nor faults, and what waits at the NI is
discarded (R427). -/
def State.cutTile (s : State) (t : Site) : State :=
  (s.onTile t (fun x => { x with queues := x.queues.map (fun q => { q with
    entries := q.flight.map (fun f => f.entry) ++ q.entries, flight := [] }) })).onNi t (fun n => { n with
      inbox := n.inbox.filter (fun g => decide (g.kind.toNat = 14)), ready := [] })

/-- The plot's outstanding commands complete (R427): the one that caused the fence with its STATUS and the record, an ABORT
that waits for it after it, and every other one FENCED. A RUN that is to be replayed stays outstanding (R440). -/
def State.endCommands (s : State) (p : Nat) (f : FenceSt) (r : List Byte) : State :=
  let cs := (s.hostq p).cmds
  let s := match cs.find? (fun c => decide (f.culprit = some c.seq)) with
    | some c => if f.replay.isSome then s
      else s.complete p c f.status 0 r
    | none => s
  ((s.hostq p).cmds.filter (fun c => decide (f.culprit ≠ some c.seq))).foldl (fun s c => s.complete p c stFenced 0 []) s

/-- What a plot has in hand with the stewards ends with its fence. -/
def State.dropWork (s : State) (p : Nat) : State :=
  let s := s.onPlot p (fun x => { x with run := none, draining := false, placing := none })
  let s := { s with rdma := s.rdma.filter (fun r => decide (r.queue ≠ p)) }
  if s.placeState p = 2 then s.setPlace p 1 else s

/-- The plot is FENCED: the record is written and the commands complete. -/
def State.fenced (s : State) (p : Nat) (drained : Bool) : State :=
  match (s.plot p).fence with
  | none => s
  | some f =>
    let f := { f with cut := !drained }
    let s := if drained then s else (s.usable p).foldl (fun s t => s.cutTile t) s
    let s := (s.setFld (rRasPlot p) 63 62 2).onPlot p (fun x => { x with fence := some f })
    let r := s.faultRecord p f drained
    let s := ((s.writeRecord p r).dropWork p).endCommands p f r
    match f.replay with
    | some _ => { s with resets := s.resets ++ [.plot p] }
    | none => s

/-! ### Reports that name a fence -/

/-- Whether a tile's report raises this cause. -/
def reportCause : SvcNote → Option Nat
  | .doubleTrap .. => some fcDoubleTrap
  | .linkErr => some fcLink
  | .twinMismatch => some fcMirror
  | _ => none

/-- The replay that a mismatch asks for (R440). -/
def State.replayOf (s : State) (p : Nat) : Option RunSt :=
  match (s.plot p).run with
  | some r =>
    if r.keep && decide (s.fld (rRasPlot p) 15 8 < s.fld (rRasPlot p) 3 1) &&
        (decide (s.fld (rPlotMode p) 4 4 = 0) || decide (s.fld (rRasPlot p) 0 0 = 0)) then some r
    else none
  | none => none

/-- A report of a tile of plot p decides a fence. -/
def State.fenceReport (s : State) (p : Nat) (t : Site) (n : SvcNote) : State :=
  match n with
  | .doubleTrap cause epc tval =>
    s.fencePlot p fcDoubleTrap (s.runFault p { FenceCall.plain with
      tile := some t, tcause := cause.toNat % 256, epc := epc, tval := tval })
  | .linkErr => if s.running p then s.fencePlot p fcLink (s.runFault p { FenceCall.plain with tile := some t }) else s
  | .twinMismatch =>
    let s := s.bump (rRasPlot p) 47 32 1
    s.fencePlot p fcMirror (s.runFault p { FenceCall.plain with tile := some t, replay := s.replayOf p })
  | _ => s

/-! ### Meanings -/

/-- FENCE (R425, R427): Bedrock takes a tile's report of this cause. The other causes fence in their own events. -/
def execFence (p cause : Nat) (s : State) : Out :=
  onUnit (decide (p < Config.plots)) (
    match takeFirst (fun (e : Site × SvcNote) => decide (reportCause e.2 = some cause) && decide (s.plotOf e.1 = some p)) s.svc with
    | some (e, rest) => .next ({ s with svc := rest }.fenceReport p e.1 e.2)
    | none => .refused (.notEnabled "FENCE"))

/-- FENCE_DRAINED (R427). -/
def execFenceDrained (p : Nat) (s : State) : Out :=
  onUnit (decide (p < Config.plots)) (when_ "FENCE_DRAINED" (decide (s.fenceState p = 1) && s.fenceDrained p) (s.fenced p true))

/-- FENCE_DRAIN_LIMIT (R427, R430): the limit of a fence, or the limit of a RUN's drain, which then is fenced with cause DRAIN,
the time already spent counting. -/
def execFenceDrainLimit (p : Nat) (s : State) : Out :=
  onUnit (decide (p < Config.plots)) (
    if s.fenceState p = 1 then .next (s.fenced p false)
    else if s.fenceState p = 0 && (s.plot p).draining then
      let c := match (s.plot p).run with
        | some r => { FenceCall.plain with culprit := some r.seq, status := stAborted }
        | none => FenceCall.plain
      .next ((s.fencePlot p fcDrain c).fenced p false)
    else .refused (.notEnabled "FENCE_DRAIN_LIMIT"))

/-- PLOT_RESET_FENCE (R451). -/
def execPlotResetFence (p : Nat) (s : State) : Out :=
  onUnit (decide (p < Config.plots)) (.next (s.fence p fcHost 0xFFFF))

/-- RAS_DRAIN.LIMIT: a write below 10 stores 10 (R450). -/
def State.writeDrain (s : State) (v : Dword) : State := s.setFld rRasDrain 15 0 (max 10 (Dword.field v 15 0))

/-- RAS_DRAIN_WRITE (R450). -/
def execRasDrainWrite (v : Dword) (s : State) : Out := .next (s.writeDrain v)

end Sys2Proof.Machine
end

