-- ==== Sys2Proof/Machine/NiFrame.lean ====
section
/-!
DEFINITION. Configuration frames (R142, R249, R250): the switch, its open list, and the entry of the new frame.
-/
namespace Sys2Proof.Machine

/-- The frame a core is switching to and has not opened yet: by FRAME, or by the commit of NEXT_FRAME (R142). -/
def Core.switching (c : Core) : Option Nat :=
  match c.switch, c.blocked with
  | some x, _ => if x.opening then none else some x.frame
  | none, some (.frame f) => some f
  | none, _ => none

/-- Queues and stores have drained, and nothing that the tile sent is unacknowledged (R250). -/
def State.switchReady (s : State) (t : Site) : Bool :=
  s.allDone t 0xFF && (s.core t).stbuf.isEmpty && (s.core t).pendQ.isEmpty &&
    (s.ni t).tx.all (fun x => decide (x.unacked = 0) && x.q.isEmpty)

/-- Every sending connection sends its CLOSE; ports, steering units, barriers and spill are cleared. -/
def State.clearNi (s : State) (t : Site) : State :=
  let s := ((s.ni t).tx.filter (fun x => decide (x.conn < 0x3C0))).foldl (fun s x => s.sendClose t x) s
  (s.onNi t (fun n => { n with
    rx := n.rx.filter (fun r => decide (0x3C0 ≤ r.conn))
    ready := n.ready.filter (fun g => decide (0x3C0 ≤ g.conn.toNat))
    ports := [], bars := [], steer := [], waiting := [] })).onCore t (fun c => { c with held := none })

/-- The header's tables: n registers of w bytes from header offset off, at local addresses from a (R249). -/
def State.loadTable (s : State) (t : Site) (h : List Byte) (off a w n : Nat) : State :=
  (List.range n).foldl (fun s i => s.ctrlStore t (a + w * i) (BitVec.ofNat 64 (leAt h (off + w * i) w))) s

/-- The four tables of a frame header. -/
def State.loadTables (s : State) (t : Site) (h : List Byte) : State :=
  ((((s.loadTable t h 64 (aNiPort 0) 8 64).loadTable t h 576 (aNiHslot 0) 4 64).loadTable t h 832 (aNiSteer 0) 8 4).loadTable
    t h 864 (aNiBar 0) 4 16).checkSpill t

/-- Open entry i of the list: its OPEN goes, or its RESULT is written at once (R223, R249, R321). -/
def State.openEntry (s : State) (t : Site) (base : Nat) (h : List Byte) (i : Nat) : State :=
  let e : Dword := BitVec.ofNat 64 (leAt h (928 + 8 * i) 8)
  if Dword.field e 31 31 = 0 then s
  else
    let at_ := base + 928 + 8 * i + 6
    match s.startOpen t 0 (Dword.field e 8 0) (Dword.field e 24 16) (Dword.field e 30 25) (some at_) with
    | .ok (_, s) => s
    | .error r => (s.eccRead t at_ 2).1.setBytes (storeAddr t at_) (leBytes 2 (0x8000 + r))

/-- FRAME_SWITCH (R142, R250). -/
def execFrameSwitch (t : Site) (s : State) : Out :=
  onTile t s (whenSome "FRAME_SWITCH" (s.core t).switching (fun f =>
    when_ "FRAME_SWITCH" (s.switchReady t) (
      let s := s.clearNi t
      let base := 64 * s.cfld t (aNiFrame f) 12 0
      let (h, s, _) := s.readStore t base 1024
      let s := s.loadTables t h
      let n := min 12 (leAt h 0 8 / 2 ^ 32 % 16)
      let s := (List.range n).foldl (fun s i => s.openEntry t base h i) s
      s.onCore t (fun c => { c with
        frame := f, blocked := none
        switch := some { frame := f, opening := true, entry := leAt h 0 8 % 2 ^ 19 / 4 * 4 } }))))

/-- FRAME_ENTRY (R250). -/
def execFrameEntry (t : Site) (s : State) : Out :=
  onTile t s (whenSome "FRAME_ENTRY" (s.core t).switch (fun x =>
    when_ "FRAME_ENTRY" (x.opening && (s.ni t).opens.all (fun o => o.entry.isNone || o.stale))
      (s.onCore t (fun c => ({ c with switch := none, run := .running }).jump (BitVec.ofNat 19 x.entry)))))

end Sys2Proof.Machine
end

