-- ==== Sys2Proof/Machine/Package.lean ====
section
/-!
DEFINITION. A model package read from a plot's staging extents (R258 to R262), and Tilth's plan of it on the plot: the checks of R275
in their order, the binding, the layouts, the queue sizes, the trees and the spill areas (R263 to R274).
-/
namespace Sys2Proof.Machine

/-! ### The parts of a package -/

def State.pkgNum (s : State) (k : Package) (off n : Nat) : Nat := leNat (s.pkgBytes k off n)
def State.pkgZero (s : State) (k : Package) (off n : Nat) : Bool := decide (s.pkgNum k off n = 0)

def pkgMagic : Nat := 0x31474B50

/-- Layer record l (R259). -/
def State.layerRec (s : State) (k : Package) (l : Nat) : LayerRec :=
  let b := 128 + 64 * l
  let f := fun o n => s.pkgNum k (b + o) n
  { roles := f 0 4, frameb := f 4 4, datab := f 8 4, shardb := f 12 4, conns := f 16 2, ports := f 18 1, hslots := f 19 1
    steer := f 20 1, bars := f 21 1, tree0 := f 22 2 % 4096, treen := f 22 2 / 4096, flags := f 24 4, frameOff := f 28 4
    shardOff := f 32 4, optOff := f 36 4, optl := f 40 4, jfirst := f 44 4, jcount := f 48 2 }

def joinAt (nlayer i : Nat) : Nat := 128 + 64 * nlayer + 288 * i
def treeAt (nlayer njoin i : Nat) : Nat := 128 + 64 * nlayer + 288 * njoin + 16 * i

def State.stages (s : State) (k : Package) (b n : Nat) : List Stage :=
  (List.range (min n 8)).map (fun i =>
    { role := s.pkgNum k (b + 16 * i) 4, time := s.pkgNum k (b + 16 * i + 4) 4, beta := s.pkgNum k (b + 16 * i + 8) 2 })

def State.joinRec (s : State) (k : Package) (nlayer i : Nat) : JoinRec :=
  let b := joinAt nlayer i
  let f := fun o n => s.pkgNum k (b + o) n
  { layer := f 0 2, index := f 2 2, fork := f 4 4, join := f 8 4, port := f 12 1, nshort := f 13 1, nlong := f 14 1
    tau := f 16 4, j := f 20 4, short := s.stages k (b + 32) (f 13 1), long := s.stages k (b + 160) (f 14 1) }

/-- A tree record (R262): ROOT, FIRST, NLEAF, STRIDE. -/
def State.treeRec (s : State) (k : Package) (nlayer njoin i : Nat) : Nat × Nat × Nat × Nat :=
  let b := treeAt nlayer njoin i
  (s.pkgNum k b 4, s.pkgNum k (b + 4) 4, s.pkgNum k (b + 8) 4, s.pkgNum k (b + 12) 4)

/-- The header's numbers (R258). -/
structure Header where
  nlayer  : Nat
  njoin   : Nat
  flags   : Nat
  kvslots : Nat
  ntree   : Nat
  beatcyc : Nat
  kvb     : Nat
  actb    : Nat
  optb    : Nat
  deriving DecidableEq, Repr

def State.header (s : State) (k : Package) : Header :=
  { nlayer := s.pkgNum k 6 2, njoin := s.pkgNum k 8 4, flags := s.pkgNum k 12 4, kvslots := s.pkgNum k 16 2
    ntree := s.pkgNum k 18 2, beatcyc := s.pkgNum k 20 4, kvb := s.pkgNum k 24 8, actb := s.pkgNum k 32 8
    optb := s.pkgNum k 40 8 }

/-- The payload regions that a layer names: offset and length (R260). -/
def payload (r : LayerRec) : List (Nat × Nat) :=
  [(k64 * r.frameOff, r.roles * roundUp r.frameb 64), (k64 * r.shardOff, r.roles * r.shardb),
   (k64 * r.optOff, r.roles * r.optl)].filter (fun e => decide (e.2 ≠ 0))

def disjoint (a b : Nat × Nat) : Bool := decide (a.1 + a.2 ≤ b.1) || decide (b.1 + b.2 ≤ a.1)

def allDisjoint : List (Nat × Nat) → Bool
  | [] => true
  | a :: l => l.all (disjoint a) && allDisjoint l

/-! ### FORMAT (R258 to R262, R275) -/

def State.headerBad (s : State) (k : Package) : Bool :=
  let h := s.header k
  decide (k.size < 128) || decide (s.pkgNum k 0 4 ≠ pkgMagic) || decide (s.pkgNum k 4 2 ≠ 1) || decide (h.nlayer = 0) ||
    decide (4096 < h.nlayer) || decide (32 ≤ h.flags) || decide (16 < h.kvslots) || decide (256 < h.ntree) ||
    !s.pkgZero k 48 16 || decide (k.size < treeAt h.nlayer h.njoin h.ntree) ||
    decide (leNat (s.pkgBytes k 64 64) ≠ (Config.sha3 (s.pkgBytes k 128 (k.size - 128))).toNat)

def State.layerBad (s : State) (k : Package) (h : Header) (l : Nat) (r : LayerRec) : Bool :=
  decide (r.roles = 0) || !decide (r.roles ≤ 81920) || !decide (r.frameb ≤ 0x40000) || decide (r.shardb % 64 ≠ 0) ||
    decide (64 < r.ports) || decide (64 < r.hslots) || decide (4 < r.steer) || decide (16 < r.bars) ||
    (decide (r.treen ≠ 0) && decide (h.ntree < r.tree0 + r.treen)) || decide (4 ≤ r.flags) || decide (r.optl % 64 ≠ 0) ||
    !s.pkgZero k (128 + 64 * l + 50) 14

/-- The join table is grouped by layer in layer order, each layer's records where its JFIRST says. -/
def joinsGrouped (njoin : Nat) : Nat → List LayerRec → Bool
  | n, [] => decide (n = njoin)
  | n, r :: l => decide (r.jfirst = n) && joinsGrouped njoin (n + r.jcount) l

def State.stagesBad (s : State) (k : Package) (b n roles : Nat) : Bool :=
  (List.range 8).any (fun i =>
    let a := b + 16 * i
    if i < n then decide (roles ≤ s.pkgNum k a 4) || !s.pkgZero k (a + 10) 6 else !s.pkgZero k a 16)

def State.joinBad (s : State) (k : Package) (h : Header) (l : Nat) (r : LayerRec) (i : Nat) : Bool :=
  let x := s.joinRec k h.nlayer (r.jfirst + i)
  let b := joinAt h.nlayer (r.jfirst + i)
  decide (x.layer ≠ l) || decide (x.index ≠ i) || decide (r.roles ≤ x.fork) || decide (r.roles ≤ x.join) ||
    decide (63 < x.port) || decide (8 < x.nshort) || decide (x.nlong = 0) || decide (8 < x.nlong) || !s.pkgZero k (b + 15) 1 ||
    !s.pkgZero k (b + 24) 8 || s.stagesBad k (b + 32) x.nshort r.roles || s.stagesBad k (b + 160) x.nlong r.roles

def treeBad (most : Nat) : Nat × Nat × Nat × Nat → Bool
  | (root, first, n, step) => decide (most ≤ root) || decide (n = 0) || !decide (n ≤ 81920) || decide (step = 0) ||
      decide (most ≤ first + (n - 1) * step)

/-- The layers of a package. -/
def State.layersOf (s : State) (k : Package) : List LayerRec := (List.range (s.header k).nlayer).map (s.layerRec k)

def State.formatBad (s : State) (k : Package) : Bool :=
  s.headerBad k || (
    let h := s.header k
    let ls := s.layersOf k
    let regions := ls.flatMap payload
    let first := roundUp (treeAt h.nlayer h.njoin h.ntree) k64
    ls.zipIdx.any (fun e => s.layerBad k h e.2 e.1) || !joinsGrouped h.njoin 0 ls ||
      regions.any (fun e => decide (e.1 < first) || decide (k.size < e.1 + e.2)) || !allDisjoint regions ||
      decide (h.optb < sumOf (fun r => r.optl) ls) ||
      ls.zipIdx.any (fun e => (List.range e.1.jcount).any (fun i => s.joinBad k h e.2 e.1 i)) ||
      (List.range h.ntree).any (fun i => treeBad (ls.foldl (fun n r => max n r.roles) 0) (s.treeRec k h.nlayer h.njoin i)))

/-! ### Refusals (R275) -/

/-- A refusal: its code, layer and join, and the value needed against the value available. -/
structure Refused where
  code  : Nat
  layer : Nat
  join  : Nat
  need  : Nat
  have_ : Nat
  deriving DecidableEq, Repr

def reFormat : Nat := 1
def reMode : Nat := 2
def reTiles : Nat := 3
def reResource : Nat := 4
def reConn : Nat := 5
def reStore : Nat := 6
def reQueue : Nat := 7
def rePrism : Nat := 8
def reLoam : Nat := 9
def reSpill : Nat := 10
def reSlots : Nat := 11
def reBeat : Nat := 12
def reAfter : Nat := 13
def reState : Nat := 14

def pkgRefused (code need have_ : Nat) : Refused := { code := code, layer := 0xFFFF, join := 0, need := need, have_ := have_ }

/-! ### Frame images in the package -/

/-- The image of a role in a layer, without the padding that follows FRAMEB. -/
def State.image (s : State) (k : Package) (r : LayerRec) (role : Nat) : List Byte :=
  s.pkgBytes k (k64 * r.frameOff + role * roundUp r.frameb 64) r.frameb

/-- NOPEN of an image. -/
def nopen (h : List Byte) : Nat := leAt h 0 8 / 2 ^ 32 % 16

/-- NI_BAR[n] of an image. -/
def barOf (h : List Byte) (n : Nat) : Dword := BitVec.ofNat 64 (leAt h (864 + 4 * n) 4)

/-- The barrier groups that a layer uses: those that some image of it forms. -/
def State.groupsOf (s : State) (k : Package) (r : LayerRec) : List Nat :=
  (List.range 16).filter (fun g => (List.range r.roles).any (fun n => decide (Dword.field (barOf (s.image k r n) g) 31 31 = 1)))

/-! ### Queue sizing (R271, R272) -/

def ceilDiv (a b : Nat) : Nat := (a + b - 1) / b

/-- The site of a role, on its even twin under MIRROR. -/
def Placement.siteOfRole (pl : Placement) (role : Nat) : Site := siteOf (pl.tiles.getD (if pl.mirror then 2 * role else role) 0)

/-- The time along a path: each stage, and each crossing between two tiles. -/
def Placement.pathTime (pl : Placement) : Site → List Stage → Nat
  | _, [] => 0
  | a, x :: l =>
    let b := pl.siteOfRole x.role
    x.time + (if a = b then 0 else 2 * a.hops b + 84) + pl.pathTime b l

def Placement.joinSet (pl : Placement) (x : JoinRec) : JoinSet :=
  let last : Stage := { role := x.join, time := 0, beta := 0 }
  let sigma := pl.pathTime (pl.siteOfRole x.fork) (x.short ++ [last])
  let lam := pl.pathTime (pl.siteOfRole x.fork) (x.long ++ [last])
  let beta := x.long.foldl (fun n e => max n e.beta) 0
  let theta := lam + x.j + 2 * (pl.siteOfRole x.join).hops (pl.siteOfRole x.fork) + 84
  let slots := max 1 (ceilDiv (lam - sigma) x.tau + beta)
  let want := ceilDiv theta x.tau
  let spen := if want ≤ slots then 0 else 1
  { layer := x.layer, index := x.index, role := x.join, port := x.port, tau := x.tau, sigma := sigma, lam := lam, beta := beta
    theta := theta, slots := slots, spen := spen, spq := if spen = 0 then 0 else min 255 (max (want - slots) slots) }

/-- QUEUE; a join with τ = 0 admits no size. -/
def JoinSet.bad (x : JoinSet) : Bool :=
  decide (x.tau = 0) || decide (4096 < x.slots) || (decide (x.spq = 255) && decide (x.slots + x.spq < ceilDiv x.theta x.tau))

/-! ### Spill areas (R267) -/

/-- Spill sites that serve a plot's tiles, in raster order. -/
def State.spillSites (s : State) (p : Nat) : List Site :=
  (s.rectYs p).flatMap (fun y => ((s.rectXs p).map (fun x => ({ px := x, py := y } : Site))).filter (fun t =>
    t.isSpill && !isFacetSpill t && !s.repair.badSpills.contains t.key && !s.repair.retiredFields.contains t.field && !s.inUmbra t))

/-- The site of fewest hops among those that serve fewer than 32 tiles; ties to the lower (py, px). -/
def nearestSpill (t : Site) (sites : List Site) (used : List (Nat × Nat)) : Option Site :=
  (sites.filter (fun u => decide ((used.filter (fun e => decide (e.1 = u.key))).length < 32))).foldl
    (fun b u => match b with
      | none => some u
      | some v => if t.hops u < t.hops v then some u else b) none

/-- The spill area of each tile, taken in raster order of the tiles (DESIGN CHOICE, notes/assumptions/40.md). -/
def spillOf (sites : List Site) : List Nat → List (Nat × Nat) → Option (List (Nat × Nat))
  | [], used => some used
  | t :: ts, used => match nearestSpill (siteOf t) sites used with
    | some u => spillOf sites ts (used ++ [(u.key, (used.filter (fun e => decide (e.1 = u.key))).length)])
    | none => none

/-! ### The plan -/

/-- The roles whose columns and stores differ in shape: the first, and the first that each layer lacks. -/
def Placement.reps (pl : Placement) : List Nat :=
  (0 :: pl.layers.map (fun r => r.roles)).filter (fun r => decide (r < ceilDiv pl.tiles.length (if pl.mirror then 2 else 1)))

/-- The release trees of a layer's groups, numbered from n (R262). -/
def State.releaseTrees (s : State) (k : Package) (r : LayerRec) (l n : Nat) : List (Nat × Nat × TreeRec) :=
  (s.groupsOf k r).zipIdx.map (fun e =>
    let members := (List.range r.roles).filter (fun m => decide (Dword.field (barOf (s.image k r m) e.1) 31 31 = 1))
    let root := members.find? (fun m => decide (Dword.field (barOf (s.image k r m) e.1) 30 30 = 1))
    (l, e.1, { num := (n + e.2) % 256, root := root.getD 0, leaves := if root.isSome then members else [] }))

/-- The layer checks of one layer, on the placement of the layers up to it. -/
def State.layerCheck (s : State) (k : Package) (pl : Placement) (l : Nat) (r : LayerRec) : Option Refused :=
  let no := fun code need have_ => some ({ code := code, layer := l, join := 0, need := need, have_ := have_ } : Refused)
  let room := if pl.mirror then pl.tiles.length / 2 else pl.tiles.length
  let deep := (List.range r.roles).foldl (fun n m => max n (nopen (s.image k r m))) 0
  let joins := (pl.joins.filter (fun j => decide (j.layer = l))).find? JoinSet.bad
  let trees := pl.ntree + sumOf (fun (x : LayerRec) => x.bars) pl.layers
  let column := pl.reps.foldl (fun n m => max n (pl.columnOf m pl.kvslots)) 0
  if room < r.roles then no reTiles r.roles room
  else if decide (s.roleNow ≠ 0) && decide (pl.kvslots ≠ 0) && decide (14 < r.bars) then no reResource r.bars 14
  else if 959 < r.conns then no reConn r.conns 959
  else if 12 < deep then no reConn deep 12
  else if pl.reps.any (fun m => (pl.frames m).isNone) then
    no reStore (pl.reps.foldl (fun n m => max n (pl.dataArea m + 2 * sumOf (imgSize m) (pl.layers.take 1))) 0) pl.scratch
  else match joins with
    | some j => some { code := reQueue, layer := l, join := j.index, need := ceilDiv j.theta j.tau, have_ := j.slots + j.spq }
    | none =>
      if 256 < trees then no rePrism trees 256
      else if columnBytes < column then no reLoam column columnBytes
      else none

/-- The layer checks in ascending order. -/
def State.layerChecks (s : State) (k : Package) (pl : Placement) : Option Refused :=
  (List.range pl.layers.length).findSome? (fun l =>
    match pl.layers[l]? with
    | some r => s.layerCheck k { pl with layers := pl.layers.take (l + 1) } l r
    | none => none)

/-- Slots of the module that no other plot holds. -/
def State.freeSlots (s : State) (p : Nat) : List Nat :=
  (List.range 16).filter (fun i => (List.range 64).all (fun o => decide (o = p) || !(s.slotBits o).testBit i))

/-- The regions of one tile (R268). -/
def State.tileRegions (s : State) (k : Package) (pl : Placement) (i t : Nat) : List Region :=
  let role := pl.role i
  pl.layers.zipIdx.flatMap (fun e =>
    let (r, l) := e
    if role < r.roles then
      let mk := fun (kind off len loam : Nat) =>
        ({ kind := kind, layer := l, tile := i, pkgOff := off, len := len, site := t, loam := loam
           digest := Config.sha3 (s.pkgBytes k off len) } : Region)
      (mk 0 (k64 * r.frameOff + role * roundUp r.frameb 64) (roundUp r.frameb 64) (pl.frameLoam role l) ::
        (if r.shardb = 0 then [] else [mk 1 (k64 * r.shardOff + role * r.shardb) r.shardb (pl.shardLoam role l)])) ++
        (if decide (r.optl = 0) || !pl.train then [] else [mk 2 (k64 * r.optOff + role * r.optl) r.optl (pl.optLoam role l)])
    else [])

/-- The placement's record of a package before any check: the binding and what follows from it (R263 to R273). -/
def State.bound (s : State) (p seq : Nat) (k : Package) : Placement :=
  let h := s.header k
  let ls := s.layersOf k
  let pl : Placement := {
    seq := seq, flags := h.flags, tiles := (s.usable p).map Site.key, mirror := decide (s.fld (rPlotMode p) 1 1 = 1)
    train := decide (s.fld (rPlotMode p) 4 4 = 1), split := decide (s.fld (rPlotMode p) 3 3 = 1), layers := ls, kvb := h.kvb
    actb := h.actb, optb := h.optb, beatcyc := h.beatcyc, ntree := h.ntree, kvslots := h.kvslots
    slots := (s.freeSlots p).take h.kvslots, trees := [], groups := []
    recs := (List.range h.njoin).map (s.joinRec k h.nlayer), joins := [], spill := [], regions := [], missing := [], moved := false }
  let joins := pl.recs.map pl.joinSet
  let own : List TreeRec := (List.range h.ntree).map (fun i =>
    let (root, first, n, step) := s.treeRec k h.nlayer h.njoin i
    { num := i, root := root, leaves := (List.range n).map (fun j => first + j * step) })
  let rel := ls.zipIdx.foldl (fun (a : List (Nat × Nat × TreeRec)) e =>
    a ++ s.releaseTrees k e.1 e.2 (h.ntree + a.length)) []
  { pl with joins := joins, trees := own ++ rel.map (fun e => e.2.2), groups := rel.map (fun e => (e.1, e.2.1, e.2.2.num)) }

/-- A mode that FLAGS requires and the plot lacks (R258). -/
def State.modeMissing (s : State) (p flags : Nat) : Bool :=
  (flags.testBit 0 && decide (s.fld (rPlotMode p) 4 4 = 0)) || (flags.testBit 1 && decide (s.fld (rPlotMode p) 3 3 = 0)) ||
    (flags.testBit 2 && decide (s.fld (rPlotMode p) 1 1 = 0)) || (flags.testBit 3 && decide (s.fld (rPlotMode p) 2 2 = 0)) ||
    (flags.testBit 4 && decide (s.roleNow = 0))

/-- Work of a beat fits the beat period with its margin (R274): BEATCYC / 3.0 GHz ≤ P_beat (1 − BM/64), P_beat in cycles of
12.5 MHz. -/
def State.beatFits (s : State) (p beatcyc : Nat) : Bool :=
  decide (beatcyc * 64 ≤ s.fld rFacetBeat 48 32 * 240 * (64 - s.fld (rPlotPlaceCfg p) 5 0))

/-- Tilth's plan of a staged package on plot p, up to the checks that loam outside the columns decides. -/
def State.planned (s : State) (p seq : Nat) (k : Package) : Except Refused Placement :=
  if s.formatBad k then .error (pkgRefused reFormat 0 0)
  else if s.modeMissing p (s.header k).flags then .error (pkgRefused reMode (s.header k).flags (s.fld (rPlotMode p) 5 0))
  else
    let pl := s.bound p seq k
    match s.layerChecks k pl with
    | some r => .error r
    | none => match spillOf (s.spillSites p) pl.tiles [] with
      | none => .error (pkgRefused reSpill pl.tiles.length (32 * (s.spillSites p).length))
      | some sp =>
        if (s.freeSlots p).length < pl.kvslots then .error (pkgRefused reSlots pl.kvslots (s.freeSlots p).length)
        else if decide (s.roleNow ≠ 0) && decide (pl.kvslots ≠ 0) && !s.beatFits p pl.beatcyc then
          .error (pkgRefused reBeat pl.beatcyc (s.fld rFacetBeat 48 32))
        else
          let regions := pl.tiles.zipIdx.flatMap (fun e => s.tileRegions k pl e.2 e.1)
          .ok { pl with spill := sp, regions := regions }

end Sys2Proof.Machine
end

