-- ==== Sys2Proof/Machine/Trees.lean ====
section
/-!
DEFINITION. What Tilth writes for a placement: prism entries (R37, R38), frame images with the plot's coordinates (R261, R263, R264),
the loam of every column (R260, R268), and the tables and resident frames of every tile (R266, R267).
-/
namespace Sys2Proof.Machine

/-! ### Prism trees (R38) -/

/-- The routers from t to u, first along the row and then along the column, each with the bit of the port taken; none where a router
or a link on the way is out of use. -/
def markPath (b : TableBasis) : Nat → Site → Site → Option (List (Nat × Nat))
  | 0, _, _ => none
  | n + 1, t, u =>
    if t = u then some [(t.key, 16)]
    else
      let p := if t.px < u.px then Port.east else if u.px < t.px then .west else if t.py < u.py then .south else .north
      match b.across t p with
      | some v => (markPath b n v u).map (fun l => (t.key, 2 ^ p.num) :: l)
      | none => none

/-- The tiles of a role: both twins under MIRROR. -/
def Placement.tilesOf (pl : Placement) (role : Nat) : List Site :=
  (if pl.mirror then [2 * role, 2 * role + 1] else [role]).filterMap (fun i => (pl.tiles[i]?).map siteOf)

/-- The marks of a tree; a leaf that the shape cannot reach is left out. Under MIRROR the root is the even twin and the leaves are
both twins (DEDUCED, notes/assumptions/38.md). -/
def Placement.treeMarks (pl : Placement) (b : TableBasis) (x : TreeRec) : List (Nat × Nat) :=
  (x.leaves.flatMap pl.tilesOf).flatMap (fun u => (markPath b 1024 (pl.siteOfRole x.root) u).getD [])

/-- A router's entry of a tree gains a mark, and is valid. -/
def State.markPrism (s : State) (tree : Nat) (m : Nat × Nat) : State :=
  let k := m.1 * 256 + tree
  { s with prism := mapSet (fun _ => 0) s.prism k (mapGet (fun _ => 0) s.prism k ||| m.2 ||| 128) }

/-- The plot's prism entries are rebuilt from its placement. -/
def State.writeTrees (s : State) (p : Nat) : State :=
  let s := { s with prism := s.prism.filter (fun e => !s.inRect p (siteOf (e.1 / 256))) }
  match (s.plot p).placed with
  | none => s
  | some pl => pl.trees.foldl (fun s x => (pl.treeMarks s.tables x).foldl (fun s m => s.markPrism x.num m) s) s

/-! ### Frame images (R263, R264) -/

/-- n bytes of a list replaced. -/
def putAt (bs : List Byte) (off : Nat) (new : List Byte) : List Byte :=
  bs.take off ++ new ++ bs.drop (off + new.length)

/-- The number of a tile in raster order that runs a role beside tile number i: the twin of the same parity under MIRROR. -/
def Placement.peerOf (pl : Placement) (i role : Nat) : Nat := if pl.mirror then 2 * role + i % 2 else role

/-- Coordinates (vx, vy) of tile number i; outside every map where there is none. -/
def State.virtOf (s : State) (pl : Placement) (i : Nat) : Nat × Nat :=
  match (pl.tiles[i]?).bind (fun t => s.virt (siteOf t)) with
  | some (_, vx, vy) => (vx, vy)
  | none => (0x1FF, 0x1FF)

/-- A field pair (VX, VY) of an image: in a package it holds the peer's role number as VY · 512 + VX (DEDUCED, notes/assumptions/41.md). -/
abbrev Reloc := Nat → Nat → Nat × Nat

/-- Peers from a package's image of a layer with so many roles. -/
def State.peersOf (s : State) (pl : Placement) (i roles : Nat) : Reloc := fun vx vy =>
  let role := 512 * vy + vx
  if role < roles then s.virtOf pl (pl.peerOf i role) else (0x1FF, 0x1FF)

/-- Peers from an image that an earlier placement wrote, by the state in which it stood. -/
def State.peersAgain (s0 : State) (p : Nat) (old : Placement) (s : State) (pl : Placement) (i roles : Nat) : Reloc := fun vx vy =>
  match (s0.phys p vx vy).bind (fun t => indexIn old.tiles t.key) with
  | some j => if old.role j < roles then s.virtOf pl (pl.peerOf i (old.role j)) else (0x1FF, 0x1FF)
  | none => (0x1FF, 0x1FF)

/-- Open entry i of an image gets its peer's coordinates. -/
def fixOpen (f : Reloc) (img : List Byte) (i : Nat) : List Byte :=
  let a := 928 + 8 * i
  let e : Dword := BitVec.ofNat 64 (leAt img a 8)
  if Dword.field e 31 31 = 0 then img
  else
    let (vx, vy) := f (Dword.field e 8 0) (Dword.field e 24 16)
    putAt img a (leBytes 8 ((Dword.setField (Dword.setField e 8 0 vx) 24 16 vy).toNat))

/-- NI_BAR[n] of an image gets its parent's coordinates and its release tree. -/
def fixBar (f : Reloc) (tree : Nat → Option Nat) (img : List Byte) (n : Nat) : List Byte :=
  let e := barOf img n
  if Dword.field e 31 31 = 0 then img
  else
    let e := if Dword.field e 30 30 = 1 then e
      else
        let (vx, vy) := f (Dword.field e 17 9) (Dword.field e 26 18)
        Dword.setField (Dword.setField e 17 9 vx) 26 18 vy
    let e := match tree n with | some k => Dword.setField e 7 0 k | none => e
    putAt img (864 + 4 * n) (leBytes 4 e.toNat)

/-- The short-side port of a join gets its size (R261, R272). -/
def fixJoin (img : List Byte) (j : JoinSet) : List Byte :=
  let a := 64 + 8 * j.port
  let e : Dword := BitVec.ofNat 64 (leAt img a 8)
  putAt img a (leBytes 8
    (Dword.setField (Dword.setField (Dword.setField e 61 61 j.spen) 38 27 (j.slots - 1)) 12 5 j.spq).toNat)

/-- A frame image as it stands on the plot. -/
def Placement.fixImage (pl : Placement) (f : Reloc) (l role : Nat) (img : List Byte) : List Byte :=
  if img.length < 1024 then img
  else
    let img := (List.range (min 12 (nopen img))).foldl (fixOpen f) img
    let tree := fun n => ((pl.groups.find? (fun e => decide (e.1 = l) && decide (e.2.1 = n))).map (fun e => e.2.2))
    let img := (List.range 16).foldl (fixBar f tree) img
    (pl.joins.filter (fun j => decide (j.layer = l) && decide (j.role = role))).foldl fixJoin img

/-- The idle frame of a tile for layer l (R263): LIL s1, 1; LIL s2, f; STAGE s1, s2; FIN; and FIN alone in the last layer. -/
def Placement.idleImage (pl : Placement) (role l : Nat) : List Byte :=
  let f := (pl.frames role).getD 2
  let prog : List Nat := if l + 1 = pl.layers.length then [0xDC000000]
    else [0x20040001, 0x20080000 + frameNum f (l + 1), 0xE0002200, 0xDC000000]
  let img := leBytes 8 (pl.areaBase role f (frameNum f l) + 1024) ++ leBytes 1016 0 ++ prog.flatMap (leBytes 4)
  img ++ leBytes (idleBytes - img.length) 0

/-! ### OPT blocks (R260, R294) -/

/-- The fields of a group record that hold loam lines. -/
def lineFields (rec : List Byte) : List Nat :=
  let rule := leAt rec 0 1
  [16, 20, 24] ++ (if decide (rule = 1) || decide (rule = 2) then [28] else []) ++ [32] ++
    (if leAt rec 1 1 / 2 % 2 = 1 then [36] else []) ++ (if rule = 3 then [56] else [])

/-- Group records of a block stand at its start, up to the first line that a record before names (DEDUCED, notes/assumptions/39.md); each line
field gains the line of the block's base. -/
def rebase (base : Nat) : Nat → Nat → Nat → List Byte → List Byte
  | 0, _, _, bs => bs
  | n + 1, i, low, bs =>
    let rec_ := takeAt bs (128 * i) 128
    if decide (min low bs.length < 128 * i + 128) || decide (3 < leAt rec_ 0 1) || decide (leAt rec_ 4 4 = 0) then bs
    else
      let fs := lineFields rec_
      let low := fs.foldl (fun m a => min m (64 * leAt rec_ a 4)) low
      let bs := fs.foldl (fun bs a => putAt bs (128 * i + a) (leBytes 4 (leAt rec_ a 4 + base))) bs
      rebase base n (i + 1) low bs

def rebaseBlock (loam : Nat) (bs : List Byte) : List Byte := rebase (loam / 64) (bs.length / 128) 0 bs.length bs

/-! ### Loam and stores -/

/-- A region's bytes go into its place. -/
def State.putRegion (s : State) (pl : Placement) (f : Nat → Nat → Reloc) (r : Region) (bs : List Byte) : State :=
  let bs := match r.kind with
    | 0 => pl.fixImage (f r.tile ((pl.layers[r.layer]?).elim 0 (fun x => x.roles))) r.layer (pl.role r.tile) bs
    | 2 => rebaseBlock r.loam bs
    | _ => bs
  s.putLoam (siteOf r.site) r.loam bs

/-- Idle frames go into the columns of the tiles that a layer leaves without a role. -/
def State.putIdle (s : State) (pl : Placement) : State :=
  pl.tiles.zipIdx.foldl (fun s e => pl.layers.zipIdx.foldl (fun s x =>
    let role := pl.role e.2
    if role < x.1.roles then s else s.putLoam (siteOf e.1) (pl.frameLoam role x.2) (pl.idleImage role x.2)) s) s

/-- The tables and the resident frames of a tile, from its loam (R266, R267, R433): layers 0 to F − 1 in their frames, and frame 0
active with its tables in force. -/
def State.setTile' (s : State) (pl : Placement) (i : Nat) (t : Site) : State :=
  let role := pl.role i
  let f := (pl.frames role).getD 2
  let (site, n) := pl.spill.getD i (0, 0)
  let u := siteOf site
  let s := s.ctrlStore t aNiSpill (BitVec.ofNat 64 (8 * 2 ^ 26 + 8 * n * 2 ^ 18 + u.py * 2 ^ 9 + u.px))
  let s := (pl.layers.zipIdx.take f).foldl (fun s e =>
    s.loadFrame pl role f t e.2 e.1) s
  let base := pl.areaBase role f 0
  let h := s.bytes (storeAddr t base) 1024
  let s := (s.clearNi t).loadTables t h
  let s := (List.range (min 12 (nopen h))).foldl (fun s k => s.openEntry t base h k) s
  s.onCore t (fun c => ({ c with frame := 0, switch := none }).jump (BitVec.ofNat 19 (leAt h 0 8 % 2 ^ 19 / 4 * 4)))

def State.setTiles (s : State) (pl : Placement) : State :=
  pl.tiles.zipIdx.foldl (fun s e => s.setTile' pl e.2 (siteOf e.1)) s

end Sys2Proof.Machine
end

