-- ==== Sys2Proof/Machine/Tilth.lean ====
section
/-!
DEFINITION. PLACE, the commit of a placement, and the placement record (R269, R275, R276, R278, R351, R356, R372).
-/
namespace Sys2Proof.Machine

/-! ### Moving regions out of staging (R351) -/

/-- A staging extent that stands somewhere: the plot whose package it is (64 for a delivery), its number, its place. -/
structure Standing where
  owner : Nat
  index : Nat
  place : Extent
  deriving DecidableEq, Repr

def standings (owner : Nat) (l : List Extent) : List Standing := l.zipIdx.map (fun e => { owner := owner, index := e.2, place := e.1 })

/-- Every staging extent of the module. -/
def State.standing (s : State) : List Standing :=
  (List.range 64).flatMap (fun p => match (s.plot p).pkg with | some k => standings p k.extents | none => []) ++
    (match s.boot.delivery with | some d => standings 64 d.extents | none => [])

/-- An extent stands where a region goes. -/
def Region.covers (r : Region) (e : Extent) : Bool :=
  decide (r.site = e.site) && decide (r.loam < e.off + k64) && decide (e.off < r.loam + r.len)

/-- A region still needs extent number i of its package. -/
def Region.needs (r : Region) (i : Nat) : Bool := decide (r.pkgOff / k64 ≤ i) && decide (i ≤ (r.pkgOff + r.len - 1) / k64)

/-- Tilth's search for an order of its moves (DESIGN CHOICE, notes/assumptions/42.md): every region whose place is clear moves; an extent of the
package that no region needs any more is freed; when no place is clear, one extent that stands in a place is relocated into a
freed extent that no later region needs as its place. Answers where the extents stand at the end, or none. -/
def moveOrder (p : Nat) : Nat → List Region → List Standing → List Extent → Option (List Standing)
  | 0, todo, st, _ => if todo.isEmpty then some st else none
  | n + 1, todo, st, freed =>
    let later := todo.filter (fun r => st.any (fun e => r.covers e.place))
    let gone := st.filter (fun e => decide (e.owner = p) && !later.any (fun r => r.needs e.index))
    let st' := st.filter (fun e => !(decide (e.owner = p) && !later.any (fun r => r.needs e.index)))
    let freed := freed ++ gone.map (fun e => e.place)
    if later.isEmpty then some st'
    else if decide (later.length < todo.length) || !gone.isEmpty then moveOrder p n later st' freed
    else
      match freed.find? (fun f => !later.any (fun r => r.covers f) && !st'.any (fun e => decide (e.place = f))),
        st'.find? (fun e => later.any (fun r => r.covers e.place)) with
      | some f, some e => moveOrder p n later (st'.map (fun x => if x = e then { x with place := f } else x))
          (freed.filter (fun x => decide (x ≠ f)))
      | _, _ => none

/-- Where the staging extents stand once plot p's regions have moved. -/
def State.movesOf (s : State) (p : Nat) (pl : Placement) : Option (List Standing) :=
  moveOrder p (2 * pl.regions.length + 2 * s.standing.length) pl.regions s.standing []

/-- A list of extents with the relocated ones of an owner replaced. -/
def relocated (owner : Nat) (st : List Standing) (l : List Extent) : List Extent :=
  l.zipIdx.map (fun e => match st.find? (fun x => decide (x.owner = owner) && decide (x.index = e.2)) with
    | some x => x.place
    | none => e.1)

/-- The extents of other owners move with their bytes. -/
def State.relocate (s : State) (p : Nat) (st : List Standing) : State :=
  let moved := s.standing.filterMap (fun e => (st.find? (fun x => decide (x.owner = e.owner) && decide (x.index = e.index) &&
    decide (e.owner ≠ p) && decide (x.place ≠ e.place))).map (fun x => (e.place, x.place)))
  let s := moved.foldl (fun s' m => s'.setBytes (loamAddr (siteOf m.2.site) m.2.off) (s.bytes (loamAddr (siteOf m.1.site) m.1.off) k64)) s
  let s := (List.range 64).foldl (fun s o => if o = p then s
    else s.onPlot o (fun x => { x with pkg := x.pkg.map (fun k => { k with extents := relocated o st k.extents }) })) s
  { s with boot := { s.boot with delivery := s.boot.delivery.map (fun d => { d with extents := relocated 64 st d.extents }) } }

/-! ### The afterimage's extents (R269) -/

/-- The column with the most free loam, ties to the lower (py, px), and its topmost free extent. -/
def State.roomiest (s : State) : Option Extent :=
  let cols := ((List.range 320).flatMap (fun y => (List.range 320).map (fun x => ({ px := x, py := y } : Site)))).filter s.goodSite
  let best := cols.foldl (fun (b : Option (Site × Nat)) t =>
    let n := (s.freeIn t).length
    match b with
    | some (_, m) => if m < n then some (t, n) else b
    | none => if 0 < n then some (t, n) else none) none
  best.bind (fun e => ((s.freeIn e.1).head?).map (fun o => { site := e.1.key, off := o }))

/-- Extents of the afterimage that stand in a plot's columns below their placed end. -/
def State.aiInWay (s : State) (pl : Placement) : List Nat :=
  pl.tiles.zipIdx.flatMap (fun e => ((s.aiIn (siteOf e.1)).filter (fun a =>
    decide (a.2 < roundUp (pl.column (pl.role e.2)) k64))).map (fun a => a.1))

def State.moveExtent (s : State) (i : Nat) : Option State :=
  (s.roomiest).map (fun e => { s with aiMoved := mapPut s.aiMoved i e })

/-- The extents that the plot's columns need are moved, or none where the module has no room for them. -/
def moveExtents : State → List Nat → Option State
  | s, [] => some s
  | s, i :: l => match s.moveExtent i with
    | some s => moveExtents s l
    | none => none

/-- The state as it stands for the afterimage's map once plot p is placed. -/
def State.asPlaced (s : State) (p : Nat) (pl : Placement) : State := s.onPlot p (fun x => { x with placed := some pl, pkg := none })

/-- Where the afterimage's extents lie once plot p is placed, or the refusal AFTER. -/
def State.aiAfter (s : State) (p : Nat) (pl : Placement) : Except Refused (List (Nat × Extent)) :=
  let l := s.aiInWay pl
  let no := Except.error (pkgRefused reAfter l.length 0)
  if l.isEmpty then .ok s.aiMoved
  else if s.fld rRasAi 63 63 = 1 then no
  else match moveExtents (s.asPlaced p pl) l with
    | some s' => .ok s'.aiMoved
    | none => no

/-! ### The whole judgement (R275) -/

/-- A PLACE of plot p under sequence number seq: a placement, or the first refusal. -/
def State.judgePlace (s : State) (p seq : Nat) : Except Refused Placement :=
  let bad := s.running p || decide (1 < s.placeState p)
  match (s.plot p).pkg with
  | none => .error (pkgRefused (if bad then reState else reFormat) 0 0)
  | some k =>
    if !k.whole then .error (pkgRefused (if bad then reState else reFormat) 0 0)
    else match s.planned p seq k with
      | .error r => .error r
      | .ok pl =>
        match s.aiAfter p pl with
        | .error r => .error r
        | .ok _ =>
          if bad then .error (pkgRefused reState (s.placeState p) 1)
          else match s.movesOf p pl with
            | some _ => .ok pl
            | none => .error (pkgRefused reLoam columnBytes 0)

/-! ### The record (R278) -/

/-- ASCII text as bytes. -/
def ascii (t : String) : List Byte := t.toList.map (fun c => BitVec.ofNat 8 c.toNat)

def dec (n : Nat) : String := Nat.repr n

/-- A number of hundredths or tenths, written with its point. -/
def decPoint (places n : Nat) : String :=
  let d := 10 ^ places
  let r := dec (n % d)
  dec (n / d) ++ "." ++ String.ofList (List.replicate (places - r.length) '0') ++ r

def hexDigits (n w : Nat) : String :=
  String.ofList ((List.range w).reverse.map (fun i => (("0123456789abcdef".toList)[n / 16 ^ i % 16]?).getD '0'))

def hexSeq (n : Nat) : String := "0x" ++ hexDigits (n / 65536) 4 ++ "_" ++ hexDigits n 4

def pair (x y : Nat) : String := "(" ++ dec x ++ "," ++ dec y ++ ")"

def commas : List String → String
  | [] => "-"
  | [a] => a
  | a :: l => a ++ "," ++ commas l

/-- Bytes that a placement's regions take in the column of a role. -/
def Placement.roleBytes (pl : Placement) (role : Nat) : Nat :=
  pl.frameLoam role pl.layers.length + sumOf (shardSize role) pl.layers + (if pl.train then pl.optb + pl.actb else 0) +
    pl.slots.length * pl.kvb

def Placement.allBytes (pl : Placement) : Nat := (List.range pl.tiles.length).foldl (fun n i => n + pl.roleBytes (pl.role i)) 0

def mib : Nat := 0x100000
def gib : Nat := 0x40000000

/-- A column of plot p's package as placed, in its bytes. -/
def Placement.colMax (pl : Placement) : Nat := pl.reps.foldl (fun n r => max n (pl.roleBytes r)) 0

/-- Bytes placed by the other plots. -/
def State.othersPlaced (s : State) (p : Nat) : Nat :=
  (List.range 64).foldl (fun n o => if o = p then n else match (s.plot o).placed with | some x => n + x.allBytes | none => n) 0

/-- Good sites of the module. -/
def State.ratedCount (s : State) : Nat := countTiles s.rated

/-- Least F over the plot's tiles. -/
def Placement.leastFrames (pl : Placement) : Nat := pl.reps.foldl (fun n r => min n ((pl.frames r).getD 0)) 8

def sitesOf (s : State) (p : Nat) : Nat := (s.rectXs p).length * (s.rectYs p).length

/-- The lines from PLACE through TREES. -/
def State.recordHead (s : State) (p : Nat) (pl : Placement) (result : String) (code : Nat) (layer join : String) : List String :=
  let ws := (s.rectYs p).map (fun y => (s.rowOf p y).length)
  let tiles := ws.foldl (· + ·) 0
  let cut := (s.cutTiles p).length
  let r := s.reg (rPlotRect p)
  let bit := fun b (one zero : String) => if s.fld (rPlotMode p) b b = 1 then one else zero
  ["PLACE plot=" ++ dec p ++ " seq=" ++ hexSeq pl.seq ++ " result=" ++ result ++ " reason=0x" ++ hexDigits code 2 ++ " layer=" ++
      layer ++ " join=" ++ join,
   "PLOT rect=" ++ pair (Dword.field r 8 0) (Dword.field r 17 9) ++ "-" ++ pair (Dword.field r 26 18) (Dword.field r 35 27) ++
      " tiles=" ++ dec tiles ++ " rows=" ++ dec ws.length ++ " minw=" ++ dec (match ws with | [] => 0 | w :: l => l.foldl min w) ++
      " maxw=" ++ dec (ws.foldl max 0) ++ " holes=" ++ dec (sitesOf s p - tiles - cut) ++ " cut=" ++ dec cut,
   "MODES kind=" ++ bit 4 "TRAIN" "INFER" ++ " split=" ++ bit 3 "SPLIT" "ALL-SCRATCH" ++ " check=" ++ bit 1 "MIRROR" "NORMAL" ++
      " det=" ++ bit 2 "FIXED-ORDER" "FREE" ++ " sparse=" ++ bit 0 "STRICT" "LENIENT" ++ " replay=" ++ bit 5 "KEEP-INPUTS" "NONE",
   "STORE scratch=" ++ dec (pl.scratch / 1024) ++ "KiB data=" ++ dec (ceilDiv (pl.dataArea 0) 1024) ++ "KiB frames=" ++
      dec pl.leastFrames,
   "LOAM column_max=" ++ decPoint 2 (ceilDiv (100 * pl.colMax) mib) ++ "MiB total=" ++ decPoint 1 (ceilDiv (10 * pl.allBytes) gib) ++
      "GiB free=" ++ decPoint 1 (10 * (s.ratedCount * columnBytes - pl.allBytes - s.othersPlaced p) / gib) ++
      "GiB after=32768x64KiB",
   "SLOTS " ++ commas (pl.slots.map dec),
   "TREES used=" ++ dec (pl.ntree + sumOf (fun (r : LayerRec) => r.bars) pl.layers) ++ " of=256"]

def State.recordTail (s : State) (p : Nat) (pl : Placement) : List String :=
  pl.layers.zipIdx.map (fun e => "LAYER index=" ++ dec e.2 ++ " roles=" ++ dec e.1.roles ++ " conns=" ++ dec e.1.conns ++ " trees=" ++
    dec e.1.treen ++ " shard=" ++ dec e.1.shardb) ++
  pl.joins.map (fun j => "JOIN layer=" ++ dec j.layer ++ " index=" ++ dec j.index ++ " tau=" ++ dec j.tau ++ " sigma=" ++ dec j.sigma ++
    " lambda=" ++ dec j.lam ++ " beta=" ++ dec j.beta ++ " theta=" ++ dec j.theta ++ " slots=" ++ dec j.slots ++ " spq=" ++ dec j.spq) ++
  (s.cutTiles p).map (fun t => "CUT site=" ++ pair t.px t.py) ++
  pl.missing.map (fun r => "MISSING offset=" ++ dec r.pkgOff)

def textOf (lines : List String) : List Byte := lines.flatMap (fun l => ascii l ++ [10])

/-- The record of a placement that stands. -/
def State.recordOf (s : State) (p : Nat) (pl : Placement) : List Byte :=
  let l := s.recordHead p pl (if pl.missing.isEmpty then "PLACED" else "INCOMPLETE") 0 "-" "-" ++ s.recordTail p pl
  textOf (l ++ ["END lines=" ++ dec (l.length + 1)])

/-- A placement with nothing counted. -/
def Placement.none_ (seq : Nat) : Placement :=
  { seq := seq, flags := 0, tiles := [], mirror := false, train := false, split := false, layers := [], kvb := 0, actb := 0
    optb := 0, beatcyc := 0, ntree := 0, kvslots := 0, slots := [], trees := [], groups := [], recs := [], joins := [], spill := []
    regions := [], missing := [], moved := false }

/-- The record of a refusal: the counts reached up to the failing check, and what was needed. -/
def State.recordRefused (s : State) (p seq : Nat) (r : Refused) : List Byte :=
  let pl := if decide (r.code = reFormat) || decide (r.code = reState) then Placement.none_ seq
    else match (s.plot p).pkg with
      | some k =>
        let pl := s.bound p seq k
        if r.layer = 0xFFFF then pl else { pl with layers := pl.layers.take (r.layer + 1) }
      | none => Placement.none_ seq
  let layer := if r.layer = 0xFFFF then "-" else dec r.layer
  let join := if r.code = reQueue then dec r.join else "-"
  textOf (s.recordHead p pl "REFUSED" r.code layer join ++
    ["NEED layer=" ++ layer ++ " join=" ++ join ++ " need=" ++ dec r.need ++ " have=" ++ dec r.have_])

/-! ### Refusing, moving, committing -/

/-- PLOT_PLACE takes a refusal. -/
def State.placeReason (s : State) (p : Nat) (r : Refused) : State :=
  ((s.setFld (rPlotPlace p) 55 48 r.code).setFld (rPlotPlace p) 47 32 r.layer).setFld (rPlotPlace p) 31 0 r.join

/-- PLACE is refused: nothing of the plot is written, and the package stays (R275). -/
def State.refusePlace (s : State) (p : Nat) (c : HostCmd) (r : Refused) : State :=
  let rec_ := s.recordRefused p c.seq r
  let s := (s.onPlot p (fun x => { x with placing := none, record := rec_ })).placeReason p r
  let s := if r.code = reState then s
    else s.setPlace p (match (s.plot p).pkg with | some k => if k.whole then 1 else 0 | none => 0)
  s.finish p c stRefused (s.reg (rPlotPlace p)).toNat []

/-- The regions move into their places, the afterimage's extents out of the way. -/
def State.moveRegions (s : State) (p : Nat) (k : Package) (pl : Placement) (st : List Standing) : State :=
  let src := s
  let s := match s.aiAfter p pl with | .ok m => { s with aiMoved := m } | .error _ => s
  let s := s.relocate p st
  let s := pl.regions.foldl (fun s r => s.putRegion pl (fun i roles => src.peersOf pl i roles) r (src.pkgBytes k r.pkgOff r.len)) s
  (s.putIdle pl).onPlot p (fun x => { x with placing := some { pl with moved := true } })

/-- The plot is PLACED: tables, spill areas, resident frames and slots are in force at this commit instant (R276). Tiles that are DARK
wake through a TILE reset (R394). -/
def State.commitPlacement (s : State) (p : Nat) (pl : Placement) : State :=
  let z : List (Nat × Nat × Nat × Nat) := match (s.plot p).pkg with
    | some k => (k.extents.filter (fun e => !(s.asPlaced p pl).placedOver e)).map (fun e => (p, e.site, e.off, k64))
    | none => []
  let s := { s with zeroing := s.zeroing ++ z }
  let s := s.onPlot p (fun x => { x with placed := some { pl with moved := false }, placing := none, pkg := none, run := none, layer := 0
                                         begun := 0, marks := 0, beatDone := false, sentSlip := false, barEpoch := 0, ueRing := 0 })
  let s := s.setFld (rPlotMode p) 63 48 (pl.slots.foldl (fun n i => n + 2 ^ i) 0)
  let s := (s.usable p).foldl (fun s t => if (s.tile t).power = .dark then s.resetTile t else s) s
  let s := (s.writeTrees p).setTiles pl
  let s := s.setPlace p (if pl.missing.isEmpty then 3 else 5)
  let rec_ := s.recordOf p pl
  (s.onPlot p (fun x => { x with record := rec_ })).instantOf p

/-- An armed set that a start of the plot waits for (R372). -/
def State.heavyArmed (s : State) (p : Nat) : Bool := s.shadow.any (fun e => decide (e.2.state = 3) && e.2.heavy p)

/-- Tilth is at work on some plot. -/
def State.tilthBusy (s : State) : Bool := (List.range 64).any (fun p => (s.plot p).placing.isSome)

/-! ### Meanings -/

/-- PLACE (R275, R276, R351, R372). Taken twice for one command: Tilth's judgement, then its moves, with the judgement made again on
the map as it stands; PLACEMENT_COMMIT ends it. -/
def execPlace (q : Nat) (s : State) : Out :=
  hostRow "PLACE" opPlace q s (fun c =>
    match (s.plot q).placing with
    | none =>
      if s.heavyArmed q || !s.zeroing.isEmpty || s.tilthBusy then .refused (.notEnabled "PLACE")
      else match s.judgePlace q c.seq with
        | .error r => .next (s.refusePlace q c r)
        | .ok pl => .next (((s.setPlace q 2).onPlot q (fun x => { x with placing := some pl })).onCommand q c.seq
            (fun c => { c with started := true }))
    | some pl =>
      if pl.moved then .refused (.notEnabled "PLACE")
      else match (s.setPlace q 1).judgePlace q c.seq, (s.plot q).pkg with
        | .ok pl, some k => match s.movesOf q pl with
          | some st => .next (s.moveRegions q k pl st)
          | none => .next (s.refusePlace q c (pkgRefused reLoam columnBytes 0))
        | .error r, _ => .next (s.refusePlace q c r)
        | .ok _, none => .next (s.refusePlace q c (pkgRefused reFormat 0 0)))

/-- A re-placement or PLACE that has moved its regions commits. -/
def State.endPlacing (s : State) (p : Nat) (pl : Placement) : State :=
  let again := decide (s.placeState p = 4)
  let s := s.commitPlacement p pl
  let s := if again && pl.missing.isEmpty then s.liftFence p else s
  match s.command p opPlace with
  | some c => if c.started then s.finish p c stOk 0 [] else s
  | none => s

/-- PLACEMENT_COMMIT (R276, R277). -/
def execPlacementCommit (p : Nat) (s : State) : Out :=
  onUnit (decide (p < Config.plots)) (whenSome "PLACEMENT_COMMIT" (s.plot p).placing (fun pl =>
    when_ "PLACEMENT_COMMIT" (pl.moved && (decide (s.placeState p = 2) || decide (s.placeState p = 4))) (s.endPlacing p pl)))

/-! ### Re-placement (R277) -/

/-- A column of an earlier placement that has survived. -/
def State.survives (s : State) (site : Nat) : Bool := !s.tileGone (siteOf site) && !s.inUmbra (siteOf site)

/-- Where an earlier placement holds the bytes of a region, in a column that has survived. -/
def State.surviving (s : State) (old : Placement) (r : Region) : Option Region :=
  old.regions.find? (fun o => decide (o.kind = r.kind) && decide (o.pkgOff = r.pkgOff) && s.survives o.site)

/-- The first tile of a role that has survived in an earlier placement. -/
def State.oldTile (s : State) (old : Placement) (role : Nat) : Option Nat :=
  (List.range old.tiles.length).find? (fun i => decide (old.role i = role) && s.survives (old.tiles.getD i 0))

/-- What is kept of a role beside its package regions: n bytes of loam. -/
def State.keepRange (src : State) (old : Placement) (s : State) (pl : Placement) (i : Nat) (from_ to_ n : Nat → Nat) : State :=
  let role := pl.role i
  match src.oldTile old role with
  | some j => s.putLoam (siteOf (pl.tiles.getD i 0)) (to_ role) (src.bytes (loamAddr (siteOf (old.tiles.getD j 0)) (from_ role)) (n role))
  | none => s

/-- The package's parts that a placement keeps, bound again on the map as it stands. -/
def State.rebind (s : State) (p : Nat) (old : Placement) : Placement :=
  let pl := { old with tiles := (s.usable p).map Site.key, slots := (s.freeSlots p).take old.kvslots, missing := [], moved := false }
  { pl with joins := pl.recs.map pl.joinSet }

/-- The regions of a placement again, from those that an earlier one recorded. -/
def Placement.again (pl old : Placement) : List Region :=
  pl.tiles.zipIdx.flatMap (fun e => (old.regions.filter (fun r =>
      decide (old.role r.tile = pl.role e.2) && decide (some r.tile = (List.range old.tiles.length).find? (fun i =>
        decide (old.role i = pl.role e.2))))).map (fun r => { r with tile := e.2, site := e.1 }))

/-- The judgement of a re-placement (R263 to R275). -/
def State.rebound (s : State) (p : Nat) (old : Placement) : Except Refused Placement :=
  let pl := s.rebind p old
  let room := if pl.mirror then pl.tiles.length / 2 else pl.tiles.length
  let roles := pl.layers.foldl (fun n r => max n r.roles) 0
  let column := pl.reps.foldl (fun n m => max n (pl.columnOf m pl.kvslots)) 0
  let at_ := fun (code l need have_ : Nat) => Except.error ({ code := code, layer := l, join := 0, need := need, have_ := have_ } : Refused)
  match (List.range pl.layers.length).find? (fun l => decide (room < ((pl.layers[l]?).elim 0 (fun r => r.roles)))) with
  | some l => at_ reTiles l roles room
  | none =>
    if pl.reps.any (fun m => (pl.frames m).isNone) then at_ reStore (pl.layers.length - 1) 0 pl.scratch
    else match pl.joins.find? JoinSet.bad with
      | some j => .error { code := reQueue, layer := j.layer, join := j.index, need := ceilDiv j.theta j.tau, have_ := j.slots + j.spq }
      | none =>
        if columnBytes < column then at_ reLoam (pl.layers.length - 1) column columnBytes
        else match spillOf (s.spillSites p) pl.tiles [] with
          | none => .error (pkgRefused reSpill pl.tiles.length (32 * (s.spillSites p).length))
          | some sp =>
            if pl.slots.length < pl.kvslots then .error (pkgRefused reSlots pl.kvslots pl.slots.length)
            else if decide (s.roleNow ≠ 0) && decide (pl.kvslots ≠ 0) && !s.beatFits p pl.beatcyc then
              .error (pkgRefused reBeat pl.beatcyc (s.fld rFacetBeat 48 32))
            else
              let pl := { pl with spill := sp }
              match s.aiAfter p pl with
              | .error r => .error r
              | .ok _ => .ok { pl with regions := pl.again old }

/-- Every region that survives goes to its new column; the others are missing. -/
def State.copyRegions (s : State) (p : Nat) (old pl : Placement) : State × Placement :=
  let src := s
  let s := match s.aiAfter p pl with | .ok m => { s with aiMoved := m } | .error _ => s
  let s := pl.regions.foldl (fun s r => match src.surviving old r with
    | some o =>
      let bs := src.bytes (loamAddr (siteOf o.site) o.loam) o.len
      let roles := (pl.layers[r.layer]?).elim 0 (fun x => x.roles)
      s.putLoam (siteOf r.site) r.loam
        (if r.kind = 0 then pl.fixImage (src.peersAgain p old s pl r.tile roles) r.layer (pl.role r.tile) bs else bs)
    | none => s) s
  let s := (List.range pl.tiles.length).foldl (fun s i =>
    src.keepRange old s pl i old.optBase pl.optBase (fun role => old.column role - old.optBase role)) s
  (s.putIdle pl, { pl with missing := pl.regions.filter (fun r => (src.surviving old r).isNone), moved := true })

/-- REPLACEMENT (R277, R429): of a plot in REPLACING whose fence has ended its drain. -/
def execReplacement (p : Nat) (s : State) : Out :=
  onUnit (decide (p < Config.plots)) (whenSome "REPLACEMENT" (s.plot p).placed (fun old =>
    if !(decide (s.placeState p = 4) && decide (s.fenceState p ≠ 1) && (s.plot p).placing.isNone && s.zeroing.isEmpty && !s.tablesDue) then
      .refused (.notEnabled "REPLACEMENT")
    else match s.rebound p old with
      | .error r =>
        let s := (s.placeReason p r).setPlace p 6
        let head := s.recordHead p (s.rebind p old) "REFUSED" r.code (if r.layer = 0xFFFF then "-" else dec r.layer)
          (if r.code = reQueue then dec r.join else "-")
        let rec_ := textOf (head ++ ["NEED need=" ++ dec r.need ++ " have=" ++ dec r.have_])
        .next (s.onPlot p (fun x => { x with record := rec_ }))
      | .ok pl =>
        let (s, pl) := s.copyRegions p old pl
        if pl.missing.isEmpty then .next (s.onPlot p (fun x => { x with placing := some pl }))
        else
          let rec_ := s.recordOf p pl
          .next ((s.onPlot p (fun x => { x with placed := some { pl with moved := false }, record := rec_ })).setPlace p 5)))

/-- The last missing region of a plot has been written: it is PLACED, and its fence lifts (R277, R429). -/
def State.endIncomplete (s : State) (p : Nat) (pl : Placement) : State :=
  (s.commitPlacement p { pl with missing := [] }).liftFence p

end Sys2Proof.Machine
end

