-- ==== Sys2Proof/Machine/Retire.lean ====
section
/-!
DEFINITION. Retirement of tiles, spill sites and fields, the choice of hot spares, the stewards' part of sparing, and the commit of
Bedrock's tables (R27 to R29, R52 to R55, R277, R371, R398, R420, R422, R436, R437, R525).
-/
namespace Sys2Proof.Machine

/-! ### What stands in a field -/

/-- The spill sites that a placement uses. -/
def Placement.usesSpill (pl : Placement) (t : Site) : Bool := pl.spill.any (fun e => decide (e.1 = t.key))

/-- A plot's rectangle contains a site of the field. -/
def State.rectInField (s : State) (p f : Nat) : Bool :=
  s.plotValid p && decide (s.fld (rPlotRect p) 8 0 ≤ 40 * (f % 8) + 39) && decide (40 * (f % 8) ≤ s.fld (rPlotRect p) 26 18) &&
    decide (s.fld (rPlotRect p) 17 9 ≤ 40 * (f / 8) + 39) && decide (40 * (f / 8) ≤ s.fld (rPlotRect p) 35 27)

/-- A plot with a site, or a spill area, in the field (R398, R432, R444). -/
def State.usesField (s : State) (p f : Nat) : Bool :=
  s.rectInField p f || (match (s.plot p).placed with
    | some pl => pl.spill.any (fun e => decide ((siteOf e.1).field = f))
    | none => false)

def State.usersOf (s : State) (f : Nat) : List Nat := (List.range 64).filter (fun p => s.usesField p f)

/-! ### Re-placement begins (R277) -/

/-- A placed plot becomes REPLACING; Tilth starts a placement that was under way again (R276). -/
def State.startReplace (s : State) (p : Nat) : State :=
  if decide (s.placeState p = 3) || decide (s.placeState p = 5) then s.setPlace p 4
  else if s.placeState p = 4 then s.onPlot p (fun x => { x with placing := none })
  else s

/-- Every placement under way starts again on the new map (R276). -/
def State.restartPlacing (s : State) : State :=
  (List.range 64).foldl (fun s p => s.onPlot p (fun x => { x with placing := x.placing.map (fun pl => { pl with moved := false }) })) s

/-! ### Retiring -/

/-- An EVENT of the repair map. Its ARG has no layout in the spec: a free value. -/
def State.repairEvent (s : State) (source : Word) : State :=
  let (v, s) := s.takeFree
  s.event 0x0108 source v.toNat

/-- Armed sets that name a plot of which something retires fail their RECT check (R371). -/
def State.cancelRetired (s : State) (hit : Nat → Bool) : State := s.cancelSets (fun x => x.mask.any hit) 3

/-- Bedrock decides to retire a tile (R436): its plot is fenced with cause RETIRE and is re-placed. -/
def State.retireTile (s : State) (t : Site) : State :=
  if s.retiring.contains t.key || s.repair.retired.contains t.key then s
  else
    let s := { s with retiring := s.retiring ++ [t.key], tablesDue := true }
    let s := s.repairEvent (s.source t)
    match s.plotOf t with
    | some p =>
      if s.rated t then
        let s := s.cancelRetired (fun o => decide (o = p))
        (s.fencePlot p fcRetire { FenceCall.plain with tile := some t }).startReplace p
      else s
    | none => s

/-- A field is retired: every plot that uses it is fenced and re-placed. -/
def State.retireField (s : State) (f cause : Nat) : State :=
  if s.retiringFields.contains f || s.repair.retiredFields.contains f then s
  else
    let ps := s.usersOf f
    let again := (s.fieldRt f).lost
    let s := { s with retiringFields := s.retiringFields ++ [f], tablesDue := true }
    let s := s.cancelRetired ps.contains
    let s := ps.foldl (fun s p => (s.fence p cause f).startReplace p) s
    let s := (again.foldl (fun s p => s.startReplace p) s).restartPlacing
    s.onField f (fun r => { r with lost := [] })

/-- A spill site leaves the pool, and the plots that use it are re-placed (R444). -/
def State.retireSpill (s : State) (t : Site) : State :=
  let ps := (List.range 64).filter (fun p => match (s.plot p).placed with | some pl => pl.usesSpill t | none => false)
  let s := { s with repair := { s.repair with badSpills := insertNat s.repair.badSpills t.key } }
  ps.foldl (fun s p => (s.fence p fcField t.field).startReplace p) s

/-- The hot spare nearest to a tile among those listed, the earlier one where hops are equal. -/
def nearestSpare (t : Site) (l : List Site) : Option Site :=
  l.foldl (fun b u => match b with
    | some v => if t.hops u < t.hops v then some u else some v
    | none => some u) none

/-- The spare that takes a tile's place (R437). -/
def State.spareFor (s : State) (t : Site) : Option Site :=
  let row := ((List.range 40).map (fun i => ({ px := t.px / 40 * 40 + i, py := t.py } : Site))).filter s.spare
  match nearestSpare t row with
  | some u => some u
  | none => nearestSpare t (((List.range 320).flatMap (fun y => (List.range 320).map (fun x => ({ px := x, py := y } : Site)))).filter
      s.spare)

def State.promote (s : State) (u : Site) : State :=
  { s with repair := { s.repair with promoted := insertNat s.repair.promoted u.key } }

/-! ### The commit of tables -/

/-- Fields in PENUMBRA and in UMBRA at a table instant; a field on its planned way to UMBRA is routed around first (R397). -/
def State.fieldsAt (s : State) (n : Nat) : List Nat :=
  (List.range 64).filter (fun f => Config.fieldPresent f &&
    (match (s.fieldRt f).stateTo with
      | some k => if s.fieldState f = 2 then decide (n = 2) else decide (k = n)
      | none => decide (s.fieldState f = n)))

def State.newBasis (s : State) : TableBasis :=
  { dead := s.repair.deadRouters, links := s.failedLinks, penumbra := s.fieldsAt 1, umbra := s.fieldsAt 2 }

/-- Retired fields enter the repair map; ID_FRETIRED and PWR_FIELD.RETIRED show them. -/
def State.mapFields (s : State) : State :=
  let s := { s with repair := { s.repair with retiredFields := s.retiringFields.foldl insertNat s.repair.retiredFields },
                    retiringFields := [] }
  s.repair.retiredFields.foldl (fun s f => (s.setFld rIdFretired f f 1).setFld (rPwrField f) 30 30 1) s

/-- Retired tiles enter the repair map and go DARK; each rated one is replaced by a hot spare while there is one. -/
def State.mapTiles (s : State) : State :=
  let ts := s.retiring.map siteOf
  let lost := ts.filter s.rated
  let s := { s with repair := { s.repair with retired := s.retiring.foldl insertNat s.repair.retired }, retiring := [] }
  let s := ts.foldl (fun s t => s.darken t) s
  lost.foldl (fun s t => match s.spareFor t with | some u => s.promote u | none => s) s

/-- Prism entries of every placed plot. -/
def State.writeAllTrees (s : State) : State :=
  (List.range 64).foldl (fun s p => if (s.plot p).placed.isSome then s.writeTrees p else s) s

/-- The repair map in flash, changed; Bedrock starts no flash write once a shutdown has begun (R410). -/
def State.flashCopy (s : State) (f : Repair → Repair) : Repair := if s.shutDown then s.flashRepair else f s.flashRepair

/-- The repair map changed in Bedrock's memory and in flash. -/
def State.note (s : State) (f : Repair → Repair) : State := { s with repair := f s.repair, flashRepair := s.flashCopy f }

/-- TABLE_COMMIT (R27, R28, R29, R422, R437): the new tables take effect at every router at this edge. -/
def State.commitTables (s : State) : State :=
  let s := s.mapFields.mapTiles
  let s := { s with tables := s.newBasis, tablesDue := false, flashRepair := s.flashCopy (fun _ => s.repair) }
  ((s.count rRouteStat 63 32 1).setReg rRouteLast (BitVec.ofNat 64 s.cycle)).writeAllTrees

/-! ### Meanings -/

/-- TABLE_COMMIT (R422). -/
def execTableCommit (s : State) : Out := when_ "TABLE_COMMIT" s.tablesDue s.commitTables

def isSparing : SvcNote → Bool
  | .sparing .. => true | .exhausted _ => true | .layerFailed _ => true
  | _ => false

/-- What Bedrock makes of a tile's notice (R54, R55, R420): the map in its memory and in flash; a bank without spares, and a second
failed layer, retire the tile. -/
def State.takeNotice (s : State) (t : Site) (n : SvcNote) : State :=
  match n with
  | .sparing bank row spare =>
    let s := s.note (fun r => { r with rows := r.rows ++ [(t.key, bank, row, spare)] })
    s.repairEvent (s.source t)
  | .exhausted bank => (s.note (fun r => { r with exhausted := r.exhausted ++ [(t.key, bank)] })).retireTile t
  | .layerFailed layer =>
    let s := { s with flashRepair := s.flashCopy (fun r => { r with layers := r.layers ++ [(t.key, layer)] }) }
    let s := s.repairEvent (s.source t)
    if 2 ≤ (s.repair.layers.filter (fun e => decide (e.1 = t.key))).length then s.retireTile t else s
  | _ => s

/-- SPARING_NOTICE (R54). -/
def execSparingNotice (s : State) : Out :=
  whenSome "SPARING_NOTICE" (takeFirst (fun (e : Site × SvcNote) => isSparing e.2) s.svc) (fun (e, rest) =>
    .next ({ s with svc := rest }.takeNotice e.1 e.2))

end Sys2Proof.Machine
end

