-- ==== Sys2Proof/Machine/Clocks.lean ====
section
/-!
DEFINITION. The reference monitor, the field PLLs, the clock multiplexers, the measuring counter and CLKOUT (R381 to R393).
-/
namespace Sys2Proof.Machine

/-! ### CLKOUT (R392, R393) -/

/-- The frequency of ACLK of a field in kHz: its PLL, or the reference bypass. -/
def State.aclk (s : State) (f : Nat) : Nat :=
  if !Config.fieldPresent f || decide (s.fieldState f = 2) then 0
  else if s.fld (rClkMuxStat (64 + f)) 15 8 = 1 then 50000
  else match s.fld (rClkField f) 4 3 with | 1 => 3000000 | 2 => 750000 | _ => 0

/-- The frequency of a clock by its code, in kHz; 0 for one that is stopped or that no code names. -/
def State.clockKhz (s : State) (code : Nat) : Nat :=
  if code = 0 then 12500
  else if code ≤ 3 then 50000
  else if decide (0x40 ≤ code) && decide (code < 0x80) then s.aclk (code - 0x40)
  else if decide (0x80 ≤ code) && decide (code < 0xC0) then s.aclk (code - 0x80) / 2
  else if 0xC0 ≤ code then (if Config.fieldPresent (code - 0xC0) && decide (s.fieldState (code - 0xC0) ≠ 2) then 50000 else 0)
  else 0

/-- CLKOUT follows CLK_OUT and multiplexer 1. -/
def State.showClkOut (s : State) : State :=
  let en := decide (s.fld rClkOut 4 4 = 1)
  let k := s.clockKhz (s.fld (rClkMuxStat 1) 15 8)
  let fast := decide (200000 * 2 ^ s.fld rClkOut 3 0 < k)
  { s.setFld rClkOut 5 5 (if en && fast then 1 else 0) with clkOut := en && !fast && decide (k ≠ 0) }

/-- A write of CLK_OUT. -/
def State.writeClkOut (s : State) (v : Dword) : State := (s.setFld rClkOut 4 0 (Dword.field v 4 0)).showClkOut

/-! ### The reference (R383, R387, R388) -/

def State.refSrc (s : State) : RefSrc := match s.fld rClkRef 5 4 with | 1 => .crystal | 2 => .refclk | _ => .rc

/-- GCLK now runs from a source. -/
def State.setGclk (s : State) (n : Nat) : State := (s.setFld rClkRef 5 4 n).setFld (rClkMuxStat 0) 15 8 n

/-- The failover to the RC oscillator, through the force path of the GCLK multiplexer (R387). -/
def State.failover (s : State) : State :=
  let src := s.refSrc
  let s := (((s.setGclk 0).setFld rClkRef 0 0 1).setFld rClkRef 7 7 1).setFld rClkRef 6 6 0
  let s := ((s.setFld (rClkMuxStat 0) 1 0 0).bump (rClkMuxStat 0) 7 4 1)
  let s := { s with refmon := { failed := some src, goodRuns := 0 }, muxes := mapDel s.muxes 0 }
  s.alarm 0x0002 wholeModule (s.reg rClkRef).toNat

/-- REF_MONITOR_WINDOW (R383, R387, R388): of the selected source, or of the one that failed. -/
def execRefMonitorWindow (src : RefSrc) (count : Nat) (gap : Bool) (s : State) : Out :=
  let good := decide (973 ≤ count) && decide (count ≤ 1075) && !gap
  let s' := s.setFld rClkRef 47 32 (min 0xFFFF count)
  let s' := if src = .refclk then s'.setFld rStrapPins 16 16 (if count = 0 then 0 else 1) else s'
  if src = .rc then .refused (.notEnabled "REF_MONITOR_WINDOW")
  else if s.refSrc = src then .next (if good then s'.setFld rClkRef 6 6 1 else s'.failover)
  else if s.refmon.failed = some src then
    let n := if good then s.refmon.goodRuns + 1 else 0
    .next ({ s' with refmon := { s'.refmon with goodRuns := n } }.setFld rClkRef 6 6 (if 1024 ≤ n then 1 else 0))
  else .refused (.notEnabled "REF_MONITOR_WINDOW")

/-- REFERENCE_EDGE_GAP (R387). -/
def execReferenceEdgeGap (s : State) : Out := when_ "REFERENCE_EDGE_GAP" (decide (s.refSrc ≠ .rc)) s.failover

/-! ### Field PLLs (R385, R386) -/

/-- The PLL of a field starts toward an operating point: 1 LOCK, 2 LOW. -/
def State.slew (s : State) (f n : Nat) : State :=
  if decide (s.fld (rClkField f) 4 3 = n) && (s.fieldRt f).pllTo.isNone && (s.fieldRt f).stateTo.isNone then s
  else (s.setFld (rClkField f) 5 5 1).onField f (fun r => { r with pllTo := some n })

/-- PLL_COAST (R386). -/
def execPllCoast (f : Nat) (s : State) : Out :=
  onUnit (Config.fieldPresent f) (when_ "PLL_COAST"
    (decide (s.fld (rClkField f) 6 6 = 0) && decide (s.fieldState f ≠ 2) &&
      (decide (s.fld (rClkField f) 4 3 ≠ 0) || (s.fieldRt f).pllTo.isSome))
    (((s.setFld (rClkField f) 7 7 1).setFld (rClkField f) 6 6 1).slew f 2))

/-- PLL_RELOCK (R386). A field in PENUMBRA keeps its PLL at LOW (R396). -/
def execPllRelock (f : Nat) (s : State) : Out :=
  onUnit (Config.fieldPresent f) (when_ "PLL_RELOCK" (decide (s.fld (rClkField f) 6 6 = 1)) (
    let s := s.setFld (rClkField f) 6 6 0
    if decide (s.fieldState f = 0) && decide ((s.fieldRt f).stateTo ≠ some 1) || decide ((s.fieldRt f).stateTo = some 0) then s.slew f 1
    else s))

/-- A field has reached a state (R397, R414): new tables are due, and a field back in LIT lets the plots that it lost be re-placed. -/
def State.fieldReaches (s : State) (f n : Nat) : State :=
  let s := { s.setFld (rPwrField f) 27 26 n with tablesDue := true }
  if n = 0 then
    let lost := (s.fieldRt f).lost
    (lost.foldl (fun s p => s.startReplace p) s).onField f (fun r => { r with lost := [], thermal := false, asked := none, hot := 0, cool := 0 })
  else
    let s := s.onField f (fun r => { r with hot := 0, cool := 0 })
    if (s.fieldRt f).untested then s.setFld rRasScan 63 63 1 else s

/-- PLL_SLEW_DONE (R385, R397): the operating point is reached, and with it the field state that waited for it. -/
def execPllSlewDone (f : Nat) (s : State) : Out :=
  onUnit (Config.fieldPresent f) (whenSome "PLL_SLEW_DONE" (s.fieldRt f).pllTo (fun n =>
    let goal := (s.fieldRt f).stateTo
    let s := ((s.setFld (rClkField f) 4 3 n).setFld (rClkField f) 5 5 0).onField f (fun r => { r with pllTo := none })
    let s := match goal with
      | some k => if k = 2 then s else (s.onField f (fun r => { r with stateTo := none })).fieldReaches f k
      | none => s
    .next s.showClkOut))

/-! ### Multiplexers (R389, R390) -/

/-- A multiplexer with this number exists, in a field that is present (R415). -/
def muxNamed (m : Nat) : Bool := decide (m ≤ 1) || (decide (64 ≤ m) && decide (m < 128))
def muxHere (m : Nat) : Bool := decide (m ≤ 1) || Config.fieldPresent (m - 64)

/-- Source codes of a multiplexer. -/
def muxTakes (m sel : Nat) : Bool := if m = 0 then decide (sel ≤ 2) else if m = 1 then true else decide (sel ≤ 1)

/-- A write of SEL: ignored while BUSY is 1; a code that names no source is stored and starts no switch. -/
def State.writeMuxSel (s : State) (m sel : Nat) : State :=
  if !muxHere m || decide (s.fld (rClkMuxStat m) 0 0 = 1) then s
  else
    let s := s.setFld (rClkMux m) 7 0 sel
    if muxTakes m sel then { s.setFld (rClkMuxStat m) 0 0 1 with muxes := mapPut s.muxes m { target := sel } } else s

/-- The output passes the new clock. -/
def State.muxOn (s : State) (m target : Nat) : State :=
  let s := { (s.setFld (rClkMuxStat m) 15 8 target).setFld (rClkMuxStat m) 1 0 0 with muxes := mapDel s.muxes m }
  let s := if m = 0 then s.setGclk target else s
  let s := if decide (m = 0) && decide (target ≠ 0) then { s with refmon := { failed := none, goodRuns := 0 } } else s
  s.showClkOut

/-- A write of FORCE: it acts while HANG is 1. -/
def State.forceMux (s : State) (m : Nat) : State :=
  match (s.muxes.find? (fun e => decide (e.1 = m))) with
  | some (_, x) => if s.fld (rClkMuxStat m) 1 1 = 1 then (s.bump (rClkMuxStat m) 7 4 1).muxOn m x.target else s
  | none => s

/-- A write of CLK_MUX[m]. -/
def State.writeMux (s : State) (m : Nat) (v : Dword) : State :=
  let s := s.writeMuxSel m (Dword.field v 7 0)
  if Dword.field v 8 8 = 1 then s.forceMux m else s

def State.muxGoal (s : State) (m : Nat) : Option Nat := (s.muxes.find? (fun e => decide (e.1 = m))).map (fun e => e.2.target)

/-- CLK_MUX_SEL_WRITE (R389). -/
def execClkMuxSelWrite (m : Nat) (v : Dword) (s : State) : Out := onUnit (muxNamed m) (.next (s.writeMuxSel m (Dword.field v 7 0)))

/-- CLK_MUX_SWITCH_DONE (R389). -/
def execClkMuxSwitchDone (m : Nat) (s : State) : Out :=
  onUnit (muxNamed m) (whenSome "CLK_MUX_SWITCH_DONE" (s.muxGoal m) (fun x =>
    when_ "CLK_MUX_SWITCH_DONE" (decide (s.fld (rClkMuxStat m) 1 1 = 0)) (s.muxOn m x)))

/-- CLK_MUX_HANG (R390). -/
def execClkMuxHang (m : Nat) (s : State) : Out :=
  onUnit (muxNamed m) (when_ "CLK_MUX_HANG" ((s.muxGoal m).isSome && decide (s.fld (rClkMuxStat m) 1 1 = 0))
    ((s.setFld (rClkMuxStat m) 1 1 1).event 0x0102 wholeModule m))

/-- CLK_MUX_FORCE (R390). -/
def execClkMuxForce (m : Nat) (s : State) : Out := onUnit (muxNamed m) (.next (s.forceMux m))

/-! ### Measuring (R391) -/

/-- A write of CLK_MEAS: GO starts a measurement; while one runs it is ignored (R522). -/
def State.writeMeas (s : State) (v : Dword) : State :=
  let s := s.setFld rClkMeas 31 8 (Dword.field v 31 8)
  if decide (Dword.field v 0 0 = 1) && decide (s.fld rClkMeas 0 0 = 0) then s.setFld rClkMeas 0 0 1 else s

/-- CLK_MEAS_GO (R391). -/
def execClkMeasGo (v : Dword) (s : State) : Out := .next (s.writeMeas v)

/-- CLK_MEAS_DONE (R391). The count of a clock that runs is the part's; a stopped clock counts 0. -/
def execClkMeasDone (count : Nat) (s : State) : Out :=
  when_ "CLK_MEAS_DONE" (decide (s.fld rClkMeas 0 0 = 1))
    ((s.setFld rClkMeas 63 32 (if s.clockKhz (s.fld rClkMeas 31 24) = 0 then 0 else min 0xFFFFFFFF count)).setFld rClkMeas 0 0 0)

end Sys2Proof.Machine
end

