-- ==== Sys2Proof/Machine/Power.lean ====
section
/-!
DEFINITION. Tile and field power states, the power cap, energy counters, droop and backfill, the supply and its shutdown, heat, and
shorts (R394 to R417).
-/
namespace Sys2Proof.Machine

/-! ### Tile power states (R394, R395) -/

/-- The listed tiles of a field, changed; the others are DARK. -/
def State.eachInField (s : State) (f : Nat) (g : State → Site → State) : State :=
  ((s.tiles.map (fun e => siteOf e.1)).filter (fun t => decide (t.field = f))).foldl g s

/-- A tile goes to NAP: core and engines off, everything else kept. -/
def State.nap (s : State) (t : Site) : State := s.onTile t (fun x => if x.powered then { x with power := .nap } else x)

/-- A RUN of the plot runs or waits to start. -/
def State.runWanted (s : State) (p : Nat) : Bool := s.running p || (s.command p opRun).isSome

/-- PWR_PLOT.SLEEP puts the plot's usable tiles into NAP while no RUN runs (R395). -/
def State.sleepPlot (s : State) (p : Nat) : State :=
  if decide (s.fld (rPwrPlot p) 0 0 = 1) && !s.running p then (s.usable p).foldl (fun s t => s.nap t) s else s

/-- A write of PWR_PLOT[p]. -/
def State.writePwrPlot (s : State) (p : Nat) (v : Dword) : State :=
  let s := (s.setFld (rPwrPlot p) 31 24 (Dword.field v 31 24)).setFld (rPwrPlot p) 19 16 (Dword.field v 19 16)
  (s.setFld (rPwrPlot p) 0 0 (Dword.field v 0 0)).sleepPlot p

/-- TILE_NAP_WAKE (R394, R395). -/
def execTileNapWake (t : Site) (s : State) : Out :=
  onTile t s (when_ "TILE_NAP_WAKE"
    (decide ((s.tile t).power = .nap) && decide (s.fieldState t.field = 0) &&
      (match s.plotOf t with
        | some p => decide (s.fld (rPwrPlot p) 0 0 = 0) || s.runWanted p
        | none => true))
    (s.onTile t (fun x => { x with power := .active })))

/-- TILE_DARK_WAKE (R394): of a tile of a valid plot in a field that is LIT. -/
def execTileDarkWake (t : Site) (s : State) : Out :=
  onTile t s (when_ "TILE_DARK_WAKE"
    (decide ((s.tile t).power = .dark) && decide (s.fieldState t.field = 0) && s.rated t && (s.plotOf t).isSome)
    (s.resetTile t))

/-! ### Field states (R396 to R398) -/

/-- No change of the field's state or clock is in progress. -/
def State.fieldRests (s : State) (f : Nat) : Bool := (s.fieldRt f).stateTo.isNone && (s.fieldRt f).pllTo.isNone

/-- A scan of the field is in progress: one that was asked for, or the one that a field back from UMBRA owes (R397, R444). -/
def State.scanning (s : State) (f : Nat) : Bool :=
  (s.scan.active && decide (s.scan.field = f)) || (s.fieldRt f).untested

/-- The way to PENUMBRA begins: tiles to NAP, or DARK for a scan (R443), the PLL to LOW. -/
def State.toPenumbra (s : State) (f : Nat) : State :=
  let s := s.eachInField f (if s.scanning f then State.darken else State.nap)
  (s.slew f 2).onField f (fun r => { r with stateTo := some 1, pllTo := some 2, asked := none })

/-- FIELD_TO_PENUMBRA (R397). For a scan, the plots that use the field are FENCED first (R444). -/
def execFieldToPenumbra (f : Nat) (s : State) : Out :=
  onUnit (Config.fieldPresent f) (when_ "FIELD_TO_PENUMBRA"
    (decide (s.fieldState f = 0) && s.fieldRests f && (!s.scanning f || (s.usersOf f).all (fun p => decide (s.fenceState p = 2))))
    (s.toPenumbra f))

/-- The way back to LIT. While the reference is lost the PLL stays at LOW (R386, R396). -/
def State.toLit (s : State) (f : Nat) : State :=
  let n := if s.fld (rClkField f) 6 6 = 1 then 2 else 1
  (s.setFld (rClkField f) 5 5 1).onField f (fun r => { r with stateTo := some 0, pllTo := some n, asked := none })

/-- FIELD_TO_LIT (R397, R411): not before a scan that the field owes, nor before the field has cooled. -/
def execFieldToLit (f : Nat) (s : State) : Out :=
  onUnit (Config.fieldPresent f) (when_ "FIELD_TO_LIT"
    (decide (s.fieldState f = 1) && s.fieldRests f && !s.scanning f &&
      !s.repair.retiredFields.contains f && !s.retiringFields.contains f &&
      (!(s.fieldRt f).thermal || decide ((s.fieldRt f).asked = some 0)))
    (s.toLit f))

/-- Whether an address of device memory lies at a site of the field: the site of each kind of address (R42). -/
def addrSite (a : Nat) : Site :=
  if a < 0x200000000000 then { px := a / 2 ^ 19 % 512, py := a / 2 ^ 28 }
  else if a < 0x400000000000 then { px := (a - 0x200000000000) / 2 ^ 27 % 512, py := (a - 0x200000000000) / 2 ^ 36 }
  else { px := (a - 0x400000000000) / 2 ^ 20 % 512, py := (a - 0x400000000000) / 2 ^ 29 }

/-- The field's stage is off: routers, PLL, tiles and loam lose everything (R396). -/
def State.fieldDark (s : State) (f : Nat) : State :=
  let there := fun k : Nat => decide ((siteOf k).field = f)
  let s := { s with
    tiles := s.tiles.filter (fun e => !there e.1), routers := s.routers.filter (fun e => !there e.1)
    mem := s.mem.filter (fun e => decide ((addrSite e.1).field ≠ f)), tablesDue := true }
  let s := ((s.setFld (rPwrField f) 27 26 2).setFld (rClkField f) 6 3 0).onField f (fun r => { r with
    clamp := none, pllTo := none, stateTo := none, asked := none, hot := 0, cool := 0, untested := false })
  s.showClkOut

/-- A field enters UMBRA (R398): the plots that use it are fenced with the cause, and re-placed; after a short, once R414 says so. -/
def State.fieldOff (s : State) (f cause : Nat) : State :=
  let ps := s.usersOf f
  let s := ps.foldl (fun s p => s.fence p cause f) s
  let s := s.fieldDark f
  if cause = fcFieldShort then s.onField f (fun r => { r with lost := ps })
  else (ps.foldl (fun s p => s.startReplace p) s).restartPlacing

/-- FIELD_TO_UMBRA (R397). The planned entry takes two of these events, with the tables that route around the field between them. -/
def execFieldToUmbra (f : Nat) (emergency : Bool) (s : State) : Out :=
  onUnit (Config.fieldPresent f) (
    let thermal := decide ((s.fieldRt f).asked = some 3)
    if s.fieldState f = 2 then .refused (.notEnabled "FIELD_TO_UMBRA")
    else if emergency then .next (s.fieldOff f (if thermal then fcThermal else fcField))
    else if (s.fieldRt f).stateTo = some 2 then
      when_ "FIELD_TO_UMBRA" (s.tables.umbra.contains f && !s.tablesDue) (s.fieldOff f fcField)
    else when_ "FIELD_TO_UMBRA" (s.fieldRests f) ({ s with tablesDue := true }.onField f (fun r => { r with stateTo := some 2 })))

/-- The soft start has ended: the PLL locks, and the field enters PENUMBRA with every tile DARK. -/
def State.softStart (s : State) (f : Nat) : State :=
  (s.setFld (rClkField f) 5 5 1).onField f (fun r => { r with stateTo := some 1, pllTo := some 2, asked := none, untested := true })

/-- FIELD_POWER_UP (R397, R411). -/
def execFieldPowerUp (f : Nat) (s : State) : Out :=
  onUnit (Config.fieldPresent f) (when_ "FIELD_POWER_UP"
    (decide (s.fieldState f = 2) && s.fieldRests f && !(s.fieldRt f).latched && !s.shutDown &&
      !s.repair.retiredFields.contains f && !s.retiringFields.contains f &&
      (!(s.fieldRt f).thermal || decide ((s.fieldRt f).asked = some 4)))
    (s.softStart f))

/-! ### The cap controller (R401 to R403) -/

def State.policy (s : State) : Nat := s.fld rShadowDev 3 2

/-- Plots with a RUN running. -/
def State.runners (s : State) : List Nat := (List.range 64).filter s.running

/-- w_p of R401. -/
def State.weight (s : State) (p : Nat) : Nat :=
  let w := s.fld (rPwrPlot p) 31 24
  if w = 0 then (s.usable p).length else w

/-- Σ w · S_p of a plot, and Σ w: the share is their quotient. -/
def State.share (s : State) (pin : Nat) (powers : Nat → Nat) (p : Nat) : Int × Nat :=
  let ps := s.runners
  let total := ps.foldl (fun n o => n + powers o) 0
  let w := ps.foldl (fun n o => n + s.weight o) 0
  (((s.fld rPwrCapSet 15 0 : Int) - ((pin : Int) - (total : Int))) * (s.weight p : Int), w)

def State.rateOf (s : State) (p : Nat) : Nat := s.fld (rPwrPlot p) 23 20
def State.setRate (s : State) (p n : Nat) : State := s.setFld (rPwrPlot p) 23 20 n
/-- A plot below its own ceilings: PWR_PLOT.CEIL, and 16 (R400, R401). -/
def State.belowCeil (s : State) (p : Nat) : Bool := decide (s.rateOf p < s.fld (rPwrPlot p) 19 16)

/-- One round of the loop. -/
def State.capStep (s : State) (pin : Nat) (powers : Nat → Nat) : State :=
  let ps := s.runners
  let cap := s.fld rPwrCapSet 15 0
  let above := fun p => let (x, w) := s.share pin powers p; decide (x < (powers p : Int) * (w : Int))
  let below := fun p => let (x, w) := s.share pin powers p; decide ((powers p : Int) * (w : Int) < x)
  let down := fun (s : State) p => s.setRate p (s.rateOf p - 1)
  if cap < pin then
    (if ps.any above then ps.filter above else ps).foldl down s
  else if 100 * pin < 98 * cap then
    let holds := fun p => above p && ps.any (fun o => decide (o ≠ p) && below o && s.belowCeil o)
    (ps.filter (fun p => s.belowCeil p && !holds p)).foldl (fun s p => s.setRate p (s.rateOf p + 1)) s
  else s

/-- A share as PWR_PLOT.SHARE holds it: whole W, from 0 to 65,535. -/
def shareW (x : Int × Nat) : Nat := if x.2 = 0 then 0 else min 65535 (x.1 / (x.2 : Int)).toNat

/-- CAP_LOOP (R401): the input power and the power of each plot over the last 10 µs, in W. -/
def execCapLoop (pin : Nat) (plots : List (Nat × Nat)) (s : State) : Out :=
  let powers := fun p => match plots.find? (fun e => decide (e.1 = p)) with | some e => e.2 | none => 0
  let s := s.setFld rPwrStat 47 32 (min 65535 pin)
  let s := (List.range 64).foldl (fun s p => s.setFld (rPwrPlot p) 47 32 (min 65535 (powers p))) s
  if s.policy = 2 then .next s
  else
    let s := s.runners.foldl (fun s p => s.setFld (rPwrPlot p) 63 48 (shareW (s.share pin powers p))) s
    .next (s.capStep pin powers)

/-- The estimate of a phase (R402), and its change. -/
def PlotSt.estimate (x : PlotSt) (n : Nat) : Option Nat := (x.phases.find? (fun e => decide (e.num = n))).map (fun e => e.est)
def PlotSt.setEstimate (x : PlotSt) (n est : Nat) : PlotSt :=
  { x with phases := x.phases.filter (fun e => decide (e.num ≠ n)) ++ [{ num := n, est := est }] }

/-- The phase in progress ends: E moves a quarter of the way to 16 · P̄ / r̄, with P̄ in mW and r̄ in 1/1000. -/
def State.endPhase (s : State) (p meanPower meanRate : Nat) : State :=
  let x := s.plot p
  match x.phase with
  | none => s
  | some n =>
    let e := (x.estimate n).getD 0
    let m := if meanRate = 0 then e else 16000 * meanPower / meanRate
    let e' := ((e : Int) + ((m : Int) - (e : Int)) / 4).toNat
    s.setPlot p { x.setEstimate n e' with phase := none }

/-- The end of a RUN ends its phase; what was measured of it is the part's: free values. -/
def State.endPhaseFree (s : State) (p : Nat) : State :=
  if decide (s.policy = 1) && (s.plot p).phase.isSome then
    let (a, s) := s.takeFree
    let (b, s) := s.takeFree
    s.endPhase p a.toNat (b.toNat % 16001)
  else s

/-- A HEAVY hint of a plot's tile at virtual (0, 0), under CAP-LEARN. -/
def State.hint (s : State) (p phase level meanPower meanRate : Nat) : State :=
  let s := if (s.plot p).phase = some phase && decide (level ≠ 0) then s else s.endPhase p meanPower meanRate
  if level = 0 then s
  else
    let x := s.plot p
    let e := (x.estimate phase).getD (level * 30 * (s.usable p).length)
    let s := s.setPlot p { x.setEstimate phase e with phase := some phase }
    let r := if e = 0 then 16 else max 1 (min 16 (16 * (1000 * s.fld (rPwrPlot p) 63 48) / e))
    s.setRate p (r - 1)

def isHeavy : SvcNote → Option (Nat × Nat)
  | .heavy phase level => some (phase, level)
  | _ => none

/-- HEAVY_HINT_RECEIVE (R402). meanPower and meanRate are what was measured of the phase that the hint ends, in mW and in 1/1000. -/
def execHeavyHintReceive (meanPower meanRate : Nat) (s : State) : Out :=
  whenSome "HEAVY_HINT_RECEIVE" (takeFirst (fun (e : Site × SvcNote) => (isHeavy e.2).isSome) s.svc) (fun (e, rest) =>
    let s := { s with svc := rest }
    match isHeavy e.2, s.virt e.1 with
    | some (phase, level), some (p, 0, 0) => if s.policy = 1 then .next (s.hint p phase level meanPower meanRate) else .next s
    | _, _ => .next s)

/-- A write of PWR_CAP_SET (R403). -/
def State.writeCapSet (s : State) (v : Dword) : State :=
  (s.setFld rPwrCapSet 19 16 (Dword.field v 19 16)).setFld rPwrCapSet 15 0 (max 4000 (min 42000 (Dword.field v 15 0)))

/-- PWR_CAP_SET_WRITE (R403). -/
def execPwrCapSetWrite (v : Dword) (s : State) : Out := .next (s.writeCapSet v)

/-! ### Energy (R404) -/

/-- ENERGY_SAMPLE (R404): what the sample adds to each counter, in µJ, and the field's rail power. -/
def execEnergySample (f : Nat) (plots queues : List (Nat × Nat)) (dev ein watts : Nat) (s : State) : Out :=
  onUnit (Config.fieldPresent f) (
    let s := s.setFld (rPwrField f) 47 36 (min 4095 watts)
    let s := plots.foldl (fun s e => if e.1 < 64 then s.count (rPwrEplot e.1) 63 0 e.2 else s) s
    let s := queues.foldl (fun s e => if e.1 < 64 then s.count (rPwrEqueue e.1) 63 0 e.2 else s) s
    .next ((s.count rPwrEdev 63 0 dev).count rPwrEin 63 0 ein))

/-! ### Droop and backfill (R405 to R407) -/

/-- MCLK edges in a second. -/
def second : Nat := 1500000000

/-- DROOP_CROSSING (R405, R406). -/
def execDroopCrossing (f : Nat) (s : State) : Out :=
  onUnit (Config.fieldPresent f) (
    let recent := (s.fieldRt f).droops.filter (fun c => decide (s.cycle < c + second)) ++ [s.cycle]
    let s := (s.bump (rPwrField f) 63 48 1).onField f (fun r => { r with clamp := some 0, droops := recent })
    .next (if 1000 < recent.length then s.alarm 0x0003 wholeModule (s.fld (rPwrField f) 63 48) else s))

/-- DROOP_CLAMP_STEP (R406). -/
def execDroopClampStep (f : Nat) (s : State) : Out :=
  onUnit (Config.fieldPresent f) (whenSome "DROOP_CLAMP_STEP" (s.fieldRt f).clamp (fun n =>
    .next (s.onField f (fun r => { r with clamp := if 15 ≤ n then none else some (n + 1) }))))

/-- BACKFILL_STEP (R407): down to the floor in any group but 15, and up again after the barrier. -/
def execBackfillStep (t : Site) (s : State) : Out :=
  onTile t s (match (s.tile t).backfill, (s.tile t).climb with
    | some r, _ => when_ "BACKFILL_STEP" (decide (s.fld rPwrBf 7 4 + 1 < r) && decide ((s.core t).blocked ≠ some (.bar 15)))
        (s.onTile t (fun x => { x with backfill := some (r - 1) }))
    | none, some r => .next (s.onTile t (fun x => { x with climb := if s.rateGoal t ≤ r + 1 then none else some (r + 1) }))
    | none, none => .refused (.notEnabled "BACKFILL_STEP"))

/-! ### The supply (R408 to R410) -/

def State.onSupply (s : State) (f : Supply → Supply) : State := { s with supply := f s.supply }

/-- The shutdown is decided (R410). -/
def State.beginShutdown (s : State) : State :=
  if s.shutDown then s
  else ((s.setFld rPwrSupply 2 2 1).onSupply (fun u => { u with stage := 1 })).alarm 0x0005 wholeModule s.supply.lowest

/-- WARN is entered. -/
def State.warnSupply (s : State) : State :=
  if s.fld rPwrSupply 0 0 = 1 then s
  else ((s.setFld rPwrSupply 1 0 3).bump rPwrSupply 47 32 1).onSupply (fun u => { u with warnAt := s.cycle, good := 0, ceil := 8 })

/-- The warning ends: held RUNs may start, the ceiling climbs. -/
def State.endWarn (s : State) : State :=
  (s.setFld rPwrSupply 1 0 0).event 0x0104 wholeModule (s.supply.lowest + (s.cycle - s.supply.warnAt) / 1500 * 2 ^ 32)

/-- One sample of the input, in 10 mV. -/
def State.supplySample (s : State) (vin : Nat) : State :=
  let u := s.supply
  let warned := decide (s.fld rPwrSupply 0 0 = 1)
  let n49 := if vin < 4900 then u.low49 + 1 else 0
  let n46 := if vin < 4600 then u.low46 + 1 else 0
  let n58 := if 5800 < vin then u.over58 + 1 else 0
  let n60 := if 6000 < vin then u.over60 + 1 else 0
  let good := if warned && decide (5000 < vin) then u.good + 1 else 0
  let low := if warned || decide (0 < u.low49) then min u.lowest vin else vin
  let s := s.setFld rPwrStat 63 48 (min 65535 vin)
  let s := if decide (4600 ≤ vin) && decide (0 < u.low46) && decide (u.low46 ≤ 40) then s.bump rPwrSupply 63 48 1 else s
  let s := s.onSupply (fun u => { u with low49 := n49, low46 := n46, over58 := n58, over60 := n60, good := good, lowest := low, vin := vin })
  let s := if 2 ≤ n49 then s.warnSupply else s
  let s := if 2000 ≤ good then s.endWarn else s
  let s := if n58 = 2000 then s.alarm 0x0004 wholeModule (s.reg rPwrStat).toNat else s
  if decide (41 ≤ n46) || decide (40 ≤ n60) then s.beginShutdown else s

/-- SUPPLY_SAMPLE (R408, R409). -/
def execSupplySample (vin : Nat) (s : State) : Out := when_ "SUPPLY_SAMPLE" s.supply.aux (s.supplySample vin)

/-- SUPPLY_CEILING_STEP (R408). -/
def execSupplyCeilingStep (s : State) : Out :=
  when_ "SUPPLY_CEILING_STEP" (decide (s.fld rPwrSupply 0 0 = 0) && decide (s.supply.ceil < 16))
    (s.onSupply (fun u => { u with ceil := u.ceil + 1 }))

/-- OVERLOAD_STEP (R409): avg is the input's average over 1 ms, in W. -/
def execOverloadStep (avg : Nat) (s : State) : Out :=
  if !decide (avg ≤ 42000) then
    let s := if s.fld rPwrSupply 3 3 = 1 then s
      else let s := s.setFld rPwrSupply 3 3 1
           s.alarm 0x0004 wholeModule (s.reg rPwrStat).toNat
    let s := (List.range 64).foldl (fun s p => s.setRate p (s.rateOf p - 1)) s
    .next (s.onSupply (fun u => { u with drops := min 15 (u.drops + 1) }))
  else .next (s.onSupply (fun u => { u with drops := 0 }))

def stewardFields : List Nat := [27, 28, 35, 36]

/-- SHUTDOWN_STAGE (R410): the stages at 1 µs, 10 µs and 20 µs. -/
def execShutdownStage (s : State) : Out :=
  match s.supply.stage with
  | 1 =>
    let s := ((List.range 64).filter s.plotValid).foldl (fun s p => s.fence p fcSupply 0xFFFF) s
    .next (s.onSupply (fun u => { u with stage := 2 }))
  | 2 =>
    let s := ((List.range 64).filter (fun f => Config.fieldPresent f && !stewardFields.contains f)).foldl (fun s f => s.fieldDark f) s
    .next (s.onSupply (fun u => { u with stage := 3 }))
  | 3 =>
    let s := stewardFields.foldl (fun s f => s.eachInField f State.darken) s
    let s := { s with mem := s.mem.filter (fun e => decide (e.1 < 0x200000000000) || !decide (e.1 < 0x400000000000)), pwrOk := false }
    .next (s.onSupply (fun u => { u with stage := 4 }))
  | _ => .refused (.notEnabled "SHUTDOWN_STAGE")

/-! ### Heat (R411, R412) -/

def State.temp (s : State) (f : Nat) : Nat :=
  max (max (s.fld (rThmField f) 7 0) (s.fld (rThmField f) 15 8)) (max (s.fld (rThmField f) 23 16) (s.fld (rThmField f) 31 24))

/-- THM_STAT: the hottest field, and the spread among the LIT ones. A spread above 8 K for 1 s raises an EVENT; the model counts it
in samples of the lowest present field. -/
def State.showHeat (s : State) (f : Nat) : State :=
  let lit := presentFields.filter (fun g => decide (s.fieldState g = 0))
  let hi := lit.foldl (fun n g => max n (s.temp g)) 0
  let lo := lit.foldl (fun n g => min n (s.temp g)) 255
  let spread := hi - lo
  let hot := presentFields.foldl (fun b g => if s.temp b < s.temp g then g else b) (presentFields.headD 0)
  let s := (s.setFld rThmStat 7 0 (s.temp hot)).setFld rThmStat 15 8 spread
  let n := if 8 < spread then (if presentFields.headD 0 = f then s.spread + 1 else s.spread) else 0
  let s := { s with spread := n }
  if decide (n = 100000) && decide (presentFields.headD 0 = f) then s.event 0x0106 wholeModule (hot + s.temp hot * 2 ^ 32) else s

/-- The thermal ceiling's steps. -/
def State.heatCeil (s : State) (f : Nat) : State :=
  let t := s.temp f
  let warn := s.fld rThmCfg 7 0
  let r := s.fieldRt f
  let ceil := s.fld (rPwrField f) 35 32
  if warn ≤ t then
    if r.below + 1 < 10 then s.onField f (fun r => { r with below := r.below + 1, warm := 0 })
    else
      let s := if r.warned || decide (ceil = 0) then s else s.event 0x0106 wholeModule (f + t * 2 ^ 32)
      (s.setFld (rPwrField f) 35 32 (ceil - 1)).onField f (fun r => { r with below := 0, warm := 0, warned := true })
  else if t + 3 < warn then
    if r.warm + 1 < 100 then s.onField f (fun r => { r with warm := r.warm + 1, below := 0 })
    else (s.setFld (rPwrField f) 35 32 (min 15 (ceil + 1))).onField f (fun r => { r with
      warm := 0, below := 0, warned := r.warned && decide (ceil + 1 < 15) })
  else s.onField f (fun r => { r with below := 0, warm := 0 })

/-- What the thresholds ask of the field's state. -/
def State.heatState (s : State) (f : Nat) : State :=
  let t := s.temp f
  let warn := s.fld rThmCfg 7 0
  let s := s.onField f (fun r => { r with
    hot := if s.fld rThmCfg 15 8 ≤ t then r.hot + 1 else 0
    atOne := if decide (s.fld (rPwrField f) 35 32 = 0) && decide (warn ≤ t) then r.atOne + 1 else 0
    cool := if t + 10 < warn then r.cool + 1 else 0 })
  let r := s.fieldRt f
  let st := s.fieldState f
  if decide (st ≠ 2) && decide (r.asked ≠ some 3) && (decide (s.fld rThmCfg 23 16 ≤ t) || (decide (st = 1) && decide (1000 ≤ r.hot))) then
    (s.onField f (fun r => { r with asked := some 3, thermal := true })).alarm 0x0006 wholeModule (f + 2 * 2 ^ 32)
  else if decide (st = 0) && !r.thermal && (decide (100 ≤ r.hot) || decide (1000 ≤ r.atOne)) then
    let s := s.onField f (fun r => { r with asked := some 1, thermal := true })
    let s := ((List.range 64).filter (fun p => s.rectInField p f)).foldl (fun s p => s.fence p fcThermal f) s
    s.alarm 0x0006 wholeModule (f + 2 ^ 32)
  else if decide (st = 1) && r.thermal && decide (r.asked ≠ some 3) && !decide (r.cool < 10000) then
    s.onField f (fun r => { r with asked := some 0 })
  else if decide (st = 2) && r.thermal && !decide (r.cool < 100000) then s.onField f (fun r => { r with asked := some 4 })
  else s

/-- THERMAL_SAMPLE (R411, R412): the four THM sites of a field, in °C. -/
def execThermalSample (f t0 t1 t2 t3 : Nat) (s : State) : Out :=
  onUnit (Config.fieldPresent f) (
    let b := fun n => min 255 n
    let s := s.setFld (rThmField f) 31 0 (b t0 + b t1 * 2 ^ 8 + b t2 * 2 ^ 16 + b t3 * 2 ^ 24)
    .next (((s.showHeat f).heatCeil f).heatState f))

/-- A write of THM_CFG (R412). -/
def State.writeThmCfg (s : State) (v : Dword) : State :=
  ((s.setFld rThmCfg 23 16 (min 115 (Dword.field v 23 16))).setFld rThmCfg 15 8 (min 105 (Dword.field v 15 8))).setFld rThmCfg 7 0
    (min 95 (Dword.field v 7 0))

/-- THM_CFG_WRITE (R412). -/
def execThmCfgWrite (v : Dword) (s : State) : Out := .next (s.writeThmCfg v)

/-! ### Shorts (R413, R414) -/

/-- FIELD_SHORT (R413). A second short of the field within an hour retires it. -/
def execFieldShort (f : Nat) (s : State) : Out :=
  onUnit (Config.fieldPresent f) (when_ "FIELD_SHORT" (!(s.fieldRt f).latched && decide (s.fieldState f ≠ 2) ) (
    let recent := (s.fieldRt f).shorts.filter (fun c => decide (s.cycle < c + 3600 * second))
    let s := (s.setFld (rPwrField f) 31 31 1).setFld (rPwrField f) 29 28 0
    let s := (s.alarm 0x0007 wholeModule f).fieldOff f fcFieldShort
    let s := s.onField f (fun r => { r with latched := true, shorts := recent ++ [s.cycle] })
    if recent.isEmpty then s else s.retireField f fcField))

/-- SHORT_RETRY (R413, R414). -/
def execShortRetry (f : Nat) (short : Bool) (s : State) : Out :=
  onUnit (Config.fieldPresent f) (when_ "SHORT_RETRY" ((s.fieldRt f).latched && decide (s.fld (rPwrField f) 29 28 < 3) &&
      !s.retiringFields.contains f && !s.repair.retiredFields.contains f) (
    let s := s.setFld (rPwrField f) 29 28 (s.fld (rPwrField f) 29 28 + 1)
    if short then (if s.fld (rPwrField f) 29 28 = 3 then s.retireField f fcField else s)
    else (s.onField f (fun r => { r with latched := false })).softStart f))

end Sys2Proof.Machine
end

