-- ==== Sys2Proof/Machine/Resets.lean ====
section
/-!
DEFINITION. Reset domains, the zeroing of loam, the scan test and the freeze (R410, R429 to R436, R440, R443 to R446, R449, R451,
R460, R503).
-/
namespace Sys2Proof.Machine

/-! ### DEVICE -/

/-- The whole module at its reset values (R10, R434). Flash, the supplies, what waits at the model's own queue and what has left the
module are no state that the reset reaches; the supplies are back where the auxiliary converter runs (R515). -/
def State.deviceReset (s : State) : State :=
  let z := State.reset
  let u : Supply := { z.supply with aux := s.supply.aux, steward := s.supply.aux, vin := s.supply.vin }
  { z with pending := s.pending, freeCtr := s.freeCtr, out := s.out, flash := s.flash, flashRepair := s.flashRepair, supply := u,
           resetN := s.resetN, pwrOk := s.supply.aux }

/-- RESET_N_LOW (R503). -/
def execResetNLow (s : State) : Out := .next { s.deviceReset with resetN := false }

/-- RAS_RESET_DEVICE (R431). -/
def execRasResetDevice (s : State) : Out := .next s.deviceReset

/-! ### Requests (R431, R432, R450) -/

def Domain.code : Domain → Nat
  | .device => 1 | .warm => 2 | .field _ => 3 | .plot _ => 4 | .tile _ => 5

/-- A reset is asked for. -/
def State.askReset (s : State) (d : Domain) : State :=
  let s := { s with resets := s.resets ++ [d] }
  (((s.count rRasResetStat 63 32 1).setFld rRasResetStat 31 31 1).setFld rRasResetStat 2 0 d.code)

/-- A write named a target that is absent. -/
def State.refuseReset (s : State) : State := s.setFld rRasResetStat 30 30 1

/-- Every outstanding command of every queue completes FENCED (R432). -/
def State.fenceQueues (s : State) : State :=
  (List.range Config.hostQueues).foldl (fun s q => ((s.hostq q).cmds).foldl (fun s c => s.complete q c stFenced 0 []) s) s

/-- A WARM reset is asked for (R432). -/
def State.askWarm (s : State) : State := s.fenceQueues.askReset .warm

def State.askField (s : State) (f : Nat) : State :=
  if !Config.fieldPresent f then s.refuseReset
  else ((s.usersOf f).foldl (fun s p => s.fence p fcHost 0xFFFF) s).askReset (.field f)

def State.askPlot (s : State) (p : Nat) : State :=
  if s.plotValid p then (s.fence p fcHost 0xFFFF).askReset (.plot p) else s.refuseReset

def State.askTile (s : State) (t : Site) : State :=
  if !t.isTile then s.refuseReset
  else (match s.plotOf t with | some p => s.fence p fcHost 0xFFFF | none => s).askReset (.tile t)

/-- A write of RAS_RESET (R450): a DOMAIN of 0, 6 or 7 does nothing. -/
def State.writeRasReset (s : State) (v : Dword) : State :=
  let target := Dword.field v 17 0
  match Dword.field v 59 57 with
  | 1 => s.deviceReset
  | 2 => s.askWarm
  | 3 => s.askField (target % 64)
  | 4 => s.askPlot (target % 64)
  | 5 => s.askTile { px := target % 512, py := target / 512 }
  | _ => s

/-- RAS_RESET_WARM (R431, R432). -/
def execRasResetWarm (s : State) : Out := .next s.askWarm
/-- RAS_RESET_FIELD (R431, R432). -/
def execRasResetField (f : Nat) (s : State) : Out := .next (s.askField f)
/-- RAS_RESET_PLOT (R431, R432). -/
def execRasResetPlot (p : Nat) (s : State) : Out := onUnit (decide (p < Config.plots)) (.next (s.askPlot p))
/-- RAS_RESET_TILE (R431, R432). -/
def execRasResetTile (t : Site) (s : State) : Out := .next (s.askTile t)

/-- PLOT_RESET_RESET (R451). -/
def execPlotResetReset (p : Nat) (s : State) : Out :=
  onUnit (decide (p < Config.plots)) (.next (if s.plotValid p then s.askPlot p else s))

/-! ### A RUN starts (R351, R390, R440) -/

/-- The entry of a tile's active configuration frame (R111, R249). -/
def State.frameEntry (s : State) (t : Site) : Nat :=
  leNat (s.bytes (storeAddr t (64 * s.cfld t (aNiFrame (s.core t).frame) 12 0)) 8) % 2 ^ 19 / 4 * 4

/-- Arguments and start of every usable tile's core (R351): s1 to s4, and execution from the frame's entry. -/
def State.startCore (s : State) (args : List Word) (t : Site) : State :=
  let entry := s.frameEntry t
  s.onCore t (fun c =>
    let c := (List.range 4).foldl (fun (c : Core) i => c.put (i + 1) (args.getD i 0)) c
    ({ c with run := .running, blocked := none, switch := none }).jump (BitVec.ofNat 19 entry))

/-- A RUN's cores start: UPDW is cleared, the twins count their compare points from 0 (R438, R440). -/
def State.startRun (s : State) (p : Nat) (r : RunSt) : State :=
  let s := s.setFld (rRasPlot p) 0 0 0
  let s := (s.usable p).foldl (fun s t => (s.startCore r.args t).onNi t (fun n => { n with digests := [], twinNum := 0 })) s
  let r : RunSt := { r with reports := [] }
  s.onPlot p (fun x => { x with run := some r, draining := false, begun := 0, marks := 0, beatDone := false, sentSlip := false })

/-! ### The end of a reset (R429, R433, R434) -/

/-- A tile in the scope of a FIELD, WARM or TILE reset: DARK outside every valid plot, and in a field that is not LIT (R394). -/
def State.restartTile (s : State) (t : Site) : State :=
  if decide (s.fieldState t.field = 0) && s.rated t && (s.plotOf t).isSome then s.resetTile t else s.darken t

/-- Spill SRAM is lost, but for the facets' buffers (R434). -/
def State.dropSpill (s : State) (here : Site → Bool) : State :=
  { s with mem := s.mem.filter (fun (e : Host.Cell) => decide (e.1 < 0x400000000000) || isFacetSpill (addrSite e.1) || !here (addrSite e.1)) }

/-- Sets that a test hits are dropped, with what their plots show of them. -/
def State.dropSets (s : State) (hit : ShadowSet → Bool) : State :=
  let gone := (s.shadow.filter (fun e => hit e.2)).flatMap (fun e => e.2.mask)
  { s with shadow := s.shadow.filter (fun e => !hit e.2) }.showArmed gone

def State.endFieldReset (s : State) (f : Nat) : State :=
  (((s.tiles.map (fun e => siteOf e.1)).filter (fun t => decide (t.field = f))).foldl State.restartTile s).dropSpill
    (fun t => decide (t.field = f))

/-- A PLOT reset: every usable tile, then its tables and frames from the placement; the fence lifts, and a RUN that is to be replayed
starts again (R433, R440). -/
def State.endPlotReset (s : State) (p : Nat) : State :=
  let again := (s.plot p).fence.bind (fun f => f.replay)
  let s := (s.usable p).foldl State.restartTile s
  let s := match (s.plot p).placed with
    | some pl => if decide (s.placeState p = 3) || decide (s.placeState p = 5) then (s.setTiles pl).onPlot p (fun x => { x with layer := 0 }) else s
    | none => s
  let s := ((s.dropSets (fun x => x.mask.contains p)).liftFence p).onPlot p (fun x => { x with run := none, draining := false })
  match again with
  | some r => (s.bump (rRasPlot p) 15 8 1).startRun p r
  | none => s.sleepPlot p

/-- A WARM reset: every plot is EMPTY, and Topsoil is verified and started again (R431, R434, R435, R460, R491). A fence stays (R429). -/
def State.endWarm (s : State) : State :=
  let s := (s.tiles.map (fun e => siteOf e.1)).foldl State.restartTile s
  let s := s.dropSpill (fun _ => true)
  let s := (List.range 64).foldl (fun s p =>
    let s := (((s.freePlaced p).freeStaging p).setPlace p 0).setFld (rPlotMode p) 7 7 0
    s.setPlot p { PlotSt.reset with fence := (s.plot p).fence, ueRing := (s.plot p).ueRing }) s
  let z : List (Nat × Nat × Nat × Nat) := match s.boot.delivery with
    | some d => d.extents.map (fun e => (64, e.site, e.off, k64))
    | none => []
  let s := { s with zeroing := s.zeroing ++ z, shadow := [], svc := [], rdma := [], frozen := false, aiDue := none }
  let s := { s with boot := { s.boot with delivery := none, tries := 0, watchdog := false } }
  let s := (s.setFld rRasAi 62 62 0).setFld rSecRecov 0 0 0
  let s := ((s.setFld rSecBoot 7 4 6).setFld rTelemStat 31 31 0).onTelem (fun t => { t with
    events := [], traces := [], sums := [], eseq := 0, tseq := 0, dseqE := 0, dseqT := 0 })
  { s with alertN := false }

/-- The plots of a request are FENCED, so that it starts and ends (R432). -/
def State.resetReady (s : State) : Domain → Bool
  | .device => true
  | .warm => true
  | .field f => (s.usersOf f).all (fun p => decide (s.fenceState p = 2))
  | .plot p => decide (s.fenceState p = 2)
  | .tile t => match s.plotOf t with | some p => decide (s.fenceState p = 2) | none => true

def State.endReset (s : State) : Domain → State
  | .device => s.deviceReset
  | .warm => s.endWarm
  | .field f => s.endFieldReset f
  | .plot p => s.endPlotReset p
  | .tile t => s.restartTile t

/-- A request leaves the list. -/
def State.withoutReset (s : State) (l : List Domain) : State :=
  ({ s with resets := l }).setFld rRasResetStat 31 31 (if l.isEmpty then 0 else 1)

/-- RESET_COMPLETE (R432, R433): of the first request whose plots are FENCED. -/
def execResetComplete (s : State) : Out :=
  whenSome "RESET_COMPLETE" (takeFirst s.resetReady s.resets) (fun (d, rest) => .next ((s.withoutReset rest).endReset d))

/-- TILE_RESET_TIMEOUT (R436): a TILE reset that has started does not end, and the tile is retired. -/
def execTileResetTimeout (t : Site) (s : State) : Out :=
  onTile t s (match takeFirst (fun d => decide (d = .tile t)) s.resets with
    | some (d, rest) => when_ "TILE_RESET_TIMEOUT" (s.resetReady d) ((s.withoutReset rest).retireTile t)
    | none => .refused (.notEnabled "TILE_RESET_TIMEOUT"))

/-! ### Zeroing (R435) -/

/-- A range of a column is written with zeros; whole lines lose their poison. -/
def State.zeroRange (s : State) (site off len : Nat) : State :=
  let t := siteOf site
  let lo := loamAddr t off
  let s := { s with mem := s.mem.filter (fun (e : Host.Cell) => !(decide (lo ≤ e.1) && decide (e.1 < lo + len))) }
  let whole := fun l : Nat => decide (off ≤ 64 * l) && decide (64 * l + 64 ≤ off + len)
  s.onTile t (fun x => { x with loam := { x.loam with poison := x.loam.poison.filter (fun l => !whole l) } })

/-- LOAM_ZEROING (R435): what has left plot p. -/
def execLoamZeroing (p : Nat) (s : State) : Out :=
  let l := s.zeroing.filter (fun z => decide (z.1 = p))
  when_ "LOAM_ZEROING" (!l.isEmpty)
    (l.foldl (fun s z => s.zeroRange z.2.1 z.2.2.1 z.2.2.2) { s with zeroing := s.zeroing.filter (fun z => decide (z.1 ≠ p)) })

/-! ### The scan test (R443, R444) -/

/-- A scan of a field begins: it goes to PENUMBRA. -/
def State.beginScan (s : State) (f : Nat) : State :=
  { s.setFld rRasScan 63 63 1 with scan := { field := f, next := f + 1, active := true } }

/-- A field in service that a scan may take. -/
def State.scanFree (s : State) (f : Nat) : Bool :=
  Config.fieldPresent f && !s.repair.retiredFields.contains f && !s.retiringFields.contains f && decide (s.fieldState f = 0) && s.fieldRests f

/-- A write of RAS_SCAN (R444): GO with FORCE fences the plots that use the field; without it, only an eligible field is scanned. -/
def State.writeScan (s : State) (v : Dword) : State :=
  let s := ((s.setFld rRasScan 60 60 (Dword.field v 60 60)).setFld rRasScan 55 48 (Dword.field v 55 48)).setFld rRasScan 31 16
    (Dword.field v 31 16)
  let f := Dword.field v 55 48
  if decide (Dword.field v 61 61 = 0) || decide (s.fld rRasScan 63 63 = 1) || !s.scanFree f then s
  else if Dword.field v 60 60 = 1 then ((s.usersOf f).foldl (fun s p => s.fence p fcField f) s).beginScan f
  else if (s.usersOf f).isEmpty then s.beginScan f
  else s

/-- SCAN_GO (R444). -/
def execScanGo (v : Dword) (s : State) : Out := .next (s.writeScan v)

/-- The field that the periodic scan takes next, in ascending F. -/
def State.nextScan (s : State) : Option Nat :=
  let ok := fun f => s.scanFree f && (s.usersOf f).isEmpty
  (((List.range 64).drop s.scan.next) ++ ((List.range 64).take s.scan.next)).find? ok

/-- SCAN_PERIOD (R444). -/
def execScanPeriod (s : State) : Out :=
  when_ "SCAN_PERIOD" (decide (s.fld rRasScan 31 16 ≠ 0) && decide (s.fld rRasScan 63 63 = 0))
    (match s.nextScan with | some f => s.beginScan f | none => s)

/-- The result of a scan: the tiles and spill sites of the field that failed are retired, or all of it is. -/
def State.judgeScan (s : State) (f : Nat) (tiles spills : List Site) : State × Bool :=
  let ts := tiles.filter (fun t => t.isTile && decide (t.field = f))
  let ss := spills.filter (fun t => t.isSpill && !isFacetSpill t && decide (t.field = f))
  let r := s.fieldRt f
  let n := ts.length + ss.length
  let twice := ss.any (fun t => r.failed.contains t.key)
  let retire := decide (64 < ts.length) || twice || (r.untested && !r.shorts.isEmpty && decide (n ≠ 0))
  let s := ((s.setFld rRasScan 63 62 (if n = 0 then 1 else 0)).setFld rRasScan 47 32 (min 0xFFFF n))
  let s := s.onField f (fun r => { r with untested := false, failed := ss.map Site.key })
  let s := if s.scan.field = f then { s with scan := { s.scan with active := false } } else s
  if retire then (s.retireField f fcField, true) else (ss.foldl State.retireSpill (ts.foldl State.retireTile s), false)

/-- A scan ends: the field returns to LIT unless it is retired. -/
def State.endScan (s : State) (f : Nat) (tiles spills : List Site) : State :=
  let (s, retired) := s.judgeScan f tiles spills
  if retired then s else s.toLit f

/-- SCAN_DONE (R443). -/
def execScanDone (f : Nat) (tiles spills : List Site) (s : State) : Out :=
  onUnit (Config.fieldPresent f) (when_ "SCAN_DONE" (s.scanning f && decide (s.fieldState f = 1) && s.fieldRests f) (s.endScan f tiles spills))

/-! ### The freeze (R445, R446, R449, R460) -/

/-- A plot is FENCED at once, its engines holding their state (R446). -/
def State.fenceHeld (s : State) (p : Nat) : State :=
  let s := s.fencePlot p fcFatal (s.runFault p FenceCall.plain)
  if s.fenceState p = 2 then s
  else match (s.plot p).fence with
    | none => s
    | some f =>
      let f := { f with replay := none }
      let s := (s.setFld (rRasPlot p) 63 62 2).onPlot p (fun x => { x with fence := some f })
      let r := s.faultRecord p f false
      ((s.writeRecord p r).dropWork p).endCommands p f r

/-- A fatal error freezes the device. A further one, or one while an afterimage is held, dumps nothing and is counted. -/
def State.freeze (s : State) (cause : Nat) : State :=
  let lost := s.aiDue.isSome || decide (s.fld rRasAi 63 63 = 1)
  let s := if lost then s.bump rRasAi 55 48 1 else { s with aiDue := some s.cycle }
  if s.frozen then s
  else
    let s := ((s.setFld rRasAi 62 62 1).setFld rRasAi 59 56 cause).alarm 0x000C wholeModule cause
    let s := { s with frozen := true, alertN := true, boot := { s.boot with writing := none } }
    ((List.range 64).filter s.plotValid).foldl State.fenceHeld s |>.fenceQueues

/-- Boot stops (R460). -/
def State.halt (s : State) : State := { s.setFld rSecBoot 7 4 0xF with alertN := true }

/-- FATAL_ERROR (R445, R446): LOCKSTEP, STEWARD_UE or TABLE_UE; before READY the first two stop boot (R460). -/
def execFatalError (cause : Nat) (s : State) : Out :=
  when_ "FATAL_ERROR" (decide (1 ≤ cause) && decide (cause ≤ 3))
    (if decide (cause ≤ 2) && decide (s.stage < 8) then s.halt else s.freeze cause)

/-- AI_TRIGGER (R445). -/
def execAiTrigger (s : State) : Out := .next (s.freeze 5)

/-- WATCHDOG_EXPIRY (R455): after READY, and armed; 1 s after the latest answer. -/
def execWatchdogExpiry (s : State) : Out :=
  when_ "WATCHDOG_EXPIRY" (s.boot.watchdog && !s.frozen) ((s.atEdge (s.boot.answered + second)).freeze 4)

/-- A write of RAS_AI: VALID written 1 releases the extents, TRIGGER raises the fatal cause HOST (R445, R449). -/
def State.releaseAi (s : State) : State := { s.setFld rRasAi 63 63 0 with ai := none }
def State.writeAi (s : State) (v : Dword) : State :=
  let s := if Dword.field v 63 63 = 1 then s.releaseAi else s
  if Dword.field v 61 61 = 1 then s.freeze 5 else s

/-- AI_RELEASE (R449). -/
def execAiRelease (s : State) : Out := .next s.releaseAi

end Sys2Proof.Machine
end

