-- ==== Sys2Proof/Machine/HostRun.lean ====
section
/-!
DEFINITION. RUN with its reports, its layer advance and its drain; ABORT; the timeouts; the reports of dropped sparse groups and the
twins' digests (R214, R252, R348, R351, R356, R369, R372, R373, R438 to R440).
-/
namespace Sys2Proof.Machine

/-! ### RUN (R351, R369) -/

/-- What a start of a RUN waits for: the supply's hold, an armed set, tiles that wake from NAP (R351, R372, R394, R408). -/
def State.runHeld (s : State) (p : Nat) : Bool :=
  decide (s.fld rPwrSupply 1 1 = 1) || s.shutDown || s.heavyArmed p || (s.usable p).any (fun t => !(s.tile t).powered)

/-- A RUN starts: the plot's rate is full again and no replay has been made (R401, R440). -/
def State.beginRun (s : State) (p : Nat) (c : HostCmd) : State :=
  let r : RunSt := {
    seq := c.seq, args := (List.range 4).map (fun i => BitVec.ofNat 32 (c.num (4 * i) 4)), reports := []
    keep := decide (s.fld (rPlotMode p) 5 5 = 1) }
  ((s.setFld (rRasPlot p) 15 8 0).setFld (rPwrPlot p) 23 20 15).startRun p r

/-- RUN (R351). Taken once where it starts at once, and a second time for a start that had to wait. -/
def execRun (q : Nat) (s : State) : Out :=
  hostRow "RUN" opRun q s (fun c =>
    if c.started && s.running q then .refused (.notEnabled "RUN")
    else if decide (s.placeState q ≠ 3) then .next (s.finish q c stState (s.placeState q) [])
    else if s.running q then .next (s.finish q c stState (s.placeState q) [])
    else if s.runHeld q then
      (if c.started then .refused (.notEnabled "RUN") else .next (s.onCommand q c.seq (fun c => { c with started := true })))
    else .next ((s.onCommand q c.seq (fun c => { c with started := true })).beginRun q c))

/-- The plot no longer runs: its phase ends, and it may sleep (R395, R402). -/
def State.finishRun (s : State) (p : Nat) : State :=
  ((s.onPlot p (fun x => { x with run := none, draining := false })).endPhaseFree p).sleepPlot p

/-- The command of the RUN of a plot. -/
def State.runCommand (s : State) (p : Nat) (r : RunSt) : Option HostCmd :=
  (s.hostq p).cmds.find? (fun c => decide (c.seq = r.seq) && decide (c.op = opRun))

/-- The RUN of a plot ends with a STATUS. -/
def State.endRun (s : State) (p status detail : Nat) : State :=
  match (s.plot p).run with
  | none => s
  | some r =>
    let c := s.runCommand p r
    let s := s.finishRun p
    match c with
    | some c => s.finish p c status detail []
    | none => s

def isFrameReport : SvcNote → Bool
  | .frameReport _ => true
  | _ => false

/-- A tile has executed FIN and its report has come. -/
def State.tileFinished (s : State) (r : RunSt) (t : Site) : Bool :=
  r.reports.any (fun e => decide (e.1 = t.key)) && decide ((s.core t).run = .finished) && (s.core t).switch.isNone

def State.allFinished (s : State) (p : Nat) (r : RunSt) : Bool := (s.usable p).all (fun t => s.tileFinished r t)

/-- Some usable tile holds a staged NEXT_FRAME. -/
def State.frameStaged (s : State) (p : Nat) : Bool := (s.usable p).any (fun t => ((s.core t).staged.frame).isSome)

/-- The RUN of a plot completes where every usable tile has finished it. -/
def State.endFinished (s : State) (p : Nat) : State :=
  match (s.plot p).run with
  | some r => if s.allFinished p r && !s.frameStaged p then s.endRun p stOk (s.fld (rRasPlot p) 15 8) else s
  | none => s

/-- A tile's frame report at its plot's RUN; the last one ends it. -/
def State.takeReport (s : State) (t : Site) (next : Option Nat) : State :=
  match s.plotOf t with
  | none => s
  | some p => match (s.plot p).run with
    | none => s
    | some r =>
      let r := { r with reports := mapPut r.reports t.key next }
      let s := s.onPlot p (fun x => { x with run := some r })
      if !(s.plot p).draining && decide (s.fenceState p = 0) then s.endFinished p else s

/-- FRAME_REPORT (R140, R351, R369). -/
def execFrameReport (s : State) : Out :=
  whenSome "FRAME_REPORT" (takeFirst (fun (e : Site × SvcNote) => isFrameReport e.2) s.svc) (fun (e, rest) =>
    match e.2 with
    | .frameReport next => .next ({ s with svc := rest }.takeReport e.1 next)
    | _ => .refused (.notEnabled "FRAME_REPORT"))

/-- LAYER_ADVANCE (R369): the instant comes 2,048 MCLK after the last acknowledgement, at this edge. Where no tile enters a frame at
it, or a host's instant has taken the staged ones, every tile has finished and the RUN completes. -/
def execLayerAdvance (p : Nat) (s : State) : Out :=
  onUnit (decide (p < Config.plots)) (whenSome "LAYER_ADVANCE" (s.plot p).run (fun r =>
    when_ "LAYER_ADVANCE" (decide (s.fenceState p = 0) && !(s.plot p).draining && s.allFinished p r)
      ((if s.frameStaged p then (s.atEdge (s.cycle + 2048)).instantOf p else s).endFinished p)))

/-- PLOT_DRAINED (R252, R356): the drain of an ABORTed RUN ends. -/
def execPlotDrained (p : Nat) (s : State) : Out :=
  onUnit (decide (p < Config.plots)) (when_ "PLOT_DRAINED"
    ((s.plot p).draining && decide (s.fenceState p = 0) && (s.usable p).all (fun t => s.drained t))
    ((s.stopCores p).endRun p stAborted 0))

/-! ### Stopping a command (R356, R373) -/

/-- A request of the device in flight for a queue. -/
def State.inFlight (s : State) (q : Nat) : Bool := s.rdma.any (fun r => decide (r.queue = q))

/-- A command that has started stops, with the STATUS it is then to have. Where it cannot stop at once it stays outstanding. -/
def State.stopCommand (s : State) (q : Nat) (c : HostCmd) (status : Nat) : State :=
  if c.op = opRun then
    (if s.running q then s.onPlot q (fun x => { x with draining := true }) else s.finish q c status 0 [])
  else if c.op = opPlace then
    (match (s.plot q).placing with
      | some pl => if pl.moved then s
          else ((s.onPlot q (fun x => { x with placing := none })).setPlace q 1).finish q c status 0 []
      | none => s.finish q c status 0 [])
  else if c.op = opCommit then
    (match s.setNamed (c.num 0 4) with
      | some (k, x) =>
        if decide (x.state = 3) && decide (x.owner = q) then (if x.sent then s else (s.disarm k x 1 0).finish q c status 0 [])
        else s.finish q c status 0 []
      | none => s.finish q c status 0 [])
  else if (decide (c.op = opLoad) || decide (c.op = opDump)) && s.inFlight q then
    s.onCommand q c.seq (fun c => { c with stop := some status })
  else s.finish q c status 0 []

/-- ABORT (R356): it is latched at this edge. -/
def execAbort (q : Nat) (s : State) : Out :=
  hostRow "ABORT" opAbort q s (fun c =>
    let target := c.num 0 4
    let kind := fun op : Nat => besides op
    match (s.hostq q).done.find? (fun d => decide (d.seq = target)), (s.hostq q).cmds.find? (fun d => decide (d.seq = target)) with
    | some d, _ =>
      if kind (leAt d.frame 5 1) then .next (s.finish q c stBadop 32 []) else .next (s.finish q c stAlready d.status [])
    | none, none => .next (s.finish q c stNotfound target [])
    | none, some d =>
      if kind d.op then .next (s.finish q c stBadop 32 [])
      else
        let s := s.onCommand q c.seq (fun c => { c with started := true })
        if d.started then .next (s.stopCommand q d stAborted) else .next (s.finish q d stAborted 0 []))

/-! ### Timeouts (R348, R373) -/

/-- A command acts on a plot (R350): of the set commands, one whose set holds no device item. -/
def State.plotScope (s : State) (c : HostCmd) : Bool :=
  if decide (c.op = opCheck) || decide (c.op = opCommit) then
    (match s.setNamed (c.num 0 4) with | some (_, x) => !x.device | none => true)
  else if c.op = opStage then (List.range c.npart).all (fun i => decide (c.num (16 * i + 4) 1 < 0x10))
  else decide (c.op = opLoad) || decide (c.op = opPlace) || decide (c.op = opRun) || decide (c.op = opAbort)

/-- A command whose timeout is no longer counted or waits for its own end: a PLACE past its first write, a COMMIT whose instant has
been sent, and what has been told to stop. -/
def State.pastTimeout (s : State) (q : Nat) (c : HostCmd) : Bool :=
  c.stop.isSome || decide (s.fenceState q ≠ 0) ||
    (decide (c.op = opPlace) && (match (s.plot q).placing with | some pl => pl.moved | none => false)) ||
    (decide (c.op = opCommit) && (match s.setNamed (c.num 0 4) with | some (_, x) => x.sent && decide (x.owner = q) | none => false))

/-- The command whose timeout runs: the one that executes, or an ABORT that waits. -/
def State.timed (s : State) (q : Nat) : Option HostCmd :=
  match (s.hostq q).front with
  | some c => if c.started then some c else (s.hostq q).cmds.find? (fun c => decide (c.op = opAbort) && c.started)
  | none => (s.hostq q).cmds.find? (fun c => decide (c.op = opAbort) && c.started)

/-- A plot command that expires fences its plot, and completes with the fence. -/
def State.timeoutFence (s : State) (q : Nat) (c : HostCmd) : State :=
  let s := if c.op = opCommit then
      (match s.setNamed (c.num 0 4) with
        | some (k, x) => if decide (x.state = 3) && decide (x.owner = q) then s.disarm k x 1 0 else s
        | none => s)
    else s
  s.fencePlot q fcTimeout { FenceCall.plain with culprit := some c.seq, status := stTimeout }

/-- COMMAND_TIMEOUT (R348). -/
def execCommandTimeout (q : Nat) (s : State) : Out :=
  onUnit (decide (q < Config.hostQueues)) (whenSome "COMMAND_TIMEOUT" (s.timed q) (fun c =>
    if s.pastTimeout q c then .refused (.notEnabled "COMMAND_TIMEOUT")
    else if s.plotScope c then .next (s.timeoutFence q c)
    else .next (s.stopCommand q c stTimeout)))

/-! ### Reports of dropped groups (R214) -/

/-- The counts of a command under LENIENT at its plot. -/
def State.takeDrops (s : State) (t : Site) (q : Nat) (ticket : Word) (groups vals : Nat) : State :=
  match s.plotOf t with
  | none => s
  | some p =>
    let s := (s.bump (rPlotSpGrp p) 63 0 groups).bump (rPlotSpVal p) 63 0 vals
    let s := s.setReg (rPlotSpLast p) (BitVec.ofNat 64
      (2 ^ 63 + q * 2 ^ 56 + t.py * 2 ^ 47 + t.px * 2 ^ 38 + ticket.toNat))
    s.event 0x0101 (s.source t) (groups + vals * 2 ^ 32)

/-- SPARSE_DROP_REPORT (R214). -/
def execSparseDropReport (s : State) : Out :=
  whenSome "SPARSE_DROP_REPORT" (takeFirst (fun (e : Site × SvcNote) => match e.2 with | .sparse .. => true | _ => false) s.svc)
    (fun (e, rest) => match e.2 with
      | .sparse q ticket groups vals => .next ({ s with svc := rest }.takeDrops e.1 q ticket groups vals)
      | _ => .refused (.notEnabled "SPARSE_DROP_REPORT"))

/-! ### The twins (R439) -/

/-- TWIN_DIGEST (R438 to R440): a digest of the odd twin whose own counterpart the even twin holds. -/
def execTwinDigest (t : Site) (s : State) : Out :=
  onTile t s (
    let own := fun n : Nat => (s.ni t).digests.find? (fun d => decide (d.num = n))
    whenSome "TWIN_DIGEST"
      (s.inKind t 10 (fun g => match g.body with | .twin _ n _ => (own n).isSome | _ => false)) (fun (g, s) =>
      match g.body with
      | .twin _ n v =>
        let same := match own n with | some d => decide (d.value = v) | none => true
        let s := s.onNi t (fun x => { x with digests := x.digests.filter (fun d => decide (d.num ≠ n)) })
        .next (if same then s else s.report t .twinMismatch)
      | _ => .refused (.notEnabled "TWIN_DIGEST")))

end Sys2Proof.Machine
end

