-- ==== Sys2Proof/Machine/Rdma.lean ====
section
/-!
DEFINITION. RoCEv2: the queue-pair contexts, what the host asks of a plot's store and loam, a host SEND, congestion, and the device's
own reads for LOAD_PACKAGE (R341 to R344, R351, R427, R529 to R531).
-/
namespace Sys2Proof.Machine

/-! ### Queue-pair contexts (R529 to R531) -/

/-- The context of a device queue-pair number. -/
def qpOf (qpn : Nat) : Option Nat :=
  if decide (0x100 ≤ qpn) && decide (qpn < 0x100 + Config.qps) then some (qpn - 0x100) else none

def State.qpState (s : State) (n : Nat) : Nat := s.fld (rHostQp n 0) 62 60
def State.qpReady (s : State) (n : Nat) : Bool := decide (s.qpState n = 1)
def State.qpPlot (s : State) (n : Nat) : Nat := s.fld (rHostQp n 0) 59 54

/-- Bytes of a packet's payload. -/
def State.pmtu (s : State) (n : Nat) : Nat := 1024 * 2 ^ s.fld (rHostQp n 0) 53 52

/-- Packets of a message. -/
def State.packets (s : State) (n len : Nat) : Nat := max 1 ((len + s.pmtu n - 1) / s.pmtu n)

/-- The sequence number that the device sends next, and the one that it expects. -/
def State.advanceSent (s : State) (n len : Nat) : State := s.count (rHostQp n 1) 23 0 (s.packets n len)
def State.advanceGot (s : State) (n len : Nat) : State := s.count (rHostQp n 2) 23 0 (s.packets n len)

/-- A request of a queue's command that cannot end: its part fails with RDMA. -/
def State.failRdma (s : State) (r : Rdma) : State :=
  let s := { s with rdma := s.rdma.filter (fun x => decide (x ≠ r)) }
  match (s.hostq r.queue).front with
  | some c => s.endPart r.queue c stRdma []
  | none => s

def State.failContext (s : State) (n : Nat) : State :=
  (s.rdma.filter (fun r => decide (r.qp = n))).foldl State.failRdma s

/-- A write of a context's word (R529). -/
def State.writeQp (s : State) (n w : Nat) (v : Dword) : State :=
  let a := rHostQp n w
  let store := match regRow a with | some r => s.setReg a (regStore r (s.reg a) v) | none => s
  if s.fld (rHostQp n 0) 63 63 = 1 then
    (if decide (w = 0) && decide (Dword.field v 63 63 = 0) then ((s.setFld a 63 63 0).setFld a 62 60 0).failContext n else s)
  else if decide (w = 0) && decide (Dword.field v 63 63 = 1) then
    store.setFld a 62 60 (if s.plotValid (Dword.field v 59 54) && decide (Dword.field v 53 52 ≠ 3) then 1 else 2)
  else store

/-- HOST_QP_W0_WRITE (R529, R530). -/
def execHostQpW0Write (n : Nat) (v : Dword) (s : State) : Out :=
  onUnit (decide (n < Config.qps)) (.next (s.writeQp n 0 v))

/-- QP_RETRY_TIMEOUT (R530): 1 ms without an acknowledgement. -/
def execQpRetryTimeout (n : Nat) (s : State) : Out :=
  onUnit (decide (n < Config.qps)) (whenSome "QP_RETRY_TIMEOUT" (s.rdma.find? (fun r => decide (r.qp = n))) (fun r =>
    if s.qpReady n && decide (r.tries < 7) then
      let again := s.rdma.map (fun x => if x = r then { x with tries := x.tries + 1 } else x)
      .next ({ s with rdma := again }.hostOut r.msg)
    else .next ((if s.qpReady n then s.setFld (rHostQp n 0) 62 60 2 else s).failContext n)))

/-! ### Congestion (R342) -/

/-- CNP_RECEIVE (R342). -/
def execCnpReceive (s : State) : Out := .next { s with cnpRate := s.cnpRate / 2 }

/-- CNP_RATE_RECOVERY (R342). -/
def execCnpRateRecovery (s : State) : Out := .next { s with cnpRate := min (2 ^ 40) (s.cnpRate + 2 ^ 36) }

/-! ### Host requests (R343, R344) -/

/-- A discarded frame is counted. -/
def State.dropFrame (s : State) (port : Nat) : State := s.bump (rHostPortStat port) 63 32 1

/-- Where a host address lands in a context's plot: the site and the window; none for a NAK of remote access error (R343). -/
def State.hostWindow (s : State) (n : Nat) (rkey : Word) (va : Dword) (len : Nat) : Option (Site × Window) :=
  let p := s.qpPlot n
  if decide (rkey.toNat ≠ s.fld (rHostQp n 1) 63 32) || decide (s.fenceState p ≠ 0) then none
  else match s.phys p (Dword.field va 50 42) (Dword.field va 59 51) with
    | none => none
    | some t =>
      if decide (Dword.field va 63 60 = 1) && decide (Dword.field va 41 27 = 0) then
        (if Dword.field va 26 0 + len ≤ 64 * Config.loamLines then some (t, .loam (Dword.field va 26 0)) else none)
      else if decide (Dword.field va 63 60 = 2) && decide (Dword.field va 41 19 = 0) then
        (if Dword.field va 18 0 + len ≤ s.storeEnd t then some (t, .store (Dword.field va 18 0)) else none)
      else none

/-- A port takes a frame (R339, R340, R345): under the MACsec mode only one that a channel protects, of a size and tag that the port is
set for, and needing nothing that is not supported. -/
def State.takes (s : State) (e : Ether) : Bool :=
  (e.secure || decide (s.fld rShadowDev 6 6 = 0)) && e.plain && decide (e.size ≤ s.fld (rHostPortCfg e.port) 18 5) &&
    (match e.vlan with
      | some v => decide (s.fld (rHostPortCfg e.port) 23 23 = 1) && decide (v = s.fld (rHostPortCfg e.port) 35 24)
      | none => decide (s.fld (rHostPortCfg e.port) 23 23 = 0))

/-- A request of the host on a port with a link, for a context that is READY in a device that is; others are discarded (R357,
R530). -/
def roce (name : String) (e : Ether) (qpn : Nat) (s : State) (k : Nat → State) : Out :=
  onUnit (decide (e.port < 2)) (when_ name (s.linkOn e.port) (match qpOf qpn with
    | some n => if s.takes e && s.qpReady n && decide (s.stage = 8) then k n else s.dropFrame e.port
    | none => s.dropFrame e.port))

/-- ROCE_WRITE (R343). -/
def execRoceWrite (e : Ether) (qpn : Nat) (rkey : Word) (va : Dword) (bytes : List Byte) (s : State) : Out :=
  roce "ROCE_WRITE" e qpn s (fun n => match s.hostWindow n rkey va bytes.length with
    | none => s.hostOut (.nak e.port qpn)
    | some (t, w) =>
      let s := s.advanceGot n bytes.length
      let s := match w with
        | .store o => s.writeStore t o bytes (s.cfld t aNiCfg 47 44)
        | .loam o => s.loamPut t o bytes
        | .spill _ => s
      s.hostOut (.ack e.port qpn))

/-- ROCE_READ (R343). Bytes that read uncorrectable are refused, as R78 refuses a remote read. -/
def execRoceRead (e : Ether) (qpn : Nat) (rkey : Word) (va : Dword) (len : Nat) (s : State) : Out :=
  roce "ROCE_READ" e qpn s (fun n => match s.hostWindow n rkey va len with
    | none => s.hostOut (.nak e.port qpn)
    | some (t, w) =>
      let r := match w with
        | .store o => let (bs, s, ue) := s.readStore t o len
                      (if ue then none else some bs, s)
        | .loam o => s.loamBytes t o len
        | .spill _ => (none, s)
      match r with
      | (some bs, s) => (s.advanceGot n len).hostOut (.readData e.port qpn bs)
      | (none, s) => s.hostOut (.nak e.port qpn))

/-- The ring that a host SEND uses: the tile's lowest RING port that no connection has bound (DESIGN CHOICE, notes/assumptions/43.md). -/
def State.hostRing (s : State) (t : Site) : Option Nat :=
  (List.range Config.tilePorts).find? (fun p => decide (s.portKind t p = 2) && ((s.portRt t p).bound).isNone)

/-- Where the host port unit writes its next record. -/
def ringWrite (ms : List MsgRec) (ring : Nat) : Nat :=
  match ms.getLast? with | some m => (m.off + m.size) % ring | none => 0

/-- A message of the host enters the ring (R241 to R243), once it has room; none until then. -/
def State.hostMessage (s : State) (t : Site) (p slot : Nat) (bs : List Byte) : Option State :=
  let ms := (s.portRt t p).msgs
  let ring := s.ringSize t p
  let free := ring - sumOf (fun (m : MsgRec) => m.size) ms
  let w := ringWrite ms ring
  let size := 32 * ((bs.length + 31) / 32)
  let put := fun (s : State) (off : Nat) =>
    let (pad, s) := if bs.length % 32 = 0 then ([], s) else s.freeBytes
    let (v, s) := s.takeFree
    s.takeRecord t p stewardSite (v.toNat % 1024) bs.length slot off false ((bs ++ pad).take size)
  if size ≤ ring - w then (if decide (size ≤ free) && decide (ms.length < 64) then some (put s w) else none)
  else if decide (ring - w + size ≤ free) && decide (ms.length < 63) then
    some (put (s.takeRecord t p stewardSite 0 0 0 w true []) 0)
  else none

/-- ROCE_SEND (R344). A tile without a ring to take the message leaves it unacknowledged. -/
def execRoceSend (e : Ether) (qpn : Nat) (bytes : List Byte) (s : State) : Out :=
  onUnit (decide (e.port < 2)) (
    if !s.linkOn e.port then .refused (.notEnabled "ROCE_SEND")
    else match qpOf qpn with
      | some n =>
        let target := s.phys (s.qpPlot n) (s.fld (rHostQp n 2) 48 40) (s.fld (rHostQp n 2) 57 49)
        let ring := target.bind (fun t => (s.hostRing t).map (fun p => (t, p)))
        if s.takes e && s.qpReady n && decide (s.stage = 8) && decide (bytes.length ≤ 4096) then
          if decide (s.fenceState (s.qpPlot n) ≠ 0) || target.isNone then .next (s.hostOut (.nak e.port qpn))
          else match ring with
            | some (t, p) => whenSome "ROCE_SEND" (s.hostMessage t p (s.fld (rHostQp n 2) 63 58) bytes) (fun s =>
                .next ((s.advanceGot n bytes.length).hostOut (.ack e.port qpn)))
            | none => .next s
        else .next (s.dropFrame e.port)
      | none => .next (s.dropFrame e.port))

/-! ### LOAD_PACKAGE (R351, R277) -/

/-- Free extents of the module for a plot's staging. -/
def State.extentsFree (s : State) (p : Nat) : Nat := sumOf (fun t => (s.freeIn t).length) (s.columns p)

/-- The region that INCOMPLETE misses at a package offset, with this length. -/
def State.missingAt (s : State) (q off len : Nat) : List Region :=
  match (s.plot q).placed with
  | some pl => pl.missing.filter (fun r => decide (r.pkgOff = off) && decide (r.len = len))
  | none => []

/-- The code that keeps a part from being read, or 0. -/
def State.loadBad (s : State) (q off len qpn : Nat) : Nat :=
  if s.placeState q = 5 then (if (s.missingAt q off len).isEmpty then stBadop else if (qpOf qpn).any s.qpReady then 0 else stRdma)
  else match (s.plot q).pkg with
    | none => stState
    | some k => if k.size < off + len then stAddr else if (qpOf qpn).any s.qpReady then 0 else stRdma

/-- Part i of the command: it is read from the host, or fails. -/
def State.loadPart (s : State) (q : Nat) (c : HostCmd) (i : Nat) : State :=
  let b := 16 + 32 * i
  let off := c.num b 8
  let len := c.num (b + 8) 8
  let n := (qpOf (c.num (b + 28) 4)).getD 0
  let bad := s.loadBad q off len (c.num (b + 28) 4)
  if bad ≠ 0 then s.endPart q c bad []
  else
    let m : HostOut :=
      .rdmaRead (c.num (b + 28) 4) (BitVec.ofNat 64 (c.num (b + 16) 8)) (BitVec.ofNat 32 (c.num (b + 24) 4)) len
    let r : Rdma := { queue := q, write := false, off := off, len := len, qp := n, tries := 0, msg := m }
    let s := { s.advanceSent n len with rdma := s.rdma ++ [r] }
    (s.onCommand q c.seq (fun c => { c with started := true })).hostOut m

/-- The staging area of MODE 0 is taken, or the command completes NOSPACE. -/
def State.loadStart (s : State) (q : Nat) (c : HostCmd) : State :=
  match s.takeExtents q ((c.num 0 8 + k64 - 1) / k64) with
  | none => s.finish q c stNospace (s.extentsFree q) []
  | some l => (s.onPlot q (fun x => { x with pkg := some { size := c.num 0 8, extents := l, written := [] } })).loadPart q c 0

/-- LOAD_PACKAGE (R351). MODE 0 frees an earlier package first; what left the plot is zeroed before it is taken (R435). -/
def execLoadPackage (q : Nat) (s : State) : Out :=
  hostRow "LOAD_PACKAGE" opLoad q s (fun c =>
    let st := s.placeState q
    if s.inFlight q then .refused (.notEnabled "LOAD_PACKAGE")
    else if 0 < c.part then .next (s.loadPart q c c.part)
    else if c.num 8 1 = 0 then
      if 1 < st then .next (s.finish q c stState st [])
      else if !c.started && (s.plot q).pkg.isSome then
        .next (((s.freeStaging q).emptyPlot q).onCommand q c.seq (fun c => { c with started := true }))
      else when_ "LOAD_PACKAGE" s.zeroing.isEmpty (s.loadStart q c)
    else if decide (st = 5) || (decide (st ≤ 1) && (s.plot q).pkg.isSome) then .next (s.loadPart q c 0)
    else .next (s.finish q c stState st []))

/-- A missing region's bytes go into its place, and the last one makes the plot PLACED (R277). -/
def State.deliverRegion (s : State) (q : Nat) (pl : Placement) (rs : List Region) (bs : List Byte) : State :=
  let s := rs.foldl (fun s r => s.putRegion pl (fun i roles => s.peersOf pl i roles) r bs) s
  let pl := { pl with missing := pl.missing.filter (fun r => !rs.contains r) }
  if pl.missing.isEmpty then s.endIncomplete q pl else s.onPlot q (fun x => { x with placed := some pl })

/-- The bytes of a part have come. -/
def State.takePart (s : State) (q : Nat) (c : HostCmd) (off : Nat) (bs : List Byte) : State :=
  if s.placeState q = 5 then
    let rs := s.missingAt q off bs.length
    match (s.plot q).placed with
    | none => s.endPart q c stState []
    | some pl =>
      if rs.all (fun r => decide (r.digest = Config.sha3 bs)) then (s.deliverRegion q pl rs bs).endPart q c stOk []
      else s.endPart q c stDigest []
  else match (s.plot q).pkg with
    | none => s.endPart q c stState []
    | some k =>
      let k' := { k with written := k.written ++ [(off, bs.length)] }
      let s := (s.putPkg k off bs).onPlot q (fun x => { x with pkg := some k' })
      let s := if k'.whole && decide (s.placeState q = 0) then s.setPlace q 1 else s
      s.endPart q c stOk []

/-- RDMA_READ_RESPONSE (R351): the whole of a read that a queue's part has asked for. With another number of bytes it stands for the
host's NAK: the transfer has failed (R352; DEDUCED, notes/assumptions/93.md). -/
def execRdmaReadResponse (q : Nat) (bytes : List Byte) (s : State) : Out :=
  onUnit (decide (q < Config.hostQueues)) (
    match s.rdma.find? (fun r => decide (r.queue = q) && !r.write), (s.hostq q).front with
    | some r, some c =>
      if s.qpReady r.qp then
        (if bytes.length = r.len then .next ({ s with rdma := s.rdma.filter (fun x => decide (x ≠ r)) }.takePart q c r.off bytes)
         else .next (s.failRdma r))
      else .refused (.notEnabled "RDMA_READ_RESPONSE")
    | _, _ => .refused (.notEnabled "RDMA_READ_RESPONSE"))

/-- RDMA_WRITE_ACK (R351). -/
def execRdmaWriteAck (q : Nat) (s : State) : Out :=
  onUnit (decide (q < Config.hostQueues)) (
    match s.rdma.find? (fun r => decide (r.queue = q) && r.write), (s.hostq q).front with
    | some r, some c =>
      when_ "RDMA_WRITE_ACK" (s.qpReady r.qp) ({ s with rdma := s.rdma.filter (fun x => decide (x ≠ r)) }.endPart q c stOk [])
    | _, _ => .refused (.notEnabled "RDMA_WRITE_ACK"))

end Sys2Proof.Machine
end

