-- ==== Sys2Proof/Machine/Facet.lean ====
section
/-!
DEFINITION. The optical ports and the facets: frames, credit and replay, link-up and attestation, failed ports, and the relay of
connections to the neighbouring modules (R308 to R317, R321, R322, R336, R423, R427).
-/
namespace Sys2Proof.Machine

/-! ### State codes -/

def fsTraining : Nat := 1
def fsAttest : Nat := 2
def fsUp : Nat := 3
def fsDenied : Nat := 4
def fsFailed : Nat := 5

/-- FACET_STAT.STATE. -/
def State.facetState (s : State) (f : Nat) : Nat := s.fld (rFacetStat f) 63 60
def State.setFacet (s : State) (f n : Nat) : State := s.setFld (rFacetStat f) 63 60 n

/-- The port of a facet over which it attests: its lowest joined lane (R315). -/
def State.attestPort (s : State) (f : Nat) : Option Nat :=
  ((List.range 14).find? (fun l => (s.facet f).joined.getLsbD l)).map (fun l => optPortOf f l)

/-- A port sends and takes frames: it carries traffic, or its facet attests over it. -/
def State.portLive (s : State) (o : Nat) : Bool :=
  s.portUp o || (decide (s.facetState (optFacet o) = fsAttest) && decide (s.attestPort (optFacet o) = some o))

/-- Facets 0 to 3 lead downstream, facets 4 to 7 upstream (R308): whether a port's neighbour is the upstream module. -/
def optUpstream (o : Nat) : Bool := decide (4 ≤ optFacet o)

/-- The port that the cascade unit uses toward a facet, 0 downstream or 4 upstream: the lane up with the fewest hops, ties to the
lower lane. -/
def State.cascPort (s : State) (facet : Nat) : Option Nat :=
  let unit : Site := { px := 142, py := 142 }
  (((List.range 14).map (fun l => optPortOf facet l)).filter (fun o => s.portUp o)).foldl (fun b o => match b with
    | none => some o
    | some c => if unit.hops (optSite o) < unit.hops (optSite c) then some o else some c) none

/-! ### Link grains (R322): DX and DY name the relay entry, SX the plot (DESIGN CHOICE, notes/assumptions/44.md) -/

def linkGrain (kind idx plot seq : Nat) (last : Bool) (body : Payload) : Grain :=
  { rsv := 0, last := last, seq := BitVec.ofNat 5 seq, conn := 0, kind := BitVec.ofNat 4 kind, cls := BitVec.ofNat 3 (kindClass kind)
    sy := 0, sx := BitVec.ofNat 9 plot, dy := BitVec.ofNat 9 (idx / 512), dx := BitVec.ofNat 9 idx, body := body }

def linkIdx (g : Grain) : Nat := g.dx.toNat + 512 * g.dy.toNat

/-- A grain of a tile as it crosses the link, under the relay entry r. -/
def toLink (r : Relay) (g : Grain) : Grain :=
  { g with conn := 0, sy := 0, sx := BitVec.ofNat 9 r.plot, dy := BitVec.ofNat 9 (r.idx / 512), dx := BitVec.ofNat 9 r.idx }

/-- A grain of the link on its way to the tile of the relay entry r. -/
def fromLink (o : Nat) (r : Relay) (g : Grain) : Grain :=
  let u := optSite o
  { g with conn := BitVec.ofNat 10 r.conn, sy := BitVec.ofNat 9 u.py, sx := BitVec.ofNat 9 u.px,
           dy := BitVec.ofNat 9 (siteOf r.site).py, dx := BitVec.ofNat 9 (siteOf r.site).px }

/-- A grain joins the port's input queue of its ordering class (R314). -/
def OptPort.enqueue (x : OptPort) (g : Grain) : OptPort :=
  match g.cls.toNat % 4 with
  | 0 => { x with req := x.req ++ [g] }
  | 1 => { x with rpl := x.rpl ++ [g] }
  | _ => { x with dat := x.dat ++ [g] }

def State.toPort (s : State) (o : Nat) (g : Grain) : State := s.onOpt o (fun x => x.enqueue g)
def State.dropRelay (s : State) (o idx : Nat) : State :=
  s.onOpt o (fun x => { x with relays := x.relays.filter (fun r => decide (r.idx ≠ idx)) })
def State.setRelay (s : State) (o : Nat) (r : Relay) : State :=
  s.onOpt o (fun x => { x with relays := x.relays.map (fun e => if e.idx = r.idx then r else e) })

/-- The ERR that a refused link grain gets over the link. -/
def linkErrTo (g : Grain) (code : Nat) : Grain :=
  linkGrain 13 (linkIdx g) g.sx.toNat 0 true (.err g.seq.toNat 0 g.kind.toNat code)

/-! ### Toward the link -/

/-- Kinds that the OPT unit relays. -/
def relayKind (k : Nat) : Bool :=
  decide (k ≤ 1) || (decide (7 ≤ k) && decide (k ≤ 13))

/-- A grain that has reached the OPT site from a tile and is to be relayed; OPEN has its own row. -/
def isOutgoing (t : Site) (g : Grain) : Bool := relayKind g.kind.toNat && !isPrism g && relayed t g

/-- The number of the OPEN that the unit proposes to a tile: the lowest at or above n that no relay of this tile uses. -/
def OptPort.freeConn (x : OptPort) (site n : Nat) : Option Nat :=
  lowestFree (fun c => x.relays.any (fun r => decide (r.site = site) && decide (r.conn = c))) n

/-- The OPEN that the unit sends to a tile for an incoming connection. Port and target stand in the entry's request. -/
def State.openTile (s : State) (o : Nat) (r : Relay) (port vx vy : Nat) : State :=
  s.niSend (optSite o) (mkGrain (optSite o) (siteOf r.site) 6 r.conn 0 true (.openReq port vx vy r.idx))

/-- The tile's answer to an OPEN of the unit. A renumbered OPEN is proposed again, at most 8 times (R223). -/
def State.relayAnswer (s : State) (o idx : Nat) (ans : OpenAnswer) : State :=
  match (s.opt o).relays.find? (fun r => decide (r.idx = idx) && !r.mine) with
  | none => s
  | some r =>
    let answer := fun (s : State) (a : OpenAnswer) => s.toPort o (linkGrain 7 r.idx r.plot 0 true (.openR r.idx a))
    match ans with
    | .accept .. => answer (s.setRelay o { r with opened := true }) ans
    | .refuse _ => answer (s.dropRelay o idx) ans
    | .renumber c =>
      match (s.opt o).freeConn r.site c with
      | some c =>
        if 8 ≤ r.tries then answer (s.dropRelay o idx) (.refuse 3)
        else
          let r := { r with conn := c, tries := r.tries + 1 }
          (s.setRelay o r).openTile o r (r.tag / 2 ^ 20) (r.tag % 1024) (r.tag / 1024 % 1024)
      | none => answer (s.dropRelay o idx) (.refuse 3)

/-- One grain of a tile is relayed to the link (R322). A CLOSE frees the entry; a stream or message grain of no connection is
answered with ADDR (R226). -/
def State.relayOut (s : State) (o : Nat) (g : Grain) : State :=
  let src := (grainSrc g).key
  let k := g.kind.toNat
  match g.body with
  | .openR tag ans => s.relayAnswer o tag ans
  | .err seq conn kind code =>
    match (s.opt o).relays.find? (fun r => decide (r.site = src) && decide (r.conn = conn)) with
    | none => s
    | some r =>
      let s := s.toPort o (linkGrain 13 r.idx r.plot 0 true (.err seq 0 kind code))
      if kind = 6 then s.dropRelay o r.idx else s
  | _ =>
    match (s.opt o).relays.find? (fun r => decide (r.site = src) && decide (r.conn = g.conn.toNat) && r.opened) with
    | none => if k ≤ 1 then s.returnErr (optSite o) g errAddr else s
    | some r =>
      let s := s.toPort o (toLink r g)
      if k = 8 then s.dropRelay o r.idx else s

/-- What has reached the OPT site from tiles is relayed, in order. -/
def State.relayAll (s : State) (o : Nat) : State :=
  let t := optSite o
  let gs := (s.ni t).inbox.filter (isOutgoing t)
  let s := s.onNi t (fun n => { n with inbox := n.inbox.filter (fun g => !isOutgoing t g) })
  gs.foldl (fun s g => s.relayOut o g) s

/-! ### From the link -/

/-- What becomes of a grain in the receive buffer: an OPEN waits for its row; a stream or message grain of a draining plot is held
(R252); a fenced plot's is answered with FENCED (R427). -/
def State.relayIn (s : State) (o : Nat) (g : Grain) : Option State :=
  let k := g.kind.toNat
  if k = 6 then none
  else match (s.opt o).relays.find? (fun r => decide (r.idx = linkIdx g)) with
    | none => some (if k ≤ 1 then s.toPort o (linkErrTo g errAddr) else s)
    | some r =>
      let u := optSite o
      let send := fun (s : State) (g : Grain) => s.niSend u g
      if decide (k ≤ 1) && (s.plot r.plot).draining then none
      else if decide (s.fenceState r.plot ≠ 0) && fenceAnswers k then
        let s := s.toPort o (linkErrTo g errFenced)
        some (if k = 8 then s.dropRelay o r.idx else s)
      else match g.body with
        | .openR _ ans =>
          if !r.mine then some s
          else
            let s := send s (mkGrain u (siteOf r.site) 7 r.conn 0 true (.openR r.tag ans))
            (match ans with
            | .accept .. => some (s.setRelay o { r with opened := true })
            | _ => some (s.dropRelay o r.idx))
        | .err seq _ kind code =>
          let s := send s (mkGrain u (siteOf r.site) 13 0 0 true (.err seq r.conn kind code))
          some (if kind = 6 then s.dropRelay o r.idx else s)
        | _ =>
          let s := send s (fromLink o r g)
          some (if k = 8 then s.dropRelay o r.idx else s)

/-- One entry of the receive buffer: the grains that stay. -/
def State.drainEntry (s : State) (o : Nat) : List Grain → State × List Grain
  | [] => (s, [])
  | g :: gs =>
    match s.relayIn o g with
    | some s => s.drainEntry o gs
    | none =>
      let (s, l) := s.drainEntry o gs
      (s, g :: l)

/-- The receive buffer gives up what can leave; an entry without grains is free again (R312). -/
def State.drainBuf (s : State) (o : Nat) : List (List Grain) → State
  | [] => s
  | e :: es =>
    let (s, l) := s.drainEntry o e
    let s := if l.isEmpty then s.onOpt o (fun x => { x with freed := x.freed + 1 })
      else s.onOpt o (fun x => { x with rxbuf := x.rxbuf ++ [l] })
    s.drainBuf o es

def State.drainRx (s : State) (o : Nat) : State :=
  let es := (s.opt o).rxbuf
  (s.onOpt o (fun x => { x with rxbuf := [] })).drainBuf o es

/-! ### Opening across modules (R321, R322) -/

/-- Entry numbers of a table of 4,096: the side that opens through facets 0 to 3 takes even ones, the other side odd ones. -/
def OptPort.freeEntry (x : OptPort) (o : Nat) : Option Nat :=
  if 4096 ≤ x.relays.length then none
  else ((List.range 2048).map (fun i => 2 * i + (if optUpstream o then 1 else 0))).find? (fun i => x.relays.all (fun r => decide (r.idx ≠ i)))

/-- The target of an incoming OPEN: the tile of the plot of the same number. -/
def State.openHere (s : State) (o : Nat) (g : Grain) (port vx vy : Nat) : State :=
  let idx := linkIdx g
  let p := g.sx.toNat
  let refuse := fun (s : State) (r : Nat) => s.toPort o (linkGrain 7 idx p 0 true (.openR idx (.refuse r)))
  if s.fenceState p ≠ 0 then s.toPort o (linkErrTo g errFenced)
  else match s.phys p vx vy with
    | none => refuse s 4
    | some t =>
      let x := s.opt o
      if 4096 ≤ x.relays.length then refuse s 5
      else match x.freeConn t.key 1 with
        | none => refuse s 3
        | some c =>
          let r : Relay := { idx := idx, site := t.key, conn := c, plot := p, tag := port * 2 ^ 20 + vy * 1024 + vx, tries := 1,
                             opened := false, mine := false }
          (s.onOpt o (fun x => { x with relays := x.relays.filter (fun e => decide (e.idx ≠ idx)) ++ [r] })).openTile o r port vx vy

/-- The OPEN of a tile of this module goes over the link, or is refused with NOROUTE. -/
def State.openThere (s : State) (o : Nat) (g : Grain) (port vx vy tag : Nat) : State :=
  let t := optSite o
  let src := grainSrc g
  let refuse := s.niSend t (mkGrain t src 7 g.conn.toNat 0 true (.openR tag (.refuse 5)))
  if !s.portUp o then refuse
  else match (s.opt o).freeEntry o with
    | none => refuse
    | some i =>
      let p := (s.plotOf src).getD 0
      let r : Relay := { idx := i, site := src.key, conn := g.conn.toNat, plot := p, tag := tag, tries := 1, opened := false, mine := true }
      let stale := fun e : Relay => decide (e.site = r.site) && decide (e.conn = r.conn)
      let s := s.onOpt o (fun x => { x with relays := x.relays.filter (fun e => !stale e) ++ [r] })
      s.toPort o (linkGrain 6 i p 0 true (.openReq port vx vy i))

/-- The first OPEN in the receive buffer, and the buffer without it. -/
def takeOpen : List (List Grain) → Option (Grain × List (List Grain))
  | [] => none
  | e :: es =>
    match takeFirst (fun g : Grain => decide (g.kind.toNat = 6)) e with
    | some (g, e') => some (g, e' :: es)
    | none => (takeOpen es).map (fun x => (x.1, e :: x.2))

/-- OPT_RELAY_OPEN (R322): of a tile of this module, or of the neighbouring one. -/
def execOptRelayOpen (port : Nat) (incoming : Bool) (s : State) : Out :=
  onUnit (decide (port < Config.optPorts)) (
    if s.frozen then .refused .frozen
    else if incoming then
      whenSome "OPT_RELAY_OPEN" (takeOpen (s.opt port).rxbuf) (fun (g, es) =>
        let s := s.onOpt port (fun x => { x with rxbuf := es })
        match g.body with
        | .openReq p vx vy _ => .next ((s.openHere port g (p % 64) vx vy).drainRx port)
        | _ => .next (s.drainRx port))
    else
      whenSome "OPT_RELAY_OPEN" (s.inKind (optSite port) 6 anyGrain) (fun (g, s) =>
        match g.body with
        | .openReq p vx vy tag => .next (s.openThere port g p vx vy tag)
        | _ => .next s))

/-! ### Sending frames (R310 to R314) -/

def OptPort.queueOf (x : OptPort) : VC → List Grain
  | .req => x.req | .rpl => x.rpl | _ => x.dat
def OptPort.dropHead (x : OptPort) : VC → OptPort
  | .req => { x with req := x.req.drop 1 } | .rpl => { x with rpl := x.rpl.drop 1 } | _ => { x with dat := x.dat.drop 1 }

/-- At most n grains, from the three queues in rotating order. -/
def OptPort.takeSlots : Nat → OptPort → OptPort × List Grain
  | 0, x => (x, [])
  | n + 1, x =>
    match [0, 1, 2].find? (fun k => !(x.queueOf (turnVC (x.turn + k))).isEmpty) with
    | none => (x, [])
    | some k =>
      let v := turnVC (x.turn + k)
      match x.queueOf v with
      | [] => (x, [])
      | g :: _ =>
        let (y, gs) := ({ x.dropHead v with turn := (x.turn + k + 1) % 3 }).takeSlots n
        (y, g :: gs)

/-- A frame that takes a number: the sender keeps its last 256 and uses one entry of credit. -/
def OptPort.sendNew (x : OptPort) (f : FacetFrame) (paid : Bool) : OptPort :=
  { x with line := some f, replay := (x.replay ++ [f]).drop (x.replay.length - 255), txSeq := (x.txSeq + 1) % 1024
           credit := if paid then x.credit - 1 else x.credit }

/-- The frame of a slot: one that is to be sent again, waiting control grains, waiting traffic, or IDLE. While frozen or shut down a
facet sends IDLE alone (R410, R446). Control grains need credit once it is armed (R312, R315). -/
def OptPort.slot (x : OptPort) (idleOnly up : Bool) : OptPort :=
  let cret := min 255 x.freed
  let idle : FacetFrame := { ftype := .idle, fseq := x.txSeq, cret := cret, slots := [], ctrl := [] }
  let sendIdle := { x with line := some idle, freed := x.freed - cret }
  if idleOnly then sendIdle
  else match x.resend with
    | f :: rest => { x with line := some f, resend := rest }
    | [] =>
      if decide (x.credit = 0) && up then sendIdle
      else if !x.ctrl.isEmpty then
        let f : FacetFrame := { ftype := .ctrl, fseq := x.txSeq, cret := cret, slots := [], ctrl := x.ctrl.take 16 }
        ({ x with ctrl := x.ctrl.drop 16, freed := x.freed - cret }).sendNew f up
      else
        let (y, gs) := x.takeSlots 16
        if gs.isEmpty || !up then sendIdle
        else
          let f : FacetFrame := { ftype := .data, fseq := x.txSeq, cret := cret, slots := gs, ctrl := [] }
          ({ y with freed := x.freed - cret }).sendNew f true

/-- The cascade unit's grains go to the port it uses in their direction. -/
def State.cascToPort (s : State) (o : Nat) : State :=
  let s := if s.cascPort 0 = some o then
      { s.onOpt o (fun x => { x with ctrl := x.ctrl ++ s.casc.down }) with casc := { s.casc with down := [] } }
    else s
  if s.cascPort 4 = some o then
    { s.onOpt o (fun x => { x with ctrl := x.ctrl ++ s.casc.up }) with casc := { s.casc with up := [] } }
  else s

/-- FACET_FRAME_SEND (R310, R312, R314). -/
def execFacetFrameSend (port : Nat) (s : State) : Out :=
  onUnit (decide (port < Config.optPorts)) (when_ "FACET_FRAME_SEND" (s.portLive port) (
    let idleOnly := s.frozen || s.shutDown
    let s := if idleOnly then s else ((s.relayAll port).drainRx port).cascToPort port
    s.onOpt port (fun x => x.slot idleOnly (s.portUp port))))

/-! ### Taking frames (R311) -/

/-- A control grain for the one link it travels, or for the cascade unit; a reserved CTYPE is discarded and counted (R324). -/
def State.takeCtrl (s : State) (o : Nat) (g : CtrlGrain) : State :=
  match g.body with
  | .nak _ => s.onOpt o (fun x => { x with ctrlIn := x.ctrlIn ++ [g] })
  | .attest .. => s.onOpt o (fun x => { x with ctrlIn := x.ctrlIn ++ [g] })
  | .reserved _ => s.bump (rFacetErr (optFacet o)) 63 48 1
  | _ => { s with casc := { s.casc with inbox := s.casc.inbox ++ [(optUpstream o, g)] } }

/-- POS of this module. -/
def State.myPos (s : State) : Nat := s.fld rFacetCasc 47 40

/-- A frame that cannot be corrected is discarded, with a NAK for the first frame missing. -/
def State.badFrame (s : State) (o : Nat) (f : FacetFrame) : State :=
  let x := s.opt o
  let again := decide (f.fseq = x.rxSeq)
  let g : CtrlGrain := { pos := s.myPos, beat := 0, body := .nak x.rxSeq }
  let s := s.bump (rFacetErr (optFacet o)) 63 48 1
  if x.discarding && !again then s
  else s.onOpt o (fun x => { x with discarding := true, fails := if again then x.fails + 1 else x.fails, ctrl := x.ctrl ++ [g] })

/-- A good frame. While the receiver discards, only the frame it waits for ends that. -/
def State.goodFrame (s : State) (o : Nat) (f : FacetFrame) : State :=
  if f.fseq ≠ (s.opt o).rxSeq then s
  else
    let s := s.onOpt o (fun x => { x with discarding := false, fails := 0, credit := min 230 (x.credit + f.cret) })
    match f.ftype with
    | .data => (s.onOpt o (fun x => { x with rxSeq := (x.rxSeq + 1) % 1024, rxbuf := x.rxbuf ++ [f.slots] })).drainRx o
    | .ctrl =>
      let s := s.onOpt o (fun x => { x with rxSeq := (x.rxSeq + 1) % 1024, freed := x.freed + 1 })
      f.ctrl.foldl (fun s g => s.takeCtrl o g) s
    | _ => s

/-- FACET_FRAME_RECEIVE (R311, R312, R324). -/
def execFacetFrameReceive (port : Nat) (frame : FacetFrame) (symErrs : Option Nat) (s : State) : Out :=
  onUnit (decide (port < Config.optPorts)) (
    if s.frozen then .refused .frozen
    else when_ "FACET_FRAME_RECEIVE" (s.portLive port) (
      match symErrs with
      | none => s.badFrame port frame
      | some n =>
        if decide (15 < n) || decide (frame.ftype = .reserved) then s.badFrame port frame
        else (s.bump (rFacetErr (optFacet port)) 31 0 n).goodFrame port frame))

/-- The first control grain of this value that a port has taken. -/
def State.portCtrl (s : State) (o : Nat) (g : CtrlGrain) : Option State :=
  (takeFirst (fun x : CtrlGrain => decide (x = g)) (s.opt o).ctrlIn).map (fun e => s.onOpt o (fun x => { x with ctrlIn := e.2 }))

/-- NAK (R311): the sender sends again from the named frame onward. -/
def execNak (port : Nat) (g : CtrlGrain) (s : State) : Out :=
  onUnit (decide (port < Config.optPorts)) (
    if s.frozen then .refused .frozen
    else match g.body with
      | .nak fseq => whenSome "NAK" (s.portCtrl port g) (fun s =>
          let e := rFacetErr (optFacet port)
          .next (((s.bump e 47 32 1).bump e 63 48 1).onOpt port (fun x => { x with
            resend := x.replay.dropWhile (fun f => decide (f.fseq ≠ fseq)) })))
      | _ => .refused (.notEnabled "NAK"))

/-! ### Link-up (R315, R316) -/

/-- Lanes of LANEEN. -/
def State.laneEn (s : State) (f : Nat) : BitVec 14 := BitVec.ofNat 14 (s.fld (rFacetCfg f) 14 1)

/-- Every port of a facet starts afresh. -/
def State.freshPorts (s : State) (f : Nat) : State :=
  (List.range 14).foldl (fun s l => s.onOpt (optPortOf f l) (fun _ => OptPort.reset)) s

/-- FACET_TRAINING_DONE (R315): lanes that name the majority peer join. With none the facet has failed; otherwise it attests, and its
nonce and its report are on their way. -/
def execFacetTrainingDone (f : Nat) (joined miswired : BitVec 14) (peerId peerFacet : Nat) (s : State) : Out :=
  onUnit (decide (f < 8)) (when_ "FACET_TRAINING_DONE" (decide (s.facetState f = fsTraining)) (
    let on := joined &&& s.laneEn f
    let st := rFacetStat f
    let s := s.setFld st 33 20 (miswired &&& s.laneEn f &&& ~~~ on).toNat
    if on = 0 then s.setFacet f fsFailed
    else
      let nonce : List Byte := (List.range 4).flatMap (fun i => leBytes 8 (Config.free (s.freeCtr + i)).toNat)
      let s := { s with freeCtr := s.freeCtr + 4 }
      let s := ((s.freshPorts f).setFld st 59 52 peerId).setFld st 51 48 peerFacet
      let s := (s.onFacet f (fun _ => { joined := on, nonce := nonce, segs := [] })).setFacet f fsAttest
      let msg := takeAt nonce 0 56 ++ takeAt s.boot.report 0 (499 * 28)
      let gs : List CtrlGrain := (List.range 501).map (fun i => { pos := s.myPos, beat := 0, body := .attest i (takeAt msg (28 * i) 28) })
      match s.attestPort f with
      | some o => s.onOpt o (fun x => { x with ctrl := x.ctrl ++ gs })
      | none => s))

/-- The peer's message: its nonce, its report and its signature (R316). Segments 0 and 1 hold the nonce, 2 to 500 the report, 501 to
666 the signature (DESIGN CHOICE, notes/assumptions/46.md). -/
def FacetRt.bytes (x : FacetRt) (first n len : Nat) : List Byte :=
  takeAt ((List.range n).flatMap (fun i => takeAt (((x.segs.find? (fun e => decide (e.1 = first + i))).map (fun e => e.2)).getD []) 0 28)) 0 len
def FacetRt.has (x : FacetRt) (first n : Nat) : Bool :=
  (List.range n).all (fun i => x.segs.any (fun e => decide (e.1 = first + i)))

/-- What both ends sign: "VZFC", the nonces by rising CASC_ID, the CASC_IDs, the facets, the joined lanes. -/
def State.facetMessage (s : State) (f : Nat) : List Byte :=
  let x := s.facet f
  let peer := x.bytes 0 2 32
  let me := s.fld rFacetCasc 31 24
  let it := s.fld (rFacetStat f) 59 52
  let itf := s.fld (rFacetStat f) 51 48
  let ids := if me ≤ it then leBytes 1 me ++ leBytes 1 it ++ leBytes 1 f ++ leBytes 1 itf
    else leBytes 1 it ++ leBytes 1 me ++ leBytes 1 itf ++ leBytes 1 f
  let all := ([0x56, 0x5A, 0x46, 0x43] : List Byte) ++ (if me ≤ it then x.nonce ++ peer else peer ++ x.nonce) ++ ids ++ leBytes 2 x.joined.toNat
  leBytes 64 (Config.sha3 all).toNat

def State.service (s : State) : Bool := decide (s.fld rSecBoot 3 3 = 1)
def State.noIdent (s : State) : Bool := decide (s.fld rSecBoot 2 2 = 1)

/-- ATTEST (R316): a segment of the peer's message. With its nonce whole, the module's own signature goes out. -/
def execAttest (f : Nat) (g : CtrlGrain) (s : State) : Out :=
  onUnit (decide (f < 8)) (
    if s.frozen then .refused .frozen
    else match g.body, s.attestPort f with
      | .attest i bytes, some o =>
        if s.facetState f ≠ fsAttest then .refused (.notEnabled "ATTEST")
        else whenSome "ATTEST" (s.portCtrl o g) (fun s =>
          let before := (s.facet f).has 0 2
          let s := s.onFacet f (fun x => { x with segs := x.segs.filter (fun e => decide (e.1 ≠ i)) ++ [(i, bytes)] })
          if !before && (s.facet f).has 0 2 && !s.noIdent then
            let sig := Config.mldsaSign s.service (s.facetMessage f)
            let gs : List CtrlGrain := (List.range 166).map (fun i =>
              { pos := s.myPos, beat := 0, body := .attest (501 + i) (takeAt sig (28 * i) 28) })
            .next (s.onOpt o (fun x => { x with ctrl := x.ctrl ++ gs }))
          else .next s)
      | _, _ => .refused (.notEnabled "ATTEST"))

/-- The peer's report: its certificate, the identity key that the certificate names, and the report's signature (R463, R473). -/
def reportGood (r : List Byte) : Bool :=
  let cert := takeAt r 0x11C0 4800
  let key := takeAt r 0x180 2592
  let hash := fun bs : List Byte => leBytes 64 (Config.sha3 bs).toNat
  decide (leAt cert 20 1 < 4) && Config.mldsaVerify (Config.factoryKey (leAt cert 20 1)) (hash (takeAt cert 0 160)) (takeAt cert 160 Config.sigBytes) &&
    decide (takeAt cert 32 64 = hash key) &&
    Config.mldsaVerify key (hash (takeAt r 0 0x2480)) (takeAt r 0x2480 Config.sigBytes)

/-- A key's digest stands in the cascade roster block in force (R471). -/
def State.inRoster (s : State) (key : List Byte) : Bool :=
  let body := s.boot.roster.drop 8192
  let digest := leBytes 64 (Config.sha3 key).toNat
  (List.range (leAt body 0 2)).any (fun i => decide (takeAt body (8 + 64 * i) 64 = digest))

/-- The step of R316 at which this end's check of the peer fails. Without an identity the module cannot sign (R462). -/
def State.attestStep (s : State) (f : Nat) : Option Nat :=
  let x := s.facet f
  let r := x.bytes 2 499 13971
  let key := takeAt r 0x180 2592
  if s.noIdent then some 3
  else if !(x.has 0 667 && reportGood r && Config.mldsaVerify key (s.facetMessage f) (x.bytes 501 166 Config.sigBytes)) then some 4
  else if decide (s.fld (rFacetCfg f) 15 15 = 1) && !s.inRoster key then some 5
  else none

/-- FACET_ATTEST_DONE (R312, R315, R316). `failStep` is the step at which the peer's check failed; `rtt` gives 2Λ per lane. -/
def execFacetAttestDone (f : Nat) (failStep : Option Nat) (rtt : List Nat) (s : State) : Out :=
  onUnit (decide (f < 8)) (when_ "FACET_ATTEST_DONE"
    (decide (s.facetState f = fsAttest) && (failStep.isSome || s.noIdent || (s.facet f).has 0 667)) (
    match (s.attestStep f).orElse (fun _ => failStep) with
    | some k => (s.setFacet f fsDenied).alarm 0x0009 wholeModule (f + k * 2 ^ 32)
    | none =>
      let lanes := (List.range 14).filter (fun l => (s.facet f).joined.getLsbD l && decide (rtt.getD l 0 ≤ 10220))
      let up := lanes.foldl (fun (n : Nat) l => n + 2 ^ l) 0
      let s := s.onFacet f (fun x => { x with segs := [], joined := BitVec.ofNat 14 up })
      if lanes.isEmpty then s.setFacet f fsFailed
      else
        let s := lanes.foldl (fun s l => s.onOpt (optPortOf f l) (fun x => { x with credit := 230 })) s
        let st := rFacetStat f
        ((s.setFld st 47 34 up).setFld st 19 0 (lanes.foldl (fun (n : Nat) l => max n (rtt.getD l 0)) 0)).setFacet f fsUp))

/-! ### Failed ports (R317, R336, R423) -/

/-- Grains that the port has and the far end has not made room for: those in its queues, and the frames whose entries are not back. -/
def OptPort.unsent (x : OptPort) : List Grain :=
  (x.replay.drop (x.replay.length - (230 - x.credit))).flatMap (fun f => f.slots) ++ x.req ++ x.rpl ++ x.dat

/-- A direction without an UP facet breaks the ring of a member (R336). -/
def State.checkRing (s : State) : State :=
  let dead := fun fs : List Nat => fs.all (fun f => decide (s.facetState f ≠ fsUp))
  if (decide (s.fld rFacetCasc 63 60 = 1) || decide (s.fld rFacetCasc 63 60 = 2)) && (dead [0, 1, 2, 3] || dead [4, 5, 6, 7]) then
    let s := s.setFld rFacetCasc 63 60 3
    s.alarm 0x000A wholeModule (s.reg rFacetCasc).toNat
  else s

/-- A port drops out of LANEUP: what it had not passed on is answered with LINKFAIL, an OPEN in progress with NOROUTE, and the plots
that held a connection through it are fenced with cause LINK. -/
def State.failPort (s : State) (o : Nat) : State :=
  let f := optFacet o
  let st := rFacetStat f
  let x := s.opt o
  let t := optSite o
  let lanes : BitVec 14 := BitVec.ofNat 14 (s.fld st 47 34) &&& ~~~ (BitVec.ofNat 14 (2 ^ optLane o))
  let s := (s.setFld st 47 34 lanes.toNat).onOpt o (fun _ => OptPort.reset)
  let s := x.unsent.foldl (fun s g =>
    match x.relays.find? (fun r => decide (r.idx = linkIdx g) && r.opened) with
    | some r => if g.kind.toNat = 13 then s
      else s.niSend t (mkGrain t (siteOf r.site) 13 0 0 true (.err g.seq.toNat r.conn g.kind.toNat errLinkfail))
    | none => s) s
  let s := (x.relays.filter (fun r => r.mine && !r.opened)).foldl (fun s r =>
    s.niSend t (mkGrain t (siteOf r.site) 7 r.conn 0 true (.openR r.tag (.refuse 5)))) s
  let s := (s.alarm 0x0001 (s.source t) (optLane o))
  let plots := (List.range 64).filter (fun p => x.relays.any (fun r => decide (r.plot = p) && r.opened))
  let s := plots.foldl (fun s p => s.fencePlot p fcLink (s.runFault p FenceCall.plain)) s
  let s := if lanes = 0 then s.setFacet f fsFailed else s
  s.checkRing

/-- FACET_PORT_FAIL (R311, R317). -/
def execFacetPortFail (port : Nat) (s : State) : Out :=
  onUnit (decide (port < Config.optPorts)) (
    if s.frozen then .refused .frozen else when_ "FACET_PORT_FAIL" (s.portUp port) (s.failPort port))

/-! ### FACET_CFG (R315, R338) -/

/-- A write of FACET_CFG: EN from 0 to 1 starts link-up, EN = 0 takes the facet down. -/
def State.writeFacetCfg (s : State) (f : Nat) (v : Dword) : State :=
  let was := s.fld (rFacetCfg f) 0 0
  let s := s.setReg (rFacetCfg f) (v &&& 0xFFFF)
  let now := s.fld (rFacetCfg f) 0 0
  if decide (was = 0) && decide (now = 1) then
    let s := ((s.setFld (rFacetStat f) 47 34 0).setFld (rFacetStat f) 33 20 0).onFacet f (fun _ => FacetRt.reset)
    (s.freshPorts f).setFacet f fsTraining
  else if decide (was = 1) && decide (now = 0) then
    let ports := ((List.range 14).map (fun l => optPortOf f l)).filter (fun o => s.portUp o)
    let s := ports.foldl (fun s o => s.failPort o) s
    ((s.onFacet f (fun _ => FacetRt.reset)).freshPorts f).setFacet f 0
  else s

/-- FACET_CFG_WRITE (R315). -/
def execFacetCfgWrite (f : Nat) (v : Dword) (s : State) : Out := onUnit (decide (f < 8)) (.next (s.writeFacetCfg f v))

end Sys2Proof.Machine
end

