-- ==== Sys2Proof/Machine/Casc.lean ====
section
/-!
DEFINITION. The cascade unit: forming a ring, beats, slips, cascade barriers, commit across the cascade, and the loss of the ring
(R318 to R320, R324 to R337, R374, R375).
-/
namespace Sys2Proof.Machine

/-! ### FACET_CASC and FACET_RING -/

def State.cascUp (s : State) : Bool := decide (s.cascState = 2) || decide (s.cascState = 3)
def State.isLead (s : State) : Bool := decide (s.fld rFacetCasc 1 0 = 1)
def State.isMember (s : State) : Bool := decide (s.fld rFacetCasc 1 0 ≠ 0)
def State.myId (s : State) : Nat := s.fld rFacetCasc 31 24
/-- C, the members of the ring. -/
def State.members (s : State) : Nat := s.fld rFacetCasc 39 32 + 1
def State.beatNow (s : State) : Nat := s.fld rFacetBeatstat 63 32
def State.onCasc (s : State) (f : Casc → Casc) : State := { s with casc := f s.casc }

def State.ringAlarm (s : State) : State := s.alarm 0x000A wholeModule (s.reg rFacetCasc).toNat

/-- Plots that hold sequence slots are fenced with cause RING. -/
def State.fenceRing (s : State) : State :=
  ((List.range 64).filter (fun p => s.holdsSlots p)).foldl (fun s p => s.fence p fcRing 0xFFFF) s

/-- RRT and the slip window D (R333). MCLK is 1.5 GHz, and a GCLK cycle is 80 ns. -/
def State.setRing (s : State) (rrt : Nat) : State :=
  let period := 80 * max 1 (s.fld rFacetBeat 48 32)
  (s.setFld rFacetRing 63 32 (min (2 ^ 32 - 1) rrt)).setFld rFacetRing 31 24 (min 255 ((rrt + period - 1) / period + 1))

/-- Nanoseconds since the MCLK edge c. -/
def State.nsSince (s : State) (c : Nat) : Nat := 2 * (s.cycle - c) / 3

/-! ### Control grains -/

def State.sendDown (s : State) (g : CtrlGrain) : State := s.onCasc (fun c => { c with down := c.down ++ [g] })
def State.sendUp (s : State) (g : CtrlGrain) : State := s.onCasc (fun c => { c with up := c.up ++ [g] })

/-- A grain of this module to the lead (R324): upstream from a position of at most C/2, downstream otherwise. -/
def State.toLead (s : State) (body : CtrlBody) : State :=
  let g : CtrlGrain := { pos := s.myPos, beat := s.beatNow, body := body }
  if 2 * s.myPos ≤ s.members then s.sendUp g else s.sendDown g

/-- A grain that only passes goes on in its direction; true for one that came from upstream. -/
def State.passOn (s : State) (fromUp : Bool) (g : CtrlGrain) : State := if fromUp then s.sendDown g else s.sendUp g

/-- The next control grain of one direction, where it is g: grains of one direction are taken in the order sent. -/
def State.takeRing (s : State) (g : CtrlGrain) : Option (Bool × State) :=
  [true, false].findSome? (fun d =>
    match takeFirst (fun e : Bool × CtrlGrain => decide (e.1 = d)) s.casc.inbox with
    | some (e, rest) => if e.2 = g then some (d, s.onCasc (fun c => { c with inbox := rest })) else none
    | none => none)

/-- A control grain reaches the cascade unit. -/
def onRing (name : String) (g : CtrlGrain) (s : State) (k : Bool → State → State) : Out :=
  if s.frozen then .refused .frozen else whenSome name (s.takeRing g) (fun (d, s) => .next (k d s))

/-! ### Forming (R319, R320) -/

/-- Formation or the ring fails here: the state, the ALARM, and a FORM with the code around the ring. -/
def State.ringFail (s : State) (code : Nat) : State :=
  let s := ((s.setFld rFacetCasc 63 60 4).setFld rFacetCasc 59 56 code).ringAlarm
  let g : CtrlGrain := { pos := s.myPos, beat := s.beatNow, body := .form 0 code 0 }
  s.onCasc (fun c => { c with down := [g], up := [], formSent := none, rosterSent := false })

/-- FORMATION_START (R319). -/
def execFormationStart (s : State) : Out :=
  if s.frozen then .refused .frozen
  else when_ "FORMATION_START" (s.isLead && decide (s.cascState = 1) && decide (s.facetState 0 = fsUp) && decide (s.facetState 4 = fsUp) &&
      s.casc.formSent.isNone) (
    let g : CtrlGrain := { pos := 0, beat := 0, body := .form 1 0 (BitVec.ofNat 256 (2 ^ s.myId)) }
    (s.onCasc (fun c => { c with formSent := some s.cycle })).sendDown g)

/-- FORM at the lead: it has come round, or another lead sent it. -/
def State.formAtLead (s : State) (count : Nat) (map : BitVec 256) : State :=
  if decide (s.cascState = 4) then s
  else if !map.getLsbD s.myId then s.ringFail 2
  else match s.casc.formSent with
    | none => s
    | some c =>
      if s.casc.rosterSent then s
      else
        let rrt := s.nsSince c
        let s := ((s.setFld rFacetCasc 55 48 s.myId).setFld rFacetCasc 47 40 0).setFld rFacetCasc 39 32 (count - 1)
        let g : CtrlGrain := { pos := 0, beat := 0, body := .roster count s.myId rrt }
        ((s.setRing rrt).onCasc (fun c => { c with rosterSent := true })).sendDown g

/-- FORM at a follower: its position is the count. -/
def State.formAtFollower (s : State) (g : CtrlGrain) (count : Nat) (map : BitVec 256) : State :=
  if s.cascState ≠ 1 then s
  else if map.getLsbD s.myId then s.ringFail 1
  else if 256 ≤ count then s.ringFail 4
  else (s.setFld rFacetCasc 47 40 count).sendDown { g with body := .form (count + 1) 0 (map ||| BitVec.ofNat 256 (2 ^ s.myId)) }

/-- FORM (R319, R320). One with a failure code sets FAILED at every member that it reaches, and passes each once. -/
def execForm (g : CtrlGrain) (s : State) : Out :=
  match g.body with
  | .form count fail map => onRing "FORM" g s (fun _ s =>
      if !s.isMember then s
      else if fail ≠ 0 then
        (if s.cascState = 4 then s
        else (((s.setFld rFacetCasc 63 60 4).setFld rFacetCasc 59 56 fail).ringAlarm).sendDown g)
      else if s.isLead then s.formAtLead count map
      else s.formAtFollower g count map)
  | _ => .refused (.notEnabled "FORM")

/-- FORM_TIMEOUT (R320): 100 ms have passed since the lead sent FORM. -/
def execFormTimeout (s : State) : Out :=
  match s.casc.formSent with
  | some c => when_ "FORM_TIMEOUT" (s.isLead && decide (s.cascState = 1) && !s.casc.rosterSent) ((s.atEdge (c + 150000000)).ringFail 3)
  | none => .refused (.notEnabled "FORM_TIMEOUT")

/-! ### Lag and overruns (R326 to R328, R332) -/

/-- A plot that keeps beats: it holds slots, runs, is not fenced and has begun its first beat (DESIGN CHOICE, notes/assumptions/47.md). -/
def State.inBeats (s : State) (p : Nat) : Bool :=
  s.holdsSlots p && s.running p && decide (s.fenceState p = 0) && decide (0 < (s.plot p).begun)

def State.lagOf (s : State) (p : Nat) : Nat := if s.inBeats p then (s.plot p).marks - (s.plot p).begun else 0

/-- FACET_BEATSTAT shows the largest lag. -/
def State.showLag (s : State) : State :=
  let lag := (List.range 64).foldl (fun (n : Nat) p => max n (s.lagOf p)) 0
  (s.setFld rFacetBeatstat 2 0 (min 7 lag)).setFld rFacetBeatstat 23 16 (min 255 (max lag (s.fld rFacetBeatstat 23 16)))

/-- The root of a barrier group of a plot. -/
def State.barRoot (s : State) (p n : Nat) : Option Site :=
  (s.usable p).find? (fun t => decide (barFld s t n 31 31 = 1) && decide (barFld s t n 30 30 = 1))

/-- The cascade unit releases a group of a plot through its root. -/
def State.releaseGroup (s : State) (p n : Nat) : State :=
  match s.barRoot p n with
  | some t => s.sendRelease t n
  | none => s

/-- The plot begins its next beat: the release of its beat group goes out. -/
def State.beginBeat (s : State) (p : Nat) : State :=
  let s := (s.releaseGroup p 15).onPlot p (fun x => { x with begun := x.begun + 1, beatDone := false })
  s.trace 9 0x0411 (plotSource p) (s.beatNow - s.lagOf p)

/-- The lead takes a SLIPREQ (R333): it declares a slip with its next MARK, unless one is near. -/
def State.takeSlip (s : State) : State :=
  let near := s.casc.slipDue || (match s.casc.slipBeat with
    | some b => decide (s.beatNow < b + s.fld rFacetRing 31 24)
    | none => false)
  s.onCasc (fun c => if near then { c with slipReqs := c.slipReqs + 1 } else { c with slipDue := true })

/-- What follows from a plot's new lag: an incident starts or ends, lag 2 asks for a slip once, lag 8 fences the plot. -/
def State.newLag (s : State) (p old : Nat) : State :=
  let lag := s.lagOf p
  let ev := fun s : State => s.event 0x0103 (plotSource p) (s.beatNow + lag * 2 ^ 32)
  let s := if decide (old = 0) && decide (0 < lag) then ev s else s
  let s := if decide (0 < old) && decide (lag = 0) then ev (s.onPlot p (fun x => { x with sentSlip := false })) else s
  let s := if decide (2 ≤ lag) && !(s.plot p).sentSlip then
      let s := s.onPlot p (fun x => { x with sentSlip := true })
      if s.isLead then s.takeSlip else s.toLead (.slipreq s.beatNow)
    else s
  if 8 ≤ lag then s.ringAlarm.fence p fcRing 0xFFFF else s

/-- A mark reaches a plot that holds slots: it is counted, and a plot that waits begins its beat. -/
def State.markPlot (s : State) (p : Nat) : State :=
  let old := s.lagOf p
  let x := s.plot p
  if !(s.holdsSlots p && s.running p && decide (s.fenceState p = 0)) then s
  else if x.begun = 0 then
    (if x.beatDone then (s.onPlot p (fun x => { x with marks := 1 })).beginBeat p else s)
  else
    let s := s.onPlot p (fun x => { x with marks := x.marks + 1 })
    let s := if x.beatDone then s.beginBeat p else s
    s.newLag p old

/-! ### Commit across the cascade (R335, R374, R375) -/

/-- A COMMIT names beat b for a set: a member that holds it as CHECKED or ARMED sends b's start edge as the set's instant. -/
def State.nameBeat (s : State) (b num : Nat) : State :=
  let s := s.onCasc (fun c => { c with commitBeat := c.commitBeat ++ [(b, num)] })
  match s.setNamed num with
  | some (k, x) =>
    if decide (x.state = 1) || (decide (x.state = 3) && decide (x.want = 2)) then
      (s.putSet k { x with state := 3, want := 2, whenKind := 2, instant := b, sent := true }).showArmed x.mask
    else s
  | none => s

/-- At the named beat the edge is known. A member without the set commits nothing, raises an ALARM and fences. -/
def State.reachBeat (s : State) (b edge num : Nat) : State :=
  match s.setNamed num with
  | some (k, x) =>
    if x.sent && decide (x.whenKind = 2) && decide (x.instant = b) then s.putSet k { x with whenKind := 1, instant := edge }
    else s.ringAlarm.fenceRing
  | none => s.ringAlarm.fenceRing

/-- The lead names the beat of its next MARK for every armed set that all members hold. -/
def State.sendCommits (s : State) (b : Nat) : State :=
  let due := s.casc.checked.filter (fun e => decide (s.members ≤ e.2.length) && (match s.setNamed e.1 with
    | some (_, x) => decide (x.state = 3) && decide (x.want = 2) && !x.sent && decide (x.named ≤ b)
    | none => false))
  due.foldl (fun s e =>
    let g : CtrlGrain := { pos := s.myPos, beat := b, body := .commit b e.1 }
    ((s.onCasc (fun c => { c with checked := mapDel c.checked e.1 })).sendDown g).nameBeat b e.1) s

/-! ### MARK (R325, R333) -/

/-- A cascade unit takes MARK b: the beat starts 64 MCLK later. UE_RING is written at the start of beat 0 (R307). -/
def State.takeMark (s : State) (b active : Nat) (slip : Bool) : State :=
  let edge := s.cycle + 64
  let s := (s.setFld rFacetBeatstat 63 32 b).setFld rFacetBeat 16 0 active
  let s := if slip then (s.bump rFacetBeatstat 31 24 1).onCasc (fun c => { c with slipBeat := some b }) else s
  let s := s.onCasc (fun c => { c with running := true })
  let ring : Dword := BitVec.ofNat 64 (s.myPos * 256 + (s.members - 1))
  let s := if b = 0 then (List.range 64).foldl (fun s p => s.onPlot p (fun x => { x with ueRing := ring })) s else s
  let named := s.casc.commitBeat.filter (fun e => decide (e.1 = b))
  let s := s.onCasc (fun c => { c with commitBeat := c.commitBeat.filter (fun e => decide (e.1 ≠ b)) })
  let s := named.foldl (fun s e => s.reachBeat b edge e.2) s
  let s := s.atEdge edge
  ((List.range 64).foldl (fun s p => s.markPlot p) s).showLag

/-- The PERIOD that a set commits at beat b, if one does. -/
def State.periodAt (s : State) (b : Nat) : Option Nat :=
  s.casc.commitBeat.findSome? (fun e => if e.1 = b then
    (match s.setNamed e.2 with
      | some (_, x) => if x.sent && decide (x.whenKind = 2) then x.get 0x14 0 else none
      | none => none) else none)

/-- The lead sends MARK b and takes it. A slip lengthens the period in force, or the one committed at b, by 5/4. -/
def State.sendMark (s : State) (b : Nat) : State :=
  let base := (s.periodAt b).getD (s.fld rFacetBeat 16 0)
  let slip := s.casc.slipDue
  let want := (5 * base + 3) / 4
  let active := if slip then min 125000 want else base
  let s := if slip && !decide (want ≤ 125000) then s.ringAlarm else s
  let g : CtrlGrain := { pos := s.myPos, beat := b, body := .mark active slip }
  let s := (s.onCasc (fun c => { c with slipDue := false, markSent := c.markSent ++ [(b, s.cycle)] })).sendDown g
  s.takeMark b active slip

/-- ROSTER (R319): a follower is FORMED; back at the lead it starts the beats. -/
def execRoster (g : CtrlGrain) (s : State) : Out :=
  match g.body with
  | .roster c leadId rrt => onRing "ROSTER" g s (fun _ s =>
      if decide (s.cascState ≠ 1) || !s.isMember then s
      else if s.isLead then
        (if s.casc.rosterSent && decide (leadId = s.myId) then
          ((s.setFld rFacetCasc 63 60 2).setFld rFacetBeat 16 0 (s.fld rFacetBeat 48 32)).sendMark 0
        else s)
      else
        let s := ((s.setFld rFacetCasc 55 48 leadId).setFld rFacetCasc 39 32 (c - 1)).setFld rFacetCasc 63 60 2
        (s.setRing rrt).sendDown g)
  | _ => .refused (.notEnabled "ROSTER")

/-- BEAT_TIMER (R325): ACTIVE has passed since the lead's last MARK. -/
def execBeatTimer (s : State) : Out :=
  if s.frozen then .refused .frozen
  else when_ "BEAT_TIMER" (s.isLead && s.cascUp && s.casc.running) (
    let b := (s.beatNow + 1) % 2 ^ 32
    (s.sendCommits b).sendMark b)

/-- MARK (R325): a follower forwards it; the lead measures RRT from its return. -/
def execMark (g : CtrlGrain) (s : State) : Out :=
  match g.body with
  | .mark active slip => onRing "MARK" g s (fun _ s =>
      if !(s.isMember && s.cascUp) then s
      else if s.isLead then
        match s.casc.markSent.find? (fun e => decide (e.1 = g.beat)) with
        | some e => (s.setRing (s.nsSince e.2)).onCasc (fun c => { c with markSent := c.markSent.filter (fun x => decide (x.1 ≠ g.beat)) })
        | none => s
      else (s.sendDown g).takeMark g.beat active slip)
  | _ => .refused (.notEnabled "MARK")

/-- SLIPREQ (R333). -/
def execSlipreq (g : CtrlGrain) (s : State) : Out :=
  match g.body with
  | .slipreq _ => onRing "SLIPREQ" g s (fun d s =>
      if !(s.isMember && s.cascUp) then s else if s.isLead then s.takeSlip else s.passOn d g)
  | _ => .refused (.notEnabled "SLIPREQ")

/-! ### Cascade barriers (R334) -/

/-- A member releases group 14 of a plot; one more of its cascade barriers is complete. -/
def State.takeBarrel (s : State) (p epoch : Nat) : State :=
  (s.releaseGroup p 14).onPlot p (fun x => { x with barEpoch := (epoch + 1) % 256 })

/-- The lead has released this epoch of the plot. -/
def Casc.isReleased (c : Casc) (p epoch : Nat) : Bool :=
  match c.released.find? (fun e => decide (e.1 = p)) with
  | some e => decide ((e.2 + 256 - epoch) % 256 < 128)
  | none => false

/-- The lead counts an arrival; with all C it sends BARREL and releases its own plot. -/
def State.arrive (s : State) (p epoch pos : Nat) : State :=
  if s.casc.isReleased p epoch then s
  else
    let this := fun e : Nat × Nat × List Nat => decide (e.1 = p) && decide (e.2.1 = epoch)
    let have_ := ((s.casc.arrivals.find? this).map (fun e => e.2.2)).getD []
    let now := have_.filter (fun x => decide (x ≠ pos)) ++ [pos]
    let rest := s.casc.arrivals.filter (fun e => !this e)
    if now.length < s.members then s.onCasc (fun c => { c with arrivals := rest ++ [(p, epoch, now)] })
    else
      let g : CtrlGrain := { pos := s.myPos, beat := s.beatNow, body := .barrel p epoch }
      ((s.onCasc (fun c => { c with arrivals := rest, released := mapPut c.released p epoch })).sendDown g).takeBarrel p epoch

/-- BARARR (R334). -/
def execBararr (g : CtrlGrain) (s : State) : Out :=
  match g.body with
  | .bararr p epoch => onRing "BARARR" g s (fun d s =>
      if !(s.isMember && s.cascUp) then s else if s.isLead then s.arrive p epoch g.pos else s.passOn d g)
  | _ => .refused (.notEnabled "BARARR")

/-- BARREL (R334). The lead does not forward its own when it returns. -/
def execBarrel (g : CtrlGrain) (s : State) : Out :=
  match g.body with
  | .barrel p epoch => onRing "BARREL" g s (fun _ s =>
      if !(s.isMember && s.cascUp) || s.isLead then s else (s.sendDown g).takeBarrel p epoch)
  | _ => .refused (.notEnabled "BARREL")

/-- BEAT_GROUP_COMPLETE (R326, R334): the root's report of group 15 or of group 14 of a plot. -/
def execBeatGroupComplete (p : Nat) (s : State) : Out :=
  onUnit (decide (p < Config.plots)) (
    if s.frozen then .refused .frozen
    else whenSome "BEAT_GROUP_COMPLETE"
      (takeFirst (fun (e : Site × SvcNote) => decide (s.plotOf e.1 = some p) &&
        (match e.2 with | .groupComplete _ => true | _ => false)) s.svc) (fun (e, rest) =>
      let s := { s with svc := rest }
      match e.2 with
      | .groupComplete n =>
        if n = 14 then
          let epoch := (s.plot p).barEpoch
          .next (if s.isLead then s.arrive p epoch 0 else s.toLead (.bararr p epoch))
        else
          let old := s.lagOf p
          if 0 < old then .next (((s.beginBeat p).newLag p old).showLag)
          else .next (s.onPlot p (fun x => { x with beatDone := true }))
      | _ => .next s))

/-! ### CHECKED and COMMIT (R335) -/

/-- CHECKED (R335): at the lead the member's position is noted, and a set that all hold gets its beat. -/
def execChecked (g : CtrlGrain) (s : State) : Out :=
  match g.body with
  | .checked num _ => onRing "CHECKED" g s (fun d s =>
      if !(s.isMember && s.cascUp) then s
      else if s.isLead then
        let have_ := ((s.casc.checked.find? (fun e => decide (e.1 = num))).map (fun e => e.2)).getD []
        let s := s.onCasc (fun c => { c with checked := mapPut c.checked num (have_.filter (fun x => decide (x ≠ g.pos)) ++ [g.pos]) })
        if s.casc.running then s.sendCommits ((s.beatNow + 1) % 2 ^ 32) else s
      else s.passOn d g)
  | _ => .refused (.notEnabled "CHECKED")

/-- COMMIT_GRAIN (R335, R375). -/
def execCommitGrain (g : CtrlGrain) (s : State) : Out :=
  match g.body with
  | .commit b num => onRing "COMMIT_GRAIN" g s (fun _ s =>
      if !(s.isMember && s.cascUp) || s.isLead then s else (s.sendDown g).nameBeat b num)
  | _ => .refused (.notEnabled "COMMIT_GRAIN")

/-! ### Loss of the ring (R337) -/

/-- MARK_TIMEOUT (R337): 4 periods without a MARK, or at the lead without its own MARK back. -/
def execMarkTimeout (s : State) : Out :=
  when_ "MARK_TIMEOUT" (s.isMember && (s.cascUp || s.casc.running)) (
    (s.ringFail 5).fenceRing.onCasc (fun c => { c with running := false }))

end Sys2Proof.Machine
end

