-- ==== Sys2Proof/Machine/Telem.lean ====
section
/-!
DEFINITION. Telemetry on its way out, acknowledgement, summaries (R483 to R491), and the host ports' links (R339, R340, R470, R507).
-/
namespace Sys2Proof.Machine

/-! ### Records in (R483, R484) -/

/-- TELEM_RECORD_RECEIVE (R483, R484): the tile's ALARM, or the oldest record of its queue, reaches the stewards. -/
def execTelemRecordReceive (t : Site) (s : State) : Out :=
  onTile t s (match (s.ni t).teleAlarm, (s.ni t).tele with
    | some r, _ => .next ((s.onNi t (fun n => { n with teleAlarm := none })).onTelem (fun tm => alarmIn tm r))
    | none, r :: rest =>
      let s := s.onNi t (fun n => { n with tele := rest })
      .next (if r.cls = 1 then s.eventIn r else s.traceIn r (s.plotOf t).isNone)
    | none, [] => .refused (.notEnabled "TELEM_RECORD_RECEIVE"))

/-! ### Datagrams (R485, R486) -/

/-- NREC of a port's datagrams at most. -/
def State.maxRecords (s : State) (a : Nat) : Nat := max 1 (min 256 ((s.fld (rHostPortCfg a) 18 5 - 90) / 32))

/-- TELEM_DEST 0 sends nothing. -/
def State.hasDest (s : State) : Bool := decide (s.reg (rTelemDest 0) ≠ 0) || decide (s.reg (rTelemDest 1) ≠ 0)

/-- ALARM datagrams leave by every port with a link; one datagram fits both. -/
def State.alarmPorts (s : State) : List Nat := [0, 1].filter (fun a => s.linkOn a)
def State.alarmMax (s : State) : Nat := (s.alarmPorts.map (fun a => s.maxRecords a)).foldl min 256

/-- One ALARM datagram. -/
def State.sendAlarms (s : State) (rs : List TRec) : State :=
  let d := s.telem.dseqA
  let s := s.alarmPorts.foldl (fun s a => s.hostOut (.telemetry a 0 d rs)) s
  s.onTelem (fun tm => { tm with dseqA := (d + 1) % 2 ^ 32
                                 alarmSent := tm.alarmSent ++ (rs.map (fun r => r.seq)).filter (fun q => !tm.alarmSent.contains q) })

/-- Records in datagrams of at most n. -/
def State.sendAlarmRun (n : Nat) : Nat → State → List TRec → State
  | 0, s, _ => s
  | k + 1, s, rs => if rs.isEmpty then s else State.sendAlarmRun n k (s.sendAlarms (rs.take n)) (rs.drop n)

/-- The port of EVENT and TRACE datagrams; none for a reserved number. -/
def State.telemPort (s : State) : Option Nat := if s.fld rTelemCfg 1 0 < 2 then some (s.fld rTelemCfg 1 0) else none

/-- An open SUMMARY enters the ring as one EVENT (R490). -/
def enterSummary (tm : Telem) (r : TRec) : Telem :=
  { tm with events := tm.events ++ [{ r with seq := tm.eseq }], eseq := (tm.eseq + 1) % 2 ^ 32
            sums := tm.sums.filter (fun x => decide (x.code ≠ r.code)) }

/-- The event ring has fallen: below 8,192 records coalescing ends and every SUMMARY closes. -/
def State.ringFell (s : State) : State :=
  if s.telem.events.length < 8192 then
    (s.onTelem (fun tm => tm.sums.foldl enterSummary tm)).setFld rTelemStat 31 31 0
  else s

/-- TELEM_DATAGRAM_SEND (R486). Before READY and while frozen only ALARMs leave (R491). A full EVENT datagram that waits goes before any
TRACE datagram. -/
def execTelemDatagramSend (cls : Nat) (s : State) : Out :=
  onUnit (decide (cls < 3)) (
    let name := "TELEM_DATAGRAM_SEND"
    if !s.hasDest then .refused (.notEnabled name)
    else if cls = 0 then
      let new := s.telem.alarms.filter (fun r => !s.telem.alarmSent.contains r.seq)
      when_ name (!new.isEmpty && !s.alarmPorts.isEmpty) (s.sendAlarms (new.take s.alarmMax))
    else whenSome name s.telemPort (fun a =>
      let n := s.maxRecords a
      let open_ := s.linkOn a && decide (s.stage = 8) && !s.frozen
      if cls = 1 then
        let rs := s.telem.events.take n
        when_ name (open_ && !rs.isEmpty) (
          let d := s.telem.dseqE
          let s := s.onTelem (fun tm => { tm with events := tm.events.drop n, dseqE := (d + 1) % 2 ^ 32 })
          (s.hostOut (.telemetry a 1 d rs)).ringFell)
      else
        let rs := s.telem.traces.take n
        when_ name (open_ && !rs.isEmpty && decide (s.telem.events.length < n)) (
          let d := s.telem.dseqT
          let s := s.onTelem (fun tm => { tm with traces := tm.traces.drop n, dseqT := (d + 1) % 2 ^ 32 })
          s.hostOut (.telemetry a 2 d rs))))

/-- ALARM_RESEND (R487): every ALARM that has been sent and is not acknowledged goes again. -/
def execAlarmResend (s : State) : Out :=
  let rs := s.telem.alarms.filter (fun r => s.telem.alarmSent.contains r.seq)
  when_ "ALARM_RESEND" (s.hasDest && !s.alarmPorts.isEmpty && !rs.isEmpty) (State.sendAlarmRun s.alarmMax rs.length s rs)

/-- A write of TELEM_AACK: SEQ numbers are compared modulo 2^32, and a backward write is ignored. -/
def State.writeAack (s : State) (v : Dword) : State :=
  let old := s.fld rTelemAack 31 0
  let new := Dword.field v 31 0
  let ahead := fun a b : Nat => (a + 2 ^ 32 - b) % 2 ^ 32
  if !decide (ahead new old < 2 ^ 31) then s
  else
    let acked := fun q : Nat => decide (ahead new q < 2 ^ 31)
    (s.setFld rTelemAack 31 0 new).onTelem (fun tm => { tm with
      alarms := tm.alarms.filter (fun r => !acked r.seq), alarmSent := tm.alarmSent.filter (fun q => !acked q) })

/-- TELEM_AACK_WRITE (R487). -/
def execTelemAackWrite (v : Dword) (s : State) : Out := .next (s.writeAack v)

/-- What the ALERT_N pin asserts (R487): an unacknowledged ALARM, or a state that asserts it. -/
def State.alerts (s : State) : Bool := s.alertN || !s.telem.alarms.isEmpty

/-- SUMMARY_CLOSE (R490): 1 ms after it opened. With a full ring it stays open. -/
def execSummaryClose (code : Nat) (s : State) : Out :=
  whenSome "SUMMARY_CLOSE" (s.telem.sums.find? (fun r => decide (r.code = code))) (fun r =>
    when_ "SUMMARY_CLOSE" (decide (s.telem.events.length < 16384)) (s.onTelem (fun tm => enterSummary tm r)))

/-! ### Host ports (R339, R470, R507) -/

/-- Link-up has started at MAP, and the port is enabled in a mode that exists (R339, R457). -/
def State.portReady (s : State) (a : Nat) : Bool :=
  decide (3 ≤ s.stage) && decide (s.stage ≠ 0xF) && decide (s.fld (rHostPortCfg a) 0 0 = 1) && decide (s.fld (rHostPortCfg a) 2 1 < 2)

/-- HOST_LINK_CHANGE (R339, R507): PCS lock and link come or go; a swapped receive pair is corrected at PCS lock. -/
def execHostLinkChange (a : Nat) (up swapped : Bool) (s : State) : Out :=
  onUnit (decide (a < 2)) (
    if up then when_ "HOST_LINK_CHANGE" (s.portReady a) (
      let s := (s.setFld (rHostPortStat a) 1 0 3).onHostPort a (fun x => { x with swapped := swapped, paused := false })
      s.flushPort a)
    else .next ((s.setFld (rHostPortStat a) 2 0 0).onHostPort a (fun x => { x with paused := false })))

/-- The block that MAP applied holds an MKA key that the module can open (R462, R470). -/
def State.hasCak (s : State) : Bool :=
  !s.boot.applied.isEmpty && !s.noIdent && (Config.unwrap s.service (takeAt s.boot.applied (8192 + 2628) 1628)).isSome

/-- SECURE_ASSOCIATION (R339, R470). -/
def execSecureAssociation (a : Nat) (live : Bool) (s : State) : Out :=
  onUnit (decide (a < 2)) (
    if live then when_ "SECURE_ASSOCIATION" (s.linkOn a && s.hasCak) (s.setFld (rHostPortStat a) 2 2 1)
    else .next (s.setFld (rHostPortStat a) 2 2 0))

/-- PFC_FRAME (R339). With PFC disabled the frame needs an unsupported feature and is discarded. -/
def execPfcFrame (a : Nat) (pause : Bool) (s : State) : Out :=
  onUnit (decide (a < 2)) (when_ "PFC_FRAME" (s.linkOn a) (
    if s.fld (rHostPortCfg a) 19 19 = 0 then s.dropFrame a
    else (s.onHostPort a (fun x => { x with paused := pause })).flushPort a))

/-- PTP_EVENT_MESSAGE (R339): the timestamp at the MII; a transmitted Sync carries it. -/
def execPtpEventMessage (a : Nat) (transmitSync : Bool) (time : Nat) (s : State) : Out :=
  onUnit (decide (a < 2)) (when_ "PTP_EVENT_MESSAGE" (s.linkOn a) (
    let s := s.onHostPort a (fun x => { x with stamp := time })
    if transmitSync then s.hostOut (.sync a time) else s))

end Sys2Proof.Machine
end

