-- ==== Sys2Proof/Machine/RegIo.lean ====
section
/-!
DEFINITION. Reading and writing any steward register: the registers that show other state, the writes with rules of their own, and
what a host queue may reach (R8, R351, R363, R446, R518 to R525).
-/
namespace Sys2Proof.Machine

/-- The index of address a in an array of registers. -/
def regIdx (first stride count a : Nat) : Option Nat :=
  if decide (first ≤ a) && decide ((a - first) % stride = 0) && decide ((a - first) / stride < count) then some ((a - first) / stride) else none

/-- Registers that exist only for a present field. -/
def absentEntry (a : Nat) : Bool :=
  let gone := fun first => match regIdx first 8 64 a with | some f => !Config.fieldPresent f | none => false
  gone (rClkField 0) || gone (rPwrField 0) || gone (rThmField 0) || gone (rClkMux 64) || gone (rClkMuxStat 64)

/-! ### Reads -/

/-- SHADOW_SLOT[k] (R379). -/
def State.slotReg (s : State) (k : Nat) : Dword :=
  match s.setAt k with
  | some x => BitVec.ofNat 64 (2 ^ 63 + x.state * 2 ^ 60 + x.code * 2 ^ 48 + x.owner * 2 ^ 42 + (if x.device then 2 ^ 41 else 0) +
      x.items.length * 2 ^ 32 + x.num)
  | none => 0

/-- SHADOW_WHEN[k] (R379). -/
def State.whenReg (s : State) (k : Nat) : Dword :=
  match s.setAt k with
  | some x => if x.whenKind = 0 then 0 else BitVec.ofNat 64 (x.whenKind * 2 ^ 62 + x.instant % 2 ^ 62)
  | none => 0

/-- PWR_STAT.MINRATE: the lowest rate in force among running plots; 0 while none runs. -/
def State.minRate (s : State) : Nat :=
  let rs := ((List.range 64).filter (fun p => s.running p)).flatMap (fun p => (s.usable p).map (fun t => s.rateAt t))
  match rs with
  | [] => 0
  | r :: l => l.foldl min r

/-- TELEM_STAT (R492). -/
def State.telemStat (s : State) : Dword :=
  BitVec.ofNat 64 (s.telem.alarms.length * 2 ^ 47 + s.telem.events.length * 2 ^ 32 + s.fld rTelemStat 31 31 * 2 ^ 31 + s.telem.aseq % 2 ^ 31)

/-- What a read of a steward register returns. A read changes nothing (R521). -/
def State.readReg (s : State) (a : Nat) : Dword :=
  if absentEntry a then 0
  else if a = rIdTiles then s.idTiles
  else if a = 0x7f0000000008 then BitVec.ofNat 64 (leAt Config.certificate 0 8)
  else if a = 0x7f0000000010 then BitVec.ofNat 64 (leAt Config.certificate 8 8)
  else if a = 0x7f0000000030 then (Config.mac 0).setWidth 64
  else if a = 0x7f0000000038 then (Config.mac 1).setWidth 64
  else if a = rPwrStat then Dword.setField (s.reg a) 4 0 s.minRate
  else if a = rMeshStat then Dword.setField (s.reg a) 47 32 s.repair.deadRouters.length
  else if a = rMeshRerr then s.routerAnswer false
  else if a = rMeshRlink then s.routerAnswer true
  else if a = rRouteTdata then s.tableAnswer
  else if a = rShadowCycle then BitVec.ofNat 64 s.cycle
  else if a = rTelemStat then s.telemStat
  else match regIdx (rPlotMapinfo 0) 0x400 64 a with
    | some p => s.mapInfo p
    | none => match regIdx (rShadowSlot 0) 0x10 8 a with
      | some k => s.slotReg k
      | none => match regIdx (rShadowWhen 0) 0x10 8 a with
        | some k => s.whenReg k
        | none => match regIdx (rHostQstat 0) 8 64 a with
          | some q => Dword.setField (s.reg a) 5 0 (s.hostq q).cmds.length
          | none => s.reg a

/-! ### Writes -/

/-- PLOT_RESET: FENCE, then RESET, of a plot that exists (R451, R520). -/
def State.writePlotReset (s : State) (p : Nat) (v : Dword) : State :=
  if !s.plotValid p then s
  else
    let s := if Dword.field v 1 1 = 1 then s.fence p fcHost 0xFFFF else s
    if Dword.field v 0 0 = 1 then s.askPlot p else s

/-- The arrays whose writes have rules of their own. -/
def State.writeArray (s : State) (a : Nat) (v : Dword) : Option State :=
  match regIdx (rClkMux 0) 8 128 a with
  | some m => some (s.writeMux m v)
  | none => match regIdx (rPwrPlot 0) 8 64 a with
    | some p => some (s.writePwrPlot p v)
    | none => match regIdx (rFacetCfg 0) 0x40 8 a with
      | some f => some (s.writeFacetCfg f v)
      | none => match regIdx (rHostQp 0 0) 8 (6 * Config.qps) a with
        | some i => some (s.writeQp (i / 6) (i % 6) v)
        | none => match regIdx (rPlotReset 0) 0x400 64 a with
          | some p => some (s.writePlotReset p v)
          | none => none

/-- A write of a steward register (R8, R9, R520): by the rule of its own that it has, or by the type of each field. A reserved
address changes nothing (R519). -/
def State.writeReg (s : State) (a : Nat) (v : Dword) : State :=
  match regRow a with
  | none => s
  | some r =>
    if absentEntry a then s
    else if a = rClkMeas then s.writeMeas v
    else if a = rClkOut then s.writeClkOut v
    else if a = rPwrCapSet then s.writeCapSet v
    else if a = rThmCfg then s.writeThmCfg v
    else if a = rMeshCfg then s.setFld rMeshCfg 11 0 (max 16 (Dword.field v 11 0))
    else if a = rRasReset then s.writeRasReset v
    else if a = rRasDrain then s.writeDrain v
    else if a = rRasScan then s.writeScan v
    else if a = rRasAi then s.writeAi v
    else if a = rTelemAack then s.writeAack v
    else match s.writeArray a v with
      | some s => s
      | none => s.setReg a (regStore r (s.reg a) v)

/-- REGISTER_WRITE (R8, R9). -/
def execRegisterWrite (addr : Nat) (v : Dword) (s : State) : Out := .next (s.writeReg addr v)

/-! ### What a host queue may reach (R351, R363, R446) -/

def inBlock (a base : Nat) : Bool := decide (0x7f0000000000 + base ≤ a) && decide (a < 0x7f0000000000 + base + 0x10000)

/-- The code of an access of queue q, or 0. A queue without DEV reaches the window of its own plot; while frozen, a write reaches the
RAS block; no write reaches the SEC block; PLOT_RECT and FACET_BEAT change only through staging. -/
def State.regAccess (s : State) (q a : Nat) (write : Bool) : Nat :=
  let own := decide (rPlotRect q ≤ a) && decide (a < rPlotRect q + 0x400)
  if !decide (a < 2 ^ 48) then stAddr
  else if !s.queueDev q && !own then stPerm
  else if write && inBlock a 0xd0000 then stPerm
  else if write && s.frozen && !inBlock a 0xb0000 then stFenced
  else if (regRow a).isNone then stAddr
  else if write && ((regIdx (rPlotRect 0) 0x400 64 a).isSome || decide (a = rFacetBeat)) then stPerm
  else 0

end Sys2Proof.Machine
end

