-- ==== Sys2Proof/Machine/Boot.lean ====
section
/-!
DEFINITION. Power, straps, the boot stages, signed objects in flash, the attestation report, Topsoil's requests and the TAP (R382, R383,
R452 to R476, R497, R498, R502, R514 to R517).
-/
namespace Sys2Proof.Machine

/-! ### Signed objects (R466 to R471) -/

def objTopsoil : Nat := 1
def objConfig : Nat := 2
def objRoster : Nat := 3

def objKind (b : List Byte) : Nat := leAt b 4 1
def objVersion (b : List Byte) : Nat := leAt b 8 8
def objBody (b : List Byte) : List Byte := b.drop 8192
/-- OWNER of a configuration block. -/
def objOwner (b : List Byte) : List Byte := takeAt b 8192 2592

def sha3Bytes (b : List Byte) : List Byte := leBytes 64 (Config.sha3 b).toNat

def zeroAt (b : List Byte) (off n : Nat) : Bool := (takeAt b off n).all (fun x => decide (x = 0))

/-- BODYLEN as the KIND has it, of an object that is whole. -/
def objLenOk (b : List Byte) : Bool :=
  let n := leAt b 16 4
  let members := leAt b 8192 2
  decide (b.length = 8192 + n) &&
    (match objKind b with
      | 1 => decide (n ≤ 0x03FFE000)
      | 2 => decide (n = 4320)
      | 3 => decide (n = 8 + 64 * members) && decide (1 ≤ members) && decide (members ≤ 256)
      | _ => false)

/-- R469 step 1. -/
def objFormat (b : List Byte) : Bool :=
  decide (leAt b 0 4 = 0x4A424F56) && decide (1 ≤ objKind b) && decide (objKind b ≤ 3) &&
    decide (leAt b 5 1 < (if objKind b = objTopsoil then 4 else 1)) &&
    zeroAt b 6 2 && zeroAt b 20 12 && zeroAt b 48 16 && zeroAt b 4755 3437 && objLenOk b

/-- R469 steps 2 and 3. -/
def objSerial (b : List Byte) : Bool := zeroAt b 32 16 || decide (takeAt b 32 16 = takeAt Config.certificate 0 16)
def objDigest (b : List Byte) : Bool := decide (takeAt b 64 64 = sha3Bytes (objBody b))

/-- The object carries a signature that a key verifies. -/
def objSigned (key b : List Byte) : Bool := Config.mldsaVerify key (sha3Bytes (takeAt b 0 128)) (takeAt b 128 Config.sigBytes)

/-- The MKA key of a configuration block opens, or the block asks for none (R470). -/
def cakOk (service noIdent : Bool) (b : List Byte) : Bool :=
  decide (leAt b (8192 + 2592) 1 = 0) ||
    (!noIdent && !zeroAt b (8192 + 2596) 1660 && (Config.unwrap service (takeAt b (8192 + 2628) 1628)).isSome)

/-- The code of R477 that R469 ends with for an object that is delivered or loaded; 0 where it passes. -/
def State.objCode (s : State) (b : List Byte) : Nat :=
  let cfg := s.boot.config
  let key := if objKind b = objTopsoil then Config.imageKey (leAt b 5 1) else if cfg.isEmpty then objOwner b else objOwner cfg
  let force := if objKind b = objConfig then cfg else s.boot.roster
  if !objFormat b then 1
  else if !objSerial b then 2
  else if !objDigest b then 3
  else if (decide (objKind b = objRoster) && cfg.isEmpty) || !objSigned key b then 4
  else if decide (objKind b ≠ objTopsoil) && !force.isEmpty && decide (objVersion b ≤ objVersion force) then 5
  else if decide (objKind b = objConfig) && !cakOk s.service s.noIdent b then 6
  else 0

/-! ### Slots in flash (R464, R465) -/

def slotsOf (kind : Nat) : Nat × Nat := if kind = objConfig then (0x100000, 0x140000) else (0x180000, 0x1C0000)
def imageSlot : Nat := 0x4000000

/-- The object that stands at a slot, by the length its header gives within the slot. -/
def State.slotObject (s : State) (at_ limit : Nat) : List Byte := s.flashBytes at_ (8192 + min (leAt (s.flashBytes at_ 8192) 16 4) limit)

/-- A configuration block as MAP judges it: the signer is its own OWNER, or that of the other slot, which it may have followed. -/
def configValid (b other : List Byte) : Bool :=
  decide (objKind b = objConfig) && objFormat b && objSerial b && objDigest b &&
    (objSigned (objOwner b) b || (decide (objKind other = objConfig) && objFormat other && objSigned (objOwner other) b))

/-- A roster block as MAP judges it, under the owner key in force. -/
def rosterValid (cfg b : List Byte) : Bool :=
  !cfg.isEmpty && decide (objKind b = objRoster) && objFormat b && objSerial b && objDigest b && objSigned (objOwner cfg) b

/-- The valid object of a pair with the higher number; none is []. -/
def pickSlot (valid : List Byte → List Byte → Bool) (a b : List Byte) : List Byte :=
  if valid a b then (if valid b a && decide (objVersion a < objVersion b) then b else a) else if valid b a then b else []

/-- SEC_CFGSEQ and SEC_OWN show the blocks in force. -/
def State.showBlocks (s : State) : State :=
  let c := !s.boot.config.isEmpty
  (s.setReg rSecCfgseq (BitVec.ofNat 64 (if c then objVersion s.boot.config else 0))).setReg rSecOwn
    (BitVec.ofNat 64 ((if c then 3 else 0) + if s.boot.roster.isEmpty then 0 else 4))

/-- A block's writing slot: the one that does not hold the block in force. -/
def State.writeSlot (s : State) (kind : Nat) : Nat :=
  let (a, b) := slotsOf kind
  let force := if kind = objConfig then s.boot.config else s.boot.roster
  if !force.isEmpty && decide (s.flashBytes a force.length = force) then b else a

/-! ### The attestation report (R473) -/

def repairRows (r : Repair) : List (List Nat) :=
  [r.deadTiles, r.deadRouters, r.retired, r.promoted, r.deadUnits, r.badSpills, r.retiredFields,
    r.rows.flatMap (fun e => [e.1, e.2.1, e.2.2.1, e.2.2.2]), r.exhausted.flatMap (fun e => [e.1, e.2]), r.layers.flatMap (fun e => [e.1, e.2])]

/-- Bytes 0x0000 to 0x247F of a report with this nonce. -/
def State.reportBody (s : State) (nonce : Nat) : List Byte :=
  let img := s.boot.image
  let cfg := s.boot.config
  let ros := s.boot.roster
  let bit := fun (b : Bool) n => if b then 2 ^ n else 0
  let dig := fun b : List Byte => if b.isEmpty then List.replicate 64 0 else takeAt b 64 64
  let keys := fun (k : List Byte) n => if s.noIdent then List.replicate n (0 : Byte) else takeAt k 0 n
  leBytes 4 0x3152415A ++ leBytes 2 1 ++ leBytes 2 0x3693 ++ leBytes 8 nonce ++ leBytes 8 s.cycle ++
    leBytes 1 (s.fld rSecBoot 1 0 + bit s.service 2 + bit (decide (s.stage = 9)) 3 + bit s.noIdent 4) ++
    leBytes 1 (s.fld rSecBoot 15 8) ++ leBytes 1 (if img.isEmpty then 0 else leAt img 5 1) ++
    leBytes 1 (bit (!img.isEmpty) 0 + bit (!cfg.isEmpty) 1 + bit (!ros.isEmpty) 2 + bit (!cfg.isEmpty) 3) ++
    leBytes 4 (countTiles s.rated) ++ leBytes 8 (if img.isEmpty then 0 else objVersion img) ++
    (if img.isEmpty then List.replicate 64 0 else sha3Bytes img) ++
    leBytes 8 (if cfg.isEmpty then 0 else objVersion cfg) ++ dig cfg ++ leBytes 8 (if ros.isEmpty then 0 else objVersion ros) ++ dig ros ++
    (if cfg.isEmpty then List.replicate 64 0 else sha3Bytes (objOwner cfg)) ++
    leBytes 64 (Config.repairDigest (repairRows s.repair)).toNat ++ leBytes 8 (s.reg rIdFretired).toNat ++
    keys (Config.identityKey s.service) 2592 ++ keys (Config.wrappingKey s.service) 1568 ++ takeAt Config.certificate 0 4800

/-- A signed report: 13,971 bytes; without an identity the signature is zeros (R462). -/
def State.attestation (s : State) (nonce : Nat) : List Byte :=
  let b := s.reportBody nonce
  b ++ (if s.noIdent then List.replicate Config.sigBytes 0 else takeAt (Config.mldsaSign s.service (sha3Bytes b)) 0 Config.sigBytes)

/-! ### Power (R497, R498, R514, R515) -/

/-- POWER_UP (R498, R514): the auxiliary converter starts; the sideband and steward-field supplies come into regulation. -/
def execPowerUp (s : State) : Out :=
  when_ "POWER_UP" (!s.supply.aux) (
    let s := s.onSupply (fun u => { u with aux := true, vin := 5000 })
    s.deviceReset)

/-- AUX_STOP (R498, R515, R517): every output goes low, and the module loses all but its flash. -/
def execAuxStop (s : State) : Out :=
  when_ "AUX_STOP" s.supply.aux (
    let s := s.onSupply (fun u => { u with aux := false, vin := 4000 })
    { s.deviceReset with alertN := true })

/-- STEWARD_SUPPLY_LOSS (R515). -/
def execStewardSupplyLoss (s : State) : Out :=
  when_ "STEWARD_SUPPLY_LOSS" s.supply.steward ({ s.onSupply (fun u => { u with steward := false }) with pwrOk := false })

/-! ### The boot sequence (R457 to R460) -/

def State.setStage (s : State) (n : Nat) : State := s.setFld rSecBoot 7 4 n

/-- Present fields outside the four steward fields. -/
def otherFields : List Nat := presentFields.filter (fun f => !stewardFields.contains f)

/-- DEVICE_BOOT (R382, R383, R456, R457, R502, R514): RESET_N is high and the supplies are in regulation. The straps are sampled, and the
mask ROM runs from the RC oscillator. Every field outside the steward fields is unpowered. -/
def execDeviceBoot (straps : Dword) (s : State) : Out :=
  when_ "DEVICE_BOOT" (!s.boot.running && s.supply.aux && s.supply.steward) (
    let v : Dword := BitVec.ofNat 64 (Dword.field straps 15 8 * 256 + Dword.field straps 5 4 * 16 + Dword.field straps 2 0)
    let s := { s with resetN := true, boot := { s.boot with running := true } }
    let s := (s.setReg rStrapVal v).setReg rStrapPins v
    let s := (s.setFld rClkRef 3 1 (Dword.field v 2 0)).setFld rFacetCasc 31 24 (Dword.field v 15 8)
    let s := (s.setFld rSecBoot 1 0 (Dword.field v 5 4)).setFld rSecBoot 3 3 (if Dword.field v 5 4 = 3 then 1 else 0)
    otherFields.foldl (fun s f => s.setFld (rPwrField f) 27 26 2) s)

/-- The bootmode strap. -/
def State.bootMode (s : State) : Nat := s.fld rSecBoot 1 0

/-- The first source in window, REFCLK_IN before the crystal (R381, R383). -/
def refFound (refclkOk crystalOk : Bool) : Option Nat := if refclkOk then some 2 else if crystalOk then some 1 else none

/-- GCLK runs from a source that is in window, and the steward fields' PLLs lock (R383). -/
def State.startRef (s : State) (n : Nat) : State :=
  let s := ((s.setGclk n).setFld (rClkMux 0) 7 0 n).setFld rClkRef 6 6 1
  let s := if n = 2 then s.setFld rStrapPins 16 16 1 else s
  let s := stewardFields.foldl (fun s f => s.setFld (rClkField f) 4 3 1) s
  ({ s with alertN := false }).setStage 2

/-- Network recovery (R476): only the steward fields are lit, and no image runs. -/
def State.enterRecovery (s : State) (reason : Nat) : State :=
  let s := (otherFields.filter (fun f => decide (s.fieldState f ≠ 2))).foldl (fun s f => s.fieldDark f) s
  let s := { s with boot := { s.boot with image := [], watchdog := false } }
  ((s.setFld rSecBoot 23 16 reason).setReg rSecImg 0).setStage 9

/-- MAP (R457, R465, R470): the blocks in force, the repair map, the addresses and the MACsec mode that the configuration sets. -/
def State.bootMap (s : State) : State :=
  let (ca, cb) := slotsOf objConfig
  let (ra, rb) := slotsOf objRoster
  let cfg := pickSlot configValid (s.slotObject ca 0x3E000) (s.slotObject cb 0x3E000)
  let ros := pickSlot (fun b _ => rosterValid cfg b) (s.slotObject ra 0x3E000) (s.slotObject rb 0x3E000)
  let s := { s with repair := s.flashRepair, boot := { s.boot with config := cfg, applied := cfg, roster := ros } }
  let on := !cfg.isEmpty && decide (leAt cfg (8192 + 2592) 1 = 1) && cakOk s.service s.noIdent cfg
  (s.showBlocks.setFld rShadowDev 6 6 (if on then 1 else 0)).setStage 4

/-- TEST (R457, R460, R532): failing routers and service units enter the repair map, and the tables are built for the fields that FIELDS
will light. -/
def State.bootTest (s : State) (o : BootObs) : State :=
  if !o.pathToHost then s.halt
  else
    let s := s.note (fun r => { r with
      deadRouters := o.deadRouters.foldl (fun l t => insertNat l t.key) r.deadRouters
      deadUnits := o.deadUnits.foldl (fun l t => insertNat l t.key) r.deadUnits })
    let s := s.commitTables
    let out := if s.bootMode = 2 then otherFields else otherFields.filter (fun f => s.repair.retiredFields.contains f)
    let tables : TableBasis := { s.tables with penumbra := [], umbra := out }
    { s with tables := tables }.setStage 5

/-- FULLTEST scans every field before IMAGE (R456, R459, R443). -/
def State.bootScan (s : State) (o : BootObs) : State :=
  (presentFields.filter (fun f => !s.repair.retiredFields.contains f)).foldl (fun s f =>
    let (s, retired) := s.judgeScan f o.failedTiles o.failedSpills
    if retired then s.setFld (rPwrField f) 27 26 1 else s) s

/-- FIELDS (R433, R435, R457): the fields are lit, every tile is reset and every loam column zeroed. -/
def State.bootFields (s : State) (o : BootObs) : State :=
  if s.bootMode = 2 then s.enterRecovery 1
  else
    let fs := otherFields.filter (fun f => !s.repair.retiredFields.contains f)
    let s := fs.foldl (fun s f => (s.setFld (rPwrField f) 27 26 0).setFld (rClkField f) 4 3 1) s
    let s := { s with tiles := [], mem := [] }
    (if s.bootMode = 1 then s.bootScan o else s).setStage 6

/-- IMAGE (R457, R469, R476): the image is read, hashed and verified, and Topsoil starts. -/
def State.bootImage (s : State) : State :=
  let img := s.slotObject imageSlot 0x3FFE000
  if leAt img 0 4 ≠ 0x4A424F56 then s.enterRecovery 2
  else if decide (objKind img ≠ objTopsoil) || decide (s.objCode img ≠ 0) then s.enterRecovery 3
  else ({ s with boot := { s.boot with image := img, tries := 0 } }.setReg rSecImg (BitVec.ofNat 64 (objVersion img))).setStage 7

/-- BOOT_STAGE (R457 to R462): the stage in progress completes. Before READY a failing Bedrock pair stops boot. -/
def execBootStage (obs : BootObs) (s : State) : Out :=
  if !(s.boot.running && s.supply.steward && (decide (s.stage = 0) || (decide (2 ≤ s.stage) && decide (s.stage ≤ 6)))) then
    .refused (.notEnabled "BOOT_STAGE")
  else if !obs.bedrockOk then .next s.halt
  else match s.stage with
    | 0 => .next (match refFound obs.refclkOk obs.crystalOk with
        | some n => s.startRef n
        | none => { (s.setStage 1).alarm 0x0002 wholeModule (s.reg rClkRef).toNat with alertN := true })
    | 2 => .next ((s.setFld rSecBoot 2 2 (if obs.identOk then 0 else 1)).setStage 3)
    | 3 => .next s.bootMap
    | 4 => .next (s.bootTest obs)
    | 5 => .next (s.bootFields obs)
    | _ => .next s.bootImage

/-- REFWAIT_RETRY (R458): both sources are judged again. -/
def execRefwaitRetry (refclkOk crystalOk : Bool) (s : State) : Out :=
  when_ "REFWAIT_RETRY" (s.boot.running && decide (s.stage = 1)) (match refFound refclkOk crystalOk with
    | some n => s.startRef n
    | none => s)

/-- TOPSOIL_READY (R455, R457, R474): the watchdog is armed, and the report for facet link-up is signed. -/
def execTopsoilReady (s : State) : Out :=
  when_ "TOPSOIL_READY" (s.boot.running && decide (s.stage = 7)) (
    let s := s.setStage 8
    { s with boot := { s.boot with watchdog := true, answered := s.cycle, report := s.attestation 0 } })

/-- TOPSOIL_START_TIMEOUT (R460): Topsoil is started once more, or recovery follows. -/
def execTopsoilStartTimeout (s : State) : Out :=
  when_ "TOPSOIL_START_TIMEOUT" (s.boot.running && decide (s.stage = 7))
    (if s.boot.tries = 0 then { s with boot := { s.boot with tries := 1 } } else s.enterRecovery 4)

/-! ### Topsoil (R454, R455) -/

/-- Topsoil runs. -/
def State.topsoilRuns (s : State) : Bool := s.boot.running && decide (s.stage = 8) && !s.frozen

/-- WATCHDOG_ANSWER (R455). -/
def execWatchdogAnswer (s : State) : Out :=
  when_ "WATCHDOG_ANSWER" (s.topsoilRuns && s.boot.watchdog) ({ s with boot := { s.boot with answered := s.cycle } })

/-- A refused request: an ALARM, whose ARG names the request in a way the spec does not lay out. -/
def State.refuseTopsoil (s : State) : State :=
  let (v, s) := s.takeFree
  s.alarm 0x000D wholeModule v.toNat

/-- TOPSOIL_REQUEST (R454, R455): what the table lets Topsoil write, sign or ask for is served; what it reserves for Bedrock is refused. -/
def execTopsoilRequest (req : TopReq) (s : State) : Out :=
  when_ "TOPSOIL_REQUEST" s.topsoilRuns (match req with
    | .sign => s
    | .fence p cause => if s.plotValid p && decide (1 ≤ cause) && decide (cause ≤ 13) then s.fence p cause 0xFFFF else s.refuseTopsoil
    | .resetPlot p => if s.plotValid p then s.askPlot p else s.refuseTopsoil
    | .powerWrite a v =>
      if decide (a = rPwrCapSet) || decide (a = rPwrBf) || (regIdx (rPwrPlot 0) 8 64 a).isSome then s.writeReg a v else s.refuseTopsoil
    | .secWrite | .flashWrite | .tableWrite | .safetyWrite | .afterimage | .keys => s.refuseTopsoil)

/-! ### The TAP (R456) -/

/-- TAP_ACCESS (R456): what shifts out. A private instruction acts as BYPASS outside SERVICE, and BYPASS shifts out the 0 that IEEE 1149.1
has it capture; the device's other shift registers hold what the spec does not give. -/
def execTapAccess (code : TapInstr) (s : State) : Out :=
  when_ "TAP_ACCESS" s.supply.aux (
    let bypass := match code with
      | .bypass => true
      | .priv => !(s.boot.running && s.service)
      | .sample | .preload | .extest | .idcode => false
    if bypass then s.hostOut (.tdo 0)
    else
      let (v, s) := s.takeFree
      s.hostOut (.tdo (v.setWidth 32)))

end Sys2Proof.Machine
end

