-- ==== Sys2Proof/Machine/Afterimage.lean ====
section
/-!
DEFINITION. The afterimage: what the dump walkers take of a frozen device, and every byte of it by offset (R445 to R449, R351).
-/
namespace Sys2Proof.Machine

/-! ### What is taken (R446) -/

/-- Sites that the walkers reach: those of powered fields whose router works. -/
def State.siteRead (s : State) (t : Site) : Bool := t.onWafer && !s.inUmbra t && !s.repair.deadRouters.contains t.key
def State.sitesRead (s : State) : Nat := countTiles s.siteRead
def allSites : Nat := countTiles Site.onWafer

/-- Every register address (R524). -/
def regAddrs : List Nat := regTable.flatMap (fun r => (List.range r.count).map (fun i => r.first + r.stride * i))

/-- What the walkers take; the figure is that of the freeze, the rest is held since then. -/
def State.snapshot (s : State) (cycle : Nat) : AiSnap :=
  let n := s.sitesRead
  { cause := s.fld rRasAi 59 56, cycle := cycle, sites := n, lost := allSites - n, sreg := s.sreg
    shown := (regAddrs.filter (fun a => decide (s.readReg a ≠ s.reg a))).map (fun a => (a, s.readReg a))
    tiles := s.tiles, routers := s.routers, repair := s.repair, plots := s.plots, alarms := s.telem.alarms
    events := s.telem.events, noIdent := s.noIdent, service := s.service }

/-- AFTERIMAGE_SIGNED (R446). -/
def execAfterimageSigned (s : State) : Out :=
  whenSome "AFTERIMAGE_SIGNED" s.aiDue (fun cycle => when_ "AFTERIMAGE_SIGNED" s.frozen (
    let x := s.snapshot cycle
    let s := (s.setFld rRasAi 63 63 1).setFld rRasAi 31 0 x.sites
    { s with ai := some x, aiDue := none }))

/-! ### Its bytes (R447, R448) -/

def aiTotal : Nat := 0x64200000

/-- The device as the walkers found it. -/
def AiSnap.device (x : AiSnap) : State :=
  { State.reset with sreg := x.sreg, tiles := x.tiles, routers := x.routers, repair := x.repair, plots := x.plots, cycle := x.cycle }

/-- A byte of the afterimage that the spec does not lay out. -/
def AiSnap.open (x : AiSnap) (o : Nat) : Byte := (Config.freeOf 300 x.cycle o).setWidth 8

def AiSnap.reg (x : AiSnap) (a : Nat) : Dword := mapGet (fun a => x.device.reg a) x.shown a

/-- Byte i of a little-endian number. -/
def byteOf (n i : Nat) : Byte := BitVec.ofNat 8 (n / 256 ^ i)

/-- A telemetry record (R481). -/
def recBytes (r : TRec) : List Byte :=
  leBytes 1 r.cls ++ leBytes 1 (if r.multi then 1 else 0) ++ leBytes 2 r.code ++ leBytes 4 r.seq ++ leBytes 8 r.cycle ++
    leBytes 4 r.source.toNat ++ leBytes 2 r.rep ++ leBytes 2 r.lost ++ leBytes 8 r.arg.toNat

/-- A record put into a list in the order of its first occurrence. -/
def insertRec (r : TRec) : List TRec → List TRec
  | [] => [r]
  | a :: l => if r.cycle < a.cycle then r :: a :: l else a :: insertRec r l

/-- The latest ALARM and EVENT records, oldest first. -/
def AiSnap.records (x : AiSnap) : List TRec :=
  let l := (x.alarms ++ x.events).foldl (fun l r => insertRec r l) []
  l.drop (l.length - 32768)

/-- The kind of a site (R448). -/
def siteKind (t : Site) : Nat :=
  if t.isTile then 0 else if t.isSpill then 1 else if t.isSteward then 7
  else match t.lx, t.ly with
    | 2, 2 => 5
    | 12, 27 => 2
    | 27, 12 => 2
    | 17, 22 => 3
    | 22, 17 => 4
    | _, _ => 6

/-- The power state of a site, in a code that the spec does not give. -/
def powerCode (p : TilePower) : Nat := (Config.freeOf 301 (match p with | .active => 0 | .idle => 1 | .nap => 2 | .dark => 3) 0).toNat % 256

/-- The core's words of a site record. -/
def State.coreWords (s : State) (t : Site) : List Word :=
  let c := s.core t
  c.regs.toList ++ c.bank.toList ++ [c.preds.setWidth 32, c.pc.setWidth 32] ++ (List.range 14).map (fun n => s.special t n) ++
    (List.range 8).map (fun q => (s.queue t q).icnt)

/-- A byte of a tile's local window; the value of a 4 B register stands in the low half of what a read gives. -/
def State.ctrlByte (s : State) (t : Site) (a : Nat) : Byte :=
  match ctrlReg a with
  | some (_, first) => byteOf (s.ctrlRead t first).toNat (a - first)
  | none => 0

/-- The header of a grain (R21). -/
def grainHeader (g : Grain) : Nat :=
  g.rsv.toNat * 2 ^ 59 + (if g.last then 2 ^ 58 else 0) + g.seq.toNat * 2 ^ 53 + g.conn.toNat * 2 ^ 43 + g.kind.toNat * 2 ^ 39 +
    g.cls.toNat * 2 ^ 36 + g.sy.toNat * 2 ^ 27 + g.sx.toNat * 2 ^ 18 + g.dy.toNat * 2 ^ 9 + g.dx.toNat

/-- Entry k of an input buffer; an empty one holds what the spec does not say. -/
def InPort.entry (i : InPort) (vc k : Nat) : Option Grain :=
  ((match vc with | 0 => i.req | 1 => i.rpl | 2 => i.dat | _ => i.esc)[k]?).map (fun b => b.grain)

/-- A byte of a router's input buffers: its header, and the bytes of a payload that carries data. -/
def State.bufferByte (s : State) (t : Site) (n : Nat) : Option Byte :=
  let port : Port := match n / 1280 with | 0 => .north | 1 => .east | 2 => .south | 3 => .west | _ => .loc
  match ((s.router t).inp port).entry (n / 320 % 4) (n / 40 % 8) with
  | none => none
  | some g =>
    if n % 40 < 8 then some (byteOf (grainHeader g) (n % 40))
    else match g.body with
      | .data bs => some (bs.getD (n % 40 - 8) 0)
      | _ => none

/-- Byte n of a site record. -/
def AiSnap.siteByte (x : AiSnap) (t : Site) (n o : Nat) : Byte :=
  let s := x.device
  if !t.onWafer then 0
  else if !s.siteRead t then (if n = 6 then byteOf ((x.open o).toNat / 2 * 2) 0 else x.open o)
  else if n < 4 then byteOf (t.px + t.py * 2 ^ 16) n
  else if n = 4 then byteOf (siteKind t) 0
  else if n = 5 then (if t.isTile then byteOf (powerCode (s.tile t).power) 0 else x.open o)
  else if n = 6 then 1
  else if n < 0x40 then 0
  else if !decide (n < 0x1B00) && decide (n < 0x3400) then (s.bufferByte t (n - 0x1B00)).getD (x.open o)
  else if !decide (n < 0x3600) && t.isTile then 0
  else if !t.isTile then x.open o
  else if n < 0x140 then byteOf ((s.coreWords t).getD ((n - 0x40) / 4) 0).toNat (n % 4)
  else if decide (0x200 ≤ n) && decide (n < 0x340) then s.ctrlByte t (0x70000 + (n - 0x200))
  else if decide (0x400 ≤ n) && decide (n < 0x800) then s.ctrlByte t (0x71000 + (n - 0x400))
  else if decide (0x800 ≤ n) && decide (n < 0x820) then s.ctrlByte t (0x72000 + (n - 0x800))
  else if decide (0x900 ≤ n) && decide (n < 0x12C0) then s.ctrlByte t (0x78000 + (n - 0x900))
  else x.open o

/-- A byte of the afterimage behind the header. -/
def AiSnap.behind (x : AiSnap) (o : Nat) : Byte :=
  if o < 0xE2000 then byteOf (x.reg (0x7f0000000000 + (o - 0x2000) / 8 * 8)).toNat (o % 8)
  else if o < 0x100000 then x.open o
  else if o < 0x200000 then
    let n := o - 0x100000
    (match x.records[n / 32]? with | some r => (recBytes r).getD (n % 32) 0 | none => 0)
  else
    let i := (o - 0x200000) / 0x4000
    x.siteByte { px := i % 320, py := i / 320 } ((o - 0x200000) % 0x4000) o

/-- The header: 8 KiB, signed over its first 512 bytes; without an identity the signature is zeros (R462). -/
def AiSnap.header (x : AiSnap) : List Byte :=
  let body := (List.range (aiTotal - 0x2000)).map (fun i => x.behind (0x2000 + i))
  let key := if x.noIdent then List.replicate 64 (0 : Byte) else sha3Bytes (Config.identityKey x.service)
  let h := leBytes 4 1 ++ leBytes 1 x.cause ++ leBytes 3 0 ++ leBytes 8 x.cycle ++ leBytes 4 aiTotal ++ leBytes 4 x.sites ++
    leBytes 4 x.lost ++ leBytes 4 0 ++ leBytes 8 (x.reg rSecImg).toNat ++ key ++ sha3Bytes body
  let h := takeAt h 0 0x200
  takeAt (h ++ (if x.noIdent then [] else takeAt (Config.mldsaSign x.service (sha3Bytes h)) 0 Config.sigBytes)) 0 0x2000

/-- n bytes of the afterimage from an offset. -/
def AiSnap.bytes (x : AiSnap) (off n : Nat) : List Byte :=
  let h := if off < 0x2000 then x.header else []
  (List.range n).map (fun i => if off + i < 0x2000 then h.getD (off + i) 0 else x.behind (off + i))

/-! ### DUMP_FETCH (R351, R449) -/

/-- The code that keeps a part from being written, or 0. -/
def State.dumpBad (s : State) (off len qpn : Nat) : Nat :=
  if s.fld rRasAi 63 63 = 0 then stState
  else if aiTotal < off + len then stAddr
  else if (qpOf qpn).any s.qpReady then 0 else stRdma

/-- Part i of the command: its range is written to the host, or it fails. -/
def State.dumpPart (s : State) (q : Nat) (c : HostCmd) (i : Nat) : State :=
  let b := 32 * i
  let off := c.num b 8
  let len := c.num (b + 8) 8
  let qpn := c.num (b + 28) 4
  let bad := s.dumpBad off len qpn
  match s.ai with
  | none => s.endPart q c stState []
  | some x =>
    if bad ≠ 0 then s.endPart q c bad []
    else
      let n := (qpOf qpn).getD 0
      let m : HostOut := .rdmaWrite qpn (BitVec.ofNat 64 (c.num (b + 16) 8)) (BitVec.ofNat 32 (c.num (b + 24) 4)) (x.bytes off len)
      let r : Rdma := { queue := q, write := true, off := off, len := len, qp := n, tries := 0, msg := m }
      let s := { s.advanceSent n len with rdma := s.rdma ++ [r] }
      (s.onCommand q c.seq (fun c => { c with started := true })).hostOut m

/-- DUMP_FETCH (R351): the next part. -/
def execDumpFetch (q : Nat) (s : State) : Out :=
  hostRow "DUMP_FETCH" opDump q s (fun c =>
    if s.inFlight q then .refused (.notEnabled "DUMP_FETCH") else .next (s.dumpPart q c c.part))

end Sys2Proof.Machine
end

