-- ==== Sys2Proof/Machine/HostReg.lean ====
section
/-!
DEFINITION. The arrival of host commands, the register commands, QUERY, and the delivery of signed objects (R340, R345 to R357, R428,
R446, R474, R477, R478).
-/
namespace Sys2Proof.Machine

/-! ### Arrival (R345, R346, R357) -/

/-- EXP of a queue. -/
def State.expSeq (s : State) (q : Nat) : Nat := s.fld (rHostQstat q) 63 32

/-- The payload is a COMMAND frame that its header describes, for a queue that admits commands. -/
def State.frameGood (s : State) (b : List Byte) : Bool :=
  decide (32 ≤ b.length) && decide (b.length ≤ 8224) && decide (32 + leAt b 6 2 ≤ b.length) && decide (leAt b 0 2 = 0x5648) &&
    decide (leAt b 2 1 = 1) && decide (leAt b 3 1 = 1) && decide (leAt b 4 1 < Config.hostQueues) && s.queueEn (leAt b 4 1)

/-- The command of a frame. -/
def frameCmd (b : List Byte) (port : Nat) : HostCmd :=
  { seq := leAt b 8 4, op := leAt b 5 1, timeout := leAt b 12 4, cookie := BitVec.ofNat 64 (leAt b 16 8), npart := leAt b 26 1
    flags := leAt b 27 1, port := port, body := takeAt b 32 (leAt b 6 2), started := false, part := 0, codes := [], data := [], stop := none }

/-- EXP and the outstanding count of a queue, as QUERY answers them. -/
def State.queueAnswer (s : State) (q : Nat) : List Byte := leBytes 4 (s.expSeq q) ++ leBytes 4 (s.hostq q).cmds.length

/-- A QUERY of type QUEUE with RESYNC: it is answered whatever its SEQ, and consumes no number. -/
def isResync (c : HostCmd) : Bool := c.flags.testBit 0 && decide (c.op = opQuery) && decide (c.num 0 1 = 5)

/-- A command of a queue that network recovery does not serve (R357). -/
def State.recoveryTurns (s : State) (q : Nat) (c : HostCmd) : Bool :=
  decide (s.stage = 9) &&
    !(s.queueDev q && (decide (c.op = opRecover) || (decide (c.op = opQuery) && (decide (c.num 0 1 = 4) || decide (c.num 0 1 = 5)))))

/-- A command is accepted: EXP moves on, and the receipt leaves. One that cannot run at all completes at once. -/
def State.acceptCmd (s : State) (q : Nat) (c : HostCmd) : State :=
  let s := (s.onHostq q (fun h => { h with cmds := h.cmds ++ [c] })).count (rHostQstat q) 63 32 1
  let s := s.receipt c.port q c.op c.seq c.cookie c.npart stOk []
  if s.recoveryTurns q c then s.complete q c stRecovery 0 [] else s.sweep 32 q

/-- A duplicate: the stored completion goes again, or a receipt while the command is outstanding; its answers now leave by this port. -/
def State.duplicate (s : State) (q : Nat) (c : HostCmd) : State :=
  match (s.hostq q).done.find? (fun d => decide (d.seq = c.seq)) with
  | some d => s.sendFrame c.port d.frame
  | none =>
    if s.outstanding q c.seq then
      (s.onCommand q c.seq (fun x => { x with port := c.port })).receipt c.port q c.op c.seq c.cookie c.npart stOk (leBytes 8 0)
    else s

/-- A COMMAND frame is judged by its SEQ. -/
def State.judgeSeq (s : State) (q : Nat) (c : HostCmd) : State :=
  let back := (s.expSeq q + 2 ^ 32 - c.seq) % 2 ^ 32
  if isResync c then
    s.sendFrame c.port (mkFrame 2 q c.op c.seq c.cookie stOk c.npart 0 (leBytes 8 0 ++ s.queueAnswer q))
  else if back = 0 then
    (if (s.hostq q).cmds.length < 32 then s.acceptCmd q c else s.receipt c.port q c.op c.seq c.cookie c.npart stBusy [])
  else if back ≤ 64 then s.duplicate q c
  else s.receipt c.port q c.op c.seq c.cookie c.npart stSeqgap (leBytes 4 (s.expSeq q))

/-- VHCP_COMMAND_ARRIVAL (R340, R345, R346, R357): in service and in network recovery; what is not a command for a queue that admits it is
discarded. -/
def execVhcpCommandArrival (e : Ether) (payload : List Byte) (s : State) : Out :=
  onUnit (decide (e.port < 2)) (when_ "VHCP_COMMAND_ARRIVAL" (s.linkOn e.port) (
    if s.takes e && s.frameGood payload && (decide (s.stage = 8) || decide (s.stage = 9)) then
      s.judgeSeq (leAt payload 4 1) (frameCmd payload e.port)
    else s.dropFrame e.port))

/-! ### Registers (R351, R354) -/

/-- REG_READ (R351): the next part. -/
def execRegRead (q : Nat) (s : State) : Out :=
  hostRow "REG_READ" opRegRead q s (fun c =>
    let a := c.num (8 * c.part) 8
    let code := s.regAccess q a false
    .next (s.endPart q c code (leBytes 8 (if code = 0 then (s.readReg a).toNat else 0))))

/-- REG_WRITE (R351, R355): the next part takes effect at this edge. A write that resets the device, or ends the command, leaves no part
to end. -/
def execRegWrite (q : Nat) (s : State) : Out :=
  hostRow "REG_WRITE" opRegWrite q s (fun c =>
    let a := c.num (16 * c.part) 8
    let code := s.regAccess q a true
    if code ≠ 0 then .next (s.endPart q c code [])
    else
      let s := s.writeReg a (BitVec.ofNat 64 (c.num (16 * c.part + 8) 8))
      .next (if s.outstanding q c.seq then s.endPart q c stOk [] else s))

/-! ### QUERY (R351, R474) -/

/-- The answer of an attestation query: a new report signed at offset 0, else the rest of the queue's report; none where it has none. -/
def State.attestQuery (s : State) (q : Nat) (c : HostCmd) : Option (State × List Byte) :=
  let off := c.num 4 4
  if off = 0 then
    let r := s.attestation c.cookie.toNat
    some (s.onHostq q (fun h => { h with report := some r }), r.take 8000)
  else (s.hostq q).report.map (fun r => (s, (r.drop off).take 8000))

/-- The data that a QUERY returns, by its TYPE. -/
def State.queryData (s : State) (q : Nat) (c : HostCmd) : List Byte :=
  match c.num 0 1 with
  | 0 => [rPlotRect q, rPlotMapinfo q, rPlotPlace q, rPlotPlaceCfg q].flatMap (fun a => leBytes 8 (s.readReg a).toNat)
  | 1 => (((s.plot q).record.drop (c.num 4 4)).take 8000)
  | 2 => (List.range 8).flatMap (fun w => leBytes 8 (s.readReg (rRasFlt q w)).toNat)
  | 3 => leBytes 8 (s.readReg (rPwrEplot q)).toNat ++ leBytes 8 (s.readReg (rPwrEqueue q)).toNat
  | _ => s.queueAnswer q

/-- QUERY (R347, R351). -/
def execQuery (q : Nat) (s : State) : Out :=
  hostRow "QUERY" opQuery q s (fun c =>
    if c.num 0 1 = 4 then
      (match s.attestQuery q c with
        | some (s, bs) => .next (s.finish q c stOk 0 bs)
        | none => .next (s.finish q c stState 0 []))
    else .next (s.finish q c stOk 0 (s.queryData q c)))

/-! ### RECOVER (R477, R478) -/

def State.onBoot (s : State) (f : Boot → Boot) : State := { s with boot := f s.boot }

/-- A range put into a list of ranges that rise and stand apart. -/
def addRange (a b : Nat) : List (Nat × Nat) → List (Nat × Nat)
  | [] => [(a, b)]
  | (x, y) :: l => if y < a then (x, y) :: addRange a b l else if b < x then (a, b) :: (x, y) :: l else addRange (min a x) (max b y) l

def Delivery.received (d : Delivery) : Nat := sumOf (fun (r : Nat × Nat) => r.2 - r.1) d.got
def Delivery.complete (d : Delivery) : Bool := decide (d.total = 0) || decide (d.got = [(0, d.total)])

/-- The loam of a delivery, addressed as a staged package is. -/
def Delivery.pkg (d : Delivery) : Package := { size := d.total, extents := d.extents, written := [] }

/-- The object that a delivery has collected. -/
def State.delivered (s : State) (d : Delivery) : List Byte :=
  if d.extents.isEmpty then (List.range d.total).map (fun i => mapGet (fun _ => 0) d.cells i) else s.pkgBytes d.pkg 0 d.total

/-- A delivery ends or is discarded: its loam is free once it has been zeroed (R435). -/
def State.dropDelivery (s : State) : State :=
  match s.boot.delivery with
  | none => s
  | some d =>
    let z : List (Nat × Nat × Nat × Nat) := d.extents.map (fun e => (64, e.site, e.off, k64))
    ({ s with zeroing := s.zeroing ++ z }.onBoot (fun b => { b with delivery := none })).setFld rSecRecov 0 0 0

/-- 64 KiB pieces of spill SRAM that recovery collects an object in: 204 sites of 1 MiB. -/
def recoverySpill : Nat := 204 * 16

/-- A delivery of TOTAL bytes starts, or none where it has no room; then the extents that are free. -/
def State.startDelivery (s : State) (q total kind : Nat) : Option State :=
  let n := (total + k64 - 1) / k64
  let room : Option (List Extent) :=
    if s.stage = 9 then (if n ≤ recoverySpill then some [] else none) else s.takeExtents 64 n
  room.map (fun l =>
    let d : Delivery := { queue := q, total := total, extents := l, got := [], cells := [] }
    ((s.onBoot (fun b => { b with delivery := some d })).setFld rSecRecov 0 0 1).setFld rSecRecov 3 2 kind)

/-- A chunk's bytes are collected. -/
def State.collect (s : State) (d : Delivery) (off : Nat) (bs : List Byte) : State × Delivery :=
  let got := if bs.isEmpty then d.got else addRange off (off + bs.length) d.got
  let cells := if d.extents.isEmpty then
      bs.zipIdx.foldl (fun (m : List Host.Cell) e => mapPut m (off + e.2) e.1) d.cells
    else d.cells
  let d : Delivery := { d with got := got, cells := cells }
  let s := if d.extents.isEmpty then s else s.putPkg d.pkg off bs
  ((s.onBoot (fun b => { b with delivery := some d })).setFld rSecRecov 63 36 d.received, d)

/-- The image slot is invalid while it is written (R478): by an absent MAGIC or by a header that fails R469, which the spec leaves open. -/
def State.spoilImage (s : State) : State :=
  let (v, s) := s.takeFree
  if v.toNat % 2 = 0 then s.setFlash imageSlot (leBytes 4 0)
  else s.setFlash imageSlot (leBytes 4 0x4A424F56 ++ leBytes 4 1 ++ leBytes 8 0 ++ leBytes 4 0xFFFFFFFF)

/-- The object is whole: it is verified, and its write begins, or the command is refused with a code of R477. -/
def State.judgeObject (s : State) (q : Nat) (c : HostCmd) (d : Delivery) : State :=
  let obj := s.delivered d
  let kind := leAt obj 4 1
  let s := (s.dropDelivery).setFld rSecRecov 3 2 kind
  let code := s.objCode obj
  if code ≠ 0 then (s.setFld rSecRecov 7 4 (8 + code - 1)).finish q c stRefused code []
  else
    let w : FlashWrite := { queue := q, kind := kind, obj := obj }
    let s := if kind = objTopsoil then s.spoilImage else s
    let s := ((s.onBoot (fun b => { b with writing := some w })).setFld rSecRecov 1 1 1).setFld rSecRecov 7 4 0
    s.onCommand q c.seq (fun c => { c with started := true })

/-- The field of a chunk that R477 does not allow, as the byte offset of BADOP; none for a chunk that is taken. -/
def chunkBad (open_ : Option Delivery) (q off total len : Nat) : Option Nat :=
  if total < off + len then some 32
  else match open_ with
    | some d => if d.queue ≠ q then some 4 else if decide (off ≠ 0) && decide (d.total ≠ total) then some 40 else none
    | none => if off = 0 then none else some 32

/-- RECOVER (R477): a chunk. -/
def execRecover (q : Nat) (s : State) : Out :=
  hostRow "RECOVER" opRecover q s (fun c =>
    let off := c.num 0 8
    let total := c.num 8 8
    let bs := c.body.drop 16
    if c.started || s.boot.writing.isSome || !(decide (s.stage = 8) || decide (s.stage = 9)) then .refused (.notEnabled "RECOVER")
    else match chunkBad s.boot.delivery q off total bs.length with
      | some n => .next (s.finish q c stBadop n [])
      | none =>
        if off = 0 then
          (if s.boot.delivery.isSome && !s.dropDelivery.zeroing.isEmpty then .next s.dropDelivery
           else if !s.zeroing.isEmpty then .refused (.notEnabled "RECOVER")
           else match s.dropDelivery.startDelivery q total (leAt bs 4 1) with
            | none => .next (s.finish q c stNospace (if s.stage = 9 then recoverySpill else s.extentsFree 64) [])
            | some s => match s.boot.delivery with
              | none => .refused (.notEnabled "RECOVER")
              | some d =>
                let (s, d) := s.collect d off bs
                .next (if d.complete then s.judgeObject q c d else s.finish q c stOk 0 []))
        else match s.boot.delivery with
          | none => .refused (.notEnabled "RECOVER")
          | some d =>
            let (s, d) := s.collect d off bs
            .next (if d.complete then s.judgeObject q c d else s.finish q c stOk 0 []))

/-- The object's write is whole, and it is in force as R472 says; a TOPSOIL image written in recovery starts at once. -/
def State.objectWritten (s : State) (w : FlashWrite) : State :=
  if w.kind = objTopsoil then
    let s := s.setFlash imageSlot w.obj
    if s.stage = 9 then (s.setFld rSecBoot 23 16 0).setStage 6 else s
  else
    let s := s.setFlash (s.writeSlot w.kind) w.obj
    let s := if w.kind = objConfig then s.onBoot (fun b => { b with config := w.obj }) else s.onBoot (fun b => { b with roster := w.obj })
    s.showBlocks

/-- FLASH_WRITE_DONE (R472, R477, R478): the write ends, and the chunk that completed the object completes, unless its timeout has. -/
def execFlashWriteDone (ok : Bool) (s : State) : Out :=
  whenSome "FLASH_WRITE_DONE" s.boot.writing (fun w =>
    let s := (s.onBoot (fun b => { b with writing := none })).setFld rSecRecov 1 1 0
    let s := if ok then (s.objectWritten w).setFld rSecRecov 7 4 1 else s.setFld rSecRecov 7 4 0xE
    match (s.hostq w.queue).front with
    | some c =>
      if decide (c.op = opRecover) && c.started then
        .next (if ok then s.finish w.queue c stOk 0 [] else s.finish w.queue c stRefused 7 [])
      else .next s
    | none => .next s)

end Sys2Proof.Machine
end

