-- ==== Sys2Proof/Machine/Ve.lean ====
section
/-!
DEFINITION. The vector engine (R83 to R85, R170 to R173).
-/
namespace Sys2Proof.Machine

/-! ### The descriptor (R170) -/

def veImm (d : Desc) : Nat := Desc.field d 127 96
def veBimm (d : Desc) : Bool := decide (Desc.field d 95 95 = 1)
def veFn (d : Desc) : Nat := Desc.field d 94 89
def veL (d : Desc) : Nat := Desc.field d 88 71 + 1
def veC (d : Desc) : Nat := rowOff (Desc.field d 70 58)
def veB (d : Desc) : Nat := rowOff (Desc.field d 57 45)
def veA (d : Desc) : Nat := rowOff (Desc.field d 44 32)
def veRl (d : Desc) : Nat := Desc.field d 113 96 + 1

def veUnary (fn : Nat) : Bool := decide (9 ≤ fn) && decide (fn ≤ 0x0D)
def veReduces (fn : Nat) : Bool := decide (0x18 ≤ fn) && decide (fn ≤ 0x1B)
def veAssigned (fn : Nat) : Bool :=
  decide (fn ≤ 0x0D) || (decide (0x10 ≤ fn) && decide (fn ≤ 0x15)) || veReduces fn
/-- The operations that an integer FA allows (R171). -/
def veIntOk (fn : Nat) : Bool :=
  [0x00, 0x01, 0x02, 0x04, 0x05, 0x0A, 0x0B, 0x0D, 0x10, 0x11, 0x12, 0x13, 0x14, 0x15, 0x18, 0x19, 0x1A].contains fn
def isInt (c : Nat) : Bool := (intBits c).isSome
def veWrites (c : Nat) : Bool := fuWrites c || decide (c = 9) || decide (c = 10) || decide (c = 11)

/-- B is a vector of the store. -/
def veHasB (d : Desc) : Bool := !veUnary (veFn d) && !veReduces (veFn d) && !veBimm d

def veMatA (d : Desc) : Mat := { base := veA d, fmt := dFA d, rows := 1, len := veL d }
def veMatB (d : Desc) : Mat := { base := veB d, fmt := dFA d, rows := 1, len := veL d }
def veOutLen (d : Desc) : Nat := if veReduces (veFn d) then veL d / veRl d else veL d
def veMatC (d : Desc) : Mat := { base := veC d, fmt := dFC d, rows := 1, len := veOutLen d }

def veCheck (s : State) (t : Site) (d : Desc) : Option Detected :=
  let fn := veFn d
  let noB := veUnary fn || veReduces fn
  let a := (0, veA d, (veMatA d).extent)
  let b := (1, veB d, (veMatB d).extent)
  let c := (2, veC d, (veMatC d).extent)
  let inPlace := decide (veC d = veA d) && decide (fmtBits (dFA d) = fmtBits (dFC d))
  firstFail ([descFault (headerBad d 1 0 || !veAssigned fn || (noB && (veBimm d || decide (veB d ≠ 0))) ||
      (veBimm d && decide (veB d ≠ 0)) ||
      (if veReduces fn then decide (Desc.field d 127 114 ≠ 0) else !(veBimm d) && decide (veImm d ≠ 0)))] ++
    formatChecks d [(decide (11 < dFA d) || (isInt (dFA d) && !veIntOk fn), 0, veA d),
      (!veWrites (dFC d) || (decide (fn = 8) && isInt (dFC d)), 2, veC d)] ++
    [(veReduces fn && decide (veL d % veRl d ≠ 0), det ecShape noOpnd 0)] ++
    addrChecks s t ([a] ++ (if veHasB d then [b] else []) ++ [c]) ++
    overlapChecks ((if inPlace then [] else [(c, a)]) ++ if veHasB d then [(c, b)] else []))

/-! ### Operands (R85, R172) -/

/-- The computation format: FP16, FP32 or INT32. -/
def veComp (d : Desc) : Nat :=
  if isInt (dFA d) then 11
  else if decide (dFA d = 1) && decide (dFC d = 1) && !veBimm d && !veReduces (veFn d) then 1 else 0

/-- An operand widened to FP32 (R85): r is the byte of its own rounding. -/
def widen (mode r : Nat) (v : Val) : Val × Nat :=
  match v with
  | .fin n m e =>
    let (mm, mq) := fFP32.maxMag
    if 0 < cmpVal (.fin false m e) (.fin false mm mq) then (.inf n, flOF ||| flNX) else roundTo 0 mode r v
  | v => (v, 0)

/-- An operand as the VE computes with it: formats other than FP32, FP16 and the integers are widened. -/
def veIn (d : Desc) (r : Nat) (v : Val) : Val × Nat :=
  if isInt (dFA d) || decide (dFA d ≤ 1) then (v, 0) else widen (dRnd d) r v

/-! ### Elementwise operations (R171) -/

/-- An operation on values; r is the random byte of the rounding into the computation format. -/
def veOp (d : Desc) (r : Nat) (a b c : Val) : Val × Nat :=
  let one := fun x : Bool => if x then Val.fin false 1 0 else Val.zero
  match veFn d with
  | 0x00 => opAdd a b
  | 0x01 => opSub a b
  | 0x02 => opMul a b
  | 0x03 => opDiv a b
  | 0x04 => opMin a b
  | 0x05 => opMax a b
  | 0x06 => opNum opMin a b
  | 0x07 => opNum opMax a b
  | 0x08 => opFma a b c
  | 0x09 => opSqrt a
  | 0x0A => (a.setNeg false, 0)
  | 0x0B => (a.negate, 0)
  | 0x0C => opRint (dRnd d) r a
  | 0x0D => (nanOf [a]).getD (a, 0)
  | fn => let (x, fl) := opCmp fn a b
          (one x, fl)

/-- The result converted: into the computation format with byte r0, then into FC with byte r1 (R100, R172). -/
def veOut (d : Desc) (r0 r1 : Nat) (v : Val × Nat) : Nat × Nat :=
  let comp := veComp d
  let (x, fl) := encodeVal comp (dRnd d) r0 (comp = 11) v.1
  if decide (dFC d = comp) then (x, v.2 ||| fl)
  else
    let (y, fy) := encodeVal (dFC d) (dRnd d) r1 (comp = 11) (decodeVal comp x)
    (y, v.2 ||| fl ||| fy)

/-- ABS and NEG in FA's own encoding (R171). -/
def signOp (c fn x : Nat) : Nat :=
  match fmtOf c with
  | none => x
  | some f =>
    let sb := 2 ^ (f.e + f.m)
    if decide (c = 3) && decide (x % sb = 0) then x
    else if fn = 0x0A then x % sb
    else if x.testBit (f.e + f.m) then x % sb else x % sb + sb

/-- Element j of an elementwise operation. -/
def veElem (s : State) (t : Site) (f : InFlight) (d : Desc) (j : Nat) : Except Detected (Nat × Nat) :=
  let rnd := fun k => draw f.seed 1 f.entry.ticket j k
  let fn := veFn d
  let ownSign := (decide (fn = 0x0A) || decide (fn = 0x0B)) && !isInt (dFA d) && decide (dFA d = dFC d)
  if ownSign then (rawElem s t 0 (veMatA d) 0 j).map (fun x => (signOp (dFA d) fn x, 0))
  else match elemVal s t 0 (veMatA d) 0 j with
    | .error e => .error e
    | .ok a =>
      let bv : Except Detected Val :=
        if veHasB d then elemVal s t 1 (veMatB d) 0 j
        else .ok (if veBimm d then (if isInt (dFA d) then .ofInt (decodeInt 32 (veImm d)) else decodeVal 0 (veImm d))
                  else .zero)
      let cv : Except Detected Val := if fn = 8 then elemVal s t 2 (veMatC d) 0 j else .ok .zero
      match bv, cv with
      | .error e, _ => .error e
      | _, .error e => .error e
      | .ok b, .ok c =>
        let (a, fa) := veIn d (rnd 2) a
        let (b, fb) := if veHasB d then veIn d (rnd 3) b else (b, 0)
        let (x, fl) := veOut d (rnd 0) (rnd 1) (veOp d (rnd 0) a b c)
        .ok (x, fl ||| fa ||| fb)

/-! ### Reductions (R173) -/

/-- A lane's partial result, what has been flagged, and the number of the next rounding. -/
structure RedSt where
  lanes : List (Option Val)
  flags : Nat
  k     : Nat

/-- Two partial results joined: a rounded sum, or a maximum or minimum, which rounds nothing. -/
def redJoin (fn mode : Nat) (rnd : Nat → Nat) (k : Nat) (a b : Val) : Val × Nat × Nat :=
  match fn with
  | 0x19 => let (v, fl) := opMax a b
            (v, fl, k)
  | 0x1A => let (v, fl) := opMin a b
            (v, fl, k)
  | _ =>
    let (v, fl) := opAdd a b
    let (x, fx) := roundTo 0 mode (rnd k) v
    (x, fl ||| fx, k + 1)

/-- Step 1: element i goes to lane i mod 64. -/
def redElem (fn mode : Nat) (rnd : Nat → Nat) (st : RedSt) (i : Nat) (v : Val) : RedSt :=
  let lane := (st.lanes.getD (i % 64) none)
  let (x, fl, k) : Val × Nat × Nat :=
    if fn = 0x1B then
      let (y, fy) := opFma v v (lane.getD .zero)
      let (z, fz) := roundTo 0 mode (rnd st.k) y
      (z, fy ||| fz, st.k + 1)
    else match lane with
      | none => (v, 0, st.k)
      | some a => redJoin fn mode rnd st.k a v
  { lanes := st.lanes.set (i % 64) (some x), flags := st.flags ||| fl, k := k }

/-- Step 2 for one distance h. -/
def redFold (fn mode : Nat) (rnd : Nat → Nat) (st : RedSt) (h : Nat) : RedSt :=
  (List.range h).foldl (fun st l => match st.lanes.getD l none, st.lanes.getD (l + h) none with
    | some a, some b =>
      let (x, fl, k) := redJoin fn mode rnd st.k a b
      { lanes := st.lanes.set l (some x), flags := st.flags ||| fl, k := k }
    | _, _ => st) st

/-- A row of values reduced in floating point and converted to FC. -/
def redFloat (d : Desc) (rnd : Nat → Nat) (vs : List Val) : Nat × Nat :=
  let fn := veFn d
  let mode := dRnd d
  let st := vs.zipIdx.foldl (fun st e => redElem fn mode rnd st e.2 e.1)
    { lanes := List.replicate 64 none, flags := 0, k := 0 }
  let st := [32, 16, 8, 4, 2, 1].foldl (redFold fn mode rnd) st
  let (x, fl) := encodeVal (dFC d) mode (rnd st.k) false ((st.lanes.getD 0 none).getD .zero)
  (x, st.flags ||| fl)

/-- A row of integers reduced and narrowed to FC (R96). -/
def redInt (d : Desc) (rnd : Nat → Nat) (vs : List Val) : Nat × Nat :=
  let is := vs.map (fun v => v.intAt 0)
  let pick := fun (f : Int → Int → Int) => match is with | [] => 0 | i :: l => l.foldl f i
  let (x, fl) := match veFn d with
    | 0x19 => ((BitVec.ofInt 32 (pick max)).toNat, 0)
    | 0x1A => ((BitVec.ofInt 32 (pick min)).toNat, 0)
    | _ => encodeInt 32 0 0 true (.ofInt (is.foldl (· + ·) 0))
  let (y, fy) := encodeVal (dFC d) (dRnd d) (rnd 0) true (.ofInt (decodeInt 32 x))
  (y, fl ||| fy)

/-- Row r of a reduction. -/
def veRow (s : State) (t : Site) (f : InFlight) (d : Desc) (r : Nat) : Except Detected (Nat × Nat) :=
  let n := veRl d
  let rnd := fun k => draw f.seed 1 f.entry.ticket r k
  match (List.range n).foldl (fun (a : Except Detected (List Val × Nat)) i =>
      match a with
      | .error e => .error e
      | .ok (vs, fl) => match elemVal s t 0 (veMatA d) 0 (r * n + i) with
        | .error e => .error e
        | .ok v => let (x, fx) := veIn d (rnd (0x80000000 + i)) v
                   .ok (x :: vs, fl ||| fx)) (.ok ([], 0)) with
  | .error e => .error e
  | .ok (vs, fl) =>
    let (x, fx) := if isInt (dFA d) then redInt d rnd vs.reverse else redFloat d rnd vs.reverse
    .ok (x, fl ||| fx)

/-! ### The command -/

def veRun (t : Site) (s : State) (f : InFlight) (d : Desc) : State × InFlight :=
  let (rs, fl, e) := if veReduces (veFn d) then collect (veRow s t f d) (veOutLen d) else collect (veElem s t f d) (veL d)
  let s := s.meetReads t 1 (dGen d) ((veMatA d).ranges ++ (if veHasB d then (veMatB d).ranges else []) ++
    if veFn d = 8 then (veMatC d).ranges else []) e
  let s := s.writeRows t (veMatC d) rs (dGen d)
  (s, f.finish fl e)

/-- VE_OPERATION (R171). -/
def execVeOperation (t : Site) (s : State) : Out :=
  engine "VE_OPERATION" 1 t (fun _ => true)
    { check := fun s d => veCheck s t d, pre := noPre, run := veRun t } s

end Sys2Proof.Machine
end

