-- ==== Sys2Proof/Machine/Ue.lean ====
section
/-!
DEFINITION. The update engine (chapter 9): UPDATE and its rules, schedules and freezing (R293 to R305), the orthogonalising
rule and its products on the TE (R300, R301), and REDUCE (R288 to R292).
-/
namespace Sys2Proof.Machine

/-! ### FP32 arithmetic, one rounding at a time -/

/-- A value with the flags gathered so far. -/
abbrev Flagged := Val × Nat

def one32 (f : Val → Val → Val × Nat) (a b : Flagged) : Flagged :=
  let r := f a.1 b.1
  let q := roundTo 0 0 0 r.1
  (q.1, a.2 ||| b.2 ||| r.2 ||| q.2)
def add32 (a b : Flagged) : Flagged := one32 opAdd a b
def sub32 (a b : Flagged) : Flagged := one32 opSub a b
def mul32 (a b : Flagged) : Flagged := one32 opMul a b
def div32 (a b : Flagged) : Flagged := one32 opDiv a b
def sqrt32 (a : Flagged) : Flagged := one32 (fun x _ => opSqrt x) a a
def v32 (w : Nat) : Flagged := (decodeVal 0 w, 0)
def bits32 (a : Flagged) : Nat := (encodeVal 0 0 0 false a.1).1
def int32v (n : Nat) : Flagged := (roundTo 0 0 0 (.ofInt n)).map id id
def one_ : Flagged := (.ofInt 1, 0)

/-- sign(u): +1 or −1, and ±0 for ±0 (R297). -/
def sign32 (a : Flagged) : Flagged :=
  match a.1 with
  | .nan .. => a
  | v => if v.isZero then a else ((Val.ofInt 1).setNeg v.neg, a.2)

/-- βᵗ by square and multiply from the most significant bit of t (R298). -/
def pow32 (b : Flagged) (t : Nat) : Flagged :=
  if t = 0 then one_
  else (List.range (Nat.log2 t)).reverse.foldl (fun r i =>
    let r := mul32 r r
    if t.testBit i then mul32 r b else r) b

/-! ### Group records (R294) -/

def ueRec (d : Desc) : Nat := 64 * Desc.field d 78 58
def ueT (d : Desc) : Nat := rowOff (Desc.field d 57 45)
def ueD (d : Desc) : Nat := rowOff (Desc.field d 44 32)

structure GroupRec where
  bytes : List Byte
  deriving DecidableEq, Repr

def recF (r : GroupRec) (off n : Nat) : Nat := leAt r.bytes off n
def recRule (r : GroupRec) : Nat := recF r 0 1
def recFlag (r : GroupRec) (b : Nat) : Bool := (recF r 1 1).testBit b
def recRows (r : GroupRec) : Nat := recF r 4 4
def recCols (r : GroupRec) : Nat := recF r 8 4
def recMaster (r : GroupRec) : Nat := 64 * recF r 16 4
def recWork (r : GroupRec) : Nat := 64 * recF r 20 4
def recM1 (r : GroupRec) : Nat := 64 * recF r 24 4
def recM2 (r : GroupRec) : Nat := 64 * recF r 28 4
def recSched (r : GroupRec) : Nat := 64 * recF r 32 4
def recMask (r : GroupRec) : Nat := 64 * recF r 36 4
def recEps (r : GroupRec) : Flagged := v32 (recF r 40 4)
def recGscale (r : GroupRec) : Flagged := v32 (recF r 44 4)
def recOscale (r : GroupRec) : Flagged := v32 (recF r 48 4)
def recOconn (r : GroupRec) : Nat := recF r 52 2
def recOport (r : GroupRec) : Nat := recF r 54 1 % 64
def recOtree (r : GroupRec) : Nat := recF r 55 1
def recOwork (r : GroupRec) : Nat := 64 * recF r 56 4
def recCoef (r : GroupRec) (i j : Nat) : Flagged := v32 (recF r (64 + 12 * i + 4 * j) 4)
/-- Format code of the state tensors, and their element size. -/
def recState (r : GroupRec) : Nat := if recFlag r 2 then 0 else 2
def pitch64 (n : Nat) : Nat := 64 * ((n + 63) / 64)
def recStatePitch (r : GroupRec) : Nat := pitch64 (recCols r * fmtBits (recState r) / 8)
def recMasterPitch (r : GroupRec) : Nat := pitch64 (4 * recCols r)
def recWorkMat (r : GroupRec) (d : Desc) : Mat := { base := recWork r, fmt := dFC d, rows := recRows r, len := recCols r }

/-- A reserved value or a non-zero reserved byte (R294). -/
def recBad (r : GroupRec) : Bool :=
  decide (3 < recRule r) || decide (15 < recF r 1 1) || decide (recF r 2 2 ≠ 0) || decide (recF r 12 4 ≠ 0) ||
    decide (recF r 60 4 ≠ 0) || decide (recF r 124 4 ≠ 0) || decide (recRows r = 0) || !decide (recRows r ≤ 65536) ||
    decide (recCols r = 0) || !decide (recCols r ≤ 16384) || (decide (recRule r = 3) && decide (1024 < recCols r))

/-- The loam extents that a record names, as offset and length. -/
def recExtents (r : GroupRec) (d : Desc) : List (Nat × Nat) :=
  [(recMaster r, recRows r * recMasterPitch r), (recWork r, (recWorkMat r d).extent),
    (recM1 r, recRows r * recStatePitch r)] ++
  (if decide (recRule r = 1) || decide (recRule r = 2) then [(recM2 r, recRows r * recStatePitch r)] else []) ++
  [(recSched r, 1280)] ++
  (if recFlag r 1 then [(recMask r, ((recRows r + 63) / 64 + 7) / 8)] else []) ++
  (if recRule r = 3 then [(recOwork r, 8 * recRows r * recCols r + 6 * recCols r * recCols r)] else [])

def loamSize : Nat := 64 * Config.loamLines

/-- Bytes of the loam column, or the LOAM_UE that their read meets. -/
def peekLoam (s : State) (t : Site) (opnd off n : Nat) : Except Detected (List Byte) :=
  match (s.loamBytes t off n).1 with
  | some bs => .ok bs
  | none => .error (det ecLoamUe opnd off)

/-! ### Schedules (R303, R304) -/

def curvePts (c : List Byte) : Nat := leAt c 0 1
def curveStep (c : List Byte) (i : Nat) : Nat := leAt c (64 + 8 * i) 4
def curveVal (c : List Byte) (i : Nat) : Nat := leAt c (68 + 8 * i) 4

/-- A curve breaks a rule of R303. -/
def curveBad (c : List Byte) : Bool :=
  let n := curvePts c
  decide (n = 0) || decide (32 < n) || (takeAt c 1 63).any (fun b => decide (b ≠ 0)) ||
    (List.range (n - 1)).any (fun i => decide (curveStep c (i + 1) ≤ curveStep c i)) ||
    (List.range n).any (fun i => decide (curveVal c i / 2 ^ 23 % 256 = 255)) ||
    (takeAt c (64 + 8 * n) (8 * (32 - n))).any (fun b => decide (b ≠ 0))

/-- The value of a curve at step st (R304). -/
def curveAt (c : List Byte) (st : Nat) : Flagged :=
  let n := curvePts c
  if st ≤ curveStep c 0 then v32 (curveVal c 0)
  else if curveStep c (n - 1) ≤ st then v32 (curveVal c (n - 1))
  else
    let i := ((List.range (n - 1)).find? (fun i => decide (curveStep c i ≤ st) && decide (st < curveStep c (i + 1)))).getD 0
    let f := div32 (int32v (st - curveStep c i)) (int32v (curveStep c (i + 1) - curveStep c i))
    let dv := sub32 (v32 (curveVal c (i + 1))) (v32 (curveVal c i))
    let r := opFma dv.1 f.1 (decodeVal 0 (curveVal c i))
    let q := roundTo 0 0 0 r.1
    (q.1, f.2 ||| dv.2 ||| r.2 ||| q.2)

/-! ### Checks of an UPDATE (R280, R293, R294, R303) -/

/-- A UE command of a plot whose work kind is INFER (R280). -/
def State.ueInfer (s : State) (t : Site) : Bool := !s.plotBit t 4

def ueGradBytes (d : Desc) (n : Nat) : Nat := n * fmtBits (dFA d) / 8

/-- The record, once its line can be read. -/
def ueRecord (s : State) (t : Site) (d : Desc) : Except Detected GroupRec :=
  match peekLoam s t 6 (ueRec d) 128 with
  | .ok bs => .ok { bytes := bs }
  | .error e => .error e

def ueCurves (s : State) (t : Site) (r : GroupRec) : Except Detected (List Byte) := peekLoam s t 5 (recSched r) 1280

/-- What the record and the schedule fault on, in the order in which they are read. -/
def recordFault (s : State) (t : Site) (d : Desc) (r : GroupRec) : Option Detected :=
  firstFail ([(recBad r, det ecFormat 6 (ueRec d))] ++
    (recExtents r d).map (fun e => (decide (loamSize < e.1 + e.2), det ecAddr 6 e.1)) ++
    addrChecks s t [(0, ueD d, ueGradBytes d (recRows r * recCols r))]) <|>
  (if recFlag r 0 then none
   else match ueCurves s t r with
    | .error e => some e
    | .ok cs => (List.range 4).findSome? (fun c =>
        if curveBad ((cs.drop (320 * c)).take 320) then some (det ecFormat 5 (recSched r + 320 * c)) else none))

def updateCheck (s : State) (t : Site) (d : Desc) : Option Detected :=
  firstFail ([descFault (headerBad d 7 1 || decide (Desc.field d 127 79 ≠ 0) || s.ueInfer t)] ++
    formatChecks d [(decide (dFA d ≠ 0) && decide (dFA d ≠ 2), 0, ueD d),
      (decide (8 < dFC d) || decide (dFC d = 7), 2, 0)] ++
    addrChecks s t [(0, ueD d, 0), (2, ueT d, 16384)] ++
    [(decide (loamSize < ueRec d + 128), det ecAddr 6 (ueRec d))]) <|>
  (match ueRecord s t d with
    | .error e => some e
    | .ok r => recordFault s t d r)

/-! ### Rules 0 to 2 (R296 to R299) -/

/-- The values that an UPDATE reads once (R295). -/
structure UeEnv where
  r    : GroupRec
  eta  : Flagged
  lam  : Flagged
  b1   : Flagged
  b2   : Flagged
  k1   : Flagged
  k2   : Flagged
  mask : List Byte
  deriving DecidableEq, Repr

/-- A frozen row under BLKMASK (R305). -/
def UeEnv.frozen (e : UeEnv) (row : Nat) : Bool :=
  recFlag e.r 1 && ((e.mask.getD (row / 64 / 8) 0).getLsbD (row / 64 % 8))

def ueEnv (s : State) (t : Site) (r : GroupRec) : Except Detected UeEnv :=
  let mask := if recFlag r 1 then peekLoam s t 6 (recMask r) (((recRows r + 63) / 64 + 7) / 8) else .ok []
  match ueCurves s t r, mask with
  | .error e, _ => .error e
  | _, .error e => .error e
  | .ok cs, .ok m =>
    let st := s.cfld t aUeStep 31 0
    let curve := fun c => curveAt ((cs.drop (320 * c)).take 320) st
    let bc := recFlag r 3 && decide (recRule r = 1)
    let k := fun b => if bc then sub32 one_ (pow32 b (st + 1)) else one_
    .ok { r := r, eta := curve 0, lam := curve 1, b1 := curve 2, b2 := curve 3, k1 := k (curve 2), k2 := k (curve 3), mask := m }

/-- The gradient element j. -/
def gradAt (s : State) (t : Site) (d : Desc) (j : Nat) : Nat := s.bitsAt t (ueD d) (j * fmtBits (dFA d)) (fmtBits (dFA d))

def notFinite (v : Val) : Bool := match v with | .fin .. => false | _ => true

/-- New m, v and w of an element (R297). o is O's element under RULE 3. -/
def ruleElem (e : UeEnv) (rule : Nat) (g w m v o : Flagged) : Flagged × Flagged × Flagged :=
  let dec := fun x : Flagged => sub32 w (mul32 e.eta (add32 x (mul32 e.lam w)))
  match rule with
  | 0 =>
    let m := add32 (mul32 e.b1 m) g
    (m, v, dec m)
  | 1 =>
    let m := add32 (mul32 e.b1 m) (mul32 (sub32 one_ e.b1) g)
    let v := add32 (mul32 e.b2 v) (mul32 (mul32 (sub32 one_ e.b2) g) g)
    (m, v, dec (div32 (div32 m e.k1) (add32 (sqrt32 (div32 v e.k2)) (recEps e.r))))
  | 2 =>
    let u := add32 (mul32 e.b1 m) (mul32 (sub32 one_ e.b1) g)
    (add32 (mul32 e.b2 m) (mul32 (sub32 one_ e.b2) g), v, dec (sign32 u))
  | _ => (m, v, dec (mul32 (recOscale e.r) o))

/-- A row of a tensor of n elements in format c, from its bytes. -/
def rowVals (c : Nat) (bs : List Byte) (n : Nat) : List Flagged :=
  (List.range n).map (fun i => (decodeVal c (leAt bs (i * fmtBits c / 8) (fmtBits c / 8)), 0))

/-- A row in format c, rounded in the command's mode with draw number k. -/
def rowCodes (f : InFlight) (d : Desc) (c k j0 : Nat) (vs : List Flagged) : List Nat × Nat :=
  let rs := vs.zipIdx.map (fun e => encodeVal c (dRnd d) (draw f.seed 7 f.entry.ticket (j0 + e.2) k) false e.1.1)
  (rs.map (fun r => r.1), rs.foldl (fun a r => a ||| r.2) 0)

/-- Blocks of 32 elements. -/
def blocks32 {α : Type} (l : List α) : List (List α) := (List.range ((l.length + 31) / 32)).map (fun i => (l.drop (32 * i)).take 32)

/-- The working copy of a row: codes, scale bytes, flags (R94, R296). -/
def workCodes (f : InFlight) (d : Desc) (j0 : Nat) (vs : List Flagged) : List Nat × List Nat × Nat :=
  (blocks32 vs).zipIdx.foldl (fun a b =>
    let (cs, sb, fl) := convertBlock (dFC d) (dRnd d) false
      (fun i => draw f.seed 7 f.entry.ticket (j0 + 32 * b.2 + i) 2) (b.1.map (fun v => v.1))
    (a.1 ++ cs, a.2.1 ++ [sb], a.2.2 ||| fl)) ([], [], 0)

/-- A UE write to loam: each line that leaves is a compare point (R438). -/
def State.ueWrite (s : State) (t : Site) (off : Nat) (bs : List Byte) : State :=
  let s := (List.range ((bs.length + 63) / 64)).foldl (fun s i => s.mirrorPoint t 6 ((bs.drop (64 * i)).take 64)) s
  let s := match s.plotOf t with
    | some p => if s.running p then s.setFld (rRasPlot p) 0 0 1 else s
    | none => s
  s.loamPut t off bs

def codeBytes (c : Nat) (cs : List Nat) : List Byte := cs.flatMap (fun x => leBytes (fmtBits c / 8) x)

/-- One row's reads, work and writes (R296): the state after it, its flags, and the fault that it met. -/
def updateRow (t : Site) (f : InFlight) (d : Desc) (e : UeEnv) (o : Nat → Flagged) (m' : Nat → Option Flagged) (s : State)
    (row : Nat) : State × Nat × Option Detected :=
  if e.frozen row then (s, 0, none)
  else
    let r := e.r
    let n := recCols r
    let rule := recRule r
    let j0 := row * n
    let goff := ueD d + ueGradBytes d j0
    let mOff := recM1 r + row * recStatePitch r
    let vOff := recM2 r + row * recStatePitch r
    let wOff := recMaster r + row * recMasterPitch r
    let size := n * fmtBits (recState r) / 8
    let rd := fun (off k : Nat) => peekLoam s t 6 off k
    if s.badAt t goff (ueGradBytes d n) then
      ((s.eccRead t goff (ueGradBytes d n)).1, 0,
        some { det ecStoreUe 0 (8 * ((s.firstUe t goff (ueGradBytes d n)).getD 0)) with progress := row })
    else match rd wOff (4 * n), rd mOff size, (if rule = 1 then rd vOff size else .ok []) with
      | .error x, _, _ => (s, 0, some { x with progress := row })
      | _, .error x, _ => (s, 0, some { x with progress := row })
      | _, _, .error x => (s, 0, some { x with progress := row })
      | .ok wb, .ok mb, .ok vb =>
        let gs := (List.range n).map (fun i => mul32 (recGscale r) (decodeVal (dFA d) (gradAt s t d (j0 + i)), 0))
        let ws := rowVals 0 wb n
        let ms := rowVals (recState r) mb n
        let vs := rowVals (recState r) vb n
        let z : Flagged := (.zero, 0)
        let es := (List.range n).map (fun i =>
          ruleElem e rule (gs.getD i z) (ws.getD i z) ((m' (j0 + i)).getD (ms.getD i z)) (vs.getD i z) (o (j0 + i)))
        let (mc, f1) := rowCodes f d (recState r) 0 j0 (es.map (fun x => x.1))
        let (vc, f2) := rowCodes f d (recState r) 1 j0 (es.map (fun x => x.2.1))
        let w' := es.map (fun x => x.2.2)
        let (cc, sb, f3) := workCodes f d j0 w'
        let fl := es.foldl (fun a x => a ||| x.1.2 ||| x.2.1.2 ||| x.2.2.2) (f1 ||| f3)
        let s := (s.genCheck t goff (ueGradBytes d n) (dGen d) 7).eccRead t goff (ueGradBytes d n) |>.1
        let s := s.ueWrite t wOff (w'.flatMap (fun x => leBytes 4 (bits32 x)))
        let s := if rule = 3 then s else s.ueWrite t mOff (codeBytes (recState r) mc)
        let s := if rule = 1 then s.ueWrite t vOff (codeBytes (recState r) vc) else s
        let wm := recWorkMat r d
        let s := s.ueWrite t (wm.rowOff row) (packRow (dFC d) cc)
        let s := if isScaled (dFC d) then s.ueWrite t (wm.scaleOff row 0) (sb.map (BitVec.ofNat 8)) else s
        (s, if rule = 1 then fl ||| f2 else fl, none)

/-- Rows in ascending order until a fault. -/
def updateRows (t : Site) (f : InFlight) (d : Desc) (e : UeEnv) (o : Nat → Flagged) (m' : Nat → Option Flagged) (s : State) :
    State × InFlight :=
  let (s, fl, x) := (List.range (recRows e.r)).foldl (fun (a : State × Nat × Option Detected) row =>
    match a with
    | (s, fl, some x) => (s, fl, some x)
    | (s, fl, none) =>
      let (s, g, x) := updateRow t f d e o m' s row
      (s, fl ||| g, x)) (s, 0, none)
  (s, ({ f with progress := recRows e.r }).finish fl x)

/-- The gradient elements of rows that are not frozen. -/
def liveElems (e : UeEnv) : List Nat :=
  ((List.range (recRows e.r)).filter (fun row => !e.frozen row)).flatMap (fun row =>
    (List.range (recCols e.r)).map (fun i => row * recCols e.r + i))

/-- A word of the gradient in error, in rows that the UE reads. -/
def gradFault (s : State) (t : Site) (d : Desc) (e : UeEnv) : Option Detected :=
  (liveElems e).findSome? (fun j =>
    let a := ueD d + ueGradBytes d j
    if s.badAt t a (ueGradBytes d 1) then some (det ecStoreUe 0 a) else none)

/-! ### The orthogonalising rule (R300, R301) -/

/-- The words of the work region: X in row order and transposed, Y, Z, G in VB16, then the FP32 partial of P, in the order in
which R301 names them (DESIGN CHOICE, notes/assumptions/30.md). -/
def saveWork (t : Site) (r : GroupRec) (o : OrthoSt) (s : State) : State :=
  let n := recRows r
  let c := recCols r
  let half := fun l : List Word => l.flatMap (fun w => leBytes 2 w.toNat)
  let xt := (List.range c).flatMap (fun i => (List.range n).map (fun k => o.x.getD (k * c + i) 0))
  let put := fun (s : State) (off : Nat) (bs : List Byte) => if bs.isEmpty then s else s.ueWrite t (recOwork r + off) bs
  let s := put s 0 (half o.x)
  let s := put s (2 * n * c) (half xt)
  let s := put s (4 * n * c) (half o.y)
  let s := put s (6 * n * c) (half o.z)
  let s := put s (8 * n * c) (half o.g)
  put s (8 * n * c + 2 * c * c) (o.part.flatMap (fun w => leBytes 4 w.toNat))

def vb16 (w : Word) : Val := decodeVal 2 w.toNat
def toVb16 (v : Val) : Word := BitVec.ofNat 32 (encodeVal 2 0 0 false v).1

/-- A UE product of VB16 operands: m rows of A and n rows of B, k elements each; FC is FP32 or VB16 (R300). The p-th product
draws with k = 256 p + g. -/
def ueProduct (f : InFlight) (d : Desc) (p fc m n k : Nat) (a b : Nat → Nat → Val) : List Word × Nat :=
  let one := fun (i j : Nat) =>
    let groups := runs16 ((List.range k).map (fun x => (a i x, b j x)))
    let rnd := fun g => draw f.seed 7 f.entry.ticket (i * n + j) (256 * p + g)
    let (acc, fl) := groups.zipIdx.foldl (fun (q : Word × Nat) g =>
      let (w, e) := accFloat (dRnd d) (rnd g.2) q.1 (groupSum g.1)
      (w, q.2 ||| e)) (0, 0)
    let (c, e) := encodeVal fc (dRnd d) (rnd groups.length) false (decodeVal 0 acc.toNat)
    (BitVec.ofNat 32 c, fl ||| e)
  let rs := (List.range m).flatMap (fun i => (List.range n).map (one i))
  (rs.map (fun r => r.1), rs.foldl (fun a r => a ||| r.2) 0)

/-- The first tile of a chain has no STREAM port from a previous one (DEDUCED, notes/assumptions/31.md). -/
def chainFirst (s : State) (t : Site) (r : GroupRec) : Bool := decide (s.portKind t (recOport r) ≠ 1)
def chainLast (r : GroupRec) : Bool := decide (recOconn r = 0)

/-- Bytes of a chain exchange, cut into the items of the port or connection that carries them. -/
def chainPiece (s : State) (t : Site) (r : GroupRec) : Nat :=
  if chainLast r then 32 * s.portIgr t (recOport r)
  else match (s.ni t).openTx (recOconn r) with | some x => 32 * x.igr | none => 0

/-- The words that the last tile multicasts on OTREE, and those that another tile has received (R301). -/
def State.multicast (s : State) (t : Site) (tree : Nat) (bs : List Byte) : State :=
  let n := (bs.length + 31) / 32
  (List.range n).foldl (fun s i => s.niSend t { mkGrain t t 0 0 0 (decide (i + 1 = n)) (.data (takeAt bs (32 * i) 32)) with
    dx := 0x1FF, dy := BitVec.ofNat 9 tree }) s

def isChainCast (t : Site) (g : Grain) : Bool :=
  isPrism g && decide (grainSrc g ≠ t) && (match g.body with | .data _ => true | _ => false)

/-- n bytes multicast to this tile, once all of them are here. -/
def State.takeCast (s : State) (t : Site) (n : Nat) : Option (List Byte × State) :=
  let k := (n + 31) / 32
  let gs := ((s.ni t).inbox.filter (isChainCast t)).take k
  if gs.length < k then none
  else
    let rest := (s.ni t).inbox.foldl (fun (a : Nat × List Grain) g =>
      if isPrism g && (match g.body with | .data _ => true | _ => false) && (isChainCast t g && decide (a.1 < k) || decide (grainSrc g = t)) then
        (if decide (grainSrc g = t) then a.1 else a.1 + 1, a.2) else (a.1, a.2 ++ [g])) (0, [])
    some ((gs.flatMap grainBytes).take n, s.onNi t (fun x => { x with inbox := rest.2 }))

/-- The next item of the chain's port, released once read. -/
def State.takeItem (s : State) (t : Site) (p : Nat) : Option (List Byte × State) :=
  let r := s.portRt t p
  if r.released < r.arrived then
    let (bs, s) := s.slotItem t p r.released
    some (bs, s.releaseItems t p 1)
  else none

def wordsOfBytes (bs : List Byte) : List Word := (List.range (bs.length / 4)).map (fun i => BitVec.ofNat 32 (leAt bs (4 * i) 4))
def bytesOfWords (ws : List Word) : List Byte := ws.flatMap (fun w => leBytes 4 w.toNat)

/-- One piece of a sum along the chain: own values from place i, added to what the previous tile sends; what comes out goes
on, or stays where the chain ends. None while the piece or the credit is not there. -/
def chainStep (s : State) (t : Site) (r : GroupRec) (own : List Word) (i : Nat) : Option (List Word × State) :=
  let n := min (own.length - i) (chainPiece s t r / 4)
  let mine := (own.drop i).take n
  let room := chainLast r || (((s.ni t).openTx (recOconn r)).map TxConn.itemRoom).getD false
  if decide (n = 0) || !room then none
  else
    let got := if chainFirst s t r then some (mine, s)
      else match s.takeItem t (recOport r) with
        | some (bs, s) => some ((mine.zip (wordsOfBytes bs)).map (fun e =>
            BitVec.ofNat 32 (bits32 (add32 (v32 e.2.toNat) (v32 e.1.toNat)))), s)
        | none => none
    got.map (fun (ws, s) =>
      (ws, if chainLast r then s else s.sendItem t (recOconn r) (takeAt (bytesOfWords ws) 0 (chainPiece s t r))))

/-- Stage 0 at the start (R301): m ← β₁·m + g in the rows that are not frozen, and the own sum of squares. -/
def orthoStart (t : Site) (s : State) (f : InFlight) (d : Desc) (e : UeEnv) : State × InFlight :=
  let r := e.r
  let n := recCols r
  let row := fun (i : Nat) => match peekLoam s t 6 (recM1 r + i * recStatePitch r) (n * fmtBits (recState r) / 8) with
    | .ok bs => Except.ok (rowVals (recState r) bs n)
    | .error x => .error x
  match (List.range (recRows r)).findSome? (fun i => if e.frozen i then none else errOf (row i)) with
  | some x => (s, f.finish 0 (some x))
  | none =>
    let z : Flagged := (.zero, 0)
    let ms := (List.range (recRows r)).flatMap (fun i =>
      if e.frozen i then List.replicate n z
      else
        let old := match row i with | .ok l => l | .error _ => []
        (List.range n).map (fun k =>
          add32 (mul32 e.b1 (old.getD k z)) (mul32 (recGscale r) (decodeVal (dFA d) (gradAt s t d (i * n + k)), 0))))
    let ss := ((List.range (recRows r)).filter (fun i => !e.frozen i)).foldl (fun a i =>
      ((ms.drop (i * n)).take n).foldl (fun a m => add32 a (mul32 m m)) a) z
    let s := (List.range (recRows r)).foldl (fun s i =>
      if e.frozen i then s
      else
        let (cs, _) := rowCodes f d (recState r) 0 (i * n) ((ms.drop (i * n)).take n)
        s.ueWrite t (recM1 r + i * recStatePitch r) (codeBytes (recState r) cs)) s
    let fl := ms.foldl (fun a m => a ||| m.2) ss.2
    let mw : List Word := ms.map (fun v => BitVec.ofNat 32 (bits32 v))
    let o : OrthoSt :=
      { stage := 0, iter := 0, pend := 0, prods := 0, x := [], y := [], z := [], g := [], m := mw,
        sumsq := BitVec.ofNat 32 (bits32 ss), part := [] }
    (s, { f with flags := f.flags ||| BitVec.ofNat 8 fl, work := .ortho o })

/-- X after the sum of squares is known (R301): m / (√s + ε) in VB16. -/
def orthoX (e : UeEnv) (o : OrthoSt) (sum : Nat) : OrthoSt :=
  let den := add32 (sqrt32 (v32 sum)) (recEps e.r)
  { o with stage := 2, pend := 1, sumsq := BitVec.ofNat 32 sum,
           x := o.m.zipIdx.map (fun w => if e.frozen (w.2 / recCols e.r) then 0 else toVb16 (div32 (v32 w.1.toNat) den).1) }

/-- X ← a X + b Y + c Z (R301). -/
def orthoMix (e : UeEnv) (o : OrthoSt) : List Word :=
  o.x.zipIdx.map (fun w =>
    let term := fun (k : Nat) (v : Word) => mul32 (recCoef e.r o.iter k) (vb16 v, 0)
    toVb16 (add32 (add32 (term 0 w.1) (term 1 (o.y.getD w.2 0))) (term 2 (o.z.getD w.2 0))).1)

/-- The next exchange or pass of an orthogonalising UPDATE at this tile; none while it waits. Stages: 0 and 1 the sum of
squares along the chain and its multicast, 2 the product P, 3 and 4 the Gram sum along the chain and its multicast, 5 the
products Y and Z. -/
def orthoNext (t : Site) (s : State) (f : InFlight) (d : Desc) (e : UeEnv) (o : OrthoSt) : Option (State × InFlight) :=
  let r := e.r
  let c := recCols r
  let keep := fun (s : State) (o : OrthoSt) => some (saveWork t r o s, { f with work := .ortho o })
  match o.stage with
  | 0 => (chainStep s t r [o.sumsq] 0).map (fun (ws, s) =>
      if chainLast r then
        let s := s.multicast t (recOtree r) (bytesOfWords ws)
        let o := orthoX e o ((ws.headD 0).toNat)
        (saveWork t r o s, { f with work := .ortho o })
      else (s, { f with work := .ortho { o with stage := 1 } }))
  | 1 => (s.takeCast t 4).bind (fun (bs, s) => keep s (orthoX e o (leNat bs)))
  | 3 => (chainStep s t r o.part o.g.length).map (fun (ws, s) =>
      let g := o.g ++ ws
      if g.length < c * c then (s, { f with work := .ortho { o with g := g } })
      else if chainLast r then
        let h := g.map (fun w => toVb16 (decodeVal 0 w.toNat))
        let s := s.multicast t (recOtree r) (h.flatMap (fun w => leBytes 2 w.toNat))
        let o := { o with stage := 5, pend := 2, g := h }
        (saveWork t r o s, { f with work := .ortho o })
      else (s, { f with work := .ortho { o with stage := 4, g := [] } }))
  | 4 => (s.takeCast t (2 * c * c)).bind (fun (bs, s) =>
      keep s { o with stage := 5, pend := 2, g := (List.range (c * c)).map (fun i => BitVec.ofNat 32 (leAt bs (2 * i) 2)) })
  | 5 =>
    if o.pend ≠ 0 then none
    else
      let o' := { o with x := orthoMix e o, y := [], z := [], g := [], part := [], iter := o.iter + 1, stage := 2, pend := 1 }
      if o.iter < 4 then keep s o'
      else
        let s := saveWork t r o' s
        some (updateRows t { f with work := .none } d e (fun j => (vb16 (o'.x.getD j 0), 0))
          (fun j => some (v32 ((o.m.getD j 0).toNat))) s)
  | _ => none

/-! ### UPDATE (R293 to R299, R305) -/

/-- The work of an UPDATE at its start. -/
def updateRun (t : Site) (s : State) (f : InFlight) (d : Desc) : State × InFlight :=
  match ueRecord s t d with
  | .error x => (s, f.finish 0 (some x))
  | .ok r =>
    let s := (s.loamBytes t (ueRec d) 128).2
    if recFlag r 0 then (s, f.finish 0 none)
    else match ueEnv s t r with
      | .error x => (s, f.finish 0 (some x))
      | .ok e => match gradFault s t d e with
        | some x =>
          if s.cfld t aUeCfg 0 0 = 1 || decide (recRule r = 3) then ((s.eccRead t x.addr 1).1, f.finish 0 (some x))
          else updateRows t f d e (fun _ => (.zero, 0)) (fun _ => none) s
        | none =>
          let bad := (liveElems e).any (fun j => notFinite (decodeVal (dFA d) (gradAt s t d j)))
          let s := if bad then s.setCfld t aUeStat 63 63 1 else s
          if bad && decide (s.cfld t aUeCfg 0 0 = 1) then
            ((s.setCfld t aUeStat 62 62 1).cbump t aUeStat 47 32, f.finish flNV none)
          else if recRule r = 3 then orthoStart t s f d e
          else updateRows t f d e (fun _ => (.zero, 0)) (fun _ => none) s

def updateOp (t : Site) : EngineOp := { check := fun s d => updateCheck s t d, pre := noPre, run := updateRun t }

/-- The command of the UE queue that now runs. -/
def State.ueFlight (s : State) (t : Site) : Option InFlight := (s.flightOf t 7).filter (fun f => !f.done)

/-- UPDATE (R293): the command starts, or an orthogonalising UPDATE makes its next exchange. A reserved OPC starts here and
faults with DESC. -/
def execUpdate (t : Site) (s : State) : Out :=
  match s.ueFlight t with
  | some f => onTile t s (match f.work, ueRecord s t f.entry.desc with
    | .ortho o, .ok r => (match ueEnv s t r with
      | .ok e => whenSome "UPDATE" (orthoNext t s f f.entry.desc e o) (fun (s', f') => .next (s'.onFlight t 7 (fun _ => f')))
      | .error _ => .refused (.notEnabled "UPDATE"))
    | _, _ => .refused (.notEnabled "UPDATE"))
  | none => engine "UPDATE" 7 t (fun o => decide (o ≠ 1)) (updateOp t) s

/-- UE_TE_PRODUCT (R300): the pending product takes the TE, unless the TE owes a core command its turn. -/
def execUeTeProduct (t : Site) (s : State) : Out :=
  onTile t s (match s.ueFlight t with
    | some f => (match f.work, ueRecord s t f.entry.desc with
      | .ortho o, .ok r =>
        let d := f.entry.desc
        let n := recRows r
        let c := recCols r
        let x := fun i k => vb16 (o.x.getD (i * c + k) 0)
        let xt := fun i k => vb16 (o.x.getD (k * c + i) 0)
        let y := fun i k => vb16 (o.y.getD (i * c + k) 0)
        let g := fun i k => vb16 (o.g.getD (i * c + k) 0)
        let (ws, fl) := if o.stage = 2 then ueProduct f d o.prods 0 c c n xt xt
          else if o.pend = 2 then ueProduct f d o.prods 2 n c c x g
          else ueProduct f d o.prods 2 n c c y g
        let o' := if o.stage = 2 then { o with stage := 3, pend := 0, part := ws, g := [], prods := o.prods + 1 }
          else if o.pend = 2 then { o with pend := 1, y := ws, prods := o.prods + 1 }
          else { o with pend := 0, z := ws, prods := o.prods + 1 }
        when_ "UE_TE_PRODUCT" (s.issues t && decide (o.pend ≠ 0) && (s.queue t 0).flight.isEmpty &&
            !((s.tile t).ueTurn && s.teWaits t)) (
          let s := s.setCfld t aUeStat 31 0 (s.cfld t aUeStat 31 0 + 1)
          let s := s.onTile t (fun x => { x.stopBackfill with ueTurn := true })
          (saveWork t r o' s).onFlight t 7 (fun f => { f with flags := f.flags ||| BitVec.ofNat 8 fl, work := .ortho o' }))
      | _, _ => .refused (.notEnabled "UE_TE_PRODUCT"))
    | none => .refused (.notEnabled "UE_TE_PRODUCT"))

/-! ### REDUCE (R288 to R292) -/

def rdOut (d : Desc) : Nat := Desc.field d 77 68
def rdIn (d : Desc) : Nat := Desc.field d 67 62
def rdE (d : Desc) : Nat := Desc.field d 61 45 + 1

/-- UE_RING as the tile reads it: C and the position p. -/
def State.ringC (s : State) (t : Site) : Nat := Dword.field (s.ctrlRead t aUeRing) 7 0 + 1
def State.ringP (s : State) (t : Site) : Nat := Dword.field (s.ctrlRead t aUeRing) 15 8


def reduceCheck (s : State) (t : Site) (d : Desc) : Option Detected :=
  let alone := decide (s.ringC t = 1)
  let out := (s.ni t).openTx (rdOut d)
  firstFail ([descFault (headerBad d 7 1 || decide (Desc.field d 127 78 ≠ 0) || s.ueInfer t)] ++
    formatChecks d [(decide (dFA d ≠ 0), 0, ueD d), (decide (dFC d ≠ 0) && decide (dFC d ≠ 2), 2, ueD d)] ++
    addrChecks s t [(0, ueD d, 4 * rdE d)] ++
    [(decide (3 ≤ s.cascState), det ecConn noOpnd 0), (!alone && out.isNone, det ecConn 7 (rdOut d)),
      (!alone && decide (s.portKind t (rdIn d) ≠ 1), det ecConn 7 (rdIn d)),
      (!alone && decide (out.map (fun x => x.igr) ≠ some (s.portIgr t (rdIn d))), det ecShape 7 (rdOut d))])

/-- One step of a tile's part in a REDUCE: what it does with a chunk, in this order: take an item from IN, add the own value,
round to the wire format, write D, send on OUT. -/
structure RStep where
  chunk : Nat
  recv  : Bool
  add   : Bool
  final : Bool
  write : Bool
  send  : Bool
  deriving DecidableEq, Repr

/-- The steps of position p under FIXED-ORDER (R289). -/
def fixedSteps (c p : Nat) : List RStep :=
  let at_ := fun k => (p + 2 * c - k) % c
  [{ chunk := at_ 1, recv := false, add := true, final := false, write := false, send := true }] ++
  (List.range (c - 1)).map (fun i =>
    { chunk := at_ (i + 2), recv := true, add := true, final := decide (i + 2 = c), write := decide (i + 2 = c), send := true }) ++
  (List.range (c - 1)).map (fun i =>
    { chunk := at_ (i + 1), recv := true, add := false, final := false, write := true, send := decide (i + 2 < c) })

/-- The steps of position p under FREE (R290). The spec names one connection and one port: the model carries both paths on
them, the path whose partial comes first at the own chunk before the other (DEDUCED, notes/assumptions/32.md). -/
def freeSteps (c p : Nat) (fallingFirst : Bool) : List RStep :=
  let a := c / 2
  let b := (c - 1) / 2
  let path := fun (n : Nat) (chunk : Nat → Nat) =>
    if n = 0 then [] else
      [({ chunk := chunk n, recv := false, add := true, final := false, write := false, send := true } : RStep)] ++
      (List.range (n - 1)).map (fun i =>
        { chunk := chunk (n - 1 - i), recv := true, add := true, final := false, write := false, send := true })
  let own := fun (last : Bool) =>
    ({ chunk := p, recv := true, add := true, final := last, write := true, send := false } : RStep)
  let up := fun k => (p + k) % c
  let down := fun k => (p + c - k) % c
  let rising := if a = 0 then [] else path a up
  let falling := if b = 0 then [] else path b down
  let first := if fallingFirst then falling else rising
  let second := if fallingFirst then rising else falling
  let owns := if decide (a = 0) || decide (b = 0) then first ++ second ++ [own true]
    else first ++ [own false] ++ second ++ [own true]
  let out := fun n => if n = 0 then [] else
    [({ chunk := p, recv := false, add := false, final := false, write := false, send := true } : RStep)]
  let back := fun (n : Nat) (chunk : Nat → Nat) => (List.range n).map (fun i =>
    ({ chunk := chunk (i + 1), recv := true, add := false, final := false, write := true, send := decide (i + 1 < n) } : RStep))
  owns ++ out a ++ out b ++ back a up ++ back b down

/-- Elements of chunk k: first and count (R288). -/
def chunkOf (e c k : Nat) : Nat × Nat :=
  let u := (e + c - 1) / c
  (min e (k * u), min e ((k + 1) * u) - min e (k * u))

/-- The pieces of a REDUCE: each step, cut into the items of the port: step, first element, count. -/
def reducePlan (d : Desc) (steps : List RStep) (c igr : Nat) : List (RStep × Nat × Nat) :=
  let per := 32 * igr / (fmtBits (dFC d) / 8)
  steps.flatMap (fun st =>
    let (e0, n) := chunkOf (rdE d) c st.chunk
    (List.range ((n + per - 1) / per)).map (fun i => (st, e0 + i * per, min per (n - i * per))))

/-- One piece: the values after it and whether a fault stops it; none while its item or its credit is not there. -/
def reducePiece (t : Site) (s : State) (f : InFlight) (d : Desc) (x : RStep × Nat × Nat) :
    Option (State × Nat × Option Detected) :=
  let (st, e0, n) := x
  let fc := dFC d
  let size := fmtBits fc / 8
  let off := ueD d + 4 * e0
  let odd := s.mirrored t && s.oddTwin t
  let room := !st.send || odd || ((((s.ni t).openTx (rdOut d)).map TxConn.itemRoom).getD false && !s.twinStall t)
  let readsD := st.add || (!st.recv)
  let p := rdIn d
  let src := s.slotOff t p (s.portRt t p).released
  if !room || (st.recv && decide ((s.portRt t p).arrived ≤ (s.portRt t p).released)) then none
  else if readsD && s.badAt t off (4 * n) then
    some ((s.eccRead t off (4 * n)).1, 0, some (det ecStoreUe 0 (8 * ((s.firstUe t off (4 * n)).getD 0))))
  else if st.recv && s.badAt t src (size * n) then
    some ((s.eccRead t src (size * n)).1, 0, some (det ecStoreUe 1 (8 * ((s.firstUe t src (size * n)).getD 0))))
  else
    let own := (List.range n).map (fun i => decodeVal 0 (leNat (s.bytes (storeAddr t (off + 4 * i)) 4)))
    let item := s.bytes (storeAddr t src) (32 * s.portIgr t p)
    let got := (List.range n).map (fun i => decodeVal fc (leAt item (size * i) size))
    let s := if st.recv then
        let s := s.releaseItems t p 1
        let twin := (s.usable ((s.plotOf t).getD 0))[s.rank t + 1]?
        if s.mirrored t && !odd then (match twin with
          | some u => (s.writeStore u (s.slotOff u p (s.portRt u p).came) item (s.cfld u (aNiPort p) 59 56)).onPort u p
              (fun r => { r with came := r.came + 1, arrived := r.arrived + 1 })
          | none => s)
        else s
      else s
    let s := if readsD then (s.genCheck t off (4 * n) (dGen d) 7) else s
    let rnd := fun (i k : Nat) => draw f.seed 7 f.entry.ticket (e0 + i) k
    let sums := (List.range n).map (fun i =>
      if st.recv && st.add then
        let r := opAdd (got.getD i .zero) (own.getD i .zero)
        let q := roundTo 0 (dRnd d) (rnd i 0) r.1
        (q.1, r.2 ||| q.2)
      else (if st.recv then got.getD i .zero else own.getD i .zero, 0))
    let codes := (sums.zipIdx).map (fun v => encodeVal fc (dRnd d) (rnd v.2 1) false v.1.1)
    let fl := sums.foldl (fun a v => a ||| v.2) 0
    let fl := if st.send || st.final then codes.foldl (fun a v => a ||| v.2) fl else fl
    let kept := if st.final then codes.map (fun v => decodeVal fc v.1) else sums.map (fun v => v.1)
    let s := if st.write then s.writeStore t off (kept.flatMap (fun v => leBytes 4 (bits32 (v, 0)))) (dGen d) else s
    let wire := takeAt (codes.flatMap (fun v => leBytes size v.1)) 0 (32 * s.portIgr t p)
    let s := if st.send && !odd then s.sendItem t (rdOut d) wire else s
    some (s, fl, none)

/-- The steps of this tile's REDUCE. -/
def reduceSteps (s : State) (t : Site) (fallingFirst : Bool) : List RStep :=
  if s.ringC t = 1 then [] else
  if s.plotBit t 2 then fixedSteps (s.ringC t) (s.ringP t) else freeSteps (s.ringC t) (s.ringP t) fallingFirst

/-- The D shard is compared and the command is done (R292, R438). -/
def reduceDone (t : Site) (s : State) (f : InFlight) : State × InFlight :=
  let d := f.entry.desc
  (s.mirrorPoint t 7 (s.bytes (storeAddr t (ueD d)) (4 * rdE d)), { f with done := true })

/-- The next piece of a REDUCE. -/
def reduceNext (t : Site) (s : State) (f : InFlight) (r : ReduceSt) : State × InFlight :=
  let d := f.entry.desc
  let plan := reducePlan d (reduceSteps s t r.falling) (s.ringC t) (s.portIgr t (rdIn d))
  match plan[r.piece]? with
  | none => reduceDone t s f
  | some x => match reducePiece t s f d x with
    | none => (s, f)
    | some (s, fl, some e) => (s, f.finish fl (some { e with progress := r.piece }))
    | some (s, fl, none) =>
      let f := { f with flags := f.flags ||| BitVec.ofNat 8 fl, work := .reduce { r with piece := r.piece + 1 },
                        progress := r.piece + 1 }
      if r.piece + 1 = plan.length then reduceDone t s f else (s, f)

def reduceOp (t : Site) (fallingFirst : Bool) : EngineOp :=
  { check := fun s d => reduceCheck s t d, pre := noPre,
    run := fun s f _ => reduceNext t s { f with work := .reduce { piece := 0, falling := fallingFirst } } { piece := 0, falling := fallingFirst } }

/-- REDUCE (R288): the command starts, or takes its next piece. While the cascade forms, it waits at the head (R307).
fallingFirst says which partial of the own chunk arrives first under FREE. -/
def execReduce (t : Site) (fallingFirst : Bool) (s : State) : Out :=
  match s.ueFlight t with
  | some f => onTile t s (match f.work with
    | .reduce r =>
      let (s', f') := reduceNext t s f r
      when_ "REDUCE" (decide (f' ≠ f)) (s'.onFlight t 7 (fun _ => f'))
    | _ => .refused (.notEnabled "REDUCE"))
  | none =>
    if s.cascState = 1 then onTile t s (.refused (.notEnabled "REDUCE"))
    else engine "REDUCE" 7 t (fun o => decide (o = 1)) (reduceOp t fallingFirst) s

end Sys2Proof.Machine
end

