-- ==== Sys2Proof/Machine/Dispatch.lean ====
section
/-!
DEFINITION. Which meaning each command has: one arm for each row of the spec's table.
-/
namespace Sys2Proof.Machine

def exec (i : Instr) (s : State) : Host.Outcome State Fault Refusal :=
  match i with
  | .grainArrival r p crcOk => Sys2Proof.Machine.execGrainArrival r p crcOk s
  | .replayRequest r p => Sys2Proof.Machine.execReplayRequest r p s
  | .linkFailed r p => Sys2Proof.Machine.execLinkFailed r p s
  | .linkCreditArrival r p vc => Sys2Proof.Machine.execLinkCreditArrival r p vc s
  | .outputPortSend r p => Sys2Proof.Machine.execOutputPortSend r p s
  | .meshEscWait r p vc => Sys2Proof.Machine.execMeshEscWait r p vc s
  | .escapeMove r p vc => Sys2Proof.Machine.execEscapeMove r p vc s
  | .escnReceive t => Sys2Proof.Machine.execEscnReceive t s
  | .grainAccept t => Sys2Proof.Machine.execGrainAccept t s
  | .ackReceive t => Sys2Proof.Machine.execAckReceive t s
  | .prismForward r p => Sys2Proof.Machine.execPrismForward r p s
  | .errReceive t => Sys2Proof.Machine.execErrReceive t s
  | .remoteWrite t => Sys2Proof.Machine.execRemoteWrite t s
  | .remoteRead t => Sys2Proof.Machine.execRemoteRead t s
  | .rdrReceive t => Sys2Proof.Machine.execRdrReceive t s
  | .wraReceive t => Sys2Proof.Machine.execWraReceive t s
  | .svcAccess t => Sys2Proof.Machine.execSvcAccess t s
  | .storeScrub t bank found => Sys2Proof.Machine.execStoreScrub t bank found s
  | .sparingNotice => Sys2Proof.Machine.execSparingNotice s
  | .cacheAccess t line store strm => Sys2Proof.Machine.execCacheAccess t line store strm s
  | .cacheFill t err => Sys2Proof.Machine.execCacheFill t err s
  | .cacheWriteback t => Sys2Proof.Machine.execCacheWriteback t s
  | .storeSplitSwitch t => Sys2Proof.Machine.execStoreSplitSwitch t s
  | .splitSwitchEnd t => Sys2Proof.Machine.execSplitSwitchEnd t s
  | .tcGenCfgWrite t v => Sys2Proof.Machine.execTcGenCfgWrite t v s
  | .genTagClearEnd t => Sys2Proof.Machine.execGenTagClearEnd t s
  | .loamLineRequest t src line err => Sys2Proof.Machine.execLoamLineRequest t src line err s
  | .loamRefresh t => Sys2Proof.Machine.execLoamRefresh t s
  | .loamScrub t err => Sys2Proof.Machine.execLoamScrub t err s
  | .alu t => Sys2Proof.Machine.execAlu t s
  | .addi t => Sys2Proof.Machine.execAddi t s
  | .andi t => Sys2Proof.Machine.execAndi t s
  | .ori t => Sys2Proof.Machine.execOri t s
  | .xori t => Sys2Proof.Machine.execXori t s
  | .shi t => Sys2Proof.Machine.execShi t s
  | .lil t => Sys2Proof.Machine.execLil t s
  | .lih t => Sys2Proof.Machine.execLih t s
  | .mfs t => Sys2Proof.Machine.execMfs t s
  | .mts t => Sys2Proof.Machine.execMts t s
  | .lb t => Sys2Proof.Machine.execLb t s
  | .lbu t => Sys2Proof.Machine.execLbu t s
  | .lh t => Sys2Proof.Machine.execLh t s
  | .lhu t => Sys2Proof.Machine.execLhu t s
  | .lw t => Sys2Proof.Machine.execLw t s
  | .ldd t => Sys2Proof.Machine.execLdd t s
  | .sb t => Sys2Proof.Machine.execSb t s
  | .sh t => Sys2Proof.Machine.execSh t s
  | .sw t => Sys2Proof.Machine.execSw t s
  | .sdd t => Sys2Proof.Machine.execSdd t s
  | .storeBufferPerform t => Sys2Proof.Machine.execStoreBufferPerform t s
  | .instructionFetch t => Sys2Proof.Machine.execInstructionFetch t s
  | .br t => Sys2Proof.Machine.execBr t s
  | .bl t => Sys2Proof.Machine.execBl t s
  | .jr t => Sys2Proof.Machine.execJr t s
  | .pcmp t => Sys2Proof.Machine.execPcmp t s
  | .pcmpi t => Sys2Proof.Machine.execPcmpi t s
  | .plog t => Sys2Proof.Machine.execPlog t s
  | .pmov t => Sys2Proof.Machine.execPmov t s
  | .issue t => Sys2Proof.Machine.execIssue t s
  | .issueQueueRoom t => Sys2Proof.Machine.execIssueQueueRoom t s
  | .waitc t => Sys2Proof.Machine.execWaitc t s
  | .waitcRetire t => Sys2Proof.Machine.execWaitcRetire t s
  | .rdcc t => Sys2Proof.Machine.execRdcc t s
  | .waitm t => Sys2Proof.Machine.execWaitm t s
  | .waitmRetire t => Sys2Proof.Machine.execWaitmRetire t s
  | .openConn t => Sys2Proof.Machine.execOpenConn t s
  | .openRequest t => Sys2Proof.Machine.execOpenRequest t s
  | .openrReceive t => Sys2Proof.Machine.execOpenrReceive t s
  | .close t => Sys2Proof.Machine.execClose t s
  | .closeGrainSend t conn => Sys2Proof.Machine.execCloseGrainSend t conn s
  | .closeGrainReceive t => Sys2Proof.Machine.execCloseGrainReceive t s
  | .send t => Sys2Proof.Machine.execSend t s
  | .sendStart t => Sys2Proof.Machine.execSendStart t s
  | .sendRetire t => Sys2Proof.Machine.execSendRetire t s
  | .messageArrival t => Sys2Proof.Machine.execMessageArrival t s
  | .handlerDispatch t => Sys2Proof.Machine.execHandlerDispatch t s
  | .hret t => Sys2Proof.Machine.execHret t s
  | .mfence t => Sys2Proof.Machine.execMfence t s
  | .bar t => Sys2Proof.Machine.execBar t s
  | .wfe t => Sys2Proof.Machine.execWfe t s
  | .fin t => Sys2Proof.Machine.execFin t s
  | .finStop t => Sys2Proof.Machine.execFinStop t s
  | .stage t => Sys2Proof.Machine.execStage t s
  | .frame t => Sys2Proof.Machine.execFrame t s
  | .frameSwitch t => Sys2Proof.Machine.execFrameSwitch t s
  | .frameEntry t => Sys2Proof.Machine.execFrameEntry t s
  | .heavy t => Sys2Proof.Machine.execHeavy t s
  | .brk t => Sys2Proof.Machine.execBrk t s
  | .tret t => Sys2Proof.Machine.execTret t s
  | .nop t => Sys2Proof.Machine.execNop t s
  | .engineFault t => Sys2Proof.Machine.execEngineFault t s
  | .waitTimeout t => Sys2Proof.Machine.execWaitTimeout t s
  | .tileIdleEntry t => Sys2Proof.Machine.execTileIdleEntry t s
  | .teProduct t => Sys2Proof.Machine.execTeProduct t s
  | .teSubtileDrain t => Sys2Proof.Machine.execTeSubtileDrain t s
  | .veOperation t => Sys2Proof.Machine.execVeOperation t s
  | .suConvert t => Sys2Proof.Machine.execSuConvert t s
  | .suCompress t => Sys2Proof.Machine.execSuCompress t s
  | .suDecompress t => Sys2Proof.Machine.execSuDecompress t s
  | .suPrune t => Sys2Proof.Machine.execSuPrune t s
  | .txTranspose t => Sys2Proof.Machine.execTxTranspose t s
  | .txStream t => Sys2Proof.Machine.execTxStream t s
  | .streamPairing t => Sys2Proof.Machine.execStreamPairing t s
  | .fuEval t => Sys2Proof.Machine.execFuEval t s
  | .fuLoadtab t => Sys2Proof.Machine.execFuLoadtab t s
  | .ldLoad t => Sys2Proof.Machine.execLdLoad t s
  | .ldSave t => Sys2Proof.Machine.execLdSave t s
  | .sends t => Sys2Proof.Machine.execSends t s
  | .recv t => Sys2Proof.Machine.execRecv t s
  | .put t => Sys2Proof.Machine.execPut t s
  | .get t => Sys2Proof.Machine.execGet t s
  | .update t => Sys2Proof.Machine.execUpdate t s
  | .reduce t fallingFirst => Sys2Proof.Machine.execReduce t fallingFirst s
  | .ueTeProduct t => Sys2Proof.Machine.execUeTeProduct t s
  | .engineCommandComplete t q => Sys2Proof.Machine.execEngineCommandComplete t q s
  | .engineFaultEffect t q => Sys2Proof.Machine.execEngineFaultEffect t q s
  | .resume t q => Sys2Proof.Machine.execResume t q s
  | .retry t q => Sys2Proof.Machine.execRetry t q s
  | .discard t q => Sys2Proof.Machine.execDiscard t q s
  | .clrflags t q => Sys2Proof.Machine.execClrflags t q s
  | .sparseDropReport => Sys2Proof.Machine.execSparseDropReport s
  | .itemArrival t => Sys2Proof.Machine.execItemArrival t s
  | .spillReadbackDone t port => Sys2Proof.Machine.execSpillReadbackDone t port s
  | .streamCredit t => Sys2Proof.Machine.execStreamCredit t s
  | .ringCredit t => Sys2Proof.Machine.execRingCredit t s
  | .barrierArrival t => Sys2Proof.Machine.execBarrierArrival t s
  | .barrierRelease t => Sys2Proof.Machine.execBarrierRelease t s
  | .steerMerge t u => Sys2Proof.Machine.execSteerMerge t u s
  | .steerSplit t u => Sys2Proof.Machine.execSteerSplit t u s
  | .steerSelect t u => Sys2Proof.Machine.execSteerSelect t u s
  | .steerGate t u => Sys2Proof.Machine.execSteerGate t u s
  | .niSteerWrite t u v => Sys2Proof.Machine.execNiSteerWrite t u v s
  | .niPortWrite t port v => Sys2Proof.Machine.execNiPortWrite t port v s
  | .deadlockWindow t conn => Sys2Proof.Machine.execDeadlockWindow t conn s
  | .probeReceive t => Sys2Proof.Machine.execProbeReceive t s
  | .plotDrained p => Sys2Proof.Machine.execPlotDrained p s
  | .frameReport => Sys2Proof.Machine.execFrameReport s
  | .layerAdvance p => Sys2Proof.Machine.execLayerAdvance p s
  | .placementCommit p => Sys2Proof.Machine.execPlacementCommit p s
  | .replacement p => Sys2Proof.Machine.execReplacement p s
  | .facetCfgWrite f v => Sys2Proof.Machine.execFacetCfgWrite f v s
  | .facetTrainingDone f joined miswired peerId peerFacet => Sys2Proof.Machine.execFacetTrainingDone f joined miswired peerId peerFacet s
  | .attest f g => Sys2Proof.Machine.execAttest f g s
  | .facetAttestDone f failStep rtt => Sys2Proof.Machine.execFacetAttestDone f failStep rtt s
  | .facetFrameSend port => Sys2Proof.Machine.execFacetFrameSend port s
  | .facetFrameReceive port frame symErrs => Sys2Proof.Machine.execFacetFrameReceive port frame symErrs s
  | .nak port g => Sys2Proof.Machine.execNak port g s
  | .facetPortFail port => Sys2Proof.Machine.execFacetPortFail port s
  | .optRelayOpen port incoming => Sys2Proof.Machine.execOptRelayOpen port incoming s
  | .formationStart => Sys2Proof.Machine.execFormationStart s
  | .form g => Sys2Proof.Machine.execForm g s
  | .formTimeout => Sys2Proof.Machine.execFormTimeout s
  | .roster g => Sys2Proof.Machine.execRoster g s
  | .beatTimer => Sys2Proof.Machine.execBeatTimer s
  | .mark g => Sys2Proof.Machine.execMark g s
  | .beatGroupComplete p => Sys2Proof.Machine.execBeatGroupComplete p s
  | .slipreq g => Sys2Proof.Machine.execSlipreq g s
  | .bararr g => Sys2Proof.Machine.execBararr g s
  | .barrel g => Sys2Proof.Machine.execBarrel g s
  | .checked g => Sys2Proof.Machine.execChecked g s
  | .commitGrain g => Sys2Proof.Machine.execCommitGrain g s
  | .markTimeout => Sys2Proof.Machine.execMarkTimeout s
  | .roceWrite e qpn rkey va bytes => Sys2Proof.Machine.execRoceWrite e qpn rkey va bytes s
  | .roceRead e qpn rkey va len => Sys2Proof.Machine.execRoceRead e qpn rkey va len s
  | .roceSend e qpn bytes => Sys2Proof.Machine.execRoceSend e qpn bytes s
  | .cnpReceive => Sys2Proof.Machine.execCnpReceive s
  | .cnpRateRecovery => Sys2Proof.Machine.execCnpRateRecovery s
  | .rdmaReadResponse q bytes => Sys2Proof.Machine.execRdmaReadResponse q bytes s
  | .rdmaWriteAck q => Sys2Proof.Machine.execRdmaWriteAck q s
  | .qpRetryTimeout n => Sys2Proof.Machine.execQpRetryTimeout n s
  | .hostQpW0Write n v => Sys2Proof.Machine.execHostQpW0Write n v s
  | .vhcpCommandArrival e payload => Sys2Proof.Machine.execVhcpCommandArrival e payload s
  | .loadPackage q => Sys2Proof.Machine.execLoadPackage q s
  | .place q => Sys2Proof.Machine.execPlace q s
  | .run q => Sys2Proof.Machine.execRun q s
  | .hostStage q => Sys2Proof.Machine.execHostStage q s
  | .check q => Sys2Proof.Machine.execCheck q s
  | .commit q => Sys2Proof.Machine.execCommit q s
  | .abort q => Sys2Proof.Machine.execAbort q s
  | .query q => Sys2Proof.Machine.execQuery q s
  | .regRead q => Sys2Proof.Machine.execRegRead q s
  | .regWrite q => Sys2Proof.Machine.execRegWrite q s
  | .dumpFetch q => Sys2Proof.Machine.execDumpFetch q s
  | .recover q => Sys2Proof.Machine.execRecover q s
  | .commandTimeout q => Sys2Proof.Machine.execCommandTimeout q s
  | .commitAcksComplete k => Sys2Proof.Machine.execCommitAcksComplete k s
  | .commitInstant k => Sys2Proof.Machine.execCommitInstant k s
  | .refMonitorWindow src count gap => Sys2Proof.Machine.execRefMonitorWindow src count gap s
  | .pllCoast f => Sys2Proof.Machine.execPllCoast f s
  | .pllRelock f => Sys2Proof.Machine.execPllRelock f s
  | .pllSlewDone f => Sys2Proof.Machine.execPllSlewDone f s
  | .clkMuxSelWrite m v => Sys2Proof.Machine.execClkMuxSelWrite m v s
  | .clkMuxSwitchDone m => Sys2Proof.Machine.execClkMuxSwitchDone m s
  | .clkMuxHang m => Sys2Proof.Machine.execClkMuxHang m s
  | .clkMuxForce m => Sys2Proof.Machine.execClkMuxForce m s
  | .clkMeasGo v => Sys2Proof.Machine.execClkMeasGo v s
  | .clkMeasDone count => Sys2Proof.Machine.execClkMeasDone count s
  | .tileNapWake t => Sys2Proof.Machine.execTileNapWake t s
  | .tileDarkWake t => Sys2Proof.Machine.execTileDarkWake t s
  | .fieldToPenumbra f => Sys2Proof.Machine.execFieldToPenumbra f s
  | .fieldToLit f => Sys2Proof.Machine.execFieldToLit f s
  | .fieldToUmbra f emergency => Sys2Proof.Machine.execFieldToUmbra f emergency s
  | .fieldPowerUp f => Sys2Proof.Machine.execFieldPowerUp f s
  | .capLoop pin plots => Sys2Proof.Machine.execCapLoop pin plots s
  | .heavyHintReceive meanPower meanRate => Sys2Proof.Machine.execHeavyHintReceive meanPower meanRate s
  | .pwrCapSetWrite v => Sys2Proof.Machine.execPwrCapSetWrite v s
  | .energySample f plots queues dev ein watts => Sys2Proof.Machine.execEnergySample f plots queues dev ein watts s
  | .droopCrossing f => Sys2Proof.Machine.execDroopCrossing f s
  | .droopClampStep f => Sys2Proof.Machine.execDroopClampStep f s
  | .backfillStep t => Sys2Proof.Machine.execBackfillStep t s
  | .supplySample vin => Sys2Proof.Machine.execSupplySample vin s
  | .supplyCeilingStep => Sys2Proof.Machine.execSupplyCeilingStep s
  | .overloadStep avg => Sys2Proof.Machine.execOverloadStep avg s
  | .shutdownStage => Sys2Proof.Machine.execShutdownStage s
  | .thermalSample f t0 t1 t2 t3 => Sys2Proof.Machine.execThermalSample f t0 t1 t2 t3 s
  | .thmCfgWrite v => Sys2Proof.Machine.execThmCfgWrite v s
  | .fieldShort f => Sys2Proof.Machine.execFieldShort f s
  | .shortRetry f short => Sys2Proof.Machine.execShortRetry f short s
  | .tableCommit => Sys2Proof.Machine.execTableCommit s
  | .fence p cause => Sys2Proof.Machine.execFence p cause s
  | .fenceDrained p => Sys2Proof.Machine.execFenceDrained p s
  | .fenceDrainLimit p => Sys2Proof.Machine.execFenceDrainLimit p s
  | .twinDigest t => Sys2Proof.Machine.execTwinDigest t s
  | .resetNLow => Sys2Proof.Machine.execResetNLow s
  | .rasResetDevice => Sys2Proof.Machine.execRasResetDevice s
  | .rasResetWarm => Sys2Proof.Machine.execRasResetWarm s
  | .rasResetField f => Sys2Proof.Machine.execRasResetField f s
  | .rasResetPlot p => Sys2Proof.Machine.execRasResetPlot p s
  | .rasResetTile t => Sys2Proof.Machine.execRasResetTile t s
  | .plotResetReset p => Sys2Proof.Machine.execPlotResetReset p s
  | .plotResetFence p => Sys2Proof.Machine.execPlotResetFence p s
  | .resetComplete => Sys2Proof.Machine.execResetComplete s
  | .loamZeroing p => Sys2Proof.Machine.execLoamZeroing p s
  | .rasDrainWrite v => Sys2Proof.Machine.execRasDrainWrite v s
  | .scanGo v => Sys2Proof.Machine.execScanGo v s
  | .scanPeriod => Sys2Proof.Machine.execScanPeriod s
  | .scanDone f tiles spills => Sys2Proof.Machine.execScanDone f tiles spills s
  | .fatalError cause => Sys2Proof.Machine.execFatalError cause s
  | .aiTrigger => Sys2Proof.Machine.execAiTrigger s
  | .afterimageSigned => Sys2Proof.Machine.execAfterimageSigned s
  | .aiRelease => Sys2Proof.Machine.execAiRelease s
  | .watchdogAnswer => Sys2Proof.Machine.execWatchdogAnswer s
  | .watchdogExpiry => Sys2Proof.Machine.execWatchdogExpiry s
  | .topsoilRequest req => Sys2Proof.Machine.execTopsoilRequest req s
  | .powerUp => Sys2Proof.Machine.execPowerUp s
  | .auxStop => Sys2Proof.Machine.execAuxStop s
  | .deviceBoot straps => Sys2Proof.Machine.execDeviceBoot straps s
  | .bootStage obs => Sys2Proof.Machine.execBootStage obs s
  | .refwaitRetry refclkOk crystalOk => Sys2Proof.Machine.execRefwaitRetry refclkOk crystalOk s
  | .topsoilReady => Sys2Proof.Machine.execTopsoilReady s
  | .topsoilStartTimeout => Sys2Proof.Machine.execTopsoilStartTimeout s
  | .flashWriteDone ok => Sys2Proof.Machine.execFlashWriteDone ok s
  | .telemRecordReceive t => Sys2Proof.Machine.execTelemRecordReceive t s
  | .telemDatagramSend cls => Sys2Proof.Machine.execTelemDatagramSend cls s
  | .alarmResend => Sys2Proof.Machine.execAlarmResend s
  | .telemAackWrite v => Sys2Proof.Machine.execTelemAackWrite v s
  | .summaryClose code => Sys2Proof.Machine.execSummaryClose code s
  | .meshCfgWrite v => Sys2Proof.Machine.execMeshCfgWrite v s
  | .meshRouterQuery rlink => Sys2Proof.Machine.execMeshRouterQuery rlink s
  | .routeTableRead => Sys2Proof.Machine.execRouteTableRead s
  | .registerWrite addr v => Sys2Proof.Machine.execRegisterWrite addr v s
  | .illegalInstruction t => Sys2Proof.Machine.execIllegalInstruction t s
  | .referenceEdgeGap => Sys2Proof.Machine.execReferenceEdgeGap s
  | .forwardedClockStop r p => Sys2Proof.Machine.execForwardedClockStop r p s
  | .tileResetTimeout t => Sys2Proof.Machine.execTileResetTimeout t s
  | .hostLinkChange a up swapped => Sys2Proof.Machine.execHostLinkChange a up swapped s
  | .secureAssociation a live => Sys2Proof.Machine.execSecureAssociation a live s
  | .pfcFrame a pause => Sys2Proof.Machine.execPfcFrame a pause s
  | .ptpEventMessage a transmitSync time => Sys2Proof.Machine.execPtpEventMessage a transmitSync time s
  | .tapAccess code => Sys2Proof.Machine.execTapAccess code s
  | .stewardSupplyLoss => Sys2Proof.Machine.execStewardSupplyLoss s

end Sys2Proof.Machine
end

