-- ==== Sys2Proof/Machine/Step.lean ====
section
/-!
DEFINITION. One step: the command at the front of the queue, or one MCLK edge where none waits (DESIGN CHOICE, notes/assumptions/3.md).
-/
namespace Sys2Proof.Machine

/-- The step. With no command waiting, the block idles for one MCLK: SHADOW_CYCLE counts on (R379). -/
def step (s : State) : Host.Outcome State Fault Refusal :=
  match s.pending with
  | [] => .next { s with cycle := s.cycle + 1 }
  | c :: rest => exec c { s with pending := rest }

/-- The state with the command that a word spells at the front of its queue. -/
def State.withFetchWord (s : State) (nbits w : Nat) : State :=
  match decodeTableWord nbits w with
  | some c => { s with pending := c :: s.pending }
  | none => s

end Sys2Proof.Machine
end

