-- ==== Sys2Proof/Safety.lean ====
section
/-!
DEFINITION. What claims call a sound state of the module: sparse data in its one canonical form, so that equal contents are equal states
(Machine/Map.lean), and what a command may never do to the commands that wait behind it.
-/
namespace Sys2Proof.Machine

/-- Every map of the state holds its canonical form. -/
structure State.Canonical (s : State) : Prop where
  mem       : Memory.wf s.mem
  flash     : mapWf flashDefault s.flash = true
  sreg      : mapWf regReset s.sreg = true
  tiles     : mapWf (fun _ => Tile.reset) s.tiles = true
  routers   : mapWf (fun _ => Router.empty) s.routers = true
  plots     : mapWf (fun _ => PlotSt.reset) s.plots = true
  hostQ     : mapWf (fun _ => HostQueue.reset) s.hostQ = true
  hostPorts : mapWf (fun _ => HostPort.reset) s.hostPorts = true
  optPorts  : mapWf (fun _ => OptPort.reset) s.optPorts = true
  facets    : mapWf (fun _ => FacetRt.reset) s.facets = true
  fields    : mapWf (fun _ => FieldRt.reset) s.fields = true
  prism     : mapWf (fun _ => 0) s.prism = true

/-- The commands that wait are those of p, and the state is canonical: what every meaning leaves as it found it. -/
structure State.Keeps (p : List Instr) (s : State) : Prop where
  queue : s.pending = p
  canon : s.Canonical

/-- An outcome keeps what its next state, if it has one, keeps. -/
def outKeeps (p : List Instr) : Host.Outcome State Fault Refusal → Prop
  | .next s => s.Keeps p
  | .fault _ => True
  | .refused _ => True

/-! ### What a unit of the tile meets -/

/-- A compute tile of a device that is not frozen. -/
structure State.Live (s : State) (t : Site) : Prop where
  tile   : t.isTile = true
  thawed : s.frozen = false

/-- A site of the wafer of a device that is not frozen. -/
structure State.LiveSite (s : State) (t : Site) : Prop where
  wafer  : t.onWafer = true
  thawed : s.frozen = false

/-- g is the first of a list that satisfies p, and rest is the list without it. -/
def Picks {α : Type} (p : α → Bool) (l : List α) (g : α) (rest : List α) : Prop :=
  ∃ a b, l = a ++ g :: b ∧ rest = a ++ b ∧ (∀ x ∈ a, p x = false) ∧ p g = true

/-- The NI's local port without the grain that is taken. -/
def State.withInbox (s : State) (t : Site) (l : List Grain) : State := s.onNi t (fun n => { n with inbox := l })

/-- The grains delivered in order without those that are consumed. -/
def State.withReady (s : State) (t : Site) (l : List Grain) : State := s.onNi t (fun n => { n with ready := l })

/-- A grain of kind k at the local port that is no prism grain. -/
def ofKind (k : Nat) (g : Grain) : Bool := decide (g.kind.toNat = k) && !isPrism g

/-- Every byte of the device memory outside n bytes from a reads as before. -/
def SameOutside (s s' : State) (a n : Nat) : Prop := ∀ x, (x < a ∨ a + n ≤ x) → s'.byte x = s.byte x

/-- A state whose device memory is unchanged. -/
def SameMemory (s s' : State) : Prop := ∀ x, s'.byte x = s.byte x

/-! ### The host's commands (chapter 11) -/

/-- The host commands of queue q, each with its OP (R350). -/
def hostRows (q : Nat) : List (Instr × Nat) :=
  [(.loadPackage q, opLoad), (.place q, opPlace), (.run q, opRun), (.hostStage q, opStage), (.check q, opCheck), (.commit q, opCommit),
   (.abort q, opAbort), (.query q, opQuery), (.regRead q, opRegRead), (.regWrite q, opRegWrite), (.dumpFetch q, opDump),
   (.recover q, opRecover)]

/-- Queue q has come to the command c of this OP, and neither its form nor a fence keeps it from running (R345, R347, R428). -/
structure State.Serves (s : State) (q op : Nat) (c : HostCmd) : Prop where
  queue  : q < Config.hostQueues
  cmd    : s.command q op = some c
  sound  : s.refusedCmd q c = none
  unheld : s.fenceStops q c = false

/-- A frame that port e.port takes for context n of a device that is READY (R339, R340, R357, R530). -/
structure State.Admits (s : State) (e : Ether) (qpn n : Nat) : Prop where
  port  : e.port < 2
  link  : s.linkOn e.port = true
  takes : s.takes e = true
  qp    : qpOf qpn = some n
  ready : s.qpReady n = true
  stage : s.stage = 8

/-! ### The control core (chapter 4) -/

/-- The core of tile t stands at the word w, whose major opcode is op; no asynchronous trap comes before it (R146). -/
structure State.StandsAt (s : State) (t : Site) (op : Nat) (w : Word) : Prop where
  tile   : t.isTile = true
  thawed : s.frozen = false
  bound  : s.atBoundary t = true
  word   : (s.core t).word = some w
  op     : fOp w = op
  calm   : (s.core t).pendQ = [] ∨ (s.core t).trapT = true

/-- The core stands at w and its guard holds (R117). -/
structure State.Runs (s : State) (t : Site) (op : Nat) (w : Word) : Prop extends s.StandsAt t op w where
  guard : (s.core t).pred (fPg w) = true

/-- The instructions of R119, each with its major opcode and the words that R118 lets it have. -/
def coreRows (t : Site) : List (Instr × Nat × (Word → Prop)) :=
  let regs0 := fun w : Word => fRd w = 0 ∧ fRa w = 0 ∧ fRb w = 0 ∧ fFn w = 0
  [(.alu t, 0x01, fun w => fFn w ≤ 0x14 ∧ (0x13 ≤ fFn w → fRb w = 0)),
   (.addi t, 0x02, fun _ => True), (.andi t, 0x03, fun _ => True), (.ori t, 0x04, fun _ => True),
   (.xori t, 0x05, fun _ => True), (.shi t, 0x06, fun w => fImm13 w < 128),
   (.lil t, 0x08, fun w => Word.field w 17 16 = 0), (.lih t, 0x09, fun w => Word.field w 17 16 = 0),
   (.mfs t, 0x0A, fun w => fRa w = 0 ∧ fRb w = 0 ∧ fFn w ≤ 13),
   (.mts t, 0x0B, fun w => fRd w = 0 ∧ fRb w = 0 ∧ (fFn w = 5 ∨ fFn w = 6 ∨ fFn w = 9 ∨ fFn w = 10 ∨ fFn w = 11)),
   (.lb t, 0x10, fun _ => True), (.lbu t, 0x11, fun _ => True), (.lh t, 0x12, fun _ => True), (.lhu t, 0x13, fun _ => True),
   (.lw t, 0x14, fun _ => True), (.ldd t, 0x15, fun w => fRd w % 2 = 0),
   (.sb t, 0x18, fun _ => True), (.sh t, 0x19, fun _ => True), (.sw t, 0x1A, fun _ => True),
   (.sdd t, 0x1B, fun w => fRd w % 2 = 0),
   (.br t, 0x20, fun _ => True), (.bl t, 0x21, fun _ => True), (.jr t, 0x22, fun w => fRb w = 0 ∧ fFn w = 0),
   (.pcmp t, 0x24, fun w => Word.field w 6 3 ≤ 0xB ∧ Word.field w 2 0 = 0), (.pcmpi t, 0x25, fun w => Word.field w 11 8 ≤ 0xB),
   (.plog t, 0x26, fun w => Word.field w 13 10 ≤ 7 ∧ Word.field w 9 0 = 0),
   (.pmov t, 0x27, fun w => fRb w = 0 ∧ ((fFn w = 0 ∧ fRa w = 0) ∨ (fFn w = 1 ∧ fRd w = 0))),
   (.issue t, 0x28, fun w => fV w = 0 ∨ (fRa w % 4 = 0 ∧ fOff9 w = 0)),
   (.waitc t, 0x29, fun w => fRd w = 0 ∧ fV w = 0 ∧ fOff9 w = 0), (.rdcc t, 0x2A, fun w => fRa w = 0 ∧ fOff9 w = 0),
   (.waitm t, 0x2B, fun w => fRd w = 0 ∧ fRa w = 0 ∧ fRb w = 0),
   (.openConn t, 0x30, fun w => fImm13 w < 64), (.close t, 0x31, fun w => fRd w = 0 ∧ fRb w = 0 ∧ fFn w = 0),
   (.send t, 0x32, fun w => fFn w < 64), (.hret t, 0x33, regs0), (.mfence t, 0x34, regs0),
   (.bar t, 0x35, fun w => fRd w = 0 ∧ fRa w = 0 ∧ fImm13 w < 16), (.wfe t, 0x36, regs0), (.fin t, 0x37, regs0),
   (.stage t, 0x38, fun w => fRd w = 0 ∧ fFn w = 0), (.frame t, 0x39, fun w => fRd w = 0 ∧ fRa w = 0 ∧ fImm13 w < 8),
   (.heavy t, 0x3C, fun w => fRd w = 0 ∧ fRa w = 0 ∧ fImm13 w < 0x1000), (.brk t, 0x3D, fun w => fRd w = 0 ∧ fRa w = 0),
   (.tret t, 0x3E, regs0), (.nop t, 0x3F, regs0)]

end Sys2Proof.Machine
end

