-- ==== Sys2Proof/Certificates/Slice0/Obligations.lean ====
section
/-!
DEFINITION. The statements for the provers, in the order of OBLIGATIONS.json. Each says which rules of the spec it formalises.
-/
open Sys2Proof Sys2Proof.Machine

/-! ### The queue of commands and reset -/

/-- The command at the front of the queue is the one that a step runs, on the state with the queue's rest. -/
def Obligations.StepRunsTheFrontCommand : Prop :=
  ∀ (c : Instr) (rest : List Instr) (s : State),
    step { s with pending := c :: rest } = exec c { s with pending := rest }

/-- With no command waiting, one MCLK edge passes: SHADOW_CYCLE counts on and nothing else changes (the model's choice: DESIGN
CHOICE, notes/assumptions/3.md). -/
def Obligations.IdleStepCountsACycle : Prop :=
  ∀ s : State, s.pending = [] → step s = .next { s with cycle := s.cycle + 1 }

/-- Reset leaves the machine canonical and with an empty queue. -/
def Obligations.ResetIsCanonical : Prop := State.reset.Canonical ∧ State.reset.pending = []

/-- What the spec gives as reset values: those of the register index, a core stopped with zeroed registers, predicates p1 to p7
at 0 and p0 at 1, no trap and no handler, and queues that count nothing. -/
def Obligations.ResetRegisters : Prop :=
  (∀ r ∈ regTable, ∀ i, i < r.count → r.first + r.stride * i ≠ rHostQcfg 0 →
      State.reset.reg (r.first + r.stride * i) = BitVec.ofNat 64 r.reset) ∧
    State.reset.reg (rHostQcfg 0) = 3 ∧ State.reset.cycle = 0 ∧
    (∀ t : Site, let c := State.reset.core t
      c.run = .stopped ∧ (∀ i, c.get i = 0) ∧ c.pred 0 = true ∧ (∀ i, 0 < i → c.pred i = false) ∧ c.trapT = false ∧
        c.handH = false ∧ c.handE = false ∧ c.epc = 0 ∧ c.cause = 0 ∧ c.tval = 0 ∧ c.tvec = 0 ∧ c.hpc = 0 ∧ c.wlimit = 0 ∧
        c.commits = 0 ∧ c.cychi = 0 ∧ c.frame = 0 ∧ c.staged.stat = 0) ∧
    (∀ (t : Site) (q : Nat), (State.reset.queue t q).icnt = 0 ∧ (State.reset.queue t q).ccnt = 0 ∧
      (State.reset.queue t q).halted = false)

/-- Every map of the state stays in its one canonical form, whatever command a step runs. -/
def Obligations.StepKeepsTheStateCanonical : Prop :=
  ∀ s s' : State, s.Canonical → step s = .next s' → s'.Canonical

/-- No command touches the commands that wait behind it. -/
def Obligations.CommandsLeaveTheQueueAlone : Prop :=
  ∀ (c : Instr) (s s' : State), s.Canonical → exec c s = .next s' → s'.pending = s.pending

/-- A frozen device holds every tile: no event of a core instruction happens there (R446). -/
def Obligations.FrozenTilesStand : Prop :=
  ∀ (t : Site) (s : State), t.isTile = true → s.frozen = true →
    (∀ r ∈ coreRows t, exec r.1 s = .refused .frozen) ∧
      (∀ i ∈ [Instr.grainAccept t, .ackReceive t, .loamRefresh t, .tileIdleEntry t, .handlerDispatch t, .storeBufferPerform t,
        .instructionFetch t, .engineFault t, .waitTimeout t, .cacheWriteback t, .frameSwitch t],
        exec i s = .refused .frozen)

/-! ### The control core: registers, guard, decoding -/

/-- The files of the core (R109, R138): a read after a write, s0, and the handler bank that stands for s24 to s31 while a handler
runs; p0 reads 1 and takes no write; a write touches nothing else. The PC leaves for the next word in line (R117) or for another
(R114): what happens to the fetch buffer. A JR whose rd is its ra jumps to the old value (DEDUCED, notes/assumptions/12.md). -/
def Obligations.CoreRegisterFiles : Prop :=
  (∀ (c : Core) (i j p q : Nat) (v : Word) (b : Bool) (a : BitVec 19), i < 32 → j < 32 → p < 8 → q < 8 →
    (c.get 0 = 0 ∧ c.put 0 v = c ∧
      ((c.put i v).get j = if i = j ∧ i ≠ 0 then v else c.get j) ∧
      (c.handH = true → 24 ≤ i → (c.put i v).regs = c.regs) ∧
      (c.handH = false → (c.put i v).bank = c.bank) ∧ ((i < 24) → (c.put i v).bank = c.bank) ∧
      (∃ (r : Vector Word 32) (b : Vector Word 8), c.put i v = { c with regs := r, bank := b })) ∧
    (c.pred 0 = true ∧ c.setPred 0 b = c ∧ ((c.setPred p b).pred q = if p = q ∧ p ≠ 0 then b else c.pred q) ∧
      (∃ x : BitVec 8, c.setPred p b = { c with preds := x })) ∧
    (c.advance.pc.toNat = (c.pc.toNat + 4) % 2 ^ 19 ∧
      (c.pc.toNat % 8 = 0 → c.advance.fetch = c.fetch) ∧ (c.pc.toNat % 8 = 4 → c.advance.fetch = c.fetch.drop 1) ∧
      (∃ f, c.advance = { c with pc := c.pc + 4, fetch := f }) ∧ c.jump a = { c with pc := a, fetch := [] })) ∧
  (∀ (s : State) (t : Site) (w : Word), s.Runs t 0x22 w → fRb w = 0 → fFn w = 0 → fRd w = fRa w →
    let a := (s.core t).get (fRa w)
    a.toNat % 4 = 0 → a.toNat < 0x80000 → exec (.jr t) s = .next (s.onCore t (fun c =>
      { c.put (fRd w) (BitVec.setWidth 32 (c.pc + 4)) with pc := BitVec.ofNat 19 a.toNat, fetch := [] })))

/-- An instruction whose guard is false only advances the PC, in every state of the core (R117). -/
def Obligations.FalseGuardOnlyAdvancesThePc : Prop :=
  ∀ (s : State) (t : Site) (w : Word), ∀ r ∈ coreRows t, s.StandsAt t r.2.1 w → r.2.2 w → (s.core t).pred (fPg w) = false →
    exec r.1 s = .next (s.onCore t Core.advance)

/-- A word that R118 refuses raises ILLEGAL whatever its guard, and so does a reserved opcode, the all-zero word among
them. -/
def Obligations.IllegalWordsTrap : Prop :=
  ∀ (s : State) (t : Site) (w : Word), t.isTile = true → s.frozen = false → s.atBoundary t = true → (s.core t).word = some w →
    (∀ r ∈ coreRows t, fOp w = r.2.1 → ¬ r.2.2 w → exec r.1 s = .next (s.takeTrap t 2 w)) ∧
      ((∀ r ∈ coreRows t, fOp w ≠ r.2.1) → exec (.illegalInstruction t) s = .next (s.takeTrap t 2 w)) ∧
      fOp (0 : Word) = 0

/-- Trap entry (R147) and double traps (R148), by the one operation that every trap takes: a core outside a trap handler, with
a handler to go to, saves EPC, CAUSE and TVAL, sets T and enters at TVEC, and keeps its registers and STATUS.H; with no handler
to go to it saves them and stops; inside a trap handler it stops and saves nothing. A stopped core has told the steward. -/
def Obligations.TrapEntry : Prop :=
  ∀ (s : State) (t : Site) (cause tval : Word),
    (∀ tag rd, (s.core t).blocked ≠ some (.openConn tag rd)) →
    let c := s.core t
    let pc : Word := BitVec.setWidth 32 c.pc
    (c.trapT = false → c.tvec ≠ 0 → s.takeTrap t cause tval = s.onCore t (fun c => { c with
      epc := pc, cause := cause, tval := tval, trapT := true, blocked := none, pc := pcOf c.tvec.toNat, fetch := [] })) ∧
    (c.trapT = false → c.tvec = 0 → s.takeTrap t cause tval = (s.onCore t (fun c => { c with
      epc := pc, cause := cause, tval := tval, run := .stopped, blocked := none })).report t (.doubleTrap cause pc tval)) ∧
    (c.trapT = true → s.takeTrap t cause tval =
      (s.onCore t (fun c => { c with run := .stopped, blocked := none })).report t (.doubleTrap cause pc tval))

/-- BRK traps with imm13, and TRET returns to EPC and clears T (R144, R147); TRET outside a trap handler is ILLEGAL (R117). -/
def Obligations.BreakAndTrapReturn : Prop :=
  ∀ (s : State) (t : Site) (w : Word),
    (s.Runs t 0x3D w → fRd w = 0 → fRa w = 0 →
      exec (.brk t) s = .next (s.takeTrap t 10 (BitVec.ofNat 32 (fImm13 w)))) ∧
    (s.Runs t 0x3E w → Word.field w 22 0 = 0 → (s.core t).trapT = true →
      exec (.tret t) s = .next (s.onCore t (fun c => { c with
        trapT := false, pc := BitVec.ofNat 19 (c.epc.toNat / 4 * 4), fetch := [] }))) ∧
    (s.Runs t 0x3E w → Word.field w 22 0 = 0 → (s.core t).trapT = false →
      exec (.tret t) s = .next (s.takeTrap t 2 w))

/-! ### Arithmetic, special registers, branches, predicates -/

/-- ALU (R120, R121): each function in the arithmetic of the numbers that the registers hold; no flag and nothing else of the machine
changes. CLZ and POPC with an rb other than 0 are ILLEGAL. -/
def Obligations.AluComputes : Prop :=
  ∀ (s : State) (t : Site) (w : Word),
    (s.StandsAt t 0x01 w → 0x13 ≤ fFn w → fFn w ≤ 0x14 → fRb w ≠ 0 → exec (.alu t) s = .next (s.takeTrap t 2 w)) ∧
    (s.Runs t 0x01 w → fFn w ≤ 0x14 → (0x13 ≤ fFn w → fRb w = 0) →
    let a := (s.core t).get (fRa w)
    let b := (s.core t).get (fRb w)
    ∃ v : Word, exec (.alu t) s = .next (s.onCore t (fun c => (c.put (fRd w) v).advance)) ∧
      (fFn w = 0x00 → v.toNat = (a.toNat + b.toNat) % 2 ^ 32) ∧
      (fFn w = 0x01 → v.toNat = (a.toNat + (2 ^ 32 - b.toNat)) % 2 ^ 32) ∧
      (fFn w = 0x02 → ∀ i, v.getLsbD i = (a.getLsbD i && b.getLsbD i)) ∧
      (fFn w = 0x03 → ∀ i, v.getLsbD i = (a.getLsbD i || b.getLsbD i)) ∧
      (fFn w = 0x04 → ∀ i, v.getLsbD i = (a.getLsbD i != b.getLsbD i)) ∧
      (fFn w = 0x05 → v.toNat = a.toNat * 2 ^ (b.toNat % 32) % 2 ^ 32) ∧
      (fFn w = 0x06 → v.toNat = a.toNat / 2 ^ (b.toNat % 32)) ∧
      (fFn w = 0x07 → v.toInt = a.toInt / 2 ^ (b.toNat % 32)) ∧
      (fFn w = 0x08 → v.toNat = a.toNat * b.toNat % 2 ^ 32) ∧
      (fFn w = 0x09 → v.toNat = a.toNat * b.toNat / 2 ^ 32) ∧
      (fFn w = 0x0A → v.toInt = a.toInt * b.toInt / 2 ^ 32) ∧
      (fFn w = 0x0B → v.toNat = if b.toNat = 0 then 0xFFFFFFFF else a.toNat / b.toNat) ∧
      (fFn w = 0x0C → v.toNat = if b.toNat = 0 then a.toNat else a.toNat % b.toNat) ∧
      (fFn w = 0x0D → v.toInt = if b.toInt = 0 then -1 else if a.toInt = -2 ^ 31 ∧ b.toInt = -1 then -2 ^ 31
        else a.toInt.tdiv b.toInt) ∧
      (fFn w = 0x0E → v.toInt = if b.toInt = 0 then a.toInt else if a.toInt = -2 ^ 31 ∧ b.toInt = -1 then 0
        else a.toInt.tmod b.toInt) ∧
      (fFn w = 0x0F → v.toInt = min a.toInt b.toInt) ∧ (fFn w = 0x10 → v.toInt = max a.toInt b.toInt) ∧
      (fFn w = 0x11 → v.toNat = min a.toNat b.toNat) ∧ (fFn w = 0x12 → v.toNat = max a.toNat b.toNat) ∧
      (fFn w = 0x13 → v.toNat ≤ 32 ∧ (∀ i, i < v.toNat → a.getLsbD (31 - i) = false) ∧
        (v.toNat < 32 → a.getLsbD (31 - v.toNat) = true)) ∧
      (fFn w = 0x14 → v.toNat = ((List.range 32).filter (fun i => a.getLsbD i)).length))

/-- The immediate forms (R122), by the operands that they take; a SHI with a bit of imm13[12:7] is ILLEGAL. -/
def Obligations.ImmediateForms : Prop :=
  ∀ (s : State) (t : Site) (w : Word),
    let a := (s.core t).get (fRa w)
    let d := (s.core t).get (fRd w)
    let z : Word := BitVec.ofNat 32 (fImm13 w)
    let n := fImm13 w % 32
    let goTo := fun v : Word => Host.Outcome.next (φ := Fault) (ρ := Refusal) (s.onCore t (fun c => (c.put (fRd w) v).advance))
    (s.Runs t 0x02 w → exec (.addi t) s = goTo (a + BitVec.signExtend 32 (BitVec.ofNat 13 (fImm13 w)))) ∧
    (s.Runs t 0x03 w → exec (.andi t) s = goTo (a &&& z)) ∧ (s.Runs t 0x04 w → exec (.ori t) s = goTo (a ||| z)) ∧
    (s.Runs t 0x05 w → exec (.xori t) s = goTo (a ^^^ z)) ∧
    (s.Runs t 0x06 w → fImm13 w < 128 → exec (.shi t) s = goTo (if fImm13 w / 32 = 0 then a <<< n
      else if fImm13 w / 32 = 1 then a >>> n else if fImm13 w / 32 = 2 then a.sshiftRight n else a.rotateRight n)) ∧
    (s.StandsAt t 0x06 w → 128 ≤ fImm13 w → exec (.shi t) s = .next (s.takeTrap t 2 w)) ∧
    (s.Runs t 0x08 w → Word.field w 17 16 = 0 → exec (.lil t) s = goTo (BitVec.ofNat 32 (fImm16 w))) ∧
    (s.Runs t 0x09 w → Word.field w 17 16 = 0 →
      exec (.lih t) s = goTo (BitVec.ofNat 32 (fImm16 w * 2 ^ 16 + d.toNat % 2 ^ 16)))

/-- MFS and MTS (R110). -/
def Obligations.SpecialRegisters : Prop :=
  ∀ (s : State) (t : Site) (w : Word), s.Canonical →
    let c := s.core t
    let cycles := s.cycle - c.cycBase
    let read := fun v : Word => Host.Outcome.next (φ := Fault) (ρ := Refusal) (s.onCore t (fun c => (c.put (fRd w) v).advance))
    let wrote := fun f : Core → Core => Host.Outcome.next (φ := Fault) (ρ := Refusal) (s.onCore t (fun c => (f c).advance))
    (s.Runs t 0x0A w → fRa w = 0 → fRb w = 0 →
      (fFn w = 0 → exec (.mfs t) s = .next (s.onCore t (fun c =>
        ({ c with cychi := BitVec.ofNat 32 (cycles / 2 ^ 32) }.put (fRd w) (BitVec.ofNat 32 cycles)).advance))) ∧
      (fFn w = 1 → exec (.mfs t) s = read c.cychi) ∧ (fFn w = 2 → exec (.mfs t) s = read (BitVec.ofNat 32 (s.vxy t))) ∧
      (fFn w = 3 → exec (.mfs t) s = read (BitVec.ofNat 32 ((s.plotOf t).getD 0))) ∧
      (fFn w = 4 → exec (.mfs t) s = read (BitVec.ofNat 32 c.frame)) ∧ (fFn w = 5 → exec (.mfs t) s = read c.status) ∧
      (fFn w = 6 → exec (.mfs t) s = read c.epc) ∧ (fFn w = 7 → exec (.mfs t) s = read c.cause) ∧
      (fFn w = 8 → exec (.mfs t) s = read c.tval) ∧ (fFn w = 9 → exec (.mfs t) s = read c.tvec) ∧
      (fFn w = 10 → exec (.mfs t) s = read c.hpc) ∧ (fFn w = 11 → exec (.mfs t) s = read c.wlimit) ∧
      (fFn w = 12 → exec (.mfs t) s = read (BitVec.ofNat 32 c.staged.stat)) ∧
      (fFn w = 13 → exec (.mfs t) s = read c.commits)) ∧
    (s.Runs t 0x0B w → fRd w = 0 → fRb w = 0 →
      let v := c.get (fRa w)
      (fFn w = 5 → exec (.mts t) s = wrote (fun c => { c with handE := v.getLsbD 2 })) ∧
      (fFn w = 6 → exec (.mts t) s = wrote (fun c => { c with epc := v })) ∧
      (fFn w = 9 → exec (.mts t) s = wrote (fun c => { c with tvec := BitVec.ofNat 32 (v.toNat / 4 * 4) })) ∧
      (fFn w = 10 → exec (.mts t) s = wrote (fun c => { c with hpc := v })) ∧
      (fFn w = 11 → exec (.mts t) s = wrote (fun c => { c with wlimit := v }))) ∧
    (c.status.getLsbD 3 = !c.pendQ.isEmpty ∧ c.status.getLsbD 2 = c.handE ∧ c.status.getLsbD 1 = c.handH ∧
      c.status.getLsbD 0 = c.trapT)

/-- Loads (R123, R124, R114): which bytes they deliver, how they are extended, and the traps of R145 in their order. A load sees
its core's buffered stores. -/
def Obligations.LoadsReadTheStore : Prop :=
  ∀ (s : State) (t : Site) (w : Word),
    let rd := fRd w
    ∀ r ∈ [((Instr.lb t, 0x10, 1), fun (b : List Byte) (c : Core) => c.put rd (BitVec.signExtend 32 (BitVec.ofNat 8 (leNat b)))),
           ((.lbu t, 0x11, 1), fun b c => c.put rd (BitVec.ofNat 32 (leNat b))),
           ((.lh t, 0x12, 2), fun b c => c.put rd (BitVec.signExtend 32 (BitVec.ofNat 16 (leNat b)))),
           ((.lhu t, 0x13, 2), fun b c => c.put rd (BitVec.ofNat 32 (leNat b))),
           ((.lw t, 0x14, 4), fun b c => c.put rd (BitVec.ofNat 32 (leNat b))),
           ((.ldd t, 0x15, 8), fun b c =>
             (c.put rd (BitVec.ofNat 32 (leNat b))).put (rd + 1) (BitVec.ofNat 32 (leNat b / 2 ^ 32)))],
      s.Runs t r.1.2.1 w → (r.1.2.1 = 0x15 → rd % 2 = 0) →
      let i := r.1.1
      let n := r.1.2.2
      let ea := (s.core t).get (fRa w) + BitVec.signExtend 32 (BitVec.ofNat 13 (fImm13 w))
      let a := ea.toNat
      let bytes := (List.range n).map (fun k => (bufferedByte (s.core t).stbuf (a + k)).getD (s.byte (storeAddr t (a + k))))
      (a % n ≠ 0 → exec i s = .next (s.takeTrap t 3 ea)) ∧
      (a % n = 0 → a < s.storeEnd t →
        (s.firstUe t a n = none →
          exec i s = .next ((s.eccRead t a n).1.onCore t (fun c => (r.2 bytes c).advance))) ∧
        ((s.firstUe t a n).isSome → exec i s = .next ((s.eccRead t a n).1.takeTrap t 6 ea))) ∧
      (a % n = 0 → s.storeEnd t ≤ a → a < 0x70000 ∨ 0x80000 ≤ a → exec i s = .next (s.takeTrap t 4 ea)) ∧
      (a % n = 0 → 0x70000 ≤ a → a < 0x80000 →
        (ctrlReg a = none → exec i s = .next (s.takeTrap t 4 ea)) ∧
        (∀ k b, ctrlReg a = some (k, b) → ¬ (k = n ∧ b = a) → exec i s = .next (s.takeTrap t 5 ea)) ∧
        (ctrlReg a = some (n, a) → (s.core t).stbuf = [] →
          exec i s = .next (s.onCore t (fun c => (r.2 (leBytes n (s.ctrlRead t a).toNat) c).advance))))

/-- Stores (R114, R123): a store enters the buffer of 4, or writes a tile control register once the buffer is empty; with the
traps of R145. -/
def Obligations.StoresEnterTheBuffer : Prop :=
  ∀ (s : State) (t : Site) (w : Word),
    let c := s.core t
    let low := (c.get (fRd w)).toNat
    ∀ r ∈ [(Instr.sb t, 0x18, 1, low % 2 ^ 8), (.sh t, 0x19, 2, low % 2 ^ 16), (.sw t, 0x1A, 4, low),
           (.sdd t, 0x1B, 8, low + (c.get (fRd w + 1)).toNat * 2 ^ 32)],
      s.Runs t r.2.1 w → (r.2.1 = 0x1B → fRd w % 2 = 0) →
      let i := r.1
      let n := r.2.2.1
      let ea := c.get (fRa w) + BitVec.signExtend 32 (BitVec.ofNat 13 (fImm13 w))
      let a := ea.toNat
      (a % n ≠ 0 → exec i s = .next (s.takeTrap t 3 ea)) ∧
      (a % n = 0 → a < s.storeEnd t → c.stbuf.length < 4 →
        ∃ e : SbEntry, exec i s = .next (s.onCore t (fun c => { c with stbuf := c.stbuf ++ [e] }.advance)) ∧
          e.addr = a / 8 * 8 ∧ (∀ k, k < 8 → e.mask.getLsbD k = decide (a % 8 ≤ k ∧ k < a % 8 + n)) ∧
          e.data.toNat = r.2.2.2 * 2 ^ (8 * (a % 8))) ∧
      (a % n = 0 → s.storeEnd t ≤ a → a < 0x70000 ∨ 0x80000 ≤ a → exec i s = .next (s.takeTrap t 4 ea)) ∧
      (a % n = 0 → 0x70000 ≤ a → a < 0x80000 →
        (ctrlReg a = none → exec i s = .next (s.takeTrap t 4 ea)) ∧
        (∀ k b, ctrlReg a = some (k, b) → ¬ (k = n ∧ b = a) → exec i s = .next (s.takeTrap t 5 ea)) ∧
        (ctrlReg a = some (n, a) → c.stbuf = [] → ∃ v : Dword, v.toNat = low + (if n = 8 then (c.get (fRd w + 1)).toNat * 2 ^ 32 else 0) ∧
          exec i s = .next ((s.ctrlWrite t a v).onCore t Core.advance)))

/-- STORE_BUFFER_PERFORM (R114): the oldest store is performed. Its bytes are read back, every other byte of memory reads as
before, and its row takes CORE_GEN when tagging is on (R64). -/
def Obligations.StoreBufferPerforms : Prop :=
  ∀ (s : State) (t : Site) (e : SbEntry) (rest : List SbEntry) (lo n : Nat),
    s.Live t → s.Canonical → (s.core t).stbuf = e :: rest → 1 ≤ n → lo + n ≤ 8 →
    (∀ k, k < 8 → e.mask.getLsbD k = decide (lo ≤ k ∧ k < lo + n)) →
    let a := storeAddr t (e.addr + lo)
    ∃ s', exec (.storeBufferPerform t) s = .next s' ∧ (s'.core t).stbuf = rest ∧ SameOutside s s' a n ∧
      (∀ k, k < n → s'.byte (a + k) = BitVec.ofNat 8 (e.data.toNat / 2 ^ (8 * (lo + k)))) ∧
      (s.genOn t = true → (s.cfld t aGenCfg 11 8 ≠ 0 ∨ mapWf (fun _ => 0) (s.tile t).info.gens = true) → ∀ r ∈ rowsOf (e.addr + lo) n,
        mapGet (fun _ => 0) (s'.tile t).info.gens r = s.cfld t aGenCfg 11 8)

/-- INSTRUCTION_FETCH (R113, R114): the next 8 B word in line enters the fetch buffer of 4 words, or FETCH is raised for the PC's
own word when it lies outside the store or is in error. -/
def Obligations.InstructionFetches : Prop :=
  ∀ (s : State) (t : Site),
    s.Live t → (s.core t).run = .running → (s.core t).switch = none →
    let c := s.core t
    let a := c.pc.toNat / 8 * 8 + 8 * c.fetch.length
    let word := BitVec.ofNat 64 (leNat ((List.range 8).map (fun k => s.byte (storeAddr t (a + k)))))
    let pc : Word := BitVec.setWidth 32 c.pc
    (c.fetch = [] → s.storeEnd t < a + 8 → exec (.instructionFetch t) s = .next (s.takeTrap t 1 pc)) ∧
    (a + 8 ≤ s.storeEnd t → c.fetch.length < 4 → (∀ f ∈ c.fetch.head?, f.bad = false) → s.firstUe t a 8 = none →
      exec (.instructionFetch t) s = .next ((s.eccRead t a 8).1.onCore t (fun c => { c with
        fetch := c.fetch ++ [{ data := word, bad := false }] }))) ∧
    (c.fetch = [] → c.blocked = none → a + 8 ≤ s.storeEnd t → (s.firstUe t a 8).isSome →
      exec (.instructionFetch t) s = .next ((s.eccRead t a 8).1.takeTrap t 1 pc)) ∧
    (∀ f ∈ c.fetch.head?, f.bad = true → c.blocked = none → exec (.instructionFetch t) s = .next (s.takeTrap t 1 pc))

/-- BR, BL and JR (R125), in the 19 bits of the PC. A JR whose rd is its ra, where the rule can be read two ways, is in
CoreRegisterFiles. -/
def Obligations.BranchesAndJumps : Prop :=
  ∀ (s : State) (t : Site) (w : Word),
    let c := s.core t
    let goal : BitVec 19 := BitVec.ofInt 19 (c.pc.toNat + 4 * (BitVec.ofNat 23 (Word.field w 22 0)).toInt)
    let link : Word := BitVec.setWidth 32 (c.pc + 4)
    let a := c.get (fRa w)
    (s.Runs t 0x20 w → exec (.br t) s = .next (s.onCore t (fun c => { c with pc := goal, fetch := [] }))) ∧
    (s.Runs t 0x21 w → exec (.bl t) s = .next (s.onCore t (fun c => { c.put 31 link with pc := goal, fetch := [] }))) ∧
    (s.Runs t 0x22 w → fRb w = 0 → fFn w = 0 →
      (s.Canonical → c.trapT = false → ∀ k ∈ [(3 : Word), 4], ((s.takeTrap t k a).core t).epc = BitVec.setWidth 32 c.pc ∧
        ((s.takeTrap t k a).core t).cause = k ∧ ((s.takeTrap t k a).core t).tval = a) ∧
      (a.toNat % 4 ≠ 0 → exec (.jr t) s = .next (s.takeTrap t 3 a)) ∧
      (a.toNat % 4 = 0 → 0x80000 ≤ a.toNat → exec (.jr t) s = .next (s.takeTrap t 4 a)) ∧
      (fRd w = 0 ∨ fRd w ≠ fRa w → a.toNat % 4 = 0 → a.toNat < 0x80000 → exec (.jr t) s = .next (s.onCore t (fun c =>
        { c.put (fRd w) link with pc := BitVec.ofNat 19 a.toNat, fetch := [] }))))

/-- PCMP, PCMPI, PLOG and PMOV (R126 to R128). Where pd and pn of a comparison are one predicate, the spec states no result: the
predicate takes a free value (DEDUCED, notes/assumptions/71.md), and the core goes on. -/
def Obligations.PredicateInstructions : Prop :=
  ∀ (s : State) (t : Site) (w : Word),
    let c := s.core t
    let holds := fun (k : Nat) (a b : Word) => if k = 0 then a = b else if k = 1 then a ≠ b
      else if k = 2 then a.toInt < b.toInt else if k = 3 then a.toInt ≥ b.toInt
      else if k = 4 then a.toNat < b.toNat else if k = 5 then a.toNat ≥ b.toNat
      else if k = 6 then a.toInt > b.toInt else if k = 7 then a.toInt ≤ b.toInt
      else if k = 8 then a.toNat > b.toNat else if k = 9 then a.toNat ≤ b.toNat
      else if k = 10 then a &&& b ≠ 0 else a &&& b = 0
    let pd := Word.field w 22 20
    let pn := Word.field w 19 17
    let a := c.get (Word.field w 16 12)
    let sets := fun (i : Instr) (p : Prop) => ∀ r : Bool, (r = true ↔ p) →
      (pd ≠ pn ∨ pd = 0 → exec i s = .next (s.onCore t (fun c => ((c.setPred pd r).setPred pn (!r)).advance))) ∧
      (pd = pn → pd ≠ 0 → ∃ v : Bool, exec i s =
        .next ({ s with freeCtr := s.freeCtr + 1 }.onCore t (fun c => (c.setPred pd v).advance)))
    (s.Runs t 0x24 w → Word.field w 6 3 ≤ 11 → Word.field w 2 0 = 0 →
      sets (.pcmp t) (holds (Word.field w 6 3) a (c.get (Word.field w 11 7)))) ∧
    (s.Runs t 0x25 w → Word.field w 11 8 ≤ 11 →
      sets (.pcmpi t) (holds (Word.field w 11 8) a (BitVec.signExtend 32 (BitVec.ofNat 8 (Word.field w 7 0))))) ∧
    (s.Runs t 0x26 w → Word.field w 13 10 ≤ 7 → Word.field w 9 0 = 0 →
      let x := c.pred pn
      let y := c.pred (Word.field w 16 14)
      exec (.plog t) s = .next (s.onCore t (fun c => (c.setPred pd
        ([x && y, x || y, x != y, x && !y, x || !y, !(x && y), true, false].getD (Word.field w 13 10) false)).advance))) ∧
    (s.Runs t 0x27 w → fRb w = 0 → fFn w = 0 → fRa w = 0 →
      ∃ v : Word, (∀ i, v.getLsbD i = (decide (i = 0) || (decide (i < 8) && c.pred i))) ∧
        exec (.pmov t) s = .next (s.onCore t (fun c => (c.put (fRd w) v).advance))) ∧
    (s.Runs t 0x27 w → fRb w = 0 → fFn w = 1 → fRd w = 0 →
      ∃ p : BitVec 8, (∀ i, 0 < i → i < 8 → p.getLsbD i = (c.get (fRa w)).getLsbD i) ∧
        exec (.pmov t) s = .next (s.onCore t (fun c => { c with preds := p }.advance)))

/-- ISSUE and RDCC (R129, R130, R132, R193): the descriptor takes the next ticket of its queue, which rd receives; a full queue
blocks the core until it has room; a queue that is halted keeps its last entry for a control descriptor. -/
def Obligations.EngineCommandsAreIssued : Prop :=
  ∀ (s : State) (t : Site) (w : Word), s.Canonical →
    let c := s.core t
    let q := fQ w
    let four := BitVec.ofNat 128 ((c.get (fRa w)).toNat + (c.get (fRa w + 1)).toNat * 2 ^ 32 +
      (c.get (fRa w + 2)).toNat * 2 ^ 64 + (c.get (fRa w + 3)).toNat * 2 ^ 96)
    let a := c.get (fRa w) + BitVec.ofNat 32 (16 * fOff9 w)
    let stored := BitVec.ofNat 128 (leNat ((List.range 16).map (fun k => s.byte (storeAddr t (a.toNat + k)))))
    let depth := fun (s : State) (q : Nat) => (s.queue t q).entries.length + (s.queue t q).flight.length
    let room := fun (s : State) (q : Nat) (d : Desc) =>
      depth s q < (if (s.queue t q).halted ∧ Desc.field d 17 17 = 0 then 15 else 16)
    let takes := fun (s0 : State) (i : Instr) (q : Nat) (d : Desc) (f : Word → Core → Core) => ∃ s', exec i s = .next s' ∧
      s'.core t = f ((s0.queue t q).icnt + 1) (s0.core t) ∧ (s'.queue t q).icnt = (s0.queue t q).icnt + 1 ∧
      (s'.queue t q).entries = (s0.queue t q).entries ++ [{ desc := d, ticket := (s0.queue t q).icnt + 1 }] ∧
      (∀ k, k ≠ q → s'.queue t k = s0.queue t k) ∧ SameMemory s s'
    (s.Runs t 0x28 w → fV w = 1 → fRa w % 4 = 0 → fOff9 w = 0 → c.stbuf = [] →
      (room s q four → takes s (.issue t) q four (fun tk c => (c.put (fRd w) tk).advance)) ∧
      (¬ room s q four → exec (.issue t) s = .next (s.onCore t (fun c => { c with
        blocked := some (.issue q four (fRd w)), blockedAt := s.cycle })))) ∧
    (s.Runs t 0x28 w → fV w = 0 →
      (a.toNat % 16 ≠ 0 → exec (.issue t) s = .next (s.takeTrap t 3 a)) ∧
      (a.toNat % 16 = 0 → s.storeEnd t < a.toNat + 16 → exec (.issue t) s = .next (s.takeTrap t 4 a)) ∧
      (a.toNat % 16 = 0 → a.toNat + 16 ≤ s.storeEnd t → c.stbuf = [] →
        let m := (s.eccRead t a.toNat 16).1
        ((s.firstUe t a.toNat 16).isSome → exec (.issue t) s = .next (m.takeTrap t 6 a)) ∧
        (s.firstUe t a.toNat 16 = none → room m q stored →
          takes m (.issue t) q stored (fun tk c => (c.put (fRd w) tk).advance)) ∧
        (s.firstUe t a.toNat 16 = none → ¬ room m q stored → exec (.issue t) s = .next (m.onCore t (fun c => { c with
          blocked := some (.issue q stored (fRd w)), blockedAt := m.cycle }))))) ∧
    (∀ (q : Nat) (d : Desc) (rd : Nat), q < 8 → s.Live t → c.blocked = some (.issue q d rd) → room s q d →
      takes s (.issueQueueRoom t) q d (fun tk c => ({ c with blocked := none }.put rd tk).advance)) ∧
    (s.Runs t 0x2A w → fRa w = 0 → fOff9 w = 0 → exec (.rdcc t) s = .next (s.onCore t (fun c =>
      (c.put (fRd w) (if fV w = 0 then (s.queue t q).ccnt else (s.queue t q).icnt)).advance)))

/-- Instructions that wait (R131 to R135, R140): each blocks with what it waits for, retires when that holds, and a core whose
WLIMIT is not 0 takes WAIT_TIMEOUT with the opcode of the instruction that waits. ENGINE_FAULT takes the lowest halted queue that awaits its trap, at
a boundary or out of a wait (R146). -/
def Obligations.WaitingInstructions : Prop :=
  ∀ (s : State) (t : Site) (w : Word),
    let c := s.core t
    let blocks := fun (i : Instr) (b : Blocked) => exec i s = .next (s.onCore t (fun c => { c with
      blocked := some b, blockedAt := s.cycle }))
    let retires := fun i : Instr => exec i s = .next (s.onCore t (fun c => { c with blocked := none }.advance))
    (s.Runs t 0x29 w → fRd w = 0 → fV w = 0 → fOff9 w = 0 → blocks (.waitc t) (.waitc (fQ w) (c.get (fRa w)))) ∧
    (s.Runs t 0x2B w → fRd w = 0 → fRa w = 0 → fRb w = 0 → blocks (.waitm t) (.waitm (fFn w))) ∧
    (s.Runs t 0x36 w → Word.field w 22 0 = 0 → blocks (.wfe t) .wfe) ∧
    (s.Runs t 0x37 w → Word.field w 22 0 = 0 → c.stbuf = [] → blocks (.fin t) .fin) ∧
    (s.Runs t 0x39 w → fRd w = 0 → fRa w = 0 → fImm13 w < 8 →
      (s.cfld t (aNiFrame (fImm13 w)) 63 63 = 0 → exec (.frame t) s = .next (s.takeTrap t 11 (BitVec.ofNat 32 (fImm13 w)))) ∧
      (s.cfld t (aNiFrame (fImm13 w)) 63 63 = 1 → c.stbuf = [] → blocks (.frame t) (.frame (fImm13 w)))) ∧
    (∀ q ticket, s.Live t → c.blocked = some (.waitc q ticket) →
      (BitVec.ofNat 32 ((s.queue t q).ccnt.toNat + 2 ^ 32 - ticket.toNat)).toInt ≥ 0 → retires (.waitcRetire t)) ∧
    (∀ mask, s.Live t → c.blocked = some (.waitm mask) →
      (∀ q, q < 8 → mask.testBit q = true → (s.queue t q).ccnt = (s.queue t q).icnt) → retires (.waitmRetire t)) ∧
    (s.Live t → c.blocked = some .fin → (∀ q, q < 8 → (s.queue t q).ccnt = (s.queue t q).icnt) → c.pendQ = [] →
      exec (.finStop t) s = .next ((s.onCore t (fun c => { c with blocked := none, run := .finished })).report t
        (.frameReport c.staged.frame))) ∧
    (∀ b op, s.Live t → c.blocked = some b → b.op = some op → c.wlimit ≠ 0 → c.switch = none → (s.ni t).sendLeft = none →
      exec (.waitTimeout t) s = .next ({ s with cycle := max s.cycle (c.blockedAt + c.wlimit.toNat) }.takeTrap t 9
        (BitVec.ofNat 32 op))) ∧
    (∀ q, s.Live t → q < 8 → q ∈ c.pendQ → (∀ k ∈ c.pendQ, q ≤ k) → c.run = .running → c.trapT = false → c.switch = none →
      (s.ni t).sendLeft = none → exec (.engineFault t) s =
        .next ((s.onCore t (fun c => { c with pendQ := c.pendQ.filter (fun k => decide (k ≠ q)) })).takeTrap t
          0x80000010 (BitVec.ofNat 32 q)))

/-- MFENCE, NOP, STAGE, HEAVY and the entry of IDLE (R114, R119, R141, R143, R394). -/
def Obligations.QuietInstructions : Prop :=
  ∀ (s : State) (t : Site) (w : Word),
    let c := s.core t
    let v := c.get (fRb w)
    let key := (c.get (fRa w)).toNat % 256
    let staged := fun g : Staged => exec (.stage t) s = .next (s.onCore t (fun c => { c with staged := g }.advance))
    (s.Runs t 0x34 w → Word.field w 22 0 = 0 → c.stbuf = [] →
      exec (.mfence t) s = .next (s.onCore t (fun c => { c with pc := c.pc + 4, fetch := [] }))) ∧
    (s.Runs t 0x3F w → Word.field w 22 0 = 0 → exec (.nop t) s = .next (s.onCore t Core.advance)) ∧
    (s.Runs t 0x38 w → fRd w = 0 → fFn w = 0 →
      (key = 0 → staged { frame := none, genCfg := none, wlimit := none, he := none }) ∧
      (key = 1 → v.toNat < 8 → s.cfld t (aNiFrame v.toNat) 63 63 = 1 → staged { c.staged with frame := some v.toNat }) ∧
      (key = 2 → (∀ i, v.getLsbD i = true → i = 0 ∨ (8 ≤ i ∧ i < 12)) → staged { c.staged with genCfg := some v }) ∧
      (key = 3 → staged { c.staged with wlimit := some v }) ∧
      (key = 4 → v.toNat < 2 → staged { c.staged with he := some (decide (v.toNat = 1)) }) ∧
      ((key = 1 → 8 ≤ v.toNat ∨ s.cfld t (aNiFrame v.toNat) 63 63 = 0) →
        (key = 2 → ∃ i, v.getLsbD i = true ∧ i ≠ 0 ∧ (i < 8 ∨ 12 ≤ i)) → (key = 4 → 2 ≤ v.toNat) → key ≠ 0 → key ≠ 3 →
        exec (.stage t) s = .next (s.takeTrap t 8 (BitVec.ofNat 32 key)))) ∧
    (s.Runs t 0x3C w → fRd w = 0 → fRa w = 0 → fImm13 w < 0x1000 →
      exec (.heavy t) s = .next (((s.report t (.heavy (fImm13 w % 256) (fImm13 w / 256))).tileTrace t 8 0x0410
        (fImm13 w % 256 + fImm13 w / 256 * 2 ^ 32)).onCore t Core.advance)) ∧
    (s.Live t → (s.tile t).power = .active → (c.run ≠ .running ∨ c.blocked.isSome = true) →
      (∀ q, q < 8 → (s.queue t q).entries = [] ∧ (s.queue t q).flight = []) → (s.tile t).backfill = none →
      exec (.tileIdleEntry t) s = .next (s.onTile t (fun x => { x with power := .idle })))

/-! ### The store and the loam column -/

/-- The store's code, sparing and tags (R48, R49, R54, R61, R64, R66, R124): a read meets every word in error of its range and changes no
byte; the scrub pointer goes round the 528 rows of a bank; a sparing notice enters the repair map, and flash unless a shutdown has begun;
TC_GEN_CFG turns tagging on with cleared tags; a change of the split mode leaves banks 8 to 11 zero. -/
def Obligations.StoreUpkeep : Prop :=
  ∀ (s : State) (t : Site), s.Canonical → s.Live t →
    (∀ off n, (s.firstUe t off n = none ↔ (s.eccRead t off n).2 = false) ∧ SameMemory s (s.eccRead t off n).1 ∧
      ((∀ x ∈ wordsOf off n, x ∉ (s.tile t).info.poison ∧ ∀ e ∈ (s.tile t).info.upsets, e.1 ≠ x) →
        s.eccRead t off n = (s, false))) ∧
    (∀ bank u, bank < 12 → ∃ s', exec (.storeScrub t bank u) s = .next s' ∧ SameMemory s s' ∧
      (s'.tile t).info.scrub = mapSet (fun _ => 0) (s.tile t).info.scrub bank
        ((mapGet (fun _ => 0) (s.tile t).info.scrub bank + 1) % 528)) ∧
    (∀ e rest, Picks (fun e => isSparing e.2) s.svc e rest → ∃ s', exec .sparingNotice s = .next s' ∧
      ∀ bank row spare, e.2 = .sparing bank row spare →
        s'.repair = { s.repair with rows := s.repair.rows ++ [(e.1.key, bank, row, spare)] } ∧
        s'.flashRepair = if s.shutDown then s.flashRepair else
          { s.flashRepair with rows := s.flashRepair.rows ++ [(e.1.key, bank, row, spare)] }) ∧
    (∀ v : Dword,
      let cfg := s.setCreg t aGenCfg (v &&& 0xF01)
      (v.getLsbD 0 = true → s.genOn t = false → exec (.tcGenCfgWrite t v) s =
        .next ((cfg.setCfld t aGenStat 63 32 0).onInfo t (fun m => { m with gens := [], clearing := true }))) ∧
      (v.getLsbD 0 = true → s.genOn t = true → exec (.tcGenCfgWrite t v) s = .next cfg) ∧
      (v.getLsbD 0 = false → exec (.tcGenCfgWrite t v) s = .next (cfg.onInfo t (fun m => { m with clearing := false })))) ∧
    ((s.tile t).info.clearing = true →
      exec (.genTagClearEnd t) s = .next (s.onInfo t (fun m => { m with clearing := false }))) ∧
    (∀ split, (s.tile t).splitTo = some split → s.cfld t aStoreCfg 1 1 = 1 → (∀ q, q < 8 → (s.queue t q).flight = []) →
      ∃ s', exec (.storeSplitSwitch t) s = .next s' ∧ (s'.tile t).splitTo = none ∧
        (∀ k, k < 0x20000 → s'.byte (storeAddr t 0x40000 + k) = 0) ∧
        (s.isSplit t = false → SameOutside s s' (storeAddr t 0x40000) 0x20000)) ∧
    (s.cfld t aStoreCfg 1 1 = 1 → (s.tile t).splitTo = none →
      exec (.splitSwitchEnd t) s = .next (s.setCfld t aStoreCfg 1 1 0))

/-- The cache of SPLIT and the loam column (R57 to R59, R75 to R78, R184, R186, R419, R421): hits, misses, fills and write-backs; the
lines of LD commands copied whole; refresh and scrub. -/
def Obligations.CacheAndLoam : Prop :=
  ∀ (s : State) (t : Site) (line : Nat) (strm : Bool) (err : LoamErr), s.Canonical → s.Live t → line < Config.loamLines →
    (s.isSplit t = true →
      (∀ store, ∃ s', exec (.cacheAccess t line store strm) s = .next s') ∧
      (∀ way bs, (s.tile t).hit line = some way →
        exec (.cacheAccess t line (some bs) strm) s = .next (s.loamWrite t line (takeAt bs 0 64) strm)) ∧
      (∀ way, (s.tile t).hit line = some way → s.firstUe t (wayOff (line % 512) way) 64 = none →
        exec (.cacheAccess t line none strm) s = .next ((s.eccRead t (wayOff (line % 512) way) 64).1.touch t (line % 512) way)) ∧
      (∀ store s', (s.tile t).hit line = none → exec (.cacheAccess t line store strm) s = .next s' →
        (s'.tile t).cache.misses = (s.tile t).cache.misses ++ [{ line := line, store := store, strm := strm }])) ∧
    (∀ m rest, (s.tile t).cache.misses = m :: rest → ∃ s', exec (.cacheFill t err) s = .next s' ∧
      (m.store = none → m.strm = true → err = .clean → SameMemory s s' ∧ (s'.tile t).cache.misses = rest)) ∧
    (∀ l bad bs rest, (s.tile t).cache.wback = (l, bad, bs) :: rest → ∃ s', exec (.cacheWriteback t) s = .next s' ∧
      (s'.tile t).cache.wback = rest ∧ SameOutside s s' (loamAddr t (64 * l)) bs.length ∧
      ∀ k, k < bs.length → s'.byte (loamAddr t (64 * l) + k) = bs.getD k 0) ∧
    (∀ f i, s.ldNext t = some (f, i) → ldLineAt f.entry.desc i = line →
      ((s.tile t).loam.lastSrc ≠ .ld ∨ s.remoteNext t = none) →
      let d := f.entry.desc
      let own := storeAddr t (ldS d + 64 * i)
      let col := loamAddr t (64 * line)
      (∃ s', exec (.loamLineRequest t .ld line err) s = .next s') ∧
      (s.isSplit t = false → (s.tile t).cache.wback = [] → dOpc d = 0 → line ∉ (s.tile t).loam.poison →
        (err ≠ .uncorrectable → ∃ s', exec (.loamLineRequest t .ld line err) s = .next s' ∧ SameOutside s s' own 64 ∧
          ∀ k, k < 64 → s'.byte (own + k) = s.byte (col + k)) ∧
        (err = .uncorrectable → ∃ s' f' x, exec (.loamLineRequest t .ld line err) s = .next s' ∧ SameMemory s s' ∧
          s'.flightOf t 5 = some f' ∧ f'.fault = some x ∧ x.cause = 7 ∧ x.opnd = 6)) ∧
      (s.isSplit t = false → dOpc d = 1 → s.firstUe t (ldS d + 64 * i) 64 = none →
        ∃ s', exec (.loamLineRequest t .ld line err) s = .next s' ∧ SameOutside s s' col 64 ∧
          ∀ k, k < 64 → s'.byte (col + k) = s.byte (own + k))) ∧
    (s.remoteNext t = some line → ((s.tile t).loam.lastSrc ≠ .remote ∨ s.ldNext t = none) →
      ∃ s', exec (.loamLineRequest t .remote line err) s = .next s' ∧ SameMemory s s' ∧ (s'.tile t).loam.lastSrc = .remote) ∧
    ((∃ m ∈ (s.tile t).cache.misses, m.line = line) → exec (.loamLineRequest t .cache line err) s =
      .next ((s.onLoam t (fun l => { l with openRow := some (line / 32) })).onLoam t (fun l => { l with lastSrc := .cache }))) ∧
    exec (.loamRefresh t) s = .next (s.onLoam t (fun l => { l with openRow := none })) ∧
    (s.fld rRasScrub 0 0 = 1 → ∃ s', exec (.loamScrub t err) s = .next s' ∧ SameMemory s s' ∧
      (s'.tile t).loam.scrub = ((s.tile t).loam.scrub + 1) % Config.loamLines ∧
      (err = .uncorrectable → (s.tile t).loam.scrub ∈ (s'.tile t).loam.poison))

/-! ### Mesh -/

/-- A link (R17 to R19, R25, R26): the next grain on the wire is written when its CRC holds and counted against a receiver that then
discards until the replay, which brings what was held back before what is on the wire; a credit that returns frees one of 8 entries; the
NI's next grain enters at the local port while its buffer has room. -/
def Obligations.LinksCarryGrains : Prop :=
  ∀ (s : State) (r u : Site) (p : Port) (g : Grain) (wire : List Grain),
    s.Canonical → s.LiveSite r → r.next p = some u → r ≠ u →
    let sent := s.onRouter u (fun x => x.setOutp p.opposite { x.outp p.opposite with wire := wire })
    let kept := s.onRouter u (fun x => x.setOutp p.opposite { x.outp p.opposite with
      wire := wire, resend := (x.outp p.opposite).resend ++ [g] })
    (((s.router u).outp p.opposite).wire = g :: wire →
      (((s.router r).inp p).discarding = true → exec (.grainArrival r p true) s = .next kept ∧ exec (.grainArrival r p false) s = .next kept) ∧
      (((s.router r).inp p).discarding = false →
        exec (.grainArrival r p true) s =
          .next ((sent.onRouter r (fun x => x.setInp p { x.inp p with fails := 0 })).accept r p g) ∧
        ∃ s', exec (.grainArrival r p false) s = .next s' ∧
          ((s'.router r).inp p) = { (s.router r).inp p with discarding := true, fails := ((s.router r).inp p).fails + 1 } ∧
          ((s'.router u).outp p.opposite) = (kept.router u).outp p.opposite ∧
          s'.fld rMeshErrCnt 63 32 = min (2 ^ 32 - 1) (s.fld rMeshErrCnt 63 32 + 1) ∧
          (s'.router r).crc = min (2 ^ 32 - 1) ((s.router r).crc + 1) ∧ SameMemory s s')) ∧
    (((s.router u).inp p.opposite).discarding = true → ((s.router r).outp p).failed = false →
      ∃ s', exec (.replayRequest r p) s = .next s' ∧
        ((s'.router r).outp p) = { (s.router r).outp p with
          wire := ((s.router r).outp p).resend ++ ((s.router r).outp p).wire, resend := [] } ∧
        ((s'.router u).inp p.opposite) = { (s.router u).inp p.opposite with discarding := false } ∧ SameMemory s s') ∧
    (∀ v rest, Picks (fun x => decide (x = v)) ((s.router r).outp p).credits v rest →
      exec (.linkCreditArrival r p v) s = .next (s.onRouter r (fun x => x.setOutp p
        ({ x.outp p with credits := rest }.setCredit v (min 8 ((x.outp p).credit v + 1)))))) ∧
    (∀ ok rest, (s.ni r).outbox = g :: rest → (((s.router r).inp .loc).buf (vcOf (stickyGrain (s.ni r) g))).length < 8 →
      ∃ s0, exec (.grainArrival r .loc ok) s = .next (s0.accept r .loc (stickyGrain (s.ni r) g)) ∧
        (s0.ni r).outbox = rest ∧ s0.routers = s.routers ∧ SameMemory s s0)

/-- What an accepted grain meets (R25, R26, R30): a header that R25 refuses, a destination without a route, or a place in its input
buffer with the output that its route gives. Within a field the minimal route goes in x first and then in y, where nothing is out of
use. -/
def Obligations.AcceptedGrainsAreRouted : Prop :=
  ∀ (s : State) (r : Site) (p : Port) (g : Grain),
    let fits := fun (out : Port) (due : Bool) => s.onRouter r (fun x => x.setInp p
      ((x.inp p).setBuf (vcOf g) ((x.inp p).buf (vcOf g) ++ [{ grain := g, out := out, dueEsc := due }])))
    (s.headerFault g = none ↔ g.rsv = 0 ∧ g.cls.toNat % 4 ≠ 3 ∧ g.kind.toNat ≠ 15 ∧ g.cls.toNat % 4 = kindClass g.kind.toNat ∧
      (g.dx = 0x1FF → g.kind.toNat ≤ 1 ∧ g.dy.toNat < 256) ∧
      (g.dx ≠ 0x1FF → g.dx.toNat ≤ 319 ∧ g.dy.toNat ≤ 319 ∧ (grainDst g).onWafer = true ∧
        (grainDst g).field ∉ s.tables.umbra)) ∧
    (s.headerFault g = none → g.dx = 0x1FF → s.accept r p g = fits .loc false) ∧
    (s.headerFault g = none → g.dx ≠ 0x1FF → s.fencedOff r p g = false →
      (grainDst g = r → s.accept r p g = fits .loc false) ∧
      (grainDst g ≠ r → onEsc g = false → ∀ out, s.route r (grainDst g) = .port out → s.accept r p g = fits out false) ∧
      (grainDst g ≠ r → onEsc g = false → s.route r (grainDst g) = .esc → s.accept r p g = fits .loc true) ∧
      (grainDst g ≠ r → onEsc g = true → ∀ out, s.tables.escPort r (grainDst g) = some out → s.linkDown r out = false →
        s.accept r p g = fits out false) ∧
      (grainDst g ≠ r → onEsc g = false → s.route r (grainDst g) = .invalid →
        s.accept r p g = (s.returnErr r g errNoroute).freeEntry r p (vcOf g))) ∧
    (∀ t u : Site, t.onWafer = true → u.onWafer = true → t.field = u.field → s.tables.clean = true → s.failedLinks = [] →
      (t = u → s.route t u = .port .loc) ∧
      (t.px < u.px → s.route t u = .port .east) ∧ (u.px < t.px → s.route t u = .port .west) ∧
      (t.px = u.px → t.py < u.py → s.route t u = .port .south) ∧ (t.px = u.px → u.py < t.py → s.route t u = .port .north))

/-- An output port sends (R16 to R18): ESC first, then RPL, REQ and DAT from the rotating pointer; the grain leaves its input buffer and
goes on the wire, one entry of credit is used, and the freed entry's credit goes upstream. -/
def Obligations.OutputPortsSend : Prop :=
  ∀ (s : State) (r : Site) (p i : Port) (v : VC) (b : Buffered),
    s.LiveSite r → s.choose r p = some (v, i) → s.head r i v = some b →
    exec (.outputPortSend r p) s = .next (((s.popHead r i v).sendOut r p v b.grain).onRouter r (fun x =>
      x.setOutp p ((x.outp p).turned v i))) ∧
    b.out = p ∧ b.dueEsc = false ∧ s.hasCredit r p v = true ∧
    ((s.ready r p .esc).isSome → v = .esc) ∧
    (s.ready r p .esc = none → ((s.router r).outp p).turn = 0 →
      ((s.ready r p .rpl).isSome → v = .rpl) ∧ (s.ready r p .rpl = none → (s.ready r p .req).isSome → v = .req))

/-- The escape channel, failed links and prism trees (R20, R31, R37, R39, R397). -/
def Obligations.EscapesFailuresAndPrism : Prop :=
  ∀ (s : State) (r : Site) (p : Port) (v : VC) (b : Buffered), s.LiveSite r →
    (s.head r p v = some b → v ≠ .esc → b.grain.dx ≠ 0x1FF → b.dueEsc = false → s.hasCredit r b.out v = false →
      exec (.meshEscWait r p v) s = .next (s.onRouter r (fun x => x.setInp p
        ((x.inp p).setBuf v ({ b with dueEsc := true } :: ((x.inp p).buf v).drop 1))))) ∧
    (s.head r p v = some b → b.dueEsc = true → s.edgeHolds r p b.grain = false →
      (s.tables.escPort r (grainDst b.grain) = none →
        exec (.escapeMove r p v) s = .next ((s.popHead r p v).returnErr r b.grain errNoroute)) ∧
      (∀ out, s.tables.escPort r (grainDst b.grain) = some out →
        (s.linkDown r out = true →
          exec (.escapeMove r p v) s = .next ((s.popHead r p v).returnErr r b.grain errLinkfail)) ∧
        (s.linkDown r out = false → s.hasCredit r out .esc = true →
          let moved := ((s.popHead r p v).sendOut r out .esc { b.grain with cls := b.grain.cls ||| 4 }).count rMeshStat 31 0 1
          (kindSequenced b.grain.kind.toNat = false → exec (.escapeMove r p v) s = .next moved) ∧
          (kindSequenced b.grain.kind.toNat = true → exec (.escapeMove r p v) s = .next (moved.niSend r
            (mkGrain r (grainSrc b.grain) 11 b.grain.conn.toNat 0 true .escn)))))) ∧
    (s.head r p .dat = some b → b.grain.dx = 0x1FF →
      let e := s.prismEntry r (b.grain.dy.toNat % 256)
      let ports := (markedPorts e).filter (fun q => !s.portLost r q)
      (e.testBit 7 = false ∨ s.plotOf r = none ∨ s.plotOf (grainSrc b.grain) ≠ s.plotOf r →
        exec (.prismForward r p) s = .next ((s.popHead r p .dat).returnErr r b.grain errPrism)) ∧
      (e.testBit 7 = true → s.plotOf r ≠ none → s.plotOf (grainSrc b.grain) = s.plotOf r →
        (∀ q ∈ ports, s.hasCredit r q .dat = true) → ports.length = (markedPorts e).length →
        exec (.prismForward r p) s =
          .next (ports.foldl (fun s q => s.sendOut r q .dat b.grain) (s.popHead r p .dat))) ∧
      (e.testBit 7 = true → s.plotOf r ≠ none → s.plotOf (grainSrc b.grain) = s.plotOf r →
        (∀ q ∈ ports, s.hasCredit r q .dat = true) → ∃ s', exec (.prismForward r p) s = .next s')) ∧
    (∀ u, r.next p = some u → s.linkDown r p = false →
      (16 ≤ ((s.router r).inp p).fails →
        exec (.linkFailed r p) s = .next ((s.failSide r p).failSide u p.opposite)) ∧
      (u.field ≠ r.field → s.fieldState u.field = 2 → s.fieldState r.field ≠ 2 →
        exec (.forwardedClockStop r p) s = .next (s.failSide r p)) ∧
      (r.key, p.num) ∈ (s.failSide r p).failedLinks ∧ (s.failSide r p).tablesDue = true)

/-! ### The network interface -/

/-- OPEN and its answers (R221 to R224): an OPEN that no route or no free number stops waits for its answer with a new tag; the answer
gives rd the connection number or the refusal; the target binds its port when it accepts. -/
def Obligations.ConnectionsOpen : Prop :=
  ∀ (s : State) (t : Site) (w : Word) (g : Grain) (rest : List Grain), s.Canonical →
    (s.Runs t 0x30 w → fImm13 w < 64 →
      let a := (s.core t).get (fRa w)
      let target := s.openTarget t (Word.field a 31 30) (Word.field a 8 0) (Word.field a 24 16)
      (∀ r, target = .error r → exec (.openConn t) s = .next (s.onCore t (fun c =>
        (c.put (fRd w) (BitVec.ofNat 32 (2 ^ 31 + r))).advance))) ∧
      (∀ u, target = .ok u → lowestFree (s.ni t).inUse 1 = none → exec (.openConn t) s = .next (s.onCore t (fun c =>
        (c.put (fRd w) (BitVec.ofNat 32 (2 ^ 31 + 3))).advance))) ∧
      (∀ u n, target = .ok u → lowestFree (s.ni t).inUse 1 = some n → ∃ s', exec (.openConn t) s = .next s' ∧
        let tag := (s.ni t).nextTag
        let o : OpenReq := { tag := tag, conn := n, vx := Word.field a 8 0, vy := Word.field a 24 16, port := fImm13 w, dst := u,
                             tries := 1, entry := none, stale := false }
        s'.core t = { s.core t with blocked := some (.openConn tag (fRd w)), blockedAt := s.cycle } ∧
        s'.ni t = { s.ni t with nextTag := tag + 1, opens := (s.ni t).opens ++ [o], outbox := (s.ni t).outbox ++
          [mkGrain t u 6 n 0 true (.openReq o.port o.vx o.vy tag)] } ∧ SameMemory s s')) ∧
    (s.Live t → Picks (ofKind 6) (s.ni t).inbox g rest → ∀ port vx vy tag, g.body = .openReq port vx vy tag → port < 64 →
      let s0 := s.withInbox t rest
      let a := s0.openAnswer t g port tag
      let answer := mkGrain t (grainSrc g) 7 g.conn.toNat 0 true (.openR tag a)
      ((∀ k i n b r, a ≠ .accept k i n b r) → exec (.openRequest t) s = .next (s0.niSend t answer)) ∧
      (∀ k i n b r, a = .accept k i n b r → exec (.openRequest t) s =
        .next ((s0.bind t port g.conn.toNat (grainSrc g)).niSend t answer)) ∧
      (s0.portBad t port = true → a = .refuse 1) ∧
      (s0.portBad t port = false → (s0.portRt t port).bound.isSome → grainSrc g ≠ t → a = .refuse 2)) ∧
    (s.Live t → Picks (ofKind 7) (s.ni t).inbox g rest → ∀ tag ans, g.body = .openR tag ans →
      let s0 := s.withInbox t rest
      ((s.ni t).opens.find? (fun o => decide (o.tag = tag)) = none → exec (.openrReceive t) s = .next s0) ∧
      (∀ o rd, (s.ni t).opens.find? (fun o => decide (o.tag = tag)) = some o → o.stale = false → o.entry = none →
        (s.core t).blocked = some (.openConn tag rd) → ∃ s', exec (.openrReceive t) s = .next s' ∧ SameMemory s s' ∧
        (∀ k i n b r, ans = .accept k i n b r →
          s'.core t = ({ s.core t with blocked := none }.put rd (BitVec.ofNat 32 o.conn)).advance ∧
          (s'.ni t).tx = (s.ni t).tx ++ [{ newTx o.conn o.dst with kind := k, igr := i, items := n, bytes := b, recs := r, ring := b }]) ∧
        (∀ r, ans = .refuse r →
          s'.core t = ({ s.core t with blocked := none }.put rd (BitVec.ofNat 32 (2 ^ 31 + r))).advance ∧
          (s'.ni t).tx = (s.ni t).tx)))

/-- CLOSE and its grain (R225): the connection counts as closed at once; its CLOSE goes when nothing of it is unacknowledged, and the
number is then free at the source; the port and the number are free at the target once everything that arrived is released. -/
def Obligations.ConnectionsClose : Prop :=
  ∀ (s : State) (t : Site) (w : Word) (conn : Nat) (x : TxConn) (g : Grain) (rest : List Grain), s.Canonical →
    (s.Runs t 0x31 w → fRd w = 0 → fRb w = 0 → fFn w = 0 → ∃ s', exec (.close t) s = .next s' ∧
      s'.core t = (s.core t).advance ∧ s'.ni t = { s.ni t with tx := (s.ni t).tx.map (fun y =>
        if y.conn = ((s.core t).get (fRa w)).toNat ∧ y.conn < 0x3C0 then { y with closed := true } else y) } ∧ SameMemory s s') ∧
    (s.Live t → (s.ni t).tx.find? (isConn conn) = some x → x.closed = true → x.unacked = 0 → x.q = [] →
      ∃ s', exec (.closeGrainSend t conn) s = .next s' ∧
        s'.ni t = { s.ni t with tx := (s.ni t).tx.filter (fun y => !isConn x.conn y)
                                outbox := (s.ni t).outbox ++ [mkGrain t x.dst 8 x.conn 0 true .close] } ∧
        s'.core t = s.core t ∧ SameMemory s s') ∧
    (s.Live t → Picks (ofKind 8) (s.ni t).inbox g rest →
      let s0 := s.withInbox t rest
      ((s.ni t).rx.find? (rxFor g) = none → exec (.closeGrainReceive t) s = .next s0) ∧
      (∀ r, (s.ni t).rx.find? (rxFor g) = some r → ∃ s', exec (.closeGrainReceive t) s = .next s' ∧ SameMemory s s' ∧
        ((s0.ni t).rxOf r.port = some r → (s0.ni t).allReleased r = false →
          s'.ni t = { s0.ni t with rx := updFirst (rxFor g) (fun y => { y with closing := true }) (s.ni t).rx }) ∧
        ((s0.ni t).rxOf r.port = some r → (s0.ni t).allReleased r = true →
          s'.ni t = { (s0.ni t).setPort r.port { PortRt.reset with
              target := ((s.ni t).port r.port).target - ((s.ni t).port r.port).arrived } with
            rx := (updFirst (rxFor g) (fun y => { y with closing := true }) (s.ni t).rx).filter (fun y =>
              !(decide (y.port = r.port) && decide (y.conn = r.conn))) })))

/-- The window and the reorder buffer (R24, R32 to R34): what the ordered delivery leaves, the cumulative acknowledgement, and the
escape notice. Credit returns to the connection that the grain names (R245). -/
def Obligations.WindowAndReorder : Prop :=
  ∀ (s : State) (t : Site) (g : Grain) (rest : List Grain) (x : TxConn), s.LiveSite t →
    let mine := fun y : TxConn => decide (y.conn = g.conn.toNat) && decide (y.dst = grainSrc g)
    (Picks (fun h => ofKind 11 h && !relayed t h) (s.ni t).inbox g rest →
      exec (.escnReceive t) s = .next ((s.withInbox t rest).onNi t (fun n => { n with tx := n.tx.map (fun y =>
        if y.conn = g.conn.toNat ∧ 0 < y.unacked then { y with sticky := true } else y) }))) ∧
    (Picks (fun h => ofKind 9 h && !relayed t h) (s.ni t).inbox g rest →
      ∃ f : TxConn → TxConn, exec (.ackReceive t) s = .next ((s.withInbox t rest).onTx t mine f) ∧
        (∀ y d, y.unacked ≤ 32 → y.nextSeq < 32 → 1 ≤ d → d ≤ y.unacked → g.seq.toNat = (y.nextSeq + 64 - y.unacked + d) % 32 →
          f y = { y with unacked := y.unacked - d, sticky := y.sticky && decide (d ≠ y.unacked) }) ∧
        (∀ y, y.unacked < 32 → y.nextSeq < 32 → g.seq.toNat = (y.nextSeq + 64 - y.unacked) % 32 → 0 < y.unacked → f y = y)) ∧
    (Picks (fun h => kindSequenced h.kind.toNat && !isPrism h && !relayed t h) (s.ni t).inbox g rest → s.Canonical →
      (∀ r, (s.ni t).rx.find? (rxFor g) = some r → r.held = [] → g.seq.toNat = r.nextSeq → s.kindMatches t r g = true →
        exec (.grainAccept t) s = .next (((s.withInbox t rest).onNi t (fun n => { n with
          rx := updFirst (rxFor g) (fun y => { y with nextSeq := (r.nextSeq + 1) % 32, held := [] }) n.rx
          ready := n.ready ++ [g] })).niSend t (mkGrain t r.src 9 r.conn ((r.nextSeq + 1) % 32) true .ack))) ∧
      (∀ r, (s.ni t).rx.find? (rxFor g) = some r → (∀ h ∈ r.held ++ [g], h.seq.toNat ≠ r.nextSeq) →
        exec (.grainAccept t) s = .next ((s.withInbox t rest).onNi t (fun n => { n with
          rx := updFirst (rxFor g) (fun y => { y with held := r.held ++ [g], nextSeq := r.nextSeq }) n.rx }))) ∧
      ((s.ni t).rx.find? (rxFor g) = none → g.conn.toNat < 0x3C0 →
        exec (.grainAccept t) s = .next ((s.withInbox t rest).returnErr t g errAddr))) ∧
    (t.isTile = true → ∀ n, g.body = .streamCred n → Picks (fun h => ofKind 10 h &&
        (match h.body with | .streamCred _ => true | _ => false)) (s.ni t).inbox g rest →
      exec (.streamCredit t) s = .next ((s.withInbox t rest).onTx t mine (fun y => { y with items := y.items + n }))) ∧
    (t.isTile = true → ∀ b n, g.body = .ringCred b n → Picks (fun h => ofKind 10 h &&
        (match h.body with | .ringCred .. => true | _ => false)) (s.ni t).inbox g rest →
      exec (.ringCredit t) s = .next ((s.withInbox t rest).onTx t mine (fun y => { y with bytes := y.bytes + b, recs := y.recs + n }))) ∧
    (let e := pumpConn t x
     e.1.unacked = x.unacked + e.2.length ∧ e.2.length = min x.q.length (32 - x.unacked) ∧ e.1.q = x.q.drop e.2.length ∧
        (∀ k (h : k < e.2.length), (e.2[k].seq.toNat = (x.nextSeq + k) % 32 ∧ e.2[k].conn.toNat = x.conn % 1024)))

/-- Remote accesses (R42, R43, R232, R233): what a WR grain writes and nothing else of memory; what an RD grain reads; the refusals; the
answers at the source; a steward's access to a tile control register. -/
def Obligations.RemoteAccesses : Prop :=
  ∀ (s : State) (t : Site) (g : Grain) (rest : List Grain), s.Canonical → s.LiveSite t →
    let s0 := s.withReady t rest
    let kind := fun k => Picks (fun h : Grain => decide (h.kind.toNat = k)) (s.ni t).ready g rest
    (∀ a bs, kind 2 → g.body = .wr a bs → bs.length = 32 →
      (∀ e, s0.window t a 32 = .error e → exec (.remoteWrite t) s = .next (s0.returnErr t g e)) ∧
      (∀ o, s0.window t a 32 = .ok (.spill o) → ∃ s', exec (.remoteWrite t) s = .next s' ∧
        SameOutside s s' (spillAddr t o) 32 ∧ ∀ k, k < 32 → s'.byte (spillAddr t o + k) = bs.getD k 0) ∧
      (∀ o, s0.window t a 32 = .ok (.store o) → ∃ s', exec (.remoteWrite t) s = .next s' ∧
        SameOutside s s' (storeAddr t o) 32 ∧ ∀ k, k < 32 → s'.byte (storeAddr t o + k) = bs.getD k 0) ∧
      (∀ o, s0.window t a 32 = .ok (.loam o) →
        exec (.remoteWrite t) s = .next ((s0.loamPut t o bs).emitPair t (grainSrc g) [(5, true, .wra)]))) ∧
    (∀ a, kind 3 → g.body = .rd a →
      (∀ e, s0.window t a 64 = .error e → exec (.remoteRead t) s = .next (s0.returnErr t g e)) ∧
      (∀ o, s0.window t a 64 = .ok (.spill o) → ∃ bs, bs = s.bytes (spillAddr t o) 64 ∧ exec (.remoteRead t) s =
        .next (s0.emitPair t (grainSrc g) [(4, false, .data (bs.take 32)), (4, true, .data (bs.drop 32))])) ∧
      (∀ o, s0.window t a 64 = .ok (.store o) → (s0.firstUe t o 64).isSome →
        exec (.remoteRead t) s = .next ((s0.eccRead t o 64).1.returnErr t g errAddr)) ∧
      (∀ o, s0.window t a 64 = .ok (.store o) → s0.firstUe t o 64 = none → ∃ bs, bs = s.bytes (storeAddr t o) 64 ∧
        exec (.remoteRead t) s = .next ((s0.eccRead t o 64).1.emitPair t (grainSrc g)
          [(4, false, .data (bs.take 32)), (4, true, .data (bs.drop 32))]))) ∧
    (t.isTile = true → ∀ f sent ans, kind 5 → s.flightOf t 6 = some f → f.work = .put sent ans →
      ∃ s' f', exec (.wraReceive t) s = .next s' ∧ s'.flightOf t 6 = some f' ∧ f'.work = .put sent (ans + 1) ∧ SameMemory s s' ∧
        (f.fault = none → f'.progress = (ans + 1) / 2 ∧
          (f'.done = true ↔ ans + 1 = 2 * sent ∧ sent = Desc.field f.entry.desc 57 45 + 1))) ∧
    (t.isTile = true → ∀ f asked got bs, kind 4 → g.body = .data bs → bs.length = 32 → s.flightOf t 6 = some f → f.done = false →
      f.work = .get asked got → f.fault = none →
      let a := storeAddr t (64 * Desc.field f.entry.desc 44 32 + 32 * got)
      ∃ s' f', exec (.rdrReceive t) s = .next s' ∧ s'.flightOf t 6 = some f' ∧ f'.work = .get asked (got + 1) ∧
        SameOutside s s' a 32 ∧ ∀ k, k < 32 → s'.byte (a + k) = bs.getD k 0) ∧
    (∀ box, Picks (ofKind 14) (s.ni t).inbox g box →
      let s1 := s.withInbox t box
      ((grainSrc g).isSteward = false → exec (.svcAccess t) s = .next (s1.returnErr t g errPerm)) ∧
      (∀ o n b, (grainSrc g).isSteward = true → t.isTile = true → o < 0x80000 → ctrlReg o = some (n, b) →
        (∀ v, g.body = .svcWrite (storeAddr t o) v → exec (.svcAccess t) s = .next (s1.ctrlWrite t b v)) ∧
        (g.body = .svcRead (storeAddr t o) → exec (.svcAccess t) s = .next { s1 with queried := s1.ctrlRead t b })) ∧
      (∀ a, (grainSrc g).isSteward = true → t.isTile = false →
        (∀ v, g.body = .svcWrite a v → exec (.svcAccess t) s = .next s1) ∧
        (g.body = .svcRead a → ∃ v, exec (.svcAccess t) s = .next { s1 with freeCtr := s1.freeCtr + 1, queried := v })))

/-- ERR at the source (R224, R226, R233): an OPEN is refused with the reason of its code, a PUT or GET that runs takes an ADDR fault, the
connection of a refused item or message counts as closed; that the ERR answers that grain as an ACK would is the model's choice
(notes/assumptions/95.md). LINKFAIL in a running plot is reported besides. -/
def Obligations.ErrorsReachTheirSource : Prop :=
  ∀ (s : State) (t : Site) (g : Grain) (rest : List Grain) (seq conn kind code : Nat), s.Live t →
    Picks (ofKind 13) (s.ni t).inbox g rest → g.body = .err seq conn kind code →
    let took := s.withInbox t rest
    let runs : Bool := match took.plotOf t with | some p => took.running p | none => false
    let s0 : State := if code = 6 ∧ runs = true then took.report t .linkErr else took
    (kind = 6 → ∀ o, (s0.ni t).opens.find? (fun o => decide (o.conn = conn)) = some o →
      exec (.errReceive t) s = .next (s0.openResult t o (.error
        (if code = 2 ∨ code = 6 then 5 else if code = 7 then 6 else 7)))) ∧
    (kind = 6 → (s0.ni t).opens.find? (fun o => decide (o.conn = conn)) = none → exec (.errReceive t) s = .next s0) ∧
    (kind = 2 ∨ kind = 3 → s.Canonical → ∀ f, s.flightOf t 6 = some f → f.done = false → f.fault = none →
      ((∃ sent ans, f.work = .put sent ans) ∨ ∃ asked got, f.work = .get asked got) →
      ∃ s' f' d, exec (.errReceive t) s = .next s' ∧ s'.flightOf t 6 = some f' ∧ f'.fault = some d ∧ d.cause = 2 ∧ d.opnd = 7 ∧
        SameMemory s s') ∧
    (kind ≤ 1 → conn < 0x3C0 → ∃ f : TxConn → TxConn, exec (.errReceive t) s = .next (s0.onTx t (isConn conn) f) ∧
      (∀ y, (f y).closed = true ∧ (f y).conn = y.conn ∧ (f y).dst = y.dst ∧ (f y).q = y.q ∧ (f y).unacked ≤ y.unacked) ∧
      (∀ y d, y.unacked ≤ 32 → y.nextSeq < 32 → 1 ≤ d → d ≤ y.unacked → (seq + 1) % 32 = (y.nextSeq + 64 - y.unacked + d) % 32 →
        (f y).unacked = y.unacked - d)) ∧
    (kind ≠ 6 → kind ≠ 2 → kind ≠ 3 → (1 < kind ∨ 0x3C0 ≤ conn) → exec (.errReceive t) s = .next s0)

/-- Active messages (R135 to R138, R241 to R244): SEND's traps and its wait, the message on its connection, its retirement, the record's
place in the ring, the dispatch of a handler with its registers, and the return from it. -/
def Obligations.ActiveMessages : Prop :=
  ∀ (s : State) (t : Site) (w : Word), s.Canonical →
    let c := s.core t
    let conn := c.get (fRa w)
    let addr := c.get (fRb w)
    let len := c.get (fRd w)
    (s.Runs t 0x32 w → fFn w < 64 →
      (addr.toNat % 8 ≠ 0 → exec (.send t) s = .next (s.takeTrap t 3 addr)) ∧
      (addr.toNat % 8 = 0 → s.storeEnd t < addr.toNat + len.toNat → exec (.send t) s = .next (s.takeTrap t 4 addr)) ∧
      (addr.toNat % 8 = 0 → addr.toNat + len.toNat ≤ s.storeEnd t →
        ((s.ni t).openTx conn.toNat = none → exec (.send t) s = .next (s.takeTrap t 7 conn)) ∧
        (((s.ni t).openTx conn.toNat).isSome → len = 0 ∨ 4096 < len.toNat → exec (.send t) s = .next (s.takeTrap t 7 len)) ∧
        (((s.ni t).openTx conn.toNat).isSome → len ≠ 0 → len.toNat ≤ 4096 → c.stbuf = [] →
          exec (.send t) s = .next (s.onCore t (fun c => { c with
            blocked := some (.send conn.toNat addr.toNat len.toNat (fFn w)), blockedAt := s.cycle }))))) ∧
    (∀ k a n h x, s.Live t → c.blocked = some (.send k a n h) → (s.ni t).sendLeft = none → s.twinStall t = false →
      (s.ni t).openTx k = some x →
      let size := 32 * ((n + 31) / 32)
      let e := x.ring - x.woff
      (size ≤ e → size ≤ x.bytes → 1 ≤ x.recs → exec (.sendStart t) s = .next (s.startMessage t x a n h false)) ∧
      (e < size → e + size ≤ x.ring → e + size ≤ x.bytes → 2 ≤ x.recs →
        exec (.sendStart t) s = .next (s.startMessage t x a n h true)) ∧
      (e < size → x.ring < e + size → e ≤ x.bytes → 1 ≤ x.recs → exec (.sendStart t) s = .next (s.onTx t (isConn k) (fun x => { x with
        bytes := x.bytes - e, recs := x.recs - 1, woff := 0, q := x.q ++ [(1, true, .msgHead 0 true 0 (x.woff / 32))] })))) ∧
    (∀ k a n h j, s.Live t → c.blocked = some (.send k a n h) → (s.ni t).sendLeft = some j → (∀ x ∈ (s.ni t).txOf j, x.q = []) →
      exec (.sendRetire t) s = .next ((s.onNi t (fun n => { n with sendLeft := none })).onCore t (fun c =>
        { c with blocked := none }.advance))) ∧
    (∀ j g data rest r n wrap slot off, s.Live t → wholeRun 1 (s.ni t).ready = some (j, g :: data, rest) →
      (s.ni t).rx.find? (fun r => decide (r.conn = j)) = some r → g.body = .msgHead n wrap slot off →
      exec (.messageArrival t) s = .next ((s.withReady t rest).takeRecord t r.port r.src j n slot (32 * off) wrap
        (data.flatMap grainBytes))) ∧
    (∀ h rest m, s.Live t → (s.ni t).waiting = h :: rest → s.mayHandle t = true → s.virt m.src ≠ none →
      (s.portRt t h.port).msgs.find? (fun m => decide (m.off = h.off) && !m.done && !m.lap && !m.wrap) = some m →
      ∃ s', exec (.handlerDispatch t) s = .next s' ∧ SameMemory s s' ∧ (s'.ni t).waiting = rest ∧
        let d := s'.core t
        d.handH = true ∧ d.held = some h ∧ d.blocked = none ∧ d.pc = pcOf (s.cfld t (aNiHslot m.slot) 18 2 * 4) ∧
          d.hpc = BitVec.setWidth 32 (if c.blocked = some .wfe then c.pc + 4 else c.pc) ∧ d.regs = c.regs ∧
          d.get 24 = BitVec.ofNat 32 (s.portBase t h.port + m.off) ∧ d.get 25 = BitVec.ofNat 32 m.len ∧
          d.get 26 = BitVec.ofNat 32 (s.vxy m.src) ∧ d.get 27 = BitVec.ofNat 32 m.conn ∧ d.get 28 = BitVec.ofNat 32 m.slot) ∧
    (s.Runs t 0x33 w → Word.field w 22 0 = 0 →
      (c.handH = false → exec (.hret t) s = .next (s.takeTrap t 2 w)) ∧
      (c.handH = true →
        let back := s.onCore t (fun c => { c with handH := false, held := none, pc := pcOf c.hpc.toNat, fetch := [] })
        (c.held = none → exec (.hret t) s = .next back) ∧
        (∀ h, c.held = some h → exec (.hret t) s = .next ((back.onPort t h.port (fun r => { r with
          msgs := updFirst (fun m => decide (m.off = h.off) && !m.done && !m.lap && !m.wrap) (fun m => { m with done := true })
            r.msgs })).releaseRing t h.port))))

/-- Barrier groups and probes (R139, R245 to R247): a member arrives once and waits; a group that is complete announces itself; the release clears the group
and lets its member go on. A send that waits a whole window without credit starts a PROBE; a tile that a PROBE reaches sends it on for
each of its own blocked sends, with the lesser site; the origin discards it or breaks the cycle. -/
def Obligations.BarriersAndProbes : Prop :=
  ∀ (s : State) (t : Site) (w : Word) (g : Grain) (rest : List Grain), s.Canonical →
    (s.Runs t 0x35 w → fRd w = 0 → fRa w = 0 → fImm13 w < 16 →
      let n := fImm13 w
      (s.cfld t (aNiBar n) 31 31 = 0 ∨ s.cfld t (aNiBar n) 8 8 = 0 →
        exec (.bar t) s = .next (s.takeTrap t 7 (BitVec.ofNat 32 n))) ∧
      (s.cfld t (aNiBar n) 31 31 = 1 → s.cfld t (aNiBar n) 8 8 = 1 → ∃ s', exec (.bar t) s = .next s' ∧
        (s'.core t).blocked = some (.bar n) ∧ (s'.core t).pc = (s.core t).pc ∧ (s'.core t).regs = (s.core t).regs ∧ SameMemory s s' ∧
        ((s.barRt t n).arrived = true → (s'.ni t) = (s.ni t)))) ∧
    (s.Live t → ∀ n, g.body = .barArrive n → Picks (fun h => ofKind 10 h &&
        (match h.body with | .barArrive _ => true | _ => false)) (s.ni t).inbox g rest →
      exec (.barrierArrival t) s = .next (((s.withInbox t rest).onBar t n (fun r => { r with count := r.count + 1 })).barStep t n)) ∧
    (s.Live t → ∀ n, g.body = .barRelease n → Picks (fun h => isPrism h &&
        (match h.body with | .barRelease _ => true | _ => false)) (s.ni t).inbox g rest →
      ∃ s', exec (.barrierRelease t) s = .next s' ∧ SameMemory s s' ∧ (s'.ni t).inbox = rest ∧
        ((s.core t).blocked = some (.bar n) → (s'.core t) = { s.core t with blocked := none }.advance) ∧
        ((s.core t).blocked = none → (s'.core t) = s.core t)) ∧
    (∀ conn x, s.Live t → (s.ni t).txOf conn = some x → s.cfld t aNiCfg 0 0 = 1 → s.blockedOn t x = true →
      exec (.deadlockWindow t conn) s = .next (s.niSend t (mkGrain t x.dst 12 x.conn 0 true (.probe t t x.conn 0)))) ∧
    (s.Live t → Picks (ofKind 12) (s.ni t).inbox g rest → ∀ origin low conn hops, g.body = .probe origin low conn hops →
      let s0 := s.withInbox t rest
      (origin = t → low ≠ t → exec (.probeReceive t) s = .next s0) ∧
      (origin = t → low = t → exec (.probeReceive t) s = .next (s0.breakCycle t conn)) ∧
      (origin ≠ t →
        let lesser := if t.py < low.py ∨ (t.py = low.py ∧ t.px < low.px) then t else low
        exec (.probeReceive t) s = .next ((s0.ni t).tx.foldl (fun z x =>
          if z.blockedOn t x = true ∧ hops + 1 < 255 then
            z.niSend t (mkGrain t x.dst 12 x.conn 0 true (.probe origin lesser x.conn (hops + 1)))
          else z) s0))) ∧
    (∀ conn r, (s.ni t).rx.find? (fun r => decide (r.conn = conn)) = some r → s.spillRegion t r.port = none →
      s.breakCycle t conn = (s.setCfld t aNiStat 62 62 1).tileAlarm t 0x0008 r.port)

/-- Stream items and steering (R221, R231, R234 to R236, R238, R239): an item enters its slot or the port's spill, a spilled item moves
into the slot that a release has freed, and a unit that runs takes no write but the one that turns it OFF. -/
def Obligations.StreamsAndSteering : Prop :=
  ∀ (s : State) (t : Site) (p u : Nat), s.Canonical → s.Live t →
    (∀ c run rest r, wholeRun 0 (s.ni t).ready = some (c, run, rest) →
      ((s.ni t).rx.find? (fun r => decide (r.conn = c)) = none → exec (.itemArrival t) s = .next (s.withReady t rest)) ∧
      ((s.ni t).rx.find? (fun r => decide (r.conn = c)) = some r →
        let rt := s.portRt t r.port
        let bs := run.flatMap grainBytes
        (rt.came = rt.arrived → rt.came - rt.released < s.portSlots t r.port →
          let a := storeAddr t (s.slotOff t r.port rt.came)
          ∃ s', exec (.itemArrival t) s = .next s' ∧ SameOutside s s' a bs.length ∧
            ∀ k, k < bs.length → s'.byte (a + k) = bs.getD k 0) ∧
        (¬ (rt.came = rt.arrived ∧ rt.came - rt.released < s.portSlots t r.port) → ∀ v off, s.spillRegion t r.port = some (v, off) →
          rt.came - rt.arrived < s.portSpq t r.port →
          let a := spillAddr v (off + rt.came % s.portSpq t r.port * s.pitch t r.port)
          ∃ s', exec (.itemArrival t) s = .next s' ∧ SameOutside s s' a bs.length ∧
            ∀ k, k < bs.length → s'.byte (a + k) = bs.getD k 0))) ∧
    (p < Config.tilePorts → ∀ v off, s.spillRegion t p = some (v, off) → (s.portRt t p).arrived < (s.portRt t p).came →
      (s.portRt t p).arrived - (s.portRt t p).released < s.portSlots t p →
      let rt := s.portRt t p
      let a := storeAddr t (s.slotOff t p rt.arrived)
      ∃ s', exec (.spillReadbackDone t p) s = .next s' ∧ SameOutside s s' a (32 * s.portIgr t p) ∧
        ∀ k, k < 32 * s.portIgr t p → s'.byte (a + k) = s.byte (spillAddr v (off + rt.arrived % s.portSpq t p * s.pitch t p) + k)) ∧
    (u < Config.steerUnits → s.maySend t = true → s.twinStall t = false →
      let unit := aNiSteer u
      let in0 := s.cfld t unit 60 55
      let ready := fun c => ∃ x, (s.ni t).openTx c = some x ∧ 0 < x.items ∧ x.q = []
      (s.cfld t unit 63 61 = 1 → ready (s.cfld t unit 9 0) →
        s.holdsItem t (if s.mergeNext t u = 0 then in0 else s.cfld t unit 54 49) = true →
        ∃ s', exec (.steerMerge t u) s = .next s' ∧ SameMemory s s') ∧
      (s.cfld t unit 63 61 = 2 → s.holdsItem t in0 = true →
        (∀ k, k < 4 → s.cfld t unit (10 * k + 9) (10 * k) ≠ 0 → ready (s.cfld t unit (10 * k + 9) (10 * k))) →
        ∃ s', exec (.steerSplit t u) s = .next s' ∧ SameMemory s s') ∧
      (s.cfld t unit 63 61 = 3 → ready (s.cfld t unit 9 0) → ∀ e, lowestComplete true ((s.pairUp t u).steerRt t u).pairs = some e →
        ∃ s', exec (.steerSelect t u) s = .next s' ∧ SameMemory s s') ∧
      (s.cfld t unit 63 61 = 4 → ready (s.cfld t unit 9 0) → ∀ e, lowestComplete false ((s.pairUp t u).steerRt t u).pairs = some e →
        ∃ s', exec (.steerGate t u) s = .next s' ∧ SameMemory s s')) ∧
    (u < Config.steerUnits → ∀ v,
      (s.cfld t (aNiSteer u) 63 61 = 0 → exec (.niSteerWrite t u v) s = .next (s.ctrlStore t (aNiSteer u) v)) ∧
      (s.cfld t (aNiSteer u) 63 61 ≠ 0 → Dword.field v 63 61 ≠ 0 → exec (.niSteerWrite t u v) s = .next s) ∧
      (s.cfld t (aNiSteer u) 63 61 ≠ 0 → Dword.field v 63 61 = 0 →
        exec (.niSteerWrite t u v) s = .next ((s.clearSteer t u).ctrlStore t (aNiSteer u) v))) ∧
    (p < Config.tilePorts → ∀ v,
      ((s.portRt t p).bound.isSome → exec (.niPortWrite t p v) s = .next s) ∧
      ((s.portRt t p).bound = none → exec (.niPortWrite t p v) s = .next ((s.ctrlStore t (aNiPort p) v).checkSpill t)))

/-- A configuration-frame switch (R142, R249, R250): it begins when queues, stores and connections have drained and leaves the core without
a wait; the entry follows when every OPEN of the list is answered. -/
def Obligations.FrameSwitches : Prop :=
  ∀ (s : State) (t : Site) (f : Nat), s.Canonical → s.Live t →
    ((s.core t).switching = some f → s.switchReady t = true →
      ∃ s', exec (.frameSwitch t) s = .next s' ∧ (s'.core t).frame = f ∧ (s'.core t).blocked = none ∧
        (∃ x, (s'.core t).switch = some x ∧ x.frame = f ∧ x.opening = true) ∧ (s'.ni t).waiting = [] ∧
        (s'.core t).regs = (s.core t).regs ∧ (s'.core t).preds = (s.core t).preds) ∧
    (∀ x, (s.core t).switch = some x → x.opening = true → (∀ o ∈ (s.ni t).opens, o.entry = none ∨ o.stale = true) →
      exec (.frameEntry t) s = .next (s.onCore t (fun c => { c with
        switch := none, run := .running, pc := BitVec.ofNat 19 x.entry, fetch := [] }))) ∧
    (s.switchReady t = true ↔ (∀ q, q < 8 → (s.queue t q).ccnt = (s.queue t q).icnt) ∧ (s.core t).stbuf = [] ∧ (s.core t).pendQ = [] ∧
      ∀ x ∈ (s.ni t).tx, x.unacked = 0 ∧ x.q = [])

/-! ### Engines -/

/-- Checks that fail (R155, R156, R192): the command leaves the queue's head and stands in flight with its fault, all its allowed writes
performed, that is none: nothing else of the machine changes but the wake of an idle tile. The three commands that read a header at their
checks are in EngineCommandsRun. -/
def Obligations.FailedChecksWriteNothing : Prop :=
  ∀ (s : State) (t : Site) (e : QEntry) (rest : List QEntry) (x : Detected),
    let d := e.desc
    ∀ r ∈ [(Instr.veOperation t, 1, true, veCheck s t d),
           (.suConvert t, 2, decide (dOpc d = 0 ∨ 3 < dOpc d), suConvertCheck s t d),
           (.suCompress t, 2, decide (dOpc d = 1), suCompressCheck s t d), (.suPrune t, 2, decide (dOpc d = 3), suPruneCheck s t d),
           (.txTranspose t, 3, decide (dOpc d ≠ 1), txCheck s t d), (.txStream t, 3, decide (dOpc d = 1), txCheck s t d),
           (.fuEval t, 4, decide (dOpc d ≠ 1), fuEvalCheck s t d),
           (.ldLoad t, 5, decide (dOpc d ≠ 1), ldCheck s t d), (.ldSave t, 5, decide (dOpc d = 1), ldCheck s t d),
           (.sends t, 6, decide (dOpc d = 0 ∨ 4 ≤ dOpc d), sendsCheck s t d), (.recv t, 6, decide (dOpc d = 1), recvCheck s t d),
           (.put t, 6, decide (dOpc d = 2), remoteCheck s t d), (.get t, 6, decide (dOpc d = 3), remoteCheck s t d),
           (.update t, 7, decide (dOpc d ≠ 1), updateCheck s t d)],
      s.Live t → s.queueOpen t r.2.1 = true → (s.queue t r.2.1).flight = [] → (s.queue t r.2.1).entries = e :: rest → dCtl d = 0 →
      r.2.2.1 = true → r.2.2.2 = some x →
      exec r.1 s = .next (s.launch t r.2.1 { InFlight.start s t e with fault := some x, done := true })

/-- Commands that run (R159 to R187, R216 to R219, R293): where the checks pass, the command starts; of the bytes of memory it changes none
outside the extents of its results. -/
def Obligations.EngineCommandsRun : Prop :=
  ∀ (s : State) (t : Site) (e : QEntry) (rest : List QEntry), s.Canonical → s.Live t → dCtl e.desc = 0 →
    let d := e.desc
    let head := fun q : Nat => s.queueOpen t q = true ∧ (s.queue t q).flight = [] ∧ (s.queue t q).entries = e :: rest
    let runs := fun (i : Instr) (out : List (Nat × Nat)) => ∃ s', exec i s = .next s' ∧
      ∀ x, (∀ r ∈ out, x < storeAddr t r.1 ∨ storeAddr t r.1 + r.2 ≤ x) → s'.byte x = s.byte x
    (head 0 → s.issues t = true → (s.uePending t = false ∨ (s.tile t).ueTurn = true) → runs (.teProduct t) []) ∧
    (head 1 → veCheck s t d = none → runs (.veOperation t) [(veC d, (veMatC d).extent)]) ∧
    (head 2 → dOpc d = 0 → suConvertCheck s t d = none → runs (.suConvert t) [(suC d, (suMatC d).extent)]) ∧
    (head 2 → dOpc d = 1 → suCompressCheck s t d = none → runs (.suCompress t) [(suC d, (suImg d (suC d)).extent)]) ∧
    (head 2 → dOpc d = 2 → (suDecompressCheck s t d ≠ none → runs (.suDecompress t) []) ∧
      (suDecompressCheck s t d = none → runs (.suDecompress t) [(suC d, (suMatC d).extent)])) ∧
    (head 2 → dOpc d = 3 → suPruneCheck s t d = none → runs (.suPrune t) [(suC d, (suMatC d).extent)]) ∧
    (head 3 → dOpc d = 0 → txCheck s t d = none → runs (.txTranspose t) [(txC d, (txMatC d).extent)]) ∧
    (head 3 → dOpc d = 1 → txCheck s t d = none → runs (.txStream t) []) ∧
    (head 4 → dOpc d = 0 → fuEvalCheck s t d = none → runs (.fuEval t) ((fuC d, (fuMatC d).extent) ::
      if fuMode d = 1 then [(fuX d, (fuMatX d).extent)] else [])) ∧
    (head 4 → dOpc d = 1 → runs (.fuLoadtab t) []) ∧
    (head 5 → dOpc d = 0 → ldCheck s t d = none → runs (.ldLoad t) []) ∧
    (head 5 → dOpc d = 1 → ldCheck s t d = none → runs (.ldSave t) []) ∧
    (head 6 → dOpc d = 0 → sendsCheck s t d = none → runs (.sends t) []) ∧
    (head 6 → dOpc d = 1 → recvCheck s t d = none → runs (.recv t) []) ∧
    (head 6 → dOpc d = 2 → remoteCheck s t d = none → runs (.put t) []) ∧
    (head 6 → dOpc d = 3 → remoteCheck s t d = none → runs (.get t) []) ∧
    (head 7 → dOpc d = 0 → updateCheck s t d = none → ∃ s', exec (.update t) s = .next s') ∧
    (∀ b, head 7 → dOpc d = 1 → s.cascState ≠ 1 → ∃ s', exec (.reduce t b) s = .next s')

/-- The FU without a table is the identity (R180), and a loaded slot holds the words of its table (R181). -/
def Obligations.FunctionTables : Prop :=
  ∀ (s : State) (t : Site) (e : QEntry) (rest : List QEntry) (v : Val), s.Canonical →
    (v.isNan = false → (fuEvalAt none v).f = (v, 0) ∧ (fuEvalAt none v).f' = (.fin false 1 0, 0)) ∧
    (s.Live t → s.queueOpen t 4 = true → (s.queue t 4).flight = [] → (s.queue t 4).entries = e :: rest → dCtl e.desc = 0 →
      dOpc e.desc = 1 → fuTabCheck s t e.desc = none → s.firstUe t (fuA e.desc) (tabBytes (s.words t (fuA e.desc) 16)) = none →
      ∃ s', exec (.fuLoadtab t) s = .next s' ∧
        s'.fuTab t (fuSlot e.desc) = some (s.words t (fuA e.desc) (tabBytes (s.words t (fuA e.desc) 16) / 4)))

/-- Formats (R79, R80, R82): a code decoded and encoded again is the same code, with no flag: every encoding of a number is the one its
value has. -/
def Obligations.FormatsRoundTrip : Prop :=
  ∀ c x mode r : Nat, x < 2 ^ fmtBits c → mode ≤ 2 → r < 256 →
    (c ≤ 8 → (decodeVal c x).isNan = false → encodeVal c mode r false (decodeVal c x) = (x, 0)) ∧
    (9 ≤ c → c ≤ 11 → encodeVal c mode r true (decodeVal c x) = (x, 0))

/-- The drain of the TE, the pair of a stream and a product, and the products of an orthogonalising UPDATE (R161, R168, R178, R300). -/
def Obligations.TensorEngineEvents : Prop :=
  ∀ (s : State) (t : Site) (f g : InFlight), s.Canonical → s.Live t →
    (∀ tile tiles, s.twinStall t = false → (s.queue t 0).flight.find? (fun f => !f.done) = some f → f.work = .te (tile :: tiles) →
      let d := f.entry.desc
      ∃ s', exec (.teSubtileDrain t) s = .next s' ∧ ∀ x,
        (∀ r, r < tile.rows → ∀ m ∈ teMatC d :: (if teWritesX d then [teMatX d] else []),
          let a := storeAddr t (m.rowOff (tile.row0 + r) + elemBit m.fmt tile.col0 / 8)
          x < a ∨ a + rowBytes m.fmt 16 ≤ x) → s'.byte x = s.byte x) ∧
    ((s.queue t 0).flight.find? (fun f => decide (f.work = .tePair) && f.fault.isNone) = some f → s.flightOf t 3 = some g →
      s.issues t = true → g.work = .txPair → g.fault = none → g.done = false →
      ∃ s', exec (.streamPairing t) s = .next s' ∧ SameMemory s s' ∧
        (dFC g.entry.desc ≠ teFb f.entry.desc → s' = (s.onQueue t 0 (fun k => { k with
            flight := updFirst (fun f => decide (f.work = .tePair) && f.fault.isNone)
              (fun _ => { f with fault := some (det ecFormat 1 0), done := true }) k.flight })).onFlight t 3
          (fun _ => { g with fault := some (det ecFormat 2 0) }))) ∧
    (∀ o r, s.ueFlight t = some f → f.work = .ortho o → ueRecord s t f.entry.desc = .ok r → s.issues t = true → o.pend ≠ 0 →
      o.pend ≤ 2 → (s.queue t 0).flight = [] → ((s.tile t).ueTurn = false ∨ s.teWaits t = false) →
      ∃ o' fl, exec (.ueTeProduct t) s = .next ((saveWork t r o' ((s.setCfld t aUeStat 31 0 (s.cfld t aUeStat 31 0 + 1)).onTile t
        (fun x => { x.stopBackfill with ueTurn := true }))).onFlight t 7 (fun f => { f with
          flags := f.flags ||| BitVec.ofNat 8 fl, work := .ortho o' })) ∧
        o'.prods = o.prods + 1 ∧ (o.stage ≠ 2 → o'.pend = o.pend - 1 ∧ o'.stage = o.stage) ∧
        (o.stage = 2 → o'.pend = 0 ∧ o'.stage = 3))

/-- The end of a command (R190, R192, R214): completion counts it once, enters its flag byte in the history and keeps it in the sticky
flags; a fault halts the queue with the descriptor copied out and its trap pending; Bedrock adds a drop report to its plot. -/
def Obligations.CommandsEnd : Prop :=
  ∀ (s : State) (t : Site) (q : Nat) (f : InFlight), s.Canonical → s.Live t → q < 8 → s.flightOf t q = some f →
    let k := s.queue t q
    (f.done = true → f.fault = none → ∃ s', exec (.engineCommandComplete t q) s = .next s' ∧
      let k' := s'.queue t q
      k'.ccnt = k.ccnt + 1 ∧ k'.icnt = k.icnt ∧ k'.entries = k.entries ∧ k'.flight = k.flight.drop 1 ∧ k'.halted = k.halted ∧
        k'.hist[(k.ccnt + 1).toNat % 16]'(Nat.mod_lt _ (by decide)) = f.flags ∧
        (f.flags = 0 → k'.sticky = k.sticky) ∧
        (f.flags ≠ 0 → Dword.field k'.sticky 63 32 = (k.ccnt + 1).toNat ∧
          Dword.field k'.sticky 7 0 = Dword.field k.sticky 7 0 ||| f.flags.toNat) ∧
        (∀ j, j < 8 → j ≠ q → s'.queue t j = s.queue t j) ∧ SameMemory s s') ∧
    (∀ d, f.done = true → f.fault = some d → d.cause < 2 ^ 8 → d.opnd < 16 →
      ∃ s', exec (.engineFaultEffect t q) s = .next s' ∧
      let k' := s'.queue t q
      k'.halted = true ∧ k'.fdesc = f.entry.desc ∧ k'.flight = [] ∧
        k'.entries = (k.flight.drop 1).map (fun x => x.entry) ++ k.entries ∧ k'.ccnt = k.ccnt ∧ k'.icnt = k.icnt ∧
        Dword.field k'.fault 63 63 = 1 ∧ Dword.field k'.fault 55 48 = d.cause ∧
        Dword.field k'.fault 47 40 = Desc.field f.entry.desc 27 20 ∧
        Dword.field k'.fault 39 32 = f.flags.toNat ∧ Dword.field k'.fault 31 0 = f.entry.ticket.toNat ∧
        Dword.field k'.detail 63 32 = f.progress % 2 ^ 32 ∧ Dword.field k'.detail 31 28 = d.opnd ∧
        (∀ x, x = q ∨ x ∈ (s.core t).pendQ → x ∈ (s'.core t).pendQ) ∧
        (∀ x ∈ (s'.core t).pendQ, x = q ∨ x ∈ (s.core t).pendQ ∨ (q = 0 ∧ x = 3)) ∧ (s'.core t).regs = (s.core t).regs ∧ SameMemory s s') ∧
    (∀ e rest tk gs vs qn, Picks (fun e => match e.2 with | SvcNote.sparse .. => true | _ => false) s.svc e rest →
      e.2 = .sparse qn tk gs vs → exec .sparseDropReport s = .next ({ s with svc := rest }.takeDrops e.1 qn tk gs vs))

/-- Control descriptors (R194): what RESUME, RETRY and DISCARD do to a halted queue, and that at the head of a queue that runs each counts
as complete, CLRFLAGS clearing TC_QSTICKY. -/
def Obligations.ControlDescriptors : Prop :=
  ∀ (s : State) (t : Site) (q : Nat) (e : QEntry), s.Canonical → s.Live t → q < 8 →
    let k := s.queue t q
    let ok := fun d : Desc => dCtl d = 1 ∧ dEng d = q ∧ d.toNat < 2 ^ 32 ∧ dGen d = 0 ∧ dRnd d = 0 ∧ Desc.field d 16 16 = 0 ∧
      Desc.field d 7 0 = 0
    (k.halted = true → k.entries.find? (fun e => ctlOk e.desc q && decide (dOpc e.desc ≤ 2)) = some e →
      (dOpc e.desc = 0 → ∃ s', exec (.resume t q) s = .next s' ∧ (s'.queue t q).halted = false ∧
        (s'.queue t q).ccnt = k.ccnt + 1 ∧ (s'.queue t q).entries = k.entries ∧
        Dword.field (s'.queue t q).fault 63 63 = 0 ∧
        (s'.queue t q).hist[(k.ccnt + 1).toNat % 16]'(Nat.mod_lt _ (by decide)) = BitVec.ofNat 8 (Dword.field k.fault 39 32)) ∧
      (dOpc e.desc = 1 → exec (.retry t q) s = .next (s.onQueue t q (fun k => { k with
        halted := false, fault := Dword.setField k.fault 63 63 0,
        entries := { desc := k.fdesc, ticket := BitVec.ofNat 32 (Dword.field k.fault 31 0) } :: k.entries }))) ∧
      (dOpc e.desc = 2 → ∃ s', exec (.discard t q) s = .next s' ∧ (s'.queue t q).halted = false ∧
        ∃ older, k.entries = older ++ (s'.queue t q).entries ∧ (∀ x ∈ older, x.ticket ≠ e.ticket) ∧
          (∀ x ∈ (s'.queue t q).entries.head?, x.ticket = e.ticket) ∧
          (s'.queue t q).ccnt = k.ccnt + BitVec.ofNat 32 (older.length + 1))) ∧
    (k.halted = false → s.queueOpen t q = true → k.flight = [] → ∀ rest, k.entries = e :: rest → ok e.desc →
      ∀ i ∈ [(Instr.resume t q, dOpc e.desc = 0), (.retry t q, dOpc e.desc = 1), (.discard t q, dOpc e.desc = 2),
             (.clrflags t q, dOpc e.desc = 3)], i.2 → ∃ s', exec i.1 s = .next s' ∧ (s'.queue t q).ccnt = k.ccnt + 1 ∧
        (s'.queue t q).entries = rest ∧ (s'.queue t q).sticky = (if dOpc e.desc = 3 then 0 else k.sticky) ∧
        (s'.queue t q).hist[(k.ccnt + 1).toNat % 16]'(Nat.mod_lt _ (by decide)) = 0 ∧ SameMemory s s')

/-! ### The cascade of modules -/

/-- Frames of a facet (R310 to R312, R324): a frozen or shut-down facet sends IDLE alone; a frame that takes a number is the sender's next,
holds at most 16 slots or grains, stands last in a replay of at most 256 and uses one entry of credit; a frame in error is discarded with
one NAK for the first missing frame, one out of sequence is discarded, and a good one in sequence moves the receiver on. -/
def Obligations.FacetFrames : Prop :=
  ∀ (s : State) (o : Nat) (fr : FacetFrame), s.Canonical → o < Config.optPorts → s.portLive o = true →
    let e := rFacetErr (optFacet o)
    (s.frozen = true ∨ s.shutDown = true → ∃ s' f, exec (.facetFrameSend o) s = .next s' ∧ (s'.opt o).line = some f ∧ f.ftype = .idle ∧
      f.slots = [] ∧ f.ctrl = [] ∧ f.cret = min 255 (s.opt o).freed ∧ (s'.opt o).txSeq = (s.opt o).txSeq ∧
      (s'.opt o).credit = (s.opt o).credit) ∧
    (s.frozen = false → s.shutDown = false → exec (.facetFrameSend o) s =
      .next ((((s.relayAll o).drainRx o).cascToPort o).onOpt o (fun x => x.slot false (s.portUp o)))) ∧
    (∀ (x : OptPort) up, x.resend = [] → ∃ f, (x.slot false up).line = some f ∧ f.fseq = x.txSeq ∧ f.cret = min 255 x.freed ∧
      f.slots.length ≤ 16 ∧ f.ctrl.length ≤ 16 ∧ (x.slot false up).freed = x.freed - min 255 x.freed ∧
      (f.ftype = .idle → (x.slot false up).txSeq = x.txSeq ∧ (x.slot false up).credit = x.credit) ∧
      (f.ftype = .data ∨ f.ftype = .ctrl → (x.slot false up).txSeq = (x.txSeq + 1) % 1024 ∧
        (x.slot false up).replay.getLast? = some f ∧ (x.slot false up).replay.length ≤ 256 ∧
        (up = true → 0 < x.credit ∧ (x.slot false up).credit = x.credit - 1)) ∧
      (f.ftype = .data → up = true ∧ f.slots ≠ []) ∧ f.ftype ≠ .reserved) ∧
    (∀ (x : OptPort) up f rest, x.resend = f :: rest → (x.slot false up).line = some f ∧ (x.slot false up).resend = rest) ∧
    (s.frozen = false →
      (∀ errs : Option Nat, (errs = none ∨ (∃ n, errs = some n ∧ 15 < n) ∨ fr.ftype = .reserved) →
        ∃ s', exec (.facetFrameReceive o fr errs) s = .next s' ∧ s'.fld e 63 48 = min (2 ^ 16 - 1) (s.fld e 63 48 + 1) ∧
          (s'.opt o).rxSeq = (s.opt o).rxSeq ∧ (s'.opt o).rxbuf = (s.opt o).rxbuf ∧
          ((s.opt o).discarding = true → fr.fseq ≠ (s.opt o).rxSeq → s'.opt o = s.opt o) ∧
          ((s.opt o).discarding = false ∨ fr.fseq = (s.opt o).rxSeq → (s'.opt o).discarding = true ∧
            (s'.opt o).ctrl = (s.opt o).ctrl ++ [{ pos := s.myPos, beat := 0, body := .nak (s.opt o).rxSeq }])) ∧
      (∀ n, n ≤ 15 → fr.ftype ≠ .reserved →
        let s0 := s.bump e 31 0 n
        (fr.fseq ≠ (s.opt o).rxSeq → exec (.facetFrameReceive o fr (some n)) s = .next s0) ∧
        (fr.fseq = (s.opt o).rxSeq → ∃ s', exec (.facetFrameReceive o fr (some n)) s = .next s' ∧
          (s'.opt o).discarding = false ∧ (s'.opt o).fails = 0 ∧
          (fr.ftype = .data ∨ fr.ftype = .ctrl → (s'.opt o).rxSeq = ((s.opt o).rxSeq + 1) % 1024) ∧
          (fr.ftype = .idle → s' = s0.onOpt o (fun x => { x with
            discarding := false, fails := 0, credit := min 230 (x.credit + fr.cret) })))))

/-- Link-up, attestation, failed ports and relayed opens (R311, R315 to R317, R321 to R323): FACET_CFG.EN starts and ends link-up; joined
lanes lead to ATTEST, a failed check to DENIED, a good one to UP with 230 entries of credit on every lane that is up; NAK sends again from
the frame it names; a failed port leaves LANEUP; an OPEN across modules is refused where there is no lane, no plot or no entry. -/
def Obligations.FacetsComeUpAndFail : Prop :=
  ∀ (s : State) (f o : Nat) (g : CtrlGrain) (rest : List CtrlGrain), s.Canonical → f < 8 → o < Config.optPorts →
    let st := rFacetStat f
    (∀ v : Dword, ∃ s', exec (.facetCfgWrite f v) s = .next s' ∧
      (s.fld (rFacetCfg f) 0 0 = 0 → v.getLsbD 0 = true → s'.facetState f = fsTraining ∧ s'.facet f = FacetRt.reset ∧
        s'.fld st 47 34 = 0 ∧ ∀ l, l < 14 → s'.opt (optPortOf f l) = OptPort.reset) ∧
      (s.fld (rFacetCfg f) 0 0 = 1 → v.getLsbD 0 = false → s'.facetState f = 0 ∧ s'.facet f = FacetRt.reset) ∧
      ((s.fld (rFacetCfg f) 0 0 = 1 ↔ v.getLsbD 0 = true) → s' = s.setReg (rFacetCfg f) (v &&& 0xFFFF))) ∧
    (s.facetState f = fsTraining → ∀ (joined miswired : BitVec 14) id pf,
      ∃ s', exec (.facetTrainingDone f joined miswired id pf) s = .next s' ∧
        s'.fld st 33 20 = (miswired &&& s.laneEn f &&& ~~~ (joined &&& s.laneEn f)).toNat ∧
        (joined &&& s.laneEn f = 0 → s'.facetState f = fsFailed) ∧
        (joined &&& s.laneEn f ≠ 0 → s'.facetState f = fsAttest ∧ (s'.facet f).joined = joined &&& s.laneEn f ∧
          (s'.facet f).segs = [] ∧ s'.freeCtr = s.freeCtr + 4 ∧ ∃ p, s'.attestPort f = some p ∧ (s'.opt p).ctrl.length = 501)) ∧
    (∀ i bytes, s.frozen = false → g.body = .attest i bytes → s.facetState f = fsAttest → ∀ p, s.attestPort f = some p →
      Picks (fun x => decide (x = g)) (s.opt p).ctrlIn g rest →
      ∃ s', exec (.attest f g) s = .next s' ∧ (s'.opt p).ctrlIn = rest ∧
        (s'.facet f).segs = (s.facet f).segs.filter (fun e => decide (e.1 ≠ i)) ++ [(i, bytes)] ∧
        ((s.facet f).has 0 2 = true ∨ s.noIdent = true → (s'.opt p).ctrl = (s.opt p).ctrl)) ∧
    (s.facetState f = fsAttest → ∀ (failStep : Option Nat) rtt,
      (∀ k, s.attestStep f = some k → (failStep.isSome = true ∨ s.noIdent = true ∨ (s.facet f).has 0 667 = true) →
        exec (.facetAttestDone f failStep rtt) s = .next ((s.setFacet f fsDenied).alarm 0x0009 wholeModule (f + k * 2 ^ 32))) ∧
      (∀ k, s.attestStep f = none → failStep = some k → ∃ s', exec (.facetAttestDone f failStep rtt) s = .next s' ∧
        s'.facetState f = fsDenied) ∧
      (s.attestStep f = none → failStep = none → (s.facet f).has 0 667 = true →
        let good := fun l => (s.facet f).joined.getLsbD l = true ∧ rtt.getD l 0 ≤ 10220
        ∃ s', exec (.facetAttestDone f failStep rtt) s = .next s' ∧
          ((∀ l, l < 14 → ¬ good l) → s'.facetState f = fsFailed) ∧
          ((∃ l, l < 14 ∧ good l) → s'.facetState f = fsUp ∧
            ∀ l, l < 14 → (s'.portUp (optPortOf f l) = true ↔ good l) ∧ (good l → (s'.opt (optPortOf f l)).credit = 230)))) ∧
    (∀ n, s.frozen = false → g.body = .nak n → Picks (fun x => decide (x = g)) (s.opt o).ctrlIn g rest →
      ∃ s', exec (.nak o g) s = .next s' ∧ (s'.opt o).resend = (s.opt o).replay.dropWhile (fun f => decide (f.fseq ≠ n)) ∧
        (s'.opt o).replay = (s.opt o).replay ∧ (s'.opt o).txSeq = (s.opt o).txSeq ∧ (s'.opt o).ctrlIn = rest) ∧
    (s.frozen = false → s.portUp o = true → exec (.facetPortFail o) s = .next (s.failPort o)) ∧
    (s.frozen = false →
      (∀ x : Grain × List (List Grain), takeOpen (s.opt o).rxbuf = some x → ∀ p vx vy tag, x.1.body = .openReq p vx vy tag →
        let s0 := s.onOpt o (fun y => { y with rxbuf := x.2 })
        exec (.optRelayOpen o true) s = .next ((s0.openHere o x.1 (p % 64) vx vy).drainRx o) ∧
        (s.fenceState x.1.sx.toNat ≠ 0 → s0.openHere o x.1 (p % 64) vx vy = s0.toPort o (linkErrTo x.1 errFenced)) ∧
        (s.fenceState x.1.sx.toNat = 0 → s.phys x.1.sx.toNat vx vy = none → s0.openHere o x.1 (p % 64) vx vy =
          s0.toPort o (linkGrain 7 (linkIdx x.1) x.1.sx.toNat 0 true (.openR (linkIdx x.1) (.refuse 4))))) ∧
      (∀ (x : Grain) l, Picks (fun y => ofKind 6 y) (s.ni (optSite o)).inbox x l → ∀ p vx vy tag, x.body = .openReq p vx vy tag →
        let s0 := s.withInbox (optSite o) l
        exec (.optRelayOpen o false) s = .next (s0.openThere o x p vx vy tag) ∧
        (s.portUp o = false → s0.openThere o x p vx vy tag =
          s0.niSend (optSite o) (mkGrain (optSite o) (grainSrc x) 7 x.conn.toNat 0 true (.openR tag (.refuse 5))))))

/-- The ring (R319, R320, R325 to R327, R333 to R335, R337): forming, its roster and its failures; marks and the lead's beat timer; slip
requests, cascade barriers, CHECKED and COMMIT, each taken in the order its direction was sent, passed on by a follower and answered by
the lead. -/
def Obligations.RingFormsAndBeats : Prop :=
  ∀ (s s0 : State) (g : CtrlGrain) (d : Bool), s.Canonical → s.frozen = false →
    (s.isLead = true → s.cascState = 1 → s.facetState 0 = fsUp → s.facetState 4 = fsUp → s.casc.formSent = none →
      exec .formationStart s = .next ((s.onCasc (fun c => { c with formSent := some s.cycle })).sendDown
        { pos := 0, beat := 0, body := .form 1 0 (BitVec.ofNat 256 (2 ^ s.myId)) })) ∧
    (∀ c, s.casc.formSent = some c → s.isLead = true → s.cascState = 1 → s.casc.rosterSent = false →
      ∃ s', exec .formTimeout s = .next s' ∧ s'.cascState = 4 ∧ s'.fld rFacetCasc 59 56 = 3 ∧ s'.casc.formSent = none ∧
        s'.casc.up = [] ∧ s'.casc.down.length = 1 ∧ c + 150000000 ≤ s'.cycle) ∧
    (s.isMember = true → s.cascUp = true ∨ s.casc.running = true → ∃ s', exec .markTimeout s = .next s' ∧ s'.casc.running = false) ∧
    (s.isLead = true → s.cascUp = true → s.casc.running = true →
      let b := (s.beatNow + 1) % 2 ^ 32
      exec .beatTimer s = .next ((s.sendCommits b).sendMark b)) ∧
    (s.takeRing g = some (d, s0) →
      let follows := s.isMember = true ∧ s.cascUp = true ∧ s.isLead = false
      let leads := s.isMember = true ∧ s.cascUp = true ∧ s.isLead = true
      let outside := ¬ (s.isMember = true ∧ s.cascUp = true)
      (∀ count fail map, g.body = .form count fail map →
        (s.isMember = false → exec (.form g) s = .next s0) ∧
        (s.isMember = true → fail ≠ 0 → s.cascState = 4 → exec (.form g) s = .next s0) ∧
        (s.isMember = true → fail ≠ 0 → fail < 16 → s.cascState ≠ 4 → ∃ s', exec (.form g) s = .next s' ∧ s'.cascState = 4 ∧
          s'.fld rFacetCasc 59 56 = fail ∧ s'.casc.down = s.casc.down ++ [g]) ∧
        (s.isMember = true → s.isLead = false → fail = 0 → s.cascState = 1 → map.getLsbD s.myId = false → count < 256 →
          ∃ s', exec (.form g) s = .next s' ∧ s'.myPos = count ∧ s'.casc.down = s.casc.down ++
            [{ g with body := .form (count + 1) 0 (map ||| BitVec.ofNat 256 (2 ^ s.myId)) }]) ∧
        (s.isMember = true → s.isLead = false → fail = 0 → s.cascState = 1 → map.getLsbD s.myId = true →
          exec (.form g) s = .next (s0.ringFail 1)) ∧
        (s.isLead = true → fail = 0 → s.cascState = 1 → map.getLsbD s.myId = false → exec (.form g) s = .next (s0.ringFail 2)) ∧
        (s.isLead = true → fail = 0 → s.cascState = 1 → map.getLsbD s.myId = true → count ≤ 256 → s.casc.rosterSent = false →
          ∀ c, s.casc.formSent = some c → ∃ s', exec (.form g) s = .next s' ∧ s'.myPos = 0 ∧ s'.fld rFacetCasc 55 48 = s.myId ∧
            s'.fld rFacetCasc 39 32 = count - 1 ∧ s'.casc.rosterSent = true ∧ s'.casc.down = s.casc.down ++
              [{ pos := 0, beat := 0, body := .roster count s.myId (s.nsSince c) }])) ∧
      (∀ c lead rrt, g.body = .roster c lead rrt →
        (s.cascState ≠ 1 ∨ s.isMember = false → exec (.roster g) s = .next s0) ∧
        (s.cascState = 1 → s.isMember = true → s.isLead = false → lead < 256 → c ≤ 256 → ∃ s', exec (.roster g) s = .next s' ∧
          s'.cascState = 2 ∧ s'.fld rFacetCasc 55 48 = lead ∧ s'.fld rFacetCasc 39 32 = c - 1 ∧ s'.casc.down = s.casc.down ++ [g]) ∧
        (s.cascState = 1 → s.isLead = true → s.casc.rosterSent = true → lead = s.myId → exec (.roster g) s =
          .next (((s0.setFld rFacetCasc 63 60 2).setFld rFacetBeat 16 0 (s.fld rFacetBeat 48 32)).sendMark 0))) ∧
      (∀ active slip, g.body = .mark active slip →
        (outside → exec (.mark g) s = .next s0) ∧
        (follows → exec (.mark g) s = .next ((s0.sendDown g).takeMark g.beat active slip)) ∧
        (leads → s.casc.markSent.find? (fun e => decide (e.1 = g.beat)) = none → exec (.mark g) s = .next s0) ∧
        (leads → ∀ e, s.casc.markSent.find? (fun e => decide (e.1 = g.beat)) = some e → ∃ s', exec (.mark g) s = .next s' ∧
          s'.fld rFacetRing 63 32 = min (2 ^ 32 - 1) (s.nsSince e.2) ∧
          s'.casc.markSent = s.casc.markSent.filter (fun x => decide (x.1 ≠ g.beat)))) ∧
      (∀ b, g.body = .slipreq b →
        (outside → exec (.slipreq g) s = .next s0) ∧ (follows → exec (.slipreq g) s = .next (s0.passOn d g)) ∧
        (leads → exec (.slipreq g) s = .next s0.takeSlip)) ∧
      (∀ p epoch, g.body = .bararr p epoch →
        (outside → exec (.bararr g) s = .next s0) ∧ (follows → exec (.bararr g) s = .next (s0.passOn d g)) ∧
        (leads → exec (.bararr g) s = .next (s0.arrive p epoch g.pos))) ∧
      (∀ p epoch, g.body = .barrel p epoch →
        (outside ∨ s.isLead = true → exec (.barrel g) s = .next s0) ∧
        (follows → exec (.barrel g) s = .next ((s0.sendDown g).takeBarrel p epoch) ∧
          (((s0.sendDown g).takeBarrel p epoch).plot p).barEpoch = (epoch + 1) % 256)) ∧
      (∀ num bad, g.body = .checked num bad →
        (outside → exec (.checked g) s = .next s0) ∧ (follows → exec (.checked g) s = .next (s0.passOn d g)) ∧
        (leads → ∃ s', exec (.checked g) s = .next s' ∧ (s.casc.running = false → ∃ l, (num, l) ∈ s'.casc.checked ∧ g.pos ∈ l))) ∧
      (∀ b num, g.body = .commit b num →
        (outside ∨ s.isLead = true → exec (.commitGrain g) s = .next s0) ∧
        (follows → exec (.commitGrain g) s = .next ((s0.sendDown g).nameBeat b num)))) ∧
    (∀ (b active : Nat) (slip : Bool), b < 2 ^ 32 → active < 2 ^ 17 → s.casc.commitBeat = [] → (∀ p, p < 64 → s.holdsSlots p = false) →
      (s.takeMark b active slip).fld rFacetBeat 16 0 = active ∧ (s.takeMark b active slip).beatNow = b ∧
      (s.takeMark b active slip).casc.running = true ∧ (s.takeMark b active slip).cycle = s.cycle + 64) ∧
    (∀ b,
      let base := (s.periodAt b).getD (s.fld rFacetBeat 16 0)
      let long := min 125000 ((5 * base + 3) / 4)
      (s.casc.slipDue = true → s.sendMark b = State.takeMark
        (((if (5 * base + 3) / 4 ≤ 125000 then s else s.ringAlarm).onCasc (fun c => { c with
          slipDue := false, markSent := c.markSent ++ [(b, s.cycle)] })).sendDown
            { pos := s.myPos, beat := b, body := .mark long true }) b long true) ∧
      (s.casc.slipDue = false → s.sendMark b = State.takeMark
        ((s.onCasc (fun c => { c with markSent := c.markSent ++ [(b, s.cycle)] })).sendDown
          { pos := s.myPos, beat := b, body := .mark base false }) b base false)) ∧
    (∀ p, p < Config.plots → ∀ (t : Site) n rest, s.plotOf t = some p →
      Picks (fun e => decide (s.plotOf e.1 = some p) && (match e.2 with | .groupComplete _ => true | _ => false)) s.svc
        (t, .groupComplete n) rest →
      let z := { s with svc := rest }
      let epoch := (s.plot p).barEpoch
      (n = 14 → exec (.beatGroupComplete p) s = .next (if s.isLead then z.arrive p epoch 0 else z.toLead (.bararr p epoch))) ∧
      (n ≠ 14 → s.lagOf p = 0 → exec (.beatGroupComplete p) s = .next (z.onPlot p (fun x => { x with beatDone := true }))) ∧
      (n ≠ 14 → 0 < s.lagOf p → ∃ s', exec (.beatGroupComplete p) s = .next s'))

/-! ### The host -/

/-- Host commands (R345 to R347, R351, R354, R357, R428, R446, R477): a frame of the queue's next sequence number is accepted and answered with a
receipt; a duplicate, a gap and a full queue are answered; what may not run completes at once; parts of REG_READ and REG_WRITE, QUERY,
DUMP_FETCH, RECOVER and its flash write. -/
def Obligations.HostCommandsAreAnswered : Prop :=
  ∀ (s : State) (q : Nat) (c : HostCmd), s.Canonical →
    (∀ i op st d, (i, op) ∈ hostRows q → q < Config.hostQueues → s.command q op = some c → s.refusedCmd q c = some (st, d) →
      exec i s = .next ((s.complete q c st d []).sweep 32 q)) ∧
    (∀ (e : Ether) pay, e.port < 2 → s.linkOn e.port = true → s.takes e = true → s.frameGood pay = true → (s.stage = 8 ∨ s.stage = 9) →
      let a := leAt pay 4 1
      let f := frameCmd pay e.port
      exec (.vhcpCommandArrival e pay) s = .next (s.judgeSeq a f) ∧
      (isResync f = false → f.seq = s.expSeq a → (s.hostq a).cmds.length < 32 → s.stage = 8 →
        assignedOp f.op = true → (∀ x ∈ (s.hostq a).cmds, assignedOp x.op = true) →
        ∃ s', exec (.vhcpCommandArrival e pay) s = .next s' ∧ s'.expSeq a = (s.expSeq a + 1) % 2 ^ 32 ∧
          s'.outstanding a f.seq = true ∧ s'.out = s.out ++ [.frame e.port
            (mkFrame 3 a f.op f.seq f.cookie stOk f.npart 0 (leBytes 8 0))]) ∧
      (isResync f = false → f.seq = s.expSeq a → 32 ≤ (s.hostq a).cmds.length →
        ∃ s', exec (.vhcpCommandArrival e pay) s = .next s' ∧ s'.expSeq a = s.expSeq a ∧ s'.out = s.out ++ [.frame e.port
          (mkFrame 3 a f.op f.seq f.cookie stBusy f.npart 0 (leBytes 8 0))]) ∧
      (isResync f = false → 64 < (s.expSeq a + 2 ^ 32 - f.seq) % 2 ^ 32 →
        ∃ s', exec (.vhcpCommandArrival e pay) s = .next s' ∧ s'.expSeq a = s.expSeq a ∧ s'.out = s.out ++ [.frame e.port
          (mkFrame 3 a f.op f.seq f.cookie stSeqgap f.npart 0 (leBytes 4 (s.expSeq a)))]) ∧
      (∀ d, isResync f = false → 0 < (s.expSeq a + 2 ^ 32 - f.seq) % 2 ^ 32 → (s.expSeq a + 2 ^ 32 - f.seq) % 2 ^ 32 ≤ 64 →
        (s.hostq a).done.find? (fun d => decide (d.seq = f.seq)) = some d →
        exec (.vhcpCommandArrival e pay) s = .next { s with out := s.out ++ [.frame e.port d.frame] })) ∧
    (∀ (e : Ether) pay, e.port < 2 → s.linkOn e.port = true → (s.takes e = false ∨ s.frameGood pay = false) →
      exec (.vhcpCommandArrival e pay) s = .next (s.bump (rHostPortStat e.port) 63 32 1)) ∧
    (s.Serves q opRegRead c →
      let a := c.num (8 * c.part) 8
      let code := s.regAccess q a false
      (code = 0 → exec (.regRead q) s = .next (s.endPart q c 0 (leBytes 8 (s.readReg a).toNat))) ∧
      (code ≠ 0 → exec (.regRead q) s = .next (s.endPart q c code (leBytes 8 0)))) ∧
    (s.Serves q opRegWrite c →
      let a := c.num (16 * c.part) 8
      let code := s.regAccess q a true
      let s1 := s.writeReg a (BitVec.ofNat 64 (c.num (16 * c.part + 8) 8))
      (code ≠ 0 → exec (.regWrite q) s = .next (s.endPart q c code [])) ∧
      (code = 0 → s1.outstanding q c.seq = true → exec (.regWrite q) s = .next (s1.endPart q c stOk [])) ∧
      (code = 0 → s1.outstanding q c.seq = false → exec (.regWrite q) s = .next s1)) ∧
    (∀ (c' : HostCmd) code data, c'.stop = none → c'.flags.testBit 1 = false → c'.codes.length + 1 < c'.npart →
      s.endPart q c' code data = s.onCommand q c'.seq (fun _ => { c' with
        codes := c'.codes ++ [code], part := c'.codes.length + 1, data := c'.data ++ data, started := true })) ∧
    (s.Serves q opQuery c →
      (c.num 0 1 ≠ 4 → exec (.query q) s = .next (s.finish q c stOk 0 (s.queryData q c))) ∧
      (c.num 0 1 = 4 → c.num 4 4 ≠ 0 → (s.hostq q).report = none → exec (.query q) s = .next (s.finish q c stState 0 [])) ∧
      (c.num 0 1 = 4 → c.num 4 4 ≠ 0 → ∀ r, (s.hostq q).report = some r →
        exec (.query q) s = .next (s.finish q c stOk 0 ((r.drop (c.num 4 4)).take 8000))) ∧
      (c.num 0 1 = 4 → c.num 4 4 = 0 →
        let r := s.attestation c.cookie.toNat
        exec (.query q) s = .next ((s.onHostq q (fun h => { h with report := some r })).finish q c stOk 0 (r.take 8000)))) ∧
    (s.Serves q opDump c → s.inFlight q = false →
      let b := 32 * c.part
      let bad := s.dumpBad (c.num b 8) (c.num (b + 8) 8) (c.num (b + 28) 4)
      (s.ai = none → exec (.dumpFetch q) s = .next (s.endPart q c stState [])) ∧
      (s.ai ≠ none → bad ≠ 0 → exec (.dumpFetch q) s = .next (s.endPart q c bad [])) ∧
      (∀ x, s.ai = some x → bad = 0 → ∃ s' r, exec (.dumpFetch q) s = .next s' ∧ s'.rdma = s.rdma ++ [r] ∧ r.queue = q ∧
        r.write = true ∧ r.off = c.num b 8 ∧ r.len = c.num (b + 8) 8 ∧ r.msg = .rdmaWrite (c.num (b + 28) 4)
          (BitVec.ofNat 64 (c.num (b + 16) 8)) (BitVec.ofNat 32 (c.num (b + 24) 4)) (x.bytes r.off r.len))) ∧
    (s.Serves q opRecover c → c.started = false → s.boot.writing = none → (s.stage = 8 ∨ s.stage = 9) →
      let off := c.num 0 8
      let total := c.num 8 8
      let bs := c.body.drop 16
      (∀ n, chunkBad s.boot.delivery q off total bs.length = some n → exec (.recover q) s = .next (s.finish q c stBadop n [])) ∧
      (∀ d, s.boot.delivery = some d → chunkBad s.boot.delivery q off total bs.length = none → off ≠ 0 →
        let r := s.collect d off bs
        (r.2.complete = false → exec (.recover q) s = .next (r.1.finish q c stOk 0 [])) ∧
        (r.2.complete = true → exec (.recover q) s = .next (r.1.judgeObject q c r.2))) ∧
      (s.boot.delivery = none → chunkBad s.boot.delivery q off total bs.length = none → off = 0 → s.zeroing = [] →
        ∃ s', exec (.recover q) s = .next s')) ∧
    (∀ (w : FlashWrite) ok, s.boot.writing = some w → ∃ s', exec (.flashWriteDone ok) s = .next s' ∧
      ((∀ x, (s.hostq w.queue).front = some x → x.op ≠ opRecover ∨ x.started = false) → s'.boot.writing = none ∧
        s'.fld rSecRecov 1 1 = 0 ∧ s'.fld rSecRecov 7 4 = if ok then 1 else 0xE))

/-- Shadow sets (R362, R364 to R367, R371, R374, R375): what a part of STAGE does to its set; CHECK and COMMIT judge it; the acknowledgements
name the instant; at the instant every item takes effect and the set is gone. -/
def Obligations.ShadowSetsCommit : Prop :=
  ∀ (s : State) (q : Nat) (c : HostCmd), s.Canonical →
    (s.Serves q opStage c → exec (.hostStage q) s = .next ((s.stagePart q c c.part).2.endPart q c (s.stagePart q c c.part).1 [])) ∧
    (∀ i,
      let num := c.num (16 * i) 4
      let item := c.num (16 * i + 4) 1
      let plot := c.num (16 * i + 5) 1
      let v := c.num (16 * i + 8) 8
      let it : ShadowItem := { item := item, plot := plot, value := BitVec.ofNat 64 v }
      let fits := num ≠ 0 ∧ c.num (16 * i + 6) 2 = 0 ∧ itemValueOk item v = true ∧ (if isPlotItem item then plot ≤ 63 else plot = 0)
      let mine := s.queueDev q = true ∨ (item < 0x10 ∧ (isPlotItem item = true → plot = q))
      (¬ fits → s.stagePart q c i = (stBadop, s)) ∧ (fits → ¬ mine → s.stagePart q c i = (stPerm, s)) ∧
      (fits → mine → ∀ k x, s.setNamed num = some (k, x) →
        (x.owner ≠ q → s.stagePart q c i = (stPerm, s)) ∧ (x.owner = q → x.state = 3 → s.stagePart q c i = (stState, s)) ∧
        (x.owner = q → x.state ≠ 3 → item = 0 → s.stagePart q c i = (stOk, s.dropSet k)) ∧
        (x.owner = q → x.state ≠ 3 → item ≠ 0 → x.items.length < 255 → s.stagePart q c i = (stOk, s.putSet k (x.put it)) ∧
          (x.put it).get item plot = some it.value.toNat)) ∧
      (fits → mine → s.setNamed num = none → item ≠ 0 → s.freeSlot = none → s.stagePart q c i = (stNospace, s)) ∧
      (fits → mine → s.setNamed num = none → item ≠ 0 → ∀ k, s.freeSlot = some k → ∃ x, s.stagePart q c i = (stOk, s.putSet k x) ∧
        x.num = num ∧ x.owner = q ∧ x.state = 0 ∧ x.items = [it])) ∧
    (s.Serves q opCheck c →
      let num := c.num 0 4
      (s.devRefused q num = true → exec (.check q) s = .next (s.finish q c stPerm 0 [])) ∧
      (s.setNamed num = none → exec (.check q) s = .next (s.finish q c stRefused 1 [])) ∧
      (s.devRefused q num = false → ∀ k x, s.setNamed num = some (k, x) → x.owner = q → x.state ≠ 3 →
        (s.checkSet x = 0 → exec (.check q) s =
          .next (((s.putSet k { x with state := 1, code := 0 }).ownChecked num).finish q c stOk 0 [])) ∧
        (s.checkSet x ≠ 0 → exec (.check q) s =
          .next ((s.putSet k { x with state := 2, code := s.checkSet x }).finish q c stRefused (s.checkSet x) [])))) ∧
    (s.Serves q opCommit c → c.started = false →
      let num := c.num 0 4
      let w := c.num 4 1
      (s.devRefused q num = true → exec (.commit q) s = .next (s.finish q c stPerm 0 [])) ∧
      (s.setNamed num = none → exec (.commit q) s = .next (s.finish q c stRefused 1 [])) ∧
      (s.devRefused q num = false → ∀ k x, s.setNamed num = some (k, x) → x.owner = q → x.state ≠ 3 →
        (s.checkSet x = 0 → s.whenBad x w = false → ∃ s', exec (.commit q) s = .next s' ∧
          s' = ((s.putSet k { x with state := 3, code := 0, want := w, named := c.num 8 8 }).showArmed x.mask).onCommand q c.seq
            (fun c => { c with started := true }) ∧ ∀ p ∈ x.mask, s'.fld (rPlotMode p) 7 7 = 1) ∧
        (s.checkSet x = 0 → s.whenBad x w = true → exec (.commit q) s =
          .next ((s.putSet k { x with state := 2, code := 10 }).finish q c stRefused 10 [])) ∧
        (s.checkSet x ≠ 0 → exec (.commit q) s =
          .next ((s.putSet k { x with state := 2, code := s.checkSet x }).finish q c stRefused (s.checkSet x) [])))) ∧
    (∀ k x, k < Config.shadowSlots → s.setAt k = some x →
      (x.state = 3 → x.sent = false → x.want = 0 → exec (.commitAcksComplete k) s =
        .next (s.putSet k { x with sent := true, whenKind := 1, instant := s.cycle + 2048 })) ∧
      (x.state = 3 → x.sent = false → x.want = 1 → s.cycle + 2048 ≤ x.named → exec (.commitAcksComplete k) s =
        .next (s.putSet k { x with sent := true, whenKind := 1, instant := x.named })) ∧
      (x.state = 3 → x.sent = false → x.want = 1 → x.named < s.cycle + 2048 → s.commitOf x = none →
        exec (.commitAcksComplete k) s = .next (s.disarm k x 2 11)) ∧
      (x.state = 3 → x.sent = false → x.want = 1 → x.named < s.cycle + 2048 → ∀ d, (s.disarm k x 2 11).commitOf x = some d →
        exec (.commitAcksComplete k) s = .next ((s.disarm k x 2 11).finish x.owner d stRefused 11 [])) ∧
      (x.sent = true → x.whenKind = 1 → exec (.commitInstant k) s = .next (s.commitSet k x)) ∧
      (x.sent = true → x.whenKind = 1 → x.mask = [] → s.cycle ≤ x.instant → s.commitOf x = none → ∀ v : Dword, v.toNat < 3 →
        x.items = [{ item := 0x11, plot := 0, value := v }] → ∃ s', exec (.commitInstant k) s = .next s' ∧
          s'.fld rShadowDev 3 2 = v.toNat ∧ s'.cycle = x.instant ∧ s'.shadow = mapDel s.shadow k ∧
          s'.fld rShadowLast 63 32 = x.num % 2 ^ 32)) ∧
    (∀ (i : ShadowItem), i.plot < 64 →
      let v := i.value.toNat
      (i.item = 1 → v ≤ 1 → (s.applyItem i).fld (rPlotMode i.plot) 0 0 = v) ∧
      (i.item = 6 → v ≤ 1 → (s.applyItem i).fld (rPlotMode i.plot) 5 5 = v) ∧
      (i.item = 7 → (s.applyItem i).reg (rPlotSeed i.plot) = i.value) ∧
      (i.item = 0x13 → v ≤ 1 → (s.applyItem i).fld rShadowDev 6 6 = v) ∧
      (i.item = 0x14 → v ≤ 125000 → (s.applyItem i).fld rFacetBeat 48 32 = v))

/-- Plots (R252, R275 to R277, R348, R351, R356, R369, R372, R373): PLACE judges and then moves; its commit makes the plot PLACED; a RUN
starts at once or waits; reports end it; ABORT, a drain and a timeout stop it. -/
def Obligations.PlotsArePlacedAndRun : Prop :=
  ∀ (s : State) (q : Nat) (c : HostCmd), s.Canonical →
    (s.Serves q opPlace c →
      ((s.plot q).placing = none → s.heavyArmed q = false → s.zeroing = [] → s.tilthBusy = false →
        (∀ r, s.judgePlace q c.seq = .error r → exec (.place q) s = .next (s.refusePlace q c r)) ∧
        (∀ pl, s.judgePlace q c.seq = .ok pl → ∃ s', exec (.place q) s = .next s' ∧ s'.placeState q = 2 ∧
          (s'.plot q).placing = some pl ∧ SameMemory s s')) ∧
      (∀ old, (s.plot q).placing = some old → old.moved = false →
        (∀ r, (s.setPlace q 1).judgePlace q c.seq = .error r → exec (.place q) s = .next (s.refusePlace q c r)) ∧
        (∀ pl k st, (s.setPlace q 1).judgePlace q c.seq = .ok pl → (s.plot q).pkg = some k → s.movesOf q pl = some st →
          exec (.place q) s = .next (s.moveRegions q k pl st) ∧
            ((s.moveRegions q k pl st).plot q).placing = some { pl with moved := true }))) ∧
    (∀ k, (s.plot q).pkg = some k → k.whole = true → s.running q = false → s.placeState q ≤ 1 →
      (s.formatBad k = true → s.judgePlace q c.seq = .error (pkgRefused reFormat 0 0)) ∧
      (s.formatBad k = false → s.modeMissing q (s.header k).flags = true → ∃ r, s.judgePlace q c.seq = .error r ∧ r.code = reMode)) ∧
    (∀ pl, q < Config.plots → (s.plot q).placing = some pl → pl.moved = true → (s.placeState q = 2 ∨ s.placeState q = 4) →
      exec (.placementCommit q) s = .next (s.endPlacing q pl)) ∧
    (∀ pl, ((s.commitPlacement q pl).plot q).placed = some { pl with moved := false } ∧ ((s.commitPlacement q pl).plot q).pkg = none ∧
      (s.commitPlacement q pl).placeState q = if pl.missing = [] then 3 else 5) ∧
    (∀ old, q < Config.plots → (s.plot q).placed = some old → s.placeState q = 4 → s.fenceState q ≠ 1 → (s.plot q).placing = none →
      s.zeroing = [] → s.tablesDue = false →
      (∀ r, s.rebound q old = .error r → ∃ s', exec (.replacement q) s = .next s' ∧ s'.placeState q = 6) ∧
      (∀ pl, s.rebound q old = .ok pl → (s.copyRegions q old pl).2.missing = [] → ∃ s', exec (.replacement q) s = .next s' ∧
        (s'.plot q).placing = some (s.copyRegions q old pl).2) ∧
      (∀ pl, s.rebound q old = .ok pl → (s.copyRegions q old pl).2.missing ≠ [] → ∃ s', exec (.replacement q) s = .next s' ∧
        s'.placeState q = 5)) ∧
    (s.Serves q opRun c →
      (s.placeState q ≠ 3 → (c.started = false ∨ s.running q = false) →
        exec (.run q) s = .next (s.finish q c stState (s.placeState q) [])) ∧
      (s.placeState q = 3 → s.running q = true → c.started = false → exec (.run q) s = .next (s.finish q c stState 3 [])) ∧
      (s.placeState q = 3 → s.running q = false → s.runHeld q = true → c.started = false →
        exec (.run q) s = .next (s.onCommand q c.seq (fun c => { c with started := true }))) ∧
      (s.placeState q = 3 → s.running q = false → s.runHeld q = false → ∃ s' r, exec (.run q) s = .next s' ∧
        (s'.plot q).run = some r ∧ r.seq = c.seq ∧ r.reports = [] ∧ r.args.length = 4 ∧ s'.fld (rPwrPlot q) 23 20 = 15 ∧
        s'.fld (rRasPlot q) 15 8 = 0 ∧ SameMemory s s')) ∧
    (∀ t next rest, Picks (fun e => isFrameReport e.2) s.svc (t, .frameReport next) rest →
      let z := { s with svc := rest }
      exec .frameReport s = .next (z.takeReport t next) ∧ (s.plotOf t = none → z.takeReport t next = z) ∧
      (∀ p r, s.plotOf t = some p → (s.plot p).run = some r →
        let r' := { r with reports := mapPut r.reports t.key next }
        let z' := z.onPlot p (fun x => { x with run := some r' })
        (z'.allFinished p r' = false ∨ z'.frameStaged p = true → z.takeReport t next = z') ∧
        (z'.allFinished p r' = true → z'.frameStaged p = false → (s.plot p).draining = false → s.fenceState p = 0 →
          z.takeReport t next = z'.endRun p stOk (s.fld (rRasPlot p) 15 8)))) ∧
    (∀ r, q < Config.plots → (s.plot q).run = some r → s.fenceState q = 0 → (s.plot q).draining = false → s.allFinished q r = true →
      (s.frameStaged q = true → exec (.layerAdvance q) s = .next (((s.atEdge (s.cycle + 2048)).instantOf q).endFinished q)) ∧
      (s.frameStaged q = false → exec (.layerAdvance q) s = .next (s.endRun q stOk (s.fld (rRasPlot q) 15 8)))) ∧
    (∀ (z : State) r, (z.plot q).run = some r →
      (z.allFinished q r = false ∨ z.frameStaged q = true → z.endFinished q = z) ∧
      (z.allFinished q r = true → z.frameStaged q = false → z.endFinished q = z.endRun q stOk (z.fld (rRasPlot q) 15 8))) ∧
    (q < Config.plots → (s.plot q).draining = true → s.fenceState q = 0 → (∀ t ∈ s.usable q, s.drained t = true) →
      exec (.plotDrained q) s = .next ((s.stopCores q).endRun q stAborted 0)) ∧
    (s.Serves q opAbort c →
      let target := c.num 0 4
      let done := (s.hostq q).done.find? (fun d => decide (d.seq = target))
      let left := (s.hostq q).cmds.find? (fun d => decide (d.seq = target))
      (∀ d, done = some d → besides (leAt d.frame 5 1) = false → exec (.abort q) s = .next (s.finish q c stAlready d.status [])) ∧
      (∀ d, done = some d → besides (leAt d.frame 5 1) = true → exec (.abort q) s = .next (s.finish q c stBadop 32 [])) ∧
      (done = none → left = none → exec (.abort q) s = .next (s.finish q c stNotfound target [])) ∧
      (∀ d, done = none → left = some d →
        let z := s.onCommand q c.seq (fun c => { c with started := true })
        (besides d.op = true → exec (.abort q) s = .next (s.finish q c stBadop 32 [])) ∧
        (besides d.op = false → d.started = false → exec (.abort q) s = .next (z.finish q d stAborted 0 [])) ∧
        (besides d.op = false → d.started = true → exec (.abort q) s = .next (z.stopCommand q d stAborted)) ∧
        (d.op = opRun → s.running q = true →
          z.stopCommand q d stAborted = z.onPlot q (fun x => { x with draining := true })))) ∧
    (q < Config.hostQueues → ∀ d, s.timed q = some d → s.pastTimeout q d = false →
      (s.plotScope d = true → exec (.commandTimeout q) s = .next (s.timeoutFence q d)) ∧
      (s.plotScope d = false → exec (.commandTimeout q) s = .next (s.stopCommand q d stTimeout)))

/-! ### Clocks, supply and heat -/

/-- Clocks (R383, R385 to R393): a reference that fails or stops falls over to the RC oscillator; 1,024 good windows make it usable again; a
field PLL coasts, relocks and reaches its operating point; a multiplexer takes a source while it is not busy, hangs, is forced and switches;
the counter measures. -/
def Obligations.ClocksFollowTheirRules : Prop :=
  ∀ (s : State) (f m : Nat), s.Canonical →
    (∀ src count gap, src ≠ .rc → count < 2 ^ 16 →
      let good := 973 ≤ count ∧ count ≤ 1075 ∧ gap = false
      (s.refSrc = src → good → ∃ s', exec (.refMonitorWindow src count gap) s = .next s' ∧ s'.fld rClkRef 6 6 = 1 ∧
        s'.fld rClkRef 47 32 = count ∧ s'.refSrc = src ∧ s'.refmon = s.refmon) ∧
      (s.refSrc = src → ¬ good → ∃ s', exec (.refMonitorWindow src count gap) s = .next s' ∧ s'.refSrc = .rc ∧
        s'.fld rClkRef 0 0 = 1 ∧ s'.fld rClkRef 7 7 = 1 ∧ s'.fld rClkRef 6 6 = 0 ∧ s'.fld (rClkMuxStat 0) 15 8 = 0 ∧
        s'.refmon.failed = some src ∧ s'.refmon.goodRuns = 0) ∧
      (s.refSrc ≠ src → s.refmon.failed = some src → ∃ s', exec (.refMonitorWindow src count gap) s = .next s' ∧
        (good → s'.refmon.goodRuns = s.refmon.goodRuns + 1) ∧ (¬ good → s'.refmon.goodRuns = 0) ∧
        (s'.fld rClkRef 6 6 = 1 ↔ 1024 ≤ s'.refmon.goodRuns))) ∧
    (s.refSrc ≠ .rc → ∃ s', exec .referenceEdgeGap s = .next s' ∧ s'.refSrc = .rc ∧ s'.refmon.failed = some s.refSrc ∧
      s'.fld rClkRef 0 0 = 1 ∧ s'.fld (rClkMuxStat 0) 7 4 = min 15 (s.fld (rClkMuxStat 0) 7 4 + 1)) ∧
    (f < 64 → Config.fieldPresent f = true →
      (s.fld (rClkField f) 6 6 = 0 → s.fieldState f ≠ 2 → s.fld (rClkField f) 4 3 = 1 → ∃ s', exec (.pllCoast f) s = .next s' ∧
        s'.fld (rClkField f) 7 7 = 1 ∧ s'.fld (rClkField f) 6 6 = 1 ∧ s'.fld (rClkField f) 5 5 = 1 ∧ (s'.fieldRt f).pllTo = some 2) ∧
      (s.fld (rClkField f) 6 6 = 0 → s.fieldState f ≠ 2 → (s.fieldRt f).pllTo.isSome = true → ∃ s', exec (.pllCoast f) s = .next s' ∧
        s'.fld (rClkField f) 6 6 = 1 ∧ (s'.fieldRt f).pllTo = some 2) ∧
      (s.fld (rClkField f) 6 6 = 1 → s.fieldState f = 0 → (s.fieldRt f).stateTo = none → s.fld (rClkField f) 4 3 = 2 →
        ∃ s', exec (.pllRelock f) s = .next s' ∧ s'.fld (rClkField f) 6 6 = 0 ∧ (s'.fieldRt f).pllTo = some 1) ∧
      (s.fld (rClkField f) 6 6 = 1 → s.fieldState f = 1 → (s.fieldRt f).stateTo = none →
        exec (.pllRelock f) s = .next (s.setFld (rClkField f) 6 6 0)) ∧
      (∀ n, n < 4 → (s.fieldRt f).pllTo = some n → ∃ s', exec (.pllSlewDone f) s = .next s' ∧ s'.fld (rClkField f) 4 3 = n ∧
        s'.fld (rClkField f) 5 5 = 0 ∧ (s'.fieldRt f).pllTo = none ∧
        ((s.fieldRt f).stateTo = none → s'.fieldState f = s.fieldState f) ∧
        (∀ k, (s.fieldRt f).stateTo = some k → k < 2 → s'.fieldState f = k ∧ (s'.fieldRt f).stateTo = none ∧ s'.tablesDue = true))) ∧
    (∀ v : Dword, muxNamed m = true →
      let sel := Dword.field v 7 0
      (muxHere m = false ∨ s.fld (rClkMuxStat m) 0 0 = 1 → exec (.clkMuxSelWrite m v) s = .next s) ∧
      (muxHere m = true → s.fld (rClkMuxStat m) 0 0 = 0 → ∃ s', exec (.clkMuxSelWrite m v) s = .next s' ∧
        s'.fld (rClkMux m) 7 0 = sel ∧ (muxTakes m sel = true → s'.fld (rClkMuxStat m) 0 0 = 1 ∧
          s'.muxes = mapPut s.muxes m { target := sel }) ∧ (muxTakes m sel = false → s'.fld (rClkMuxStat m) 0 0 = 0 ∧ s'.muxes = s.muxes))) ∧
    (∀ n, muxNamed m = true → s.muxGoal m = some n →
      (s.fld (rClkMuxStat m) 1 1 = 0 → exec (.clkMuxSwitchDone m) s = .next (s.muxOn m n)) ∧
      (s.fld (rClkMuxStat m) 1 1 = 0 → ∃ s', exec (.clkMuxHang m) s = .next s' ∧ s'.fld (rClkMuxStat m) 1 1 = 1) ∧
      (s.fld (rClkMuxStat m) 1 1 = 1 → exec (.clkMuxForce m) s = .next ((s.bump (rClkMuxStat m) 7 4 1).muxOn m n)) ∧
      (s.fld (rClkMuxStat m) 1 1 = 0 → exec (.clkMuxForce m) s = .next s) ∧
      (n < 256 → (s.muxOn m n).fld (rClkMuxStat m) 15 8 = n ∧ (s.muxOn m n).fld (rClkMuxStat m) 0 0 = 0 ∧
        (s.muxOn m n).fld (rClkMuxStat m) 1 1 = 0 ∧ (m = 0 → n ≤ 2 → (s.muxOn m n).fld rClkRef 5 4 = n))) ∧
    (∀ v : Dword, ∃ s', exec (.clkMeasGo v) s = .next s' ∧ s'.fld rClkMeas 31 8 = Dword.field v 31 8 ∧
      (s'.fld rClkMeas 0 0 = 1 ↔ v.getLsbD 0 = true ∨ s.fld rClkMeas 0 0 = 1)) ∧
    (∀ count, s.fld rClkMeas 0 0 = 1 → ∃ s', exec (.clkMeasDone count) s = .next s' ∧ s'.fld rClkMeas 0 0 = 0 ∧
      s'.fld rClkMeas 63 32 = if s.clockKhz (s.fld rClkMeas 31 24) = 0 then 0 else min 0xFFFFFFFF count)

/-- RoCEv2 and LOAD_PACKAGE (R341 to R344, R351, R529, R530): what a host write stores and a host read returns; a NAK that changes nothing;
a frame that is not taken is counted; congestion halves the rate; a context's states; retries, answers and the parts of a load. -/
def Obligations.HostTransfersAndLoads : Prop :=
  ∀ (s : State), s.Canonical →
    (∀ (e : Ether) (qpn n : Nat) (rkey : Word) (va : Dword) (bs : List Byte) (len : Nat), s.Admits e qpn n →
      (s.hostWindow n rkey va bs.length = none → exec (.roceWrite e qpn rkey va bs) s = .next (s.hostOut (.nak e.port qpn))) ∧
      (∀ t o, s.hostWindow n rkey va bs.length = some (t, .store o) → ∃ s', exec (.roceWrite e qpn rkey va bs) s = .next s' ∧
        SameOutside s s' (storeAddr t o) bs.length ∧ (∀ k, k < bs.length → s'.byte (storeAddr t o + k) = bs.getD k 0) ∧
        s'.fld (rHostQp n 2) 23 0 = (s.fld (rHostQp n 2) 23 0 + s.packets n bs.length) % 2 ^ 24) ∧
      (∀ t o, s.hostWindow n rkey va bs.length = some (t, .loam o) → exec (.roceWrite e qpn rkey va bs) s =
        .next (((s.advanceGot n bs.length).loamPut t o bs).hostOut (.ack e.port qpn))) ∧
      (s.hostWindow n rkey va len = none → exec (.roceRead e qpn rkey va len) s = .next (s.hostOut (.nak e.port qpn))) ∧
      (∀ t o, s.hostWindow n rkey va len = some (t, .store o) → s.firstUe t o len = none → (s.hostPort e.port).paused = false →
        ∃ s', exec (.roceRead e qpn rkey va len) s = .next s' ∧ SameMemory s s' ∧
          s'.out = s.out ++ [.readData e.port qpn (s.bytes (storeAddr t o) len)]) ∧
      (∀ t o, s.hostWindow n rkey va len = some (t, .store o) → (s.firstUe t o len).isSome = true →
        exec (.roceRead e qpn rkey va len) s = .next ((s.eccRead t o len).1.hostOut (.nak e.port qpn))) ∧
      (∀ t o x, s.hostWindow n rkey va len = some (t, .loam o) → s.loamBytes t o len = x →
        (∀ r, x.1 = some r → exec (.roceRead e qpn rkey va len) s = .next ((x.2.advanceGot n len).hostOut (.readData e.port qpn r))) ∧
        (x.1 = none → exec (.roceRead e qpn rkey va len) s = .next (x.2.hostOut (.nak e.port qpn)))) ∧
      (bs.length ≤ 4096 →
        let target := s.phys (s.qpPlot n) (s.fld (rHostQp n 2) 48 40) (s.fld (rHostQp n 2) 57 49)
        (s.fenceState (s.qpPlot n) ≠ 0 ∨ target = none → exec (.roceSend e qpn bs) s = .next (s.hostOut (.nak e.port qpn))) ∧
        (∀ t p s1, s.fenceState (s.qpPlot n) = 0 → target = some t → s.hostRing t = some p →
          s.hostMessage t p (s.fld (rHostQp n 2) 63 58) bs = some s1 →
          exec (.roceSend e qpn bs) s = .next ((s1.advanceGot n bs.length).hostOut (.ack e.port qpn))) ∧
        (∀ t, s.fenceState (s.qpPlot n) = 0 → target = some t → s.hostRing t = none → exec (.roceSend e qpn bs) s = .next s))) ∧
    (∀ (e : Ether) (qpn : Nat) (rkey : Word) (va : Dword) (bs : List Byte) (len : Nat), e.port < 2 → s.linkOn e.port = true →
      (s.takes e = false ∨ qpOf qpn = none ∨ s.stage ≠ 8) →
        let dropped : Out := .next (s.bump (rHostPortStat e.port) 63 32 1)
        exec (.roceWrite e qpn rkey va bs) s = dropped ∧ exec (.roceRead e qpn rkey va len) s = dropped ∧
          exec (.roceSend e qpn bs) s = dropped) ∧
    exec .cnpReceive s = .next { s with cnpRate := s.cnpRate / 2 } ∧
    exec .cnpRateRecovery s = .next { s with cnpRate := min (2 ^ 40) (s.cnpRate + 2 ^ 36) } ∧
    (∀ n (v : Dword), n < Config.qps →
      let a := rHostQp n 0
      (s.fld a 63 63 = 1 → v.getLsbD 63 = true → exec (.hostQpW0Write n v) s = .next s) ∧
      (s.fld a 63 63 = 1 → v.getLsbD 63 = false →
        exec (.hostQpW0Write n v) s = .next (((s.setFld a 63 63 0).setFld a 62 60 0).failContext n)) ∧
      (s.fld a 63 63 = 0 → v.getLsbD 63 = true → ∃ s', exec (.hostQpW0Write n v) s = .next s' ∧
        s'.qpState n = if s.plotValid (Dword.field v 59 54) = true ∧ Dword.field v 53 52 ≠ 3 then 1 else 2)) ∧
    (∀ n r, n < Config.qps → s.rdma.find? (fun r => decide (r.qp = n)) = some r →
      (s.qpReady n = true → r.tries < 7 → exec (.qpRetryTimeout n) s =
        .next (State.hostOut { s with rdma := s.rdma.map (fun x => if x = r then { x with tries := x.tries + 1 } else x) } r.msg)) ∧
      (s.qpReady n = true → 7 ≤ r.tries → exec (.qpRetryTimeout n) s = .next ((s.setFld (rHostQp n 0) 62 60 2).failContext n)) ∧
      (s.qpReady n = false → exec (.qpRetryTimeout n) s = .next (s.failContext n))) ∧
    (∀ q c r bs, q < Config.hostQueues → (s.hostq q).front = some c → s.qpReady r.qp = true →
      let s0 := { s with rdma := s.rdma.filter (fun x => decide (x ≠ r)) }
      (s.rdma.find? (fun r => decide (r.queue = q) && !r.write) = some r → bs.length = r.len →
        exec (.rdmaReadResponse q bs) s = .next (s0.takePart q c r.off bs)) ∧
      (s.rdma.find? (fun r => decide (r.queue = q) && !r.write) = some r → bs.length ≠ r.len →
        exec (.rdmaReadResponse q bs) s = .next (s0.endPart q c stRdma [])) ∧
      (s.rdma.find? (fun r => decide (r.queue = q) && r.write) = some r → exec (.rdmaWriteAck q) s = .next (s0.endPart q c stOk []))) ∧
    (∀ q c, s.Serves q opLoad c → s.inFlight q = false →
      let st := s.placeState q
      (0 < c.part → exec (.loadPackage q) s = .next (s.loadPart q c c.part)) ∧
      (c.part = 0 → c.num 8 1 = 0 → 1 < st → exec (.loadPackage q) s = .next (s.finish q c stState st [])) ∧
      (c.part = 0 → c.num 8 1 = 0 → st ≤ 1 → c.started = false → (s.plot q).pkg.isSome = true → ∃ s',
        exec (.loadPackage q) s = .next s' ∧ (s'.plot q).pkg = none ∧ s'.placeState q = 0) ∧
      (c.part = 0 → c.num 8 1 = 0 → st ≤ 1 → (c.started = true ∨ (s.plot q).pkg = none) → s.zeroing = [] →
        exec (.loadPackage q) s = .next (s.loadStart q c)) ∧
      (c.part = 0 → c.num 8 1 ≠ 0 → (st = 5 ∨ (st ≤ 1 ∧ (s.plot q).pkg.isSome = true)) →
        exec (.loadPackage q) s = .next (s.loadPart q c 0)) ∧
      (c.part = 0 → c.num 8 1 ≠ 0 → st ≠ 5 → (1 < st ∨ (s.plot q).pkg = none) →
        exec (.loadPackage q) s = .next (s.finish q c stState st [])) ∧
      (∀ i,
        let b := 16 + 32 * i
        let bad := s.loadBad q (c.num b 8) (c.num (b + 8) 8) (c.num (b + 28) 4)
        (bad ≠ 0 → s.loadPart q c i = s.endPart q c bad []) ∧
        (bad = 0 → ∃ r, (s.loadPart q c i).rdma = s.rdma ++ [r] ∧ r.queue = q ∧ r.write = false ∧ r.off = c.num b 8 ∧
          r.len = c.num (b + 8) 8 ∧ r.tries = 0)))

/-- Power states (R394 to R398, R413, R414, R422, R437): a tile wakes from NAP and from DARK; a field goes to PENUMBRA, to LIT, to UMBRA and up
again; a short takes it out and its retries bring it back or retire it; tables commit. -/
def Obligations.PowerStatesChange : Prop :=
  ∀ (s : State) (t : Site) (f : Nat), s.Canonical →
    (s.Live t → (s.tile t).power = .nap → s.fieldState t.field = 0 →
      (∀ p, s.plotOf t = some p → s.fld (rPwrPlot p) 0 0 = 0 ∨ s.runWanted p = true) →
      ∃ s', exec (.tileNapWake t) s = .next s' ∧ (s'.tile t).power = .active ∧ s'.core t = s.core t ∧ s'.ni t = s.ni t ∧ SameMemory s s') ∧
    (s.Live t → (s.tile t).power = .dark → s.fieldState t.field = 0 → s.rated t = true → (s.plotOf t).isSome = true →
      exec (.tileDarkWake t) s = .next (s.resetTile t)) ∧
    (f < 64 → Config.fieldPresent f = true →
      let r := s.fieldRt f
      (s.fieldState f = 0 → s.fieldRests f = true → (s.scanning f = true → ∀ p ∈ s.usersOf f, s.fenceState p = 2) →
        ∃ s', exec (.fieldToPenumbra f) s = .next s' ∧ (s'.fieldRt f).stateTo = some 1 ∧ (s'.fieldRt f).pllTo = some 2 ∧
          s'.fieldState f = 0 ∧ (∀ u, u.field = f → u.isTile = true → s.scanning f = false → (s'.tile u).power ≠ .active)) ∧
      (s.fieldState f = 1 → s.fieldRests f = true → s.scanning f = false → f ∉ s.repair.retiredFields → f ∉ s.retiringFields →
        (r.thermal = false ∨ r.asked = some 0) → ∃ s', exec (.fieldToLit f) s = .next s' ∧ (s'.fieldRt f).stateTo = some 0 ∧
          (s'.fieldRt f).pllTo = some (if s.fld (rClkField f) 6 6 = 1 then 2 else 1) ∧ s'.fieldState f = 1) ∧
      (s.fieldState f ≠ 2 → exec (.fieldToUmbra f true) s = .next (s.fieldOff f (if r.asked = some 3 then fcThermal else fcField))) ∧
      (s.fieldState f ≠ 2 → s.fieldRests f = true → exec (.fieldToUmbra f false) s =
        .next ({ s with tablesDue := true }.onField f (fun r => { r with stateTo := some 2 }))) ∧
      (s.fieldState f ≠ 2 → r.stateTo = some 2 → f ∈ s.tables.umbra → s.tablesDue = false →
        exec (.fieldToUmbra f false) s = .next (s.fieldOff f fcField)) ∧
      ((s.fieldDark f).fieldState f = 2 ∧ (s.fieldDark f).fld (rClkField f) 6 3 = 0 ∧ (s.fieldDark f).tablesDue = true ∧
        (∀ u, u.field = f → u.px < 512 → u.py < 512 → (s.fieldDark f).tile u = Tile.reset ∧ (s.fieldDark f).router u = Router.empty) ∧
        (∀ a, (addrSite a).field ≠ f → (s.fieldDark f).byte a = s.byte a)) ∧
      (s.fieldState f = 2 → s.fieldRests f = true → r.latched = false → s.shutDown = false → f ∉ s.repair.retiredFields →
        f ∉ s.retiringFields → (r.thermal = false ∨ r.asked = some 4) → ∃ s', exec (.fieldPowerUp f) s = .next s' ∧
          (s'.fieldRt f).stateTo = some 1 ∧ (s'.fieldRt f).pllTo = some 2 ∧ (s'.fieldRt f).untested = true) ∧
      (r.latched = false → s.fieldState f ≠ 2 → (∀ c ∈ r.shorts, c + 3600 * second ≤ s.cycle) → ∃ s',
        exec (.fieldShort f) s = .next s' ∧ (s'.fieldRt f).latched = true ∧ (s'.fieldRt f).shorts.length = 1) ∧
      (r.latched = false → s.fieldState f ≠ 2 → ∃ s', exec (.fieldShort f) s = .next s') ∧
      (r.latched = true → s.fld (rPwrField f) 29 28 < 3 → f ∉ s.repair.retiredFields → f ∉ s.retiringFields →
        (∃ s', exec (.shortRetry f false) s = .next s' ∧ (s'.fieldRt f).latched = false ∧ (s'.fieldRt f).stateTo = some 1 ∧
          s'.fld (rPwrField f) 29 28 = s.fld (rPwrField f) 29 28 + 1) ∧
        (s.fld (rPwrField f) 29 28 < 2 → exec (.shortRetry f true) s =
          .next (s.setFld (rPwrField f) 29 28 (s.fld (rPwrField f) 29 28 + 1))) ∧
        (s.fld (rPwrField f) 29 28 = 2 → exec (.shortRetry f true) s =
          .next ((s.setFld (rPwrField f) 29 28 3).retireField f fcField)))) ∧
    (s.tablesDue = true → ∃ s', exec .tableCommit s = .next s' ∧ s'.tablesDue = false ∧ s'.retiring = [] ∧ s'.retiringFields = [] ∧
      (∀ k ∈ s.retiring, k ∈ s'.repair.retired) ∧ (∀ k ∈ s.retiringFields, k ∈ s'.repair.retiredFields) ∧
      s'.fld rRouteStat 63 32 = (s.fld rRouteStat 63 32 + 1) % 2 ^ 32 ∧ (s.shutDown = false → s'.flashRepair = s'.repair))

/-- Power, droop, supply and heat (R401 to R412): the cap controller's rounds and hints; counters; the droop clamp; backfill; the samples of the
supply, its ceiling, an overload and the stages of a shutdown; temperatures and their thresholds. -/
def Obligations.PowerIsHeldInBounds : Prop :=
  ∀ (s : State) (f : Nat), s.Canonical →
    (∀ pin plots,
      let powers := fun p => match plots.find? (fun e : Nat × Nat => decide (e.1 = p)) with | some e => e.2 | none => 0
      ∃ s', exec (.capLoop pin plots) s = .next s' ∧ s'.fld rPwrStat 47 32 = min 65535 pin ∧
        (∀ p, p < 64 → s'.fld (rPwrPlot p) 47 32 = min 65535 (powers p)) ∧
        (s.policy = 2 → ∀ p, p < 64 → s'.rateOf p = s.rateOf p) ∧
        (s.policy ≠ 2 →
          let cap := s.fld rPwrCapSet 15 0
          let above := fun p => (s.share pin powers p).1 < (powers p : Int) * ((s.share pin powers p).2 : Int)
          (∀ p, p < 64 → s.running p = false → s'.rateOf p = s.rateOf p) ∧
          (cap < pin → ∀ p, p < 64 → s.running p = true → above p → s'.rateOf p = s.rateOf p - 1) ∧
          (cap < pin → (∀ p, p < 64 → s.running p = true → ¬ above p) → ∀ p, p < 64 → s.running p = true →
            s'.rateOf p = s.rateOf p - 1) ∧
          (100 * pin < 98 * cap → ∀ p, p < 64 → s.running p = true → ¬ above p → s'.rateOf p =
            if s.belowCeil p = true then s.rateOf p + 1 else s.rateOf p) ∧
          (pin ≤ cap → 98 * cap ≤ 100 * pin → ∀ p, p < 64 → s'.rateOf p = s.rateOf p))) ∧
    (∀ (t : Site) phase level rest mp mr, Picks (fun e => (isHeavy e.2).isSome) s.svc (t, .heavy phase level) rest →
      let z := { s with svc := rest }
      (∀ p, s.virt t = some (p, 0, 0) → s.policy = 1 → exec (.heavyHintReceive mp mr) s = .next (z.hint p phase level mp mr)) ∧
      (s.policy ≠ 1 → exec (.heavyHintReceive mp mr) s = .next z)) ∧
    (∀ v : Dword, ∃ s', exec (.pwrCapSetWrite v) s = .next s' ∧ 4000 ≤ s'.fld rPwrCapSet 15 0 ∧ s'.fld rPwrCapSet 15 0 ≤ 42000 ∧
      (4000 ≤ Dword.field v 15 0 → Dword.field v 15 0 ≤ 42000 → s'.fld rPwrCapSet 15 0 = Dword.field v 15 0) ∧
      s'.fld rPwrCapSet 19 16 = Dword.field v 19 16) ∧
    (Config.fieldPresent f = true → f < 64 →
      (∀ p q a b dev ein w, p < 64 → q < 64 → ∃ s', exec (.energySample f [(p, a)] [(q, b)] dev ein w) s = .next s' ∧
        s'.fld (rPwrEplot p) 63 0 = (s.fld (rPwrEplot p) 63 0 + a) % 2 ^ 64 ∧
        s'.fld (rPwrEqueue q) 63 0 = (s.fld (rPwrEqueue q) 63 0 + b) % 2 ^ 64 ∧
        s'.fld rPwrEdev 63 0 = (s.fld rPwrEdev 63 0 + dev) % 2 ^ 64 ∧ s'.fld rPwrEin 63 0 = (s.fld rPwrEin 63 0 + ein) % 2 ^ 64 ∧
        s'.fld (rPwrField f) 47 36 = min 4095 w) ∧
      (∃ s', exec (.droopCrossing f) s = .next s' ∧ s'.fld (rPwrField f) 63 48 = min 65535 (s.fld (rPwrField f) 63 48 + 1) ∧
        (s'.fieldRt f).clamp = some 0 ∧ ∀ c, c ∈ (s'.fieldRt f).droops ↔ (c ∈ (s.fieldRt f).droops ∧ s.cycle < c + second) ∨ c = s.cycle) ∧
      (∀ n, (s.fieldRt f).clamp = some n → ∃ s', exec (.droopClampStep f) s = .next s' ∧
        (s'.fieldRt f).clamp = if 15 ≤ n then none else some (n + 1)) ∧
      (∀ t0 t1 t2 t3, t0 < 256 → t1 < 256 → t2 < 256 → t3 < 256 → ∃ s1 : State, s1.fld (rThmField f) 7 0 = t0 ∧
        s1.fld (rThmField f) 15 8 = t1 ∧ s1.fld (rThmField f) 23 16 = t2 ∧ s1.fld (rThmField f) 31 24 = t3 ∧
        (∀ a, a ≠ rThmField f → s1.reg a = s.reg a) ∧ s1.temp f = max (max t0 t1) (max t2 t3) ∧
        exec (.thermalSample f t0 t1 t2 t3) s = .next (((s1.showHeat f).heatCeil f).heatState f)) ∧
      (s.temp f < s.fld rThmCfg 7 0 → s.fld rThmCfg 7 0 ≤ s.temp f + 3 → (s.heatCeil f).fld (rPwrField f) 35 32 = s.fld (rPwrField f) 35 32) ∧
      (s.fld rThmCfg 7 0 ≤ s.temp f → 10 ≤ (s.fieldRt f).below + 1 →
        (s.heatCeil f).fld (rPwrField f) 35 32 = s.fld (rPwrField f) 35 32 - 1)) ∧
    (∀ t, s.Live t →
      (∀ r, (s.tile t).backfill = some r → s.fld rPwrBf 7 4 + 1 < r → (s.core t).blocked ≠ some (.bar 15) →
        ∃ s', exec (.backfillStep t) s = .next s' ∧ (s'.tile t).backfill = some (r - 1)) ∧
      (∀ r, (s.tile t).backfill = none → (s.tile t).climb = some r → ∃ s', exec (.backfillStep t) s = .next s' ∧
        (s'.tile t).climb = if s.rateGoal t ≤ r + 1 then none else some (r + 1))) ∧
    (∀ vin, s.supply.aux = true → vin < 65536 →
      ∃ s', exec (.supplySample vin) s = .next s' ∧ s'.fld rPwrStat 63 48 = vin ∧ s'.supply.vin = vin ∧
        (vin < 4900 → 1 ≤ s.supply.low49 → s'.fld rPwrSupply 0 0 = 1) ∧
        (vin < 4600 → 40 ≤ s.supply.low46 → s'.shutDown = true) ∧ (6000 < vin → 39 ≤ s.supply.over60 → s'.shutDown = true) ∧
        (s.shutDown = false → ¬ (vin < 4600 ∧ 40 ≤ s.supply.low46) → ¬ (6000 < vin ∧ 39 ≤ s.supply.over60) → s'.shutDown = false)) ∧
    (s.fld rPwrSupply 0 0 = 0 → s.supply.ceil < 16 →
      exec .supplyCeilingStep s = .next (s.onSupply (fun u => { u with ceil := u.ceil + 1 }))) ∧
    (∀ avg, (avg ≤ 42000 → exec (.overloadStep avg) s = .next (s.onSupply (fun u => { u with drops := 0 }))) ∧
      (42000 < avg → ∃ s', exec (.overloadStep avg) s = .next s' ∧ s'.fld rPwrSupply 3 3 = 1 ∧
        s'.supply.drops = min 15 (s.supply.drops + 1) ∧ ∀ p, p < 64 → s'.rateOf p = s.rateOf p - 1)) ∧
    (s.supply.stage = 1 → ∃ s', exec .shutdownStage s = .next s' ∧ s'.supply.stage = 2) ∧
    (s.supply.stage = 2 → ∃ s', exec .shutdownStage s = .next s' ∧ s'.supply.stage = 3 ∧
      ∀ g, g < 64 → Config.fieldPresent g = true → g ∉ stewardFields → s'.fieldState g = 2) ∧
    (s.supply.stage = 3 → ∃ s', exec .shutdownStage s = .next s' ∧ s'.supply.stage = 4 ∧ s'.pwrOk = false) ∧
    (∀ v : Dword, ∃ s', exec (.thmCfgWrite v) s = .next s' ∧ s'.fld rThmCfg 7 0 = min 95 (Dword.field v 7 0) ∧
      s'.fld rThmCfg 15 8 = min 105 (Dword.field v 15 8) ∧ s'.fld rThmCfg 23 16 = min 115 (Dword.field v 23 16))

/-! ### Faults and resets -/

/-- Fences and scans (R424 to R427, R430, R439, R440, R443, R444, R450, R451): a fence is decided once, stops the cores of its plot and only
counts after that; it ends drained or at its limit; twins that differ report it; a scan starts, takes turns and ends. -/
def Obligations.FencesStopPlots : Prop :=
  ∀ (s : State) (p : Nat), s.Canonical → p < Config.plots →
    let decided := fun (s' : State) (cause : Nat) => s'.fenceState p = 1 ∧ s'.fld (rRasPlot p) 55 48 = cause ∧
      (∃ f, (s'.plot p).fence = some f ∧ f.cause = cause ∧ f.cycle = s.cycle ∧ f.more = 0 ∧ f.cut = false) ∧
      ∀ t ∈ s.usable p, (s'.core t).run = .stopped ∧ (s'.core t).blocked = none ∧ (s'.core t).regs = (s.core t).regs
    (s.fenceState p = 0 → ∃ s', exec (.plotResetFence p) s = .next s' ∧ decided s' fcHost ∧ SameMemory s s') ∧
    (s.fenceState p = 1 → ∀ f, (s.plot p).fence = some f → ∃ s', exec (.plotResetFence p) s = .next s' ∧ s'.fenceState p = 1 ∧
      (s'.plot p).fence = some { f with more := min 0xFFFF (f.more + 1) }) ∧
    (s.fenceState p = 2 → ∃ s', exec (.plotResetFence p) s = .next s' ∧
      s'.fld (rRasFlt p 6) 31 16 = min 65535 (s.fld (rRasFlt p 6) 31 16 + 1)) ∧
    (∀ (t : Site) n rest cause, reportCause n = some cause → s.plotOf t = some p →
      Picks (fun e => decide (reportCause e.2 = some cause) && decide (s.plotOf e.1 = some p)) s.svc (t, n) rest →
      exec (.fence p cause) s = .next ({ s with svc := rest }.fenceReport p t n) ∧
      (s.fenceState p = 0 → (∃ c e v, n = .doubleTrap c e v) → decided ({ s with svc := rest }.fenceReport p t n) fcDoubleTrap) ∧
      (n = .linkErr → s.running p = false → { s with svc := rest }.fenceReport p t n = { s with svc := rest })) ∧
    (s.fenceState p = 1 → s.fenceDrained p = true → exec (.fenceDrained p) s = .next (s.fenced p true)) ∧
    (s.fenceState p = 1 → exec (.fenceDrainLimit p) s = .next (s.fenced p false)) ∧
    (∀ f drained, (s.plot p).fence = some f → f.replay = none →
      (s.fenced p drained).fenceState p = 2 ∧ ((s.fenced p drained).plot p).run = none ∧ ((s.fenced p drained).plot p).placing = none ∧
      (s.fenced p drained).placeState p ≠ 2 ∧ (∀ c, c ∉ ((s.fenced p drained).hostq p).cmds)) ∧
    (∀ r, s.fenceState p = 0 → (s.plot p).draining = true → (s.plot p).run = some r → exec (.fenceDrainLimit p) s =
      .next ((s.fencePlot p fcDrain { FenceCall.plain with culprit := some r.seq, status := stAborted }).fenced p false)) ∧
    (∀ (t : Site) g rest a n v d, s.Live t → g.body = .twin a n v → (s.ni t).digests.find? (fun d => decide (d.num = n)) = some d →
      Picks (fun h => ofKind 10 h && (match h.body with
        | .twin _ n _ => ((s.ni t).digests.find? (fun d => decide (d.num = n))).isSome
        | _ => false)) (s.ni t).inbox g rest →
      let s1 := (s.withInbox t rest).onNi t (fun x => { x with digests := x.digests.filter (fun d => decide (d.num ≠ n)) })
      (d.value = v → exec (.twinDigest t) s = .next s1) ∧ (d.value ≠ v → exec (.twinDigest t) s = .next (s1.report t .twinMismatch))) ∧
    (∀ v : Dword, ∃ s', exec (.rasDrainWrite v) s = .next s' ∧ s'.fld rRasDrain 15 0 = max 10 (Dword.field v 15 0)) ∧
    (∀ v : Dword,
      let f := Dword.field v 55 48
      ∃ s', exec (.scanGo v) s = .next s' ∧
        (Dword.field v 61 61 = 1 → s.fld rRasScan 63 63 = 0 → s.scanFree f = true → (∀ o, o < 64 → s.usesField o f = false) →
          s'.fld rRasScan 31 16 = Dword.field v 31 16 ∧ s'.fld rRasScan 63 63 = 1 ∧ s'.scan = { field := f, next := f + 1, active := true }) ∧
        (Dword.field v 61 61 = 0 ∨ s.fld rRasScan 63 63 = 1 ∨ s.scanFree f = false → s'.scan = s.scan ∧
          s'.fld rRasScan 31 16 = Dword.field v 31 16 ∧ s'.fld rRasScan 63 63 = s.fld rRasScan 63 63)) ∧
    (s.fld rRasScan 31 16 ≠ 0 → s.fld rRasScan 63 63 = 0 →
      (s.nextScan = none → exec .scanPeriod s = .next s) ∧ (∀ f, s.nextScan = some f → exec .scanPeriod s = .next (s.beginScan f))) ∧
    (∀ f, f < 64 → Config.fieldPresent f = true → s.scanning f = true → s.fieldState f = 1 → s.fieldRests f = true →
      (∃ s', exec (.scanDone f [] []) s = .next s' ∧ s'.fld rRasScan 63 63 = 0 ∧ s'.fld rRasScan 62 62 = 1 ∧ s'.fld rRasScan 47 32 = 0 ∧
        (s'.fieldRt f).untested = false ∧ (s'.fieldRt f).stateTo = some 0) ∧
      (∀ tiles spills, exec (.scanDone f tiles spills) s = .next (s.endScan f tiles spills)))

/-- Resets (R429, R431 to R436, R450, R451, R503): a DEVICE reset leaves the registers at their reset values and flash as it stood; WARM, FIELD,
PLOT and TILE are asked for, fence what they must, and end; loam that has left a plot is zeroed. -/
def Obligations.ResetsReachTheirDomains : Prop :=
  ∀ (s : State) (p f : Nat) (t : Site), s.Canonical →
    let asked := fun (s' : State) (d : Domain) (code : Nat) => s'.resets = s.resets ++ [d] ∧ s'.fld rRasResetStat 2 0 = code ∧
      s'.fld rRasResetStat 31 31 = 1 ∧ s'.fld rRasResetStat 63 32 = (s.fld rRasResetStat 63 32 + 1) % 2 ^ 32
    (∃ s', exec .rasResetDevice s = .next s' ∧ (∀ a, s'.reg a = regReset a) ∧ (∀ u, s'.tile u = Tile.reset) ∧ (∀ a, s'.byte a = 0) ∧
      s'.flash = s.flash ∧ s'.frozen = false ∧ s'.shadow = [] ∧ s'.resets = [] ∧ s'.out = s.out ∧ s'.resetN = s.resetN) ∧
    (∃ s', exec .resetNLow s = .next s' ∧ (∀ a, s'.reg a = regReset a) ∧ s'.resetN = false ∧ s'.flash = s.flash) ∧
    (∃ s', exec .rasResetWarm s = .next s' ∧ asked s' .warm 2 ∧ ∀ q, q < Config.hostQueues → (s'.hostq q).cmds = []) ∧
    (Config.fieldPresent f = false → exec (.rasResetField f) s = .next (s.setFld rRasResetStat 30 30 1)) ∧
    (Config.fieldPresent f = true → ∃ s', exec (.rasResetField f) s = .next s' ∧ asked s' (.field f) 3 ∧
      ∀ o, o < 64 → s.usesField o f = true → s'.fenceState o ≠ 0) ∧
    (p < Config.plots →
      (s.plotValid p = true → ∃ s', exec (.rasResetPlot p) s = .next s' ∧ exec (.plotResetReset p) s = .next s' ∧ asked s' (.plot p) 4 ∧
        s'.fenceState p ≠ 0) ∧
      (s.plotValid p = false → exec (.rasResetPlot p) s = .next (s.setFld rRasResetStat 30 30 1) ∧
        exec (.plotResetReset p) s = .next s)) ∧
    (t.isTile = false → exec (.rasResetTile t) s = .next (s.setFld rRasResetStat 30 30 1)) ∧
    (t.isTile = true → ∃ s', exec (.rasResetTile t) s = .next s' ∧ asked s' (.tile t) 5 ∧
      ∀ o, o < 64 → s.plotOf t = some o → s'.fenceState o ≠ 0) ∧
    (∀ d rest, Picks s.resetReady s.resets d rest → exec .resetComplete s = .next ((s.withoutReset rest).endReset d)) ∧
    (∀ o, s.resetReady (.plot o) = true ↔ s.fenceState o = 2) ∧
    (p < Config.plots → (s.endPlotReset p).fenceState p = 0) ∧
    (s.fieldState t.field = 0 → s.rated t = true → (s.plotOf t).isSome = true → ((s.restartTile t).tile t).power = .active ∧
      ((s.restartTile t).core t).run = .stopped ∧ (∀ i, ((s.restartTile t).core t).get i = 0) ∧
      ∀ q, ((s.restartTile t).queue t q).entries = [] ∧ ((s.restartTile t).queue t q).icnt = 0) ∧
    (s.endWarm.frozen = false ∧ s.endWarm.stage = 6 ∧ s.endWarm.shadow = [] ∧ s.endWarm.flash = s.flash ∧
      ∀ o, o < 64 → s.endWarm.placeState o = 0 ∧ (s.endWarm.plot o).placed = none ∧ (s.endWarm.plot o).pkg = none ∧
        s.endWarm.fenceState o = s.fenceState o) ∧
    (∀ rest, s.Live t → Picks (fun d => decide (d = .tile t)) s.resets (.tile t) rest → s.resetReady (.tile t) = true →
      exec (.tileResetTimeout t) s = .next ((s.withoutReset rest).retireTile t)) ∧
    ((∃ z ∈ s.zeroing, z.1 = p) → ∃ s', exec (.loamZeroing p) s = .next s' ∧ s'.zeroing = s.zeroing.filter (fun z => decide (z.1 ≠ p)) ∧
      (∀ z ∈ s.zeroing, z.1 = p → ∀ k, k < z.2.2.2 → s'.byte (loamAddr (siteOf z.2.1) z.2.2.1 + k) = 0) ∧
      ∀ a, (∀ z ∈ s.zeroing, z.1 = p → a < loamAddr (siteOf z.2.1) z.2.2.1 ∨ loamAddr (siteOf z.2.1) z.2.2.1 + z.2.2.2 ≤ a) →
        s'.byte a = s.byte a)

/-! ### Boot, the freeze and telemetry -/

/-- Power, boot, Topsoil and the afterimage (R445, R446, R449, R454 to R460, R476, R498, R502, R514, R515): the supplies come and go; boot takes
its stages or goes to recovery or halts; Topsoil answers its watchdog and may ask for what the table lets it; a fatal error freezes the
device, which then holds an afterimage until it is released; what the TAP shifts out. -/
def Obligations.BootAndFreeze : Prop :=
  ∀ (s : State), s.Canonical →
    (s.supply.aux = false → ∃ s', exec .powerUp s = .next s' ∧ s'.supply.aux = true ∧ s'.supply.steward = true ∧
      (∀ a, s'.reg a = regReset a) ∧ s'.flash = s.flash) ∧
    (s.supply.aux = true → ∃ s', exec .auxStop s = .next s' ∧ s'.supply.aux = false ∧ s'.pwrOk = false ∧ s'.alertN = true ∧
      s'.flash = s.flash) ∧
    (s.supply.steward = true → ∃ s', exec .stewardSupplyLoss s = .next s' ∧ s'.supply.steward = false ∧ s'.pwrOk = false ∧ SameMemory s s') ∧
    (∀ v : Dword, s.boot.running = false → s.supply.aux = true → s.supply.steward = true → ∃ s', exec (.deviceBoot v) s = .next s' ∧
      s'.boot.running = true ∧ s'.bootMode = Dword.field v 5 4 ∧ s'.myId = Dword.field v 15 8 ∧ s'.fld rClkRef 3 1 = Dword.field v 2 0 ∧
      (s'.service = true ↔ Dword.field v 5 4 = 3) ∧ ∀ f ∈ otherFields, s'.fieldState f = 2) ∧
    (∀ o : BootObs, s.boot.running = true → s.supply.steward = true →
      ((s.stage = 0 ∨ (2 ≤ s.stage ∧ s.stage ≤ 6)) → o.bedrockOk = false → ∃ s', exec (.bootStage o) s = .next s' ∧ s'.stage = 0xF ∧
        s'.alertN = true) ∧
      (s.stage = 0 → o.bedrockOk = true → ∀ n, refFound o.refclkOk o.crystalOk = some n → exec (.bootStage o) s = .next (s.startRef n) ∧
        (s.startRef n).stage = 2 ∧ (n ≤ 2 → (s.startRef n).fld rClkRef 5 4 = n) ∧ (s.startRef n).fld rClkRef 6 6 = 1) ∧
      (s.stage = 0 → o.bedrockOk = true → refFound o.refclkOk o.crystalOk = none → ∃ s', exec (.bootStage o) s = .next s' ∧
        s'.stage = 1 ∧ s'.alertN = true) ∧
      (s.stage = 2 → o.bedrockOk = true → ∃ s', exec (.bootStage o) s = .next s' ∧ s'.stage = 3 ∧ (s'.noIdent = true ↔ o.identOk = false)) ∧
      (s.stage = 3 → o.bedrockOk = true → ∃ s', exec (.bootStage o) s = .next s' ∧ s'.stage = 4 ∧ s'.repair = s.flashRepair) ∧
      (s.stage = 4 → o.bedrockOk = true → o.pathToHost = false → exec (.bootStage o) s = .next s.halt) ∧
      (s.stage = 4 → o.bedrockOk = true → o.pathToHost = true → ∃ s', exec (.bootStage o) s = .next s' ∧ s'.stage = 5) ∧
      (s.stage = 5 → o.bedrockOk = true → s.bootMode = 2 → exec (.bootStage o) s = .next (s.enterRecovery 1)) ∧
      (s.stage = 5 → o.bedrockOk = true → s.bootMode = 0 → ∃ s', exec (.bootStage o) s = .next s' ∧ s'.stage = 6 ∧
        (∀ f ∈ otherFields, f ∉ s.repair.retiredFields → s'.fieldState f = 0) ∧ ∀ a, s'.byte a = 0) ∧
      (s.stage = 6 → o.bedrockOk = true → exec (.bootStage o) s = .next s.bootImage)) ∧
    (leAt (s.slotObject imageSlot 0x3FFE000) 0 4 ≠ 0x4A424F56 → s.bootImage = s.enterRecovery 2) ∧
    (∀ r, r < 256 → (s.enterRecovery r).stage = 9 ∧ (s.enterRecovery r).fld rSecBoot 23 16 = r ∧ (s.enterRecovery r).boot.image = []) ∧
    (s.boot.running = true → s.stage = 1 → ∀ a b,
      (refFound a b = none → exec (.refwaitRetry a b) s = .next s) ∧
      (∀ n, refFound a b = some n → exec (.refwaitRetry a b) s = .next (s.startRef n))) ∧
    (s.boot.running = true → s.stage = 7 →
      (∃ s', exec .topsoilReady s = .next s' ∧ s'.stage = 8 ∧ s'.boot.watchdog = true ∧ s'.boot.answered = s.cycle) ∧
      (s.boot.tries = 0 → exec .topsoilStartTimeout s = .next { s with boot := { s.boot with tries := 1 } }) ∧
      (s.boot.tries ≠ 0 → exec .topsoilStartTimeout s = .next (s.enterRecovery 4))) ∧
    (s.topsoilRuns = true →
      (s.boot.watchdog = true → exec .watchdogAnswer s = .next { s with boot := { s.boot with answered := s.cycle } }) ∧
      exec (.topsoilRequest .sign) s = .next s ∧
      (∀ r ∈ [TopReq.secWrite, .flashWrite, .tableWrite, .safetyWrite, .afterimage, .keys],
        exec (.topsoilRequest r) s = .next s.refuseTopsoil ∧ SameMemory s s.refuseTopsoil ∧ s.refuseTopsoil.sreg = s.sreg ∧
          s.refuseTopsoil.flash = s.flash) ∧
      (∀ p cause, s.plotValid p = true → 1 ≤ cause → cause ≤ 13 →
        exec (.topsoilRequest (.fence p cause)) s = .next (s.fence p cause 0xFFFF)) ∧
      (∀ p, exec (.topsoilRequest (.resetPlot p)) s = .next (if s.plotValid p = true then s.askPlot p else s.refuseTopsoil))) ∧
    (let lost := s.aiDue.isSome = true ∨ s.fld rRasAi 63 63 = 1
     let frozen := fun (s' : State) (cause : Nat) => s'.frozen = true ∧ s'.alertN = true ∧ s'.fld rRasAi 62 62 = 1 ∧
        s'.fld rRasAi 59 56 = cause ∧ s'.aiDue = some s'.cycle ∧ 
        ∀ p, p < 64 → s.plotValid p = true → (s.fenceState p = 0 ∨ (s.plot p).fence.isSome = true) → s'.fenceState p = 2
     (s.frozen = false → ¬ lost →
        (∃ s', exec .aiTrigger s = .next s' ∧ frozen s' 5) ∧
        (∀ c, 1 ≤ c → c ≤ 3 → (c = 3 ∨ 8 ≤ s.stage) → ∃ s', exec (.fatalError c) s = .next s' ∧ frozen s' c) ∧
        (s.boot.watchdog = true → ∃ s', exec .watchdogExpiry s = .next s' ∧ frozen s' 4 ∧ s.boot.answered + second ≤ s'.cycle)) ∧
      (∀ c, 1 ≤ c → c ≤ 2 → s.stage < 8 → exec (.fatalError c) s = .next s.halt) ∧
      (s.frozen = true → lost → exec .aiTrigger s = .next (s.bump rRasAi 55 48 1))) ∧
    (∀ c, s.aiDue = some c → s.frozen = true → ∃ s' x, exec .afterimageSigned s = .next s' ∧ s'.fld rRasAi 63 63 = 1 ∧ s'.ai = some x ∧
      x.cycle = c ∧ x.tiles = s.tiles ∧ x.sites + x.lost = allSites ∧ s'.aiDue = none) ∧
    (∃ s', exec .aiRelease s = .next s' ∧ s'.fld rRasAi 63 63 = 0 ∧ s'.ai = none ∧ SameMemory s s') ∧
    (s.supply.aux = true →
      (exec (.tapAccess .bypass) s = .next { s with out := s.out ++ [.tdo 0] }) ∧
      (s.boot.running = false ∨ s.service = false → exec (.tapAccess .priv) s = .next { s with out := s.out ++ [.tdo 0] }) ∧
      (∀ c ∈ [TapInstr.sample, .preload, .extest, .idcode], ∃ s', exec (.tapAccess c) s = .next s' ∧ s'.sreg = s.sreg ∧ SameMemory s s' ∧
        s'.freeCtr = s.freeCtr + 1))

/-- Telemetry, host ports and registers (R8, R9, R339, R470, R483 to R491, R507, R520 to R528): records reach their rings; datagrams take the oldest
records and number themselves; ALARMs stay until they are acknowledged; links, MACsec and pauses; register writes by the type of each
field; queries that change nothing but their answer. -/
def Obligations.TelemetryPortsAndRegisters : Prop :=
  ∀ (s : State) (t : Site) (a : Nat), s.Canonical →
    (s.Live t →
      (∀ r, (s.ni t).teleAlarm = some r → exec (.telemRecordReceive t) s =
        .next ((s.onNi t (fun n => { n with teleAlarm := none })).onTelem (fun tm => alarmIn tm r))) ∧
      (∀ r rest, (s.ni t).teleAlarm = none → (s.ni t).tele = r :: rest →
        let s1 := s.onNi t (fun n => { n with tele := rest })
        exec (.telemRecordReceive t) s = .next (if r.cls = 1 then s1.eventIn r else s1.traceIn r (s.plotOf t).isNone))) ∧
    (∀ r, s.coalescing = false → s.telem.events.length < 12287 → (s.eventIn r).telem.events =
      s.telem.events ++ [{ r with cls := 1, seq := s.telem.eseq }] ∧ (s.eventIn r).coalescing = false) ∧
    (∀ r, s.coalescing = false → s.telem.events.length = 12287 → (s.eventIn r).coalescing = true) ∧
    (∀ r, s.coalescing = true → s.traceIn r false = s.bump rTelemDrop 63 32 1) ∧
    (s.hasDest = true →
      (let new := s.telem.alarms.filter (fun r => !s.telem.alarmSent.contains r.seq)
       new ≠ [] → s.alarmPorts ≠ [] → ∃ s', exec (.telemDatagramSend 0) s = .next s' ∧ s'.telem.alarms = s.telem.alarms ∧
          s'.telem.dseqA = (s.telem.dseqA + 1) % 2 ^ 32 ∧ ∀ r ∈ new.take s.alarmMax, r.seq ∈ s'.telem.alarmSent) ∧
      (∀ n, s.telemPort = some a → s.linkOn a = true → s.stage = 8 → s.frozen = false → n = s.maxRecords a →
        (s.telem.events ≠ [] → ∃ s', exec (.telemDatagramSend 1) s = .next s' ∧ s'.telem.dseqE = (s.telem.dseqE + 1) % 2 ^ 32 ∧
          s'.out = s.out ++ [.telemetry a 1 s.telem.dseqE (s.telem.events.take n)]) ∧
        (s.telem.events.length < n → s.telem.traces ≠ [] → ∃ s', exec (.telemDatagramSend 2) s = .next s' ∧
          s'.telem.traces = s.telem.traces.drop n ∧ s'.telem.dseqT = (s.telem.dseqT + 1) % 2 ^ 32 ∧
          s'.out = s.out ++ [.telemetry a 2 s.telem.dseqT (s.telem.traces.take n)])) ∧
      (let rs := s.telem.alarms.filter (fun r => s.telem.alarmSent.contains r.seq)
       rs ≠ [] → s.alarmPorts ≠ [] → ∃ s', exec .alarmResend s = .next s' ∧ s'.telem.alarms = s.telem.alarms)) ∧
    (∀ v : Dword,
      let ahead := fun x y : Nat => (x + 2 ^ 32 - y) % 2 ^ 32
      let old := s.fld rTelemAack 31 0
      let new := Dword.field v 31 0
      (2 ^ 31 ≤ ahead new old → exec (.telemAackWrite v) s = .next s) ∧
      (ahead new old < 2 ^ 31 → ∃ s', exec (.telemAackWrite v) s = .next s' ∧ s'.fld rTelemAack 31 0 = new ∧
        ∀ r, r ∈ s'.telem.alarms ↔ r ∈ s.telem.alarms ∧ 2 ^ 31 ≤ ahead new r.seq)) ∧
    (∀ r code, s.telem.sums.find? (fun r => decide (r.code = code)) = some r → s.telem.events.length < 16384 →
      ∃ s', exec (.summaryClose code) s = .next s' ∧ s'.telem.events = s.telem.events ++ [{ r with seq := s.telem.eseq }] ∧
        ∀ x ∈ s'.telem.sums, x.code ≠ r.code) ∧
    (a < 2 →
      let st := rHostPortStat a
      (∀ sw, s.portReady a = true → ∃ s', exec (.hostLinkChange a true sw) s = .next s' ∧ s'.linkOn a = true ∧ s'.fld st 1 1 = 1 ∧
        (s'.hostPort a).swapped = sw ∧ (s'.hostPort a).paused = false ∧ (s'.hostPort a).held = [] ∧
        s'.out = s.out ++ (s.hostPort a).held) ∧
      (∀ sw, ∃ s', exec (.hostLinkChange a false sw) s = .next s' ∧ s'.fld st 2 0 = 0 ∧ s'.out = s.out) ∧
      (s.linkOn a = true → s.hasCak = true → exec (.secureAssociation a true) s = .next (s.setFld st 2 2 1)) ∧
      exec (.secureAssociation a false) s = .next (s.setFld st 2 2 0) ∧
      (s.linkOn a = true →
        (∀ b, s.fld (rHostPortCfg a) 19 19 = 0 → exec (.pfcFrame a b) s = .next (s.bump st 63 32 1)) ∧
        (∀ b, s.fld (rHostPortCfg a) 19 19 = 1 → ∃ s', exec (.pfcFrame a b) s = .next s' ∧ (s'.hostPort a).paused = b ∧
          (b = false → (s'.hostPort a).held = [])) ∧
        (∀ time, exec (.ptpEventMessage a false time) s = .next (s.onHostPort a (fun x => { x with stamp := time })) ∧
          ∃ s', exec (.ptpEventMessage a true time) s = .next s' ∧ (s'.hostPort a).stamp = time ∧ s'.out = s.out ++ [.sync a time]))) ∧
    (∀ v : Dword, ∃ s', exec (.meshCfgWrite v) s = .next s' ∧ s'.fld rMeshCfg 11 0 = max 16 (Dword.field v 11 0)) ∧
    (∀ b, exec (.meshRouterQuery b) s = .next { s with queried := s.routerAnswer b } ∧
      (s.fieldState (8 * (s.fld rMeshRsel 17 9 / 40) + s.fld rMeshRsel 8 0 / 40) = 2 → s.routerAnswer b = 0)) ∧
    exec .routeTableRead s = .next { s with queried := s.tableAnswer } ∧
    (∀ (x : Nat) (v : Dword), exec (.registerWrite x v) s = .next (s.writeReg x v) ∧
      (regRow x = none → s.writeReg x v = s) ∧
      (∀ y ∈ [rTelemCfg, rTelemDest 0, rTelemDest 1, rTelemTrace, rRasScrub, rMeshRsel, rRouteTsel, rHostPortCfg 0, rPlotPlaceCfg 63],
        ∃ r, regRow y = some r ∧ s.writeReg y v = s.setReg y (regStore r (s.reg y) v))) ∧
    (∀ (r : RegRow) (old v : Dword) (i : Nat), i < 64 → (regStore r old v).getLsbD i =
      if r.w1c.testBit i = true ∧ v.getLsbD i = true then false else if r.rw.testBit i = true then v.getLsbD i else old.getLsbD i)
end

