-- ==== Sys2Proof/Laws/Map.lean ====
section
/-!
SUPPORT. That maps stay canonical under the operations of Machine/Map.lean, and what they read after a write.
-/
namespace Sys2Proof.Machine

theorem mapSorted_weaken {α : Type} {lo : Nat} {m : List (Nat × α)} (h : mapSorted (some lo) m = true) :
    mapSorted none m = true := by
  cases m with
  | nil => rfl
  | cons e m => obtain ⟨j, v⟩ := e; simp only [mapSorted, Bool.and_eq_true] at h ⊢; exact h.2

theorem mapSorted_lower {α : Type} {lo lo' : Nat} (hl : lo' ≤ lo) {m : List (Nat × α)} (h : mapSorted (some lo) m = true) :
    mapSorted (some lo') m = true := by
  cases m with
  | nil => rfl
  | cons e m =>
    obtain ⟨j, v⟩ := e; simp only [mapSorted, Bool.and_eq_true, decide_eq_true_eq] at h ⊢; exact ⟨by omega, h.2⟩

theorem mapSorted_put {α : Type} (m : List (Nat × α)) (k : Nat) (v : α) (lo : Option Nat)
    (h : mapSorted lo m = true) (hk : ∀ l, lo = some l → l < k) : mapSorted lo (mapPut m k v) = true := by
  induction m generalizing lo with
  | nil => cases lo <;> simp_all [mapPut, mapSorted]
  | cons e m ih =>
    obtain ⟨j, w⟩ := e
    have hj : mapSorted (some j) m = true := by cases lo <;> simp_all [mapSorted]
    simp only [mapPut]
    split
    · cases lo <;> simp_all [mapSorted]
    split
    · subst_vars; cases lo <;> simp_all [mapSorted]
    · have := ih (some j) hj (by intro l hl; cases hl; omega)
      cases lo <;> simp_all [mapSorted]

theorem mapSorted_del {α : Type} (m : List (Nat × α)) (k : Nat) (lo : Option Nat)
    (h : mapSorted lo m = true) : mapSorted lo (mapDel m k) = true := by
  induction m generalizing lo with
  | nil => simpa [mapDel] using h
  | cons e m ih =>
    obtain ⟨j, w⟩ := e
    have hj : mapSorted (some j) m = true := by cases lo <;> simp_all [mapSorted]
    simp only [mapDel]
    split
    · cases lo with
      | none => exact mapSorted_weaken hj
      | some l =>
        simp only [mapSorted, Bool.and_eq_true, decide_eq_true_eq] at h
        exact mapSorted_lower (by omega) hj
    · have := ih (some j) hj
      cases lo <;> simp_all [mapSorted]

theorem mapSorted_filter {α : Type} (m : List (Nat × α)) (q : Nat × α → Bool) (lo : Option Nat)
    (h : mapSorted lo m = true) : mapSorted lo (m.filter q) = true := by
  induction m generalizing lo with
  | nil => simpa using h
  | cons e m ih =>
    obtain ⟨j, w⟩ := e
    have hj : mapSorted (some j) m = true := by cases lo <;> simp_all [mapSorted]
    by_cases hq : q (j, w) = true
    · simp only [List.filter_cons, hq, if_true]
      have := ih (some j) hj
      cases lo <;> simp_all [mapSorted]
    · simp only [List.filter_cons, hq]
      cases lo with
      | none => exact ih none (mapSorted_weaken hj)
      | some l =>
        simp only [mapSorted, Bool.and_eq_true, decide_eq_true_eq] at h
        exact ih (some l) (mapSorted_lower (by omega) hj)

theorem mapSorted_map {α : Type} (m : List (Nat × α)) (f : α → α) (lo : Option Nat)
    (h : mapSorted lo m = true) : mapSorted lo (m.map (fun e => (e.1, f e.2))) = true := by
  induction m generalizing lo with
  | nil => simpa using h
  | cons e m ih =>
    obtain ⟨j, w⟩ := e
    have hj : mapSorted (some j) m = true := by cases lo <;> simp_all [mapSorted]
    have := ih (some j) hj
    cases lo <;> simp_all [mapSorted]

theorem mem_mapPut {α : Type} {m : List (Nat × α)} {k : Nat} {v : α} {e : Nat × α} (h : e ∈ mapPut m k v) :
    e = (k, v) ∨ e ∈ m := by
  induction m with
  | nil => simp [mapPut] at h; exact .inl h
  | cons a m ih =>
    obtain ⟨j, w⟩ := a
    simp only [mapPut] at h
    split at h
    · simpa using h
    split at h
    · simp at h; rcases h with h | h
      · exact .inl h
      · exact .inr (by simp [h])
    · simp at h; rcases h with h | h
      · exact .inr (by simp [h])
      · rcases ih h with h | h
        · exact .inl h
        · exact .inr (by simp [h])

theorem mem_mapDel {α : Type} {m : List (Nat × α)} {k : Nat} {e : Nat × α} (h : e ∈ mapDel m k) : e ∈ m := by
  induction m with
  | nil => simp [mapDel] at h
  | cons a m ih =>
    obtain ⟨j, w⟩ := a
    simp only [mapDel] at h
    split at h
    · simp [h]
    · simp at h; rcases h with h | h
      · simp [h]
      · simp [ih h]

theorem mapWf_iff {α : Type} [DecidableEq α] {d : Nat → α} {m : List (Nat × α)} :
    mapWf d m = true ↔ mapSorted none m = true ∧ ∀ e ∈ m, e.2 ≠ d e.1 := by
  simp [mapWf, List.all_eq_true]

theorem mapWf_nil {α : Type} [DecidableEq α] (d : Nat → α) : mapWf d [] = true := rfl

/-- Writing a key keeps the canonical form. -/
theorem mapWf_set {α : Type} [DecidableEq α] {d : Nat → α} {m : List (Nat × α)} (k : Nat) (v : α)
    (h : mapWf d m = true) : mapWf d (mapSet d m k v) = true := by
  rw [mapWf_iff] at h ⊢
  unfold mapSet
  split
  · exact ⟨mapSorted_del _ _ _ h.1, fun e he => h.2 e (mem_mapDel he)⟩
  · refine ⟨mapSorted_put _ _ _ _ h.1 (by simp), fun e he => ?_⟩
    rcases mem_mapPut he with rfl | he
    · assumption
    · exact h.2 e he

/-- Dropping entries keeps the canonical form. -/
theorem mapWf_filter {α : Type} [DecidableEq α] {d : Nat → α} {m : List (Nat × α)} (q : Nat × α → Bool)
    (h : mapWf d m = true) : mapWf d (m.filter q) = true := by
  rw [mapWf_iff] at h ⊢
  exact ⟨mapSorted_filter _ _ _ h.1, fun e he => h.2 e ((List.mem_filter.1 he).1)⟩

theorem mapWf_del {α : Type} [DecidableEq α] {d : Nat → α} {m : List (Nat × α)} (k : Nat)
    (h : mapWf d m = true) : mapWf d (mapDel m k) = true := by
  rw [mapWf_iff] at h ⊢
  exact ⟨mapSorted_del _ _ _ h.1, fun e he => h.2 e (mem_mapDel he)⟩

/-- Rewriting every value keeps the canonical form. -/
theorem mapWf_each {α : Type} [DecidableEq α] {d : Nat → α} {m : List (Nat × α)} (f : α → α)
    (h : mapWf d m = true) : mapWf d (mapEach d f m) = true := by
  rw [mapWf_iff] at h ⊢
  refine ⟨mapSorted_filter _ _ _ (mapSorted_map _ _ _ h.1), fun e he => ?_⟩
  simpa using (List.mem_filter.1 he).2

theorem mapGet_put_same {α : Type} (d : Nat → α) (m : List (Nat × α)) (k : Nat) (v : α) :
    mapGet d (mapPut m k v) k = v := by
  induction m with
  | nil => simp [mapPut, mapGet]
  | cons e m ih =>
    obtain ⟨j, w⟩ := e
    simp only [mapPut]
    split
    · simp [mapGet]
    split
    · simp [mapGet]
    · simp [mapGet, *]

theorem mapGet_put_other {α : Type} (d : Nat → α) (m : List (Nat × α)) {k j : Nat} (v : α) (hj : j ≠ k) :
    mapGet d (mapPut m k v) j = mapGet d m j := by
  induction m with
  | nil => simp [mapPut, mapGet, hj]
  | cons e m ih =>
    obtain ⟨i, w⟩ := e
    simp only [mapPut]
    split
    · simp [mapGet, hj]
    split
    · subst_vars; simp [mapGet, hj]
    · simp [mapGet, ih]

theorem mapGet_del_other {α : Type} (d : Nat → α) (m : List (Nat × α)) {k j : Nat} (hj : j ≠ k) :
    mapGet d (mapDel m k) j = mapGet d m j := by
  induction m with
  | nil => rfl
  | cons e m ih =>
    obtain ⟨i, w⟩ := e
    simp only [mapDel]
    split
    · subst_vars; simp [mapGet, hj]
    · simp [mapGet, ih]

theorem mapGet_of_lt {α : Type} (d : Nat → α) (m : List (Nat × α)) {k : Nat} (h : mapSorted (some k) m = true) :
    mapGet d m k = d k := by
  induction m with
  | nil => rfl
  | cons e m ih =>
    obtain ⟨i, w⟩ := e
    simp only [mapSorted, Bool.and_eq_true, decide_eq_true_eq] at h
    have : k ≠ i := by omega
    simp [mapGet, this, ih (mapSorted_lower (by omega) h.2)]

theorem mapGet_del_same {α : Type} (d : Nat → α) (m : List (Nat × α)) (k : Nat) (h : mapSorted none m = true) :
    mapGet d (mapDel m k) k = d k := by
  induction m with
  | nil => rfl
  | cons e m ih =>
    obtain ⟨i, w⟩ := e
    simp only [mapSorted] at h
    simp only [mapDel]
    split
    · subst_vars; exact mapGet_of_lt d m h
    · simp [mapGet, *, ih (mapSorted_weaken h)]

/-- A key reads what was written to it. -/
theorem mapGet_set_same {α : Type} [DecidableEq α] {d : Nat → α} {m : List (Nat × α)} (k : Nat) (v : α)
    (h : mapWf d m = true) : mapGet d (mapSet d m k v) k = v := by
  unfold mapSet
  split
  · subst_vars; exact mapGet_del_same d m k (mapWf_iff.1 h).1
  · exact mapGet_put_same d m k v

/-- A write leaves every other key alone. -/
theorem mapGet_set_other {α : Type} [DecidableEq α] {d : Nat → α} {m : List (Nat × α)} {k j : Nat} (v : α)
    (hj : j ≠ k) : mapGet d (mapSet d m k v) j = mapGet d m j := by
  unfold mapSet
  split
  · exact mapGet_del_other d m hj
  · exact mapGet_put_other d m v hj

end Sys2Proof.Machine
end

