-- ==== Sys2Proof/Laws/Keeps.lean ====
section
/-!
SUPPORT. What every meaning leaves as it found it, over the shapes in which operations answer a state, with the lemmas that
carry it through lets, matches, folds and record updates.
-/
namespace Sys2Proof.Machine

variable {p : List Instr}

def fstKeeps {α : Type} (p : List Instr) (e : State × α) : Prop := e.1.Keeps p
def sndKeeps {α : Type} (p : List Instr) (e : α × State) : Prop := e.2.Keeps p
def midKeeps {α β : Type} (p : List Instr) (e : α × State × β) : Prop := e.2.1.Keeps p
def optKeeps (p : List Instr) (o : Option State) : Prop := ∀ u, o = some u → u.Keeps p
def optFst {α : Type} (p : List Instr) (o : Option (State × α)) : Prop := ∀ e, o = some e → e.1.Keeps p
def optSnd {α : Type} (p : List Instr) (o : Option (α × State)) : Prop := ∀ e, o = some e → e.2.Keeps p
def exSnd {ε α : Type} (p : List Instr) (o : Except ε (α × State)) : Prop := ∀ e, o = .ok e → e.2.Keeps p
def effKeeps (p : List Instr) : Eff → Prop
  | .ok s => s.Keeps p
  | .trap _ _ s => s.Keeps p
  | .wait => True

/-- An update of fields that the invariant does not name. -/
theorem keeps_upd_iff {s : State} {x0 : Nat} {x1 : Nat} {x2 : Repair} {x3 : Repair} {x4 : TableBasis}
    {x5 : List (Nat × Nat)} {x6 : List Nat} {x7 : List Nat} {x8 : Bool} {x9 : List (Nat × Extent)} {x10 : List Rdma}
    {x11 : List HostOut} {x12 : Nat} {x13 : Dword} {x14 : List (Nat × ShadowSet)} {x15 : List (Site × SvcNote)}
    {x16 : Casc} {x17 : List (Nat × MuxRt)} {x18 : Supply} {x19 : RefMon} {x20 : Nat} {x21 : List Domain}
    {x22 : List (Nat × Nat × Nat × Nat)} {x23 : Scan} {x24 : Boot} {x25 : Option AiSnap} {x26 : Option Nat}
    {x27 : Bool} {x28 : Telem} {x29 : Bool} {x30 : Bool} {x31 : Bool} {x32 : Bool} :
    State.Keeps p { s with cycle := x0, freeCtr := x1, repair := x2, flashRepair := x3, tables := x4, failedLinks := x5, retiring := x6, retiringFields := x7,
                            tablesDue := x8, aiMoved := x9, rdma := x10, out := x11, cnpRate := x12, queried := x13, shadow := x14, svc := x15,
                            casc := x16, muxes := x17, supply := x18, refmon := x19, spread := x20, resets := x21, zeroing := x22, scan := x23,
                            boot := x24, ai := x25, aiDue := x26, frozen := x27, telem := x28, pwrOk := x29, alertN := x30, clkOut := x31,
                            resetN := x32 } ↔ s.Keeps p :=
  ⟨fun h => ⟨h.queue, ⟨h.canon.mem, h.canon.flash, h.canon.sreg, h.canon.tiles, h.canon.routers, h.canon.plots, h.canon.hostQ,
    h.canon.hostPorts, h.canon.optPorts, h.canon.facets, h.canon.fields, h.canon.prism⟩⟩,
  fun h => ⟨h.queue, ⟨h.canon.mem, h.canon.flash, h.canon.sreg, h.canon.tiles, h.canon.routers, h.canon.plots, h.canon.hostQ,
    h.canon.hostPorts, h.canon.optPorts, h.canon.facets, h.canon.fields, h.canon.prism⟩⟩⟩

theorem keeps_mem {s : State} {m : List Host.Cell} (h : s.Keeps p) (hm : Memory.wf m) : State.Keeps p { s with mem := m } :=
  ⟨h.queue, { h.canon with mem := hm }⟩
theorem keeps_flash {s : State} {m : List Host.Cell} (h : s.Keeps p) (hm : mapWf flashDefault m = true) :
    State.Keeps p { s with flash := m } := ⟨h.queue, { h.canon with flash := hm }⟩
theorem keeps_sreg {s : State} {m : List (Nat × Dword)} (h : s.Keeps p) (hm : mapWf regReset m = true) :
    State.Keeps p { s with sreg := m } := ⟨h.queue, { h.canon with sreg := hm }⟩
theorem keeps_tiles {s : State} {m : List (Nat × Tile)} (h : s.Keeps p) (hm : mapWf (fun _ => Tile.reset) m = true) :
    State.Keeps p { s with tiles := m } := ⟨h.queue, { h.canon with tiles := hm }⟩
theorem keeps_routers {s : State} {m : List (Nat × Router)} (h : s.Keeps p) (hm : mapWf (fun _ => Router.empty) m = true) :
    State.Keeps p { s with routers := m } := ⟨h.queue, { h.canon with routers := hm }⟩
theorem keeps_plots {s : State} {m : List (Nat × PlotSt)} (h : s.Keeps p) (hm : mapWf (fun _ => PlotSt.reset) m = true) :
    State.Keeps p { s with plots := m } := ⟨h.queue, { h.canon with plots := hm }⟩
theorem keeps_hostQ {s : State} {m : List (Nat × HostQueue)} (h : s.Keeps p) (hm : mapWf (fun _ => HostQueue.reset) m = true) :
    State.Keeps p { s with hostQ := m } := ⟨h.queue, { h.canon with hostQ := hm }⟩
theorem keeps_hostPorts {s : State} {m : List (Nat × HostPort)} (h : s.Keeps p)
    (hm : mapWf (fun _ => HostPort.reset) m = true) : State.Keeps p { s with hostPorts := m } :=
  ⟨h.queue, { h.canon with hostPorts := hm }⟩
theorem keeps_optPorts {s : State} {m : List (Nat × OptPort)} (h : s.Keeps p) (hm : mapWf (fun _ => OptPort.reset) m = true) :
    State.Keeps p { s with optPorts := m } := ⟨h.queue, { h.canon with optPorts := hm }⟩
theorem keeps_facets {s : State} {m : List (Nat × FacetRt)} (h : s.Keeps p) (hm : mapWf (fun _ => FacetRt.reset) m = true) :
    State.Keeps p { s with facets := m } := ⟨h.queue, { h.canon with facets := hm }⟩
theorem keeps_fields {s : State} {m : List (Nat × FieldRt)} (h : s.Keeps p) (hm : mapWf (fun _ => FieldRt.reset) m = true) :
    State.Keeps p { s with fields := m } := ⟨h.queue, { h.canon with fields := hm }⟩
theorem keeps_prism {s : State} {m : List (Nat × Nat)} (h : s.Keeps p) (hm : mapWf (fun _ => 0) m = true) :
    State.Keeps p { s with prism := m } := ⟨h.queue, { h.canon with prism := hm }⟩

theorem keeps_mem_filter {s : State} {q : Host.Cell → Bool} (h : s.Keeps p) : State.Keeps p { s with mem := s.mem.filter q } :=
  keeps_mem h (mapWf_filter q h.canon.mem)
theorem keeps_prism_filter {s : State} {q : Nat × Nat → Bool} (h : s.Keeps p) :
    State.Keeps p { s with prism := s.prism.filter q } := keeps_prism h (mapWf_filter q h.canon.prism)
theorem keeps_prism_set {s : State} {k v : Nat} (h : s.Keeps p) :
    State.Keeps p { s with prism := mapSet (fun _ => 0) s.prism k v } := keeps_prism h (mapWf_set k v h.canon.prism)
theorem keeps_mem_pwr {s : State} {q : Host.Cell → Bool} {b : Bool} (h : s.Keeps p) :
    State.Keeps p { s with mem := s.mem.filter q, pwrOk := b } :=
  ⟨h.queue, { h.canon with mem := mapWf_filter q h.canon.mem }⟩
theorem keeps_dark {s : State} {q : Host.Cell → Bool} {q1 : Nat × Tile → Bool} {q2 : Nat × Router → Bool} {b : Bool}
    (h : s.Keeps p) : State.Keeps p { s with tiles := s.tiles.filter q1, routers := s.routers.filter q2,
                                             mem := s.mem.filter q, tablesDue := b } :=
  ⟨h.queue, { h.canon with
    mem := mapWf_filter q h.canon.mem, tiles := mapWf_filter q1 h.canon.tiles, routers := mapWf_filter q2 h.canon.routers }⟩
theorem keeps_empty {s : State} (h : s.Keeps p) : State.Keeps p { s with tiles := [], mem := [] } :=
  ⟨h.queue, { h.canon with mem := rfl, tiles := rfl }⟩

/-! ### Shapes -/

theorem keeps_fst {α : Type} {e : State × α} {u : State} {a : α} (h : e = (u, a)) (k : fstKeeps p e) : u.Keeps p := by
  subst h; exact k
theorem keeps_snd {α : Type} {e : α × State} {u : State} {a : α} (h : e = (a, u)) (k : sndKeeps p e) : u.Keeps p := by
  subst h; exact k
theorem keeps_mid {α β : Type} {e : α × State × β} {u : State} {a : α} {b : β} (h : e = (a, u, b)) (k : midKeeps p e) :
    u.Keeps p := by subst h; exact k
theorem keeps_opt {o : Option State} {u : State} (h : o = some u) (k : optKeeps p o) : u.Keeps p := k u h
theorem keeps_optFst {α : Type} {o : Option (State × α)} {u : State} {a : α} (h : o = some (u, a)) (k : optFst p o) :
    u.Keeps p := k _ h
theorem keeps_optSnd {α : Type} {o : Option (α × State)} {u : State} {a : α} (h : o = some (a, u)) (k : optSnd p o) :
    u.Keeps p := k _ h
theorem keeps_proj1 {α : Type} {e : State × α} (k : fstKeeps p e) : e.1.Keeps p := k
theorem keeps_proj2 {α : Type} {e : α × State} (k : sndKeeps p e) : e.2.Keeps p := k
theorem keeps_proj21 {α β : Type} {e : α × State × β} (k : midKeeps p e) : e.2.1.Keeps p := k
theorem fstKeeps_mk {α : Type} {u : State} {a : α} (h : u.Keeps p) : fstKeeps p (u, a) := h
theorem sndKeeps_mk {α : Type} {u : State} {a : α} (h : u.Keeps p) : sndKeeps p (a, u) := h
theorem midKeeps_mk {α β : Type} {u : State} {a : α} {b : β} (h : u.Keeps p) : midKeeps p (a, u, b) := h
theorem optKeeps_none : optKeeps p none := fun _ h => nomatch h
theorem optKeeps_some {u : State} (h : u.Keeps p) : optKeeps p (some u) := fun _ e => Option.some.inj e ▸ h
theorem optFst_none {α : Type} : optFst (α := α) p none := fun _ h => nomatch h
theorem optFst_some {α : Type} {e : State × α} (h : fstKeeps p e) : optFst p (some e) := fun _ q => Option.some.inj q ▸ h
theorem optSnd_none {α : Type} : optSnd (α := α) p none := fun _ h => nomatch h
theorem optSnd_some {α : Type} {e : α × State} (h : sndKeeps p e) : optSnd p (some e) := fun _ q => Option.some.inj q ▸ h
theorem keeps_optFst' {α : Type} {o : Option (State × α)} {e : State × α} (h : o = some e) (k : optFst p o) :
    e.1.Keeps p := k _ h
theorem keeps_optSnd' {α : Type} {o : Option (α × State)} {e : α × State} (h : o = some e) (k : optSnd p o) :
    e.2.Keeps p := k _ h
theorem optKeeps_map {β : Type} {o : Option β} {f : β → State} (k : ∀ b, (f b).Keeps p) : optKeeps p (o.map f) := by
  intro e he; cases o with
  | none => cases he
  | some b => cases he; exact k b
theorem optFst_map {α β : Type} {o : Option β} {f : β → State × α} (k : ∀ b, (f b).1.Keeps p) : optFst p (o.map f) := by
  intro e he; cases o with
  | none => cases he
  | some b => cases he; exact k b
theorem optSnd_map {α β : Type} {o : Option β} {f : β → α × State} (k : ∀ b, (f b).2.Keeps p) : optSnd p (o.map f) := by
  intro e he; cases o with
  | none => cases he
  | some b => cases he; exact k b
theorem optSnd_mapSnd {α β : Type} {o : Option (α × State)} {f : α × State → β × State} (h : optSnd p o)
    (k : ∀ e, e.2.Keeps p → (f e).2.Keeps p) : optSnd p (o.map f) := by
  intro e he; cases ho : o with
  | none => rw [ho] at he; cases he
  | some b => rw [ho] at he; cases he; exact k b (h b ho)
theorem optFst_mapSnd {α β : Type} {o : Option (α × State)} {f : α × State → State × β} (h : optSnd p o)
    (k : ∀ e, e.2.Keeps p → (f e).1.Keeps p) : optFst p (o.map f) := by
  intro e he; cases ho : o with
  | none => rw [ho] at he; cases he
  | some b => rw [ho] at he; cases he; exact k b (h b ho)
theorem optFst_bindSnd {α β : Type} {o : Option (α × State)} {f : α × State → Option (State × β)} (h : optSnd p o)
    (k : ∀ e, e.2.Keeps p → optFst p (f e)) : optFst p (o.bind f) := by
  intro e he; cases ho : o with
  | none => rw [ho] at he; cases he
  | some b => rw [ho] at he; exact k b (h b ho) e he
theorem keeps_exSnd {ε α : Type} {o : Except ε (α × State)} {u : State} {a : α} (h : o = .ok (a, u)) (k : exSnd p o) :
    u.Keeps p := k _ h
theorem outKeeps_next {u : State} (h : u.Keeps p) : outKeeps p (.next u) := h
theorem outKeeps_fault {r : Fault} : outKeeps p (.fault r) := True.intro
theorem outKeeps_refused {r : Refusal} : outKeeps p (.refused r) := True.intro
theorem effKeeps_ok {u : State} (h : u.Keeps p) : effKeeps p (.ok u) := h
theorem effKeeps_trap {u : State} {c : Nat} {v : Word} (h : u.Keeps p) : effKeeps p (.trap c v u) := h
theorem effKeeps_wait : effKeeps p .wait := True.intro

/-! ### Binding, choice, folds -/

theorem keeps_cut {G : Prop} (u : State) (h : u.Keeps p) (k : u.Keeps p → G) : G := k h
theorem keeps_foldl {α : Type} {f : State → α → State} {s : State} {l : List α} (h : s.Keeps p)
    (k : ∀ u a, u.Keeps p → (f u a).Keeps p) : (l.foldl f s).Keeps p := by
  induction l generalizing s with
  | nil => exact h
  | cons a l ih => exact ih (k s a h)
theorem fstKeeps_foldl {α β : Type} {f : State × β → α → State × β} {e : State × β} {l : List α} (h : fstKeeps p e)
    (k : ∀ u a, fstKeeps p u → fstKeeps p (f u a)) : fstKeeps p (l.foldl f e) := by
  induction l generalizing e with
  | nil => exact h
  | cons a l ih => exact ih (k e a h)
theorem sndKeeps_foldl {α β : Type} {f : β × State → α → β × State} {e : β × State} {l : List α} (h : sndKeeps p e)
    (k : ∀ u a, sndKeeps p u → sndKeeps p (f u a)) : sndKeeps p (l.foldl f e) := by
  induction l generalizing e with
  | nil => exact h
  | cons a l ih => exact ih (k e a h)
theorem keeps_foldl_fst {α β : Type} {f : State × β → α → State × β} {e : State × β} {l : List α} (h : e.1.Keeps p)
    (k : ∀ u a, u.1.Keeps p → (f u a).1.Keeps p) : (l.foldl f e).1.Keeps p := fstKeeps_foldl h k
theorem keeps_foldl_snd {α β : Type} {f : β × State → α → β × State} {e : β × State} {l : List α} (h : e.2.Keeps p)
    (k : ∀ u a, u.2.Keeps p → (f u a).2.Keeps p) : (l.foldl f e).2.Keeps p := sndKeeps_foldl h k
theorem keeps_ite {c : Prop} [Decidable c] {a b : State} (h : a.Keeps p) (k : b.Keeps p) : (if c then a else b).Keeps p := by
  split <;> assumption
theorem optFst_ite {α : Type} {c : Prop} [Decidable c] {a b : Option (State × α)} (h : optFst p a) (k : optFst p b) :
    optFst p (if c then a else b) := by split <;> assumption
theorem outKeeps_when {g : Bool} {name : String} {u : State} (h : u.Keeps p) : outKeeps p (when_ name g u) := by
  unfold when_; split
  · exact h
  · trivial
theorem outKeeps_whenSome {α : Type} {name : String} {o : Option α} {f : α → Out} (h : ∀ a, o = some a → outKeeps p (f a)) :
    outKeeps p (whenSome name o f) := by
  unfold whenSome; split
  · exact h _ rfl
  · trivial
theorem outKeeps_onUnit {ok : Bool} {k : Out} (h : outKeeps p k) : outKeeps p (onUnit ok k) := by
  unfold onUnit; split
  · exact h
  · trivial
theorem outKeeps_onTile {t : Site} {s : State} {k : Out} (h : outKeeps p k) : outKeeps p (onTile t s k) := by
  unfold onTile; split
  · trivial
  split
  · trivial
  · exact h
theorem outKeeps_onSite {t : Site} {s : State} {k : Out} (h : outKeeps p k) : outKeeps p (onSite t s k) := by
  unfold onSite; split
  · trivial
  split
  · trivial
  · exact h

end Sys2Proof.Machine
end

