-- ==== Sys2Proof/Laws/KeepsCore.lean ====
section
/-!
SUPPORT. That every operation of the registers, the shared operations, the tile store and the control core keeps the invariant of Sys2Proof/Safety.lean and the
commands that wait: one lemma per operation, named after it.
-/
set_option linter.unusedSimpArgs false
set_option linter.tactic.unusedName false
set_option linter.unusedVariables false
namespace Sys2Proof.Machine

/-! ### Regs -/

theorem State.setReg_keeps {p : List Instr} {s : State} {a : Nat} {v : Dword} (h : s.Keeps p) : (s.setReg a v).Keeps p :=
  keeps_sreg h (mapWf_set a v h.canon.sreg)

theorem State.setFld_keeps {pnd : List Instr} {s : State} {a hi lo v : Nat} (hk : s.Keeps pnd) :
    (State.setFld s a hi lo v).Keeps pnd := by
  unfold State.setFld
  repeat' first
    | with_reducible assumption
    | with_reducible apply State.setReg_keeps

theorem State.bump_keeps {pnd : List Instr} {s : State} {a hi lo n : Nat} (hk : s.Keeps pnd) :
    (State.bump s a hi lo n).Keeps pnd := by
  unfold State.bump
  repeat' first
    | with_reducible assumption
    | with_reducible apply State.setFld_keeps

theorem State.count_keeps {pnd : List Instr} {s : State} {a hi lo n : Nat} (hk : s.Keeps pnd) :
    (State.count s a hi lo n).Keeps pnd := by
  unfold State.count
  repeat' first
    | with_reducible assumption
    | with_reducible apply State.setFld_keeps

/-! ### Ops -/

theorem when__keeps {pnd : List Instr} {name : String} {g : Bool} {t : State} (hk : t.Keeps pnd) :
    outKeeps pnd (when_ name g t) := by
  unfold when_
  repeat' first
    | with_reducible assumption
    | with_reducible apply outKeeps_next
    | with_reducible apply outKeeps_refused
    | split

theorem State.setTile_keeps {p : List Instr} {s : State} {t : Site} {v : Tile} (h : s.Keeps p) : (s.setTile t v).Keeps p :=
  keeps_tiles h (mapWf_set _ v h.canon.tiles)

theorem State.onTile_keeps {pnd : List Instr} {s : State} {t : Site} {f : Tile → Tile} (hk : s.Keeps pnd) :
    (State.onTile s t f).Keeps pnd := by
  unfold State.onTile
  repeat' first
    | with_reducible assumption
    | with_reducible apply State.setTile_keeps

theorem State.onCore_keeps {pnd : List Instr} {s : State} {t : Site} {f : Core → Core} (hk : s.Keeps pnd) :
    (State.onCore s t f).Keeps pnd := by
  unfold State.onCore
  repeat' first
    | with_reducible assumption
    | with_reducible apply State.onTile_keeps

theorem State.onNi_keeps {pnd : List Instr} {s : State} {t : Site} {f : Ni → Ni} (hk : s.Keeps pnd) :
    (State.onNi s t f).Keeps pnd := by
  unfold State.onNi
  repeat' first
    | with_reducible assumption
    | with_reducible apply State.onTile_keeps

theorem State.onQueue_keeps {pnd : List Instr} {s : State} {t : Site} {q : Nat} {f : Queue → Queue} (hk : s.Keeps pnd) :
    (State.onQueue s t q f).Keeps pnd := by
  unfold State.onQueue
  repeat' first
    | with_reducible assumption
    | with_reducible apply State.onTile_keeps

theorem State.setRouter_keeps {p : List Instr} {s : State} {t : Site} {v : Router} (h : s.Keeps p) :
    (s.setRouter t v).Keeps p := keeps_routers h (mapWf_set _ v h.canon.routers)

theorem State.onRouter_keeps {pnd : List Instr} {s : State} {t : Site} {f : Router → Router} (hk : s.Keeps pnd) :
    (State.onRouter s t f).Keeps pnd := by
  unfold State.onRouter
  repeat' first
    | with_reducible assumption
    | with_reducible apply State.setRouter_keeps

theorem State.setPlot_keeps {p : List Instr} {s : State} {k : Nat} {v : PlotSt} (h : s.Keeps p) : (s.setPlot k v).Keeps p :=
  keeps_plots h (mapWf_set k v h.canon.plots)

theorem State.onPlot_keeps {pnd : List Instr} {s : State} {p : Nat} {f : PlotSt → PlotSt} (hk : s.Keeps pnd) :
    (State.onPlot s p f).Keeps pnd := by
  unfold State.onPlot
  repeat' first
    | with_reducible assumption
    | with_reducible apply State.setPlot_keeps

theorem State.setHostq_keeps {p : List Instr} {s : State} {q : Nat} {v : HostQueue} (h : s.Keeps p) :
    (s.setHostq q v).Keeps p := keeps_hostQ h (mapWf_set q v h.canon.hostQ)

theorem State.onHostq_keeps {pnd : List Instr} {s : State} {q : Nat} {f : HostQueue → HostQueue} (hk : s.Keeps pnd) :
    (State.onHostq s q f).Keeps pnd := by
  unfold State.onHostq
  repeat' first
    | with_reducible assumption
    | with_reducible apply State.setHostq_keeps

theorem State.onHostPort_keeps {p : List Instr} {s : State} {a : Nat} {f : HostPort → HostPort} (h : s.Keeps p) :
    (s.onHostPort a f).Keeps p := keeps_hostPorts h (mapWf_set a _ h.canon.hostPorts)

theorem State.onOpt_keeps {p : List Instr} {s : State} {o : Nat} {f : OptPort → OptPort} (h : s.Keeps p) :
    (s.onOpt o f).Keeps p := keeps_optPorts h (mapWf_set o _ h.canon.optPorts)

theorem State.onFacet_keeps {p : List Instr} {s : State} {f : Nat} {g : FacetRt → FacetRt} (h : s.Keeps p) :
    (s.onFacet f g).Keeps p := keeps_facets h (mapWf_set f _ h.canon.facets)

theorem State.onField_keeps {p : List Instr} {s : State} {f : Nat} {g : FieldRt → FieldRt} (h : s.Keeps p) :
    (s.onField f g).Keeps p := keeps_fields h (mapWf_set f _ h.canon.fields)

theorem State.setCreg_keeps {pnd : List Instr} {s : State} {t : Site} {a : Nat} {v : Dword} (hk : s.Keeps pnd) :
    (State.setCreg s t a v).Keeps pnd := by
  unfold State.setCreg
  repeat' first
    | with_reducible assumption
    | with_reducible apply State.onTile_keeps

theorem State.setCfld_keeps {pnd : List Instr} {s : State} {t : Site} {a hi lo v : Nat} (hk : s.Keeps pnd) :
    (State.setCfld s t a hi lo v).Keeps pnd := by
  unfold State.setCfld
  repeat' first
    | with_reducible assumption
    | with_reducible apply State.setCreg_keeps

theorem State.cbump_keeps {pnd : List Instr} {s : State} {t : Site} {a hi lo : Nat} (hk : s.Keeps pnd) :
    (State.cbump s t a hi lo).Keeps pnd := by
  unfold State.cbump
  repeat' first
    | with_reducible assumption
    | with_reducible apply State.setCfld_keeps

theorem State.takeFree_keeps {pnd : List Instr} {s : State} (hk : s.Keeps pnd) : sndKeeps pnd (State.takeFree s) := by
  unfold State.takeFree
  repeat' first
    | with_reducible assumption
    | with_reducible apply sndKeeps_mk
    | simp only [keeps_upd_iff]

theorem State.takeFree_keeps' {pnd : List Instr} {s : State} (hk : s.Keeps pnd) :
    (State.takeFree s).2.Keeps pnd := State.takeFree_keeps hk

theorem State.setByte_keeps {p : List Instr} {s : State} {a : Nat} {b : Byte} (h : s.Keeps p) : (s.setByte a b).Keeps p :=
  keeps_mem h (mapWf_set a b h.canon.mem)

theorem State.setBytes_keeps {p : List Instr} {s : State} {a : Nat} {bs : List Byte} (h : s.Keeps p) :
    (s.setBytes a bs).Keeps p := by
  induction bs generalizing s a with
  | nil => exact h
  | cons b bs ih => exact ih (State.setByte_keeps h)

theorem State.setFlash_keeps {p : List Instr} {s : State} {a : Nat} {bs : List Byte} (h : s.Keeps p) :
    (s.setFlash a bs).Keeps p := by
  induction bs generalizing s a with
  | nil => exact h
  | cons b bs ih => exact ih (keeps_flash h (mapWf_set a b h.canon.flash))

theorem State.onTelem_keeps {pnd : List Instr} {s : State} {f : Telem → Telem} (hk : s.Keeps pnd) :
    (State.onTelem s f).Keeps pnd := by
  unfold State.onTelem
  repeat' first
    | with_reducible assumption
    | simp only [keeps_upd_iff]

theorem State.eventIn_keeps {pnd : List Instr} {s : State} {r : TRec} (hk : s.Keeps pnd) : (State.eventIn s r).Keeps pnd := by
  unfold State.eventIn
  repeat' first
    | with_reducible assumption
    | with_reducible apply State.bump_keeps
    | with_reducible apply State.onTelem_keeps
    | with_reducible apply State.setFld_keeps
    | with_reducible apply keeps_ite

theorem State.traceIn_keeps {pnd : List Instr} {s : State} {r : TRec} {outside : Bool} (hk : s.Keeps pnd) :
    (State.traceIn s r outside).Keeps pnd := by
  unfold State.traceIn
  repeat' first
    | with_reducible assumption
    | with_reducible apply State.bump_keeps
    | with_reducible apply State.onTelem_keeps
    | with_reducible apply keeps_ite

theorem State.alarm_keeps {pnd : List Instr} {s : State} {code : Nat} {source : Word} {arg : Nat} (hk : s.Keeps pnd) :
    (State.alarm s code source arg).Keeps pnd := by
  unfold State.alarm
  repeat' first
    | with_reducible assumption
    | with_reducible apply State.onTelem_keeps

theorem State.event_keeps {pnd : List Instr} {s : State} {code : Nat} {source : Word} {arg : Nat} (hk : s.Keeps pnd) :
    (State.event s code source arg).Keeps pnd := by
  unfold State.event
  repeat' first
    | with_reducible assumption
    | with_reducible apply State.eventIn_keeps
    | with_reducible apply keeps_ite

theorem State.trace_keeps {pnd : List Instr} {s : State} {bit code : Nat} {source : Word} {arg : Nat} (hk : s.Keeps pnd) :
    (State.trace s bit code source arg).Keeps pnd := by
  unfold State.trace
  repeat' first
    | with_reducible assumption
    | with_reducible apply State.traceIn_keeps
    | with_reducible apply keeps_ite

theorem State.tileEvent_keeps {pnd : List Instr} {s : State} {t : Site} {code arg : Nat} (hk : s.Keeps pnd) :
    (State.tileEvent s t code arg).Keeps pnd := by
  unfold State.tileEvent
  repeat' first
    | with_reducible assumption
    | with_reducible apply State.onNi_keeps
    | with_reducible apply keeps_ite

theorem State.tileTrace_keeps {pnd : List Instr} {s : State} {t : Site} {bit code arg : Nat} (hk : s.Keeps pnd) :
    (State.tileTrace s t bit code arg).Keeps pnd := by
  unfold State.tileTrace
  repeat' first
    | with_reducible assumption
    | with_reducible apply State.onNi_keeps
    | with_reducible apply keeps_ite

theorem State.tileAlarm_keeps {pnd : List Instr} {s : State} {t : Site} {code arg : Nat} (hk : s.Keeps pnd) :
    (State.tileAlarm s t code arg).Keeps pnd := by
  unfold State.tileAlarm
  repeat' first
    | with_reducible assumption
    | with_reducible apply State.onNi_keeps

theorem State.atEdge_keeps {pnd : List Instr} {s : State} {c : Nat} (hk : s.Keeps pnd) : (State.atEdge s c).Keeps pnd := by
  unfold State.atEdge
  repeat' first
    | with_reducible assumption
    | simp only [keeps_upd_iff]

theorem State.report_keeps {pnd : List Instr} {s : State} {t : Site} {n : SvcNote} (hk : s.Keeps pnd) :
    (State.report s t n).Keeps pnd := by
  unfold State.report
  repeat' first
    | with_reducible assumption
    | simp only [keeps_upd_iff]

/-! ### Plots -/

theorem State.dropStore_keeps {p : List Instr} {s : State} {t : Site} (h : s.Keeps p) : (s.dropStore t).Keeps p :=
  keeps_mem h (mapWf_filter _ h.canon.mem)

theorem State.darken_keeps {pnd : List Instr} {s : State} {t : Site} (hk : s.Keeps pnd) : (State.darken s t).Keeps pnd := by
  unfold State.darken
  repeat' first
    | with_reducible assumption
    | with_reducible apply State.dropStore_keeps
    | with_reducible apply State.setTile_keeps

theorem State.resetTile_keeps {p : List Instr} {s : State} {t : Site} (h : s.Keeps p) : (s.resetTile t).Keeps p :=
  State.setTile_keeps (State.dropStore_keeps (keeps_tiles h (mapWf_each _ h.canon.tiles)))

theorem State.startBackfill_keeps {pnd : List Instr} {s : State} {t : Site} (hk : s.Keeps pnd) :
    (State.startBackfill s t).Keeps pnd := by
  unfold State.startBackfill
  repeat' first
    | with_reducible assumption
    | with_reducible apply State.onTile_keeps
    | with_reducible apply State.takeFree_keeps'
    | with_reducible apply keeps_ite
    | (extract_lets +onlyGivenNames v; clear_value v)
    | simp only [keeps_upd_iff]
    | split

/-! ### Mirror -/

theorem State.niSend_keeps {pnd : List Instr} {s : State} {t : Site} {g : Grain} (hk : s.Keeps pnd) :
    (State.niSend s t g).Keeps pnd := by
  unfold State.niSend
  repeat' first
    | with_reducible assumption
    | with_reducible apply State.onNi_keeps

theorem State.mirrorPoint_keeps {pnd : List Instr} {s : State} {t : Site} {kind : Nat} {bs : List Byte} (hk : s.Keeps pnd) :
    (State.mirrorPoint s t kind bs).Keeps pnd := by
  unfold State.mirrorPoint
  repeat' first
    | with_reducible assumption
    | with_reducible apply State.niSend_keeps
    | with_reducible apply State.onNi_keeps
    | with_reducible apply keeps_ite

/-! ### Store -/

theorem State.onInfo_keeps {pnd : List Instr} {s : State} {t : Site} {f : Meta → Meta} (hk : s.Keeps pnd) :
    (State.onInfo s t f).Keeps pnd := by
  unfold State.onInfo
  repeat' first
    | with_reducible assumption
    | with_reducible apply State.onTile_keeps

theorem State.eccEvent_keeps {pnd : List Instr} {s : State} {t : Site} {ue : Bool} {bank prow word : Nat} {synd : Nat} (hk :
    s.Keeps pnd) :
    (State.eccEvent s t ue bank prow word synd).Keeps pnd := by
  unfold State.eccEvent
  repeat' first
    | with_reducible assumption
    | with_reducible apply State.cbump_keeps
    | with_reducible apply State.setCfld_keeps
    | with_reducible apply State.setCreg_keeps
    | with_reducible apply keeps_ite

theorem State.spareRow_keeps {pnd : List Instr} {s : State} {t : Site} {bank row : Nat} {poison : Bool} (hk : s.Keeps pnd) :
    (State.spareRow s t bank row poison).Keeps pnd := by
  unfold State.spareRow
  repeat' first
    | with_reducible assumption
    | with_reducible apply State.onInfo_keeps
    | with_reducible apply State.report_keeps
    | with_reducible apply State.setCfld_keeps
    | with_reducible apply keeps_ite

theorem State.eccWord_keeps {pnd : List Instr} {s : State} {t : Site} {word : Nat} {u : Upset} (hk : s.Keeps pnd) :
    (State.eccWord s t word u).Keeps pnd := by
  unfold State.eccWord
  repeat' first
    | with_reducible assumption
    | with_reducible apply State.eccEvent_keeps
    | with_reducible apply State.onInfo_keeps
    | with_reducible apply State.spareRow_keeps
    | with_reducible apply keeps_ite

theorem State.eccPoison_keeps {pnd : List Instr} {s : State} {t : Site} {word : Nat} (hk : s.Keeps pnd) :
    (State.eccPoison s t word).Keeps pnd := by
  unfold State.eccPoison
  repeat' first
    | with_reducible assumption
    | with_reducible apply State.eccEvent_keeps
    | with_reducible apply State.takeFree_keeps'

theorem State.eccRead_keeps {pnd : List Instr} {s : State} {t : Site} {off n : Nat} (hk : s.Keeps pnd) :
    fstKeeps pnd (State.eccRead s t off n) := by
  unfold State.eccRead
  repeat' first
    | with_reducible intro _
    | with_reducible assumption
    | with_reducible apply State.eccPoison_keeps
    | with_reducible apply State.eccWord_keeps
    | with_reducible apply keeps_foldl
    | with_reducible apply fstKeeps_mk

theorem State.eccRead_keeps' {pnd : List Instr} {s : State} {t : Site} {off n : Nat} (hk : s.Keeps pnd) :
    (State.eccRead s t off n).1.Keeps pnd := State.eccRead_keeps hk

theorem State.genMismatch_keeps {pnd : List Instr} {s : State} {t : Site} {q g found row : Nat} (hk : s.Keeps pnd) :
    (State.genMismatch s t q g found row).Keeps pnd := by
  unfold State.genMismatch
  repeat' first
    | with_reducible assumption
    | with_reducible apply State.cbump_keeps
    | with_reducible apply State.setCfld_keeps
    | with_reducible apply State.setCreg_keeps
    | with_reducible apply State.tileEvent_keeps
    | with_reducible apply keeps_ite

theorem State.genCheck_keeps {pnd : List Instr} {s : State} {t : Site} {off n g q : Nat} (hk : s.Keeps pnd) :
    (State.genCheck s t off n g q).Keeps pnd := by
  unfold State.genCheck
  repeat' first
    | with_reducible intro _
    | with_reducible assumption
    | with_reducible apply State.genMismatch_keeps
    | with_reducible apply keeps_foldl
    | with_reducible apply keeps_ite

theorem State.genStamp_keeps {pnd : List Instr} {s : State} {t : Site} {off n g : Nat} (hk : s.Keeps pnd) :
    (State.genStamp s t off n g).Keeps pnd := by
  unfold State.genStamp
  repeat' first
    | with_reducible assumption
    | with_reducible apply State.onInfo_keeps
    | with_reducible apply keeps_ite

theorem State.writeGenCfg_keeps {pnd : List Instr} {s : State} {t : Site} {v : Dword} (hk : s.Keeps pnd) :
    (State.writeGenCfg s t v).Keeps pnd := by
  unfold State.writeGenCfg
  repeat' first
    | with_reducible assumption
    | with_reducible apply State.onInfo_keeps
    | with_reducible apply State.setCfld_keeps
    | with_reducible apply State.setCreg_keeps
    | with_reducible apply keeps_ite

theorem State.readStore_keeps {pnd : List Instr} {s : State} {t : Site} {off n : Nat} (hk : s.Keeps pnd) :
    midKeeps pnd (State.readStore s t off n) := by
  unfold State.readStore
  repeat' first
    | with_reducible assumption
    | with_reducible apply State.eccRead_keeps'
    | with_reducible apply midKeeps_mk

theorem State.readStore_keeps' {pnd : List Instr} {s : State} {t : Site} {off n : Nat} (hk : s.Keeps pnd) :
    (State.readStore s t off n).2.1.Keeps pnd := State.readStore_keeps hk

theorem State.writeStore_keeps {pnd : List Instr} {s : State} {t : Site} {off : Nat} {bs : List Byte} {g : Nat} (hk :
    s.Keeps pnd) :
    (State.writeStore s t off bs g).Keeps pnd := by
  unfold State.writeStore
  repeat' first
    | with_reducible assumption
    | with_reducible apply State.eccRead_keeps'
    | with_reducible apply State.genStamp_keeps
    | with_reducible apply State.onInfo_keeps
    | with_reducible apply State.setBytes_keeps
    | with_reducible apply keeps_ite

theorem State.onLoam_keeps {pnd : List Instr} {s : State} {t : Site} {f : LoamCtl → LoamCtl} (hk : s.Keeps pnd) :
    (State.onLoam s t f).Keeps pnd := by
  unfold State.onLoam
  repeat' first
    | with_reducible assumption
    | with_reducible apply State.onTile_keeps

theorem State.onCache_keeps {pnd : List Instr} {s : State} {t : Site} {f : Cache → Cache} (hk : s.Keeps pnd) :
    (State.onCache s t f).Keeps pnd := by
  unfold State.onCache
  repeat' first
    | with_reducible assumption
    | with_reducible apply State.onTile_keeps

theorem State.openRow_keeps {pnd : List Instr} {s : State} {t : Site} {line : Nat} (hk : s.Keeps pnd) :
    (State.openRow s t line).Keeps pnd := by
  unfold State.openRow
  repeat' first
    | with_reducible assumption
    | with_reducible apply State.onLoam_keeps

theorem State.putLine_keeps {pnd : List Instr} {s : State} {t : Site} {line : Nat} {bs : List Byte} (hk : s.Keeps pnd) :
    (State.putLine s t line bs).Keeps pnd := by
  unfold State.putLine
  repeat' first
    | with_reducible assumption
    | with_reducible apply State.onLoam_keeps
    | with_reducible apply State.openRow_keeps
    | with_reducible apply State.setBytes_keeps

theorem State.poisonLine_keeps {pnd : List Instr} {s : State} {t : Site} {line : Nat} (hk : s.Keeps pnd) :
    (State.poisonLine s t line).Keeps pnd := by
  unfold State.poisonLine
  repeat' first
    | with_reducible assumption
    | with_reducible apply State.onLoam_keeps

theorem State.loamDecode_keeps {pnd : List Instr} {s : State} {t : Site} {line : Nat} {err : LoamErr} (hk : s.Keeps pnd) :
    (State.loamDecode s t line err).Keeps pnd := by
  unfold State.loamDecode
  repeat' first
    | with_reducible assumption
    | with_reducible apply State.bump_keeps
    | with_reducible apply State.onLoam_keeps
    | with_reducible apply State.poisonLine_keeps
    | with_reducible apply State.report_keeps
    | with_reducible apply keeps_ite
    | (extract_lets +onlyGivenNames u; refine keeps_cut (p := pnd) u ?_ (fun _ => ?_)
       rotate_left; clear_value u; rotate_right; unfold u)
    | simp only [keeps_upd_iff]
    | split

theorem State.setTag_keeps {pnd : List Instr} {s : State} {t : Site} {set way : Nat} {v : Tag} (hk : s.Keeps pnd) :
    (State.setTag s t set way v).Keeps pnd := by
  unfold State.setTag
  repeat' first
    | with_reducible assumption
    | with_reducible apply State.onCache_keeps

theorem State.touch_keeps {pnd : List Instr} {s : State} {t : Site} {set way : Nat} (hk : s.Keeps pnd) :
    (State.touch s t set way).Keeps pnd := by
  unfold State.touch
  repeat' first
    | with_reducible assumption
    | with_reducible apply State.onCache_keeps

theorem State.writeBackOldest_keeps {pnd : List Instr} {s : State} {t : Site} (hk : s.Keeps pnd) :
    (State.writeBackOldest s t).Keeps pnd := by
  unfold State.writeBackOldest
  repeat' first
    | with_reducible assumption
    | with_reducible apply State.mirrorPoint_keeps
    | with_reducible apply State.onCache_keeps
    | with_reducible apply State.poisonLine_keeps
    | with_reducible apply State.putLine_keeps
    | with_reducible apply keeps_ite
    | simp only [keeps_upd_iff]
    | split

theorem State.writeBackAll_keeps {pnd : List Instr} {s : State} {t : Site} (hk : s.Keeps pnd) :
    (State.writeBackAll s t).Keeps pnd := by
  unfold State.writeBackAll
  repeat' first
    | with_reducible intro _
    | with_reducible assumption
    | with_reducible apply State.writeBackOldest_keeps
    | with_reducible apply keeps_foldl

theorem State.evict_keeps {pnd : List Instr} {s : State} {t : Site} {set way : Nat} (hk : s.Keeps pnd) :
    (State.evict s t set way).Keeps pnd := by
  unfold State.evict
  repeat' first
    | with_reducible assumption
    | with_reducible apply State.onCache_keeps
    | with_reducible apply State.setTag_keeps
    | with_reducible apply State.writeBackOldest_keeps
    | with_reducible apply keeps_ite

theorem State.setRow_keeps {pnd : List Instr} {s : State} {t : Site} {off : Nat} {bs : List Byte} (hk : s.Keeps pnd) :
    (State.setRow s t off bs).Keeps pnd := by
  unfold State.setRow
  repeat' first
    | with_reducible assumption
    | with_reducible apply State.onInfo_keeps
    | with_reducible apply State.setBytes_keeps

theorem State.allocate_keeps {pnd : List Instr} {s : State} {t : Site} {line : Nat} {bs : List Byte} {dirty : Bool} (hk :
    s.Keeps pnd) :
    (State.allocate s t line bs dirty).Keeps pnd := by
  unfold State.allocate
  repeat' first
    | with_reducible assumption
    | with_reducible apply State.evict_keeps
    | with_reducible apply State.setRow_keeps
    | with_reducible apply State.setTag_keeps
    | with_reducible apply State.touch_keeps

theorem State.flushLine_keeps {pnd : List Instr} {s : State} {t : Site} {line : Nat} (hk : s.Keeps pnd) :
    (State.flushLine s t line).Keeps pnd := by
  unfold State.flushLine
  repeat' first
    | with_reducible assumption
    | with_reducible apply State.writeBackAll_keeps
    | with_reducible apply keeps_ite

theorem State.hitRead_keeps {pnd : List Instr} {s : State} {t : Site} {line way : Nat} (hk : s.Keeps pnd) :
    sndKeeps pnd (State.hitRead s t line way) := by
  unfold State.hitRead
  repeat' first
    | with_reducible assumption
    | with_reducible apply State.poisonLine_keeps
    | with_reducible apply State.putLine_keeps
    | with_reducible apply State.readStore_keeps'
    | with_reducible apply State.setTag_keeps
    | with_reducible apply State.touch_keeps
    | with_reducible apply sndKeeps_mk
    | split

theorem State.hitRead_keeps' {pnd : List Instr} {s : State} {t : Site} {line way : Nat} (hk : s.Keeps pnd) :
    (State.hitRead s t line way).2.Keeps pnd := State.hitRead_keeps hk

theorem State.loamRead_keeps {pnd : List Instr} {s : State} {t : Site} {line : Nat} {strm : Bool} (hk : s.Keeps pnd) :
    sndKeeps pnd (State.loamRead s t line strm) := by
  unfold State.loamRead
  repeat' first
    | with_reducible assumption
    | with_reducible apply State.allocate_keeps
    | with_reducible apply State.flushLine_keeps
    | with_reducible apply State.hitRead_keeps
    | with_reducible apply State.openRow_keeps
    | with_reducible apply sndKeeps_mk
    | with_reducible apply keeps_ite
    | with_reducible refine keeps_snd (by with_reducible assumption) ?_
    | simp only [keeps_upd_iff]
    | split

theorem State.loamRead_keeps' {pnd : List Instr} {s : State} {t : Site} {line : Nat} {strm : Bool} (hk : s.Keeps pnd) :
    (State.loamRead s t line strm).2.Keeps pnd := State.loamRead_keeps hk

theorem State.loamWrite_keeps {pnd : List Instr} {s : State} {t : Site} {line : Nat} {bs : List Byte} {strm : Bool} (hk :
    s.Keeps pnd) :
    (State.loamWrite s t line bs strm).Keeps pnd := by
  unfold State.loamWrite
  repeat' first
    | with_reducible assumption
    | with_reducible apply State.allocate_keeps
    | with_reducible apply State.flushLine_keeps
    | with_reducible apply State.putLine_keeps
    | with_reducible apply State.setRow_keeps
    | with_reducible apply State.setTag_keeps
    | with_reducible apply State.touch_keeps
    | with_reducible apply keeps_ite
    | (extract_lets +onlyGivenNames v; clear_value v)
    | simp only [keeps_upd_iff]
    | split

theorem State.loamBytes_keeps {pnd : List Instr} {s : State} {t : Site} {off n : Nat} (hk : s.Keeps pnd) :
    sndKeeps pnd (State.loamBytes s t off n) := by
  unfold State.loamBytes
  repeat' first
    | with_reducible intro _
    | with_reducible assumption
    | with_reducible apply State.loamRead_keeps
    | with_reducible apply keeps_foldl_snd
    | with_reducible apply sndKeeps_mk
    | with_reducible refine keeps_snd (by with_reducible assumption) ?_
    | split

theorem State.loamBytes_keeps' {pnd : List Instr} {s : State} {t : Site} {off n : Nat} (hk : s.Keeps pnd) :
    (State.loamBytes s t off n).2.Keeps pnd := State.loamBytes_keeps hk

theorem State.loamPut_keeps {pnd : List Instr} {s : State} {t : Site} {off : Nat} {bs : List Byte} (hk : s.Keeps pnd) :
    (State.loamPut s t off bs).Keeps pnd := by
  unfold State.loamPut
  repeat' first
    | with_reducible intro _
    | with_reducible assumption
    | with_reducible apply State.loamRead_keeps
    | with_reducible apply State.loamWrite_keeps
    | with_reducible apply keeps_foldl
    | with_reducible apply keeps_ite
    | with_reducible refine keeps_snd (by with_reducible assumption) ?_
    | split

theorem execStoreScrub_keeps {pnd : List Instr} {t : Site} {bank : Nat} {found : Option Upset} {s : State} (hk : s.Keeps
    pnd) :
    outKeeps pnd (execStoreScrub t bank found s) := by
  unfold execStoreScrub
  repeat' first
    | with_reducible assumption
    | with_reducible apply State.eccRead_keeps'
    | with_reducible apply State.onInfo_keeps
    | with_reducible apply outKeeps_onUnit
    | with_reducible apply outKeeps_onTile
    | with_reducible apply outKeeps_next
    | (extract_lets +onlyGivenNames u; refine keeps_cut (p := pnd) u ?_ (fun _ => ?_)
       rotate_left; clear_value u; rotate_right; unfold u)
    | (extract_lets +onlyGivenNames v; (have hv := fun x => v x); clear hv; unfold v)
    | (extract_lets +onlyGivenNames v; clear_value v)
    | split

theorem execCacheAccess_keeps {pnd : List Instr} {t : Site} {line : Nat} {store : Option (List Byte)} {strm : Bool} {s :
    State} (hk : s.Keeps pnd) :
    outKeeps pnd (execCacheAccess t line store strm s) := by
  unfold execCacheAccess
  repeat' first
    | with_reducible assumption
    | with_reducible apply State.evict_keeps
    | with_reducible apply State.flushLine_keeps
    | with_reducible apply State.hitRead_keeps
    | with_reducible apply State.loamWrite_keeps
    | with_reducible apply State.onCache_keeps
    | with_reducible apply when__keeps
    | with_reducible apply outKeeps_onUnit
    | with_reducible apply outKeeps_onTile
    | with_reducible apply keeps_ite
    | with_reducible refine keeps_snd (by with_reducible assumption) ?_
    | simp only [keeps_upd_iff]
    | split

theorem execCacheFill_keeps {pnd : List Instr} {t : Site} {err : LoamErr} {s : State} (hk : s.Keeps pnd) :
    outKeeps pnd (execCacheFill t err s) := by
  unfold execCacheFill
  repeat' first
    | with_reducible assumption
    | with_reducible apply State.allocate_keeps
    | with_reducible apply State.loamDecode_keeps
    | with_reducible apply State.loamWrite_keeps
    | with_reducible apply State.onCache_keeps
    | with_reducible apply State.openRow_keeps
    | with_reducible apply outKeeps_onTile
    | with_reducible apply outKeeps_next
    | with_reducible apply outKeeps_refused
    | with_reducible apply keeps_ite
    | simp only [keeps_upd_iff]
    | split

theorem execCacheWriteback_keeps {pnd : List Instr} {t : Site} {s : State} (hk : s.Keeps pnd) :
    outKeeps pnd (execCacheWriteback t s) := by
  unfold execCacheWriteback
  repeat' first
    | with_reducible assumption
    | with_reducible apply when__keeps
    | with_reducible apply State.writeBackOldest_keeps
    | with_reducible apply outKeeps_onTile

theorem State.flushCache_keeps {pnd : List Instr} {s : State} {t : Site} (hk : s.Keeps pnd) :
    (State.flushCache s t).Keeps pnd := by
  unfold State.flushCache
  repeat' first
    | with_reducible intro _
    | with_reducible assumption
    | with_reducible apply State.evict_keeps
    | with_reducible apply State.onCache_keeps
    | with_reducible apply State.writeBackAll_keeps
    | with_reducible apply keeps_foldl

theorem State.zeroCacheBanks_keeps {p : List Instr} {s : State} {t : Site} (h : s.Keeps p) :
    (s.zeroCacheBanks t).Keeps p := by
  unfold State.zeroCacheBanks
  apply State.onInfo_keeps
  exact keeps_mem h (mapWf_filter _ h.canon.mem)

theorem execStoreSplitSwitch_keeps {pnd : List Instr} {t : Site} {s : State} (hk : s.Keeps pnd) :
    outKeeps pnd (execStoreSplitSwitch t s) := by
  unfold execStoreSplitSwitch
  repeat' first
    | with_reducible assumption
    | with_reducible apply State.flushCache_keeps
    | with_reducible apply State.onTile_keeps
    | with_reducible apply State.setCfld_keeps
    | with_reducible apply when__keeps
    | with_reducible apply State.zeroCacheBanks_keeps
    | with_reducible apply outKeeps_onTile
    | with_reducible apply outKeeps_refused
    | with_reducible apply keeps_ite
    | (extract_lets +onlyGivenNames u; refine keeps_cut (p := pnd) u ?_ (fun _ => ?_)
       rotate_left; clear_value u; rotate_right; unfold u)
    | simp only [keeps_upd_iff]
    | split

theorem execSplitSwitchEnd_keeps {pnd : List Instr} {t : Site} {s : State} (hk : s.Keeps pnd) :
    outKeeps pnd (execSplitSwitchEnd t s) := by
  unfold execSplitSwitchEnd
  repeat' first
    | with_reducible assumption
    | with_reducible apply State.setCfld_keeps
    | with_reducible apply when__keeps
    | with_reducible apply outKeeps_onTile

theorem execTcGenCfgWrite_keeps {pnd : List Instr} {t : Site} {v : Dword} {s : State} (hk : s.Keeps pnd) :
    outKeeps pnd (execTcGenCfgWrite t v s) := by
  unfold execTcGenCfgWrite
  repeat' first
    | with_reducible assumption
    | with_reducible apply State.writeGenCfg_keeps
    | with_reducible apply outKeeps_onTile
    | with_reducible apply outKeeps_next

theorem execGenTagClearEnd_keeps {pnd : List Instr} {t : Site} {s : State} (hk : s.Keeps pnd) :
    outKeeps pnd (execGenTagClearEnd t s) := by
  unfold execGenTagClearEnd
  repeat' first
    | with_reducible assumption
    | with_reducible apply State.onInfo_keeps
    | with_reducible apply when__keeps
    | with_reducible apply outKeeps_onTile

theorem execLoamRefresh_keeps {pnd : List Instr} {t : Site} {s : State} (hk : s.Keeps pnd) :
    outKeeps pnd (execLoamRefresh t s) := by
  unfold execLoamRefresh
  repeat' first
    | with_reducible assumption
    | with_reducible apply State.onLoam_keeps
    | with_reducible apply outKeeps_onTile
    | with_reducible apply outKeeps_next

theorem execLoamScrub_keeps {pnd : List Instr} {t : Site} {err : LoamErr} {s : State} (hk : s.Keeps pnd) :
    outKeeps pnd (execLoamScrub t err s) := by
  unfold execLoamScrub
  repeat' first
    | with_reducible assumption
    | with_reducible apply State.loamDecode_keeps
    | with_reducible apply State.onLoam_keeps
    | with_reducible apply State.openRow_keeps
    | with_reducible apply when__keeps
    | with_reducible apply outKeeps_onTile

/-! ### Ctrl -/

theorem State.checkSpill_keeps {pnd : List Instr} {s : State} {t : Site} (hk : s.Keeps pnd) :
    (State.checkSpill s t).Keeps pnd := by
  unfold State.checkSpill
  repeat' first
    | with_reducible assumption
    | with_reducible apply State.setCfld_keeps
    | with_reducible apply keeps_ite

theorem State.onPort_keeps {pnd : List Instr} {s : State} {t : Site} {p : Nat} {f : PortRt → PortRt} (hk : s.Keeps pnd) :
    (State.onPort s t p f).Keeps pnd := by
  unfold State.onPort
  repeat' first
    | with_reducible assumption
    | with_reducible apply State.onNi_keeps

theorem State.ctrlStore_keeps {pnd : List Instr} {s : State} {t : Site} {a : Nat} {v : Dword} (hk : s.Keeps pnd) :
    (State.ctrlStore s t a v).Keeps pnd := by
  unfold State.ctrlStore
  repeat' first
    | with_reducible assumption
    | with_reducible apply State.setCreg_keeps

theorem State.writePort_keeps {pnd : List Instr} {s : State} {t : Site} {p : Nat} {v : Dword} (hk : s.Keeps pnd) :
    (State.writePort s t p v).Keeps pnd := by
  unfold State.writePort
  repeat' first
    | with_reducible assumption
    | with_reducible apply State.checkSpill_keeps
    | with_reducible apply State.ctrlStore_keeps
    | with_reducible apply keeps_ite

theorem State.settleClose_keeps {pnd : List Instr} {s : State} {t : Site} {p : Nat} (hk : s.Keeps pnd) :
    (State.settleClose s t p).Keeps pnd := by
  unfold State.settleClose
  repeat' first
    | with_reducible assumption
    | with_reducible apply State.onNi_keeps
    | with_reducible apply keeps_ite
    | (extract_lets +onlyGivenNames v; clear_value v)
    | simp only [keeps_upd_iff]
    | split

theorem State.releaseItems_keeps {pnd : List Instr} {s : State} {t : Site} {p n : Nat} (hk : s.Keeps pnd) :
    (State.releaseItems s t p n).Keeps pnd := by
  unfold State.releaseItems
  repeat' first
    | with_reducible assumption
    | with_reducible apply State.niSend_keeps
    | with_reducible apply State.onPort_keeps
    | with_reducible apply State.settleClose_keeps
    | with_reducible apply keeps_ite
    | (extract_lets +onlyGivenNames u; refine keeps_cut (p := pnd) u ?_ (fun _ => ?_)
       rotate_left; clear_value u; rotate_right; unfold u)
    | split

theorem State.clearSteer_keeps {pnd : List Instr} {s : State} {t : Site} {u : Nat} (hk : s.Keeps pnd) :
    (State.clearSteer s t u).Keeps pnd := by
  unfold State.clearSteer
  repeat' first
    | with_reducible assumption
    | with_reducible apply State.onNi_keeps
    | with_reducible apply State.releaseItems_keeps

theorem State.writeSteer_keeps {pnd : List Instr} {s : State} {t : Site} {u : Nat} {v : Dword} (hk : s.Keeps pnd) :
    (State.writeSteer s t u v).Keeps pnd := by
  unfold State.writeSteer
  repeat' first
    | with_reducible assumption
    | with_reducible apply State.clearSteer_keeps
    | with_reducible apply State.ctrlStore_keeps
    | with_reducible apply keeps_ite

theorem State.ctrlWrite_keeps {pnd : List Instr} {s : State} {t : Site} {a : Nat} {v : Dword} (hk : s.Keeps pnd) :
    (State.ctrlWrite s t a v).Keeps pnd := by
  unfold State.ctrlWrite
  repeat' first
    | with_reducible assumption
    | with_reducible apply State.checkSpill_keeps
    | with_reducible apply State.ctrlStore_keeps
    | with_reducible apply State.writeGenCfg_keeps
    | with_reducible apply State.writePort_keeps
    | with_reducible apply State.writeSteer_keeps
    | with_reducible apply keeps_ite

theorem execNiSteerWrite_keeps {pnd : List Instr} {t : Site} {u : Nat} {v : Dword} {s : State} (hk : s.Keeps pnd) :
    outKeeps pnd (execNiSteerWrite t u v s) := by
  unfold execNiSteerWrite
  repeat' first
    | with_reducible assumption
    | with_reducible apply State.writeSteer_keeps
    | with_reducible apply outKeeps_onUnit
    | with_reducible apply outKeeps_onTile
    | with_reducible apply outKeeps_next

theorem execNiPortWrite_keeps {pnd : List Instr} {t : Site} {port : Nat} {v : Dword} {s : State} (hk : s.Keeps pnd) :
    outKeeps pnd (execNiPortWrite t port v s) := by
  unfold execNiPortWrite
  repeat' first
    | with_reducible assumption
    | with_reducible apply State.writePort_keeps
    | with_reducible apply outKeeps_onUnit
    | with_reducible apply outKeeps_onTile
    | with_reducible apply outKeeps_next

/-! ### CoreOps -/

theorem State.takeTrap_keeps {pnd : List Instr} {s : State} {t : Site} {cause tval : Word} (hk : s.Keeps pnd) :
    (State.takeTrap s t cause tval).Keeps pnd := by
  unfold State.takeTrap
  repeat' first
    | with_reducible assumption
    | with_reducible apply State.onCore_keeps
    | with_reducible apply State.onNi_keeps
    | with_reducible apply State.report_keeps
    | with_reducible apply keeps_ite
    | split

theorem instr_keeps {p : List Instr} {name : String} {op : Nat} {t : Site} {legal : Word → Bool} {body : Word → State → Eff}
    {s : State} (h : s.Keeps p) (k : ∀ w u, u.Keeps p → effKeeps p (body w u)) : outKeeps p (instr name op t legal body s) := by
  unfold instr
  apply outKeeps_onTile
  dsimp only
  split
  · trivial
  rename_i w _
  have hb := k w s h
  split
  · trivial
  split
  · exact State.takeTrap_keeps h
  split
  · split
    · trivial
    · exact State.onCore_keeps h
  cases hx : body w s <;> rw [hx] at hb <;> dsimp only
  · split
    · trivial
    · exact hb
  · exact State.takeTrap_keeps hb
  · trivial

theorem effReg_keeps {pnd : List Instr} {t : Site} {s : State} {rd : Nat} {v : Word} (hk : s.Keeps pnd) :
    effKeeps pnd (effReg t s rd v) := by
  unfold effReg
  repeat' first
    | with_reducible assumption
    | with_reducible apply State.onCore_keeps
    | with_reducible apply effKeeps_ok

theorem effNext_keeps {pnd : List Instr} {t : Site} {s : State} (hk : s.Keeps pnd) : effKeeps pnd (effNext t s) := by
  unfold effNext
  repeat' first
    | with_reducible assumption
    | with_reducible apply State.onCore_keeps
    | with_reducible apply effKeeps_ok

theorem effBlock_keeps {pnd : List Instr} {t : Site} {s : State} {b : Blocked} (hk : s.Keeps pnd) :
    effKeeps pnd (effBlock t s b) := by
  unfold effBlock
  repeat' first
    | with_reducible assumption
    | with_reducible apply State.onCore_keeps
    | with_reducible apply effKeeps_ok

theorem State.retire_keeps {pnd : List Instr} {s : State} {t : Site} {f : Core → Core} (hk : s.Keeps pnd) :
    (State.retire s t f).Keeps pnd := by
  unfold State.retire
  repeat' first
    | with_reducible assumption
    | with_reducible apply State.onCore_keeps

theorem State.wfeWake_keeps {pnd : List Instr} {s : State} {t : Site} (hk : s.Keeps pnd) : (State.wfeWake s t).Keeps pnd := by
  unfold State.wfeWake
  repeat' first
    | with_reducible assumption
    | with_reducible apply State.retire_keeps
    | with_reducible apply keeps_ite

theorem loadBody_keeps {pnd : List Instr} {size : Nat} {t : Site} {f : Word → List Byte → Core → Core} {w : Word} {s :
    State} (hk : s.Keeps pnd) :
    effKeeps pnd (loadBody size t f w s) := by
  unfold loadBody
  repeat' first
    | with_reducible assumption
    | with_reducible apply State.onCore_keeps
    | with_reducible apply State.readStore_keeps'
    | with_reducible apply effKeeps_ok
    | with_reducible apply effKeeps_trap
    | with_reducible apply effKeeps_wait
    | (extract_lets +onlyGivenNames v; clear_value v)
    | simp only [keeps_upd_iff]
    | split

theorem storeBody_keeps {pnd : List Instr} {size : Nat} {t : Site} {val : Word → Core → Nat} {w : Word} {s : State} (hk :
    s.Keeps pnd) :
    effKeeps pnd (storeBody size t val w s) := by
  unfold storeBody
  repeat' first
    | with_reducible assumption
    | with_reducible apply State.ctrlWrite_keeps
    | with_reducible apply State.onCore_keeps
    | with_reducible apply effKeeps_ok
    | with_reducible apply effKeeps_trap
    | with_reducible apply effKeeps_wait
    | (extract_lets +onlyGivenNames v; clear_value v)
    | simp only [keeps_upd_iff]
    | split

/-! ### CoreIsa -/

theorem execAlu_keeps {pnd : List Instr} {t : Site} {s : State} (hk : s.Keeps pnd) : outKeeps pnd (execAlu t s) := by
  unfold execAlu
  repeat' first
    | with_reducible intro _
    | with_reducible assumption
    | with_reducible apply effReg_keeps
    | with_reducible apply instr_keeps

theorem immBody_keeps {pnd : List Instr} {t : Site} {f : Word → Word → Word} {w : Word} {s : State} (hk : s.Keeps pnd) :
    effKeeps pnd (immBody t f w s) := by
  unfold immBody
  repeat' first
    | with_reducible assumption
    | with_reducible apply effReg_keeps

theorem execAddi_keeps {pnd : List Instr} {t : Site} {s : State} (hk : s.Keeps pnd) : outKeeps pnd (execAddi t s) := by
  unfold execAddi
  repeat' first
    | with_reducible intro _
    | with_reducible assumption
    | with_reducible apply immBody_keeps
    | with_reducible apply instr_keeps

theorem execAndi_keeps {pnd : List Instr} {t : Site} {s : State} (hk : s.Keeps pnd) : outKeeps pnd (execAndi t s) := by
  unfold execAndi
  repeat' first
    | with_reducible intro _
    | with_reducible assumption
    | with_reducible apply immBody_keeps
    | with_reducible apply instr_keeps

theorem execOri_keeps {pnd : List Instr} {t : Site} {s : State} (hk : s.Keeps pnd) : outKeeps pnd (execOri t s) := by
  unfold execOri
  repeat' first
    | with_reducible intro _
    | with_reducible assumption
    | with_reducible apply immBody_keeps
    | with_reducible apply instr_keeps

theorem execXori_keeps {pnd : List Instr} {t : Site} {s : State} (hk : s.Keeps pnd) : outKeeps pnd (execXori t s) := by
  unfold execXori
  repeat' first
    | with_reducible intro _
    | with_reducible assumption
    | with_reducible apply immBody_keeps
    | with_reducible apply instr_keeps

theorem execShi_keeps {pnd : List Instr} {t : Site} {s : State} (hk : s.Keeps pnd) : outKeeps pnd (execShi t s) := by
  unfold execShi
  repeat' first
    | with_reducible intro _
    | with_reducible assumption
    | with_reducible apply immBody_keeps
    | with_reducible apply instr_keeps

theorem execLil_keeps {pnd : List Instr} {t : Site} {s : State} (hk : s.Keeps pnd) : outKeeps pnd (execLil t s) := by
  unfold execLil
  repeat' first
    | with_reducible intro _
    | with_reducible assumption
    | with_reducible apply effReg_keeps
    | with_reducible apply instr_keeps

theorem execLih_keeps {pnd : List Instr} {t : Site} {s : State} (hk : s.Keeps pnd) : outKeeps pnd (execLih t s) := by
  unfold execLih
  repeat' first
    | with_reducible intro _
    | with_reducible assumption
    | with_reducible apply effReg_keeps
    | with_reducible apply instr_keeps

theorem execMfs_keeps {p : List Instr} {t : Site} {s : State} (h : s.Keeps p) : outKeeps p (execMfs t s) := by
  unfold execMfs
  apply instr_keeps h
  intro w u hu
  apply effReg_keeps
  split
  · exact State.onCore_keeps hu
  · exact hu

theorem execMts_keeps {pnd : List Instr} {t : Site} {s : State} (hk : s.Keeps pnd) : outKeeps pnd (execMts t s) := by
  unfold execMts
  repeat' first
    | with_reducible intro _
    | with_reducible assumption
    | with_reducible apply instr_keeps
    | with_reducible apply State.onCore_keeps
    | with_reducible apply effKeeps_ok

theorem execLb_keeps {pnd : List Instr} {t : Site} {s : State} (hk : s.Keeps pnd) : outKeeps pnd (execLb t s) := by
  unfold execLb
  repeat' first
    | with_reducible intro _
    | with_reducible assumption
    | with_reducible apply instr_keeps
    | with_reducible apply loadBody_keeps

theorem execLbu_keeps {pnd : List Instr} {t : Site} {s : State} (hk : s.Keeps pnd) : outKeeps pnd (execLbu t s) := by
  unfold execLbu
  repeat' first
    | with_reducible intro _
    | with_reducible assumption
    | with_reducible apply instr_keeps
    | with_reducible apply loadBody_keeps

theorem execLh_keeps {pnd : List Instr} {t : Site} {s : State} (hk : s.Keeps pnd) : outKeeps pnd (execLh t s) := by
  unfold execLh
  repeat' first
    | with_reducible intro _
    | with_reducible assumption
    | with_reducible apply instr_keeps
    | with_reducible apply loadBody_keeps

theorem execLhu_keeps {pnd : List Instr} {t : Site} {s : State} (hk : s.Keeps pnd) : outKeeps pnd (execLhu t s) := by
  unfold execLhu
  repeat' first
    | with_reducible intro _
    | with_reducible assumption
    | with_reducible apply instr_keeps
    | with_reducible apply loadBody_keeps

theorem execLw_keeps {pnd : List Instr} {t : Site} {s : State} (hk : s.Keeps pnd) : outKeeps pnd (execLw t s) := by
  unfold execLw
  repeat' first
    | with_reducible intro _
    | with_reducible assumption
    | with_reducible apply instr_keeps
    | with_reducible apply loadBody_keeps

theorem execLdd_keeps {pnd : List Instr} {t : Site} {s : State} (hk : s.Keeps pnd) : outKeeps pnd (execLdd t s) := by
  unfold execLdd
  repeat' first
    | with_reducible intro _
    | with_reducible assumption
    | with_reducible apply instr_keeps
    | with_reducible apply loadBody_keeps

theorem execSb_keeps {pnd : List Instr} {t : Site} {s : State} (hk : s.Keeps pnd) : outKeeps pnd (execSb t s) := by
  unfold execSb
  repeat' first
    | with_reducible intro _
    | with_reducible assumption
    | with_reducible apply instr_keeps
    | with_reducible apply storeBody_keeps

theorem execSh_keeps {pnd : List Instr} {t : Site} {s : State} (hk : s.Keeps pnd) : outKeeps pnd (execSh t s) := by
  unfold execSh
  repeat' first
    | with_reducible intro _
    | with_reducible assumption
    | with_reducible apply instr_keeps
    | with_reducible apply storeBody_keeps

theorem execSw_keeps {pnd : List Instr} {t : Site} {s : State} (hk : s.Keeps pnd) : outKeeps pnd (execSw t s) := by
  unfold execSw
  repeat' first
    | with_reducible intro _
    | with_reducible assumption
    | with_reducible apply instr_keeps
    | with_reducible apply storeBody_keeps

theorem execSdd_keeps {pnd : List Instr} {t : Site} {s : State} (hk : s.Keeps pnd) : outKeeps pnd (execSdd t s) := by
  unfold execSdd
  repeat' first
    | with_reducible intro _
    | with_reducible assumption
    | with_reducible apply instr_keeps
    | with_reducible apply storeBody_keeps

theorem execStoreBufferPerform_keeps {pnd : List Instr} {t : Site} {s : State} (hk : s.Keeps pnd) :
    outKeeps pnd (execStoreBufferPerform t s) := by
  unfold execStoreBufferPerform
  repeat' first
    | with_reducible assumption
    | with_reducible apply State.onCore_keeps
    | with_reducible apply State.writeStore_keeps
    | with_reducible apply outKeeps_onTile
    | with_reducible apply outKeeps_next
    | with_reducible apply outKeeps_refused
    | simp only [keeps_upd_iff]
    | split

theorem execInstructionFetch_keeps {pnd : List Instr} {t : Site} {s : State} (hk : s.Keeps pnd) :
    outKeeps pnd (execInstructionFetch t s) := by
  unfold execInstructionFetch
  repeat' first
    | with_reducible assumption
    | with_reducible apply State.onCore_keeps
    | with_reducible apply State.readStore_keeps'
    | with_reducible apply State.takeTrap_keeps
    | with_reducible apply outKeeps_onTile
    | with_reducible apply outKeeps_next
    | with_reducible apply outKeeps_refused
    | (extract_lets +onlyGivenNames v; (have hv := fun x => v x); clear hv; unfold v)
    | (extract_lets +onlyGivenNames v; clear_value v)
    | simp only [keeps_upd_iff]
    | split

theorem execBr_keeps {pnd : List Instr} {t : Site} {s : State} (hk : s.Keeps pnd) : outKeeps pnd (execBr t s) := by
  unfold execBr
  repeat' first
    | with_reducible intro _
    | with_reducible assumption
    | with_reducible apply instr_keeps
    | with_reducible apply State.onCore_keeps
    | with_reducible apply effKeeps_ok

theorem execBl_keeps {pnd : List Instr} {t : Site} {s : State} (hk : s.Keeps pnd) : outKeeps pnd (execBl t s) := by
  unfold execBl
  repeat' first
    | with_reducible intro _
    | with_reducible assumption
    | with_reducible apply instr_keeps
    | with_reducible apply State.onCore_keeps
    | with_reducible apply effKeeps_ok

theorem execJr_keeps {pnd : List Instr} {t : Site} {s : State} (hk : s.Keeps pnd) : outKeeps pnd (execJr t s) := by
  unfold execJr
  repeat' first
    | with_reducible intro _
    | with_reducible assumption
    | with_reducible apply instr_keeps
    | with_reducible apply State.onCore_keeps
    | with_reducible apply effKeeps_ok
    | with_reducible apply effKeeps_trap
    | (extract_lets +onlyGivenNames v; clear_value v)
    | split

theorem effPred_keeps {pnd : List Instr} {t : Site} {s : State} {pd pn : Nat} {r : Bool} (hk : s.Keeps pnd) :
    effKeeps pnd (effPred t s pd pn r) := by
  unfold effPred
  repeat' first
    | with_reducible assumption
    | with_reducible apply State.onCore_keeps
    | with_reducible apply State.takeFree_keeps'
    | with_reducible apply effKeeps_ok
    | simp only [keeps_upd_iff]
    | split

theorem execPcmp_keeps {pnd : List Instr} {t : Site} {s : State} (hk : s.Keeps pnd) : outKeeps pnd (execPcmp t s) := by
  unfold execPcmp
  repeat' first
    | with_reducible intro _
    | with_reducible assumption
    | with_reducible apply effPred_keeps
    | with_reducible apply instr_keeps

theorem execPcmpi_keeps {pnd : List Instr} {t : Site} {s : State} (hk : s.Keeps pnd) : outKeeps pnd (execPcmpi t s) := by
  unfold execPcmpi
  repeat' first
    | with_reducible intro _
    | with_reducible assumption
    | with_reducible apply effPred_keeps
    | with_reducible apply instr_keeps

theorem execPlog_keeps {pnd : List Instr} {t : Site} {s : State} (hk : s.Keeps pnd) : outKeeps pnd (execPlog t s) := by
  unfold execPlog
  repeat' first
    | with_reducible intro _
    | with_reducible assumption
    | with_reducible apply instr_keeps
    | with_reducible apply State.onCore_keeps
    | with_reducible apply effKeeps_ok

theorem execPmov_keeps {pnd : List Instr} {t : Site} {s : State} (hk : s.Keeps pnd) : outKeeps pnd (execPmov t s) := by
  unfold execPmov
  repeat' first
    | with_reducible intro _
    | with_reducible assumption
    | with_reducible apply effReg_keeps
    | with_reducible apply instr_keeps
    | with_reducible apply State.onCore_keeps
    | with_reducible apply effKeeps_ok
    | split

theorem State.pushCmd_keeps {pnd : List Instr} {s : State} {t : Site} {q : Nat} {d : Desc} (hk : s.Keeps pnd) :
    fstKeeps pnd (State.pushCmd s t q d) := by
  unfold State.pushCmd
  repeat' first
    | with_reducible assumption
    | with_reducible apply State.onQueue_keeps
    | with_reducible apply State.onTile_keeps
    | with_reducible apply fstKeeps_mk
    | with_reducible apply keeps_ite

theorem State.pushCmd_keeps' {pnd : List Instr} {s : State} {t : Site} {q : Nat} {d : Desc} (hk : s.Keeps pnd) :
    (State.pushCmd s t q d).1.Keeps pnd := State.pushCmd_keeps hk

def descKeeps (p : List Instr) : Eff ⊕ (Desc × State) → Prop
  | .inl e => effKeeps p e
  | .inr e => e.2.Keeps p

theorem issueDesc_keeps {p : List Instr} {t : Site} {w : Word} {s : State} (h : s.Keeps p) :
    descKeeps p (issueDesc t w s) := by
  have k : ∀ a, (s.readStore t a 16).2.1.Keeps p := fun a => State.readStore_keeps' h
  unfold issueDesc
  extract_lets +onlyGivenNames c a
  split
  · exact h
  split
  · exact h
  split
  · exact h
  have k := k a.toNat
  generalize s.readStore t a.toNat 16 = e at k ⊢
  dsimp only
  split
  · exact k
  · exact k

theorem execIssue_keeps {p : List Instr} {t : Site} {s : State} (h : s.Keeps p) : outKeeps p (execIssue t s) := by
  unfold execIssue
  apply instr_keeps h
  intro w u hu
  have k := issueDesc_keeps (t := t) (w := w) hu
  generalize issueDesc t w u = e at k ⊢
  split
  · split
    · split
      · trivial
      · exact k
    · trivial
  · split
    · exact k
    · rename_i d s'
      have k : s'.Keeps p := k
      split
      · exact effBlock_keeps k
      · exact effReg_keeps (State.pushCmd_keeps' k)

theorem execIssueQueueRoom_keeps {pnd : List Instr} {t : Site} {s : State} (hk : s.Keeps pnd) :
    outKeeps pnd (execIssueQueueRoom t s) := by
  unfold execIssueQueueRoom
  repeat' first
    | with_reducible assumption
    | with_reducible apply State.pushCmd_keeps'
    | with_reducible apply State.retire_keeps
    | with_reducible apply when__keeps
    | with_reducible apply outKeeps_onTile
    | with_reducible apply outKeeps_refused
    | simp only [keeps_upd_iff]
    | split

theorem execWaitc_keeps {pnd : List Instr} {t : Site} {s : State} (hk : s.Keeps pnd) : outKeeps pnd (execWaitc t s) := by
  unfold execWaitc
  repeat' first
    | with_reducible intro _
    | with_reducible assumption
    | with_reducible apply effBlock_keeps
    | with_reducible apply instr_keeps

theorem execWaitcRetire_keeps {pnd : List Instr} {t : Site} {s : State} (hk : s.Keeps pnd) :
    outKeeps pnd (execWaitcRetire t s) := by
  unfold execWaitcRetire
  repeat' first
    | with_reducible assumption
    | with_reducible apply State.retire_keeps
    | with_reducible apply when__keeps
    | with_reducible apply outKeeps_onTile
    | with_reducible apply outKeeps_refused
    | split

theorem execRdcc_keeps {pnd : List Instr} {t : Site} {s : State} (hk : s.Keeps pnd) : outKeeps pnd (execRdcc t s) := by
  unfold execRdcc
  repeat' first
    | with_reducible intro _
    | with_reducible assumption
    | with_reducible apply effReg_keeps
    | with_reducible apply instr_keeps

theorem execWaitm_keeps {pnd : List Instr} {t : Site} {s : State} (hk : s.Keeps pnd) : outKeeps pnd (execWaitm t s) := by
  unfold execWaitm
  repeat' first
    | with_reducible intro _
    | with_reducible assumption
    | with_reducible apply effBlock_keeps
    | with_reducible apply instr_keeps

theorem execWaitmRetire_keeps {pnd : List Instr} {t : Site} {s : State} (hk : s.Keeps pnd) :
    outKeeps pnd (execWaitmRetire t s) := by
  unfold execWaitmRetire
  repeat' first
    | with_reducible assumption
    | with_reducible apply State.retire_keeps
    | with_reducible apply when__keeps
    | with_reducible apply outKeeps_onTile
    | with_reducible apply outKeeps_refused
    | split

theorem execWfe_keeps {pnd : List Instr} {t : Site} {s : State} (hk : s.Keeps pnd) : outKeeps pnd (execWfe t s) := by
  unfold execWfe
  repeat' first
    | with_reducible intro _
    | with_reducible assumption
    | with_reducible apply effBlock_keeps
    | with_reducible apply instr_keeps

theorem execMfence_keeps {pnd : List Instr} {t : Site} {s : State} (hk : s.Keeps pnd) : outKeeps pnd (execMfence t s) := by
  unfold execMfence
  repeat' first
    | with_reducible intro _
    | with_reducible assumption
    | with_reducible apply instr_keeps
    | with_reducible apply State.onCore_keeps
    | with_reducible apply effKeeps_ok
    | with_reducible apply effKeeps_wait
    | split

theorem execFin_keeps {pnd : List Instr} {t : Site} {s : State} (hk : s.Keeps pnd) : outKeeps pnd (execFin t s) := by
  unfold execFin
  repeat' first
    | with_reducible intro _
    | with_reducible assumption
    | with_reducible apply effBlock_keeps
    | with_reducible apply instr_keeps
    | with_reducible apply effKeeps_wait
    | split

theorem execFinStop_keeps {pnd : List Instr} {t : Site} {s : State} (hk : s.Keeps pnd) : outKeeps pnd (execFinStop t s) := by
  unfold execFinStop
  repeat' first
    | with_reducible assumption
    | with_reducible apply State.onCore_keeps
    | with_reducible apply State.report_keeps
    | with_reducible apply when__keeps
    | with_reducible apply outKeeps_onTile

theorem execStage_keeps {pnd : List Instr} {t : Site} {s : State} (hk : s.Keeps pnd) : outKeeps pnd (execStage t s) := by
  unfold execStage
  repeat' first
    | with_reducible intro _
    | with_reducible assumption
    | with_reducible apply instr_keeps
    | with_reducible apply State.onCore_keeps
    | with_reducible apply effKeeps_ok
    | with_reducible apply effKeeps_trap
    | (extract_lets +onlyGivenNames v; clear_value v)
    | split

theorem execFrame_keeps {pnd : List Instr} {t : Site} {s : State} (hk : s.Keeps pnd) : outKeeps pnd (execFrame t s) := by
  unfold execFrame
  repeat' first
    | with_reducible intro _
    | with_reducible assumption
    | with_reducible apply effBlock_keeps
    | with_reducible apply instr_keeps
    | with_reducible apply effKeeps_trap
    | with_reducible apply effKeeps_wait
    | split

theorem execHeavy_keeps {pnd : List Instr} {t : Site} {s : State} (hk : s.Keeps pnd) : outKeeps pnd (execHeavy t s) := by
  unfold execHeavy
  repeat' first
    | with_reducible intro _
    | with_reducible assumption
    | with_reducible apply effNext_keeps
    | with_reducible apply instr_keeps
    | with_reducible apply State.report_keeps
    | with_reducible apply State.tileTrace_keeps

theorem execBrk_keeps {pnd : List Instr} {t : Site} {s : State} (hk : s.Keeps pnd) : outKeeps pnd (execBrk t s) := by
  unfold execBrk
  repeat' first
    | with_reducible intro _
    | with_reducible assumption
    | with_reducible apply instr_keeps
    | with_reducible apply effKeeps_trap

theorem execTret_keeps {pnd : List Instr} {t : Site} {s : State} (hk : s.Keeps pnd) : outKeeps pnd (execTret t s) := by
  unfold execTret
  repeat' first
    | with_reducible intro _
    | with_reducible assumption
    | with_reducible apply instr_keeps
    | with_reducible apply State.onCore_keeps
    | with_reducible apply effKeeps_ok
    | with_reducible apply effKeeps_trap
    | split

theorem execNop_keeps {pnd : List Instr} {t : Site} {s : State} (hk : s.Keeps pnd) : outKeeps pnd (execNop t s) := by
  unfold execNop
  repeat' first
    | with_reducible intro _
    | with_reducible assumption
    | with_reducible apply effNext_keeps
    | with_reducible apply instr_keeps

theorem execIllegalInstruction_keeps {pnd : List Instr} {t : Site} {s : State} (hk : s.Keeps pnd) :
    outKeeps pnd (execIllegalInstruction t s) := by
  unfold execIllegalInstruction
  repeat' first
    | with_reducible assumption
    | with_reducible apply State.takeTrap_keeps
    | with_reducible apply when__keeps
    | with_reducible apply outKeeps_onTile
    | with_reducible apply outKeeps_refused
    | split

theorem execEngineFault_keeps {pnd : List Instr} {t : Site} {s : State} (hk : s.Keeps pnd) :
    outKeeps pnd (execEngineFault t s) := by
  unfold execEngineFault
  repeat' first
    | with_reducible assumption
    | with_reducible apply State.onCore_keeps
    | with_reducible apply State.takeTrap_keeps
    | with_reducible apply when__keeps
    | with_reducible apply outKeeps_onTile
    | with_reducible apply outKeeps_refused
    | (extract_lets +onlyGivenNames v; clear_value v)
    | split

theorem execWaitTimeout_keeps {pnd : List Instr} {t : Site} {s : State} (hk : s.Keeps pnd) :
    outKeeps pnd (execWaitTimeout t s) := by
  unfold execWaitTimeout
  repeat' first
    | with_reducible assumption
    | with_reducible apply State.atEdge_keeps
    | with_reducible apply State.takeTrap_keeps
    | with_reducible apply when__keeps
    | with_reducible apply outKeeps_onTile
    | with_reducible apply outKeeps_refused
    | (extract_lets +onlyGivenNames v; clear_value v)
    | split

theorem execTileIdleEntry_keeps {pnd : List Instr} {t : Site} {s : State} (hk : s.Keeps pnd) :
    outKeeps pnd (execTileIdleEntry t s) := by
  unfold execTileIdleEntry
  repeat' first
    | with_reducible assumption
    | with_reducible apply State.onTile_keeps
    | with_reducible apply when__keeps
    | with_reducible apply outKeeps_onTile

end Sys2Proof.Machine
end

