-- ==== Sys2Proof/Laws/KeepsEngine.lean ====
section
/-!
SUPPORT. That every operation of the engines of the tile and the mesh keeps the invariant of Sys2Proof/Safety.lean and the
commands that wait: one lemma per operation, named after it.
-/
set_option linter.unusedSimpArgs false
set_option linter.tactic.unusedName false
set_option linter.unusedVariables false
namespace Sys2Proof.Machine

/-! ### Operands -/

theorem State.meetReads_keeps {pnd : List Instr} {s : State} {t : Site} {q g : Nat} {rs : List (Nat × Nat)} {fault : Option
    Detected} (hk : s.Keeps pnd) :
    (State.meetReads s t q g rs fault).Keeps pnd := by
  unfold State.meetReads
  repeat' first
    | with_reducible intro _
    | with_reducible assumption
    | with_reducible apply State.eccRead_keeps'
    | with_reducible apply State.genCheck_keeps
    | with_reducible apply keeps_foldl
    | with_reducible apply keeps_ite
    | (extract_lets +onlyGivenNames u; refine keeps_cut (p := pnd) u ?_ (fun _ => ?_)
       rotate_left; clear_value u; rotate_right; unfold u)
    | split

theorem State.writeCodes_keeps {pnd : List Instr} {s : State} {t : Site} {m : Mat} {r : Nat} {codes : List Nat} {g : Nat}
    (hk : s.Keeps pnd) :
    (State.writeCodes s t m r codes g).Keeps pnd := by
  unfold State.writeCodes
  repeat' first
    | with_reducible assumption
    | with_reducible apply State.writeStore_keeps

theorem State.writeRows_keeps {pnd : List Instr} {s : State} {t : Site} {m : Mat} {codes : List Nat} {g : Nat} (hk : s.Keeps
    pnd) :
    (State.writeRows s t m codes g).Keeps pnd := by
  unfold State.writeRows
  repeat' first
    | with_reducible intro _
    | with_reducible assumption
    | with_reducible apply State.writeCodes_keeps
    | with_reducible apply keeps_foldl
    | with_reducible apply keeps_ite

theorem State.launch_keeps {pnd : List Instr} {s : State} {t : Site} {q : Nat} {f : InFlight} (hk : s.Keeps pnd) :
    (State.launch s t q f).Keeps pnd := by
  unfold State.launch
  repeat' first
    | with_reducible assumption
    | with_reducible apply State.onQueue_keeps
    | with_reducible apply State.onTile_keeps

structure EngineOp.Keeps (p : List Instr) (o : EngineOp) : Prop where
  pre : ∀ s d, s.Keeps p → (o.pre s d).Keeps p
  run : ∀ s f d, s.Keeps p → fstKeeps p (o.run s f d)

theorem EngineOp.start_keeps {p : List Instr} {o : EngineOp} {t : Site} {q : Nat} {e : QEntry} {s : State} (ho : o.Keeps p)
    (h : s.Keeps p) : (o.start t q e s).Keeps p := by
  unfold EngineOp.start
  have hs : ∀ c : Option Detected, State.Keeps p
      (if (c.map (fun d => d.cause)) = some ecDesc then s else o.pre s e.desc) := by
    intro c; split
    · exact h
    · exact ho.pre _ _ h
  dsimp only
  split
  · exact State.launch_keeps (hs _)
  · exact State.launch_keeps (ho.run _ _ _ (hs _))

theorem engineBeside_keeps {p : List Instr} {name : String} {q : Nat} {t : Site} {opc : Nat → Bool}
    {beside : State → Desc → Bool} {o : EngineOp} {s : State} (ho : o.Keeps p) (h : s.Keeps p) :
    outKeeps p (engineBeside name q t opc beside o s) := by
  unfold engineBeside
  apply outKeeps_onTile
  split
  · trivial
  · exact outKeeps_when (EngineOp.start_keeps ho h)

theorem engine_keeps {p : List Instr} {name : String} {q : Nat} {t : Site} {opc : Nat → Bool} {o : EngineOp} {s : State}
    (ho : o.Keeps p) (h : s.Keeps p) : outKeeps p (engine name q t opc o s) := engineBeside_keeps ho h

theorem noPre_keeps {p : List Instr} {s : State} {d : Desc} (h : s.Keeps p) : (noPre s d).Keeps p := h

theorem State.onFlight_keeps {pnd : List Instr} {s : State} {t : Site} {q : Nat} {f : InFlight → InFlight} (hk : s.Keeps
    pnd) :
    (State.onFlight s t q f).Keeps pnd := by
  unfold State.onFlight
  repeat' first
    | with_reducible assumption
    | with_reducible apply State.onQueue_keeps

theorem State.countDone_keeps {pnd : List Instr} {s : State} {t : Site} {q : Nat} {flags : Nat} (hk : s.Keeps pnd) :
    (State.countDone s t q flags).Keeps pnd := by
  unfold State.countDone
  repeat' first
    | with_reducible assumption
    | with_reducible apply State.onQueue_keeps
    | with_reducible apply State.tileTrace_keeps
    | with_reducible apply State.wfeWake_keeps

theorem execEngineCommandComplete_keeps {pnd : List Instr} {t : Site} {q : Nat} {s : State} (hk : s.Keeps pnd) :
    outKeeps pnd (execEngineCommandComplete t q s) := by
  unfold execEngineCommandComplete
  repeat' first
    | with_reducible assumption
    | with_reducible apply State.countDone_keeps
    | with_reducible apply State.onQueue_keeps
    | with_reducible apply State.report_keeps
    | with_reducible apply State.startBackfill_keeps
    | with_reducible apply when__keeps
    | with_reducible apply outKeeps_onUnit
    | with_reducible apply outKeeps_onTile
    | with_reducible apply outKeeps_refused
    | with_reducible apply keeps_ite
    | (extract_lets +onlyGivenNames u; refine keeps_cut (p := pnd) u ?_ (fun _ => ?_)
       rotate_left; clear_value u; rotate_right; unfold u)
    | simp only [keeps_upd_iff]
    | split

theorem State.faultEffect_keeps {pnd : List Instr} {s : State} {t : Site} {q : Nat} {f : InFlight} {d : Detected} (hk :
    s.Keeps pnd) :
    (State.faultEffect s t q f d).Keeps pnd := by
  unfold State.faultEffect
  repeat' first
    | with_reducible assumption
    | with_reducible apply State.onCore_keeps
    | with_reducible apply State.onQueue_keeps

theorem State.pairedFault_keeps {pnd : List Instr} {s : State} {t : Site} (hk : s.Keeps pnd) :
    (State.pairedFault s t).Keeps pnd := by
  unfold State.pairedFault
  repeat' first
    | with_reducible assumption
    | with_reducible apply State.faultEffect_keeps
    | split

theorem execEngineFaultEffect_keeps {pnd : List Instr} {t : Site} {q : Nat} {s : State} (hk : s.Keeps pnd) :
    outKeeps pnd (execEngineFaultEffect t q s) := by
  unfold execEngineFaultEffect
  repeat' first
    | with_reducible intro _
    | with_reducible assumption
    | with_reducible apply State.faultEffect_keeps
    | with_reducible apply State.pairedFault_keeps
    | with_reducible apply when__keeps
    | with_reducible apply outKeeps_whenSome
    | with_reducible apply outKeeps_onUnit
    | with_reducible apply outKeeps_onTile
    | with_reducible apply outKeeps_refused
    | with_reducible apply keeps_ite
    | simp only [keeps_upd_iff]
    | split

theorem headControl_keeps {pnd : List Instr} {name : String} {opc : Nat → Bool} {clear : Bool} {t : Site} {q : Nat} {s :
    State} (hk : s.Keeps pnd) :
    outKeeps pnd (headControl name opc clear t q s) := by
  unfold headControl
  repeat' first
    | with_reducible assumption
    | with_reducible apply State.countDone_keeps
    | with_reducible apply State.launch_keeps
    | with_reducible apply State.onQueue_keeps
    | with_reducible apply outKeeps_next
    | with_reducible apply outKeeps_refused
    | (extract_lets +onlyGivenNames u; refine keeps_cut (p := pnd) u ?_ (fun _ => ?_)
       rotate_left; clear_value u; rotate_right; unfold u)
    | simp only [keeps_upd_iff]
    | split

theorem haltedControl_keeps {p : List Instr} {name : String} {opc : Nat} {t : Site} {q : Nat} {s : State}
    {act : QEntry → State} (h : ∀ e, (act e).Keeps p) : outKeeps p (haltedControl name opc t q s act) := by
  unfold haltedControl
  split
  · exact outKeeps_when (h _)
  · trivial

theorem execResume_keeps {pnd : List Instr} {t : Site} {q : Nat} {s : State} (hk : s.Keeps pnd) :
    outKeeps pnd (execResume t q s) := by
  unfold execResume
  repeat' first
    | with_reducible intro _
    | with_reducible assumption
    | with_reducible apply State.countDone_keeps
    | with_reducible apply haltedControl_keeps
    | with_reducible apply headControl_keeps
    | with_reducible apply State.onQueue_keeps
    | with_reducible apply outKeeps_onUnit
    | with_reducible apply outKeeps_onTile
    | (extract_lets +onlyGivenNames v; clear_value v)
    | split

theorem execRetry_keeps {pnd : List Instr} {t : Site} {q : Nat} {s : State} (hk : s.Keeps pnd) :
    outKeeps pnd (execRetry t q s) := by
  unfold execRetry
  repeat' first
    | with_reducible intro _
    | with_reducible assumption
    | with_reducible apply haltedControl_keeps
    | with_reducible apply headControl_keeps
    | with_reducible apply State.onQueue_keeps
    | with_reducible apply outKeeps_onUnit
    | with_reducible apply outKeeps_onTile
    | split

theorem execDiscard_keeps {pnd : List Instr} {t : Site} {q : Nat} {s : State} (hk : s.Keeps pnd) :
    outKeeps pnd (execDiscard t q s) := by
  unfold execDiscard
  repeat' first
    | with_reducible intro _
    | with_reducible assumption
    | with_reducible apply State.countDone_keeps
    | with_reducible apply haltedControl_keeps
    | with_reducible apply headControl_keeps
    | with_reducible apply State.onQueue_keeps
    | with_reducible apply keeps_foldl
    | with_reducible apply outKeeps_onUnit
    | with_reducible apply outKeeps_onTile
    | simp only [keeps_upd_iff]
    | split

theorem execClrflags_keeps {pnd : List Instr} {t : Site} {q : Nat} {s : State} (hk : s.Keeps pnd) :
    outKeeps pnd (execClrflags t q s) := by
  unfold execClrflags
  repeat' first
    | with_reducible assumption
    | with_reducible apply headControl_keeps
    | with_reducible apply outKeeps_onUnit
    | with_reducible apply outKeeps_onTile

/-! ### Fu -/

theorem fuEvalRun_keeps {pnd : List Instr} {t : Site} {s : State} {f : InFlight} {d : Desc} (hk : s.Keeps pnd) :
    fstKeeps pnd (fuEvalRun t s f d) := by
  unfold fuEvalRun
  repeat' first
    | with_reducible assumption
    | with_reducible apply State.meetReads_keeps
    | with_reducible apply State.writeRows_keeps
    | with_reducible apply fstKeeps_mk
    | with_reducible apply keeps_ite

theorem fuEvalRun_keeps' {pnd : List Instr} {t : Site} {s : State} {f : InFlight} {d : Desc} (hk : s.Keeps pnd) :
    (fuEvalRun t s f d).1.Keeps pnd := fuEvalRun_keeps hk

theorem execFuEval_keeps {pnd : List Instr} {t : Site} {s : State} (hk : s.Keeps pnd) : outKeeps pnd (execFuEval t s) := by
  unfold execFuEval
  repeat' first
    | with_reducible intro _
    | with_reducible assumption
    | with_reducible apply engine_keeps
    | with_reducible apply fuEvalRun_keeps
    | with_reducible apply noPre_keeps
    | with_reducible apply EngineOp.Keeps.mk

theorem fuTabPre_keeps {pnd : List Instr} {t : Site} {s : State} {d : Desc} (hk : s.Keeps pnd) :
    (fuTabPre t s d).Keeps pnd := by
  unfold fuTabPre
  repeat' first
    | with_reducible assumption
    | with_reducible apply State.meetReads_keeps
    | with_reducible apply keeps_ite

theorem fuTabRun_keeps {pnd : List Instr} {t : Site} {s : State} {f : InFlight} {d : Desc} (hk : s.Keeps pnd) :
    fstKeeps pnd (fuTabRun t s f d) := by
  unfold fuTabRun
  repeat' first
    | with_reducible assumption
    | with_reducible apply State.meetReads_keeps
    | with_reducible apply State.onTile_keeps
    | with_reducible apply fstKeeps_mk
    | with_reducible apply keeps_ite

theorem fuTabRun_keeps' {pnd : List Instr} {t : Site} {s : State} {f : InFlight} {d : Desc} (hk : s.Keeps pnd) :
    (fuTabRun t s f d).1.Keeps pnd := fuTabRun_keeps hk

theorem execFuLoadtab_keeps {pnd : List Instr} {t : Site} {s : State} (hk : s.Keeps pnd) :
    outKeeps pnd (execFuLoadtab t s) := by
  unfold execFuLoadtab
  repeat' first
    | with_reducible intro _
    | with_reducible assumption
    | with_reducible apply engine_keeps
    | with_reducible apply fuTabPre_keeps
    | with_reducible apply fuTabRun_keeps
    | with_reducible apply EngineOp.Keeps.mk

/-! ### Sparse -/

theorem State.writeScales_keeps {pnd : List Instr} {s : State} {t : Site} {m : Mat} {sbs : List Nat} {g : Nat} (hk : s.Keeps
    pnd) :
    (State.writeScales s t m sbs g).Keeps pnd := by
  unfold State.writeScales
  repeat' first
    | with_reducible assumption
    | with_reducible apply State.writeStore_keeps
    | with_reducible apply keeps_ite

theorem suConvertRun_keeps {pnd : List Instr} {t : Site} {s : State} {f : InFlight} {d : Desc} (hk : s.Keeps pnd) :
    fstKeeps pnd (suConvertRun t s f d) := by
  unfold suConvertRun
  repeat' first
    | with_reducible assumption
    | with_reducible apply State.meetReads_keeps
    | with_reducible apply State.writeRows_keeps
    | with_reducible apply State.writeScales_keeps
    | with_reducible apply fstKeeps_mk

theorem suConvertRun_keeps' {pnd : List Instr} {t : Site} {s : State} {f : InFlight} {d : Desc} (hk : s.Keeps pnd) :
    (suConvertRun t s f d).1.Keeps pnd := suConvertRun_keeps hk

theorem execSuConvert_keeps {pnd : List Instr} {t : Site} {s : State} (hk : s.Keeps pnd) :
    outKeeps pnd (execSuConvert t s) := by
  unfold execSuConvert
  repeat' first
    | with_reducible intro _
    | with_reducible assumption
    | with_reducible apply engine_keeps
    | with_reducible apply noPre_keeps
    | with_reducible apply suConvertRun_keeps
    | with_reducible apply EngineOp.Keeps.mk

theorem suPruneRun_keeps {pnd : List Instr} {t : Site} {s : State} {f : InFlight} {d : Desc} (hk : s.Keeps pnd) :
    fstKeeps pnd (suPruneRun t s f d) := by
  unfold suPruneRun
  repeat' first
    | with_reducible assumption
    | with_reducible apply State.meetReads_keeps
    | with_reducible apply State.writeRows_keeps
    | with_reducible apply State.writeScales_keeps
    | with_reducible apply fstKeeps_mk

theorem suPruneRun_keeps' {pnd : List Instr} {t : Site} {s : State} {f : InFlight} {d : Desc} (hk : s.Keeps pnd) :
    (suPruneRun t s f d).1.Keeps pnd := suPruneRun_keeps hk

theorem execSuPrune_keeps {pnd : List Instr} {t : Site} {s : State} (hk : s.Keeps pnd) : outKeeps pnd (execSuPrune t s) := by
  unfold execSuPrune
  repeat' first
    | with_reducible intro _
    | with_reducible assumption
    | with_reducible apply engine_keeps
    | with_reducible apply noPre_keeps
    | with_reducible apply suPruneRun_keeps
    | with_reducible apply EngineOp.Keeps.mk

theorem State.putPacked_keeps {pnd : List Instr} {s : State} {t : Site} {m : Img} {r j g : Nat} {p : PackedRow} (hk :
    s.Keeps pnd) :
    (State.putPacked s t m r j g p).Keeps pnd := by
  unfold State.putPacked
  repeat' first
    | with_reducible assumption
    | with_reducible apply State.writeStore_keeps
    | with_reducible apply keeps_ite

theorem suCompressRun_keeps {pnd : List Instr} {t : Site} {s : State} {f : InFlight} {d : Desc} (hk : s.Keeps pnd) :
    fstKeeps pnd (suCompressRun t s f d) := by
  unfold suCompressRun
  repeat' first
    | with_reducible intro _
    | with_reducible assumption
    | with_reducible apply State.meetReads_keeps
    | with_reducible apply State.putPacked_keeps
    | with_reducible apply State.writeStore_keeps
    | with_reducible apply keeps_foldl
    | with_reducible apply fstKeeps_mk
    | with_reducible apply keeps_ite

theorem suCompressRun_keeps' {pnd : List Instr} {t : Site} {s : State} {f : InFlight} {d : Desc} (hk : s.Keeps pnd) :
    (suCompressRun t s f d).1.Keeps pnd := suCompressRun_keeps hk

theorem execSuCompress_keeps {pnd : List Instr} {t : Site} {s : State} (hk : s.Keeps pnd) :
    outKeeps pnd (execSuCompress t s) := by
  unfold execSuCompress
  repeat' first
    | with_reducible intro _
    | with_reducible assumption
    | with_reducible apply engine_keeps
    | with_reducible apply noPre_keeps
    | with_reducible apply suCompressRun_keeps
    | with_reducible apply EngineOp.Keeps.mk

theorem imgPre_keeps {pnd : List Instr} {t : Site} {q base g : Nat} {s : State} (hk : s.Keeps pnd) :
    (imgPre t q base g s).Keeps pnd := by
  unfold imgPre
  repeat' first
    | with_reducible assumption
    | with_reducible apply State.meetReads_keeps
    | with_reducible apply keeps_ite

theorem State.putSegment_keeps {pnd : List Instr} {s : State} {t : Site} {c : Mat} {r j g : Nat} {codes : List Nat} {sb :
    Nat} (hk : s.Keeps pnd) :
    (State.putSegment s t c r j g codes sb).Keeps pnd := by
  unfold State.putSegment
  repeat' first
    | with_reducible assumption
    | with_reducible apply State.writeStore_keeps
    | with_reducible apply keeps_ite

theorem suDecompressRun_keeps {pnd : List Instr} {t : Site} {s : State} {f : InFlight} {d : Desc} (hk : s.Keeps pnd) :
    fstKeeps pnd (suDecompressRun t s f d) := by
  unfold suDecompressRun
  repeat' first
    | with_reducible intro _
    | with_reducible assumption
    | with_reducible apply State.meetReads_keeps
    | with_reducible apply State.putSegment_keeps
    | with_reducible apply keeps_foldl
    | with_reducible apply fstKeeps_mk

theorem suDecompressRun_keeps' {pnd : List Instr} {t : Site} {s : State} {f : InFlight} {d : Desc} (hk : s.Keeps pnd) :
    (suDecompressRun t s f d).1.Keeps pnd := suDecompressRun_keeps hk

theorem execSuDecompress_keeps {pnd : List Instr} {t : Site} {s : State} (hk : s.Keeps pnd) :
    outKeeps pnd (execSuDecompress t s) := by
  unfold execSuDecompress
  repeat' first
    | with_reducible intro _
    | with_reducible assumption
    | with_reducible apply engine_keeps
    | with_reducible apply imgPre_keeps
    | with_reducible apply suDecompressRun_keeps
    | with_reducible apply EngineOp.Keeps.mk

/-! ### Te -/

theorem teAccumulate_keeps {pnd : List Instr} {t : Site} {q : Nat} {s : State} {f : InFlight} {d : Desc} {b : BSource} (hk :
    s.Keeps pnd) :
    fstKeeps pnd (teAccumulate t q s f d b) := by
  unfold teAccumulate
  repeat' first
    | with_reducible intro _
    | with_reducible assumption
    | with_reducible apply State.meetReads_keeps
    | with_reducible apply keeps_foldl_fst
    | with_reducible apply fstKeeps_mk
    | simp only [keeps_upd_iff]
    | split

theorem teAccumulate_keeps' {pnd : List Instr} {t : Site} {q : Nat} {s : State} {f : InFlight} {d : Desc} {b : BSource} (hk
    : s.Keeps pnd) :
    (teAccumulate t q s f d b).1.Keeps pnd := teAccumulate_keeps hk

theorem teRun_keeps {pnd : List Instr} {t : Site} {s : State} {f : InFlight} {d : Desc} (hk : s.Keeps pnd) :
    fstKeeps pnd (teRun t s f d) := by
  unfold teRun
  repeat' first
    | with_reducible assumption
    | with_reducible apply teAccumulate_keeps'
    | with_reducible apply fstKeeps_mk
    | split

theorem teRun_keeps' {pnd : List Instr} {t : Site} {s : State} {f : InFlight} {d : Desc} (hk : s.Keeps pnd) :
    (teRun t s f d).1.Keeps pnd := teRun_keeps hk

theorem tePre_keeps {pnd : List Instr} {t : Site} {s : State} {d : Desc} (hk : s.Keeps pnd) : (tePre t s d).Keeps pnd := by
  unfold tePre
  repeat' first
    | with_reducible assumption
    | with_reducible apply imgPre_keeps
    | with_reducible apply keeps_ite

theorem teOp_keeps {pnd : List Instr} {t : Site}  : EngineOp.Keeps pnd (teOp t) := by
  unfold teOp
  repeat' first
    | with_reducible intro _
    | with_reducible assumption
    | with_reducible apply tePre_keeps
    | with_reducible apply teRun_keeps
    | with_reducible apply EngineOp.Keeps.mk

theorem execTeProduct_keeps {pnd : List Instr} {t : Site} {s : State} (hk : s.Keeps pnd) :
    outKeeps pnd (execTeProduct t s) := by
  unfold execTeProduct
  repeat' first
    | with_reducible assumption
    | with_reducible apply engineBeside_keeps
    | with_reducible apply State.onTile_keeps
    | with_reducible apply teOp_keeps
    | with_reducible apply outKeeps_onTile
    | with_reducible apply outKeeps_refused
    | split

theorem State.writeSeg_keeps {pnd : List Instr} {s : State} {t : Site} {c : Mat} {m n0 g : Nat} {codes : List Nat} (hk :
    s.Keeps pnd) :
    (State.writeSeg s t c m n0 g codes).Keeps pnd := by
  unfold State.writeSeg
  repeat' first
    | with_reducible assumption
    | with_reducible apply State.writeStore_keeps

theorem drainTile_keeps {pnd : List Instr} {t : Site} {s : State} {f : InFlight} {d : Desc} {tile : SubTile} (hk : s.Keeps
    pnd) :
    fstKeeps pnd (drainTile t s f d tile) := by
  unfold drainTile
  repeat' first
    | with_reducible intro _
    | with_reducible assumption
    | with_reducible apply State.meetReads_keeps
    | with_reducible apply State.mirrorPoint_keeps
    | with_reducible apply State.writeSeg_keeps
    | with_reducible apply keeps_foldl
    | with_reducible apply fstKeeps_mk
    | with_reducible apply keeps_ite

theorem drainTile_keeps' {pnd : List Instr} {t : Site} {s : State} {f : InFlight} {d : Desc} {tile : SubTile} (hk : s.Keeps
    pnd) :
    (drainTile t s f d tile).1.Keeps pnd := drainTile_keeps hk

theorem execTeSubtileDrain_keeps {pnd : List Instr} {t : Site} {s : State} (hk : s.Keeps pnd) :
    outKeeps pnd (execTeSubtileDrain t s) := by
  unfold execTeSubtileDrain
  repeat' first
    | with_reducible assumption
    | with_reducible apply drainTile_keeps'
    | with_reducible apply State.onQueue_keeps
    | with_reducible apply outKeeps_onTile
    | with_reducible apply outKeeps_next
    | with_reducible apply outKeeps_refused
    | simp only [keeps_upd_iff]
    | split

/-! ### Tx -/

theorem txRun_keeps {pnd : List Instr} {t : Site} {s : State} {f : InFlight} {d : Desc} (hk : s.Keeps pnd) :
    fstKeeps pnd (txRun t s f d) := by
  unfold txRun
  repeat' first
    | with_reducible assumption
    | with_reducible apply State.meetReads_keeps
    | with_reducible apply State.writeRows_keeps
    | with_reducible apply State.writeScales_keeps
    | with_reducible apply fstKeeps_mk

theorem txRun_keeps' {pnd : List Instr} {t : Site} {s : State} {f : InFlight} {d : Desc} (hk : s.Keeps pnd) :
    (txRun t s f d).1.Keeps pnd := txRun_keeps hk

theorem execTxTranspose_keeps {pnd : List Instr} {t : Site} {s : State} (hk : s.Keeps pnd) :
    outKeeps pnd (execTxTranspose t s) := by
  unfold execTxTranspose
  repeat' first
    | with_reducible intro _
    | with_reducible assumption
    | with_reducible apply engine_keeps
    | with_reducible apply noPre_keeps
    | with_reducible apply txRun_keeps
    | with_reducible apply EngineOp.Keeps.mk

theorem execTxStream_keeps {pnd : List Instr} {t : Site} {s : State} (hk : s.Keeps pnd) :
    outKeeps pnd (execTxStream t s) := by
  unfold execTxStream
  repeat' first
    | with_reducible intro _
    | with_reducible assumption
    | with_reducible apply engine_keeps
    | with_reducible apply noPre_keeps
    | with_reducible apply fstKeeps_mk
    | with_reducible apply EngineOp.Keeps.mk

theorem pairRun_keeps {pnd : List Instr} {s : State} {t : Site} {f g : InFlight} (hk : s.Keeps pnd) :
    fstKeeps pnd (pairRun s t f g) := by
  unfold pairRun
  repeat' first
    | with_reducible assumption
    | with_reducible apply State.meetReads_keeps
    | with_reducible apply teAccumulate_keeps'
    | with_reducible apply fstKeeps_mk
    | simp only [keeps_upd_iff]
    | split

theorem pairRun_keeps' {pnd : List Instr} {s : State} {t : Site} {f g : InFlight} (hk : s.Keeps pnd) :
    (pairRun s t f g).1.Keeps pnd := pairRun_keeps hk

theorem execStreamPairing_keeps {pnd : List Instr} {t : Site} {s : State} (hk : s.Keeps pnd) :
    outKeeps pnd (execStreamPairing t s) := by
  unfold execStreamPairing
  repeat' first
    | with_reducible assumption
    | with_reducible apply State.onFlight_keeps
    | with_reducible apply State.onQueue_keeps
    | with_reducible apply pairRun_keeps'
    | with_reducible apply when__keeps
    | with_reducible apply outKeeps_onTile
    | with_reducible apply outKeeps_refused
    | simp only [keeps_upd_iff]
    | split

/-! ### Ld -/

theorem ldOp_keeps {pnd : List Instr} {t : Site}  : EngineOp.Keeps pnd (ldOp t) := by
  unfold ldOp
  repeat' first
    | with_reducible intro _
    | with_reducible assumption
    | with_reducible apply noPre_keeps
    | with_reducible apply fstKeeps_mk
    | with_reducible apply EngineOp.Keeps.mk

theorem execLdLoad_keeps {pnd : List Instr} {t : Site} {s : State} (hk : s.Keeps pnd) : outKeeps pnd (execLdLoad t s) := by
  unfold execLdLoad
  repeat' first
    | with_reducible assumption
    | with_reducible apply engine_keeps
    | with_reducible apply ldOp_keeps

theorem execLdSave_keeps {pnd : List Instr} {t : Site} {s : State} (hk : s.Keeps pnd) : outKeeps pnd (execLdSave t s) := by
  unfold execLdSave
  repeat' first
    | with_reducible assumption
    | with_reducible apply engine_keeps
    | with_reducible apply ldOp_keeps

theorem ldMove_keeps {pnd : List Instr} {t : Site} {s : State} {d : Desc} {i : Nat} {err : LoamErr} (hk : s.Keeps pnd) :
    fstKeeps pnd (ldMove t s d i err) := by
  unfold ldMove
  repeat' first
    | with_reducible assumption
    | with_reducible apply State.genCheck_keeps
    | with_reducible apply State.loamDecode_keeps
    | with_reducible apply State.loamRead_keeps
    | with_reducible apply State.loamWrite_keeps
    | with_reducible apply State.mirrorPoint_keeps
    | with_reducible apply State.readStore_keeps'
    | with_reducible apply State.writeStore_keeps
    | with_reducible apply fstKeeps_mk
    | with_reducible apply keeps_ite
    | (extract_lets +onlyGivenNames u; refine keeps_cut (p := pnd) u ?_ (fun _ => ?_)
       rotate_left; clear_value u; rotate_right; unfold u)
    | (extract_lets +onlyGivenNames v; clear_value v)
    | with_reducible refine keeps_snd (by with_reducible assumption) ?_
    | split

theorem ldMove_keeps' {pnd : List Instr} {t : Site} {s : State} {d : Desc} {i : Nat} {err : LoamErr} (hk : s.Keeps pnd) :
    (ldMove t s d i err).1.Keeps pnd := ldMove_keeps hk

theorem execLoamLineRequest_keeps {pnd : List Instr} {t : Site} {src : LoamSrc} {line : Nat} {err : LoamErr} {s : State} (hk
    : s.Keeps pnd) :
    outKeeps pnd (execLoamLineRequest t src line err s) := by
  unfold execLoamLineRequest
  repeat' first
    | with_reducible intro _
    | with_reducible assumption
    | with_reducible apply ldMove_keeps'
    | with_reducible apply State.loamDecode_keeps
    | with_reducible apply State.onFlight_keeps
    | with_reducible apply State.onLoam_keeps
    | with_reducible apply State.openRow_keeps
    | with_reducible apply when__keeps
    | with_reducible apply outKeeps_whenSome
    | with_reducible apply outKeeps_onUnit
    | with_reducible apply outKeeps_onTile
    | with_reducible apply outKeeps_refused
    | with_reducible apply keeps_ite
    | (extract_lets +onlyGivenNames v; (have hv := fun x => v x); clear hv; unfold v)
    | (extract_lets +onlyGivenNames v; clear_value v)
    | simp only [keeps_upd_iff]
    | split

/-! ### Mesh -/

theorem State.onInp_keeps {p : List Instr} {s : State} {t : Site} {d : Port} {f : InPort → InPort} (h : s.Keeps p) :
    (s.onInp t d f).Keeps p := State.onRouter_keeps h

theorem State.onOutp_keeps {p : List Instr} {s : State} {t : Site} {d : Port} {f : OutPort → OutPort} (h : s.Keeps p) :
    (s.onOutp t d f).Keeps p := State.onRouter_keeps h

theorem State.freeEntry_keeps {pnd : List Instr} {s : State} {t : Site} {p : Port} {v : VC} (hk : s.Keeps pnd) :
    (State.freeEntry s t p v).Keeps pnd := by
  unfold State.freeEntry
  repeat' first
    | with_reducible assumption
    | with_reducible apply State.onOutp_keeps
    | split

theorem State.popHead_keeps {pnd : List Instr} {s : State} {t : Site} {p : Port} {v : VC} (hk : s.Keeps pnd) :
    (State.popHead s t p v).Keeps pnd := by
  unfold State.popHead
  repeat' first
    | with_reducible assumption
    | with_reducible apply State.freeEntry_keeps
    | with_reducible apply State.onInp_keeps

theorem State.deliver_keeps {pnd : List Instr} {s : State} {t : Site} {g : Grain} (hk : s.Keeps pnd) :
    (State.deliver s t g).Keeps pnd := by
  unfold State.deliver
  repeat' first
    | with_reducible assumption
    | with_reducible apply State.onNi_keeps
    | with_reducible apply keeps_ite

theorem State.sendOut_keeps {pnd : List Instr} {s : State} {t : Site} {p : Port} {v : VC} {g : Grain} (hk : s.Keeps pnd) :
    (State.sendOut s t p v g).Keeps pnd := by
  unfold State.sendOut
  repeat' first
    | with_reducible assumption
    | with_reducible apply State.deliver_keeps
    | with_reducible apply State.onOutp_keeps
    | split

theorem State.returnErr_keeps {pnd : List Instr} {s : State} {t : Site} {g : Grain} {code : Nat} (hk : s.Keeps pnd) :
    (State.returnErr s t g code).Keeps pnd := by
  unfold State.returnErr
  repeat' first
    | with_reducible assumption
    | with_reducible apply State.niSend_keeps
    | with_reducible apply keeps_ite

theorem State.accept_keeps {pnd : List Instr} {s : State} {t : Site} {p : Port} {g : Grain} (hk : s.Keeps pnd) :
    (State.accept s t p g).Keeps pnd := by
  unfold State.accept
  repeat' first
    | with_reducible assumption
    | with_reducible apply State.bump_keeps
    | with_reducible apply State.freeEntry_keeps
    | with_reducible apply State.onInp_keeps
    | with_reducible apply State.onRouter_keeps
    | with_reducible apply State.returnErr_keeps
    | with_reducible apply keeps_ite
    | (extract_lets +onlyGivenNames v; (have hv := fun x => v x); clear hv; unfold v)
    | (extract_lets +onlyGivenNames v; clear_value v)
    | split

theorem execGrainArrival_keeps {pnd : List Instr} {r : Site} {p : Port} {crcOk : Bool} {s : State} (hk : s.Keeps pnd) :
    outKeeps pnd (execGrainArrival r p crcOk s) := by
  unfold execGrainArrival
  repeat' first
    | with_reducible assumption
    | with_reducible apply State.accept_keeps
    | with_reducible apply State.bump_keeps
    | with_reducible apply State.onInp_keeps
    | with_reducible apply State.onNi_keeps
    | with_reducible apply State.onOutp_keeps
    | with_reducible apply State.onRouter_keeps
    | with_reducible apply when__keeps
    | with_reducible apply outKeeps_onSite
    | with_reducible apply outKeeps_next
    | with_reducible apply outKeeps_refused
    | with_reducible apply keeps_ite
    | simp only [keeps_upd_iff]
    | split

theorem execReplayRequest_keeps {pnd : List Instr} {r : Site} {p : Port} {s : State} (hk : s.Keeps pnd) :
    outKeeps pnd (execReplayRequest r p s) := by
  unfold execReplayRequest
  repeat' first
    | with_reducible assumption
    | with_reducible apply State.onInp_keeps
    | with_reducible apply State.onOutp_keeps
    | with_reducible apply when__keeps
    | with_reducible apply outKeeps_onSite
    | with_reducible apply outKeeps_refused
    | split

theorem execLinkCreditArrival_keeps {pnd : List Instr} {r : Site} {p : Port} {vc : VC} {s : State} (hk : s.Keeps pnd) :
    outKeeps pnd (execLinkCreditArrival r p vc s) := by
  unfold execLinkCreditArrival
  repeat' first
    | with_reducible assumption
    | with_reducible apply State.onOutp_keeps
    | with_reducible apply outKeeps_onSite
    | with_reducible apply outKeeps_next
    | with_reducible apply outKeeps_refused
    | split

theorem State.divert_keeps {pnd : List Instr} {s : State} {t : Site} {p : Port} (hk : s.Keeps pnd) :
    (State.divert s t p).Keeps pnd := by
  unfold State.divert
  repeat' first
    | with_reducible intro _
    | with_reducible assumption
    | with_reducible apply State.freeEntry_keeps
    | with_reducible apply State.onInp_keeps
    | with_reducible apply State.returnErr_keeps
    | with_reducible apply keeps_foldl
    | (extract_lets +onlyGivenNames u; refine keeps_cut (p := pnd) u ?_ (fun _ => ?_)
       rotate_left; clear_value u; rotate_right; unfold u)
    | (extract_lets +onlyGivenNames v; (have hv := fun x => v x); clear hv; unfold v)
    | (extract_lets +onlyGivenNames v; clear_value v)
    | split

theorem State.failSide_keeps {pnd : List Instr} {s : State} {t : Site} {p : Port} (hk : s.Keeps pnd) :
    (State.failSide s t p).Keeps pnd := by
  unfold State.failSide
  repeat' first
    | with_reducible assumption
    | with_reducible apply State.alarm_keeps
    | with_reducible apply State.bump_keeps
    | with_reducible apply State.divert_keeps
    | with_reducible apply State.onNi_keeps
    | with_reducible apply State.onOutp_keeps
    | with_reducible apply keeps_ite
    | simp only [keeps_upd_iff]

theorem State.failLink_keeps {pnd : List Instr} {s : State} {t : Site} {p : Port} (hk : s.Keeps pnd) :
    (State.failLink s t p).Keeps pnd := by
  unfold State.failLink
  repeat' first
    | with_reducible assumption
    | with_reducible apply State.failSide_keeps
    | split

theorem execLinkFailed_keeps {pnd : List Instr} {r : Site} {p : Port} {s : State} (hk : s.Keeps pnd) :
    outKeeps pnd (execLinkFailed r p s) := by
  unfold execLinkFailed
  repeat' first
    | with_reducible assumption
    | with_reducible apply State.failLink_keeps
    | with_reducible apply when__keeps
    | with_reducible apply outKeeps_onSite

theorem execForwardedClockStop_keeps {pnd : List Instr} {r : Site} {p : Port} {s : State} (hk : s.Keeps pnd) :
    outKeeps pnd (execForwardedClockStop r p s) := by
  unfold execForwardedClockStop
  repeat' first
    | with_reducible assumption
    | with_reducible apply State.failSide_keeps
    | with_reducible apply when__keeps
    | with_reducible apply outKeeps_onSite
    | with_reducible apply outKeeps_refused
    | split

theorem execOutputPortSend_keeps {pnd : List Instr} {r : Site} {p : Port} {s : State} (hk : s.Keeps pnd) :
    outKeeps pnd (execOutputPortSend r p s) := by
  unfold execOutputPortSend
  repeat' first
    | with_reducible assumption
    | with_reducible apply State.onOutp_keeps
    | with_reducible apply State.popHead_keeps
    | with_reducible apply State.sendOut_keeps
    | with_reducible apply outKeeps_onSite
    | with_reducible apply outKeeps_next
    | with_reducible apply outKeeps_refused
    | split

theorem execMeshEscWait_keeps {pnd : List Instr} {r : Site} {p : Port} {vc : VC} {s : State} (hk : s.Keeps pnd) :
    outKeeps pnd (execMeshEscWait r p vc s) := by
  unfold execMeshEscWait
  repeat' first
    | with_reducible assumption
    | with_reducible apply State.onInp_keeps
    | with_reducible apply when__keeps
    | with_reducible apply outKeeps_onSite
    | with_reducible apply outKeeps_refused
    | split

theorem execEscapeMove_keeps {pnd : List Instr} {r : Site} {p : Port} {vc : VC} {s : State} (hk : s.Keeps pnd) :
    outKeeps pnd (execEscapeMove r p vc s) := by
  unfold execEscapeMove
  repeat' first
    | with_reducible assumption
    | with_reducible apply State.count_keeps
    | with_reducible apply State.niSend_keeps
    | with_reducible apply State.popHead_keeps
    | with_reducible apply State.returnErr_keeps
    | with_reducible apply State.sendOut_keeps
    | with_reducible apply when__keeps
    | with_reducible apply outKeeps_onSite
    | with_reducible apply outKeeps_next
    | with_reducible apply outKeeps_refused
    | with_reducible apply keeps_ite
    | (extract_lets +onlyGivenNames u; refine keeps_cut (p := pnd) u ?_ (fun _ => ?_)
       rotate_left; clear_value u; rotate_right; unfold u)
    | split

theorem execPrismForward_keeps {pnd : List Instr} {r : Site} {p : Port} {s : State} (hk : s.Keeps pnd) :
    outKeeps pnd (execPrismForward r p s) := by
  unfold execPrismForward
  repeat' first
    | with_reducible intro _
    | with_reducible assumption
    | with_reducible apply State.onRouter_keeps
    | with_reducible apply State.popHead_keeps
    | with_reducible apply State.returnErr_keeps
    | with_reducible apply State.sendOut_keeps
    | with_reducible apply when__keeps
    | with_reducible apply keeps_foldl
    | with_reducible apply outKeeps_onSite
    | with_reducible apply outKeeps_next
    | with_reducible apply outKeeps_refused
    | with_reducible apply keeps_ite
    | simp only [keeps_upd_iff]
    | split

theorem execMeshCfgWrite_keeps {pnd : List Instr} {v : Dword} {s : State} (hk : s.Keeps pnd) :
    outKeeps pnd (execMeshCfgWrite v s) := by
  unfold execMeshCfgWrite
  repeat' first
    | with_reducible assumption
    | with_reducible apply State.setFld_keeps
    | with_reducible apply outKeeps_next

theorem execMeshRouterQuery_keeps {pnd : List Instr} {rlink : Bool} {s : State} (hk : s.Keeps pnd) :
    outKeeps pnd (execMeshRouterQuery rlink s) := by
  unfold execMeshRouterQuery
  repeat' first
    | with_reducible assumption
    | with_reducible apply outKeeps_next
    | simp only [keeps_upd_iff]

theorem execRouteTableRead_keeps {pnd : List Instr} {s : State} (hk : s.Keeps pnd) : outKeeps pnd (execRouteTableRead s) := by
  unfold execRouteTableRead
  repeat' first
    | with_reducible assumption
    | with_reducible apply outKeeps_next
    | simp only [keeps_upd_iff]

end Sys2Proof.Machine
end

