-- ==== Sys2Proof/Laws/KeepsNi.lean ====
section
/-!
SUPPORT. That every operation of the network interface keeps the invariant of Sys2Proof/Safety.lean and the
commands that wait: one lemma per operation, named after it.
-/
set_option linter.unusedSimpArgs false
set_option linter.tactic.unusedName false
set_option linter.unusedVariables false
namespace Sys2Proof.Machine

/-! ### Ni -/

theorem State.onTx_keeps {pnd : List Instr} {s : State} {t : Site} {p : TxConn → Bool} {f : TxConn → TxConn} (hk : s.Keeps
    pnd) :
    (State.onTx s t p f).Keeps pnd := by
  unfold State.onTx
  repeat' first
    | with_reducible assumption
    | with_reducible apply State.onNi_keeps

theorem State.emitPair_keeps {pnd : List Instr} {s : State} {t peer : Site} {gs : List (Nat × Bool × Payload)} (hk : s.Keeps
    pnd) :
    (State.emitPair s t peer gs).Keeps pnd := by
  unfold State.emitPair
  repeat' first
    | with_reducible assumption
    | with_reducible apply State.onNi_keeps
    | with_reducible apply State.onTx_keeps
    | with_reducible apply keeps_ite

theorem State.inKind_keeps {pnd : List Instr} {s : State} {t : Site} {k : Nat} {p : Grain → Bool} (hk : s.Keeps pnd) :
    optSnd pnd (State.inKind s t k p) := by
  unfold State.inKind
  repeat' first
    | with_reducible intro _
    | with_reducible assumption
    | with_reducible apply State.onNi_keeps
    | with_reducible apply optSnd_map

theorem State.readyKind_keeps {pnd : List Instr} {s : State} {t : Site} {k : Nat} (hk : s.Keeps pnd) :
    optSnd pnd (State.readyKind s t k) := by
  unfold State.readyKind
  repeat' first
    | with_reducible intro _
    | with_reducible assumption
    | with_reducible apply State.onNi_keeps
    | with_reducible apply optSnd_map

theorem execEscnReceive_keeps {pnd : List Instr} {t : Site} {s : State} (hk : s.Keeps pnd) :
    outKeeps pnd (execEscnReceive t s) := by
  unfold execEscnReceive
  repeat' first
    | with_reducible intro _
    | with_reducible assumption
    | with_reducible apply State.inKind_keeps
    | with_reducible apply State.onNi_keeps
    | with_reducible apply outKeeps_whenSome
    | with_reducible apply outKeeps_onSite
    | with_reducible apply outKeeps_next
    | with_reducible refine keeps_optSnd (by with_reducible assumption) ?_

theorem execGrainAccept_keeps {pnd : List Instr} {t : Site} {s : State} (hk : s.Keeps pnd) :
    outKeeps pnd (execGrainAccept t s) := by
  unfold execGrainAccept
  repeat' first
    | with_reducible intro _
    | with_reducible assumption
    | with_reducible apply State.niSend_keeps
    | with_reducible apply State.onNi_keeps
    | with_reducible apply State.returnErr_keeps
    | with_reducible apply keeps_foldl
    | with_reducible apply outKeeps_onSite
    | with_reducible apply outKeeps_next
    | with_reducible apply outKeeps_refused
    | with_reducible apply keeps_ite
    | simp only [keeps_upd_iff]
    | split

theorem execAckReceive_keeps {pnd : List Instr} {t : Site} {s : State} (hk : s.Keeps pnd) :
    outKeeps pnd (execAckReceive t s) := by
  unfold execAckReceive
  repeat' first
    | with_reducible intro _
    | with_reducible assumption
    | with_reducible apply State.inKind_keeps
    | with_reducible apply State.onTx_keeps
    | with_reducible apply outKeeps_whenSome
    | with_reducible apply outKeeps_onSite
    | with_reducible apply outKeeps_next
    | with_reducible refine keeps_optSnd (by with_reducible assumption) ?_

theorem State.sendOpen_keeps {pnd : List Instr} {s : State} {t : Site} {o : OpenReq} (hk : s.Keeps pnd) :
    (State.sendOpen s t o).Keeps pnd := by
  unfold State.sendOpen
  repeat' first
    | with_reducible assumption
    | with_reducible apply State.niSend_keeps

theorem State.startOpen_keeps {p : List Instr} {s : State} {t : Site} {module vx vy port : Nat} {entry : Option Nat}
    (h : s.Keeps p) : exSnd p (s.startOpen t module vx vy port entry) := by
  unfold State.startOpen exSnd
  intro e
  repeat' split
  all_goals (intro he; first | (cases he; done) | (cases he; exact State.sendOpen_keeps (State.onNi_keeps h)))

theorem execOpenConn_keeps {pnd : List Instr} {t : Site} {s : State} (hk : s.Keeps pnd) :
    outKeeps pnd (execOpenConn t s) := by
  unfold execOpenConn
  repeat' first
    | with_reducible intro _
    | with_reducible assumption
    | with_reducible apply effBlock_keeps
    | with_reducible apply effReg_keeps
    | with_reducible apply instr_keeps
    | with_reducible apply State.startOpen_keeps
    | (extract_lets +onlyGivenNames v; clear_value v)
    | with_reducible refine keeps_exSnd (by with_reducible assumption) ?_
    | split

theorem State.bind_keeps {pnd : List Instr} {s : State} {t : Site} {port conn : Nat} {src : Site} (hk : s.Keeps pnd) :
    (State.bind s t port conn src).Keeps pnd := by
  unfold State.bind
  repeat' first
    | with_reducible assumption
    | with_reducible apply State.onNi_keeps

theorem execOpenRequest_keeps {pnd : List Instr} {t : Site} {s : State} (hk : s.Keeps pnd) :
    outKeeps pnd (execOpenRequest t s) := by
  unfold execOpenRequest
  repeat' first
    | with_reducible intro _
    | with_reducible assumption
    | with_reducible apply State.bind_keeps
    | with_reducible apply State.inKind_keeps
    | with_reducible apply State.niSend_keeps
    | with_reducible apply outKeeps_whenSome
    | with_reducible apply outKeeps_onTile
    | with_reducible apply outKeeps_next
    | with_reducible refine keeps_optSnd (by with_reducible assumption) ?_
    | simp only [keeps_upd_iff]
    | split

theorem State.openResult_keeps {pnd : List Instr} {s : State} {t : Site} {o : OpenReq} {conn : Except Nat Nat} (hk : s.Keeps
    pnd) :
    (State.openResult s t o conn).Keeps pnd := by
  unfold State.openResult
  repeat' first
    | with_reducible assumption
    | with_reducible apply State.eccRead_keeps'
    | with_reducible apply State.onNi_keeps
    | with_reducible apply State.retire_keeps
    | with_reducible apply State.setBytes_keeps
    | with_reducible apply keeps_ite
    | (extract_lets +onlyGivenNames v; clear_value v)
    | split

theorem execOpenrReceive_keeps {pnd : List Instr} {t : Site} {s : State} (hk : s.Keeps pnd) :
    outKeeps pnd (execOpenrReceive t s) := by
  unfold execOpenrReceive
  repeat' first
    | with_reducible intro _
    | with_reducible assumption
    | with_reducible apply State.inKind_keeps
    | with_reducible apply State.onNi_keeps
    | with_reducible apply State.openResult_keeps
    | with_reducible apply State.sendOpen_keeps
    | with_reducible apply outKeeps_whenSome
    | with_reducible apply outKeeps_onTile
    | with_reducible apply outKeeps_next
    | with_reducible refine keeps_optSnd (by with_reducible assumption) ?_
    | simp only [keeps_upd_iff]
    | split

theorem State.closeTx_keeps {pnd : List Instr} {s : State} {t : Site} {c : Nat} (hk : s.Keeps pnd) :
    (State.closeTx s t c).Keeps pnd := by
  unfold State.closeTx
  repeat' first
    | with_reducible assumption
    | with_reducible apply State.onNi_keeps

theorem execClose_keeps {pnd : List Instr} {t : Site} {s : State} (hk : s.Keeps pnd) : outKeeps pnd (execClose t s) := by
  unfold execClose
  repeat' first
    | with_reducible intro _
    | with_reducible assumption
    | with_reducible apply State.closeTx_keeps
    | with_reducible apply effNext_keeps
    | with_reducible apply instr_keeps

theorem State.sendClose_keeps {pnd : List Instr} {s : State} {t : Site} {x : TxConn} (hk : s.Keeps pnd) :
    (State.sendClose s t x).Keeps pnd := by
  unfold State.sendClose
  repeat' first
    | with_reducible assumption
    | with_reducible apply State.niSend_keeps
    | with_reducible apply State.onNi_keeps

theorem execCloseGrainSend_keeps {pnd : List Instr} {t : Site} {conn : Nat} {s : State} (hk : s.Keeps pnd) :
    outKeeps pnd (execCloseGrainSend t conn s) := by
  unfold execCloseGrainSend
  repeat' first
    | with_reducible intro _
    | with_reducible assumption
    | with_reducible apply State.sendClose_keeps
    | with_reducible apply when__keeps
    | with_reducible apply outKeeps_whenSome
    | with_reducible apply outKeeps_onTile

theorem execCloseGrainReceive_keeps {pnd : List Instr} {t : Site} {s : State} (hk : s.Keeps pnd) :
    outKeeps pnd (execCloseGrainReceive t s) := by
  unfold execCloseGrainReceive
  repeat' first
    | with_reducible intro _
    | with_reducible assumption
    | with_reducible apply State.inKind_keeps
    | with_reducible apply State.onNi_keeps
    | with_reducible apply State.settleClose_keeps
    | with_reducible apply outKeeps_whenSome
    | with_reducible apply outKeeps_onTile
    | with_reducible apply outKeeps_next
    | with_reducible refine keeps_optSnd (by with_reducible assumption) ?_
    | split

theorem execRemoteWrite_keeps {pnd : List Instr} {t : Site} {s : State} (hk : s.Keeps pnd) :
    outKeeps pnd (execRemoteWrite t s) := by
  unfold execRemoteWrite
  repeat' first
    | with_reducible intro _
    | with_reducible assumption
    | with_reducible apply State.emitPair_keeps
    | with_reducible apply State.loamPut_keeps
    | with_reducible apply State.readyKind_keeps
    | with_reducible apply State.returnErr_keeps
    | with_reducible apply State.setBytes_keeps
    | with_reducible apply State.writeStore_keeps
    | with_reducible apply outKeeps_whenSome
    | with_reducible apply outKeeps_onSite
    | with_reducible apply outKeeps_next
    | with_reducible refine keeps_optSnd (by with_reducible assumption) ?_
    | simp only [keeps_upd_iff]
    | split

theorem execRemoteRead_keeps {pnd : List Instr} {t : Site} {s : State} (hk : s.Keeps pnd) :
    outKeeps pnd (execRemoteRead t s) := by
  unfold execRemoteRead
  repeat' first
    | with_reducible intro _
    | with_reducible assumption
    | with_reducible apply State.emitPair_keeps
    | with_reducible apply State.loamBytes_keeps'
    | with_reducible apply State.readStore_keeps'
    | with_reducible apply State.readyKind_keeps
    | with_reducible apply State.returnErr_keeps
    | with_reducible apply outKeeps_whenSome
    | with_reducible apply outKeeps_onSite
    | with_reducible apply outKeeps_next
    | with_reducible apply sndKeeps_mk
    | with_reducible refine keeps_snd (by with_reducible assumption) ?_
    | with_reducible refine keeps_optSnd (by with_reducible assumption) ?_
    | simp only [keeps_upd_iff]
    | split

theorem execWraReceive_keeps {pnd : List Instr} {t : Site} {s : State} (hk : s.Keeps pnd) :
    outKeeps pnd (execWraReceive t s) := by
  unfold execWraReceive
  repeat' first
    | with_reducible intro _
    | with_reducible assumption
    | with_reducible apply State.onFlight_keeps
    | with_reducible apply State.readyKind_keeps
    | with_reducible apply outKeeps_whenSome
    | with_reducible apply outKeeps_onTile
    | with_reducible apply outKeeps_next
    | with_reducible refine keeps_optSnd (by with_reducible assumption) ?_

theorem execRdrReceive_keeps {pnd : List Instr} {t : Site} {s : State} (hk : s.Keeps pnd) :
    outKeeps pnd (execRdrReceive t s) := by
  unfold execRdrReceive
  repeat' first
    | with_reducible intro _
    | with_reducible assumption
    | with_reducible apply State.onFlight_keeps
    | with_reducible apply State.readyKind_keeps
    | with_reducible apply State.writeStore_keeps
    | with_reducible apply outKeeps_whenSome
    | with_reducible apply outKeeps_onTile
    | with_reducible apply outKeeps_next
    | with_reducible apply keeps_ite
    | with_reducible refine keeps_optSnd (by with_reducible assumption) ?_
    | simp only [keeps_upd_iff]
    | split

theorem State.refusedTx_keeps {pnd : List Instr} {s : State} {t : Site} {c seq : Nat} (hk : s.Keeps pnd) :
    (State.refusedTx s t c seq).Keeps pnd := by
  unfold State.refusedTx
  repeat' first
    | with_reducible assumption
    | with_reducible apply State.onTx_keeps

theorem execErrReceive_keeps {pnd : List Instr} {t : Site} {s : State} (hk : s.Keeps pnd) :
    outKeeps pnd (execErrReceive t s) := by
  unfold execErrReceive
  repeat' first
    | with_reducible intro _
    | with_reducible assumption
    | with_reducible apply State.refusedTx_keeps
    | with_reducible apply State.inKind_keeps
    | with_reducible apply State.onFlight_keeps
    | with_reducible apply State.openResult_keeps
    | with_reducible apply State.report_keeps
    | with_reducible apply outKeeps_whenSome
    | with_reducible apply outKeeps_onTile
    | with_reducible apply outKeeps_next
    | with_reducible apply keeps_ite
    | with_reducible refine keeps_optSnd (by with_reducible assumption) ?_
    | simp only [keeps_upd_iff]
    | split

theorem execSvcAccess_keeps {pnd : List Instr} {t : Site} {s : State} (hk : s.Keeps pnd) :
    outKeeps pnd (execSvcAccess t s) := by
  unfold execSvcAccess
  repeat' first
    | with_reducible intro _
    | with_reducible assumption
    | with_reducible apply State.ctrlWrite_keeps
    | with_reducible apply State.inKind_keeps
    | with_reducible apply State.returnErr_keeps
    | with_reducible apply State.takeFree_keeps'
    | with_reducible apply outKeeps_whenSome
    | with_reducible apply outKeeps_onSite
    | with_reducible apply outKeeps_next
    | with_reducible refine keeps_optSnd (by with_reducible assumption) ?_
    | simp only [keeps_upd_iff]
    | split

/-! ### NiStream -/

theorem State.sendItem_keeps {pnd : List Instr} {s : State} {t : Site} {c : Nat} {bs : List Byte} (hk : s.Keeps pnd) :
    (State.sendItem s t c bs).Keeps pnd := by
  unfold State.sendItem
  repeat' first
    | with_reducible assumption
    | with_reducible apply State.onTx_keeps

theorem State.readAny_keeps {pnd : List Instr} {s : State} {t : Site} {off n : Nat} (hk : s.Keeps pnd) :
    sndKeeps pnd (State.readAny s t off n) := by
  unfold State.readAny
  repeat' first
    | with_reducible intro _
    | with_reducible assumption
    | with_reducible apply State.readStore_keeps'
    | with_reducible apply State.takeFree_keeps'
    | with_reducible apply keeps_foldl_snd
    | with_reducible apply sndKeeps_mk

theorem State.readAny_keeps' {pnd : List Instr} {s : State} {t : Site} {off n : Nat} (hk : s.Keeps pnd) :
    (State.readAny s t off n).2.Keeps pnd := State.readAny_keeps hk

theorem sendsNext_keeps {pnd : List Instr} {t : Site} {s : State} {f : InFlight} {k : Nat} (hk : s.Keeps pnd) :
    fstKeeps pnd (sendsNext t s f k) := by
  unfold sendsNext
  repeat' first
    | with_reducible assumption
    | with_reducible apply State.eccRead_keeps'
    | with_reducible apply State.genCheck_keeps
    | with_reducible apply State.mirrorPoint_keeps
    | with_reducible apply State.readStore_keeps'
    | with_reducible apply State.sendItem_keeps
    | with_reducible apply fstKeeps_mk
    | (extract_lets +onlyGivenNames u; refine keeps_cut (p := pnd) u ?_ (fun _ => ?_)
       rotate_left; clear_value u; rotate_right; unfold u)
    | (extract_lets +onlyGivenNames v; clear_value v)
    | split

theorem sendsNext_keeps' {pnd : List Instr} {t : Site} {s : State} {f : InFlight} {k : Nat} (hk : s.Keeps pnd) :
    (sendsNext t s f k).1.Keeps pnd := sendsNext_keeps hk

theorem sendsOp_keeps {pnd : List Instr} {t : Site}  : EngineOp.Keeps pnd (sendsOp t) := by
  unfold sendsOp
  repeat' first
    | with_reducible intro _
    | with_reducible assumption
    | with_reducible apply noPre_keeps
    | with_reducible apply sendsNext_keeps
    | with_reducible apply EngineOp.Keeps.mk

theorem execSends_keeps {pnd : List Instr} {t : Site} {s : State} (hk : s.Keeps pnd) : outKeeps pnd (execSends t s) := by
  unfold execSends
  repeat' first
    | with_reducible assumption
    | with_reducible apply engine_keeps
    | with_reducible apply State.onFlight_keeps
    | with_reducible apply sendsNext_keeps'
    | with_reducible apply sendsOp_keeps
    | with_reducible apply when__keeps
    | with_reducible apply outKeeps_onTile
    | with_reducible apply outKeeps_refused
    | simp only [keeps_upd_iff]
    | split

theorem State.recvDone_keeps {pnd : List Instr} {s : State} {t : Site} (hk : s.Keeps pnd) :
    (State.recvDone s t).Keeps pnd := by
  unfold State.recvDone
  repeat' first
    | with_reducible assumption
    | with_reducible apply State.onFlight_keeps

theorem recvOp_keeps {pnd : List Instr} {t : Site}  : EngineOp.Keeps pnd (recvOp t) := by
  unfold recvOp
  repeat' first
    | with_reducible intro _
    | with_reducible assumption
    | with_reducible apply noPre_keeps
    | with_reducible apply State.onPort_keeps
    | with_reducible apply State.releaseItems_keeps
    | with_reducible apply fstKeeps_mk
    | with_reducible apply EngineOp.Keeps.mk

theorem execRecv_keeps {pnd : List Instr} {t : Site} {s : State} (hk : s.Keeps pnd) : outKeeps pnd (execRecv t s) := by
  unfold execRecv
  repeat' first
    | with_reducible assumption
    | with_reducible apply engine_keeps
    | with_reducible apply recvOp_keeps

theorem putNext_keeps {pnd : List Instr} {t : Site} {s : State} {f : InFlight} (hk : s.Keeps pnd) :
    fstKeeps pnd (putNext t s f) := by
  unfold putNext
  repeat' first
    | with_reducible assumption
    | with_reducible apply State.eccRead_keeps'
    | with_reducible apply State.emitPair_keeps
    | with_reducible apply State.genCheck_keeps
    | with_reducible apply State.mirrorPoint_keeps
    | with_reducible apply State.readStore_keeps'
    | with_reducible apply fstKeeps_mk
    | (extract_lets +onlyGivenNames u; refine keeps_cut (p := pnd) u ?_ (fun _ => ?_)
       rotate_left; clear_value u; rotate_right; unfold u)
    | (extract_lets +onlyGivenNames v; clear_value v)
    | split

theorem putNext_keeps' {pnd : List Instr} {t : Site} {s : State} {f : InFlight} (hk : s.Keeps pnd) :
    (putNext t s f).1.Keeps pnd := putNext_keeps hk

theorem getNext_keeps {pnd : List Instr} {t : Site} {s : State} {f : InFlight} (hk : s.Keeps pnd) :
    fstKeeps pnd (getNext t s f) := by
  unfold getNext
  repeat' first
    | with_reducible assumption
    | with_reducible apply State.emitPair_keeps
    | with_reducible apply fstKeeps_mk
    | split

theorem getNext_keeps' {pnd : List Instr} {t : Site} {s : State} {f : InFlight} (hk : s.Keeps pnd) :
    (getNext t s f).1.Keeps pnd := getNext_keeps hk

theorem putOp_keeps {pnd : List Instr} {t : Site}  : EngineOp.Keeps pnd (putOp t) := by
  unfold putOp
  repeat' first
    | with_reducible intro _
    | with_reducible assumption
    | with_reducible apply noPre_keeps
    | with_reducible apply putNext_keeps
    | with_reducible apply EngineOp.Keeps.mk

theorem getOp_keeps {pnd : List Instr} {t : Site}  : EngineOp.Keeps pnd (getOp t) := by
  unfold getOp
  repeat' first
    | with_reducible intro _
    | with_reducible assumption
    | with_reducible apply getNext_keeps
    | with_reducible apply noPre_keeps
    | with_reducible apply EngineOp.Keeps.mk

theorem execPut_keeps {pnd : List Instr} {t : Site} {s : State} (hk : s.Keeps pnd) : outKeeps pnd (execPut t s) := by
  unfold execPut
  repeat' first
    | with_reducible assumption
    | with_reducible apply engine_keeps
    | with_reducible apply State.onFlight_keeps
    | with_reducible apply putNext_keeps'
    | with_reducible apply putOp_keeps
    | with_reducible apply when__keeps
    | with_reducible apply outKeeps_onTile
    | simp only [keeps_upd_iff]
    | split

theorem execGet_keeps {pnd : List Instr} {t : Site} {s : State} (hk : s.Keeps pnd) : outKeeps pnd (execGet t s) := by
  unfold execGet
  repeat' first
    | with_reducible assumption
    | with_reducible apply engine_keeps
    | with_reducible apply getNext_keeps'
    | with_reducible apply getOp_keeps
    | with_reducible apply State.onFlight_keeps
    | with_reducible apply when__keeps
    | with_reducible apply outKeeps_onTile
    | simp only [keeps_upd_iff]
    | split

theorem State.onSteer_keeps {pnd : List Instr} {s : State} {t : Site} {u : Nat} {f : SteerRt → SteerRt} (hk : s.Keeps pnd) :
    (State.onSteer s t u f).Keeps pnd := by
  unfold State.onSteer
  repeat' first
    | with_reducible assumption
    | with_reducible apply State.onNi_keeps

theorem State.pairUp_keeps {pnd : List Instr} {s : State} {t : Site} {u : Nat} (hk : s.Keeps pnd) :
    (State.pairUp s t u).Keeps pnd := by
  unfold State.pairUp
  repeat' first
    | with_reducible assumption
    | with_reducible apply State.onSteer_keeps
    | with_reducible apply keeps_ite

theorem State.itemIn_keeps {pnd : List Instr} {s : State} {t : Site} (hk : s.Keeps pnd) : (State.itemIn s t).Keeps pnd := by
  unfold State.itemIn
  repeat' first
    | with_reducible intro _
    | with_reducible assumption
    | with_reducible apply State.pairUp_keeps
    | with_reducible apply State.recvDone_keeps
    | with_reducible apply keeps_foldl

theorem State.noteMerge_keeps {pnd : List Instr} {s : State} {t : Site} {p : Nat} (hk : s.Keeps pnd) :
    (State.noteMerge s t p).Keeps pnd := by
  unfold State.noteMerge
  repeat' first
    | with_reducible intro _
    | with_reducible assumption
    | with_reducible apply State.onSteer_keeps
    | with_reducible apply keeps_foldl
    | with_reducible apply keeps_ite

theorem execItemArrival_keeps {pnd : List Instr} {t : Site} {s : State} (hk : s.Keeps pnd) :
    outKeeps pnd (execItemArrival t s) := by
  unfold execItemArrival
  repeat' first
    | with_reducible intro _
    | with_reducible assumption
    | with_reducible apply State.itemIn_keeps
    | with_reducible apply State.noteMerge_keeps
    | with_reducible apply State.onNi_keeps
    | with_reducible apply State.onPort_keeps
    | with_reducible apply State.setBytes_keeps
    | with_reducible apply when__keeps
    | with_reducible apply State.writeStore_keeps
    | with_reducible apply outKeeps_whenSome
    | with_reducible apply outKeeps_onTile
    | with_reducible apply outKeeps_next
    | with_reducible apply outKeeps_refused
    | simp only [keeps_upd_iff]
    | split

theorem execSpillReadbackDone_keeps {pnd : List Instr} {t : Site} {port : Nat} {s : State} (hk : s.Keeps pnd) :
    outKeeps pnd (execSpillReadbackDone t port s) := by
  unfold execSpillReadbackDone
  repeat' first
    | with_reducible assumption
    | with_reducible apply State.itemIn_keeps
    | with_reducible apply State.onPort_keeps
    | with_reducible apply when__keeps
    | with_reducible apply State.writeStore_keeps
    | with_reducible apply outKeeps_onUnit
    | with_reducible apply outKeeps_onTile
    | with_reducible apply outKeeps_refused
    | (extract_lets +onlyGivenNames v; clear_value v)
    | simp only [keeps_upd_iff]
    | split

theorem execStreamCredit_keeps {pnd : List Instr} {t : Site} {s : State} (hk : s.Keeps pnd) :
    outKeeps pnd (execStreamCredit t s) := by
  unfold execStreamCredit
  repeat' first
    | with_reducible intro _
    | with_reducible assumption
    | with_reducible apply State.inKind_keeps
    | with_reducible apply State.onTx_keeps
    | with_reducible apply outKeeps_whenSome
    | with_reducible apply outKeeps_onTile
    | with_reducible apply outKeeps_next
    | with_reducible refine keeps_optSnd (by with_reducible assumption) ?_
    | split

theorem State.slotItem_keeps {pnd : List Instr} {s : State} {t : Site} {p i : Nat} (hk : s.Keeps pnd) :
    sndKeeps pnd (State.slotItem s t p i) := by
  unfold State.slotItem
  repeat' first
    | with_reducible assumption
    | with_reducible apply State.readAny_keeps

theorem State.slotItem_keeps' {pnd : List Instr} {s : State} {t : Site} {p i : Nat} (hk : s.Keeps pnd) :
    (State.slotItem s t p i).2.Keeps pnd := State.slotItem_keeps hk

theorem execSteerMerge_keeps {pnd : List Instr} {t : Site} {u : Nat} {s : State} (hk : s.Keeps pnd) :
    outKeeps pnd (execSteerMerge t u s) := by
  unfold execSteerMerge
  repeat' first
    | with_reducible assumption
    | with_reducible apply State.onSteer_keeps
    | with_reducible apply State.releaseItems_keeps
    | with_reducible apply State.sendItem_keeps
    | with_reducible apply State.slotItem_keeps'
    | with_reducible apply when__keeps
    | with_reducible apply outKeeps_onUnit
    | with_reducible apply outKeeps_onTile
    | with_reducible apply keeps_ite

theorem execSteerSplit_keeps {pnd : List Instr} {t : Site} {u : Nat} {s : State} (hk : s.Keeps pnd) :
    outKeeps pnd (execSteerSplit t u s) := by
  unfold execSteerSplit
  repeat' first
    | with_reducible intro _
    | with_reducible assumption
    | with_reducible apply State.releaseItems_keeps
    | with_reducible apply State.sendItem_keeps
    | with_reducible apply State.slotItem_keeps'
    | with_reducible apply when__keeps
    | with_reducible apply keeps_foldl
    | with_reducible apply outKeeps_onUnit
    | with_reducible apply outKeeps_onTile

theorem State.token_keeps {pnd : List Instr} {s : State} {t : Site} {u i : Nat} (hk : s.Keeps pnd) :
    sndKeeps pnd (State.token s t u i) := by
  unfold State.token
  repeat' first
    | with_reducible assumption
    | with_reducible apply State.readAny_keeps'
    | with_reducible apply sndKeeps_mk

theorem State.token_keeps' {pnd : List Instr} {s : State} {t : Site} {u i : Nat} (hk : s.Keeps pnd) :
    (State.token s t u i).2.Keeps pnd := State.token_keeps hk

theorem State.finishPair_keeps {pnd : List Instr} {s : State} {t : Site} {u : Nat} {e : PairEnt} (hk : s.Keeps pnd) :
    (State.finishPair s t u e).Keeps pnd := by
  unfold State.finishPair
  repeat' first
    | with_reducible assumption
    | with_reducible apply State.onSteer_keeps
    | with_reducible apply State.pairUp_keeps
    | with_reducible apply State.releaseItems_keeps
    | with_reducible apply keeps_ite

theorem execSteerSelect_keeps {pnd : List Instr} {t : Site} {u : Nat} {s : State} (hk : s.Keeps pnd) :
    outKeeps pnd (execSteerSelect t u s) := by
  unfold execSteerSelect
  repeat' first
    | with_reducible intro _
    | with_reducible assumption
    | with_reducible apply State.finishPair_keeps
    | with_reducible apply State.pairUp_keeps
    | with_reducible apply State.sendItem_keeps
    | with_reducible apply State.slotItem_keeps'
    | with_reducible apply State.token_keeps'
    | with_reducible apply when__keeps
    | with_reducible apply outKeeps_whenSome
    | with_reducible apply outKeeps_onUnit
    | with_reducible apply outKeeps_onTile

theorem execSteerGate_keeps {pnd : List Instr} {t : Site} {u : Nat} {s : State} (hk : s.Keeps pnd) :
    outKeeps pnd (execSteerGate t u s) := by
  unfold execSteerGate
  repeat' first
    | with_reducible intro _
    | with_reducible assumption
    | with_reducible apply State.finishPair_keeps
    | with_reducible apply State.pairUp_keeps
    | with_reducible apply State.sendItem_keeps
    | with_reducible apply State.slotItem_keeps'
    | with_reducible apply State.token_keeps'
    | with_reducible apply when__keeps
    | with_reducible apply outKeeps_whenSome
    | with_reducible apply outKeeps_onUnit
    | with_reducible apply outKeeps_onTile
    | with_reducible apply keeps_ite

/-! ### NiMsg -/

theorem execSend_keeps {pnd : List Instr} {t : Site} {s : State} (hk : s.Keeps pnd) : outKeeps pnd (execSend t s) := by
  unfold execSend
  repeat' first
    | with_reducible intro _
    | with_reducible assumption
    | with_reducible apply effBlock_keeps
    | with_reducible apply instr_keeps
    | with_reducible apply effKeeps_trap
    | with_reducible apply effKeeps_wait
    | (extract_lets +onlyGivenNames v; clear_value v)
    | split

theorem State.freeBytes_keeps {pnd : List Instr} {s : State} (hk : s.Keeps pnd) : sndKeeps pnd (State.freeBytes s) := by
  unfold State.freeBytes
  repeat' first
    | with_reducible intro _
    | with_reducible assumption
    | with_reducible apply State.takeFree_keeps'
    | with_reducible apply sndKeeps_foldl
    | (with_reducible refine keeps_proj2 ?_; with_reducible assumption)
    | with_reducible apply sndKeeps_mk

theorem State.freeBytes_keeps' {pnd : List Instr} {s : State} (hk : s.Keeps pnd) :
    (State.freeBytes s).2.Keeps pnd := State.freeBytes_keeps hk

theorem State.startMessage_keeps {pnd : List Instr} {s : State} {t : Site} {x : TxConn} {addr len slot : Nat} {wrap : Bool}
    (hk : s.Keeps pnd) :
    (State.startMessage s t x addr len slot wrap).Keeps pnd := by
  unfold State.startMessage
  repeat' first
    | with_reducible assumption
    | with_reducible apply State.freeBytes_keeps'
    | with_reducible apply State.mirrorPoint_keeps
    | with_reducible apply State.onNi_keeps
    | with_reducible apply State.onTx_keeps
    | with_reducible apply State.readAny_keeps'
    | split

theorem execSendStart_keeps {pnd : List Instr} {t : Site} {s : State} (hk : s.Keeps pnd) :
    outKeeps pnd (execSendStart t s) := by
  unfold execSendStart
  repeat' first
    | with_reducible intro _
    | with_reducible assumption
    | with_reducible apply State.onTx_keeps
    | with_reducible apply State.startMessage_keeps
    | with_reducible apply when__keeps
    | with_reducible apply outKeeps_whenSome
    | with_reducible apply outKeeps_onTile
    | with_reducible apply outKeeps_refused
    | simp only [keeps_upd_iff]
    | split

theorem execSendRetire_keeps {pnd : List Instr} {t : Site} {s : State} (hk : s.Keeps pnd) :
    outKeeps pnd (execSendRetire t s) := by
  unfold execSendRetire
  repeat' first
    | with_reducible assumption
    | with_reducible apply State.onNi_keeps
    | with_reducible apply State.retire_keeps
    | with_reducible apply when__keeps
    | with_reducible apply outKeeps_onTile
    | with_reducible apply outKeeps_refused
    | split

theorem State.releaseFront_keeps {p : List Instr} {k : Nat} {s : State} {t : Site} {q : Nat} (h : s.Keeps p) :
    (State.releaseFront k s t q).Keeps p := by
  induction k generalizing s with
  | zero => exact h
  | succ k ih =>
    unfold State.releaseFront
    split
    · split
      · apply ih
        split
        · exact State.niSend_keeps (State.onPort_keeps h)
        · exact State.onPort_keeps h
      · exact h
    · exact h

theorem State.copyLap_keeps {pnd : List Instr} {s : State} {t : Site} {p : Nat} (hk : s.Keeps pnd) :
    (State.copyLap s t p).Keeps pnd := by
  unfold State.copyLap
  repeat' first
    | with_reducible intro _
    | with_reducible assumption
    | with_reducible apply State.onNi_keeps
    | with_reducible apply State.onPort_keeps
    | with_reducible apply State.writeStore_keeps
    | with_reducible apply keeps_foldl
    | with_reducible apply keeps_ite
    | simp only [keeps_upd_iff]
    | split

theorem State.releaseRing_keeps {pnd : List Instr} {s : State} {t : Site} {p : Nat} (hk : s.Keeps pnd) :
    (State.releaseRing s t p).Keeps pnd := by
  unfold State.releaseRing
  repeat' first
    | with_reducible assumption
    | with_reducible apply State.copyLap_keeps
    | with_reducible apply State.releaseFront_keeps
    | with_reducible apply State.settleClose_keeps

theorem State.takeRecord_keeps {pnd : List Instr} {s : State} {t : Site} {p : Nat} {src : Site} {conn len slot off : Nat}
    {wrap : Bool} {bs : List Byte} (hk : s.Keeps pnd) :
    (State.takeRecord s t p src conn len slot off wrap bs).Keeps pnd := by
  unfold State.takeRecord
  repeat' first
    | with_reducible assumption
    | with_reducible apply State.onNi_keeps
    | with_reducible apply State.onPort_keeps
    | with_reducible apply State.releaseRing_keeps
    | with_reducible apply State.setBytes_keeps
    | with_reducible apply State.setCfld_keeps
    | with_reducible apply State.wfeWake_keeps
    | with_reducible apply State.writeStore_keeps
    | with_reducible apply keeps_ite
    | split

theorem execMessageArrival_keeps {pnd : List Instr} {t : Site} {s : State} (hk : s.Keeps pnd) :
    outKeeps pnd (execMessageArrival t s) := by
  unfold execMessageArrival
  repeat' first
    | with_reducible intro _
    | with_reducible assumption
    | with_reducible apply State.onNi_keeps
    | with_reducible apply State.takeRecord_keeps
    | with_reducible apply outKeeps_whenSome
    | with_reducible apply outKeeps_onTile
    | with_reducible apply outKeeps_next
    | simp only [keeps_upd_iff]
    | split

theorem execRingCredit_keeps {pnd : List Instr} {t : Site} {s : State} (hk : s.Keeps pnd) :
    outKeeps pnd (execRingCredit t s) := by
  unfold execRingCredit
  repeat' first
    | with_reducible intro _
    | with_reducible assumption
    | with_reducible apply State.inKind_keeps
    | with_reducible apply State.onTx_keeps
    | with_reducible apply outKeeps_whenSome
    | with_reducible apply outKeeps_onTile
    | with_reducible apply outKeeps_next
    | with_reducible refine keeps_optSnd (by with_reducible assumption) ?_
    | split

theorem State.sourceWord_keeps {pnd : List Instr} {s : State} {u : Site} (hk : s.Keeps pnd) :
    sndKeeps pnd (State.sourceWord s u) := by
  unfold State.sourceWord
  repeat' first
    | with_reducible assumption
    | with_reducible apply State.takeFree_keeps'
    | with_reducible apply sndKeeps_mk
    | split

theorem State.sourceWord_keeps' {pnd : List Instr} {s : State} {u : Site} (hk : s.Keeps pnd) :
    (State.sourceWord s u).2.Keeps pnd := State.sourceWord_keeps hk

theorem execHandlerDispatch_keeps {pnd : List Instr} {t : Site} {s : State} (hk : s.Keeps pnd) :
    outKeeps pnd (execHandlerDispatch t s) := by
  unfold execHandlerDispatch
  repeat' first
    | with_reducible assumption
    | with_reducible apply State.onCore_keeps
    | with_reducible apply State.onNi_keeps
    | with_reducible apply State.sourceWord_keeps'
    | with_reducible apply outKeeps_onTile
    | with_reducible apply outKeeps_next
    | with_reducible apply outKeeps_refused
    | simp only [keeps_upd_iff]
    | split

theorem execHret_keeps {pnd : List Instr} {t : Site} {s : State} (hk : s.Keeps pnd) : outKeeps pnd (execHret t s) := by
  unfold execHret
  repeat' first
    | with_reducible intro _
    | with_reducible assumption
    | with_reducible apply instr_keeps
    | with_reducible apply State.onCore_keeps
    | with_reducible apply State.onPort_keeps
    | with_reducible apply State.releaseRing_keeps
    | with_reducible apply effKeeps_ok
    | with_reducible apply effKeeps_trap
    | (extract_lets +onlyGivenNames u; refine keeps_cut (p := pnd) u ?_ (fun _ => ?_)
       rotate_left; clear_value u; rotate_right; unfold u)
    | (extract_lets +onlyGivenNames v; clear_value v)
    | simp only [keeps_upd_iff]
    | split

theorem State.onBar_keeps {pnd : List Instr} {s : State} {t : Site} {n : Nat} {f : BarRt → BarRt} (hk : s.Keeps pnd) :
    (State.onBar s t n f).Keeps pnd := by
  unfold State.onBar
  repeat' first
    | with_reducible assumption
    | with_reducible apply State.onNi_keeps

theorem State.sendRelease_keeps {pnd : List Instr} {s : State} {t : Site} {n : Nat} (hk : s.Keeps pnd) :
    (State.sendRelease s t n).Keeps pnd := by
  unfold State.sendRelease
  repeat' first
    | with_reducible assumption
    | with_reducible apply State.niSend_keeps

theorem State.barStep_keeps {pnd : List Instr} {s : State} {t : Site} {n : Nat} (hk : s.Keeps pnd) :
    (State.barStep s t n).Keeps pnd := by
  unfold State.barStep
  repeat' first
    | with_reducible assumption
    | with_reducible apply State.niSend_keeps
    | with_reducible apply State.onBar_keeps
    | with_reducible apply State.report_keeps
    | with_reducible apply State.sendRelease_keeps
    | with_reducible apply State.setCfld_keeps
    | with_reducible apply keeps_ite
    | simp only [keeps_upd_iff]
    | split

theorem execBar_keeps {pnd : List Instr} {t : Site} {s : State} (hk : s.Keeps pnd) : outKeeps pnd (execBar t s) := by
  unfold execBar
  repeat' first
    | with_reducible intro _
    | with_reducible assumption
    | with_reducible apply State.barStep_keeps
    | with_reducible apply instr_keeps
    | with_reducible apply State.onBar_keeps
    | with_reducible apply State.onCore_keeps
    | with_reducible apply State.startBackfill_keeps
    | with_reducible apply effKeeps_ok
    | with_reducible apply effKeeps_trap
    | with_reducible apply keeps_ite
    | (extract_lets +onlyGivenNames u; refine keeps_cut (p := pnd) u ?_ (fun _ => ?_)
       rotate_left; clear_value u; rotate_right; unfold u)
    | (extract_lets +onlyGivenNames v; clear_value v)
    | split

theorem execBarrierArrival_keeps {pnd : List Instr} {t : Site} {s : State} (hk : s.Keeps pnd) :
    outKeeps pnd (execBarrierArrival t s) := by
  unfold execBarrierArrival
  repeat' first
    | with_reducible intro _
    | with_reducible assumption
    | with_reducible apply State.barStep_keeps
    | with_reducible apply State.inKind_keeps
    | with_reducible apply State.onBar_keeps
    | with_reducible apply outKeeps_whenSome
    | with_reducible apply outKeeps_onTile
    | with_reducible apply outKeeps_next
    | with_reducible refine keeps_optSnd (by with_reducible assumption) ?_
    | split

theorem execBarrierRelease_keeps {pnd : List Instr} {t : Site} {s : State} (hk : s.Keeps pnd) :
    outKeeps pnd (execBarrierRelease t s) := by
  unfold execBarrierRelease
  repeat' first
    | with_reducible intro _
    | with_reducible assumption
    | with_reducible apply State.onBar_keeps
    | with_reducible apply State.onNi_keeps
    | with_reducible apply State.onTile_keeps
    | with_reducible apply State.retire_keeps
    | with_reducible apply State.wfeWake_keeps
    | with_reducible apply outKeeps_whenSome
    | with_reducible apply outKeeps_onTile
    | with_reducible apply outKeeps_next
    | with_reducible apply keeps_ite
    | simp only [keeps_upd_iff]
    | split

theorem State.sendProbe_keeps {pnd : List Instr} {s : State} {t : Site} {x : TxConn} {origin low : Site} {hops : Nat} (hk :
    s.Keeps pnd) :
    (State.sendProbe s t x origin low hops).Keeps pnd := by
  unfold State.sendProbe
  repeat' first
    | with_reducible assumption
    | with_reducible apply State.niSend_keeps

theorem execDeadlockWindow_keeps {pnd : List Instr} {t : Site} {conn : Nat} {s : State} (hk : s.Keeps pnd) :
    outKeeps pnd (execDeadlockWindow t conn s) := by
  unfold execDeadlockWindow
  repeat' first
    | with_reducible intro _
    | with_reducible assumption
    | with_reducible apply State.sendProbe_keeps
    | with_reducible apply when__keeps
    | with_reducible apply outKeeps_whenSome
    | with_reducible apply outKeeps_onTile

theorem State.breakCycle_keeps {pnd : List Instr} {s : State} {t : Site} {conn : Nat} (hk : s.Keeps pnd) :
    (State.breakCycle s t conn).Keeps pnd := by
  unfold State.breakCycle
  repeat' first
    | with_reducible assumption
    | with_reducible apply State.niSend_keeps
    | with_reducible apply State.onPort_keeps
    | with_reducible apply State.setCfld_keeps
    | with_reducible apply State.tileAlarm_keeps
    | with_reducible apply State.tileEvent_keeps
    | with_reducible apply keeps_ite
    | simp only [keeps_upd_iff]
    | split

theorem execProbeReceive_keeps {pnd : List Instr} {t : Site} {s : State} (hk : s.Keeps pnd) :
    outKeeps pnd (execProbeReceive t s) := by
  unfold execProbeReceive
  repeat' first
    | with_reducible intro _
    | with_reducible assumption
    | with_reducible apply State.breakCycle_keeps
    | with_reducible apply State.inKind_keeps
    | with_reducible apply State.sendProbe_keeps
    | with_reducible apply keeps_foldl
    | with_reducible apply outKeeps_whenSome
    | with_reducible apply outKeeps_onTile
    | with_reducible apply outKeeps_next
    | with_reducible apply keeps_ite
    | with_reducible refine keeps_optSnd (by with_reducible assumption) ?_
    | simp only [keeps_upd_iff]
    | split

end Sys2Proof.Machine
end

