-- ==== Sys2Proof/Laws/KeepsHost.lean ====
section
/-!
SUPPORT. That every operation of host commands, placement, fences and trees keeps the invariant of Sys2Proof/Safety.lean and the
commands that wait: one lemma per operation, named after it.
-/
set_option linter.unusedSimpArgs false
set_option linter.tactic.unusedName false
set_option linter.unusedVariables false
namespace Sys2Proof.Machine

/-! ### HostOps -/

theorem State.onCommand_keeps {pnd : List Instr} {s : State} {q seq : Nat} {f : HostCmd → HostCmd} (hk : s.Keeps pnd) :
    (State.onCommand s q seq f).Keeps pnd := by
  unfold State.onCommand
  repeat' first
    | with_reducible assumption
    | with_reducible apply State.onHostq_keeps

theorem State.hostOut_keeps {pnd : List Instr} {s : State} {o : HostOut} (hk : s.Keeps pnd) :
    (State.hostOut s o).Keeps pnd := by
  unfold State.hostOut
  repeat' first
    | with_reducible assumption
    | with_reducible apply State.onHostPort_keeps
    | with_reducible apply keeps_ite
    | simp only [keeps_upd_iff]
    | split

theorem State.flushPort_keeps {pnd : List Instr} {s : State} {a : Nat} (hk : s.Keeps pnd) :
    (State.flushPort s a).Keeps pnd := by
  unfold State.flushPort
  repeat' first
    | with_reducible assumption
    | with_reducible apply State.onHostPort_keeps
    | simp only [keeps_upd_iff]

theorem State.sendFrame_keeps {pnd : List Instr} {s : State} {port : Nat} {bytes : List Byte} (hk : s.Keeps pnd) :
    (State.sendFrame s port bytes).Keeps pnd := by
  unfold State.sendFrame
  repeat' first
    | with_reducible assumption
    | with_reducible apply State.hostOut_keeps

theorem State.receipt_keeps {pnd : List Instr} {s : State} {port q op seq : Nat} {cookie : Dword} {npart status : Nat} {body
    : List Byte} (hk : s.Keeps pnd) :
    (State.receipt s port q op seq cookie npart status body).Keeps pnd := by
  unfold State.receipt
  repeat' first
    | with_reducible assumption
    | with_reducible apply State.sendFrame_keeps

theorem State.record_keeps {pnd : List Instr} {s : State} {q : Nat} {c : HostCmd} {status detail : Nat} {data : List Byte}
    (hk : s.Keeps pnd) :
    (State.record s q c status detail data).Keeps pnd := by
  unfold State.record
  repeat' first
    | with_reducible assumption
    | with_reducible apply State.onHostq_keeps
    | with_reducible apply State.sendFrame_keeps

theorem State.complete_keeps {pnd : List Instr} {s : State} {q : Nat} {c : HostCmd} {status detail : Nat} {data : List Byte}
    (hk : s.Keeps pnd) :
    (State.complete s q c status detail data).Keeps pnd := by
  unfold State.complete
  repeat' first
    | with_reducible intro _
    | with_reducible assumption
    | with_reducible apply State.record_keeps
    | with_reducible apply keeps_foldl
    | with_reducible apply keeps_ite

theorem State.sweep_keeps {p : List Instr} {n : Nat} {s : State} {q : Nat} (h : s.Keeps p) : (State.sweep n s q).Keeps p := by
  induction n generalizing s with
  | zero => exact h
  | succ n ih =>
    unfold State.sweep
    split
    · split
      · exact h
      · apply ih
        split
        · exact State.complete_keeps h
        · exact h
    · exact h

theorem hostRow_keeps {p : List Instr} {name : String} {op q : Nat} {s : State} {f : HostCmd → Out} (h : s.Keeps p)
    (k : ∀ c, outKeeps p (f c)) : outKeeps p (hostRow name op q s f) := by
  unfold hostRow
  apply outKeeps_onUnit
  apply outKeeps_whenSome
  intro c _
  split
  · exact State.sweep_keeps (State.complete_keeps h)
  · split
    · trivial
    · exact k c

theorem State.finish_keeps {pnd : List Instr} {s : State} {q : Nat} {c : HostCmd} {status detail : Nat} {data : List Byte}
    (hk : s.Keeps pnd) :
    (State.finish s q c status detail data).Keeps pnd := by
  unfold State.finish
  repeat' first
    | with_reducible assumption
    | with_reducible apply State.complete_keeps
    | with_reducible apply State.sweep_keeps

theorem State.completeParts_keeps {pnd : List Instr} {s : State} {q : Nat} {c : HostCmd} (hk : s.Keeps pnd) :
    (State.completeParts s q c).Keeps pnd := by
  unfold State.completeParts
  repeat' first
    | with_reducible assumption
    | with_reducible apply State.finish_keeps

theorem State.endPart_keeps {pnd : List Instr} {s : State} {q : Nat} {c : HostCmd} {code : Nat} {data : List Byte} (hk :
    s.Keeps pnd) :
    (State.endPart s q c code data).Keeps pnd := by
  unfold State.endPart
  repeat' first
    | with_reducible assumption
    | with_reducible apply State.completeParts_keeps
    | with_reducible apply State.finish_keeps
    | with_reducible apply State.onCommand_keeps
    | with_reducible apply keeps_ite
    | (extract_lets +onlyGivenNames v; clear_value v)
    | split

/-! ### Layout -/

theorem State.putLoam_keeps {pnd : List Instr} {s : State} {t : Site} {off : Nat} {bs : List Byte} (hk : s.Keeps pnd) :
    (State.putLoam s t off bs).Keeps pnd := by
  unfold State.putLoam
  repeat' first
    | with_reducible assumption
    | with_reducible apply State.onTile_keeps
    | with_reducible apply State.setBytes_keeps

theorem State.putPkg_keeps {pnd : List Instr} {s : State} {k : Package} {off : Nat} {bs : List Byte} (hk : s.Keeps pnd) :
    (State.putPkg s k off bs).Keeps pnd := by
  unfold State.putPkg
  repeat' first
    | with_reducible intro _
    | with_reducible assumption
    | with_reducible apply State.setByte_keeps
    | with_reducible apply keeps_foldl

/-! ### Commit -/

theorem State.setPlace_keeps {pnd : List Instr} {s : State} {p n : Nat} (hk : s.Keeps pnd) :
    (State.setPlace s p n).Keeps pnd := by
  unfold State.setPlace
  repeat' first
    | with_reducible assumption
    | with_reducible apply State.setFld_keeps

theorem State.freePlaced_keeps {pnd : List Instr} {s : State} {p : Nat} (hk : s.Keeps pnd) :
    (State.freePlaced s p).Keeps pnd := by
  unfold State.freePlaced
  repeat' first
    | with_reducible assumption
    | with_reducible apply State.onPlot_keeps
    | with_reducible apply State.setFld_keeps
    | (extract_lets +onlyGivenNames u; refine keeps_cut (p := pnd) u ?_ (fun _ => ?_)
       rotate_left; clear_value u; rotate_right; unfold u)
    | simp only [keeps_upd_iff]
    | split

theorem State.freeStaging_keeps {pnd : List Instr} {s : State} {p : Nat} (hk : s.Keeps pnd) :
    (State.freeStaging s p).Keeps pnd := by
  unfold State.freeStaging
  repeat' first
    | with_reducible assumption
    | with_reducible apply State.onPlot_keeps
    | (extract_lets +onlyGivenNames u; refine keeps_cut (p := pnd) u ?_ (fun _ => ?_)
       rotate_left; clear_value u; rotate_right; unfold u)
    | simp only [keeps_upd_iff]
    | split

theorem State.emptyPlot_keeps {pnd : List Instr} {s : State} {p : Nat} (hk : s.Keeps pnd) :
    (State.emptyPlot s p).Keeps pnd := by
  unfold State.emptyPlot
  repeat' first
    | with_reducible assumption
    | with_reducible apply State.onPlot_keeps
    | with_reducible apply State.setPlace_keeps

theorem State.liftFence_keeps {pnd : List Instr} {s : State} {p : Nat} (hk : s.Keeps pnd) :
    (State.liftFence s p).Keeps pnd := by
  unfold State.liftFence
  repeat' first
    | with_reducible intro _
    | with_reducible assumption
    | with_reducible apply State.onPlot_keeps
    | with_reducible apply State.onTile_keeps
    | with_reducible apply State.setFld_keeps
    | with_reducible apply keeps_foldl
    | with_reducible apply keeps_ite

theorem State.qpsLose_keeps {pnd : List Instr} {s : State} {p : Nat} (hk : s.Keeps pnd) : (State.qpsLose s p).Keeps pnd := by
  unfold State.qpsLose
  repeat' first
    | with_reducible intro _
    | with_reducible assumption
    | with_reducible apply State.setFld_keeps
    | with_reducible apply keeps_foldl
    | with_reducible apply keeps_ite

theorem State.putSet_keeps {pnd : List Instr} {s : State} {k : Nat} {x : ShadowSet} (hk : s.Keeps pnd) :
    (State.putSet s k x).Keeps pnd := by
  unfold State.putSet
  repeat' first
    | with_reducible assumption
    | simp only [keeps_upd_iff]

theorem State.dropSet_keeps {pnd : List Instr} {s : State} {k : Nat} (hk : s.Keeps pnd) : (State.dropSet s k).Keeps pnd := by
  unfold State.dropSet
  repeat' first
    | with_reducible assumption
    | simp only [keeps_upd_iff]

theorem State.withRects_keeps {pnd : List Instr} {s : State} {x : ShadowSet} (hk : s.Keeps pnd) :
    (State.withRects s x).Keeps pnd := by
  unfold State.withRects
  repeat' first
    | with_reducible intro _
    | with_reducible assumption
    | with_reducible apply State.setReg_keeps
    | with_reducible apply keeps_foldl

theorem State.showArmed_keeps {pnd : List Instr} {s : State} {ps : List Nat} (hk : s.Keeps pnd) :
    (State.showArmed s ps).Keeps pnd := by
  unfold State.showArmed
  repeat' first
    | with_reducible intro _
    | with_reducible assumption
    | with_reducible apply State.setFld_keeps
    | with_reducible apply keeps_foldl

theorem State.disarm_keeps {pnd : List Instr} {s : State} {k : Nat} {x : ShadowSet} {state code : Nat} (hk : s.Keeps pnd) :
    (State.disarm s k x state code).Keeps pnd := by
  unfold State.disarm
  repeat' first
    | with_reducible assumption
    | with_reducible apply State.putSet_keeps
    | with_reducible apply State.showArmed_keeps

theorem State.cancelSets_keeps {pnd : List Instr} {s : State} {hit : ShadowSet → Bool} {code : Nat} (hk : s.Keeps pnd) :
    (State.cancelSets s hit code).Keeps pnd := by
  unfold State.cancelSets
  repeat' first
    | with_reducible intro _
    | with_reducible assumption
    | with_reducible apply State.disarm_keeps
    | with_reducible apply State.finish_keeps
    | with_reducible apply keeps_foldl
    | with_reducible apply keeps_ite
    | (extract_lets +onlyGivenNames u; refine keeps_cut (p := pnd) u ?_ (fun _ => ?_)
       rotate_left; clear_value u; rotate_right; unfold u)
    | split

theorem State.applyStaged_keeps {pnd : List Instr} {s : State} {t : Site} (hk : s.Keeps pnd) :
    (State.applyStaged s t).Keeps pnd := by
  unfold State.applyStaged
  repeat' first
    | with_reducible assumption
    | with_reducible apply State.onCore_keeps
    | with_reducible apply State.onNi_keeps
    | with_reducible apply State.writeGenCfg_keeps
    | with_reducible apply keeps_ite
    | (extract_lets +onlyGivenNames u; refine keeps_cut (p := pnd) u ?_ (fun _ => ?_)
       rotate_left; clear_value u; rotate_right; unfold u)
    | (extract_lets +onlyGivenNames v; clear_value v)
    | split

theorem State.instantAt_keeps {pnd : List Instr} {s : State} {t : Site} (hk : s.Keeps pnd) :
    (State.instantAt s t).Keeps pnd := by
  unfold State.instantAt
  repeat' first
    | with_reducible assumption
    | with_reducible apply State.applyStaged_keeps
    | with_reducible apply State.onCore_keeps
    | with_reducible apply State.onTile_keeps
    | with_reducible apply State.wfeWake_keeps

theorem State.loadFrame_keeps {pnd : List Instr} {s : State} {pl : Placement} {role f : Nat} {t : Site} {l : Nat} {r : LayerRec}
    (hk : s.Keeps pnd) : (State.loadFrame s pl role f t l r).Keeps pnd := by
  unfold State.loadFrame
  repeat' first
    | with_reducible assumption
    | with_reducible apply State.ctrlStore_keeps
    | with_reducible apply State.setBytes_keeps
    | (extract_lets +onlyGivenNames v; clear_value v)

theorem State.nextLayer_keeps {pnd : List Instr} {s : State} {p : Nat} {pl : Placement} (hk : s.Keeps pnd) :
    (State.nextLayer s p pl).Keeps pnd := by
  unfold State.nextLayer
  repeat' first
    | with_reducible intro _
    | with_reducible assumption
    | with_reducible apply State.onPlot_keeps
    | with_reducible apply State.loadFrame_keeps
    | with_reducible apply keeps_foldl
    | with_reducible apply keeps_ite
    | (extract_lets +onlyGivenNames u; refine keeps_cut (p := pnd) u ?_ (fun _ => ?_)
       rotate_left; clear_value u; rotate_right; unfold u)
    | (extract_lets +onlyGivenNames v; clear_value v)
    | split

theorem State.dropReports_keeps {pnd : List Instr} {s : State} {p : Nat} {ts : List Site} (hk : s.Keeps pnd) :
    (State.dropReports s p ts).Keeps pnd := by
  unfold State.dropReports
  with_reducible apply State.onPlot_keeps
  exact hk

theorem State.instantOf_keeps {pnd : List Instr} {s : State} {p : Nat} (hk : s.Keeps pnd) :
    (State.instantOf s p).Keeps pnd := by
  unfold State.instantOf
  repeat' first
    | with_reducible intro _
    | with_reducible assumption
    | with_reducible apply State.instantAt_keeps
    | with_reducible apply State.nextLayer_keeps
    | with_reducible apply State.dropReports_keeps
    | with_reducible apply keeps_foldl
    | with_reducible apply keeps_ite
    | (extract_lets +onlyGivenNames u; refine keeps_cut (p := pnd) u ?_ (fun _ => ?_)
       rotate_left; clear_value u; rotate_right; unfold u)
    | (extract_lets +onlyGivenNames v; clear_value v)
    | split

theorem State.applyUnplace_keeps {pnd : List Instr} {s : State} {p : Nat} (hk : s.Keeps pnd) :
    (State.applyUnplace s p).Keeps pnd := by
  unfold State.applyUnplace
  repeat' first
    | with_reducible assumption
    | with_reducible apply State.emptyPlot_keeps
    | with_reducible apply State.freePlaced_keeps
    | with_reducible apply State.freeStaging_keeps
    | with_reducible apply State.liftFence_keeps

theorem State.applyRect_keeps {pnd : List Instr} {s : State} {p : Nat} {v : Dword} (hk : s.Keeps pnd) :
    (State.applyRect s p v).Keeps pnd := by
  unfold State.applyRect
  repeat' first
    | with_reducible intro _
    | with_reducible assumption
    | with_reducible apply State.darken_keeps
    | with_reducible apply State.emptyPlot_keeps
    | with_reducible apply State.freePlaced_keeps
    | with_reducible apply State.liftFence_keeps
    | with_reducible apply State.qpsLose_keeps
    | with_reducible apply State.setPlace_keeps
    | with_reducible apply State.setReg_keeps
    | with_reducible apply keeps_foldl
    | with_reducible apply keeps_ite
    | (extract_lets +onlyGivenNames u; refine keeps_cut (p := pnd) u ?_ (fun _ => ?_)
       rotate_left; clear_value u; rotate_right; unfold u)
    | (extract_lets +onlyGivenNames v; clear_value v)
    | split

theorem State.applySplit_keeps {pnd : List Instr} {s : State} {p v : Nat} (hk : s.Keeps pnd) :
    (State.applySplit s p v).Keeps pnd := by
  unfold State.applySplit
  repeat' first
    | with_reducible intro _
    | with_reducible assumption
    | with_reducible apply State.onTile_keeps
    | with_reducible apply State.setCfld_keeps
    | with_reducible apply State.setFld_keeps
    | with_reducible apply keeps_foldl
    | with_reducible apply keeps_ite

theorem State.applyRole_keeps {pnd : List Instr} {s : State} {v : Nat} (hk : s.Keeps pnd) :
    (State.applyRole s v).Keeps pnd := by
  unfold State.applyRole
  repeat' first
    | with_reducible intro _
    | with_reducible assumption
    | with_reducible apply State.onPlot_keeps
    | with_reducible apply State.setFld_keeps
    | with_reducible apply keeps_foldl
    | with_reducible apply keeps_ite
    | simp only [keeps_upd_iff]

theorem State.applyItem_keeps {pnd : List Instr} {s : State} {i : ShadowItem} (hk : s.Keeps pnd) :
    (State.applyItem s i).Keeps pnd := by
  unfold State.applyItem
  repeat' first
    | with_reducible assumption
    | with_reducible apply State.applyRole_keeps
    | with_reducible apply State.applySplit_keeps
    | with_reducible apply State.setFld_keeps
    | with_reducible apply State.setReg_keeps
    | with_reducible apply keeps_ite
    | (extract_lets +onlyGivenNames u; refine keeps_cut (p := pnd) u ?_ (fun _ => ?_)
       rotate_left; clear_value u; rotate_right; unfold u)
    | (extract_lets +onlyGivenNames v; clear_value v)
    | split

theorem State.applySet_keeps {pnd : List Instr} {s : State} {x : ShadowSet} (hk : s.Keeps pnd) :
    (State.applySet s x).Keeps pnd := by
  unfold State.applySet
  repeat' first
    | with_reducible intro _
    | with_reducible assumption
    | with_reducible apply State.applyItem_keeps
    | with_reducible apply State.applyRect_keeps
    | with_reducible apply State.applyUnplace_keeps
    | with_reducible apply keeps_foldl

theorem State.commitSet_keeps {pnd : List Instr} {s : State} {k : Nat} {x : ShadowSet} (hk : s.Keeps pnd) :
    (State.commitSet s k x).Keeps pnd := by
  unfold State.commitSet
  repeat' first
    | with_reducible intro _
    | with_reducible assumption
    | with_reducible apply State.alarm_keeps
    | with_reducible apply State.applySet_keeps
    | with_reducible apply State.atEdge_keeps
    | with_reducible apply State.dropSet_keeps
    | with_reducible apply State.finish_keeps
    | with_reducible apply State.instantOf_keeps
    | with_reducible apply State.setFld_keeps
    | with_reducible apply State.showArmed_keeps
    | with_reducible apply State.trace_keeps
    | with_reducible apply keeps_foldl
    | with_reducible apply keeps_ite
    | (extract_lets +onlyGivenNames u; refine keeps_cut (p := pnd) u ?_ (fun _ => ?_)
       rotate_left; clear_value u; rotate_right; unfold u)
    | (extract_lets +onlyGivenNames v; clear_value v)
    | split

theorem execCommitAcksComplete_keeps {pnd : List Instr} {k : Nat} {s : State} (hk : s.Keeps pnd) :
    outKeeps pnd (execCommitAcksComplete k s) := by
  unfold execCommitAcksComplete
  repeat' first
    | with_reducible intro _
    | with_reducible assumption
    | with_reducible apply State.disarm_keeps
    | with_reducible apply State.finish_keeps
    | with_reducible apply State.putSet_keeps
    | with_reducible apply outKeeps_whenSome
    | with_reducible apply outKeeps_onUnit
    | with_reducible apply outKeeps_next
    | with_reducible apply outKeeps_refused
    | (extract_lets +onlyGivenNames u; refine keeps_cut (p := pnd) u ?_ (fun _ => ?_)
       rotate_left; clear_value u; rotate_right; unfold u)
    | (extract_lets +onlyGivenNames v; clear_value v)
    | split

theorem execCommitInstant_keeps {pnd : List Instr} {k : Nat} {s : State} (hk : s.Keeps pnd) :
    outKeeps pnd (execCommitInstant k s) := by
  unfold execCommitInstant
  repeat' first
    | with_reducible intro _
    | with_reducible assumption
    | with_reducible apply State.commitSet_keeps
    | with_reducible apply when__keeps
    | with_reducible apply outKeeps_whenSome
    | with_reducible apply outKeeps_onUnit

theorem State.stagePart_keeps {pnd : List Instr} {s : State} {q : Nat} {c : HostCmd} {i : Nat} (hk : s.Keeps pnd) :
    sndKeeps pnd (State.stagePart s q c i) := by
  unfold State.stagePart
  repeat' first
    | with_reducible assumption
    | with_reducible apply State.dropSet_keeps
    | with_reducible apply State.putSet_keeps
    | with_reducible apply sndKeeps_mk
    | (extract_lets +onlyGivenNames v; clear_value v)
    | split

theorem State.stagePart_keeps' {pnd : List Instr} {s : State} {q : Nat} {c : HostCmd} {i : Nat} (hk : s.Keeps pnd) :
    (State.stagePart s q c i).2.Keeps pnd := State.stagePart_keeps hk

theorem execHostStage_keeps {pnd : List Instr} {q : Nat} {s : State} (hk : s.Keeps pnd) :
    outKeeps pnd (execHostStage q s) := by
  unfold execHostStage
  repeat' first
    | with_reducible intro _
    | with_reducible assumption
    | with_reducible apply State.endPart_keeps
    | with_reducible apply hostRow_keeps
    | with_reducible apply State.stagePart_keeps'
    | with_reducible apply outKeeps_next

theorem State.ownChecked_keeps {pnd : List Instr} {s : State} {num : Nat} (hk : s.Keeps pnd) :
    (State.ownChecked s num).Keeps pnd := by
  unfold State.ownChecked
  repeat' first
    | with_reducible assumption
    | with_reducible apply keeps_ite
    | (extract_lets +onlyGivenNames v; clear_value v)
    | simp only [keeps_upd_iff]

theorem execCheck_keeps {pnd : List Instr} {q : Nat} {s : State} (hk : s.Keeps pnd) : outKeeps pnd (execCheck q s) := by
  unfold execCheck
  repeat' first
    | with_reducible intro _
    | with_reducible assumption
    | with_reducible apply State.finish_keeps
    | with_reducible apply hostRow_keeps
    | with_reducible apply State.ownChecked_keeps
    | with_reducible apply State.putSet_keeps
    | with_reducible apply outKeeps_next
    | with_reducible apply keeps_ite
    | (extract_lets +onlyGivenNames u; refine keeps_cut (p := pnd) u ?_ (fun _ => ?_)
       rotate_left; clear_value u; rotate_right; unfold u)
    | (extract_lets +onlyGivenNames v; clear_value v)
    | split

theorem execCommit_keeps {pnd : List Instr} {q : Nat} {s : State} (hk : s.Keeps pnd) : outKeeps pnd (execCommit q s) := by
  unfold execCommit
  repeat' first
    | with_reducible intro _
    | with_reducible assumption
    | with_reducible apply State.finish_keeps
    | with_reducible apply hostRow_keeps
    | with_reducible apply State.onCommand_keeps
    | with_reducible apply State.putSet_keeps
    | with_reducible apply State.showArmed_keeps
    | with_reducible apply outKeeps_next
    | with_reducible apply outKeeps_refused
    | with_reducible apply keeps_ite
    | (extract_lets +onlyGivenNames v; clear_value v)
    | simp only [keeps_upd_iff]
    | split

/-! ### Fence -/

theorem State.writeRecord_keeps {pnd : List Instr} {s : State} {p : Nat} {r : List Byte} (hk : s.Keeps pnd) :
    (State.writeRecord s p r).Keeps pnd := by
  unfold State.writeRecord
  repeat' first
    | with_reducible intro _
    | with_reducible assumption
    | with_reducible apply State.setReg_keeps
    | with_reducible apply keeps_foldl

theorem State.stopCores_keeps {pnd : List Instr} {s : State} {p : Nat} (hk : s.Keeps pnd) :
    (State.stopCores s p).Keeps pnd := by
  unfold State.stopCores
  repeat' first
    | with_reducible intro _
    | with_reducible assumption
    | with_reducible apply State.onCore_keeps
    | with_reducible apply State.onNi_keeps
    | with_reducible apply keeps_foldl
    | split

theorem State.moreFault_keeps {pnd : List Instr} {s : State} {p : Nat} (hk : s.Keeps pnd) :
    (State.moreFault s p).Keeps pnd := by
  unfold State.moreFault
  repeat' first
    | with_reducible assumption
    | with_reducible apply State.bump_keeps
    | with_reducible apply State.onPlot_keeps
    | with_reducible apply keeps_ite

theorem State.fencePlot_keeps {pnd : List Instr} {s : State} {p cause : Nat} {c : FenceCall} (hk : s.Keeps pnd) :
    (State.fencePlot s p cause c).Keeps pnd := by
  unfold State.fencePlot
  repeat' first
    | with_reducible assumption
    | with_reducible apply State.cancelSets_keeps
    | with_reducible apply State.event_keeps
    | with_reducible apply State.moreFault_keeps
    | with_reducible apply State.onPlot_keeps
    | with_reducible apply State.setFld_keeps
    | with_reducible apply State.stopCores_keeps
    | with_reducible apply keeps_ite

theorem State.fence_keeps {pnd : List Instr} {s : State} {p cause field : Nat} (hk : s.Keeps pnd) :
    (State.fence s p cause field).Keeps pnd := by
  unfold State.fence
  repeat' first
    | with_reducible assumption
    | with_reducible apply State.fencePlot_keeps

theorem State.cutTile_keeps {pnd : List Instr} {s : State} {t : Site} (hk : s.Keeps pnd) : (State.cutTile s t).Keeps pnd := by
  unfold State.cutTile
  repeat' first
    | with_reducible assumption
    | with_reducible apply State.onNi_keeps
    | with_reducible apply State.onTile_keeps

theorem State.endCommands_keeps {pnd : List Instr} {s : State} {p : Nat} {f : FenceSt} {r : List Byte} (hk : s.Keeps pnd) :
    (State.endCommands s p f r).Keeps pnd := by
  unfold State.endCommands
  repeat' first
    | with_reducible intro _
    | with_reducible assumption
    | with_reducible apply State.complete_keeps
    | with_reducible apply keeps_foldl
    | with_reducible apply keeps_ite
    | split

theorem State.dropWork_keeps {pnd : List Instr} {s : State} {p : Nat} (hk : s.Keeps pnd) :
    (State.dropWork s p).Keeps pnd := by
  unfold State.dropWork
  repeat' first
    | with_reducible assumption
    | with_reducible apply State.onPlot_keeps
    | with_reducible apply State.setPlace_keeps
    | with_reducible apply keeps_ite
    | simp only [keeps_upd_iff]

theorem State.fenced_keeps {pnd : List Instr} {s : State} {p : Nat} {drained : Bool} (hk : s.Keeps pnd) :
    (State.fenced s p drained).Keeps pnd := by
  unfold State.fenced
  repeat' first
    | with_reducible intro _
    | with_reducible assumption
    | with_reducible apply State.cutTile_keeps
    | with_reducible apply State.dropWork_keeps
    | with_reducible apply State.endCommands_keeps
    | with_reducible apply State.onPlot_keeps
    | with_reducible apply State.setFld_keeps
    | with_reducible apply State.writeRecord_keeps
    | with_reducible apply keeps_foldl
    | with_reducible apply keeps_ite
    | (extract_lets +onlyGivenNames u; refine keeps_cut (p := pnd) u ?_ (fun _ => ?_)
       rotate_left; clear_value u; rotate_right; unfold u)
    | simp only [keeps_upd_iff]
    | split

theorem State.fenceReport_keeps {p : List Instr} {s : State} {k : Nat} {t : Site} {n : SvcNote} (h : s.Keeps p) :
    (s.fenceReport k t n).Keeps p := by
  unfold State.fenceReport
  cases n with
  | doubleTrap => exact State.fencePlot_keeps h
  | linkErr => exact keeps_ite (State.fencePlot_keeps h) h
  | twinMismatch => exact State.fencePlot_keeps (State.bump_keeps h)
  | _ => exact h

theorem execFence_keeps {pnd : List Instr} {p cause : Nat} {s : State} (hk : s.Keeps pnd) :
    outKeeps pnd (execFence p cause s) := by
  unfold execFence
  repeat' first
    | with_reducible assumption
    | with_reducible apply State.fenceReport_keeps
    | with_reducible apply outKeeps_onUnit
    | with_reducible apply outKeeps_next
    | with_reducible apply outKeeps_refused
    | simp only [keeps_upd_iff]
    | split

theorem execFenceDrained_keeps {pnd : List Instr} {p : Nat} {s : State} (hk : s.Keeps pnd) :
    outKeeps pnd (execFenceDrained p s) := by
  unfold execFenceDrained
  repeat' first
    | with_reducible assumption
    | with_reducible apply State.fenced_keeps
    | with_reducible apply when__keeps
    | with_reducible apply outKeeps_onUnit

theorem execFenceDrainLimit_keeps {pnd : List Instr} {p : Nat} {s : State} (hk : s.Keeps pnd) :
    outKeeps pnd (execFenceDrainLimit p s) := by
  unfold execFenceDrainLimit
  repeat' first
    | with_reducible assumption
    | with_reducible apply State.fencePlot_keeps
    | with_reducible apply State.fenced_keeps
    | with_reducible apply outKeeps_onUnit
    | with_reducible apply outKeeps_next
    | with_reducible apply outKeeps_refused
    | (extract_lets +onlyGivenNames v; clear_value v)
    | split

theorem execPlotResetFence_keeps {pnd : List Instr} {p : Nat} {s : State} (hk : s.Keeps pnd) :
    outKeeps pnd (execPlotResetFence p s) := by
  unfold execPlotResetFence
  repeat' first
    | with_reducible assumption
    | with_reducible apply State.fence_keeps
    | with_reducible apply outKeeps_onUnit
    | with_reducible apply outKeeps_next

theorem State.writeDrain_keeps {pnd : List Instr} {s : State} {v : Dword} (hk : s.Keeps pnd) :
    (State.writeDrain s v).Keeps pnd := by
  unfold State.writeDrain
  repeat' first
    | with_reducible assumption
    | with_reducible apply State.setFld_keeps

theorem execRasDrainWrite_keeps {pnd : List Instr} {v : Dword} {s : State} (hk : s.Keeps pnd) :
    outKeeps pnd (execRasDrainWrite v s) := by
  unfold execRasDrainWrite
  repeat' first
    | with_reducible assumption
    | with_reducible apply State.writeDrain_keeps
    | with_reducible apply outKeeps_next

/-! ### NiFrame -/

theorem State.clearNi_keeps {pnd : List Instr} {s : State} {t : Site} (hk : s.Keeps pnd) : (State.clearNi s t).Keeps pnd := by
  unfold State.clearNi
  repeat' first
    | with_reducible intro _
    | with_reducible assumption
    | with_reducible apply State.onCore_keeps
    | with_reducible apply State.onNi_keeps
    | with_reducible apply State.sendClose_keeps
    | with_reducible apply keeps_foldl

theorem State.loadTable_keeps {pnd : List Instr} {s : State} {t : Site} {h : List Byte} {off a w n : Nat} (hk : s.Keeps pnd)
    :
    (State.loadTable s t h off a w n).Keeps pnd := by
  unfold State.loadTable
  repeat' first
    | with_reducible intro _
    | with_reducible assumption
    | with_reducible apply State.ctrlStore_keeps
    | with_reducible apply keeps_foldl

theorem State.loadTables_keeps {pnd : List Instr} {s : State} {t : Site} {h : List Byte} (hk : s.Keeps pnd) :
    (State.loadTables s t h).Keeps pnd := by
  unfold State.loadTables
  repeat' first
    | with_reducible assumption
    | with_reducible apply State.checkSpill_keeps
    | with_reducible apply State.loadTable_keeps

theorem State.openEntry_keeps {pnd : List Instr} {s : State} {t : Site} {base : Nat} {h : List Byte} {i : Nat} (hk : s.Keeps
    pnd) :
    (State.openEntry s t base h i).Keeps pnd := by
  unfold State.openEntry
  repeat' first
    | with_reducible assumption
    | with_reducible apply State.eccRead_keeps'
    | with_reducible apply State.setBytes_keeps
    | with_reducible apply State.startOpen_keeps
    | with_reducible apply keeps_ite
    | (extract_lets +onlyGivenNames v; clear_value v)
    | with_reducible refine keeps_exSnd (by with_reducible assumption) ?_
    | split

theorem execFrameSwitch_keeps {pnd : List Instr} {t : Site} {s : State} (hk : s.Keeps pnd) :
    outKeeps pnd (execFrameSwitch t s) := by
  unfold execFrameSwitch
  repeat' first
    | with_reducible intro _
    | with_reducible assumption
    | with_reducible apply State.clearNi_keeps
    | with_reducible apply State.loadTables_keeps
    | with_reducible apply State.onCore_keeps
    | with_reducible apply State.openEntry_keeps
    | with_reducible apply State.readStore_keeps'
    | with_reducible apply when__keeps
    | with_reducible apply keeps_foldl
    | with_reducible apply outKeeps_whenSome
    | with_reducible apply outKeeps_onTile

theorem execFrameEntry_keeps {pnd : List Instr} {t : Site} {s : State} (hk : s.Keeps pnd) :
    outKeeps pnd (execFrameEntry t s) := by
  unfold execFrameEntry
  repeat' first
    | with_reducible intro _
    | with_reducible assumption
    | with_reducible apply State.onCore_keeps
    | with_reducible apply when__keeps
    | with_reducible apply outKeeps_whenSome
    | with_reducible apply outKeeps_onTile

/-! ### Trees -/

theorem State.markPrism_keeps {pnd : List Instr} {s : State} {tree : Nat} {m : Nat × Nat} (hk : s.Keeps pnd) :
    (State.markPrism s tree m).Keeps pnd := by
  unfold State.markPrism
  repeat' first
    | with_reducible assumption
    | (extract_lets +onlyGivenNames v; clear_value v)
    | with_reducible apply keeps_prism_set

theorem State.writeTrees_keeps {pnd : List Instr} {s : State} {p : Nat} (hk : s.Keeps pnd) :
    (State.writeTrees s p).Keeps pnd := by
  unfold State.writeTrees
  repeat' first
    | with_reducible intro _
    | with_reducible assumption
    | with_reducible apply State.markPrism_keeps
    | with_reducible apply keeps_foldl
    | (extract_lets +onlyGivenNames u; refine keeps_cut (p := pnd) u ?_ (fun _ => ?_)
       rotate_left; clear_value u; rotate_right; unfold u)
    | with_reducible apply keeps_prism_filter
    | split

theorem State.putRegion_keeps {pnd : List Instr} {s : State} {pl : Placement} {f : Nat → Nat → Reloc} {r : Region} {bs :
    List Byte} (hk : s.Keeps pnd) :
    (State.putRegion s pl f r bs).Keeps pnd := by
  unfold State.putRegion
  repeat' first
    | with_reducible assumption
    | with_reducible apply State.putLoam_keeps

theorem State.putIdle_keeps {pnd : List Instr} {s : State} {pl : Placement} (hk : s.Keeps pnd) :
    (State.putIdle s pl).Keeps pnd := by
  unfold State.putIdle
  repeat' first
    | with_reducible intro _
    | with_reducible assumption
    | with_reducible apply State.putLoam_keeps
    | with_reducible apply keeps_foldl
    | with_reducible apply keeps_ite

theorem State.setTile'_keeps {pnd : List Instr} {s : State} {pl : Placement} {i : Nat} {t : Site} (hk : s.Keeps pnd) :
    (State.setTile' s pl i t).Keeps pnd := by
  unfold State.setTile'
  repeat' first
    | with_reducible intro _
    | with_reducible assumption
    | with_reducible apply State.loadFrame_keeps
    | with_reducible apply State.clearNi_keeps
    | with_reducible apply State.ctrlStore_keeps
    | with_reducible apply State.loadTables_keeps
    | with_reducible apply State.onCore_keeps
    | with_reducible apply State.openEntry_keeps
    | with_reducible apply State.setBytes_keeps
    | with_reducible apply keeps_foldl

theorem State.setTiles_keeps {pnd : List Instr} {s : State} {pl : Placement} (hk : s.Keeps pnd) :
    (State.setTiles s pl).Keeps pnd := by
  unfold State.setTiles
  repeat' first
    | with_reducible intro _
    | with_reducible assumption
    | with_reducible apply State.setTile'_keeps
    | with_reducible apply keeps_foldl

/-! ### Tilth -/

theorem State.relocate_keeps {pnd : List Instr} {s : State} {p : Nat} {st : List Standing} (hk : s.Keeps pnd) :
    (State.relocate s p st).Keeps pnd := by
  unfold State.relocate
  repeat' first
    | with_reducible intro _
    | with_reducible assumption
    | with_reducible apply State.onPlot_keeps
    | with_reducible apply State.setBytes_keeps
    | with_reducible apply keeps_foldl
    | with_reducible apply keeps_ite
    | (extract_lets +onlyGivenNames u; refine keeps_cut (p := pnd) u ?_ (fun _ => ?_)
       rotate_left; clear_value u; rotate_right; unfold u)
    | (extract_lets +onlyGivenNames v; clear_value v)
    | simp only [keeps_upd_iff]

theorem State.moveExtent_keeps {pnd : List Instr} {s : State} {i : Nat} (hk : s.Keeps pnd) :
    optKeeps pnd (State.moveExtent s i) := by
  unfold State.moveExtent
  repeat' first
    | with_reducible intro _
    | with_reducible assumption
    | with_reducible apply optKeeps_map
    | simp only [keeps_upd_iff]

theorem moveExtents_keeps {p : List Instr} {l : List Nat} {s : State} (h : s.Keeps p) : optKeeps p (moveExtents s l) := by
  induction l generalizing s with
  | nil => exact optKeeps_some h
  | cons i l ih =>
    unfold moveExtents
    split
    · exact ih (keeps_opt ‹_› (State.moveExtent_keeps h))
    · exact optKeeps_none

theorem State.asPlaced_keeps {pnd : List Instr} {s : State} {p : Nat} {pl : Placement} (hk : s.Keeps pnd) :
    (State.asPlaced s p pl).Keeps pnd := by
  unfold State.asPlaced
  repeat' first
    | with_reducible assumption
    | with_reducible apply State.onPlot_keeps

theorem State.placeReason_keeps {pnd : List Instr} {s : State} {p : Nat} {r : Refused} (hk : s.Keeps pnd) :
    (State.placeReason s p r).Keeps pnd := by
  unfold State.placeReason
  repeat' first
    | with_reducible assumption
    | with_reducible apply State.setFld_keeps

theorem State.refusePlace_keeps {pnd : List Instr} {s : State} {p : Nat} {c : HostCmd} {r : Refused} (hk : s.Keeps pnd) :
    (State.refusePlace s p c r).Keeps pnd := by
  unfold State.refusePlace
  repeat' first
    | with_reducible assumption
    | with_reducible apply State.finish_keeps
    | with_reducible apply State.onPlot_keeps
    | with_reducible apply State.placeReason_keeps
    | with_reducible apply State.setPlace_keeps
    | with_reducible apply keeps_ite

theorem State.moveRegions_keeps {pnd : List Instr} {s : State} {p : Nat} {k : Package} {pl : Placement} {st : List Standing}
    (hk : s.Keeps pnd) :
    (State.moveRegions s p k pl st).Keeps pnd := by
  unfold State.moveRegions
  repeat' first
    | with_reducible intro _
    | with_reducible assumption
    | with_reducible apply State.onPlot_keeps
    | with_reducible apply State.putIdle_keeps
    | with_reducible apply State.putRegion_keeps
    | with_reducible apply State.relocate_keeps
    | with_reducible apply keeps_foldl
    | simp only [keeps_upd_iff]
    | split

theorem State.commitPlacement_keeps {pnd : List Instr} {s : State} {p : Nat} {pl : Placement} (hk : s.Keeps pnd) :
    (State.commitPlacement s p pl).Keeps pnd := by
  unfold State.commitPlacement
  repeat' first
    | with_reducible intro _
    | with_reducible assumption
    | with_reducible apply State.instantOf_keeps
    | with_reducible apply State.onPlot_keeps
    | with_reducible apply State.resetTile_keeps
    | with_reducible apply State.setFld_keeps
    | with_reducible apply State.setPlace_keeps
    | with_reducible apply State.setTiles_keeps
    | with_reducible apply State.writeTrees_keeps
    | with_reducible apply keeps_foldl
    | with_reducible apply keeps_ite
    | simp only [keeps_upd_iff]

theorem execPlace_keeps {pnd : List Instr} {q : Nat} {s : State} (hk : s.Keeps pnd) : outKeeps pnd (execPlace q s) := by
  unfold execPlace
  repeat' first
    | with_reducible intro _
    | with_reducible assumption
    | with_reducible apply hostRow_keeps
    | with_reducible apply State.moveRegions_keeps
    | with_reducible apply State.onCommand_keeps
    | with_reducible apply State.onPlot_keeps
    | with_reducible apply State.refusePlace_keeps
    | with_reducible apply State.setPlace_keeps
    | with_reducible apply outKeeps_next
    | with_reducible apply outKeeps_refused
    | split

theorem State.endPlacing_keeps {pnd : List Instr} {s : State} {p : Nat} {pl : Placement} (hk : s.Keeps pnd) :
    (State.endPlacing s p pl).Keeps pnd := by
  unfold State.endPlacing
  repeat' first
    | with_reducible assumption
    | with_reducible apply State.commitPlacement_keeps
    | with_reducible apply State.finish_keeps
    | with_reducible apply State.liftFence_keeps
    | with_reducible apply keeps_ite
    | (extract_lets +onlyGivenNames u; refine keeps_cut (p := pnd) u ?_ (fun _ => ?_)
       rotate_left; clear_value u; rotate_right; unfold u)
    | (extract_lets +onlyGivenNames v; clear_value v)
    | split

theorem execPlacementCommit_keeps {pnd : List Instr} {p : Nat} {s : State} (hk : s.Keeps pnd) :
    outKeeps pnd (execPlacementCommit p s) := by
  unfold execPlacementCommit
  repeat' first
    | with_reducible intro _
    | with_reducible assumption
    | with_reducible apply State.endPlacing_keeps
    | with_reducible apply when__keeps
    | with_reducible apply outKeeps_whenSome
    | with_reducible apply outKeeps_onUnit

theorem State.keepRange_keeps {pnd : List Instr} {src : State} {old : Placement} {s : State} {pl : Placement} {i : Nat}
    {from_ to_ n : Nat → Nat} (hk : src.Keeps pnd) (hk1 : s.Keeps pnd) :
    (State.keepRange src old s pl i from_ to_ n).Keeps pnd := by
  unfold State.keepRange
  repeat' first
    | with_reducible assumption
    | with_reducible apply State.putLoam_keeps
    | (extract_lets +onlyGivenNames v; clear_value v)
    | split

theorem State.copyRegions_keeps {pnd : List Instr} {s : State} {p : Nat} {old pl : Placement} (hk : s.Keeps pnd) :
    fstKeeps pnd (State.copyRegions s p old pl) := by
  unfold State.copyRegions
  repeat' first
    | with_reducible intro _
    | with_reducible assumption
    | with_reducible apply State.keepRange_keeps
    | with_reducible apply State.putIdle_keeps
    | with_reducible apply State.putLoam_keeps
    | with_reducible apply keeps_foldl
    | with_reducible apply fstKeeps_mk
    | (extract_lets +onlyGivenNames v; clear_value v)
    | simp only [keeps_upd_iff]
    | split

theorem State.copyRegions_keeps' {pnd : List Instr} {s : State} {p : Nat} {old pl : Placement} (hk : s.Keeps pnd) :
    (State.copyRegions s p old pl).1.Keeps pnd := State.copyRegions_keeps hk

theorem execReplacement_keeps {pnd : List Instr} {p : Nat} {s : State} (hk : s.Keeps pnd) :
    outKeeps pnd (execReplacement p s) := by
  unfold execReplacement
  repeat' first
    | with_reducible intro _
    | with_reducible assumption
    | with_reducible apply State.copyRegions_keeps'
    | with_reducible apply State.onPlot_keeps
    | with_reducible apply State.placeReason_keeps
    | with_reducible apply State.setPlace_keeps
    | with_reducible apply outKeeps_whenSome
    | with_reducible apply outKeeps_onUnit
    | with_reducible apply outKeeps_next
    | with_reducible apply outKeeps_refused
    | simp only [keeps_upd_iff]
    | split

theorem State.endIncomplete_keeps {pnd : List Instr} {s : State} {p : Nat} {pl : Placement} (hk : s.Keeps pnd) :
    (State.endIncomplete s p pl).Keeps pnd := by
  unfold State.endIncomplete
  repeat' first
    | with_reducible assumption
    | with_reducible apply State.commitPlacement_keeps
    | with_reducible apply State.liftFence_keeps

/-! ### Retire -/

theorem State.startReplace_keeps {pnd : List Instr} {s : State} {p : Nat} (hk : s.Keeps pnd) :
    (State.startReplace s p).Keeps pnd := by
  unfold State.startReplace
  repeat' first
    | with_reducible assumption
    | with_reducible apply State.onPlot_keeps
    | with_reducible apply State.setPlace_keeps
    | with_reducible apply keeps_ite

theorem State.restartPlacing_keeps {pnd : List Instr} {s : State} (hk : s.Keeps pnd) :
    (State.restartPlacing s).Keeps pnd := by
  unfold State.restartPlacing
  repeat' first
    | with_reducible intro _
    | with_reducible assumption
    | with_reducible apply State.onPlot_keeps
    | with_reducible apply keeps_foldl

theorem State.repairEvent_keeps {pnd : List Instr} {s : State} {source : Word} (hk : s.Keeps pnd) :
    (State.repairEvent s source).Keeps pnd := by
  unfold State.repairEvent
  repeat' first
    | with_reducible assumption
    | with_reducible apply State.event_keeps
    | with_reducible apply State.takeFree_keeps'

theorem State.cancelRetired_keeps {pnd : List Instr} {s : State} {hit : Nat → Bool} (hk : s.Keeps pnd) :
    (State.cancelRetired s hit).Keeps pnd := by
  unfold State.cancelRetired
  repeat' first
    | with_reducible assumption
    | with_reducible apply State.cancelSets_keeps

theorem State.retireTile_keeps {pnd : List Instr} {s : State} {t : Site} (hk : s.Keeps pnd) :
    (State.retireTile s t).Keeps pnd := by
  unfold State.retireTile
  repeat' first
    | with_reducible assumption
    | with_reducible apply State.cancelRetired_keeps
    | with_reducible apply State.fencePlot_keeps
    | with_reducible apply State.repairEvent_keeps
    | with_reducible apply State.startReplace_keeps
    | with_reducible apply keeps_ite
    | (extract_lets +onlyGivenNames u; refine keeps_cut (p := pnd) u ?_ (fun _ => ?_)
       rotate_left; clear_value u; rotate_right; unfold u)
    | (extract_lets +onlyGivenNames v; clear_value v)
    | simp only [keeps_upd_iff]
    | split

theorem State.retireField_keeps {pnd : List Instr} {s : State} {f cause : Nat} (hk : s.Keeps pnd) :
    (State.retireField s f cause).Keeps pnd := by
  unfold State.retireField
  repeat' first
    | with_reducible intro _
    | with_reducible assumption
    | with_reducible apply State.cancelRetired_keeps
    | with_reducible apply State.fence_keeps
    | with_reducible apply State.onField_keeps
    | with_reducible apply State.restartPlacing_keeps
    | with_reducible apply State.startReplace_keeps
    | with_reducible apply keeps_foldl
    | with_reducible apply keeps_ite
    | simp only [keeps_upd_iff]

theorem State.retireSpill_keeps {pnd : List Instr} {s : State} {t : Site} (hk : s.Keeps pnd) :
    (State.retireSpill s t).Keeps pnd := by
  unfold State.retireSpill
  repeat' first
    | with_reducible intro _
    | with_reducible assumption
    | with_reducible apply State.fence_keeps
    | with_reducible apply State.startReplace_keeps
    | with_reducible apply keeps_foldl
    | (extract_lets +onlyGivenNames v; clear_value v)
    | simp only [keeps_upd_iff]

theorem State.promote_keeps {pnd : List Instr} {s : State} {u : Site} (hk : s.Keeps pnd) : (State.promote s u).Keeps pnd := by
  unfold State.promote
  repeat' first
    | with_reducible assumption
    | simp only [keeps_upd_iff]

theorem State.mapFields_keeps {pnd : List Instr} {s : State} (hk : s.Keeps pnd) : (State.mapFields s).Keeps pnd := by
  unfold State.mapFields
  repeat' first
    | with_reducible intro _
    | with_reducible assumption
    | with_reducible apply State.setFld_keeps
    | with_reducible apply keeps_foldl
    | (extract_lets +onlyGivenNames v; clear_value v)
    | simp only [keeps_upd_iff]

theorem State.mapTiles_keeps {pnd : List Instr} {s : State} (hk : s.Keeps pnd) : (State.mapTiles s).Keeps pnd := by
  unfold State.mapTiles
  repeat' first
    | with_reducible intro _
    | with_reducible assumption
    | with_reducible apply State.darken_keeps
    | with_reducible apply State.promote_keeps
    | with_reducible apply keeps_foldl
    | (extract_lets +onlyGivenNames v; clear_value v)
    | simp only [keeps_upd_iff]
    | split

theorem State.writeAllTrees_keeps {pnd : List Instr} {s : State} (hk : s.Keeps pnd) : (State.writeAllTrees s).Keeps pnd := by
  unfold State.writeAllTrees
  repeat' first
    | with_reducible intro _
    | with_reducible assumption
    | with_reducible apply State.writeTrees_keeps
    | with_reducible apply keeps_foldl
    | with_reducible apply keeps_ite

theorem State.note_keeps {pnd : List Instr} {s : State} {f : Repair → Repair} (hk : s.Keeps pnd) :
    (State.note s f).Keeps pnd := by
  unfold State.note
  repeat' first
    | with_reducible assumption
    | simp only [keeps_upd_iff]

theorem State.commitTables_keeps {pnd : List Instr} {s : State} (hk : s.Keeps pnd) : (State.commitTables s).Keeps pnd := by
  unfold State.commitTables
  repeat' first
    | with_reducible assumption
    | with_reducible apply State.count_keeps
    | with_reducible apply State.mapFields_keeps
    | with_reducible apply State.mapTiles_keeps
    | with_reducible apply State.setReg_keeps
    | with_reducible apply State.writeAllTrees_keeps
    | simp only [keeps_upd_iff]

theorem execTableCommit_keeps {pnd : List Instr} {s : State} (hk : s.Keeps pnd) : outKeeps pnd (execTableCommit s) := by
  unfold execTableCommit
  repeat' first
    | with_reducible assumption
    | with_reducible apply State.commitTables_keeps
    | with_reducible apply when__keeps

theorem State.takeNotice_keeps {pnd : List Instr} {s : State} {t : Site} {n : SvcNote} (hk : s.Keeps pnd) :
    (State.takeNotice s t n).Keeps pnd := by
  unfold State.takeNotice
  repeat' first
    | with_reducible assumption
    | with_reducible apply State.note_keeps
    | with_reducible apply State.repairEvent_keeps
    | with_reducible apply State.retireTile_keeps
    | with_reducible apply keeps_ite
    | simp only [keeps_upd_iff]
    | split

theorem execSparingNotice_keeps {pnd : List Instr} {s : State} (hk : s.Keeps pnd) : outKeeps pnd (execSparingNotice s) := by
  unfold execSparingNotice
  repeat' first
    | with_reducible intro _
    | with_reducible assumption
    | with_reducible apply State.takeNotice_keeps
    | with_reducible apply outKeeps_whenSome
    | with_reducible apply outKeeps_next
    | simp only [keeps_upd_iff]

end Sys2Proof.Machine
end

