-- ==== Sys2Proof/Laws/KeepsDevice.lean ====
section
/-!
SUPPORT. That every operation of clocks, power, resets, RUN and RDMA keeps the invariant of Sys2Proof/Safety.lean and the
commands that wait: one lemma per operation, named after it.
-/
set_option linter.unusedSimpArgs false
set_option linter.tactic.unusedName false
set_option linter.unusedVariables false
namespace Sys2Proof.Machine

/-! ### Clocks -/

theorem State.showClkOut_keeps {pnd : List Instr} {s : State} (hk : s.Keeps pnd) : (State.showClkOut s).Keeps pnd := by
  unfold State.showClkOut
  repeat' first
    | with_reducible assumption
    | with_reducible apply State.setFld_keeps
    | (extract_lets +onlyGivenNames u; refine keeps_cut (p := pnd) u ?_ (fun _ => ?_)
       rotate_left; clear_value u; rotate_right; unfold u)
    | (extract_lets +onlyGivenNames v; clear_value v)
    | simp only [keeps_upd_iff]

theorem State.writeClkOut_keeps {pnd : List Instr} {s : State} {v : Dword} (hk : s.Keeps pnd) :
    (State.writeClkOut s v).Keeps pnd := by
  unfold State.writeClkOut
  repeat' first
    | with_reducible assumption
    | with_reducible apply State.setFld_keeps
    | with_reducible apply State.showClkOut_keeps

theorem State.setGclk_keeps {pnd : List Instr} {s : State} {n : Nat} (hk : s.Keeps pnd) : (State.setGclk s n).Keeps pnd := by
  unfold State.setGclk
  repeat' first
    | with_reducible assumption
    | with_reducible apply State.setFld_keeps

theorem State.failover_keeps {pnd : List Instr} {s : State} (hk : s.Keeps pnd) : (State.failover s).Keeps pnd := by
  unfold State.failover
  repeat' first
    | with_reducible assumption
    | with_reducible apply State.alarm_keeps
    | with_reducible apply State.bump_keeps
    | with_reducible apply State.setFld_keeps
    | with_reducible apply State.setGclk_keeps
    | simp only [keeps_upd_iff]

theorem execRefMonitorWindow_keeps {pnd : List Instr} {src : RefSrc} {count : Nat} {gap : Bool} {s : State} (hk : s.Keeps
    pnd) :
    outKeeps pnd (execRefMonitorWindow src count gap s) := by
  unfold execRefMonitorWindow
  repeat' first
    | with_reducible assumption
    | with_reducible apply State.failover_keeps
    | with_reducible apply State.setFld_keeps
    | with_reducible apply outKeeps_next
    | with_reducible apply outKeeps_refused
    | with_reducible apply keeps_ite
    | (extract_lets +onlyGivenNames u; refine keeps_cut (p := pnd) u ?_ (fun _ => ?_)
       rotate_left; clear_value u; rotate_right; unfold u)
    | (extract_lets +onlyGivenNames v; clear_value v)
    | simp only [keeps_upd_iff]
    | split

theorem execReferenceEdgeGap_keeps {pnd : List Instr} {s : State} (hk : s.Keeps pnd) :
    outKeeps pnd (execReferenceEdgeGap s) := by
  unfold execReferenceEdgeGap
  repeat' first
    | with_reducible assumption
    | with_reducible apply State.failover_keeps
    | with_reducible apply when__keeps

theorem State.slew_keeps {pnd : List Instr} {s : State} {f n : Nat} (hk : s.Keeps pnd) : (State.slew s f n).Keeps pnd := by
  unfold State.slew
  repeat' first
    | with_reducible assumption
    | with_reducible apply State.onField_keeps
    | with_reducible apply State.setFld_keeps
    | with_reducible apply keeps_ite

theorem execPllCoast_keeps {pnd : List Instr} {f : Nat} {s : State} (hk : s.Keeps pnd) : outKeeps pnd (execPllCoast f s) := by
  unfold execPllCoast
  repeat' first
    | with_reducible assumption
    | with_reducible apply State.setFld_keeps
    | with_reducible apply State.slew_keeps
    | with_reducible apply when__keeps
    | with_reducible apply outKeeps_onUnit

theorem execPllRelock_keeps {pnd : List Instr} {f : Nat} {s : State} (hk : s.Keeps pnd) :
    outKeeps pnd (execPllRelock f s) := by
  unfold execPllRelock
  repeat' first
    | with_reducible assumption
    | with_reducible apply State.setFld_keeps
    | with_reducible apply State.slew_keeps
    | with_reducible apply when__keeps
    | with_reducible apply outKeeps_onUnit
    | with_reducible apply keeps_ite

theorem State.fieldReaches_keeps {pnd : List Instr} {s : State} {f n : Nat} (hk : s.Keeps pnd) :
    (State.fieldReaches s f n).Keeps pnd := by
  unfold State.fieldReaches
  repeat' first
    | with_reducible intro _
    | with_reducible assumption
    | with_reducible apply State.onField_keeps
    | with_reducible apply State.setFld_keeps
    | with_reducible apply State.startReplace_keeps
    | with_reducible apply keeps_foldl
    | with_reducible apply keeps_ite
    | (extract_lets +onlyGivenNames u; refine keeps_cut (p := pnd) u ?_ (fun _ => ?_)
       rotate_left; clear_value u; rotate_right; unfold u)
    | simp only [keeps_upd_iff]

theorem execPllSlewDone_keeps {pnd : List Instr} {f : Nat} {s : State} (hk : s.Keeps pnd) :
    outKeeps pnd (execPllSlewDone f s) := by
  unfold execPllSlewDone
  repeat' first
    | with_reducible intro _
    | with_reducible assumption
    | with_reducible apply State.fieldReaches_keeps
    | with_reducible apply State.onField_keeps
    | with_reducible apply State.setFld_keeps
    | with_reducible apply State.showClkOut_keeps
    | with_reducible apply outKeeps_whenSome
    | with_reducible apply outKeeps_onUnit
    | with_reducible apply outKeeps_next
    | with_reducible apply keeps_ite
    | split

theorem State.writeMuxSel_keeps {pnd : List Instr} {s : State} {m sel : Nat} (hk : s.Keeps pnd) :
    (State.writeMuxSel s m sel).Keeps pnd := by
  unfold State.writeMuxSel
  repeat' first
    | with_reducible assumption
    | with_reducible apply State.setFld_keeps
    | with_reducible apply keeps_ite
    | (extract_lets +onlyGivenNames u; refine keeps_cut (p := pnd) u ?_ (fun _ => ?_)
       rotate_left; clear_value u; rotate_right; unfold u)
    | simp only [keeps_upd_iff]

theorem State.muxOn_keeps {pnd : List Instr} {s : State} {m target : Nat} (hk : s.Keeps pnd) :
    (State.muxOn s m target).Keeps pnd := by
  unfold State.muxOn
  repeat' first
    | with_reducible assumption
    | with_reducible apply State.setFld_keeps
    | with_reducible apply State.setGclk_keeps
    | with_reducible apply State.showClkOut_keeps
    | with_reducible apply keeps_ite
    | (extract_lets +onlyGivenNames u; refine keeps_cut (p := pnd) u ?_ (fun _ => ?_)
       rotate_left; clear_value u; rotate_right; unfold u)
    | simp only [keeps_upd_iff]

theorem State.forceMux_keeps {pnd : List Instr} {s : State} {m : Nat} (hk : s.Keeps pnd) :
    (State.forceMux s m).Keeps pnd := by
  unfold State.forceMux
  repeat' first
    | with_reducible assumption
    | with_reducible apply State.bump_keeps
    | with_reducible apply State.muxOn_keeps
    | with_reducible apply keeps_ite
    | split

theorem State.writeMux_keeps {pnd : List Instr} {s : State} {m : Nat} {v : Dword} (hk : s.Keeps pnd) :
    (State.writeMux s m v).Keeps pnd := by
  unfold State.writeMux
  repeat' first
    | with_reducible assumption
    | with_reducible apply State.forceMux_keeps
    | with_reducible apply State.writeMuxSel_keeps
    | with_reducible apply keeps_ite

theorem execClkMuxSelWrite_keeps {pnd : List Instr} {m : Nat} {v : Dword} {s : State} (hk : s.Keeps pnd) :
    outKeeps pnd (execClkMuxSelWrite m v s) := by
  unfold execClkMuxSelWrite
  repeat' first
    | with_reducible assumption
    | with_reducible apply State.writeMuxSel_keeps
    | with_reducible apply outKeeps_onUnit
    | with_reducible apply outKeeps_next

theorem execClkMuxSwitchDone_keeps {pnd : List Instr} {m : Nat} {s : State} (hk : s.Keeps pnd) :
    outKeeps pnd (execClkMuxSwitchDone m s) := by
  unfold execClkMuxSwitchDone
  repeat' first
    | with_reducible intro _
    | with_reducible assumption
    | with_reducible apply State.muxOn_keeps
    | with_reducible apply when__keeps
    | with_reducible apply outKeeps_whenSome
    | with_reducible apply outKeeps_onUnit

theorem execClkMuxHang_keeps {pnd : List Instr} {m : Nat} {s : State} (hk : s.Keeps pnd) :
    outKeeps pnd (execClkMuxHang m s) := by
  unfold execClkMuxHang
  repeat' first
    | with_reducible assumption
    | with_reducible apply State.event_keeps
    | with_reducible apply State.setFld_keeps
    | with_reducible apply when__keeps
    | with_reducible apply outKeeps_onUnit

theorem execClkMuxForce_keeps {pnd : List Instr} {m : Nat} {s : State} (hk : s.Keeps pnd) :
    outKeeps pnd (execClkMuxForce m s) := by
  unfold execClkMuxForce
  repeat' first
    | with_reducible assumption
    | with_reducible apply State.forceMux_keeps
    | with_reducible apply outKeeps_onUnit
    | with_reducible apply outKeeps_next

theorem State.writeMeas_keeps {pnd : List Instr} {s : State} {v : Dword} (hk : s.Keeps pnd) :
    (State.writeMeas s v).Keeps pnd := by
  unfold State.writeMeas
  repeat' first
    | with_reducible assumption
    | with_reducible apply State.setFld_keeps
    | with_reducible apply keeps_ite

theorem execClkMeasGo_keeps {pnd : List Instr} {v : Dword} {s : State} (hk : s.Keeps pnd) :
    outKeeps pnd (execClkMeasGo v s) := by
  unfold execClkMeasGo
  repeat' first
    | with_reducible assumption
    | with_reducible apply State.writeMeas_keeps
    | with_reducible apply outKeeps_next

theorem execClkMeasDone_keeps {pnd : List Instr} {count : Nat} {s : State} (hk : s.Keeps pnd) :
    outKeeps pnd (execClkMeasDone count s) := by
  unfold execClkMeasDone
  repeat' first
    | with_reducible assumption
    | with_reducible apply State.setFld_keeps
    | with_reducible apply when__keeps

/-! ### Power -/

theorem State.eachInField_keeps {p : List Instr} {s : State} {f : Nat} {g : State → Site → State} (h : s.Keeps p)
    (k : ∀ u t, u.Keeps p → (g u t).Keeps p) : (s.eachInField f g).Keeps p := keeps_foldl h k

theorem State.nap_keeps {pnd : List Instr} {s : State} {t : Site} (hk : s.Keeps pnd) : (State.nap s t).Keeps pnd := by
  unfold State.nap
  repeat' first
    | with_reducible assumption
    | with_reducible apply State.onTile_keeps

theorem State.sleepPlot_keeps {pnd : List Instr} {s : State} {p : Nat} (hk : s.Keeps pnd) :
    (State.sleepPlot s p).Keeps pnd := by
  unfold State.sleepPlot
  repeat' first
    | with_reducible intro _
    | with_reducible assumption
    | with_reducible apply State.nap_keeps
    | with_reducible apply keeps_foldl
    | with_reducible apply keeps_ite

theorem State.writePwrPlot_keeps {pnd : List Instr} {s : State} {p : Nat} {v : Dword} (hk : s.Keeps pnd) :
    (State.writePwrPlot s p v).Keeps pnd := by
  unfold State.writePwrPlot
  repeat' first
    | with_reducible assumption
    | with_reducible apply State.setFld_keeps
    | with_reducible apply State.sleepPlot_keeps

theorem execTileNapWake_keeps {pnd : List Instr} {t : Site} {s : State} (hk : s.Keeps pnd) :
    outKeeps pnd (execTileNapWake t s) := by
  unfold execTileNapWake
  repeat' first
    | with_reducible assumption
    | with_reducible apply State.onTile_keeps
    | with_reducible apply when__keeps
    | with_reducible apply outKeeps_onTile

theorem execTileDarkWake_keeps {pnd : List Instr} {t : Site} {s : State} (hk : s.Keeps pnd) :
    outKeeps pnd (execTileDarkWake t s) := by
  unfold execTileDarkWake
  repeat' first
    | with_reducible assumption
    | with_reducible apply State.resetTile_keeps
    | with_reducible apply when__keeps
    | with_reducible apply outKeeps_onTile

theorem State.toPenumbra_keeps {pnd : List Instr} {s : State} {f : Nat} (hk : s.Keeps pnd) :
    (State.toPenumbra s f).Keeps pnd := by
  unfold State.toPenumbra
  repeat' first
    | with_reducible intro _
    | with_reducible assumption
    | with_reducible apply State.darken_keeps
    | with_reducible apply State.eachInField_keeps
    | with_reducible apply State.nap_keeps
    | with_reducible apply State.onField_keeps
    | with_reducible apply State.slew_keeps
    | split

theorem execFieldToPenumbra_keeps {pnd : List Instr} {f : Nat} {s : State} (hk : s.Keeps pnd) :
    outKeeps pnd (execFieldToPenumbra f s) := by
  unfold execFieldToPenumbra
  repeat' first
    | with_reducible assumption
    | with_reducible apply State.toPenumbra_keeps
    | with_reducible apply when__keeps
    | with_reducible apply outKeeps_onUnit

theorem State.toLit_keeps {pnd : List Instr} {s : State} {f : Nat} (hk : s.Keeps pnd) : (State.toLit s f).Keeps pnd := by
  unfold State.toLit
  repeat' first
    | with_reducible assumption
    | with_reducible apply State.onField_keeps
    | with_reducible apply State.setFld_keeps

theorem execFieldToLit_keeps {pnd : List Instr} {f : Nat} {s : State} (hk : s.Keeps pnd) :
    outKeeps pnd (execFieldToLit f s) := by
  unfold execFieldToLit
  repeat' first
    | with_reducible assumption
    | with_reducible apply State.toLit_keeps
    | with_reducible apply when__keeps
    | with_reducible apply outKeeps_onUnit

theorem State.fieldDark_keeps {pnd : List Instr} {s : State} {f : Nat} (hk : s.Keeps pnd) :
    (State.fieldDark s f).Keeps pnd := by
  unfold State.fieldDark
  repeat' first
    | with_reducible assumption
    | with_reducible apply State.onField_keeps
    | with_reducible apply State.setFld_keeps
    | with_reducible apply State.showClkOut_keeps
    | with_reducible apply keeps_dark

theorem State.fieldOff_keeps {pnd : List Instr} {s : State} {f cause : Nat} (hk : s.Keeps pnd) :
    (State.fieldOff s f cause).Keeps pnd := by
  unfold State.fieldOff
  repeat' first
    | with_reducible intro _
    | with_reducible assumption
    | with_reducible apply State.fence_keeps
    | with_reducible apply State.fieldDark_keeps
    | with_reducible apply State.onField_keeps
    | with_reducible apply State.restartPlacing_keeps
    | with_reducible apply State.startReplace_keeps
    | with_reducible apply keeps_foldl
    | with_reducible apply keeps_ite

theorem execFieldToUmbra_keeps {pnd : List Instr} {f : Nat} {emergency : Bool} {s : State} (hk : s.Keeps pnd) :
    outKeeps pnd (execFieldToUmbra f emergency s) := by
  unfold execFieldToUmbra
  repeat' first
    | with_reducible assumption
    | with_reducible apply State.fieldOff_keeps
    | with_reducible apply State.onField_keeps
    | with_reducible apply when__keeps
    | with_reducible apply outKeeps_onUnit
    | with_reducible apply outKeeps_next
    | with_reducible apply outKeeps_refused
    | (extract_lets +onlyGivenNames v; clear_value v)
    | simp only [keeps_upd_iff]
    | split

theorem State.softStart_keeps {pnd : List Instr} {s : State} {f : Nat} (hk : s.Keeps pnd) :
    (State.softStart s f).Keeps pnd := by
  unfold State.softStart
  repeat' first
    | with_reducible assumption
    | with_reducible apply State.onField_keeps
    | with_reducible apply State.setFld_keeps

theorem execFieldPowerUp_keeps {pnd : List Instr} {f : Nat} {s : State} (hk : s.Keeps pnd) :
    outKeeps pnd (execFieldPowerUp f s) := by
  unfold execFieldPowerUp
  repeat' first
    | with_reducible assumption
    | with_reducible apply State.softStart_keeps
    | with_reducible apply when__keeps
    | with_reducible apply outKeeps_onUnit

theorem State.setRate_keeps {pnd : List Instr} {s : State} {p n : Nat} (hk : s.Keeps pnd) :
    (State.setRate s p n).Keeps pnd := by
  unfold State.setRate
  repeat' first
    | with_reducible assumption
    | with_reducible apply State.setFld_keeps

theorem State.capStep_keeps {pnd : List Instr} {s : State} {pin : Nat} {powers : Nat → Nat} (hk : s.Keeps pnd) :
    (State.capStep s pin powers).Keeps pnd := by
  unfold State.capStep
  repeat' first
    | with_reducible intro _
    | with_reducible assumption
    | with_reducible apply State.setRate_keeps
    | with_reducible apply keeps_foldl
    | with_reducible apply keeps_ite

theorem execCapLoop_keeps {pnd : List Instr} {pin : Nat} {plots : List (Nat × Nat)} {s : State} (hk : s.Keeps pnd) :
    outKeeps pnd (execCapLoop pin plots s) := by
  unfold execCapLoop
  repeat' first
    | with_reducible intro _
    | with_reducible assumption
    | with_reducible apply State.capStep_keeps
    | with_reducible apply State.setFld_keeps
    | with_reducible apply keeps_foldl
    | with_reducible apply outKeeps_next
    | (extract_lets +onlyGivenNames u; refine keeps_cut (p := pnd) u ?_ (fun _ => ?_)
       rotate_left; clear_value u; rotate_right; unfold u)
    | (extract_lets +onlyGivenNames v; (have hv := fun x => v x); clear hv; unfold v)
    | split

theorem State.endPhase_keeps {pnd : List Instr} {s : State} {p meanPower meanRate : Nat} (hk : s.Keeps pnd) :
    (State.endPhase s p meanPower meanRate).Keeps pnd := by
  unfold State.endPhase
  repeat' first
    | with_reducible assumption
    | with_reducible apply State.setPlot_keeps
    | (extract_lets +onlyGivenNames v; clear_value v)
    | split

theorem State.endPhaseFree_keeps {pnd : List Instr} {s : State} {p : Nat} (hk : s.Keeps pnd) :
    (State.endPhaseFree s p).Keeps pnd := by
  unfold State.endPhaseFree
  repeat' first
    | with_reducible assumption
    | with_reducible apply State.endPhase_keeps
    | with_reducible apply State.takeFree_keeps'
    | with_reducible apply keeps_ite

theorem State.hint_keeps {pnd : List Instr} {s : State} {p phase level meanPower meanRate : Nat} (hk : s.Keeps pnd) :
    (State.hint s p phase level meanPower meanRate).Keeps pnd := by
  unfold State.hint
  repeat' first
    | with_reducible assumption
    | with_reducible apply State.endPhase_keeps
    | with_reducible apply State.setPlot_keeps
    | with_reducible apply State.setRate_keeps
    | with_reducible apply keeps_ite

theorem execHeavyHintReceive_keeps {pnd : List Instr} {meanPower meanRate : Nat} {s : State} (hk : s.Keeps pnd) :
    outKeeps pnd (execHeavyHintReceive meanPower meanRate s) := by
  unfold execHeavyHintReceive
  repeat' first
    | with_reducible intro _
    | with_reducible assumption
    | with_reducible apply State.hint_keeps
    | with_reducible apply outKeeps_whenSome
    | with_reducible apply outKeeps_next
    | simp only [keeps_upd_iff]
    | split

theorem State.writeCapSet_keeps {pnd : List Instr} {s : State} {v : Dword} (hk : s.Keeps pnd) :
    (State.writeCapSet s v).Keeps pnd := by
  unfold State.writeCapSet
  repeat' first
    | with_reducible assumption
    | with_reducible apply State.setFld_keeps

theorem execPwrCapSetWrite_keeps {pnd : List Instr} {v : Dword} {s : State} (hk : s.Keeps pnd) :
    outKeeps pnd (execPwrCapSetWrite v s) := by
  unfold execPwrCapSetWrite
  repeat' first
    | with_reducible assumption
    | with_reducible apply State.writeCapSet_keeps
    | with_reducible apply outKeeps_next

theorem execEnergySample_keeps {pnd : List Instr} {f : Nat} {plots queues : List (Nat × Nat)} {dev ein watts : Nat} {s :
    State} (hk : s.Keeps pnd) :
    outKeeps pnd (execEnergySample f plots queues dev ein watts s) := by
  unfold execEnergySample
  repeat' first
    | with_reducible intro _
    | with_reducible assumption
    | with_reducible apply State.count_keeps
    | with_reducible apply State.setFld_keeps
    | with_reducible apply keeps_foldl
    | with_reducible apply outKeeps_onUnit
    | with_reducible apply outKeeps_next
    | with_reducible apply keeps_ite

theorem execDroopCrossing_keeps {pnd : List Instr} {f : Nat} {s : State} (hk : s.Keeps pnd) :
    outKeeps pnd (execDroopCrossing f s) := by
  unfold execDroopCrossing
  repeat' first
    | with_reducible assumption
    | with_reducible apply State.alarm_keeps
    | with_reducible apply State.bump_keeps
    | with_reducible apply State.onField_keeps
    | with_reducible apply outKeeps_onUnit
    | with_reducible apply outKeeps_next
    | with_reducible apply keeps_ite

theorem execDroopClampStep_keeps {pnd : List Instr} {f : Nat} {s : State} (hk : s.Keeps pnd) :
    outKeeps pnd (execDroopClampStep f s) := by
  unfold execDroopClampStep
  repeat' first
    | with_reducible intro _
    | with_reducible assumption
    | with_reducible apply State.onField_keeps
    | with_reducible apply outKeeps_whenSome
    | with_reducible apply outKeeps_onUnit
    | with_reducible apply outKeeps_next

theorem execBackfillStep_keeps {pnd : List Instr} {t : Site} {s : State} (hk : s.Keeps pnd) :
    outKeeps pnd (execBackfillStep t s) := by
  unfold execBackfillStep
  repeat' first
    | with_reducible assumption
    | with_reducible apply State.onTile_keeps
    | with_reducible apply when__keeps
    | with_reducible apply outKeeps_onTile
    | with_reducible apply outKeeps_next
    | with_reducible apply outKeeps_refused
    | split

theorem State.onSupply_keeps {pnd : List Instr} {s : State} {f : Supply → Supply} (hk : s.Keeps pnd) :
    (State.onSupply s f).Keeps pnd := by
  unfold State.onSupply
  repeat' first
    | with_reducible assumption
    | simp only [keeps_upd_iff]

theorem State.beginShutdown_keeps {pnd : List Instr} {s : State} (hk : s.Keeps pnd) : (State.beginShutdown s).Keeps pnd := by
  unfold State.beginShutdown
  repeat' first
    | with_reducible assumption
    | with_reducible apply State.alarm_keeps
    | with_reducible apply State.onSupply_keeps
    | with_reducible apply State.setFld_keeps
    | with_reducible apply keeps_ite

theorem State.warnSupply_keeps {pnd : List Instr} {s : State} (hk : s.Keeps pnd) : (State.warnSupply s).Keeps pnd := by
  unfold State.warnSupply
  repeat' first
    | with_reducible assumption
    | with_reducible apply State.bump_keeps
    | with_reducible apply State.onSupply_keeps
    | with_reducible apply State.setFld_keeps
    | with_reducible apply keeps_ite

theorem State.endWarn_keeps {pnd : List Instr} {s : State} (hk : s.Keeps pnd) : (State.endWarn s).Keeps pnd := by
  unfold State.endWarn
  repeat' first
    | with_reducible assumption
    | with_reducible apply State.event_keeps
    | with_reducible apply State.setFld_keeps

theorem State.supplySample_keeps {pnd : List Instr} {s : State} {vin : Nat} (hk : s.Keeps pnd) :
    (State.supplySample s vin).Keeps pnd := by
  unfold State.supplySample
  repeat' first
    | with_reducible assumption
    | with_reducible apply State.alarm_keeps
    | with_reducible apply State.beginShutdown_keeps
    | with_reducible apply State.bump_keeps
    | with_reducible apply State.endWarn_keeps
    | with_reducible apply State.onSupply_keeps
    | with_reducible apply State.setFld_keeps
    | with_reducible apply State.warnSupply_keeps
    | with_reducible apply keeps_ite

theorem execSupplySample_keeps {pnd : List Instr} {vin : Nat} {s : State} (hk : s.Keeps pnd) :
    outKeeps pnd (execSupplySample vin s) := by
  unfold execSupplySample
  repeat' first
    | with_reducible assumption
    | with_reducible apply State.supplySample_keeps
    | with_reducible apply when__keeps

theorem execSupplyCeilingStep_keeps {pnd : List Instr} {s : State} (hk : s.Keeps pnd) :
    outKeeps pnd (execSupplyCeilingStep s) := by
  unfold execSupplyCeilingStep
  repeat' first
    | with_reducible assumption
    | with_reducible apply State.onSupply_keeps
    | with_reducible apply when__keeps

theorem execOverloadStep_keeps {pnd : List Instr} {avg : Nat} {s : State} (hk : s.Keeps pnd) :
    outKeeps pnd (execOverloadStep avg s) := by
  unfold execOverloadStep
  repeat' first
    | with_reducible intro _
    | with_reducible assumption
    | with_reducible apply State.alarm_keeps
    | with_reducible apply State.onSupply_keeps
    | with_reducible apply State.setFld_keeps
    | with_reducible apply State.setRate_keeps
    | with_reducible apply keeps_foldl
    | with_reducible apply outKeeps_next
    | with_reducible apply keeps_ite
    | (extract_lets +onlyGivenNames u; refine keeps_cut (p := pnd) u ?_ (fun _ => ?_)
       rotate_left; clear_value u; rotate_right; unfold u)
    | split

theorem execShutdownStage_keeps {pnd : List Instr} {s : State} (hk : s.Keeps pnd) : outKeeps pnd (execShutdownStage s) := by
  unfold execShutdownStage
  repeat' first
    | with_reducible intro _
    | with_reducible assumption
    | with_reducible apply State.darken_keeps
    | with_reducible apply State.eachInField_keeps
    | with_reducible apply State.fence_keeps
    | with_reducible apply State.fieldDark_keeps
    | with_reducible apply State.onSupply_keeps
    | with_reducible apply keeps_foldl
    | with_reducible apply outKeeps_next
    | with_reducible apply outKeeps_refused
    | (extract_lets +onlyGivenNames u; refine keeps_cut (p := pnd) u ?_ (fun _ => ?_)
       rotate_left; clear_value u; rotate_right; unfold u)
    | with_reducible apply keeps_mem_pwr
    | split

theorem State.showHeat_keeps {pnd : List Instr} {s : State} {f : Nat} (hk : s.Keeps pnd) :
    (State.showHeat s f).Keeps pnd := by
  unfold State.showHeat
  repeat' first
    | with_reducible assumption
    | with_reducible apply State.event_keeps
    | with_reducible apply State.setFld_keeps
    | with_reducible apply keeps_ite
    | simp only [keeps_upd_iff]

theorem State.heatCeil_keeps {pnd : List Instr} {s : State} {f : Nat} (hk : s.Keeps pnd) :
    (State.heatCeil s f).Keeps pnd := by
  unfold State.heatCeil
  repeat' first
    | with_reducible assumption
    | with_reducible apply State.event_keeps
    | with_reducible apply State.onField_keeps
    | with_reducible apply State.setFld_keeps
    | with_reducible apply keeps_ite

theorem State.heatState_keeps {pnd : List Instr} {s : State} {f : Nat} (hk : s.Keeps pnd) :
    (State.heatState s f).Keeps pnd := by
  unfold State.heatState
  repeat' first
    | with_reducible intro _
    | with_reducible assumption
    | with_reducible apply State.alarm_keeps
    | with_reducible apply State.fence_keeps
    | with_reducible apply State.onField_keeps
    | with_reducible apply keeps_foldl
    | with_reducible apply keeps_ite

theorem execThermalSample_keeps {pnd : List Instr} {f t0 t1 t2 t3 : Nat} {s : State} (hk : s.Keeps pnd) :
    outKeeps pnd (execThermalSample f t0 t1 t2 t3 s) := by
  unfold execThermalSample
  repeat' first
    | with_reducible assumption
    | with_reducible apply State.heatCeil_keeps
    | with_reducible apply State.heatState_keeps
    | with_reducible apply State.setFld_keeps
    | with_reducible apply State.showHeat_keeps
    | with_reducible apply outKeeps_onUnit
    | with_reducible apply outKeeps_next

theorem State.writeThmCfg_keeps {pnd : List Instr} {s : State} {v : Dword} (hk : s.Keeps pnd) :
    (State.writeThmCfg s v).Keeps pnd := by
  unfold State.writeThmCfg
  repeat' first
    | with_reducible assumption
    | with_reducible apply State.setFld_keeps

theorem execThmCfgWrite_keeps {pnd : List Instr} {v : Dword} {s : State} (hk : s.Keeps pnd) :
    outKeeps pnd (execThmCfgWrite v s) := by
  unfold execThmCfgWrite
  repeat' first
    | with_reducible assumption
    | with_reducible apply State.writeThmCfg_keeps
    | with_reducible apply outKeeps_next

theorem execFieldShort_keeps {pnd : List Instr} {f : Nat} {s : State} (hk : s.Keeps pnd) :
    outKeeps pnd (execFieldShort f s) := by
  unfold execFieldShort
  repeat' first
    | with_reducible assumption
    | with_reducible apply State.alarm_keeps
    | with_reducible apply State.fieldOff_keeps
    | with_reducible apply State.onField_keeps
    | with_reducible apply State.retireField_keeps
    | with_reducible apply State.setFld_keeps
    | with_reducible apply when__keeps
    | with_reducible apply outKeeps_onUnit
    | with_reducible apply keeps_ite

theorem execShortRetry_keeps {pnd : List Instr} {f : Nat} {short : Bool} {s : State} (hk : s.Keeps pnd) :
    outKeeps pnd (execShortRetry f short s) := by
  unfold execShortRetry
  repeat' first
    | with_reducible assumption
    | with_reducible apply State.onField_keeps
    | with_reducible apply State.retireField_keeps
    | with_reducible apply State.setFld_keeps
    | with_reducible apply State.softStart_keeps
    | with_reducible apply when__keeps
    | with_reducible apply outKeeps_onUnit
    | with_reducible apply keeps_ite

/-! ### Resets -/

theorem State.deviceReset_keeps {p : List Instr} {s : State} (h : s.Keeps p) : (s.deviceReset).Keeps p :=
  ⟨h.queue, ⟨rfl, h.canon.flash, rfl, rfl, rfl, rfl, rfl, rfl, rfl, rfl, rfl, rfl⟩⟩

theorem execResetNLow_keeps {pnd : List Instr} {s : State} (hk : s.Keeps pnd) : outKeeps pnd (execResetNLow s) := by
  unfold execResetNLow
  repeat' first
    | with_reducible assumption
    | with_reducible apply State.deviceReset_keeps
    | with_reducible apply outKeeps_next
    | simp only [keeps_upd_iff]

theorem execRasResetDevice_keeps {pnd : List Instr} {s : State} (hk : s.Keeps pnd) : outKeeps pnd (execRasResetDevice s) := by
  unfold execRasResetDevice
  repeat' first
    | with_reducible assumption
    | with_reducible apply State.deviceReset_keeps
    | with_reducible apply outKeeps_next

theorem State.askReset_keeps {pnd : List Instr} {s : State} {d : Domain} (hk : s.Keeps pnd) :
    (State.askReset s d).Keeps pnd := by
  unfold State.askReset
  repeat' first
    | with_reducible assumption
    | with_reducible apply State.count_keeps
    | with_reducible apply State.setFld_keeps
    | simp only [keeps_upd_iff]

theorem State.refuseReset_keeps {pnd : List Instr} {s : State} (hk : s.Keeps pnd) : (State.refuseReset s).Keeps pnd := by
  unfold State.refuseReset
  repeat' first
    | with_reducible assumption
    | with_reducible apply State.setFld_keeps

theorem State.fenceQueues_keeps {pnd : List Instr} {s : State} (hk : s.Keeps pnd) : (State.fenceQueues s).Keeps pnd := by
  unfold State.fenceQueues
  repeat' first
    | with_reducible intro _
    | with_reducible assumption
    | with_reducible apply State.complete_keeps
    | with_reducible apply keeps_foldl

theorem State.askWarm_keeps {pnd : List Instr} {s : State} (hk : s.Keeps pnd) : (State.askWarm s).Keeps pnd := by
  unfold State.askWarm
  repeat' first
    | with_reducible assumption
    | with_reducible apply State.askReset_keeps
    | with_reducible apply State.fenceQueues_keeps

theorem State.askField_keeps {pnd : List Instr} {s : State} {f : Nat} (hk : s.Keeps pnd) :
    (State.askField s f).Keeps pnd := by
  unfold State.askField
  repeat' first
    | with_reducible intro _
    | with_reducible assumption
    | with_reducible apply State.askReset_keeps
    | with_reducible apply State.fence_keeps
    | with_reducible apply State.refuseReset_keeps
    | with_reducible apply keeps_foldl
    | with_reducible apply keeps_ite

theorem State.askPlot_keeps {pnd : List Instr} {s : State} {p : Nat} (hk : s.Keeps pnd) : (State.askPlot s p).Keeps pnd := by
  unfold State.askPlot
  repeat' first
    | with_reducible assumption
    | with_reducible apply State.askReset_keeps
    | with_reducible apply State.fence_keeps
    | with_reducible apply State.refuseReset_keeps
    | with_reducible apply keeps_ite

theorem State.askTile_keeps {pnd : List Instr} {s : State} {t : Site} (hk : s.Keeps pnd) : (State.askTile s t).Keeps pnd := by
  unfold State.askTile
  repeat' first
    | with_reducible assumption
    | with_reducible apply State.askReset_keeps
    | with_reducible apply State.fence_keeps
    | with_reducible apply State.refuseReset_keeps
    | with_reducible apply keeps_ite
    | split

theorem State.writeRasReset_keeps {pnd : List Instr} {s : State} {v : Dword} (hk : s.Keeps pnd) :
    (State.writeRasReset s v).Keeps pnd := by
  unfold State.writeRasReset
  repeat' first
    | with_reducible assumption
    | with_reducible apply State.askField_keeps
    | with_reducible apply State.askPlot_keeps
    | with_reducible apply State.askTile_keeps
    | with_reducible apply State.askWarm_keeps
    | with_reducible apply State.deviceReset_keeps
    | (extract_lets +onlyGivenNames v; clear_value v)
    | split

theorem execRasResetWarm_keeps {pnd : List Instr} {s : State} (hk : s.Keeps pnd) : outKeeps pnd (execRasResetWarm s) := by
  unfold execRasResetWarm
  repeat' first
    | with_reducible assumption
    | with_reducible apply State.askWarm_keeps
    | with_reducible apply outKeeps_next

theorem execRasResetField_keeps {pnd : List Instr} {f : Nat} {s : State} (hk : s.Keeps pnd) :
    outKeeps pnd (execRasResetField f s) := by
  unfold execRasResetField
  repeat' first
    | with_reducible assumption
    | with_reducible apply State.askField_keeps
    | with_reducible apply outKeeps_next

theorem execRasResetPlot_keeps {pnd : List Instr} {p : Nat} {s : State} (hk : s.Keeps pnd) :
    outKeeps pnd (execRasResetPlot p s) := by
  unfold execRasResetPlot
  repeat' first
    | with_reducible assumption
    | with_reducible apply State.askPlot_keeps
    | with_reducible apply outKeeps_onUnit
    | with_reducible apply outKeeps_next

theorem execRasResetTile_keeps {pnd : List Instr} {t : Site} {s : State} (hk : s.Keeps pnd) :
    outKeeps pnd (execRasResetTile t s) := by
  unfold execRasResetTile
  repeat' first
    | with_reducible assumption
    | with_reducible apply State.askTile_keeps
    | with_reducible apply outKeeps_next

theorem execPlotResetReset_keeps {pnd : List Instr} {p : Nat} {s : State} (hk : s.Keeps pnd) :
    outKeeps pnd (execPlotResetReset p s) := by
  unfold execPlotResetReset
  repeat' first
    | with_reducible assumption
    | with_reducible apply State.askPlot_keeps
    | with_reducible apply outKeeps_onUnit
    | with_reducible apply outKeeps_next
    | with_reducible apply keeps_ite

theorem State.startCore_keeps {pnd : List Instr} {s : State} {args : List Word} {t : Site} (hk : s.Keeps pnd) :
    (State.startCore s args t).Keeps pnd := by
  unfold State.startCore
  repeat' first
    | with_reducible assumption
    | with_reducible apply State.onCore_keeps

theorem State.startRun_keeps {pnd : List Instr} {s : State} {p : Nat} {r : RunSt} (hk : s.Keeps pnd) :
    (State.startRun s p r).Keeps pnd := by
  unfold State.startRun
  repeat' first
    | with_reducible intro _
    | with_reducible assumption
    | with_reducible apply State.onNi_keeps
    | with_reducible apply State.onPlot_keeps
    | with_reducible apply State.setFld_keeps
    | with_reducible apply State.startCore_keeps
    | with_reducible apply keeps_foldl

theorem State.restartTile_keeps {pnd : List Instr} {s : State} {t : Site} (hk : s.Keeps pnd) :
    (State.restartTile s t).Keeps pnd := by
  unfold State.restartTile
  repeat' first
    | with_reducible assumption
    | with_reducible apply State.darken_keeps
    | with_reducible apply State.resetTile_keeps
    | with_reducible apply keeps_ite

theorem State.dropSpill_keeps {p : List Instr} {s : State} {here : Site → Bool} (h : s.Keeps p) :
    (s.dropSpill here).Keeps p :=
  keeps_mem h (mapWf_filter _ h.canon.mem)

theorem State.dropSets_keeps {pnd : List Instr} {s : State} {hit : ShadowSet → Bool} (hk : s.Keeps pnd) :
    (State.dropSets s hit).Keeps pnd := by
  unfold State.dropSets
  repeat' first
    | with_reducible assumption
    | with_reducible apply State.showArmed_keeps
    | simp only [keeps_upd_iff]

theorem State.endFieldReset_keeps {pnd : List Instr} {s : State} {f : Nat} (hk : s.Keeps pnd) :
    (State.endFieldReset s f).Keeps pnd := by
  unfold State.endFieldReset
  repeat' first
    | with_reducible intro _
    | with_reducible assumption
    | with_reducible apply State.dropSpill_keeps
    | with_reducible apply State.restartTile_keeps
    | with_reducible apply keeps_foldl

theorem State.endPlotReset_keeps {pnd : List Instr} {s : State} {p : Nat} (hk : s.Keeps pnd) :
    (State.endPlotReset s p).Keeps pnd := by
  unfold State.endPlotReset
  repeat' first
    | with_reducible intro _
    | with_reducible assumption
    | with_reducible apply State.bump_keeps
    | with_reducible apply State.dropSets_keeps
    | with_reducible apply State.liftFence_keeps
    | with_reducible apply State.onPlot_keeps
    | with_reducible apply State.restartTile_keeps
    | with_reducible apply State.setTiles_keeps
    | with_reducible apply State.sleepPlot_keeps
    | with_reducible apply State.startRun_keeps
    | with_reducible apply keeps_foldl
    | with_reducible apply keeps_ite
    | (extract_lets +onlyGivenNames u; refine keeps_cut (p := pnd) u ?_ (fun _ => ?_)
       rotate_left; clear_value u; rotate_right; unfold u)
    | (extract_lets +onlyGivenNames v; clear_value v)
    | split

theorem State.endWarm_keeps {pnd : List Instr} {s : State} (hk : s.Keeps pnd) : (State.endWarm s).Keeps pnd := by
  unfold State.endWarm
  repeat' first
    | with_reducible intro _
    | with_reducible assumption
    | with_reducible apply State.dropSpill_keeps
    | with_reducible apply State.freePlaced_keeps
    | with_reducible apply State.freeStaging_keeps
    | with_reducible apply State.onTelem_keeps
    | with_reducible apply State.restartTile_keeps
    | with_reducible apply State.setFld_keeps
    | with_reducible apply State.setPlace_keeps
    | with_reducible apply State.setPlot_keeps
    | with_reducible apply keeps_foldl
    | (extract_lets +onlyGivenNames u; refine keeps_cut (p := pnd) u ?_ (fun _ => ?_)
       rotate_left; clear_value u; rotate_right; unfold u)
    | (extract_lets +onlyGivenNames v; clear_value v)
    | simp only [keeps_upd_iff]

theorem State.endReset_keeps {p : List Instr} {s : State} {d : Domain} (h : s.Keeps p) : (s.endReset d).Keeps p := by
  cases d with
  | device => exact State.deviceReset_keeps h
  | warm => exact State.endWarm_keeps h
  | field f => exact State.endFieldReset_keeps h
  | plot q => exact State.endPlotReset_keeps h
  | tile t => exact State.restartTile_keeps h

theorem State.withoutReset_keeps {pnd : List Instr} {s : State} {l : List Domain} (hk : s.Keeps pnd) :
    (State.withoutReset s l).Keeps pnd := by
  unfold State.withoutReset
  repeat' first
    | with_reducible assumption
    | with_reducible apply State.setFld_keeps
    | simp only [keeps_upd_iff]

theorem execResetComplete_keeps {pnd : List Instr} {s : State} (hk : s.Keeps pnd) : outKeeps pnd (execResetComplete s) := by
  unfold execResetComplete
  repeat' first
    | with_reducible intro _
    | with_reducible assumption
    | with_reducible apply State.endReset_keeps
    | with_reducible apply State.withoutReset_keeps
    | with_reducible apply outKeeps_whenSome
    | with_reducible apply outKeeps_next

theorem execTileResetTimeout_keeps {pnd : List Instr} {t : Site} {s : State} (hk : s.Keeps pnd) :
    outKeeps pnd (execTileResetTimeout t s) := by
  unfold execTileResetTimeout
  repeat' first
    | with_reducible assumption
    | with_reducible apply State.retireTile_keeps
    | with_reducible apply when__keeps
    | with_reducible apply State.withoutReset_keeps
    | with_reducible apply outKeeps_onTile
    | with_reducible apply outKeeps_refused
    | split

theorem State.zeroRange_keeps {pnd : List Instr} {s : State} {site off len : Nat} (hk : s.Keeps pnd) :
    (State.zeroRange s site off len).Keeps pnd := by
  unfold State.zeroRange
  repeat' first
    | with_reducible assumption
    | with_reducible apply State.onTile_keeps
    | with_reducible apply keeps_mem_filter

theorem execLoamZeroing_keeps {pnd : List Instr} {p : Nat} {s : State} (hk : s.Keeps pnd) :
    outKeeps pnd (execLoamZeroing p s) := by
  unfold execLoamZeroing
  repeat' first
    | with_reducible intro _
    | with_reducible assumption
    | with_reducible apply when__keeps
    | with_reducible apply State.zeroRange_keeps
    | with_reducible apply keeps_foldl
    | simp only [keeps_upd_iff]

theorem State.beginScan_keeps {pnd : List Instr} {s : State} {f : Nat} (hk : s.Keeps pnd) :
    (State.beginScan s f).Keeps pnd := by
  unfold State.beginScan
  repeat' first
    | with_reducible assumption
    | with_reducible apply State.setFld_keeps
    | simp only [keeps_upd_iff]

theorem State.writeScan_keeps {pnd : List Instr} {s : State} {v : Dword} (hk : s.Keeps pnd) :
    (State.writeScan s v).Keeps pnd := by
  unfold State.writeScan
  repeat' first
    | with_reducible intro _
    | with_reducible assumption
    | with_reducible apply State.beginScan_keeps
    | with_reducible apply State.fence_keeps
    | with_reducible apply State.setFld_keeps
    | with_reducible apply keeps_foldl
    | with_reducible apply keeps_ite

theorem execScanGo_keeps {pnd : List Instr} {v : Dword} {s : State} (hk : s.Keeps pnd) : outKeeps pnd (execScanGo v s) := by
  unfold execScanGo
  repeat' first
    | with_reducible assumption
    | with_reducible apply State.writeScan_keeps
    | with_reducible apply outKeeps_next

theorem execScanPeriod_keeps {pnd : List Instr} {s : State} (hk : s.Keeps pnd) : outKeeps pnd (execScanPeriod s) := by
  unfold execScanPeriod
  repeat' first
    | with_reducible assumption
    | with_reducible apply State.beginScan_keeps
    | with_reducible apply when__keeps
    | split

theorem State.judgeScan_keeps {pnd : List Instr} {s : State} {f : Nat} {tiles spills : List Site} (hk : s.Keeps pnd) :
    fstKeeps pnd (State.judgeScan s f tiles spills) := by
  unfold State.judgeScan
  repeat' first
    | with_reducible intro _
    | with_reducible assumption
    | with_reducible apply State.onField_keeps
    | with_reducible apply State.retireField_keeps
    | with_reducible apply State.retireSpill_keeps
    | with_reducible apply State.retireTile_keeps
    | with_reducible apply State.setFld_keeps
    | with_reducible apply keeps_foldl
    | with_reducible apply fstKeeps_mk
    | with_reducible apply keeps_ite
    | (extract_lets +onlyGivenNames v; clear_value v)
    | simp only [keeps_upd_iff]
    | split

theorem State.judgeScan_keeps' {pnd : List Instr} {s : State} {f : Nat} {tiles spills : List Site} (hk : s.Keeps pnd) :
    (State.judgeScan s f tiles spills).1.Keeps pnd := State.judgeScan_keeps hk

theorem State.endScan_keeps {pnd : List Instr} {s : State} {f : Nat} {tiles spills : List Site} (hk : s.Keeps pnd) :
    (State.endScan s f tiles spills).Keeps pnd := by
  unfold State.endScan
  repeat' first
    | with_reducible assumption
    | with_reducible apply State.judgeScan_keeps'
    | with_reducible apply State.toLit_keeps
    | with_reducible apply keeps_ite

theorem execScanDone_keeps {pnd : List Instr} {f : Nat} {tiles spills : List Site} {s : State} (hk : s.Keeps pnd) :
    outKeeps pnd (execScanDone f tiles spills s) := by
  unfold execScanDone
  repeat' first
    | with_reducible assumption
    | with_reducible apply State.endScan_keeps
    | with_reducible apply when__keeps
    | with_reducible apply outKeeps_onUnit

theorem State.fenceHeld_keeps {pnd : List Instr} {s : State} {p : Nat} (hk : s.Keeps pnd) :
    (State.fenceHeld s p).Keeps pnd := by
  unfold State.fenceHeld
  repeat' first
    | with_reducible assumption
    | with_reducible apply State.dropWork_keeps
    | with_reducible apply State.endCommands_keeps
    | with_reducible apply State.fencePlot_keeps
    | with_reducible apply State.onPlot_keeps
    | with_reducible apply State.setFld_keeps
    | with_reducible apply State.writeRecord_keeps
    | with_reducible apply keeps_ite
    | simp only [keeps_upd_iff]
    | split

theorem State.freeze_keeps {pnd : List Instr} {s : State} {cause : Nat} (hk : s.Keeps pnd) :
    (State.freeze s cause).Keeps pnd := by
  unfold State.freeze
  repeat' first
    | with_reducible intro _
    | with_reducible assumption
    | with_reducible apply State.alarm_keeps
    | with_reducible apply State.bump_keeps
    | with_reducible apply State.fenceHeld_keeps
    | with_reducible apply State.fenceQueues_keeps
    | with_reducible apply State.setFld_keeps
    | with_reducible apply keeps_foldl
    | with_reducible apply keeps_ite
    | (extract_lets +onlyGivenNames v; clear_value v)
    | simp only [keeps_upd_iff]

theorem State.halt_keeps {pnd : List Instr} {s : State} (hk : s.Keeps pnd) : (State.halt s).Keeps pnd := by
  unfold State.halt
  repeat' first
    | with_reducible assumption
    | with_reducible apply State.setFld_keeps
    | simp only [keeps_upd_iff]

theorem execFatalError_keeps {pnd : List Instr} {cause : Nat} {s : State} (hk : s.Keeps pnd) :
    outKeeps pnd (execFatalError cause s) := by
  unfold execFatalError
  repeat' first
    | with_reducible assumption
    | with_reducible apply State.freeze_keeps
    | with_reducible apply State.halt_keeps
    | with_reducible apply when__keeps
    | with_reducible apply keeps_ite

theorem execAiTrigger_keeps {pnd : List Instr} {s : State} (hk : s.Keeps pnd) : outKeeps pnd (execAiTrigger s) := by
  unfold execAiTrigger
  repeat' first
    | with_reducible assumption
    | with_reducible apply State.freeze_keeps
    | with_reducible apply outKeeps_next

theorem execWatchdogExpiry_keeps {pnd : List Instr} {s : State} (hk : s.Keeps pnd) : outKeeps pnd (execWatchdogExpiry s) := by
  unfold execWatchdogExpiry
  repeat' first
    | with_reducible assumption
    | with_reducible apply State.atEdge_keeps
    | with_reducible apply State.freeze_keeps
    | with_reducible apply when__keeps

theorem State.releaseAi_keeps {pnd : List Instr} {s : State} (hk : s.Keeps pnd) : (State.releaseAi s).Keeps pnd := by
  unfold State.releaseAi
  repeat' first
    | with_reducible assumption
    | with_reducible apply State.setFld_keeps
    | simp only [keeps_upd_iff]

theorem State.writeAi_keeps {pnd : List Instr} {s : State} {v : Dword} (hk : s.Keeps pnd) :
    (State.writeAi s v).Keeps pnd := by
  unfold State.writeAi
  repeat' first
    | with_reducible assumption
    | with_reducible apply State.freeze_keeps
    | with_reducible apply State.releaseAi_keeps
    | with_reducible apply keeps_ite

theorem execAiRelease_keeps {pnd : List Instr} {s : State} (hk : s.Keeps pnd) : outKeeps pnd (execAiRelease s) := by
  unfold execAiRelease
  repeat' first
    | with_reducible assumption
    | with_reducible apply State.releaseAi_keeps
    | with_reducible apply outKeeps_next

/-! ### HostRun -/

theorem State.beginRun_keeps {pnd : List Instr} {s : State} {p : Nat} {c : HostCmd} (hk : s.Keeps pnd) :
    (State.beginRun s p c).Keeps pnd := by
  unfold State.beginRun
  repeat' first
    | with_reducible assumption
    | with_reducible apply State.setFld_keeps
    | with_reducible apply State.startRun_keeps

theorem execRun_keeps {pnd : List Instr} {q : Nat} {s : State} (hk : s.Keeps pnd) : outKeeps pnd (execRun q s) := by
  unfold execRun
  repeat' first
    | with_reducible intro _
    | with_reducible assumption
    | with_reducible apply State.beginRun_keeps
    | with_reducible apply State.finish_keeps
    | with_reducible apply hostRow_keeps
    | with_reducible apply State.onCommand_keeps
    | with_reducible apply outKeeps_next
    | with_reducible apply outKeeps_refused
    | split

theorem State.finishRun_keeps {pnd : List Instr} {s : State} {p : Nat} (hk : s.Keeps pnd) :
    (State.finishRun s p).Keeps pnd := by
  unfold State.finishRun
  repeat' first
    | with_reducible assumption
    | with_reducible apply State.endPhaseFree_keeps
    | with_reducible apply State.onPlot_keeps
    | with_reducible apply State.sleepPlot_keeps

theorem State.endRun_keeps {pnd : List Instr} {s : State} {p status detail : Nat} (hk : s.Keeps pnd) :
    (State.endRun s p status detail).Keeps pnd := by
  unfold State.endRun
  repeat' first
    | with_reducible assumption
    | with_reducible apply State.finish_keeps
    | with_reducible apply State.finishRun_keeps
    | (extract_lets +onlyGivenNames u; refine keeps_cut (p := pnd) u ?_ (fun _ => ?_)
       rotate_left; clear_value u; rotate_right; unfold u)
    | (extract_lets +onlyGivenNames v; clear_value v)
    | split

theorem State.endFinished_keeps {pnd : List Instr} {s : State} {p : Nat} (hk : s.Keeps pnd) : (State.endFinished s p).Keeps pnd := by
  unfold State.endFinished
  repeat' first
    | with_reducible assumption
    | with_reducible apply State.endRun_keeps
    | with_reducible apply keeps_ite
    | split

theorem State.takeReport_keeps {pnd : List Instr} {s : State} {t : Site} {next : Option Nat} (hk : s.Keeps pnd) :
    (State.takeReport s t next).Keeps pnd := by
  unfold State.takeReport
  repeat' first
    | with_reducible assumption
    | with_reducible apply State.endFinished_keeps
    | with_reducible apply State.onPlot_keeps
    | with_reducible apply keeps_ite
    | simp only [keeps_upd_iff]
    | split

theorem execFrameReport_keeps {pnd : List Instr} {s : State} (hk : s.Keeps pnd) : outKeeps pnd (execFrameReport s) := by
  unfold execFrameReport
  repeat' first
    | with_reducible intro _
    | with_reducible assumption
    | with_reducible apply State.takeReport_keeps
    | with_reducible apply outKeeps_whenSome
    | with_reducible apply outKeeps_next
    | with_reducible apply outKeeps_refused
    | simp only [keeps_upd_iff]
    | split

theorem execLayerAdvance_keeps {pnd : List Instr} {p : Nat} {s : State} (hk : s.Keeps pnd) :
    outKeeps pnd (execLayerAdvance p s) := by
  unfold execLayerAdvance
  repeat' first
    | with_reducible intro _
    | with_reducible assumption
    | with_reducible apply State.atEdge_keeps
    | with_reducible apply State.instantOf_keeps
    | with_reducible apply State.endFinished_keeps
    | with_reducible apply keeps_ite
    | with_reducible apply when__keeps
    | with_reducible apply outKeeps_whenSome
    | with_reducible apply outKeeps_onUnit

theorem execPlotDrained_keeps {pnd : List Instr} {p : Nat} {s : State} (hk : s.Keeps pnd) :
    outKeeps pnd (execPlotDrained p s) := by
  unfold execPlotDrained
  repeat' first
    | with_reducible assumption
    | with_reducible apply State.endRun_keeps
    | with_reducible apply State.stopCores_keeps
    | with_reducible apply when__keeps
    | with_reducible apply outKeeps_onUnit

theorem State.stopCommand_keeps {pnd : List Instr} {s : State} {q : Nat} {c : HostCmd} {status : Nat} (hk : s.Keeps pnd) :
    (State.stopCommand s q c status).Keeps pnd := by
  unfold State.stopCommand
  repeat' first
    | with_reducible assumption
    | with_reducible apply State.disarm_keeps
    | with_reducible apply State.finish_keeps
    | with_reducible apply State.onCommand_keeps
    | with_reducible apply State.onPlot_keeps
    | with_reducible apply State.setPlace_keeps
    | with_reducible apply keeps_ite
    | split

theorem execAbort_keeps {pnd : List Instr} {q : Nat} {s : State} (hk : s.Keeps pnd) : outKeeps pnd (execAbort q s) := by
  unfold execAbort
  repeat' first
    | with_reducible intro _
    | with_reducible assumption
    | with_reducible apply State.finish_keeps
    | with_reducible apply hostRow_keeps
    | with_reducible apply State.onCommand_keeps
    | with_reducible apply State.stopCommand_keeps
    | with_reducible apply outKeeps_next
    | (extract_lets +onlyGivenNames u; refine keeps_cut (p := pnd) u ?_ (fun _ => ?_)
       rotate_left; clear_value u; rotate_right; unfold u)
    | (extract_lets +onlyGivenNames v; (have hv := fun x => v x); clear hv; unfold v)
    | (extract_lets +onlyGivenNames v; clear_value v)
    | split

theorem State.timeoutFence_keeps {pnd : List Instr} {s : State} {q : Nat} {c : HostCmd} (hk : s.Keeps pnd) :
    (State.timeoutFence s q c).Keeps pnd := by
  unfold State.timeoutFence
  repeat' first
    | with_reducible assumption
    | with_reducible apply State.disarm_keeps
    | with_reducible apply State.fencePlot_keeps
    | with_reducible apply keeps_ite
    | split

theorem execCommandTimeout_keeps {pnd : List Instr} {q : Nat} {s : State} (hk : s.Keeps pnd) :
    outKeeps pnd (execCommandTimeout q s) := by
  unfold execCommandTimeout
  repeat' first
    | with_reducible intro _
    | with_reducible assumption
    | with_reducible apply State.stopCommand_keeps
    | with_reducible apply State.timeoutFence_keeps
    | with_reducible apply outKeeps_whenSome
    | with_reducible apply outKeeps_onUnit
    | with_reducible apply outKeeps_next
    | with_reducible apply outKeeps_refused
    | split

theorem State.takeDrops_keeps {pnd : List Instr} {s : State} {t : Site} {q : Nat} {ticket : Word} {groups vals : Nat} (hk :
    s.Keeps pnd) :
    (State.takeDrops s t q ticket groups vals).Keeps pnd := by
  unfold State.takeDrops
  repeat' first
    | with_reducible assumption
    | with_reducible apply State.bump_keeps
    | with_reducible apply State.event_keeps
    | with_reducible apply State.setReg_keeps
    | split

theorem execSparseDropReport_keeps {pnd : List Instr} {s : State} (hk : s.Keeps pnd) :
    outKeeps pnd (execSparseDropReport s) := by
  unfold execSparseDropReport
  repeat' first
    | with_reducible intro _
    | with_reducible assumption
    | with_reducible apply State.takeDrops_keeps
    | with_reducible apply outKeeps_whenSome
    | with_reducible apply outKeeps_next
    | with_reducible apply outKeeps_refused
    | simp only [keeps_upd_iff]
    | split

theorem execTwinDigest_keeps {pnd : List Instr} {t : Site} {s : State} (hk : s.Keeps pnd) :
    outKeeps pnd (execTwinDigest t s) := by
  unfold execTwinDigest
  repeat' first
    | with_reducible intro _
    | with_reducible assumption
    | with_reducible apply State.inKind_keeps
    | with_reducible apply State.onNi_keeps
    | with_reducible apply State.report_keeps
    | with_reducible apply outKeeps_whenSome
    | with_reducible apply outKeeps_onTile
    | with_reducible apply outKeeps_next
    | with_reducible apply outKeeps_refused
    | with_reducible apply keeps_ite
    | with_reducible refine keeps_optSnd (by with_reducible assumption) ?_
    | simp only [keeps_upd_iff]
    | split

/-! ### Rdma -/

theorem State.advanceSent_keeps {pnd : List Instr} {s : State} {n len : Nat} (hk : s.Keeps pnd) :
    (State.advanceSent s n len).Keeps pnd := by
  unfold State.advanceSent
  repeat' first
    | with_reducible assumption
    | with_reducible apply State.count_keeps

theorem State.advanceGot_keeps {pnd : List Instr} {s : State} {n len : Nat} (hk : s.Keeps pnd) :
    (State.advanceGot s n len).Keeps pnd := by
  unfold State.advanceGot
  repeat' first
    | with_reducible assumption
    | with_reducible apply State.count_keeps

theorem State.failRdma_keeps {pnd : List Instr} {s : State} {r : Rdma} (hk : s.Keeps pnd) :
    (State.failRdma s r).Keeps pnd := by
  unfold State.failRdma
  repeat' first
    | with_reducible assumption
    | with_reducible apply State.endPart_keeps
    | (extract_lets +onlyGivenNames u; refine keeps_cut (p := pnd) u ?_ (fun _ => ?_)
       rotate_left; clear_value u; rotate_right; unfold u)
    | simp only [keeps_upd_iff]
    | split

theorem State.failContext_keeps {pnd : List Instr} {s : State} {n : Nat} (hk : s.Keeps pnd) :
    (State.failContext s n).Keeps pnd := by
  unfold State.failContext
  repeat' first
    | with_reducible intro _
    | with_reducible assumption
    | with_reducible apply State.failRdma_keeps
    | with_reducible apply keeps_foldl

theorem State.writeQp_keeps {pnd : List Instr} {s : State} {n w : Nat} {v : Dword} (hk : s.Keeps pnd) :
    (State.writeQp s n w v).Keeps pnd := by
  unfold State.writeQp
  repeat' first
    | with_reducible assumption
    | with_reducible apply State.failContext_keeps
    | with_reducible apply State.setFld_keeps
    | with_reducible apply State.setReg_keeps
    | with_reducible apply keeps_ite
    | split

theorem execHostQpW0Write_keeps {pnd : List Instr} {n : Nat} {v : Dword} {s : State} (hk : s.Keeps pnd) :
    outKeeps pnd (execHostQpW0Write n v s) := by
  unfold execHostQpW0Write
  repeat' first
    | with_reducible assumption
    | with_reducible apply State.writeQp_keeps
    | with_reducible apply outKeeps_onUnit
    | with_reducible apply outKeeps_next

theorem execQpRetryTimeout_keeps {pnd : List Instr} {n : Nat} {s : State} (hk : s.Keeps pnd) :
    outKeeps pnd (execQpRetryTimeout n s) := by
  unfold execQpRetryTimeout
  repeat' first
    | with_reducible intro _
    | with_reducible assumption
    | with_reducible apply State.failContext_keeps
    | with_reducible apply State.hostOut_keeps
    | with_reducible apply State.setFld_keeps
    | with_reducible apply outKeeps_whenSome
    | with_reducible apply outKeeps_onUnit
    | with_reducible apply outKeeps_next
    | with_reducible apply keeps_ite
    | (extract_lets +onlyGivenNames v; clear_value v)
    | simp only [keeps_upd_iff]
    | split

theorem execCnpReceive_keeps {pnd : List Instr} {s : State} (hk : s.Keeps pnd) : outKeeps pnd (execCnpReceive s) := by
  unfold execCnpReceive
  repeat' first
    | with_reducible assumption
    | with_reducible apply outKeeps_next
    | simp only [keeps_upd_iff]

theorem execCnpRateRecovery_keeps {pnd : List Instr} {s : State} (hk : s.Keeps pnd) :
    outKeeps pnd (execCnpRateRecovery s) := by
  unfold execCnpRateRecovery
  repeat' first
    | with_reducible assumption
    | with_reducible apply outKeeps_next
    | simp only [keeps_upd_iff]

theorem State.dropFrame_keeps {pnd : List Instr} {s : State} {port : Nat} (hk : s.Keeps pnd) :
    (State.dropFrame s port).Keeps pnd := by
  unfold State.dropFrame
  repeat' first
    | with_reducible assumption
    | with_reducible apply State.bump_keeps

theorem roce_keeps {p : List Instr} {name : String} {e : Ether} {qpn : Nat} {s : State} {k : Nat → State} (h : s.Keeps p)
    (hk : ∀ n, (k n).Keeps p) : outKeeps p (roce name e qpn s k) := by
  unfold roce
  apply outKeeps_onUnit
  apply outKeeps_when
  split
  · split
    · exact hk _
    · exact State.dropFrame_keeps h
  · exact State.dropFrame_keeps h

theorem execRoceWrite_keeps {pnd : List Instr} {e : Ether} {qpn : Nat} {rkey : Word} {va : Dword} {bytes : List Byte} {s :
    State} (hk : s.Keeps pnd) :
    outKeeps pnd (execRoceWrite e qpn rkey va bytes s) := by
  unfold execRoceWrite
  repeat' first
    | with_reducible intro _
    | with_reducible assumption
    | with_reducible apply State.advanceGot_keeps
    | with_reducible apply State.hostOut_keeps
    | with_reducible apply State.loamPut_keeps
    | with_reducible apply roce_keeps
    | with_reducible apply State.writeStore_keeps
    | (extract_lets +onlyGivenNames u; refine keeps_cut (p := pnd) u ?_ (fun _ => ?_)
       rotate_left; clear_value u; rotate_right; unfold u)
    | simp only [keeps_upd_iff]
    | split

theorem execRoceRead_keeps {pnd : List Instr} {e : Ether} {qpn : Nat} {rkey : Word} {va : Dword} {len : Nat} {s : State} (hk
    : s.Keeps pnd) :
    outKeeps pnd (execRoceRead e qpn rkey va len s) := by
  unfold execRoceRead
  repeat' first
    | with_reducible intro _
    | with_reducible assumption
    | with_reducible apply State.advanceGot_keeps
    | with_reducible apply State.hostOut_keeps
    | with_reducible apply State.loamBytes_keeps'
    | with_reducible apply State.readStore_keeps'
    | with_reducible apply roce_keeps
    | with_reducible apply sndKeeps_mk
    | with_reducible refine keeps_snd (by with_reducible assumption) ?_
    | simp only [keeps_upd_iff]
    | split

theorem State.hostMessage_keeps {pnd : List Instr} {s : State} {t : Site} {p slot : Nat} {bs : List Byte} (hk : s.Keeps pnd)
    :
    optKeeps pnd (State.hostMessage s t p slot bs) := by
  unfold State.hostMessage
  repeat' first
    | with_reducible assumption
    | with_reducible apply State.freeBytes_keeps'
    | with_reducible apply State.takeFree_keeps'
    | with_reducible apply State.takeRecord_keeps
    | with_reducible apply optKeeps_none
    | with_reducible apply optKeeps_some
    | (extract_lets +onlyGivenNames v; (have hv := fun x => v x); clear hv; unfold v)
    | (extract_lets +onlyGivenNames v; clear_value v)
    | simp only [keeps_upd_iff]
    | split

theorem execRoceSend_keeps {pnd : List Instr} {e : Ether} {qpn : Nat} {bytes : List Byte} {s : State} (hk : s.Keeps pnd) :
    outKeeps pnd (execRoceSend e qpn bytes s) := by
  unfold execRoceSend
  repeat' first
    | with_reducible intro _
    | with_reducible assumption
    | with_reducible apply State.advanceGot_keeps
    | with_reducible apply State.dropFrame_keeps
    | with_reducible apply State.hostMessage_keeps
    | with_reducible apply State.hostOut_keeps
    | with_reducible apply outKeeps_whenSome
    | with_reducible apply outKeeps_onUnit
    | with_reducible apply outKeeps_next
    | with_reducible apply outKeeps_refused
    | with_reducible refine keeps_opt (by with_reducible assumption) ?_
    | simp only [keeps_upd_iff]
    | split

theorem State.loadPart_keeps {pnd : List Instr} {s : State} {q : Nat} {c : HostCmd} {i : Nat} (hk : s.Keeps pnd) :
    (State.loadPart s q c i).Keeps pnd := by
  unfold State.loadPart
  repeat' first
    | with_reducible assumption
    | with_reducible apply State.advanceSent_keeps
    | with_reducible apply State.endPart_keeps
    | with_reducible apply State.hostOut_keeps
    | with_reducible apply State.onCommand_keeps
    | with_reducible apply keeps_ite
    | (extract_lets +onlyGivenNames u; refine keeps_cut (p := pnd) u ?_ (fun _ => ?_)
       rotate_left; clear_value u; rotate_right; unfold u)
    | simp only [keeps_upd_iff]

theorem State.loadStart_keeps {pnd : List Instr} {s : State} {q : Nat} {c : HostCmd} (hk : s.Keeps pnd) :
    (State.loadStart s q c).Keeps pnd := by
  unfold State.loadStart
  repeat' first
    | with_reducible assumption
    | with_reducible apply State.finish_keeps
    | with_reducible apply State.loadPart_keeps
    | with_reducible apply State.onPlot_keeps
    | split

theorem execLoadPackage_keeps {pnd : List Instr} {q : Nat} {s : State} (hk : s.Keeps pnd) :
    outKeeps pnd (execLoadPackage q s) := by
  unfold execLoadPackage
  repeat' first
    | with_reducible intro _
    | with_reducible assumption
    | with_reducible apply State.emptyPlot_keeps
    | with_reducible apply State.finish_keeps
    | with_reducible apply State.freeStaging_keeps
    | with_reducible apply hostRow_keeps
    | with_reducible apply State.loadPart_keeps
    | with_reducible apply State.loadStart_keeps
    | with_reducible apply State.onCommand_keeps
    | with_reducible apply when__keeps
    | with_reducible apply outKeeps_next
    | with_reducible apply outKeeps_refused
    | (extract_lets +onlyGivenNames v; clear_value v)
    | split

theorem State.deliverRegion_keeps {pnd : List Instr} {s : State} {q : Nat} {pl : Placement} {rs : List Region} {bs : List
    Byte} (hk : s.Keeps pnd) :
    (State.deliverRegion s q pl rs bs).Keeps pnd := by
  unfold State.deliverRegion
  repeat' first
    | with_reducible intro _
    | with_reducible assumption
    | with_reducible apply State.endIncomplete_keeps
    | with_reducible apply State.onPlot_keeps
    | with_reducible apply State.putRegion_keeps
    | with_reducible apply keeps_foldl
    | with_reducible apply keeps_ite

theorem State.takePart_keeps {pnd : List Instr} {s : State} {q : Nat} {c : HostCmd} {off : Nat} {bs : List Byte} (hk :
    s.Keeps pnd) :
    (State.takePart s q c off bs).Keeps pnd := by
  unfold State.takePart
  repeat' first
    | with_reducible assumption
    | with_reducible apply State.deliverRegion_keeps
    | with_reducible apply State.endPart_keeps
    | with_reducible apply State.onPlot_keeps
    | with_reducible apply State.putPkg_keeps
    | with_reducible apply State.setPlace_keeps
    | with_reducible apply keeps_ite
    | (extract_lets +onlyGivenNames v; clear_value v)
    | simp only [keeps_upd_iff]
    | split

theorem execRdmaReadResponse_keeps {pnd : List Instr} {q : Nat} {bytes : List Byte} {s : State} (hk : s.Keeps pnd) :
    outKeeps pnd (execRdmaReadResponse q bytes s) := by
  unfold execRdmaReadResponse
  repeat' first
    | with_reducible assumption
    | with_reducible apply State.takePart_keeps
    | with_reducible apply State.failRdma_keeps
    | with_reducible apply outKeeps_onUnit
    | with_reducible apply outKeeps_next
    | with_reducible apply outKeeps_refused
    | simp only [keeps_upd_iff]
    | split

theorem execRdmaWriteAck_keeps {pnd : List Instr} {q : Nat} {s : State} (hk : s.Keeps pnd) :
    outKeeps pnd (execRdmaWriteAck q s) := by
  unfold execRdmaWriteAck
  repeat' first
    | with_reducible assumption
    | with_reducible apply State.endPart_keeps
    | with_reducible apply when__keeps
    | with_reducible apply outKeeps_onUnit
    | with_reducible apply outKeeps_refused
    | simp only [keeps_upd_iff]
    | split

end Sys2Proof.Machine
end

