-- ==== Sys2Proof/Laws/KeepsModule.lean ====
section
/-!
SUPPORT. That every operation of facets, the cascade, telemetry, boot and the register space keeps the invariant of Sys2Proof/Safety.lean and the
commands that wait: one lemma per operation, named after it.
-/
set_option linter.unusedSimpArgs false
set_option linter.tactic.unusedName false
set_option linter.unusedVariables false
namespace Sys2Proof.Machine

/-! ### Facet -/

theorem State.setFacet_keeps {pnd : List Instr} {s : State} {f n : Nat} (hk : s.Keeps pnd) :
    (State.setFacet s f n).Keeps pnd := by
  unfold State.setFacet
  repeat' first
    | with_reducible assumption
    | with_reducible apply State.setFld_keeps

theorem State.toPort_keeps {pnd : List Instr} {s : State} {o : Nat} {g : Grain} (hk : s.Keeps pnd) :
    (State.toPort s o g).Keeps pnd := by
  unfold State.toPort
  repeat' first
    | with_reducible assumption
    | with_reducible apply State.onOpt_keeps

theorem State.dropRelay_keeps {pnd : List Instr} {s : State} {o idx : Nat} (hk : s.Keeps pnd) :
    (State.dropRelay s o idx).Keeps pnd := by
  unfold State.dropRelay
  repeat' first
    | with_reducible assumption
    | with_reducible apply State.onOpt_keeps

theorem State.setRelay_keeps {pnd : List Instr} {s : State} {o : Nat} {r : Relay} (hk : s.Keeps pnd) :
    (State.setRelay s o r).Keeps pnd := by
  unfold State.setRelay
  repeat' first
    | with_reducible assumption
    | with_reducible apply State.onOpt_keeps

theorem State.openTile_keeps {pnd : List Instr} {s : State} {o : Nat} {r : Relay} {port vx vy : Nat} (hk : s.Keeps pnd) :
    (State.openTile s o r port vx vy).Keeps pnd := by
  unfold State.openTile
  repeat' first
    | with_reducible assumption
    | with_reducible apply State.niSend_keeps

theorem State.relayAnswer_keeps {pnd : List Instr} {s : State} {o idx : Nat} {ans : OpenAnswer} (hk : s.Keeps pnd) :
    (State.relayAnswer s o idx ans).Keeps pnd := by
  unfold State.relayAnswer
  repeat' first
    | with_reducible assumption
    | with_reducible apply State.dropRelay_keeps
    | with_reducible apply State.openTile_keeps
    | with_reducible apply State.setRelay_keeps
    | with_reducible apply State.toPort_keeps
    | with_reducible apply keeps_ite
    | simp only [keeps_upd_iff]
    | split

theorem State.relayOut_keeps {pnd : List Instr} {s : State} {o : Nat} {g : Grain} (hk : s.Keeps pnd) :
    (State.relayOut s o g).Keeps pnd := by
  unfold State.relayOut
  repeat' first
    | with_reducible assumption
    | with_reducible apply State.dropRelay_keeps
    | with_reducible apply State.relayAnswer_keeps
    | with_reducible apply State.returnErr_keeps
    | with_reducible apply State.toPort_keeps
    | with_reducible apply keeps_ite
    | (extract_lets +onlyGivenNames v; clear_value v)
    | simp only [keeps_upd_iff]
    | split

theorem State.relayAll_keeps {pnd : List Instr} {s : State} {o : Nat} (hk : s.Keeps pnd) :
    (State.relayAll s o).Keeps pnd := by
  unfold State.relayAll
  repeat' first
    | with_reducible intro _
    | with_reducible assumption
    | with_reducible apply State.onNi_keeps
    | with_reducible apply State.relayOut_keeps
    | with_reducible apply keeps_foldl

theorem State.relayIn_keeps {pnd : List Instr} {s : State} {o : Nat} {g : Grain} (hk : s.Keeps pnd) :
    optKeeps pnd (State.relayIn s o g) := by
  unfold State.relayIn
  repeat' first
    | with_reducible assumption
    | with_reducible apply State.dropRelay_keeps
    | with_reducible apply State.niSend_keeps
    | with_reducible apply State.setRelay_keeps
    | with_reducible apply State.toPort_keeps
    | with_reducible apply optKeeps_none
    | with_reducible apply optKeeps_some
    | with_reducible apply keeps_ite
    | (extract_lets +onlyGivenNames u; refine keeps_cut (p := pnd) u ?_ (fun _ => ?_)
       rotate_left; clear_value u; rotate_right; unfold u)
    | (extract_lets +onlyGivenNames v; (have hv := fun x => v x); clear hv; unfold v)
    | (extract_lets +onlyGivenNames v; clear_value v)
    | simp only [keeps_upd_iff]
    | split

theorem State.drainEntry_keeps {p : List Instr} {s : State} {o : Nat} {l : List Grain} (h : s.Keeps p) :
    fstKeeps p (s.drainEntry o l) := by
  induction l generalizing s with
  | nil => exact h
  | cons g gs ih =>
    unfold State.drainEntry
    split
    · exact ih (keeps_opt ‹_› (State.relayIn_keeps h))
    · have k : fstKeeps p (s.drainEntry o gs) := ih h
      generalize s.drainEntry o gs = e at k ⊢
      exact k

theorem State.drainBuf_keeps {p : List Instr} {s : State} {o : Nat} {l : List (List Grain)} (h : s.Keeps p) :
    (s.drainBuf o l).Keeps p := by
  induction l generalizing s with
  | nil => exact h
  | cons e es ih =>
    unfold State.drainBuf
    have := State.drainEntry_keeps (p := p) (o := o) (l := e) h
    dsimp only
    split
    · exact ih (State.onOpt_keeps this)
    · exact ih (State.onOpt_keeps this)

theorem State.drainRx_keeps {pnd : List Instr} {s : State} {o : Nat} (hk : s.Keeps pnd) : (State.drainRx s o).Keeps pnd := by
  unfold State.drainRx
  repeat' first
    | with_reducible assumption
    | with_reducible apply State.drainBuf_keeps
    | with_reducible apply State.onOpt_keeps

theorem State.openHere_keeps {pnd : List Instr} {s : State} {o : Nat} {g : Grain} {port vx vy : Nat} (hk : s.Keeps pnd) :
    (State.openHere s o g port vx vy).Keeps pnd := by
  unfold State.openHere
  repeat' first
    | with_reducible assumption
    | with_reducible apply State.onOpt_keeps
    | with_reducible apply State.openTile_keeps
    | with_reducible apply State.toPort_keeps
    | with_reducible apply keeps_ite
    | (extract_lets +onlyGivenNames v; clear_value v)
    | simp only [keeps_upd_iff]
    | split

theorem State.openThere_keeps {pnd : List Instr} {s : State} {o : Nat} {g : Grain} {port vx vy tag : Nat} (hk : s.Keeps pnd)
    :
    (State.openThere s o g port vx vy tag).Keeps pnd := by
  unfold State.openThere
  repeat' first
    | with_reducible assumption
    | with_reducible apply State.niSend_keeps
    | with_reducible apply State.onOpt_keeps
    | with_reducible apply State.toPort_keeps
    | with_reducible apply keeps_ite
    | (extract_lets +onlyGivenNames v; clear_value v)
    | simp only [keeps_upd_iff]
    | split

theorem execOptRelayOpen_keeps {pnd : List Instr} {port : Nat} {incoming : Bool} {s : State} (hk : s.Keeps pnd) :
    outKeeps pnd (execOptRelayOpen port incoming s) := by
  unfold execOptRelayOpen
  repeat' first
    | with_reducible intro _
    | with_reducible assumption
    | with_reducible apply State.drainRx_keeps
    | with_reducible apply State.inKind_keeps
    | with_reducible apply State.onOpt_keeps
    | with_reducible apply State.openHere_keeps
    | with_reducible apply State.openThere_keeps
    | with_reducible apply outKeeps_whenSome
    | with_reducible apply outKeeps_onUnit
    | with_reducible apply outKeeps_next
    | with_reducible apply outKeeps_refused
    | with_reducible refine keeps_optSnd (by with_reducible assumption) ?_
    | simp only [keeps_upd_iff]
    | split

theorem State.cascToPort_keeps {p : List Instr} {s : State} {o : Nat} (h : s.Keeps p) : (s.cascToPort o).Keeps p := by
  unfold State.cascToPort
  apply keeps_cut (p := p) (if s.cascPort 0 = some o then
      { s.onOpt o (fun x => { x with ctrl := x.ctrl ++ s.casc.down }) with casc := { s.casc with down := [] } } else s)
  · exact keeps_ite (keeps_upd_iff.2 (State.onOpt_keeps h)) h
  · intro k
    exact keeps_ite (keeps_upd_iff.2 (State.onOpt_keeps k)) k

theorem execFacetFrameSend_keeps {pnd : List Instr} {port : Nat} {s : State} (hk : s.Keeps pnd) :
    outKeeps pnd (execFacetFrameSend port s) := by
  unfold execFacetFrameSend
  repeat' first
    | with_reducible assumption
    | with_reducible apply State.cascToPort_keeps
    | with_reducible apply State.drainRx_keeps
    | with_reducible apply State.onOpt_keeps
    | with_reducible apply State.relayAll_keeps
    | with_reducible apply when__keeps
    | with_reducible apply outKeeps_onUnit
    | with_reducible apply keeps_ite

theorem State.takeCtrl_keeps {pnd : List Instr} {s : State} {o : Nat} {g : CtrlGrain} (hk : s.Keeps pnd) :
    (State.takeCtrl s o g).Keeps pnd := by
  unfold State.takeCtrl
  repeat' first
    | with_reducible assumption
    | with_reducible apply State.bump_keeps
    | with_reducible apply State.onOpt_keeps
    | simp only [keeps_upd_iff]
    | split

theorem State.badFrame_keeps {pnd : List Instr} {s : State} {o : Nat} {f : FacetFrame} (hk : s.Keeps pnd) :
    (State.badFrame s o f).Keeps pnd := by
  unfold State.badFrame
  repeat' first
    | with_reducible assumption
    | with_reducible apply State.bump_keeps
    | with_reducible apply State.onOpt_keeps
    | with_reducible apply keeps_ite

theorem State.goodFrame_keeps {pnd : List Instr} {s : State} {o : Nat} {f : FacetFrame} (hk : s.Keeps pnd) :
    (State.goodFrame s o f).Keeps pnd := by
  unfold State.goodFrame
  repeat' first
    | with_reducible intro _
    | with_reducible assumption
    | with_reducible apply State.drainRx_keeps
    | with_reducible apply State.onOpt_keeps
    | with_reducible apply State.takeCtrl_keeps
    | with_reducible apply keeps_foldl
    | with_reducible apply keeps_ite
    | (extract_lets +onlyGivenNames u; refine keeps_cut (p := pnd) u ?_ (fun _ => ?_)
       rotate_left; clear_value u; rotate_right; unfold u)
    | split

theorem execFacetFrameReceive_keeps {pnd : List Instr} {port : Nat} {frame : FacetFrame} {symErrs : Option Nat} {s : State}
    (hk : s.Keeps pnd) :
    outKeeps pnd (execFacetFrameReceive port frame symErrs s) := by
  unfold execFacetFrameReceive
  repeat' first
    | with_reducible assumption
    | with_reducible apply State.badFrame_keeps
    | with_reducible apply State.bump_keeps
    | with_reducible apply State.goodFrame_keeps
    | with_reducible apply when__keeps
    | with_reducible apply outKeeps_onUnit
    | with_reducible apply outKeeps_refused
    | with_reducible apply keeps_ite
    | split

theorem State.portCtrl_keeps {pnd : List Instr} {s : State} {o : Nat} {g : CtrlGrain} (hk : s.Keeps pnd) :
    optKeeps pnd (State.portCtrl s o g) := by
  unfold State.portCtrl
  repeat' first
    | with_reducible intro _
    | with_reducible assumption
    | with_reducible apply State.onOpt_keeps
    | with_reducible apply optKeeps_map

theorem execNak_keeps {pnd : List Instr} {port : Nat} {g : CtrlGrain} {s : State} (hk : s.Keeps pnd) :
    outKeeps pnd (execNak port g s) := by
  unfold execNak
  repeat' first
    | with_reducible intro _
    | with_reducible assumption
    | with_reducible apply State.bump_keeps
    | with_reducible apply State.onOpt_keeps
    | with_reducible apply State.portCtrl_keeps
    | with_reducible apply outKeeps_whenSome
    | with_reducible apply outKeeps_onUnit
    | with_reducible apply outKeeps_next
    | with_reducible apply outKeeps_refused
    | (extract_lets +onlyGivenNames v; clear_value v)
    | with_reducible refine keeps_opt (by with_reducible assumption) ?_
    | split

theorem State.freshPorts_keeps {pnd : List Instr} {s : State} {f : Nat} (hk : s.Keeps pnd) :
    (State.freshPorts s f).Keeps pnd := by
  unfold State.freshPorts
  repeat' first
    | with_reducible intro _
    | with_reducible assumption
    | with_reducible apply State.onOpt_keeps
    | with_reducible apply keeps_foldl

theorem execFacetTrainingDone_keeps {pnd : List Instr} {f : Nat} {joined miswired : BitVec 14} {peerId peerFacet : Nat} {s :
    State} (hk : s.Keeps pnd) :
    outKeeps pnd (execFacetTrainingDone f joined miswired peerId peerFacet s) := by
  unfold execFacetTrainingDone
  repeat' first
    | with_reducible assumption
    | with_reducible apply State.freshPorts_keeps
    | with_reducible apply State.onFacet_keeps
    | with_reducible apply State.onOpt_keeps
    | with_reducible apply State.setFacet_keeps
    | with_reducible apply State.setFld_keeps
    | with_reducible apply when__keeps
    | with_reducible apply outKeeps_onUnit
    | with_reducible apply keeps_ite
    | (extract_lets +onlyGivenNames u; refine keeps_cut (p := pnd) u ?_ (fun _ => ?_)
       rotate_left; clear_value u; rotate_right; unfold u)
    | (extract_lets +onlyGivenNames v; clear_value v)
    | simp only [keeps_upd_iff]
    | split

theorem execAttest_keeps {pnd : List Instr} {f : Nat} {g : CtrlGrain} {s : State} (hk : s.Keeps pnd) :
    outKeeps pnd (execAttest f g s) := by
  unfold execAttest
  repeat' first
    | with_reducible intro _
    | with_reducible assumption
    | with_reducible apply State.onFacet_keeps
    | with_reducible apply State.onOpt_keeps
    | with_reducible apply State.portCtrl_keeps
    | with_reducible apply outKeeps_whenSome
    | with_reducible apply outKeeps_onUnit
    | with_reducible apply outKeeps_next
    | with_reducible apply outKeeps_refused
    | with_reducible refine keeps_opt (by with_reducible assumption) ?_
    | simp only [keeps_upd_iff]
    | split

theorem execFacetAttestDone_keeps {pnd : List Instr} {f : Nat} {failStep : Option Nat} {rtt : List Nat} {s : State} (hk :
    s.Keeps pnd) :
    outKeeps pnd (execFacetAttestDone f failStep rtt s) := by
  unfold execFacetAttestDone
  repeat' first
    | with_reducible intro _
    | with_reducible assumption
    | with_reducible apply State.alarm_keeps
    | with_reducible apply State.onFacet_keeps
    | with_reducible apply State.onOpt_keeps
    | with_reducible apply State.setFacet_keeps
    | with_reducible apply State.setFld_keeps
    | with_reducible apply when__keeps
    | with_reducible apply keeps_foldl
    | with_reducible apply outKeeps_onUnit
    | with_reducible apply keeps_ite
    | (extract_lets +onlyGivenNames u; refine keeps_cut (p := pnd) u ?_ (fun _ => ?_)
       rotate_left; clear_value u; rotate_right; unfold u)
    | (extract_lets +onlyGivenNames v; clear_value v)
    | split

theorem State.checkRing_keeps {pnd : List Instr} {s : State} (hk : s.Keeps pnd) : (State.checkRing s).Keeps pnd := by
  unfold State.checkRing
  repeat' first
    | with_reducible assumption
    | with_reducible apply State.alarm_keeps
    | with_reducible apply State.setFld_keeps
    | with_reducible apply keeps_ite

theorem State.failPort_keeps {pnd : List Instr} {s : State} {o : Nat} (hk : s.Keeps pnd) :
    (State.failPort s o).Keeps pnd := by
  unfold State.failPort
  repeat' first
    | with_reducible intro _
    | with_reducible assumption
    | with_reducible apply State.alarm_keeps
    | with_reducible apply State.checkRing_keeps
    | with_reducible apply State.fencePlot_keeps
    | with_reducible apply State.niSend_keeps
    | with_reducible apply State.onOpt_keeps
    | with_reducible apply State.setFacet_keeps
    | with_reducible apply State.setFld_keeps
    | with_reducible apply keeps_foldl
    | with_reducible apply keeps_ite
    | split

theorem execFacetPortFail_keeps {pnd : List Instr} {port : Nat} {s : State} (hk : s.Keeps pnd) :
    outKeeps pnd (execFacetPortFail port s) := by
  unfold execFacetPortFail
  repeat' first
    | with_reducible assumption
    | with_reducible apply State.failPort_keeps
    | with_reducible apply when__keeps
    | with_reducible apply outKeeps_onUnit
    | with_reducible apply outKeeps_refused
    | split

theorem State.writeFacetCfg_keeps {pnd : List Instr} {s : State} {f : Nat} {v : Dword} (hk : s.Keeps pnd) :
    (State.writeFacetCfg s f v).Keeps pnd := by
  unfold State.writeFacetCfg
  repeat' first
    | with_reducible intro _
    | with_reducible assumption
    | with_reducible apply State.failPort_keeps
    | with_reducible apply State.freshPorts_keeps
    | with_reducible apply State.onFacet_keeps
    | with_reducible apply State.setFacet_keeps
    | with_reducible apply State.setFld_keeps
    | with_reducible apply State.setReg_keeps
    | with_reducible apply keeps_foldl
    | with_reducible apply keeps_ite

theorem execFacetCfgWrite_keeps {pnd : List Instr} {f : Nat} {v : Dword} {s : State} (hk : s.Keeps pnd) :
    outKeeps pnd (execFacetCfgWrite f v s) := by
  unfold execFacetCfgWrite
  repeat' first
    | with_reducible assumption
    | with_reducible apply State.writeFacetCfg_keeps
    | with_reducible apply outKeeps_onUnit
    | with_reducible apply outKeeps_next

/-! ### Casc -/

theorem State.onCasc_keeps {pnd : List Instr} {s : State} {f : Casc → Casc} (hk : s.Keeps pnd) :
    (State.onCasc s f).Keeps pnd := by
  unfold State.onCasc
  repeat' first
    | with_reducible assumption
    | simp only [keeps_upd_iff]

theorem State.ringAlarm_keeps {pnd : List Instr} {s : State} (hk : s.Keeps pnd) : (State.ringAlarm s).Keeps pnd := by
  unfold State.ringAlarm
  repeat' first
    | with_reducible assumption
    | with_reducible apply State.alarm_keeps

theorem State.fenceRing_keeps {pnd : List Instr} {s : State} (hk : s.Keeps pnd) : (State.fenceRing s).Keeps pnd := by
  unfold State.fenceRing
  repeat' first
    | with_reducible intro _
    | with_reducible assumption
    | with_reducible apply State.fence_keeps
    | with_reducible apply keeps_foldl

theorem State.setRing_keeps {pnd : List Instr} {s : State} {rrt : Nat} (hk : s.Keeps pnd) :
    (State.setRing s rrt).Keeps pnd := by
  unfold State.setRing
  repeat' first
    | with_reducible assumption
    | with_reducible apply State.setFld_keeps

theorem State.sendDown_keeps {pnd : List Instr} {s : State} {g : CtrlGrain} (hk : s.Keeps pnd) :
    (State.sendDown s g).Keeps pnd := by
  unfold State.sendDown
  repeat' first
    | with_reducible assumption
    | with_reducible apply State.onCasc_keeps

theorem State.sendUp_keeps {pnd : List Instr} {s : State} {g : CtrlGrain} (hk : s.Keeps pnd) :
    (State.sendUp s g).Keeps pnd := by
  unfold State.sendUp
  repeat' first
    | with_reducible assumption
    | with_reducible apply State.onCasc_keeps

theorem State.toLead_keeps {pnd : List Instr} {s : State} {body : CtrlBody} (hk : s.Keeps pnd) :
    (State.toLead s body).Keeps pnd := by
  unfold State.toLead
  repeat' first
    | with_reducible assumption
    | with_reducible apply State.sendDown_keeps
    | with_reducible apply State.sendUp_keeps
    | with_reducible apply keeps_ite

theorem State.passOn_keeps {pnd : List Instr} {s : State} {fromUp : Bool} {g : CtrlGrain} (hk : s.Keeps pnd) :
    (State.passOn s fromUp g).Keeps pnd := by
  unfold State.passOn
  repeat' first
    | with_reducible assumption
    | with_reducible apply State.sendDown_keeps
    | with_reducible apply State.sendUp_keeps
    | with_reducible apply keeps_ite

theorem State.takeRing_keeps {p : List Instr} {s : State} {g : CtrlGrain} (h : s.Keeps p) : optSnd p (s.takeRing g) := by
  unfold State.takeRing
  intro e he
  obtain ⟨d, _, hd⟩ := List.exists_of_findSome?_eq_some he
  revert hd
  split
  · rename_i a b r _
    split
    · intro hd
      cases hd
      have k : State.Keeps p (s.onCasc (fun c => { c with inbox := r })) := State.onCasc_keeps h
      exact k
    · intro hd; cases hd
  · intro hd; cases hd

theorem onRing_keeps {p : List Instr} {name : String} {g : CtrlGrain} {s : State} {k : Bool → State → State} (h : s.Keeps p)
    (hk : ∀ d u, u.Keeps p → (k d u).Keeps p) : outKeeps p (onRing name g s k) := by
  unfold onRing
  split
  · trivial
  · apply outKeeps_whenSome
    rintro ⟨d, u⟩ e
    exact hk _ _ (keeps_optSnd e (State.takeRing_keeps h))

theorem State.ringFail_keeps {pnd : List Instr} {s : State} {code : Nat} (hk : s.Keeps pnd) :
    (State.ringFail s code).Keeps pnd := by
  unfold State.ringFail
  repeat' first
    | with_reducible assumption
    | with_reducible apply State.onCasc_keeps
    | with_reducible apply State.ringAlarm_keeps
    | with_reducible apply State.setFld_keeps

theorem execFormationStart_keeps {pnd : List Instr} {s : State} (hk : s.Keeps pnd) : outKeeps pnd (execFormationStart s) := by
  unfold execFormationStart
  repeat' first
    | with_reducible assumption
    | with_reducible apply State.onCasc_keeps
    | with_reducible apply State.sendDown_keeps
    | with_reducible apply when__keeps
    | with_reducible apply outKeeps_refused
    | (extract_lets +onlyGivenNames v; clear_value v)
    | split

theorem State.formAtLead_keeps {pnd : List Instr} {s : State} {count : Nat} {map : BitVec 256} (hk : s.Keeps pnd) :
    (State.formAtLead s count map).Keeps pnd := by
  unfold State.formAtLead
  repeat' first
    | with_reducible assumption
    | with_reducible apply State.onCasc_keeps
    | with_reducible apply State.ringFail_keeps
    | with_reducible apply State.sendDown_keeps
    | with_reducible apply State.setFld_keeps
    | with_reducible apply State.setRing_keeps
    | with_reducible apply keeps_ite
    | (extract_lets +onlyGivenNames u; refine keeps_cut (p := pnd) u ?_ (fun _ => ?_)
       rotate_left; clear_value u; rotate_right; unfold u)
    | simp only [keeps_upd_iff]
    | split

theorem State.formAtFollower_keeps {pnd : List Instr} {s : State} {g : CtrlGrain} {count : Nat} {map : BitVec 256} (hk :
    s.Keeps pnd) :
    (State.formAtFollower s g count map).Keeps pnd := by
  unfold State.formAtFollower
  repeat' first
    | with_reducible assumption
    | with_reducible apply State.ringFail_keeps
    | with_reducible apply State.sendDown_keeps
    | with_reducible apply State.setFld_keeps
    | with_reducible apply keeps_ite

theorem execForm_keeps {pnd : List Instr} {g : CtrlGrain} {s : State} (hk : s.Keeps pnd) : outKeeps pnd (execForm g s) := by
  unfold execForm
  repeat' first
    | with_reducible intro _
    | with_reducible assumption
    | with_reducible apply State.formAtFollower_keeps
    | with_reducible apply State.formAtLead_keeps
    | with_reducible apply onRing_keeps
    | with_reducible apply State.ringAlarm_keeps
    | with_reducible apply State.sendDown_keeps
    | with_reducible apply State.setFld_keeps
    | with_reducible apply outKeeps_refused
    | with_reducible apply keeps_ite
    | split

theorem execFormTimeout_keeps {pnd : List Instr} {s : State} (hk : s.Keeps pnd) : outKeeps pnd (execFormTimeout s) := by
  unfold execFormTimeout
  repeat' first
    | with_reducible assumption
    | with_reducible apply State.atEdge_keeps
    | with_reducible apply State.ringFail_keeps
    | with_reducible apply when__keeps
    | with_reducible apply outKeeps_refused
    | split

theorem State.showLag_keeps {pnd : List Instr} {s : State} (hk : s.Keeps pnd) : (State.showLag s).Keeps pnd := by
  unfold State.showLag
  repeat' first
    | with_reducible assumption
    | with_reducible apply State.setFld_keeps

theorem State.releaseGroup_keeps {pnd : List Instr} {s : State} {p n : Nat} (hk : s.Keeps pnd) :
    (State.releaseGroup s p n).Keeps pnd := by
  unfold State.releaseGroup
  repeat' first
    | with_reducible assumption
    | with_reducible apply State.sendRelease_keeps
    | split

theorem State.beginBeat_keeps {pnd : List Instr} {s : State} {p : Nat} (hk : s.Keeps pnd) :
    (State.beginBeat s p).Keeps pnd := by
  unfold State.beginBeat
  repeat' first
    | with_reducible assumption
    | with_reducible apply State.onPlot_keeps
    | with_reducible apply State.releaseGroup_keeps
    | with_reducible apply State.trace_keeps

theorem State.takeSlip_keeps {pnd : List Instr} {s : State} (hk : s.Keeps pnd) : (State.takeSlip s).Keeps pnd := by
  unfold State.takeSlip
  repeat' first
    | with_reducible assumption
    | with_reducible apply State.onCasc_keeps

theorem State.newLag_keeps {pnd : List Instr} {s : State} {p old : Nat} (hk : s.Keeps pnd) :
    (State.newLag s p old).Keeps pnd := by
  unfold State.newLag
  repeat' first
    | with_reducible assumption
    | with_reducible apply State.event_keeps
    | with_reducible apply State.fence_keeps
    | with_reducible apply State.onPlot_keeps
    | with_reducible apply State.ringAlarm_keeps
    | with_reducible apply State.takeSlip_keeps
    | with_reducible apply State.toLead_keeps
    | with_reducible apply keeps_ite

theorem State.markPlot_keeps {pnd : List Instr} {s : State} {p : Nat} (hk : s.Keeps pnd) :
    (State.markPlot s p).Keeps pnd := by
  unfold State.markPlot
  repeat' first
    | with_reducible assumption
    | with_reducible apply State.beginBeat_keeps
    | with_reducible apply State.newLag_keeps
    | with_reducible apply State.onPlot_keeps
    | with_reducible apply keeps_ite

theorem State.nameBeat_keeps {pnd : List Instr} {s : State} {b num : Nat} (hk : s.Keeps pnd) :
    (State.nameBeat s b num).Keeps pnd := by
  unfold State.nameBeat
  repeat' first
    | with_reducible assumption
    | with_reducible apply State.onCasc_keeps
    | with_reducible apply State.putSet_keeps
    | with_reducible apply State.showArmed_keeps
    | with_reducible apply keeps_ite
    | (extract_lets +onlyGivenNames u; refine keeps_cut (p := pnd) u ?_ (fun _ => ?_)
       rotate_left; clear_value u; rotate_right; unfold u)
    | split

theorem State.reachBeat_keeps {pnd : List Instr} {s : State} {b edge num : Nat} (hk : s.Keeps pnd) :
    (State.reachBeat s b edge num).Keeps pnd := by
  unfold State.reachBeat
  repeat' first
    | with_reducible assumption
    | with_reducible apply State.fenceRing_keeps
    | with_reducible apply State.putSet_keeps
    | with_reducible apply State.ringAlarm_keeps
    | with_reducible apply keeps_ite
    | split

theorem State.sendCommits_keeps {pnd : List Instr} {s : State} {b : Nat} (hk : s.Keeps pnd) :
    (State.sendCommits s b).Keeps pnd := by
  unfold State.sendCommits
  repeat' first
    | with_reducible intro _
    | with_reducible assumption
    | with_reducible apply State.nameBeat_keeps
    | with_reducible apply State.onCasc_keeps
    | with_reducible apply State.sendDown_keeps
    | with_reducible apply keeps_foldl

theorem State.takeMark_keeps {pnd : List Instr} {s : State} {b active : Nat} {slip : Bool} (hk : s.Keeps pnd) :
    (State.takeMark s b active slip).Keeps pnd := by
  unfold State.takeMark
  repeat' first
    | with_reducible intro _
    | with_reducible assumption
    | with_reducible apply State.atEdge_keeps
    | with_reducible apply State.bump_keeps
    | with_reducible apply State.markPlot_keeps
    | with_reducible apply State.onCasc_keeps
    | with_reducible apply State.onPlot_keeps
    | with_reducible apply State.reachBeat_keeps
    | with_reducible apply State.setFld_keeps
    | with_reducible apply State.showLag_keeps
    | with_reducible apply keeps_foldl
    | with_reducible apply keeps_ite

theorem State.sendMark_keeps {pnd : List Instr} {s : State} {b : Nat} (hk : s.Keeps pnd) :
    (State.sendMark s b).Keeps pnd := by
  unfold State.sendMark
  repeat' first
    | with_reducible assumption
    | with_reducible apply State.onCasc_keeps
    | with_reducible apply State.ringAlarm_keeps
    | with_reducible apply State.sendDown_keeps
    | with_reducible apply State.takeMark_keeps
    | with_reducible apply keeps_ite

theorem execRoster_keeps {pnd : List Instr} {g : CtrlGrain} {s : State} (hk : s.Keeps pnd) :
    outKeeps pnd (execRoster g s) := by
  unfold execRoster
  repeat' first
    | with_reducible intro _
    | with_reducible assumption
    | with_reducible apply onRing_keeps
    | with_reducible apply State.sendDown_keeps
    | with_reducible apply State.sendMark_keeps
    | with_reducible apply State.setFld_keeps
    | with_reducible apply State.setRing_keeps
    | with_reducible apply outKeeps_refused
    | with_reducible apply keeps_ite
    | simp only [keeps_upd_iff]
    | split

theorem execBeatTimer_keeps {pnd : List Instr} {s : State} (hk : s.Keeps pnd) : outKeeps pnd (execBeatTimer s) := by
  unfold execBeatTimer
  repeat' first
    | with_reducible assumption
    | with_reducible apply State.sendCommits_keeps
    | with_reducible apply State.sendMark_keeps
    | with_reducible apply when__keeps
    | with_reducible apply outKeeps_refused
    | (extract_lets +onlyGivenNames v; clear_value v)
    | split

theorem execMark_keeps {pnd : List Instr} {g : CtrlGrain} {s : State} (hk : s.Keeps pnd) : outKeeps pnd (execMark g s) := by
  unfold execMark
  repeat' first
    | with_reducible intro _
    | with_reducible assumption
    | with_reducible apply State.onCasc_keeps
    | with_reducible apply onRing_keeps
    | with_reducible apply State.sendDown_keeps
    | with_reducible apply State.setRing_keeps
    | with_reducible apply State.takeMark_keeps
    | with_reducible apply outKeeps_refused
    | with_reducible apply keeps_ite
    | split

theorem execSlipreq_keeps {pnd : List Instr} {g : CtrlGrain} {s : State} (hk : s.Keeps pnd) :
    outKeeps pnd (execSlipreq g s) := by
  unfold execSlipreq
  repeat' first
    | with_reducible intro _
    | with_reducible assumption
    | with_reducible apply onRing_keeps
    | with_reducible apply State.passOn_keeps
    | with_reducible apply State.takeSlip_keeps
    | with_reducible apply outKeeps_refused
    | with_reducible apply keeps_ite
    | split

theorem State.takeBarrel_keeps {pnd : List Instr} {s : State} {p epoch : Nat} (hk : s.Keeps pnd) :
    (State.takeBarrel s p epoch).Keeps pnd := by
  unfold State.takeBarrel
  repeat' first
    | with_reducible assumption
    | with_reducible apply State.onPlot_keeps
    | with_reducible apply State.releaseGroup_keeps

theorem State.arrive_keeps {pnd : List Instr} {s : State} {p epoch pos : Nat} (hk : s.Keeps pnd) :
    (State.arrive s p epoch pos).Keeps pnd := by
  unfold State.arrive
  repeat' first
    | with_reducible assumption
    | with_reducible apply State.onCasc_keeps
    | with_reducible apply State.sendDown_keeps
    | with_reducible apply State.takeBarrel_keeps
    | with_reducible apply keeps_ite

theorem execBararr_keeps {pnd : List Instr} {g : CtrlGrain} {s : State} (hk : s.Keeps pnd) :
    outKeeps pnd (execBararr g s) := by
  unfold execBararr
  repeat' first
    | with_reducible intro _
    | with_reducible assumption
    | with_reducible apply State.arrive_keeps
    | with_reducible apply onRing_keeps
    | with_reducible apply State.passOn_keeps
    | with_reducible apply outKeeps_refused
    | with_reducible apply keeps_ite
    | split

theorem execBarrel_keeps {pnd : List Instr} {g : CtrlGrain} {s : State} (hk : s.Keeps pnd) :
    outKeeps pnd (execBarrel g s) := by
  unfold execBarrel
  repeat' first
    | with_reducible intro _
    | with_reducible assumption
    | with_reducible apply onRing_keeps
    | with_reducible apply State.sendDown_keeps
    | with_reducible apply State.takeBarrel_keeps
    | with_reducible apply outKeeps_refused
    | with_reducible apply keeps_ite
    | split

theorem execBeatGroupComplete_keeps {pnd : List Instr} {p : Nat} {s : State} (hk : s.Keeps pnd) :
    outKeeps pnd (execBeatGroupComplete p s) := by
  unfold execBeatGroupComplete
  repeat' first
    | with_reducible intro _
    | with_reducible assumption
    | with_reducible apply State.arrive_keeps
    | with_reducible apply State.beginBeat_keeps
    | with_reducible apply State.newLag_keeps
    | with_reducible apply State.onPlot_keeps
    | with_reducible apply State.showLag_keeps
    | with_reducible apply State.toLead_keeps
    | with_reducible apply outKeeps_whenSome
    | with_reducible apply outKeeps_onUnit
    | with_reducible apply outKeeps_next
    | with_reducible apply outKeeps_refused
    | with_reducible apply keeps_ite
    | simp only [keeps_upd_iff]
    | split

theorem execChecked_keeps {pnd : List Instr} {g : CtrlGrain} {s : State} (hk : s.Keeps pnd) :
    outKeeps pnd (execChecked g s) := by
  unfold execChecked
  repeat' first
    | with_reducible intro _
    | with_reducible assumption
    | with_reducible apply State.onCasc_keeps
    | with_reducible apply onRing_keeps
    | with_reducible apply State.passOn_keeps
    | with_reducible apply State.sendCommits_keeps
    | with_reducible apply outKeeps_refused
    | with_reducible apply keeps_ite
    | simp only [keeps_upd_iff]
    | split

theorem execCommitGrain_keeps {pnd : List Instr} {g : CtrlGrain} {s : State} (hk : s.Keeps pnd) :
    outKeeps pnd (execCommitGrain g s) := by
  unfold execCommitGrain
  repeat' first
    | with_reducible intro _
    | with_reducible assumption
    | with_reducible apply State.nameBeat_keeps
    | with_reducible apply onRing_keeps
    | with_reducible apply State.sendDown_keeps
    | with_reducible apply outKeeps_refused
    | with_reducible apply keeps_ite
    | split

theorem execMarkTimeout_keeps {pnd : List Instr} {s : State} (hk : s.Keeps pnd) : outKeeps pnd (execMarkTimeout s) := by
  unfold execMarkTimeout
  repeat' first
    | with_reducible assumption
    | with_reducible apply State.fenceRing_keeps
    | with_reducible apply State.onCasc_keeps
    | with_reducible apply State.ringFail_keeps
    | with_reducible apply when__keeps

/-! ### Telem -/

theorem execTelemRecordReceive_keeps {pnd : List Instr} {t : Site} {s : State} (hk : s.Keeps pnd) :
    outKeeps pnd (execTelemRecordReceive t s) := by
  unfold execTelemRecordReceive
  repeat' first
    | with_reducible assumption
    | with_reducible apply State.eventIn_keeps
    | with_reducible apply State.onNi_keeps
    | with_reducible apply State.onTelem_keeps
    | with_reducible apply State.traceIn_keeps
    | with_reducible apply outKeeps_onTile
    | with_reducible apply outKeeps_next
    | with_reducible apply outKeeps_refused
    | with_reducible apply keeps_ite
    | simp only [keeps_upd_iff]
    | split

theorem State.sendAlarms_keeps {pnd : List Instr} {s : State} {rs : List TRec} (hk : s.Keeps pnd) :
    (State.sendAlarms s rs).Keeps pnd := by
  unfold State.sendAlarms
  repeat' first
    | with_reducible intro _
    | with_reducible assumption
    | with_reducible apply State.hostOut_keeps
    | with_reducible apply State.onTelem_keeps
    | with_reducible apply keeps_foldl

theorem State.sendAlarmRun_keeps {p : List Instr} {n k : Nat} {s : State} {l : List TRec} (h : s.Keeps p) :
    (State.sendAlarmRun n k s l).Keeps p := by
  induction k generalizing s l with
  | zero => exact h
  | succ k ih =>
    unfold State.sendAlarmRun
    split
    · exact h
    · exact ih (State.sendAlarms_keeps h)

theorem State.ringFell_keeps {pnd : List Instr} {s : State} (hk : s.Keeps pnd) : (State.ringFell s).Keeps pnd := by
  unfold State.ringFell
  repeat' first
    | with_reducible assumption
    | with_reducible apply State.onTelem_keeps
    | with_reducible apply State.setFld_keeps
    | with_reducible apply keeps_ite

theorem execTelemDatagramSend_keeps {pnd : List Instr} {cls : Nat} {s : State} (hk : s.Keeps pnd) :
    outKeeps pnd (execTelemDatagramSend cls s) := by
  unfold execTelemDatagramSend
  repeat' first
    | with_reducible intro _
    | with_reducible assumption
    | with_reducible apply State.hostOut_keeps
    | with_reducible apply State.onTelem_keeps
    | with_reducible apply State.ringFell_keeps
    | with_reducible apply State.sendAlarms_keeps
    | with_reducible apply when__keeps
    | with_reducible apply outKeeps_whenSome
    | with_reducible apply outKeeps_onUnit
    | with_reducible apply outKeeps_refused
    | (extract_lets +onlyGivenNames v; clear_value v)
    | simp only [keeps_upd_iff]
    | split

theorem execAlarmResend_keeps {pnd : List Instr} {s : State} (hk : s.Keeps pnd) : outKeeps pnd (execAlarmResend s) := by
  unfold execAlarmResend
  repeat' first
    | with_reducible assumption
    | with_reducible apply State.sendAlarmRun_keeps
    | with_reducible apply when__keeps

theorem State.writeAack_keeps {pnd : List Instr} {s : State} {v : Dword} (hk : s.Keeps pnd) :
    (State.writeAack s v).Keeps pnd := by
  unfold State.writeAack
  repeat' first
    | with_reducible assumption
    | with_reducible apply State.onTelem_keeps
    | with_reducible apply State.setFld_keeps
    | with_reducible apply keeps_ite

theorem execTelemAackWrite_keeps {pnd : List Instr} {v : Dword} {s : State} (hk : s.Keeps pnd) :
    outKeeps pnd (execTelemAackWrite v s) := by
  unfold execTelemAackWrite
  repeat' first
    | with_reducible assumption
    | with_reducible apply State.writeAack_keeps
    | with_reducible apply outKeeps_next

theorem execSummaryClose_keeps {pnd : List Instr} {code : Nat} {s : State} (hk : s.Keeps pnd) :
    outKeeps pnd (execSummaryClose code s) := by
  unfold execSummaryClose
  repeat' first
    | with_reducible intro _
    | with_reducible assumption
    | with_reducible apply State.onTelem_keeps
    | with_reducible apply when__keeps
    | with_reducible apply outKeeps_whenSome

theorem execHostLinkChange_keeps {pnd : List Instr} {a : Nat} {up swapped : Bool} {s : State} (hk : s.Keeps pnd) :
    outKeeps pnd (execHostLinkChange a up swapped s) := by
  unfold execHostLinkChange
  repeat' first
    | with_reducible assumption
    | with_reducible apply State.flushPort_keeps
    | with_reducible apply State.onHostPort_keeps
    | with_reducible apply State.setFld_keeps
    | with_reducible apply when__keeps
    | with_reducible apply outKeeps_onUnit
    | with_reducible apply outKeeps_next
    | (extract_lets +onlyGivenNames u; refine keeps_cut (p := pnd) u ?_ (fun _ => ?_)
       rotate_left; clear_value u; rotate_right; unfold u)
    | split

theorem execSecureAssociation_keeps {pnd : List Instr} {a : Nat} {live : Bool} {s : State} (hk : s.Keeps pnd) :
    outKeeps pnd (execSecureAssociation a live s) := by
  unfold execSecureAssociation
  repeat' first
    | with_reducible assumption
    | with_reducible apply State.setFld_keeps
    | with_reducible apply when__keeps
    | with_reducible apply outKeeps_onUnit
    | with_reducible apply outKeeps_next
    | split

theorem execPfcFrame_keeps {pnd : List Instr} {a : Nat} {pause : Bool} {s : State} (hk : s.Keeps pnd) :
    outKeeps pnd (execPfcFrame a pause s) := by
  unfold execPfcFrame
  repeat' first
    | with_reducible assumption
    | with_reducible apply State.dropFrame_keeps
    | with_reducible apply State.flushPort_keeps
    | with_reducible apply State.onHostPort_keeps
    | with_reducible apply when__keeps
    | with_reducible apply outKeeps_onUnit
    | with_reducible apply keeps_ite

theorem execPtpEventMessage_keeps {pnd : List Instr} {a : Nat} {transmitSync : Bool} {time : Nat} {s : State} (hk : s.Keeps
    pnd) :
    outKeeps pnd (execPtpEventMessage a transmitSync time s) := by
  unfold execPtpEventMessage
  repeat' first
    | with_reducible assumption
    | with_reducible apply State.hostOut_keeps
    | with_reducible apply State.onHostPort_keeps
    | with_reducible apply when__keeps
    | with_reducible apply outKeeps_onUnit
    | with_reducible apply keeps_ite

/-! ### RegIo -/

theorem State.writePlotReset_keeps {pnd : List Instr} {s : State} {p : Nat} {v : Dword} (hk : s.Keeps pnd) :
    (State.writePlotReset s p v).Keeps pnd := by
  unfold State.writePlotReset
  repeat' first
    | with_reducible assumption
    | with_reducible apply State.askPlot_keeps
    | with_reducible apply State.fence_keeps
    | with_reducible apply keeps_ite

theorem State.writeArray_keeps {pnd : List Instr} {s : State} {a : Nat} {v : Dword} (hk : s.Keeps pnd) :
    optKeeps pnd (State.writeArray s a v) := by
  unfold State.writeArray
  repeat' first
    | with_reducible assumption
    | with_reducible apply State.writeFacetCfg_keeps
    | with_reducible apply State.writeMux_keeps
    | with_reducible apply State.writePlotReset_keeps
    | with_reducible apply State.writePwrPlot_keeps
    | with_reducible apply State.writeQp_keeps
    | with_reducible apply optKeeps_none
    | with_reducible apply optKeeps_some
    | split

theorem State.writeReg_keeps {pnd : List Instr} {s : State} {a : Nat} {v : Dword} (hk : s.Keeps pnd) :
    (State.writeReg s a v).Keeps pnd := by
  unfold State.writeReg
  repeat' first
    | with_reducible assumption
    | with_reducible apply State.setFld_keeps
    | with_reducible apply State.setReg_keeps
    | with_reducible apply State.writeAack_keeps
    | with_reducible apply State.writeAi_keeps
    | with_reducible apply State.writeArray_keeps
    | with_reducible apply State.writeCapSet_keeps
    | with_reducible apply State.writeClkOut_keeps
    | with_reducible apply State.writeDrain_keeps
    | with_reducible apply State.writeMeas_keeps
    | with_reducible apply State.writeRasReset_keeps
    | with_reducible apply State.writeScan_keeps
    | with_reducible apply State.writeThmCfg_keeps
    | with_reducible apply keeps_ite
    | with_reducible refine keeps_opt (by with_reducible assumption) ?_
    | split

theorem execRegisterWrite_keeps {pnd : List Instr} {addr : Nat} {v : Dword} {s : State} (hk : s.Keeps pnd) :
    outKeeps pnd (execRegisterWrite addr v s) := by
  unfold execRegisterWrite
  repeat' first
    | with_reducible assumption
    | with_reducible apply State.writeReg_keeps
    | with_reducible apply outKeeps_next

/-! ### Boot -/

theorem State.showBlocks_keeps {pnd : List Instr} {s : State} (hk : s.Keeps pnd) : (State.showBlocks s).Keeps pnd := by
  unfold State.showBlocks
  repeat' first
    | with_reducible assumption
    | with_reducible apply State.setReg_keeps

theorem execPowerUp_keeps {pnd : List Instr} {s : State} (hk : s.Keeps pnd) : outKeeps pnd (execPowerUp s) := by
  unfold execPowerUp
  repeat' first
    | with_reducible assumption
    | with_reducible apply State.deviceReset_keeps
    | with_reducible apply State.onSupply_keeps
    | with_reducible apply when__keeps

theorem execAuxStop_keeps {pnd : List Instr} {s : State} (hk : s.Keeps pnd) : outKeeps pnd (execAuxStop s) := by
  unfold execAuxStop
  repeat' first
    | with_reducible assumption
    | with_reducible apply State.deviceReset_keeps
    | with_reducible apply State.onSupply_keeps
    | with_reducible apply when__keeps
    | (extract_lets +onlyGivenNames u; refine keeps_cut (p := pnd) u ?_ (fun _ => ?_)
       rotate_left; clear_value u; rotate_right; unfold u)
    | simp only [keeps_upd_iff]

theorem execStewardSupplyLoss_keeps {pnd : List Instr} {s : State} (hk : s.Keeps pnd) :
    outKeeps pnd (execStewardSupplyLoss s) := by
  unfold execStewardSupplyLoss
  repeat' first
    | with_reducible assumption
    | with_reducible apply State.onSupply_keeps
    | with_reducible apply when__keeps
    | simp only [keeps_upd_iff]

theorem State.setStage_keeps {pnd : List Instr} {s : State} {n : Nat} (hk : s.Keeps pnd) :
    (State.setStage s n).Keeps pnd := by
  unfold State.setStage
  repeat' first
    | with_reducible assumption
    | with_reducible apply State.setFld_keeps

theorem execDeviceBoot_keeps {pnd : List Instr} {straps : Dword} {s : State} (hk : s.Keeps pnd) :
    outKeeps pnd (execDeviceBoot straps s) := by
  unfold execDeviceBoot
  repeat' first
    | with_reducible intro _
    | with_reducible assumption
    | with_reducible apply State.setFld_keeps
    | with_reducible apply State.setReg_keeps
    | with_reducible apply when__keeps
    | with_reducible apply keeps_foldl
    | (extract_lets +onlyGivenNames v; clear_value v)
    | simp only [keeps_upd_iff]

theorem State.startRef_keeps {pnd : List Instr} {s : State} {n : Nat} (hk : s.Keeps pnd) :
    (State.startRef s n).Keeps pnd := by
  unfold State.startRef
  repeat' first
    | with_reducible intro _
    | with_reducible assumption
    | with_reducible apply State.setFld_keeps
    | with_reducible apply State.setGclk_keeps
    | with_reducible apply State.setStage_keeps
    | with_reducible apply keeps_foldl
    | with_reducible apply keeps_ite
    | simp only [keeps_upd_iff]

theorem State.enterRecovery_keeps {pnd : List Instr} {s : State} {reason : Nat} (hk : s.Keeps pnd) :
    (State.enterRecovery s reason).Keeps pnd := by
  unfold State.enterRecovery
  repeat' first
    | with_reducible intro _
    | with_reducible assumption
    | with_reducible apply State.fieldDark_keeps
    | with_reducible apply State.setFld_keeps
    | with_reducible apply State.setReg_keeps
    | with_reducible apply State.setStage_keeps
    | with_reducible apply keeps_foldl
    | (extract_lets +onlyGivenNames v; clear_value v)
    | simp only [keeps_upd_iff]

theorem State.bootMap_keeps {pnd : List Instr} {s : State} (hk : s.Keeps pnd) : (State.bootMap s).Keeps pnd := by
  unfold State.bootMap
  repeat' first
    | with_reducible assumption
    | with_reducible apply State.setFld_keeps
    | with_reducible apply State.setStage_keeps
    | with_reducible apply State.showBlocks_keeps
    | (extract_lets +onlyGivenNames v; clear_value v)
    | simp only [keeps_upd_iff]

theorem State.bootTest_keeps {pnd : List Instr} {s : State} {o : BootObs} (hk : s.Keeps pnd) :
    (State.bootTest s o).Keeps pnd := by
  unfold State.bootTest
  repeat' first
    | with_reducible assumption
    | with_reducible apply State.commitTables_keeps
    | with_reducible apply State.halt_keeps
    | with_reducible apply State.note_keeps
    | with_reducible apply State.setStage_keeps
    | with_reducible apply keeps_ite
    | (extract_lets +onlyGivenNames v; clear_value v)
    | simp only [keeps_upd_iff]

theorem State.bootScan_keeps {pnd : List Instr} {s : State} {o : BootObs} (hk : s.Keeps pnd) :
    (State.bootScan s o).Keeps pnd := by
  unfold State.bootScan
  repeat' first
    | with_reducible intro _
    | with_reducible assumption
    | with_reducible apply State.judgeScan_keeps'
    | with_reducible apply State.setFld_keeps
    | with_reducible apply keeps_foldl
    | with_reducible apply keeps_ite

theorem State.bootFields_keeps {pnd : List Instr} {s : State} {o : BootObs} (hk : s.Keeps pnd) :
    (State.bootFields s o).Keeps pnd := by
  unfold State.bootFields
  repeat' first
    | with_reducible intro _
    | with_reducible assumption
    | with_reducible apply State.bootScan_keeps
    | with_reducible apply State.enterRecovery_keeps
    | with_reducible apply State.setFld_keeps
    | with_reducible apply State.setStage_keeps
    | with_reducible apply keeps_foldl
    | with_reducible apply keeps_ite
    | with_reducible apply keeps_empty

theorem State.bootImage_keeps {pnd : List Instr} {s : State} (hk : s.Keeps pnd) : (State.bootImage s).Keeps pnd := by
  unfold State.bootImage
  repeat' first
    | with_reducible assumption
    | with_reducible apply State.enterRecovery_keeps
    | with_reducible apply State.setReg_keeps
    | with_reducible apply State.setStage_keeps
    | with_reducible apply keeps_ite
    | (extract_lets +onlyGivenNames v; clear_value v)
    | simp only [keeps_upd_iff]

theorem execBootStage_keeps {pnd : List Instr} {obs : BootObs} {s : State} (hk : s.Keeps pnd) :
    outKeeps pnd (execBootStage obs s) := by
  unfold execBootStage
  repeat' first
    | with_reducible assumption
    | with_reducible apply State.alarm_keeps
    | with_reducible apply State.bootFields_keeps
    | with_reducible apply State.bootImage_keeps
    | with_reducible apply State.bootMap_keeps
    | with_reducible apply State.bootTest_keeps
    | with_reducible apply State.halt_keeps
    | with_reducible apply State.setFld_keeps
    | with_reducible apply State.setStage_keeps
    | with_reducible apply State.startRef_keeps
    | with_reducible apply outKeeps_next
    | with_reducible apply outKeeps_refused
    | simp only [keeps_upd_iff]
    | split

theorem execRefwaitRetry_keeps {pnd : List Instr} {refclkOk crystalOk : Bool} {s : State} (hk : s.Keeps pnd) :
    outKeeps pnd (execRefwaitRetry refclkOk crystalOk s) := by
  unfold execRefwaitRetry
  repeat' first
    | with_reducible assumption
    | with_reducible apply State.startRef_keeps
    | with_reducible apply when__keeps
    | split

theorem execTopsoilReady_keeps {pnd : List Instr} {s : State} (hk : s.Keeps pnd) : outKeeps pnd (execTopsoilReady s) := by
  unfold execTopsoilReady
  repeat' first
    | with_reducible assumption
    | with_reducible apply State.setStage_keeps
    | with_reducible apply when__keeps
    | (extract_lets +onlyGivenNames u; refine keeps_cut (p := pnd) u ?_ (fun _ => ?_)
       rotate_left; clear_value u; rotate_right; unfold u)
    | (extract_lets +onlyGivenNames v; clear_value v)
    | simp only [keeps_upd_iff]

theorem execTopsoilStartTimeout_keeps {pnd : List Instr} {s : State} (hk : s.Keeps pnd) :
    outKeeps pnd (execTopsoilStartTimeout s) := by
  unfold execTopsoilStartTimeout
  repeat' first
    | with_reducible assumption
    | with_reducible apply State.enterRecovery_keeps
    | with_reducible apply when__keeps
    | with_reducible apply keeps_ite
    | simp only [keeps_upd_iff]

theorem execWatchdogAnswer_keeps {pnd : List Instr} {s : State} (hk : s.Keeps pnd) : outKeeps pnd (execWatchdogAnswer s) := by
  unfold execWatchdogAnswer
  repeat' first
    | with_reducible assumption
    | with_reducible apply when__keeps
    | simp only [keeps_upd_iff]

theorem State.refuseTopsoil_keeps {pnd : List Instr} {s : State} (hk : s.Keeps pnd) : (State.refuseTopsoil s).Keeps pnd := by
  unfold State.refuseTopsoil
  repeat' first
    | with_reducible assumption
    | with_reducible apply State.alarm_keeps
    | with_reducible apply State.takeFree_keeps'

theorem execTopsoilRequest_keeps {pnd : List Instr} {req : TopReq} {s : State} (hk : s.Keeps pnd) :
    outKeeps pnd (execTopsoilRequest req s) := by
  unfold execTopsoilRequest
  repeat' first
    | with_reducible assumption
    | with_reducible apply State.askPlot_keeps
    | with_reducible apply State.fence_keeps
    | with_reducible apply State.refuseTopsoil_keeps
    | with_reducible apply when__keeps
    | with_reducible apply State.writeReg_keeps
    | with_reducible apply keeps_ite
    | split

theorem execTapAccess_keeps {pnd : List Instr} {code : TapInstr} {s : State} (hk : s.Keeps pnd) :
    outKeeps pnd (execTapAccess code s) := by
  unfold execTapAccess
  repeat' first
    | with_reducible assumption
    | with_reducible apply State.hostOut_keeps
    | with_reducible apply State.takeFree_keeps'
    | with_reducible apply when__keeps
    | with_reducible apply keeps_ite

/-! ### Afterimage -/

theorem execAfterimageSigned_keeps {pnd : List Instr} {s : State} (hk : s.Keeps pnd) :
    outKeeps pnd (execAfterimageSigned s) := by
  unfold execAfterimageSigned
  repeat' first
    | with_reducible intro _
    | with_reducible assumption
    | with_reducible apply State.setFld_keeps
    | with_reducible apply when__keeps
    | with_reducible apply outKeeps_whenSome
    | (extract_lets +onlyGivenNames u; refine keeps_cut (p := pnd) u ?_ (fun _ => ?_)
       rotate_left; clear_value u; rotate_right; unfold u)
    | (extract_lets +onlyGivenNames v; clear_value v)
    | simp only [keeps_upd_iff]

theorem State.dumpPart_keeps {pnd : List Instr} {s : State} {q : Nat} {c : HostCmd} {i : Nat} (hk : s.Keeps pnd) :
    (State.dumpPart s q c i).Keeps pnd := by
  unfold State.dumpPart
  repeat' first
    | with_reducible assumption
    | with_reducible apply State.advanceSent_keeps
    | with_reducible apply State.endPart_keeps
    | with_reducible apply State.hostOut_keeps
    | with_reducible apply State.onCommand_keeps
    | with_reducible apply keeps_ite
    | (extract_lets +onlyGivenNames u; refine keeps_cut (p := pnd) u ?_ (fun _ => ?_)
       rotate_left; clear_value u; rotate_right; unfold u)
    | (extract_lets +onlyGivenNames v; clear_value v)
    | simp only [keeps_upd_iff]
    | split

theorem execDumpFetch_keeps {pnd : List Instr} {q : Nat} {s : State} (hk : s.Keeps pnd) :
    outKeeps pnd (execDumpFetch q s) := by
  unfold execDumpFetch
  repeat' first
    | with_reducible intro _
    | with_reducible assumption
    | with_reducible apply State.dumpPart_keeps
    | with_reducible apply hostRow_keeps
    | with_reducible apply outKeeps_next
    | with_reducible apply outKeeps_refused
    | split

/-! ### HostReg -/

theorem State.acceptCmd_keeps {pnd : List Instr} {s : State} {q : Nat} {c : HostCmd} (hk : s.Keeps pnd) :
    (State.acceptCmd s q c).Keeps pnd := by
  unfold State.acceptCmd
  repeat' first
    | with_reducible assumption
    | with_reducible apply State.complete_keeps
    | with_reducible apply State.count_keeps
    | with_reducible apply State.onHostq_keeps
    | with_reducible apply State.receipt_keeps
    | with_reducible apply State.sweep_keeps
    | with_reducible apply keeps_ite

theorem State.duplicate_keeps {pnd : List Instr} {s : State} {q : Nat} {c : HostCmd} (hk : s.Keeps pnd) :
    (State.duplicate s q c).Keeps pnd := by
  unfold State.duplicate
  repeat' first
    | with_reducible assumption
    | with_reducible apply State.onCommand_keeps
    | with_reducible apply State.receipt_keeps
    | with_reducible apply State.sendFrame_keeps
    | with_reducible apply keeps_ite
    | split

theorem State.judgeSeq_keeps {pnd : List Instr} {s : State} {q : Nat} {c : HostCmd} (hk : s.Keeps pnd) :
    (State.judgeSeq s q c).Keeps pnd := by
  unfold State.judgeSeq
  repeat' first
    | with_reducible assumption
    | with_reducible apply State.acceptCmd_keeps
    | with_reducible apply State.duplicate_keeps
    | with_reducible apply State.receipt_keeps
    | with_reducible apply State.sendFrame_keeps
    | with_reducible apply keeps_ite

theorem execVhcpCommandArrival_keeps {pnd : List Instr} {e : Ether} {payload : List Byte} {s : State} (hk : s.Keeps pnd) :
    outKeeps pnd (execVhcpCommandArrival e payload s) := by
  unfold execVhcpCommandArrival
  repeat' first
    | with_reducible assumption
    | with_reducible apply State.dropFrame_keeps
    | with_reducible apply State.judgeSeq_keeps
    | with_reducible apply when__keeps
    | with_reducible apply outKeeps_onUnit
    | with_reducible apply keeps_ite

theorem execRegRead_keeps {pnd : List Instr} {q : Nat} {s : State} (hk : s.Keeps pnd) : outKeeps pnd (execRegRead q s) := by
  unfold execRegRead
  repeat' first
    | with_reducible intro _
    | with_reducible assumption
    | with_reducible apply State.endPart_keeps
    | with_reducible apply hostRow_keeps
    | with_reducible apply outKeeps_next

theorem execRegWrite_keeps {p : List Instr} {q : Nat} {s : State} (h : s.Keeps p) : outKeeps p (execRegWrite q s) := by
  unfold execRegWrite
  apply hostRow_keeps h
  intro c
  extract_lets +onlyGivenNames a code u
  clear_value a code
  have k : u.Keeps p := State.writeReg_keeps h
  clear_value u
  split
  · exact State.endPart_keeps h
  · exact keeps_ite (State.endPart_keeps k) k

theorem State.attestQuery_keeps {pnd : List Instr} {s : State} {q : Nat} {c : HostCmd} (hk : s.Keeps pnd) :
    optFst pnd (State.attestQuery s q c) := by
  unfold State.attestQuery
  repeat' first
    | with_reducible intro _
    | with_reducible assumption
    | with_reducible apply State.onHostq_keeps
    | with_reducible apply fstKeeps_mk
    | with_reducible apply optFst_map
    | with_reducible apply optFst_some
    | (extract_lets +onlyGivenNames v; clear_value v)
    | split

theorem execQuery_keeps {pnd : List Instr} {q : Nat} {s : State} (hk : s.Keeps pnd) : outKeeps pnd (execQuery q s) := by
  unfold execQuery
  repeat' first
    | with_reducible intro _
    | with_reducible assumption
    | with_reducible apply State.attestQuery_keeps
    | with_reducible apply State.finish_keeps
    | with_reducible apply hostRow_keeps
    | with_reducible apply outKeeps_next
    | with_reducible refine keeps_optFst (by with_reducible assumption) ?_
    | split

theorem State.onBoot_keeps {pnd : List Instr} {s : State} {f : Boot → Boot} (hk : s.Keeps pnd) :
    (State.onBoot s f).Keeps pnd := by
  unfold State.onBoot
  repeat' first
    | with_reducible assumption
    | simp only [keeps_upd_iff]

theorem State.dropDelivery_keeps {pnd : List Instr} {s : State} (hk : s.Keeps pnd) : (State.dropDelivery s).Keeps pnd := by
  unfold State.dropDelivery
  repeat' first
    | with_reducible assumption
    | with_reducible apply State.onBoot_keeps
    | with_reducible apply State.setFld_keeps
    | simp only [keeps_upd_iff]
    | split

theorem State.startDelivery_keeps {pnd : List Instr} {s : State} {q total kind : Nat} (hk : s.Keeps pnd) :
    optKeeps pnd (State.startDelivery s q total kind) := by
  unfold State.startDelivery
  repeat' first
    | with_reducible intro _
    | with_reducible assumption
    | with_reducible apply State.onBoot_keeps
    | with_reducible apply State.setFld_keeps
    | with_reducible apply optKeeps_map

theorem State.collect_keeps {pnd : List Instr} {s : State} {d : Delivery} {off : Nat} {bs : List Byte} (hk : s.Keeps pnd) :
    fstKeeps pnd (State.collect s d off bs) := by
  unfold State.collect
  repeat' first
    | with_reducible assumption
    | with_reducible apply State.onBoot_keeps
    | with_reducible apply State.putPkg_keeps
    | with_reducible apply State.setFld_keeps
    | with_reducible apply fstKeeps_mk
    | with_reducible apply keeps_ite

theorem State.collect_keeps' {pnd : List Instr} {s : State} {d : Delivery} {off : Nat} {bs : List Byte} (hk : s.Keeps pnd) :
    (State.collect s d off bs).1.Keeps pnd := State.collect_keeps hk

theorem State.spoilImage_keeps {pnd : List Instr} {s : State} (hk : s.Keeps pnd) : (State.spoilImage s).Keeps pnd := by
  unfold State.spoilImage
  repeat' first
    | with_reducible assumption
    | with_reducible apply State.setFlash_keeps
    | with_reducible apply State.takeFree_keeps'
    | with_reducible apply keeps_ite

theorem State.judgeObject_keeps {pnd : List Instr} {s : State} {q : Nat} {c : HostCmd} {d : Delivery} (hk : s.Keeps pnd) :
    (State.judgeObject s q c d).Keeps pnd := by
  unfold State.judgeObject
  repeat' first
    | with_reducible assumption
    | with_reducible apply State.dropDelivery_keeps
    | with_reducible apply State.finish_keeps
    | with_reducible apply State.onBoot_keeps
    | with_reducible apply State.onCommand_keeps
    | with_reducible apply State.setFld_keeps
    | with_reducible apply State.spoilImage_keeps
    | with_reducible apply keeps_ite

theorem execRecover_keeps {pnd : List Instr} {q : Nat} {s : State} (hk : s.Keeps pnd) : outKeeps pnd (execRecover q s) := by
  unfold execRecover
  repeat' first
    | with_reducible intro _
    | with_reducible assumption
    | with_reducible apply State.collect_keeps'
    | with_reducible apply State.dropDelivery_keeps
    | with_reducible apply State.finish_keeps
    | with_reducible apply hostRow_keeps
    | with_reducible apply State.judgeObject_keeps
    | with_reducible apply State.startDelivery_keeps
    | with_reducible apply outKeeps_next
    | with_reducible apply outKeeps_refused
    | with_reducible apply keeps_ite
    | (extract_lets +onlyGivenNames v; clear_value v)
    | with_reducible refine keeps_opt (by with_reducible assumption) ?_
    | simp only [keeps_upd_iff]
    | split

theorem State.objectWritten_keeps {pnd : List Instr} {s : State} {w : FlashWrite} (hk : s.Keeps pnd) :
    (State.objectWritten s w).Keeps pnd := by
  unfold State.objectWritten
  repeat' first
    | with_reducible assumption
    | with_reducible apply State.onBoot_keeps
    | with_reducible apply State.setFlash_keeps
    | with_reducible apply State.setFld_keeps
    | with_reducible apply State.setStage_keeps
    | with_reducible apply State.showBlocks_keeps
    | with_reducible apply keeps_ite

theorem execFlashWriteDone_keeps {pnd : List Instr} {ok : Bool} {s : State} (hk : s.Keeps pnd) :
    outKeeps pnd (execFlashWriteDone ok s) := by
  unfold execFlashWriteDone
  repeat' first
    | with_reducible intro _
    | with_reducible assumption
    | with_reducible apply State.finish_keeps
    | with_reducible apply State.objectWritten_keeps
    | with_reducible apply State.onBoot_keeps
    | with_reducible apply State.setFld_keeps
    | with_reducible apply outKeeps_whenSome
    | with_reducible apply outKeeps_next
    | with_reducible apply keeps_ite
    | (extract_lets +onlyGivenNames u; refine keeps_cut (p := pnd) u ?_ (fun _ => ?_)
       rotate_left; clear_value u; rotate_right; unfold u)
    | split

end Sys2Proof.Machine
end

