-- ==== Sys2Proof/Laws/KeepsUpdate.lean ====
section
/-!
SUPPORT. That every operation of the vector and the update engine keeps the invariant of Sys2Proof/Safety.lean and the
commands that wait: one lemma per operation, named after it.
-/
set_option linter.unusedSimpArgs false
set_option linter.tactic.unusedName false
set_option linter.unusedVariables false
namespace Sys2Proof.Machine

/-! ### Ve -/

theorem veRun_keeps {pnd : List Instr} {t : Site} {s : State} {f : InFlight} {d : Desc} (hk : s.Keeps pnd) :
    fstKeeps pnd (veRun t s f d) := by
  unfold veRun
  repeat' first
    | with_reducible assumption
    | with_reducible apply State.meetReads_keeps
    | with_reducible apply State.writeRows_keeps
    | with_reducible apply fstKeeps_mk

theorem veRun_keeps' {pnd : List Instr} {t : Site} {s : State} {f : InFlight} {d : Desc} (hk : s.Keeps pnd) :
    (veRun t s f d).1.Keeps pnd := veRun_keeps hk

theorem execVeOperation_keeps {pnd : List Instr} {t : Site} {s : State} (hk : s.Keeps pnd) :
    outKeeps pnd (execVeOperation t s) := by
  unfold execVeOperation
  repeat' first
    | with_reducible intro _
    | with_reducible assumption
    | with_reducible apply engine_keeps
    | with_reducible apply noPre_keeps
    | with_reducible apply veRun_keeps
    | with_reducible apply EngineOp.Keeps.mk

/-! ### Ue -/

theorem State.ueWrite_keeps {pnd : List Instr} {s : State} {t : Site} {off : Nat} {bs : List Byte} (hk : s.Keeps pnd) :
    (State.ueWrite s t off bs).Keeps pnd := by
  unfold State.ueWrite
  repeat' first
    | with_reducible intro _
    | with_reducible assumption
    | with_reducible apply State.loamPut_keeps
    | with_reducible apply State.mirrorPoint_keeps
    | with_reducible apply State.setFld_keeps
    | with_reducible apply keeps_foldl
    | with_reducible apply keeps_ite
    | split

theorem updateRow_keeps {pnd : List Instr} {t : Site} {f : InFlight} {d : Desc} {e : UeEnv} {o : Nat → Flagged} {m' : Nat →
    Option Flagged} {s : State} {row : Nat} (hk : s.Keeps pnd) :
    fstKeeps pnd (updateRow t f d e o m' s row) := by
  unfold updateRow
  repeat' first
    | with_reducible assumption
    | with_reducible apply State.eccRead_keeps'
    | with_reducible apply State.genCheck_keeps
    | with_reducible apply State.ueWrite_keeps
    | with_reducible apply fstKeeps_mk
    | with_reducible apply keeps_ite
    | (extract_lets +onlyGivenNames u; refine keeps_cut (p := pnd) u ?_ (fun _ => ?_)
       rotate_left; clear_value u; rotate_right; unfold u)
    | (extract_lets +onlyGivenNames v; (have hv := fun x => v x); clear hv; unfold v)
    | (extract_lets +onlyGivenNames v; clear_value v)
    | simp only [keeps_upd_iff]
    | split

theorem updateRow_keeps' {pnd : List Instr} {t : Site} {f : InFlight} {d : Desc} {e : UeEnv} {o : Nat → Flagged} {m' : Nat →
    Option Flagged} {s : State} {row : Nat} (hk : s.Keeps pnd) :
    (updateRow t f d e o m' s row).1.Keeps pnd := updateRow_keeps hk

theorem updateRows_keeps {pnd : List Instr} {t : Site} {f : InFlight} {d : Desc} {e : UeEnv} {o : Nat → Flagged} {m' : Nat →
    Option Flagged} {s : State} (hk : s.Keeps pnd) :
    fstKeeps pnd (updateRows t f d e o m' s) := by
  unfold updateRows
  repeat' first
    | with_reducible intro _
    | with_reducible assumption
    | with_reducible apply updateRow_keeps'
    | with_reducible apply keeps_foldl_fst
    | with_reducible apply fstKeeps_mk
    | simp only [keeps_upd_iff]
    | split

theorem updateRows_keeps' {pnd : List Instr} {t : Site} {f : InFlight} {d : Desc} {e : UeEnv} {o : Nat → Flagged} {m' : Nat
    → Option Flagged} {s : State} (hk : s.Keeps pnd) :
    (updateRows t f d e o m' s).1.Keeps pnd := updateRows_keeps hk

theorem saveWork_keeps {pnd : List Instr} {t : Site} {r : GroupRec} {o : OrthoSt} {s : State} (hk : s.Keeps pnd) :
    (saveWork t r o s).Keeps pnd := by
  unfold saveWork
  repeat' first
    | with_reducible assumption
    | with_reducible apply State.ueWrite_keeps
    | with_reducible apply keeps_ite

theorem State.multicast_keeps {pnd : List Instr} {s : State} {t : Site} {tree : Nat} {bs : List Byte} (hk : s.Keeps pnd) :
    (State.multicast s t tree bs).Keeps pnd := by
  unfold State.multicast
  repeat' first
    | with_reducible intro _
    | with_reducible assumption
    | with_reducible apply State.niSend_keeps
    | with_reducible apply keeps_foldl

theorem State.takeCast_keeps {pnd : List Instr} {s : State} {t : Site} {n : Nat} (hk : s.Keeps pnd) :
    optSnd pnd (State.takeCast s t n) := by
  unfold State.takeCast
  repeat' first
    | with_reducible assumption
    | with_reducible apply State.onNi_keeps
    | with_reducible apply sndKeeps_mk
    | with_reducible apply optSnd_none
    | with_reducible apply optSnd_some
    | (extract_lets +onlyGivenNames v; clear_value v)
    | split

theorem State.takeItem_keeps {pnd : List Instr} {s : State} {t : Site} {p : Nat} (hk : s.Keeps pnd) :
    optSnd pnd (State.takeItem s t p) := by
  unfold State.takeItem
  repeat' first
    | with_reducible assumption
    | with_reducible apply State.releaseItems_keeps
    | with_reducible apply State.slotItem_keeps'
    | with_reducible apply sndKeeps_mk
    | with_reducible apply optSnd_none
    | with_reducible apply optSnd_some
    | (extract_lets +onlyGivenNames v; clear_value v)
    | split

theorem chainStep_keeps {p : List Instr} {s : State} {t : Site} {r : GroupRec} {own : List Word} {i : Nat} (h : s.Keeps p) :
    optSnd p (chainStep s t r own i) := by
  unfold chainStep
  extract_lets +onlyGivenNames n mine room
  clear_value mine room
  split
  · exact optSnd_none
  extract_lets +onlyGivenNames got
  have hg : optSnd p got := by
    unfold got
    split
    · exact optSnd_some h
    · split
      · exact optSnd_some (keeps_optSnd ‹_› (State.takeItem_keeps h))
      · exact optSnd_none
  clear_value got
  refine optSnd_mapSnd hg ?_
  rintro ⟨ws, u⟩ hu
  exact keeps_ite hu (State.sendItem_keeps hu)

theorem orthoStart_keeps {pnd : List Instr} {t : Site} {s : State} {f : InFlight} {d : Desc} {e : UeEnv} (hk : s.Keeps pnd)
    :
    fstKeeps pnd (orthoStart t s f d e) := by
  unfold orthoStart
  repeat' first
    | with_reducible intro _
    | with_reducible assumption
    | with_reducible apply State.ueWrite_keeps
    | with_reducible apply keeps_foldl
    | with_reducible apply fstKeeps_mk
    | with_reducible apply keeps_ite
    | (extract_lets +onlyGivenNames u; refine keeps_cut (p := pnd) u ?_ (fun _ => ?_)
       rotate_left; clear_value u; rotate_right; unfold u)
    | (extract_lets +onlyGivenNames v; clear_value v)
    | simp only [keeps_upd_iff]
    | split

theorem orthoStart_keeps' {pnd : List Instr} {t : Site} {s : State} {f : InFlight} {d : Desc} {e : UeEnv} (hk : s.Keeps pnd)
    :
    (orthoStart t s f d e).1.Keeps pnd := orthoStart_keeps hk

theorem orthoNext_keeps {p : List Instr} {t : Site} {s : State} {f : InFlight} {d : Desc} {e : UeEnv} {o : OrthoSt}
    (h : s.Keeps p) : optFst p (orthoNext t s f d e o) := by
  unfold orthoNext
  extract_lets +onlyGivenNames r c keep
  have hk : ∀ u o, u.Keeps p → optFst p (keep u o) := fun u o hu => optFst_some (saveWork_keeps hu)
  clear_value keep
  split
  · refine optFst_mapSnd (chainStep_keeps h) ?_
    rintro ⟨ws, u⟩ hu
    dsimp only
    split
    · exact saveWork_keeps (State.multicast_keeps hu)
    · exact hu
  · refine optFst_bindSnd (State.takeCast_keeps h) ?_
    rintro ⟨ws, u⟩ hu
    exact hk _ _ hu
  · refine optFst_mapSnd (chainStep_keeps h) ?_
    rintro ⟨ws, u⟩ hu
    dsimp only
    split
    · exact hu
    · split
      · exact saveWork_keeps (State.multicast_keeps hu)
      · exact hu
  · refine optFst_bindSnd (State.takeCast_keeps h) ?_
    rintro ⟨ws, u⟩ hu
    exact hk _ _ hu
  · split
    · exact optFst_none
    · extract_lets +onlyGivenNames o'
      clear_value o'
      split
      · exact hk _ _ h
      · exact optFst_some (updateRows_keeps (saveWork_keeps h))
  · exact optFst_none

theorem updateRun_keeps {pnd : List Instr} {t : Site} {s : State} {f : InFlight} {d : Desc} (hk : s.Keeps pnd) :
    fstKeeps pnd (updateRun t s f d) := by
  unfold updateRun
  repeat' first
    | with_reducible assumption
    | with_reducible apply State.cbump_keeps
    | with_reducible apply State.eccRead_keeps'
    | with_reducible apply State.loamBytes_keeps'
    | with_reducible apply orthoStart_keeps'
    | with_reducible apply State.setCfld_keeps
    | with_reducible apply updateRows_keeps'
    | with_reducible apply fstKeeps_mk
    | (extract_lets +onlyGivenNames u; refine keeps_cut (p := pnd) u ?_ (fun _ => ?_)
       rotate_left; clear_value u; rotate_right; unfold u)
    | simp only [keeps_upd_iff]
    | split

theorem updateRun_keeps' {pnd : List Instr} {t : Site} {s : State} {f : InFlight} {d : Desc} (hk : s.Keeps pnd) :
    (updateRun t s f d).1.Keeps pnd := updateRun_keeps hk

theorem updateOp_keeps {pnd : List Instr} {t : Site}  : EngineOp.Keeps pnd (updateOp t) := by
  unfold updateOp
  repeat' first
    | with_reducible intro _
    | with_reducible assumption
    | with_reducible apply noPre_keeps
    | with_reducible apply updateRun_keeps
    | with_reducible apply EngineOp.Keeps.mk

theorem execUpdate_keeps {pnd : List Instr} {t : Site} {s : State} (hk : s.Keeps pnd) : outKeeps pnd (execUpdate t s) := by
  unfold execUpdate
  repeat' first
    | with_reducible intro _
    | with_reducible assumption
    | with_reducible apply engine_keeps
    | with_reducible apply State.onFlight_keeps
    | with_reducible apply orthoNext_keeps
    | with_reducible apply updateOp_keeps
    | with_reducible apply outKeeps_whenSome
    | with_reducible apply outKeeps_onTile
    | with_reducible apply outKeeps_next
    | with_reducible apply outKeeps_refused
    | with_reducible refine keeps_optFst (by with_reducible assumption) ?_
    | split

theorem execUeTeProduct_keeps {pnd : List Instr} {t : Site} {s : State} (hk : s.Keeps pnd) :
    outKeeps pnd (execUeTeProduct t s) := by
  unfold execUeTeProduct
  repeat' first
    | with_reducible assumption
    | with_reducible apply State.onFlight_keeps
    | with_reducible apply State.onTile_keeps
    | with_reducible apply saveWork_keeps
    | with_reducible apply State.setCfld_keeps
    | with_reducible apply when__keeps
    | with_reducible apply outKeeps_onTile
    | with_reducible apply outKeeps_refused
    | (extract_lets +onlyGivenNames u; refine keeps_cut (p := pnd) u ?_ (fun _ => ?_)
       rotate_left; clear_value u; rotate_right; unfold u)
    | simp only [keeps_upd_iff]
    | split

theorem reducePiece_keeps {pnd : List Instr} {t : Site} {s : State} {f : InFlight} {d : Desc} {x : RStep × Nat × Nat} (hk :
    s.Keeps pnd) :
    optFst pnd (reducePiece t s f d x) := by
  obtain ⟨st, e0, n⟩ := x
  unfold reducePiece
  repeat' first
    | with_reducible intro _
    | with_reducible assumption
    | with_reducible apply State.eccRead_keeps
    | with_reducible apply State.eccRead_keeps'
    | with_reducible apply State.genCheck_keeps
    | with_reducible apply State.onPort_keeps
    | with_reducible apply State.releaseItems_keeps
    | with_reducible apply State.sendItem_keeps
    | with_reducible apply State.writeStore_keeps
    | with_reducible apply keeps_foldl
    | with_reducible apply fstKeeps_foldl
    | with_reducible apply sndKeeps_foldl
    | with_reducible apply keeps_foldl_fst
    | with_reducible apply keeps_foldl_snd
    | (with_reducible refine keeps_proj1 ?_; with_reducible assumption)
    | (with_reducible refine keeps_proj2 ?_; with_reducible assumption)
    | with_reducible apply fstKeeps_mk
    | with_reducible apply sndKeeps_mk
    | with_reducible apply midKeeps_mk
    | with_reducible apply optFst_map
    | with_reducible apply optFst_none
    | with_reducible apply optFst_some
    | with_reducible apply fstKeeps_mk
    | with_reducible apply keeps_ite
    | with_reducible apply optFst_ite
    | (extract_lets +onlyGivenNames u; refine keeps_cut (p := pnd) u ?_ (fun _ => ?_)
       rotate_left; clear_value u; rotate_right; unfold u)
    | (extract_lets +onlyGivenNames v; (have hv := fun x => v x); clear hv; unfold v)
    | (extract_lets +onlyGivenNames v; clear_value v)
    | with_reducible refine keeps_snd (by with_reducible assumption) ?_
    | with_reducible refine keeps_fst (by with_reducible assumption) ?_
    | with_reducible refine keeps_mid (by with_reducible assumption) ?_
    | with_reducible refine keeps_opt (by with_reducible assumption) ?_
    | with_reducible refine keeps_optFst (by with_reducible assumption) ?_
    | with_reducible refine keeps_optSnd (by with_reducible assumption) ?_
    | with_reducible refine keeps_exSnd (by with_reducible assumption) ?_
    | with_reducible refine keeps_optSnd' (by with_reducible assumption) ?_
    | with_reducible refine keeps_optFst' (by with_reducible assumption) ?_
    | simp only [keeps_upd_iff]
    | split

theorem reduceDone_keeps {pnd : List Instr} {t : Site} {s : State} {f : InFlight} (hk : s.Keeps pnd) :
    fstKeeps pnd (reduceDone t s f) := by
  unfold reduceDone
  repeat' first
    | with_reducible assumption
    | with_reducible apply State.mirrorPoint_keeps
    | with_reducible apply fstKeeps_mk

theorem reduceDone_keeps' {pnd : List Instr} {t : Site} {s : State} {f : InFlight} (hk : s.Keeps pnd) :
    (reduceDone t s f).1.Keeps pnd := reduceDone_keeps hk

theorem reduceNext_keeps {pnd : List Instr} {t : Site} {s : State} {f : InFlight} {r : ReduceSt} (hk : s.Keeps pnd) :
    fstKeeps pnd (reduceNext t s f r) := by
  unfold reduceNext
  repeat' first
    | with_reducible assumption
    | with_reducible apply reduceDone_keeps'
    | with_reducible apply reducePiece_keeps
    | with_reducible apply fstKeeps_mk
    | (extract_lets +onlyGivenNames v; clear_value v)
    | with_reducible refine keeps_optFst (by with_reducible assumption) ?_
    | split

theorem reduceNext_keeps' {pnd : List Instr} {t : Site} {s : State} {f : InFlight} {r : ReduceSt} (hk : s.Keeps pnd) :
    (reduceNext t s f r).1.Keeps pnd := reduceNext_keeps hk

theorem reduceOp_keeps {pnd : List Instr} {t : Site} {fallingFirst : Bool}  :
    EngineOp.Keeps pnd (reduceOp t fallingFirst) := by
  unfold reduceOp
  repeat' first
    | with_reducible intro _
    | with_reducible assumption
    | with_reducible apply noPre_keeps
    | with_reducible apply reduceNext_keeps
    | with_reducible apply EngineOp.Keeps.mk

theorem execReduce_keeps {pnd : List Instr} {t : Site} {fallingFirst : Bool} {s : State} (hk : s.Keeps pnd) :
    outKeeps pnd (execReduce t fallingFirst s) := by
  unfold execReduce
  repeat' first
    | with_reducible assumption
    | with_reducible apply engine_keeps
    | with_reducible apply State.onFlight_keeps
    | with_reducible apply reduceNext_keeps'
    | with_reducible apply reduceOp_keeps
    | with_reducible apply when__keeps
    | with_reducible apply outKeeps_onTile
    | with_reducible apply outKeeps_refused
    | simp only [keeps_upd_iff]
    | split

end Sys2Proof.Machine
end

