-- ==== Sys2Proof/Laws/Ops.lean ====
section
/-!
SUPPORT. What the shared operations of every meaning do, said once: the outcomes of a guarded event, of an event at a site, and
of an instruction of the core, each under the conditions that decide it.
-/
namespace Sys2Proof.Machine

/-! ### Guards -/

theorem when_true (name : String) (t : State) : when_ name true t = .next t := rfl
theorem when_false (name : String) (t : State) : when_ name false t = .refused (.notEnabled name) := rfl

theorem when_next {name : String} {g : Bool} {t u : State} : when_ name g t = .next u ↔ g = true ∧ t = u := by
  cases g <;> simp [when_]

theorem when_of {name : String} {g : Bool} {t : State} (h : g = true) : when_ name g t = .next t := by subst h; rfl

theorem whenSome_of {α : Type} {name : String} {o : Option α} {a : α} {f : α → Out} (h : o = some a) :
    whenSome name o f = f a := by subst h; rfl

theorem whenSome_next {α : Type} {name : String} {o : Option α} {f : α → Out} {u : State} :
    whenSome name o f = .next u ↔ ∃ a, o = some a ∧ f a = .next u := by
  cases o <;> simp [whenSome]

theorem onUnit_of {ok : Bool} {k : Out} (h : ok = true) : onUnit ok k = k := by subst h; rfl

theorem onUnit_next {ok : Bool} {k : Out} {u : State} : onUnit ok k = .next u ↔ ok = true ∧ k = .next u := by
  cases ok <;> simp [onUnit]

/-! ### Sites -/

theorem onTile_live {t : Site} {s : State} {k : Out} (h : s.Live t) : onTile t s k = k := by
  simp [Machine.onTile, h.tile, h.thawed]

theorem onTile_next {t : Site} {s u : State} {k : Out} :
    onTile t s k = .next u ↔ s.Live t ∧ k = .next u := by
  constructor
  · intro h
    simp only [Machine.onTile] at h
    split at h
    · cases h
    · split at h
      · cases h
      · rename_i a b
        exact ⟨⟨by simpa using a, by simpa using b⟩, h⟩
  · rintro ⟨h, rfl⟩
    exact onTile_live h

theorem onSite_live {t : Site} {s : State} {k : Out} (h : s.LiveSite t) : onSite t s k = k := by
  simp [onSite, h.wafer, h.thawed]

theorem onSite_next {t : Site} {s u : State} {k : Out} :
    onSite t s k = .next u ↔ s.LiveSite t ∧ k = .next u := by
  constructor
  · intro h
    simp only [onSite] at h
    split at h
    · cases h
    · split at h
      · cases h
      · rename_i a b
        exact ⟨⟨by simpa using a, by simpa using b⟩, h⟩
  · rintro ⟨h, rfl⟩
    exact onSite_live h

theorem State.StandsAt.live {s : State} {t : Site} {op : Nat} {w : Word} (h : s.StandsAt t op w) : s.Live t :=
  ⟨h.tile, h.thawed⟩

/-! ### One list taken apart -/

theorem takeFirst_picks {α : Type} {p : α → Bool} {l rest : List α} {g : α} (h : Picks p l g rest) :
    takeFirst p l = some (g, rest) := by
  obtain ⟨a, b, rfl, rfl, ha, hg⟩ := h
  induction a with
  | nil => simp [takeFirst, hg]
  | cons x a ih =>
    have hx := ha x (by simp)
    have := ih (fun y hy => ha y (by simp [hy]))
    simp [takeFirst, hx, this]

theorem takeFirst_some {α : Type} {p : α → Bool} {l rest : List α} {g : α} (h : takeFirst p l = some (g, rest)) :
    Picks p l g rest := by
  induction l generalizing rest with
  | nil => simp [takeFirst] at h
  | cons x l ih =>
    simp only [takeFirst] at h
    split at h
    · rename_i hx
      cases h
      exact ⟨[], l, rfl, rfl, by simp, hx⟩
    · rename_i hx
      split at h
      · rename_i b m e
        cases h
        obtain ⟨a, c, rfl, rfl, ha, hg⟩ := ih e
        refine ⟨x :: a, c, rfl, rfl, ?_, hg⟩
        intro y hy
        rcases List.mem_cons.1 hy with rfl | hy
        · simpa using hx
        · exact ha y hy
      · cases h

/-! ### Instructions of the core -/

/-- What an instruction whose guard holds does at its word: its body's effect, its trap, or its wait. -/
theorem instr_runs {name : String} {op : Nat} {t : Site} {legal : Word → Bool} {body : Word → State → Eff} {s : State}
    {w : Word} (h : s.Runs t op w) (hl : legal w = true) :
    instr name op t legal body s = match body w s with
      | .ok s' => .next s'
      | .trap cause tval s' => .next (s'.takeTrap t (BitVec.ofNat 32 cause) tval)
      | .wait => .refused (.notEnabled name) := by
  have hc : (!(s.core t).pendQ.isEmpty && !(s.core t).trapT) = false := by
    rcases h.calm with e | e <;> simp [e]
  simp only [instr, onTile_live h.live, h.word, h.bound, h.op, hl, h.guard, hc]
  cases body w s <;> simp

/-- A false guard only advances the PC. -/
theorem instr_skips {name : String} {op : Nat} {t : Site} {legal : Word → Bool} {body : Word → State → Eff} {s : State}
    {w : Word} (h : s.StandsAt t op w) (hl : legal w = true) (hg : (s.core t).pred (fPg w) = false) :
    instr name op t legal body s = .next (s.onCore t Core.advance) := by
  have hc : (!(s.core t).pendQ.isEmpty && !(s.core t).trapT) = false := by
    rcases h.calm with e | e <;> simp [e]
  simp only [instr, onTile_live h.live, h.word, h.bound, h.op, hl, hg, hc]
  simp

/-- A word that the instruction's decoding refuses is ILLEGAL. -/
theorem instr_illegal {name : String} {op : Nat} {t : Site} {legal : Word → Bool} {body : Word → State → Eff} {s : State}
    {w : Word} (ht : s.Live t) (hb : s.atBoundary t = true) (hw : (s.core t).word = some w) (ho : fOp w = op)
    (hl : legal w = false) :
    instr name op t legal body s = .next (s.takeTrap t 2 w) := by
  simp [instr, onTile_live ht, hw, hb, ho, hl, trIllegal]

/-- Everything an instruction can do when it answers a next state. -/
theorem instr_next {name : String} {op : Nat} {t : Site} {legal : Word → Bool} {body : Word → State → Eff} {s u : State}
    (h : instr name op t legal body s = .next u) :
    s.Live t ∧ ∃ w, (s.core t).word = some w ∧ s.atBoundary t = true ∧ fOp w = op ∧
      ((legal w = false ∧ u = s.takeTrap t 2 w) ∨
       (legal w = true ∧ (s.core t).pred (fPg w) = false ∧ u = s.onCore t Core.advance) ∨
       (legal w = true ∧ (s.core t).pred (fPg w) = true ∧ body w s = .ok u) ∨
       (legal w = true ∧ (s.core t).pred (fPg w) = true ∧ ∃ c v s', body w s = .trap c v s' ∧
          u = s'.takeTrap t (BitVec.ofNat 32 c) v)) := by
  obtain ⟨hl, h⟩ := onTile_next.1 h
  refine ⟨hl, ?_⟩
  dsimp only at h
  split at h
  · cases h
  rename_i w hw
  refine ⟨w, hw, ?_⟩
  split at h
  · cases h
  rename_i hb
  simp only [Bool.not_eq_true', Bool.not_eq_false, Bool.and_eq_true, decide_eq_true_eq] at hb
  refine ⟨hb.1, hb.2, ?_⟩
  split at h
  · rename_i hg
    cases h
    exact .inl ⟨by simpa using hg, rfl⟩
  rename_i hg
  have hg : legal w = true := by simpa using hg
  split at h
  · rename_i hp
    split at h
    · cases h
    · cases h
      exact .inr (.inl ⟨hg, by simpa using hp, rfl⟩)
  rename_i hp
  have hp : (s.core t).pred (fPg w) = true := by simpa using hp
  split at h
  · rename_i e
    split at h
    · cases h
    · cases h
      exact .inr (.inr (.inl ⟨hg, hp, e⟩))
  · rename_i c v s' e
    cases h
    exact .inr (.inr (.inr ⟨hg, hp, c, v, s', e, rfl⟩))
  · cases h

end Sys2Proof.Machine
end

