-- ==== Sys2Proof/Laws/State.lean ====
section
/-!
SUPPORT. Reads after writes of the state: what each named update leaves alone (true by rfl, so that no proof unfolds a record
update), what it makes the unit it names read as, and that every memory operation keeps the canonical form of memory.
-/
namespace Sys2Proof.Machine

/-! ### What an update leaves alone -/

@[simp] theorem State.setTile_pending (s : State) (t : Site) (v : Tile) : (s.setTile t v).pending = s.pending := rfl
@[simp] theorem State.setTile_cycle (s : State) (t : Site) (v : Tile) : (s.setTile t v).cycle = s.cycle := rfl
@[simp] theorem State.setTile_freeCtr (s : State) (t : Site) (v : Tile) : (s.setTile t v).freeCtr = s.freeCtr := rfl
@[simp] theorem State.setTile_mem (s : State) (t : Site) (v : Tile) : (s.setTile t v).mem = s.mem := rfl
@[simp] theorem State.setTile_sreg (s : State) (t : Site) (v : Tile) : (s.setTile t v).sreg = s.sreg := rfl
@[simp] theorem State.setTile_routers (s : State) (t : Site) (v : Tile) : (s.setTile t v).routers = s.routers := rfl
@[simp] theorem State.setTile_plots (s : State) (t : Site) (v : Tile) : (s.setTile t v).plots = s.plots := rfl
@[simp] theorem State.setTile_hostQ (s : State) (t : Site) (v : Tile) : (s.setTile t v).hostQ = s.hostQ := rfl
@[simp] theorem State.setTile_hostPorts (s : State) (t : Site) (v : Tile) : (s.setTile t v).hostPorts = s.hostPorts := rfl
@[simp] theorem State.setTile_optPorts (s : State) (t : Site) (v : Tile) : (s.setTile t v).optPorts = s.optPorts := rfl
@[simp] theorem State.setTile_facets (s : State) (t : Site) (v : Tile) : (s.setTile t v).facets = s.facets := rfl
@[simp] theorem State.setTile_fields (s : State) (t : Site) (v : Tile) : (s.setTile t v).fields = s.fields := rfl
@[simp] theorem State.setTile_prism (s : State) (t : Site) (v : Tile) : (s.setTile t v).prism = s.prism := rfl
@[simp] theorem State.setTile_flash (s : State) (t : Site) (v : Tile) : (s.setTile t v).flash = s.flash := rfl
@[simp] theorem State.setTile_svc (s : State) (t : Site) (v : Tile) : (s.setTile t v).svc = s.svc := rfl
@[simp] theorem State.setTile_out (s : State) (t : Site) (v : Tile) : (s.setTile t v).out = s.out := rfl
@[simp] theorem State.setTile_boot (s : State) (t : Site) (v : Tile) : (s.setTile t v).boot = s.boot := rfl
@[simp] theorem State.setTile_supply (s : State) (t : Site) (v : Tile) : (s.setTile t v).supply = s.supply := rfl
@[simp] theorem State.setTile_telem (s : State) (t : Site) (v : Tile) : (s.setTile t v).telem = s.telem := rfl
@[simp] theorem State.setTile_frozen (s : State) (t : Site) (v : Tile) : (s.setTile t v).frozen = s.frozen := rfl
@[simp] theorem State.setTile_router (s : State) (t : Site) (v : Tile) (u : Site) : (s.setTile t v).router u = s.router u := rfl
@[simp] theorem State.setTile_plot (s : State) (t : Site) (v : Tile) (k : Nat) : (s.setTile t v).plot k = s.plot k := rfl
@[simp] theorem State.setTile_hostq (s : State) (t : Site) (v : Tile) (k : Nat) : (s.setTile t v).hostq k = s.hostq k := rfl
@[simp] theorem State.setTile_hostPort (s : State) (t : Site) (v : Tile) (k : Nat) : (s.setTile t v).hostPort k = s.hostPort k := rfl
@[simp] theorem State.setTile_opt (s : State) (t : Site) (v : Tile) (k : Nat) : (s.setTile t v).opt k = s.opt k := rfl
@[simp] theorem State.setTile_facet (s : State) (t : Site) (v : Tile) (k : Nat) : (s.setTile t v).facet k = s.facet k := rfl
@[simp] theorem State.setTile_fieldRt (s : State) (t : Site) (v : Tile) (k : Nat) : (s.setTile t v).fieldRt k = s.fieldRt k := rfl
@[simp] theorem State.setTile_reg (s : State) (t : Site) (v : Tile) (k : Nat) : (s.setTile t v).reg k = s.reg k := rfl
@[simp] theorem State.setTile_fld (s : State) (t : Site) (v : Tile) (k hi lo : Nat) : (s.setTile t v).fld k hi lo = s.fld k hi lo := rfl
@[simp] theorem State.setTile_byte (s : State) (t : Site) (v : Tile) (k : Nat) : (s.setTile t v).byte k = s.byte k := rfl

@[simp] theorem State.setRouter_pending (s : State) (t : Site) (v : Router) : (s.setRouter t v).pending = s.pending := rfl
@[simp] theorem State.setRouter_cycle (s : State) (t : Site) (v : Router) : (s.setRouter t v).cycle = s.cycle := rfl
@[simp] theorem State.setRouter_freeCtr (s : State) (t : Site) (v : Router) : (s.setRouter t v).freeCtr = s.freeCtr := rfl
@[simp] theorem State.setRouter_mem (s : State) (t : Site) (v : Router) : (s.setRouter t v).mem = s.mem := rfl
@[simp] theorem State.setRouter_sreg (s : State) (t : Site) (v : Router) : (s.setRouter t v).sreg = s.sreg := rfl
@[simp] theorem State.setRouter_tiles (s : State) (t : Site) (v : Router) : (s.setRouter t v).tiles = s.tiles := rfl
@[simp] theorem State.setRouter_plots (s : State) (t : Site) (v : Router) : (s.setRouter t v).plots = s.plots := rfl
@[simp] theorem State.setRouter_hostQ (s : State) (t : Site) (v : Router) : (s.setRouter t v).hostQ = s.hostQ := rfl
@[simp] theorem State.setRouter_hostPorts (s : State) (t : Site) (v : Router) : (s.setRouter t v).hostPorts = s.hostPorts := rfl
@[simp] theorem State.setRouter_optPorts (s : State) (t : Site) (v : Router) : (s.setRouter t v).optPorts = s.optPorts := rfl
@[simp] theorem State.setRouter_facets (s : State) (t : Site) (v : Router) : (s.setRouter t v).facets = s.facets := rfl
@[simp] theorem State.setRouter_fields (s : State) (t : Site) (v : Router) : (s.setRouter t v).fields = s.fields := rfl
@[simp] theorem State.setRouter_prism (s : State) (t : Site) (v : Router) : (s.setRouter t v).prism = s.prism := rfl
@[simp] theorem State.setRouter_flash (s : State) (t : Site) (v : Router) : (s.setRouter t v).flash = s.flash := rfl
@[simp] theorem State.setRouter_svc (s : State) (t : Site) (v : Router) : (s.setRouter t v).svc = s.svc := rfl
@[simp] theorem State.setRouter_out (s : State) (t : Site) (v : Router) : (s.setRouter t v).out = s.out := rfl
@[simp] theorem State.setRouter_boot (s : State) (t : Site) (v : Router) : (s.setRouter t v).boot = s.boot := rfl
@[simp] theorem State.setRouter_supply (s : State) (t : Site) (v : Router) : (s.setRouter t v).supply = s.supply := rfl
@[simp] theorem State.setRouter_telem (s : State) (t : Site) (v : Router) : (s.setRouter t v).telem = s.telem := rfl
@[simp] theorem State.setRouter_frozen (s : State) (t : Site) (v : Router) : (s.setRouter t v).frozen = s.frozen := rfl
@[simp] theorem State.setRouter_tile (s : State) (t : Site) (v : Router) (u : Site) : (s.setRouter t v).tile u = s.tile u := rfl
@[simp] theorem State.setRouter_core (s : State) (t : Site) (v : Router) (u : Site) : (s.setRouter t v).core u = s.core u := rfl
@[simp] theorem State.setRouter_ni (s : State) (t : Site) (v : Router) (u : Site) : (s.setRouter t v).ni u = s.ni u := rfl
@[simp] theorem State.setRouter_queue (s : State) (t : Site) (v : Router) (u : Site) (k : Nat) : (s.setRouter t v).queue u k = s.queue u k := rfl
@[simp] theorem State.setRouter_creg (s : State) (t : Site) (v : Router) (u : Site) (k : Nat) : (s.setRouter t v).creg u k = s.creg u k := rfl
@[simp] theorem State.setRouter_plot (s : State) (t : Site) (v : Router) (k : Nat) : (s.setRouter t v).plot k = s.plot k := rfl
@[simp] theorem State.setRouter_hostq (s : State) (t : Site) (v : Router) (k : Nat) : (s.setRouter t v).hostq k = s.hostq k := rfl
@[simp] theorem State.setRouter_hostPort (s : State) (t : Site) (v : Router) (k : Nat) : (s.setRouter t v).hostPort k = s.hostPort k := rfl
@[simp] theorem State.setRouter_opt (s : State) (t : Site) (v : Router) (k : Nat) : (s.setRouter t v).opt k = s.opt k := rfl
@[simp] theorem State.setRouter_facet (s : State) (t : Site) (v : Router) (k : Nat) : (s.setRouter t v).facet k = s.facet k := rfl
@[simp] theorem State.setRouter_fieldRt (s : State) (t : Site) (v : Router) (k : Nat) : (s.setRouter t v).fieldRt k = s.fieldRt k := rfl
@[simp] theorem State.setRouter_reg (s : State) (t : Site) (v : Router) (k : Nat) : (s.setRouter t v).reg k = s.reg k := rfl
@[simp] theorem State.setRouter_fld (s : State) (t : Site) (v : Router) (k hi lo : Nat) : (s.setRouter t v).fld k hi lo = s.fld k hi lo := rfl
@[simp] theorem State.setRouter_byte (s : State) (t : Site) (v : Router) (k : Nat) : (s.setRouter t v).byte k = s.byte k := rfl

@[simp] theorem State.setPlot_pending (s : State) (p : Nat) (v : PlotSt) : (s.setPlot p v).pending = s.pending := rfl
@[simp] theorem State.setPlot_cycle (s : State) (p : Nat) (v : PlotSt) : (s.setPlot p v).cycle = s.cycle := rfl
@[simp] theorem State.setPlot_freeCtr (s : State) (p : Nat) (v : PlotSt) : (s.setPlot p v).freeCtr = s.freeCtr := rfl
@[simp] theorem State.setPlot_mem (s : State) (p : Nat) (v : PlotSt) : (s.setPlot p v).mem = s.mem := rfl
@[simp] theorem State.setPlot_sreg (s : State) (p : Nat) (v : PlotSt) : (s.setPlot p v).sreg = s.sreg := rfl
@[simp] theorem State.setPlot_tiles (s : State) (p : Nat) (v : PlotSt) : (s.setPlot p v).tiles = s.tiles := rfl
@[simp] theorem State.setPlot_routers (s : State) (p : Nat) (v : PlotSt) : (s.setPlot p v).routers = s.routers := rfl
@[simp] theorem State.setPlot_hostQ (s : State) (p : Nat) (v : PlotSt) : (s.setPlot p v).hostQ = s.hostQ := rfl
@[simp] theorem State.setPlot_hostPorts (s : State) (p : Nat) (v : PlotSt) : (s.setPlot p v).hostPorts = s.hostPorts := rfl
@[simp] theorem State.setPlot_optPorts (s : State) (p : Nat) (v : PlotSt) : (s.setPlot p v).optPorts = s.optPorts := rfl
@[simp] theorem State.setPlot_facets (s : State) (p : Nat) (v : PlotSt) : (s.setPlot p v).facets = s.facets := rfl
@[simp] theorem State.setPlot_fields (s : State) (p : Nat) (v : PlotSt) : (s.setPlot p v).fields = s.fields := rfl
@[simp] theorem State.setPlot_prism (s : State) (p : Nat) (v : PlotSt) : (s.setPlot p v).prism = s.prism := rfl
@[simp] theorem State.setPlot_flash (s : State) (p : Nat) (v : PlotSt) : (s.setPlot p v).flash = s.flash := rfl
@[simp] theorem State.setPlot_svc (s : State) (p : Nat) (v : PlotSt) : (s.setPlot p v).svc = s.svc := rfl
@[simp] theorem State.setPlot_out (s : State) (p : Nat) (v : PlotSt) : (s.setPlot p v).out = s.out := rfl
@[simp] theorem State.setPlot_boot (s : State) (p : Nat) (v : PlotSt) : (s.setPlot p v).boot = s.boot := rfl
@[simp] theorem State.setPlot_supply (s : State) (p : Nat) (v : PlotSt) : (s.setPlot p v).supply = s.supply := rfl
@[simp] theorem State.setPlot_telem (s : State) (p : Nat) (v : PlotSt) : (s.setPlot p v).telem = s.telem := rfl
@[simp] theorem State.setPlot_frozen (s : State) (p : Nat) (v : PlotSt) : (s.setPlot p v).frozen = s.frozen := rfl
@[simp] theorem State.setPlot_tile (s : State) (p : Nat) (v : PlotSt) (u : Site) : (s.setPlot p v).tile u = s.tile u := rfl
@[simp] theorem State.setPlot_core (s : State) (p : Nat) (v : PlotSt) (u : Site) : (s.setPlot p v).core u = s.core u := rfl
@[simp] theorem State.setPlot_ni (s : State) (p : Nat) (v : PlotSt) (u : Site) : (s.setPlot p v).ni u = s.ni u := rfl
@[simp] theorem State.setPlot_queue (s : State) (p : Nat) (v : PlotSt) (u : Site) (k : Nat) : (s.setPlot p v).queue u k = s.queue u k := rfl
@[simp] theorem State.setPlot_creg (s : State) (p : Nat) (v : PlotSt) (u : Site) (k : Nat) : (s.setPlot p v).creg u k = s.creg u k := rfl
@[simp] theorem State.setPlot_router (s : State) (p : Nat) (v : PlotSt) (u : Site) : (s.setPlot p v).router u = s.router u := rfl
@[simp] theorem State.setPlot_hostq (s : State) (p : Nat) (v : PlotSt) (k : Nat) : (s.setPlot p v).hostq k = s.hostq k := rfl
@[simp] theorem State.setPlot_hostPort (s : State) (p : Nat) (v : PlotSt) (k : Nat) : (s.setPlot p v).hostPort k = s.hostPort k := rfl
@[simp] theorem State.setPlot_opt (s : State) (p : Nat) (v : PlotSt) (k : Nat) : (s.setPlot p v).opt k = s.opt k := rfl
@[simp] theorem State.setPlot_facet (s : State) (p : Nat) (v : PlotSt) (k : Nat) : (s.setPlot p v).facet k = s.facet k := rfl
@[simp] theorem State.setPlot_fieldRt (s : State) (p : Nat) (v : PlotSt) (k : Nat) : (s.setPlot p v).fieldRt k = s.fieldRt k := rfl
@[simp] theorem State.setPlot_reg (s : State) (p : Nat) (v : PlotSt) (k : Nat) : (s.setPlot p v).reg k = s.reg k := rfl
@[simp] theorem State.setPlot_fld (s : State) (p : Nat) (v : PlotSt) (k hi lo : Nat) : (s.setPlot p v).fld k hi lo = s.fld k hi lo := rfl
@[simp] theorem State.setPlot_byte (s : State) (p : Nat) (v : PlotSt) (k : Nat) : (s.setPlot p v).byte k = s.byte k := rfl

@[simp] theorem State.setHostq_pending (s : State) (q : Nat) (v : HostQueue) : (s.setHostq q v).pending = s.pending := rfl
@[simp] theorem State.setHostq_cycle (s : State) (q : Nat) (v : HostQueue) : (s.setHostq q v).cycle = s.cycle := rfl
@[simp] theorem State.setHostq_freeCtr (s : State) (q : Nat) (v : HostQueue) : (s.setHostq q v).freeCtr = s.freeCtr := rfl
@[simp] theorem State.setHostq_mem (s : State) (q : Nat) (v : HostQueue) : (s.setHostq q v).mem = s.mem := rfl
@[simp] theorem State.setHostq_sreg (s : State) (q : Nat) (v : HostQueue) : (s.setHostq q v).sreg = s.sreg := rfl
@[simp] theorem State.setHostq_tiles (s : State) (q : Nat) (v : HostQueue) : (s.setHostq q v).tiles = s.tiles := rfl
@[simp] theorem State.setHostq_routers (s : State) (q : Nat) (v : HostQueue) : (s.setHostq q v).routers = s.routers := rfl
@[simp] theorem State.setHostq_plots (s : State) (q : Nat) (v : HostQueue) : (s.setHostq q v).plots = s.plots := rfl
@[simp] theorem State.setHostq_hostPorts (s : State) (q : Nat) (v : HostQueue) : (s.setHostq q v).hostPorts = s.hostPorts := rfl
@[simp] theorem State.setHostq_optPorts (s : State) (q : Nat) (v : HostQueue) : (s.setHostq q v).optPorts = s.optPorts := rfl
@[simp] theorem State.setHostq_facets (s : State) (q : Nat) (v : HostQueue) : (s.setHostq q v).facets = s.facets := rfl
@[simp] theorem State.setHostq_fields (s : State) (q : Nat) (v : HostQueue) : (s.setHostq q v).fields = s.fields := rfl
@[simp] theorem State.setHostq_prism (s : State) (q : Nat) (v : HostQueue) : (s.setHostq q v).prism = s.prism := rfl
@[simp] theorem State.setHostq_flash (s : State) (q : Nat) (v : HostQueue) : (s.setHostq q v).flash = s.flash := rfl
@[simp] theorem State.setHostq_svc (s : State) (q : Nat) (v : HostQueue) : (s.setHostq q v).svc = s.svc := rfl
@[simp] theorem State.setHostq_out (s : State) (q : Nat) (v : HostQueue) : (s.setHostq q v).out = s.out := rfl
@[simp] theorem State.setHostq_boot (s : State) (q : Nat) (v : HostQueue) : (s.setHostq q v).boot = s.boot := rfl
@[simp] theorem State.setHostq_supply (s : State) (q : Nat) (v : HostQueue) : (s.setHostq q v).supply = s.supply := rfl
@[simp] theorem State.setHostq_telem (s : State) (q : Nat) (v : HostQueue) : (s.setHostq q v).telem = s.telem := rfl
@[simp] theorem State.setHostq_frozen (s : State) (q : Nat) (v : HostQueue) : (s.setHostq q v).frozen = s.frozen := rfl
@[simp] theorem State.setHostq_tile (s : State) (q : Nat) (v : HostQueue) (u : Site) : (s.setHostq q v).tile u = s.tile u := rfl
@[simp] theorem State.setHostq_core (s : State) (q : Nat) (v : HostQueue) (u : Site) : (s.setHostq q v).core u = s.core u := rfl
@[simp] theorem State.setHostq_ni (s : State) (q : Nat) (v : HostQueue) (u : Site) : (s.setHostq q v).ni u = s.ni u := rfl
@[simp] theorem State.setHostq_queue (s : State) (q : Nat) (v : HostQueue) (u : Site) (k : Nat) : (s.setHostq q v).queue u k = s.queue u k := rfl
@[simp] theorem State.setHostq_creg (s : State) (q : Nat) (v : HostQueue) (u : Site) (k : Nat) : (s.setHostq q v).creg u k = s.creg u k := rfl
@[simp] theorem State.setHostq_router (s : State) (q : Nat) (v : HostQueue) (u : Site) : (s.setHostq q v).router u = s.router u := rfl
@[simp] theorem State.setHostq_plot (s : State) (q : Nat) (v : HostQueue) (k : Nat) : (s.setHostq q v).plot k = s.plot k := rfl
@[simp] theorem State.setHostq_hostPort (s : State) (q : Nat) (v : HostQueue) (k : Nat) : (s.setHostq q v).hostPort k = s.hostPort k := rfl
@[simp] theorem State.setHostq_opt (s : State) (q : Nat) (v : HostQueue) (k : Nat) : (s.setHostq q v).opt k = s.opt k := rfl
@[simp] theorem State.setHostq_facet (s : State) (q : Nat) (v : HostQueue) (k : Nat) : (s.setHostq q v).facet k = s.facet k := rfl
@[simp] theorem State.setHostq_fieldRt (s : State) (q : Nat) (v : HostQueue) (k : Nat) : (s.setHostq q v).fieldRt k = s.fieldRt k := rfl
@[simp] theorem State.setHostq_reg (s : State) (q : Nat) (v : HostQueue) (k : Nat) : (s.setHostq q v).reg k = s.reg k := rfl
@[simp] theorem State.setHostq_fld (s : State) (q : Nat) (v : HostQueue) (k hi lo : Nat) : (s.setHostq q v).fld k hi lo = s.fld k hi lo := rfl
@[simp] theorem State.setHostq_byte (s : State) (q : Nat) (v : HostQueue) (k : Nat) : (s.setHostq q v).byte k = s.byte k := rfl

@[simp] theorem State.onHostPort_pending (s : State) (a : Nat) (f : HostPort → HostPort) : (s.onHostPort a f).pending = s.pending := rfl
@[simp] theorem State.onHostPort_cycle (s : State) (a : Nat) (f : HostPort → HostPort) : (s.onHostPort a f).cycle = s.cycle := rfl
@[simp] theorem State.onHostPort_freeCtr (s : State) (a : Nat) (f : HostPort → HostPort) : (s.onHostPort a f).freeCtr = s.freeCtr := rfl
@[simp] theorem State.onHostPort_mem (s : State) (a : Nat) (f : HostPort → HostPort) : (s.onHostPort a f).mem = s.mem := rfl
@[simp] theorem State.onHostPort_sreg (s : State) (a : Nat) (f : HostPort → HostPort) : (s.onHostPort a f).sreg = s.sreg := rfl
@[simp] theorem State.onHostPort_tiles (s : State) (a : Nat) (f : HostPort → HostPort) : (s.onHostPort a f).tiles = s.tiles := rfl
@[simp] theorem State.onHostPort_routers (s : State) (a : Nat) (f : HostPort → HostPort) : (s.onHostPort a f).routers = s.routers := rfl
@[simp] theorem State.onHostPort_plots (s : State) (a : Nat) (f : HostPort → HostPort) : (s.onHostPort a f).plots = s.plots := rfl
@[simp] theorem State.onHostPort_hostQ (s : State) (a : Nat) (f : HostPort → HostPort) : (s.onHostPort a f).hostQ = s.hostQ := rfl
@[simp] theorem State.onHostPort_optPorts (s : State) (a : Nat) (f : HostPort → HostPort) : (s.onHostPort a f).optPorts = s.optPorts := rfl
@[simp] theorem State.onHostPort_facets (s : State) (a : Nat) (f : HostPort → HostPort) : (s.onHostPort a f).facets = s.facets := rfl
@[simp] theorem State.onHostPort_fields (s : State) (a : Nat) (f : HostPort → HostPort) : (s.onHostPort a f).fields = s.fields := rfl
@[simp] theorem State.onHostPort_prism (s : State) (a : Nat) (f : HostPort → HostPort) : (s.onHostPort a f).prism = s.prism := rfl
@[simp] theorem State.onHostPort_flash (s : State) (a : Nat) (f : HostPort → HostPort) : (s.onHostPort a f).flash = s.flash := rfl
@[simp] theorem State.onHostPort_svc (s : State) (a : Nat) (f : HostPort → HostPort) : (s.onHostPort a f).svc = s.svc := rfl
@[simp] theorem State.onHostPort_out (s : State) (a : Nat) (f : HostPort → HostPort) : (s.onHostPort a f).out = s.out := rfl
@[simp] theorem State.onHostPort_boot (s : State) (a : Nat) (f : HostPort → HostPort) : (s.onHostPort a f).boot = s.boot := rfl
@[simp] theorem State.onHostPort_supply (s : State) (a : Nat) (f : HostPort → HostPort) : (s.onHostPort a f).supply = s.supply := rfl
@[simp] theorem State.onHostPort_telem (s : State) (a : Nat) (f : HostPort → HostPort) : (s.onHostPort a f).telem = s.telem := rfl
@[simp] theorem State.onHostPort_frozen (s : State) (a : Nat) (f : HostPort → HostPort) : (s.onHostPort a f).frozen = s.frozen := rfl
@[simp] theorem State.onHostPort_tile (s : State) (a : Nat) (f : HostPort → HostPort) (u : Site) : (s.onHostPort a f).tile u = s.tile u := rfl
@[simp] theorem State.onHostPort_core (s : State) (a : Nat) (f : HostPort → HostPort) (u : Site) : (s.onHostPort a f).core u = s.core u := rfl
@[simp] theorem State.onHostPort_ni (s : State) (a : Nat) (f : HostPort → HostPort) (u : Site) : (s.onHostPort a f).ni u = s.ni u := rfl
@[simp] theorem State.onHostPort_queue (s : State) (a : Nat) (f : HostPort → HostPort) (u : Site) (k : Nat) : (s.onHostPort a f).queue u k = s.queue u k := rfl
@[simp] theorem State.onHostPort_creg (s : State) (a : Nat) (f : HostPort → HostPort) (u : Site) (k : Nat) : (s.onHostPort a f).creg u k = s.creg u k := rfl
@[simp] theorem State.onHostPort_router (s : State) (a : Nat) (f : HostPort → HostPort) (u : Site) : (s.onHostPort a f).router u = s.router u := rfl
@[simp] theorem State.onHostPort_plot (s : State) (a : Nat) (f : HostPort → HostPort) (k : Nat) : (s.onHostPort a f).plot k = s.plot k := rfl
@[simp] theorem State.onHostPort_hostq (s : State) (a : Nat) (f : HostPort → HostPort) (k : Nat) : (s.onHostPort a f).hostq k = s.hostq k := rfl
@[simp] theorem State.onHostPort_opt (s : State) (a : Nat) (f : HostPort → HostPort) (k : Nat) : (s.onHostPort a f).opt k = s.opt k := rfl
@[simp] theorem State.onHostPort_facet (s : State) (a : Nat) (f : HostPort → HostPort) (k : Nat) : (s.onHostPort a f).facet k = s.facet k := rfl
@[simp] theorem State.onHostPort_fieldRt (s : State) (a : Nat) (f : HostPort → HostPort) (k : Nat) : (s.onHostPort a f).fieldRt k = s.fieldRt k := rfl
@[simp] theorem State.onHostPort_reg (s : State) (a : Nat) (f : HostPort → HostPort) (k : Nat) : (s.onHostPort a f).reg k = s.reg k := rfl
@[simp] theorem State.onHostPort_fld (s : State) (a : Nat) (f : HostPort → HostPort) (k hi lo : Nat) : (s.onHostPort a f).fld k hi lo = s.fld k hi lo := rfl
@[simp] theorem State.onHostPort_byte (s : State) (a : Nat) (f : HostPort → HostPort) (k : Nat) : (s.onHostPort a f).byte k = s.byte k := rfl

@[simp] theorem State.onOpt_pending (s : State) (o : Nat) (f : OptPort → OptPort) : (s.onOpt o f).pending = s.pending := rfl
@[simp] theorem State.onOpt_cycle (s : State) (o : Nat) (f : OptPort → OptPort) : (s.onOpt o f).cycle = s.cycle := rfl
@[simp] theorem State.onOpt_freeCtr (s : State) (o : Nat) (f : OptPort → OptPort) : (s.onOpt o f).freeCtr = s.freeCtr := rfl
@[simp] theorem State.onOpt_mem (s : State) (o : Nat) (f : OptPort → OptPort) : (s.onOpt o f).mem = s.mem := rfl
@[simp] theorem State.onOpt_sreg (s : State) (o : Nat) (f : OptPort → OptPort) : (s.onOpt o f).sreg = s.sreg := rfl
@[simp] theorem State.onOpt_tiles (s : State) (o : Nat) (f : OptPort → OptPort) : (s.onOpt o f).tiles = s.tiles := rfl
@[simp] theorem State.onOpt_routers (s : State) (o : Nat) (f : OptPort → OptPort) : (s.onOpt o f).routers = s.routers := rfl
@[simp] theorem State.onOpt_plots (s : State) (o : Nat) (f : OptPort → OptPort) : (s.onOpt o f).plots = s.plots := rfl
@[simp] theorem State.onOpt_hostQ (s : State) (o : Nat) (f : OptPort → OptPort) : (s.onOpt o f).hostQ = s.hostQ := rfl
@[simp] theorem State.onOpt_hostPorts (s : State) (o : Nat) (f : OptPort → OptPort) : (s.onOpt o f).hostPorts = s.hostPorts := rfl
@[simp] theorem State.onOpt_facets (s : State) (o : Nat) (f : OptPort → OptPort) : (s.onOpt o f).facets = s.facets := rfl
@[simp] theorem State.onOpt_fields (s : State) (o : Nat) (f : OptPort → OptPort) : (s.onOpt o f).fields = s.fields := rfl
@[simp] theorem State.onOpt_prism (s : State) (o : Nat) (f : OptPort → OptPort) : (s.onOpt o f).prism = s.prism := rfl
@[simp] theorem State.onOpt_flash (s : State) (o : Nat) (f : OptPort → OptPort) : (s.onOpt o f).flash = s.flash := rfl
@[simp] theorem State.onOpt_svc (s : State) (o : Nat) (f : OptPort → OptPort) : (s.onOpt o f).svc = s.svc := rfl
@[simp] theorem State.onOpt_out (s : State) (o : Nat) (f : OptPort → OptPort) : (s.onOpt o f).out = s.out := rfl
@[simp] theorem State.onOpt_boot (s : State) (o : Nat) (f : OptPort → OptPort) : (s.onOpt o f).boot = s.boot := rfl
@[simp] theorem State.onOpt_supply (s : State) (o : Nat) (f : OptPort → OptPort) : (s.onOpt o f).supply = s.supply := rfl
@[simp] theorem State.onOpt_telem (s : State) (o : Nat) (f : OptPort → OptPort) : (s.onOpt o f).telem = s.telem := rfl
@[simp] theorem State.onOpt_frozen (s : State) (o : Nat) (f : OptPort → OptPort) : (s.onOpt o f).frozen = s.frozen := rfl
@[simp] theorem State.onOpt_tile (s : State) (o : Nat) (f : OptPort → OptPort) (u : Site) : (s.onOpt o f).tile u = s.tile u := rfl
@[simp] theorem State.onOpt_core (s : State) (o : Nat) (f : OptPort → OptPort) (u : Site) : (s.onOpt o f).core u = s.core u := rfl
@[simp] theorem State.onOpt_ni (s : State) (o : Nat) (f : OptPort → OptPort) (u : Site) : (s.onOpt o f).ni u = s.ni u := rfl
@[simp] theorem State.onOpt_queue (s : State) (o : Nat) (f : OptPort → OptPort) (u : Site) (k : Nat) : (s.onOpt o f).queue u k = s.queue u k := rfl
@[simp] theorem State.onOpt_creg (s : State) (o : Nat) (f : OptPort → OptPort) (u : Site) (k : Nat) : (s.onOpt o f).creg u k = s.creg u k := rfl
@[simp] theorem State.onOpt_router (s : State) (o : Nat) (f : OptPort → OptPort) (u : Site) : (s.onOpt o f).router u = s.router u := rfl
@[simp] theorem State.onOpt_plot (s : State) (o : Nat) (f : OptPort → OptPort) (k : Nat) : (s.onOpt o f).plot k = s.plot k := rfl
@[simp] theorem State.onOpt_hostq (s : State) (o : Nat) (f : OptPort → OptPort) (k : Nat) : (s.onOpt o f).hostq k = s.hostq k := rfl
@[simp] theorem State.onOpt_hostPort (s : State) (o : Nat) (f : OptPort → OptPort) (k : Nat) : (s.onOpt o f).hostPort k = s.hostPort k := rfl
@[simp] theorem State.onOpt_facet (s : State) (o : Nat) (f : OptPort → OptPort) (k : Nat) : (s.onOpt o f).facet k = s.facet k := rfl
@[simp] theorem State.onOpt_fieldRt (s : State) (o : Nat) (f : OptPort → OptPort) (k : Nat) : (s.onOpt o f).fieldRt k = s.fieldRt k := rfl
@[simp] theorem State.onOpt_reg (s : State) (o : Nat) (f : OptPort → OptPort) (k : Nat) : (s.onOpt o f).reg k = s.reg k := rfl
@[simp] theorem State.onOpt_fld (s : State) (o : Nat) (f : OptPort → OptPort) (k hi lo : Nat) : (s.onOpt o f).fld k hi lo = s.fld k hi lo := rfl
@[simp] theorem State.onOpt_byte (s : State) (o : Nat) (f : OptPort → OptPort) (k : Nat) : (s.onOpt o f).byte k = s.byte k := rfl

@[simp] theorem State.onFacet_pending (s : State) (n : Nat) (f : FacetRt → FacetRt) : (s.onFacet n f).pending = s.pending := rfl
@[simp] theorem State.onFacet_cycle (s : State) (n : Nat) (f : FacetRt → FacetRt) : (s.onFacet n f).cycle = s.cycle := rfl
@[simp] theorem State.onFacet_freeCtr (s : State) (n : Nat) (f : FacetRt → FacetRt) : (s.onFacet n f).freeCtr = s.freeCtr := rfl
@[simp] theorem State.onFacet_mem (s : State) (n : Nat) (f : FacetRt → FacetRt) : (s.onFacet n f).mem = s.mem := rfl
@[simp] theorem State.onFacet_sreg (s : State) (n : Nat) (f : FacetRt → FacetRt) : (s.onFacet n f).sreg = s.sreg := rfl
@[simp] theorem State.onFacet_tiles (s : State) (n : Nat) (f : FacetRt → FacetRt) : (s.onFacet n f).tiles = s.tiles := rfl
@[simp] theorem State.onFacet_routers (s : State) (n : Nat) (f : FacetRt → FacetRt) : (s.onFacet n f).routers = s.routers := rfl
@[simp] theorem State.onFacet_plots (s : State) (n : Nat) (f : FacetRt → FacetRt) : (s.onFacet n f).plots = s.plots := rfl
@[simp] theorem State.onFacet_hostQ (s : State) (n : Nat) (f : FacetRt → FacetRt) : (s.onFacet n f).hostQ = s.hostQ := rfl
@[simp] theorem State.onFacet_hostPorts (s : State) (n : Nat) (f : FacetRt → FacetRt) : (s.onFacet n f).hostPorts = s.hostPorts := rfl
@[simp] theorem State.onFacet_optPorts (s : State) (n : Nat) (f : FacetRt → FacetRt) : (s.onFacet n f).optPorts = s.optPorts := rfl
@[simp] theorem State.onFacet_fields (s : State) (n : Nat) (f : FacetRt → FacetRt) : (s.onFacet n f).fields = s.fields := rfl
@[simp] theorem State.onFacet_prism (s : State) (n : Nat) (f : FacetRt → FacetRt) : (s.onFacet n f).prism = s.prism := rfl
@[simp] theorem State.onFacet_flash (s : State) (n : Nat) (f : FacetRt → FacetRt) : (s.onFacet n f).flash = s.flash := rfl
@[simp] theorem State.onFacet_svc (s : State) (n : Nat) (f : FacetRt → FacetRt) : (s.onFacet n f).svc = s.svc := rfl
@[simp] theorem State.onFacet_out (s : State) (n : Nat) (f : FacetRt → FacetRt) : (s.onFacet n f).out = s.out := rfl
@[simp] theorem State.onFacet_boot (s : State) (n : Nat) (f : FacetRt → FacetRt) : (s.onFacet n f).boot = s.boot := rfl
@[simp] theorem State.onFacet_supply (s : State) (n : Nat) (f : FacetRt → FacetRt) : (s.onFacet n f).supply = s.supply := rfl
@[simp] theorem State.onFacet_telem (s : State) (n : Nat) (f : FacetRt → FacetRt) : (s.onFacet n f).telem = s.telem := rfl
@[simp] theorem State.onFacet_frozen (s : State) (n : Nat) (f : FacetRt → FacetRt) : (s.onFacet n f).frozen = s.frozen := rfl
@[simp] theorem State.onFacet_tile (s : State) (n : Nat) (f : FacetRt → FacetRt) (u : Site) : (s.onFacet n f).tile u = s.tile u := rfl
@[simp] theorem State.onFacet_core (s : State) (n : Nat) (f : FacetRt → FacetRt) (u : Site) : (s.onFacet n f).core u = s.core u := rfl
@[simp] theorem State.onFacet_ni (s : State) (n : Nat) (f : FacetRt → FacetRt) (u : Site) : (s.onFacet n f).ni u = s.ni u := rfl
@[simp] theorem State.onFacet_queue (s : State) (n : Nat) (f : FacetRt → FacetRt) (u : Site) (k : Nat) : (s.onFacet n f).queue u k = s.queue u k := rfl
@[simp] theorem State.onFacet_creg (s : State) (n : Nat) (f : FacetRt → FacetRt) (u : Site) (k : Nat) : (s.onFacet n f).creg u k = s.creg u k := rfl
@[simp] theorem State.onFacet_router (s : State) (n : Nat) (f : FacetRt → FacetRt) (u : Site) : (s.onFacet n f).router u = s.router u := rfl
@[simp] theorem State.onFacet_plot (s : State) (n : Nat) (f : FacetRt → FacetRt) (k : Nat) : (s.onFacet n f).plot k = s.plot k := rfl
@[simp] theorem State.onFacet_hostq (s : State) (n : Nat) (f : FacetRt → FacetRt) (k : Nat) : (s.onFacet n f).hostq k = s.hostq k := rfl
@[simp] theorem State.onFacet_hostPort (s : State) (n : Nat) (f : FacetRt → FacetRt) (k : Nat) : (s.onFacet n f).hostPort k = s.hostPort k := rfl
@[simp] theorem State.onFacet_opt (s : State) (n : Nat) (f : FacetRt → FacetRt) (k : Nat) : (s.onFacet n f).opt k = s.opt k := rfl
@[simp] theorem State.onFacet_fieldRt (s : State) (n : Nat) (f : FacetRt → FacetRt) (k : Nat) : (s.onFacet n f).fieldRt k = s.fieldRt k := rfl
@[simp] theorem State.onFacet_reg (s : State) (n : Nat) (f : FacetRt → FacetRt) (k : Nat) : (s.onFacet n f).reg k = s.reg k := rfl
@[simp] theorem State.onFacet_fld (s : State) (n : Nat) (f : FacetRt → FacetRt) (k hi lo : Nat) : (s.onFacet n f).fld k hi lo = s.fld k hi lo := rfl
@[simp] theorem State.onFacet_byte (s : State) (n : Nat) (f : FacetRt → FacetRt) (k : Nat) : (s.onFacet n f).byte k = s.byte k := rfl

@[simp] theorem State.onField_pending (s : State) (n : Nat) (f : FieldRt → FieldRt) : (s.onField n f).pending = s.pending := rfl
@[simp] theorem State.onField_cycle (s : State) (n : Nat) (f : FieldRt → FieldRt) : (s.onField n f).cycle = s.cycle := rfl
@[simp] theorem State.onField_freeCtr (s : State) (n : Nat) (f : FieldRt → FieldRt) : (s.onField n f).freeCtr = s.freeCtr := rfl
@[simp] theorem State.onField_mem (s : State) (n : Nat) (f : FieldRt → FieldRt) : (s.onField n f).mem = s.mem := rfl
@[simp] theorem State.onField_sreg (s : State) (n : Nat) (f : FieldRt → FieldRt) : (s.onField n f).sreg = s.sreg := rfl
@[simp] theorem State.onField_tiles (s : State) (n : Nat) (f : FieldRt → FieldRt) : (s.onField n f).tiles = s.tiles := rfl
@[simp] theorem State.onField_routers (s : State) (n : Nat) (f : FieldRt → FieldRt) : (s.onField n f).routers = s.routers := rfl
@[simp] theorem State.onField_plots (s : State) (n : Nat) (f : FieldRt → FieldRt) : (s.onField n f).plots = s.plots := rfl
@[simp] theorem State.onField_hostQ (s : State) (n : Nat) (f : FieldRt → FieldRt) : (s.onField n f).hostQ = s.hostQ := rfl
@[simp] theorem State.onField_hostPorts (s : State) (n : Nat) (f : FieldRt → FieldRt) : (s.onField n f).hostPorts = s.hostPorts := rfl
@[simp] theorem State.onField_optPorts (s : State) (n : Nat) (f : FieldRt → FieldRt) : (s.onField n f).optPorts = s.optPorts := rfl
@[simp] theorem State.onField_facets (s : State) (n : Nat) (f : FieldRt → FieldRt) : (s.onField n f).facets = s.facets := rfl
@[simp] theorem State.onField_prism (s : State) (n : Nat) (f : FieldRt → FieldRt) : (s.onField n f).prism = s.prism := rfl
@[simp] theorem State.onField_flash (s : State) (n : Nat) (f : FieldRt → FieldRt) : (s.onField n f).flash = s.flash := rfl
@[simp] theorem State.onField_svc (s : State) (n : Nat) (f : FieldRt → FieldRt) : (s.onField n f).svc = s.svc := rfl
@[simp] theorem State.onField_out (s : State) (n : Nat) (f : FieldRt → FieldRt) : (s.onField n f).out = s.out := rfl
@[simp] theorem State.onField_boot (s : State) (n : Nat) (f : FieldRt → FieldRt) : (s.onField n f).boot = s.boot := rfl
@[simp] theorem State.onField_supply (s : State) (n : Nat) (f : FieldRt → FieldRt) : (s.onField n f).supply = s.supply := rfl
@[simp] theorem State.onField_telem (s : State) (n : Nat) (f : FieldRt → FieldRt) : (s.onField n f).telem = s.telem := rfl
@[simp] theorem State.onField_frozen (s : State) (n : Nat) (f : FieldRt → FieldRt) : (s.onField n f).frozen = s.frozen := rfl
@[simp] theorem State.onField_tile (s : State) (n : Nat) (f : FieldRt → FieldRt) (u : Site) : (s.onField n f).tile u = s.tile u := rfl
@[simp] theorem State.onField_core (s : State) (n : Nat) (f : FieldRt → FieldRt) (u : Site) : (s.onField n f).core u = s.core u := rfl
@[simp] theorem State.onField_ni (s : State) (n : Nat) (f : FieldRt → FieldRt) (u : Site) : (s.onField n f).ni u = s.ni u := rfl
@[simp] theorem State.onField_queue (s : State) (n : Nat) (f : FieldRt → FieldRt) (u : Site) (k : Nat) : (s.onField n f).queue u k = s.queue u k := rfl
@[simp] theorem State.onField_creg (s : State) (n : Nat) (f : FieldRt → FieldRt) (u : Site) (k : Nat) : (s.onField n f).creg u k = s.creg u k := rfl
@[simp] theorem State.onField_router (s : State) (n : Nat) (f : FieldRt → FieldRt) (u : Site) : (s.onField n f).router u = s.router u := rfl
@[simp] theorem State.onField_plot (s : State) (n : Nat) (f : FieldRt → FieldRt) (k : Nat) : (s.onField n f).plot k = s.plot k := rfl
@[simp] theorem State.onField_hostq (s : State) (n : Nat) (f : FieldRt → FieldRt) (k : Nat) : (s.onField n f).hostq k = s.hostq k := rfl
@[simp] theorem State.onField_hostPort (s : State) (n : Nat) (f : FieldRt → FieldRt) (k : Nat) : (s.onField n f).hostPort k = s.hostPort k := rfl
@[simp] theorem State.onField_opt (s : State) (n : Nat) (f : FieldRt → FieldRt) (k : Nat) : (s.onField n f).opt k = s.opt k := rfl
@[simp] theorem State.onField_facet (s : State) (n : Nat) (f : FieldRt → FieldRt) (k : Nat) : (s.onField n f).facet k = s.facet k := rfl
@[simp] theorem State.onField_reg (s : State) (n : Nat) (f : FieldRt → FieldRt) (k : Nat) : (s.onField n f).reg k = s.reg k := rfl
@[simp] theorem State.onField_fld (s : State) (n : Nat) (f : FieldRt → FieldRt) (k hi lo : Nat) : (s.onField n f).fld k hi lo = s.fld k hi lo := rfl
@[simp] theorem State.onField_byte (s : State) (n : Nat) (f : FieldRt → FieldRt) (k : Nat) : (s.onField n f).byte k = s.byte k := rfl

@[simp] theorem State.setReg_pending (s : State) (a : Nat) (v : Dword) : (s.setReg a v).pending = s.pending := rfl
@[simp] theorem State.setReg_cycle (s : State) (a : Nat) (v : Dword) : (s.setReg a v).cycle = s.cycle := rfl
@[simp] theorem State.setReg_freeCtr (s : State) (a : Nat) (v : Dword) : (s.setReg a v).freeCtr = s.freeCtr := rfl
@[simp] theorem State.setReg_mem (s : State) (a : Nat) (v : Dword) : (s.setReg a v).mem = s.mem := rfl
@[simp] theorem State.setReg_tiles (s : State) (a : Nat) (v : Dword) : (s.setReg a v).tiles = s.tiles := rfl
@[simp] theorem State.setReg_routers (s : State) (a : Nat) (v : Dword) : (s.setReg a v).routers = s.routers := rfl
@[simp] theorem State.setReg_plots (s : State) (a : Nat) (v : Dword) : (s.setReg a v).plots = s.plots := rfl
@[simp] theorem State.setReg_hostQ (s : State) (a : Nat) (v : Dword) : (s.setReg a v).hostQ = s.hostQ := rfl
@[simp] theorem State.setReg_hostPorts (s : State) (a : Nat) (v : Dword) : (s.setReg a v).hostPorts = s.hostPorts := rfl
@[simp] theorem State.setReg_optPorts (s : State) (a : Nat) (v : Dword) : (s.setReg a v).optPorts = s.optPorts := rfl
@[simp] theorem State.setReg_facets (s : State) (a : Nat) (v : Dword) : (s.setReg a v).facets = s.facets := rfl
@[simp] theorem State.setReg_fields (s : State) (a : Nat) (v : Dword) : (s.setReg a v).fields = s.fields := rfl
@[simp] theorem State.setReg_prism (s : State) (a : Nat) (v : Dword) : (s.setReg a v).prism = s.prism := rfl
@[simp] theorem State.setReg_flash (s : State) (a : Nat) (v : Dword) : (s.setReg a v).flash = s.flash := rfl
@[simp] theorem State.setReg_svc (s : State) (a : Nat) (v : Dword) : (s.setReg a v).svc = s.svc := rfl
@[simp] theorem State.setReg_out (s : State) (a : Nat) (v : Dword) : (s.setReg a v).out = s.out := rfl
@[simp] theorem State.setReg_boot (s : State) (a : Nat) (v : Dword) : (s.setReg a v).boot = s.boot := rfl
@[simp] theorem State.setReg_supply (s : State) (a : Nat) (v : Dword) : (s.setReg a v).supply = s.supply := rfl
@[simp] theorem State.setReg_telem (s : State) (a : Nat) (v : Dword) : (s.setReg a v).telem = s.telem := rfl
@[simp] theorem State.setReg_frozen (s : State) (a : Nat) (v : Dword) : (s.setReg a v).frozen = s.frozen := rfl
@[simp] theorem State.setReg_tile (s : State) (a : Nat) (v : Dword) (u : Site) : (s.setReg a v).tile u = s.tile u := rfl
@[simp] theorem State.setReg_core (s : State) (a : Nat) (v : Dword) (u : Site) : (s.setReg a v).core u = s.core u := rfl
@[simp] theorem State.setReg_ni (s : State) (a : Nat) (v : Dword) (u : Site) : (s.setReg a v).ni u = s.ni u := rfl
@[simp] theorem State.setReg_queue (s : State) (a : Nat) (v : Dword) (u : Site) (k : Nat) : (s.setReg a v).queue u k = s.queue u k := rfl
@[simp] theorem State.setReg_creg (s : State) (a : Nat) (v : Dword) (u : Site) (k : Nat) : (s.setReg a v).creg u k = s.creg u k := rfl
@[simp] theorem State.setReg_router (s : State) (a : Nat) (v : Dword) (u : Site) : (s.setReg a v).router u = s.router u := rfl
@[simp] theorem State.setReg_plot (s : State) (a : Nat) (v : Dword) (k : Nat) : (s.setReg a v).plot k = s.plot k := rfl
@[simp] theorem State.setReg_hostq (s : State) (a : Nat) (v : Dword) (k : Nat) : (s.setReg a v).hostq k = s.hostq k := rfl
@[simp] theorem State.setReg_hostPort (s : State) (a : Nat) (v : Dword) (k : Nat) : (s.setReg a v).hostPort k = s.hostPort k := rfl
@[simp] theorem State.setReg_opt (s : State) (a : Nat) (v : Dword) (k : Nat) : (s.setReg a v).opt k = s.opt k := rfl
@[simp] theorem State.setReg_facet (s : State) (a : Nat) (v : Dword) (k : Nat) : (s.setReg a v).facet k = s.facet k := rfl
@[simp] theorem State.setReg_fieldRt (s : State) (a : Nat) (v : Dword) (k : Nat) : (s.setReg a v).fieldRt k = s.fieldRt k := rfl
@[simp] theorem State.setReg_byte (s : State) (a : Nat) (v : Dword) (k : Nat) : (s.setReg a v).byte k = s.byte k := rfl

@[simp] theorem State.setByte_pending (s : State) (a : Nat) (b : Byte) : (s.setByte a b).pending = s.pending := rfl
@[simp] theorem State.setByte_cycle (s : State) (a : Nat) (b : Byte) : (s.setByte a b).cycle = s.cycle := rfl
@[simp] theorem State.setByte_freeCtr (s : State) (a : Nat) (b : Byte) : (s.setByte a b).freeCtr = s.freeCtr := rfl
@[simp] theorem State.setByte_sreg (s : State) (a : Nat) (b : Byte) : (s.setByte a b).sreg = s.sreg := rfl
@[simp] theorem State.setByte_tiles (s : State) (a : Nat) (b : Byte) : (s.setByte a b).tiles = s.tiles := rfl
@[simp] theorem State.setByte_routers (s : State) (a : Nat) (b : Byte) : (s.setByte a b).routers = s.routers := rfl
@[simp] theorem State.setByte_plots (s : State) (a : Nat) (b : Byte) : (s.setByte a b).plots = s.plots := rfl
@[simp] theorem State.setByte_hostQ (s : State) (a : Nat) (b : Byte) : (s.setByte a b).hostQ = s.hostQ := rfl
@[simp] theorem State.setByte_hostPorts (s : State) (a : Nat) (b : Byte) : (s.setByte a b).hostPorts = s.hostPorts := rfl
@[simp] theorem State.setByte_optPorts (s : State) (a : Nat) (b : Byte) : (s.setByte a b).optPorts = s.optPorts := rfl
@[simp] theorem State.setByte_facets (s : State) (a : Nat) (b : Byte) : (s.setByte a b).facets = s.facets := rfl
@[simp] theorem State.setByte_fields (s : State) (a : Nat) (b : Byte) : (s.setByte a b).fields = s.fields := rfl
@[simp] theorem State.setByte_prism (s : State) (a : Nat) (b : Byte) : (s.setByte a b).prism = s.prism := rfl
@[simp] theorem State.setByte_flash (s : State) (a : Nat) (b : Byte) : (s.setByte a b).flash = s.flash := rfl
@[simp] theorem State.setByte_svc (s : State) (a : Nat) (b : Byte) : (s.setByte a b).svc = s.svc := rfl
@[simp] theorem State.setByte_out (s : State) (a : Nat) (b : Byte) : (s.setByte a b).out = s.out := rfl
@[simp] theorem State.setByte_boot (s : State) (a : Nat) (b : Byte) : (s.setByte a b).boot = s.boot := rfl
@[simp] theorem State.setByte_supply (s : State) (a : Nat) (b : Byte) : (s.setByte a b).supply = s.supply := rfl
@[simp] theorem State.setByte_telem (s : State) (a : Nat) (b : Byte) : (s.setByte a b).telem = s.telem := rfl
@[simp] theorem State.setByte_frozen (s : State) (a : Nat) (b : Byte) : (s.setByte a b).frozen = s.frozen := rfl
@[simp] theorem State.setByte_tile (s : State) (a : Nat) (b : Byte) (u : Site) : (s.setByte a b).tile u = s.tile u := rfl
@[simp] theorem State.setByte_core (s : State) (a : Nat) (b : Byte) (u : Site) : (s.setByte a b).core u = s.core u := rfl
@[simp] theorem State.setByte_ni (s : State) (a : Nat) (b : Byte) (u : Site) : (s.setByte a b).ni u = s.ni u := rfl
@[simp] theorem State.setByte_queue (s : State) (a : Nat) (b : Byte) (u : Site) (k : Nat) : (s.setByte a b).queue u k = s.queue u k := rfl
@[simp] theorem State.setByte_creg (s : State) (a : Nat) (b : Byte) (u : Site) (k : Nat) : (s.setByte a b).creg u k = s.creg u k := rfl
@[simp] theorem State.setByte_router (s : State) (a : Nat) (b : Byte) (u : Site) : (s.setByte a b).router u = s.router u := rfl
@[simp] theorem State.setByte_plot (s : State) (a : Nat) (b : Byte) (k : Nat) : (s.setByte a b).plot k = s.plot k := rfl
@[simp] theorem State.setByte_hostq (s : State) (a : Nat) (b : Byte) (k : Nat) : (s.setByte a b).hostq k = s.hostq k := rfl
@[simp] theorem State.setByte_hostPort (s : State) (a : Nat) (b : Byte) (k : Nat) : (s.setByte a b).hostPort k = s.hostPort k := rfl
@[simp] theorem State.setByte_opt (s : State) (a : Nat) (b : Byte) (k : Nat) : (s.setByte a b).opt k = s.opt k := rfl
@[simp] theorem State.setByte_facet (s : State) (a : Nat) (b : Byte) (k : Nat) : (s.setByte a b).facet k = s.facet k := rfl
@[simp] theorem State.setByte_fieldRt (s : State) (a : Nat) (b : Byte) (k : Nat) : (s.setByte a b).fieldRt k = s.fieldRt k := rfl
@[simp] theorem State.setByte_reg (s : State) (a : Nat) (b : Byte) (k : Nat) : (s.setByte a b).reg k = s.reg k := rfl
@[simp] theorem State.setByte_fld (s : State) (a : Nat) (b : Byte) (k hi lo : Nat) : (s.setByte a b).fld k hi lo = s.fld k hi lo := rfl

@[simp] theorem State.onTelem_pending (s : State) (f : Telem → Telem) : (s.onTelem f).pending = s.pending := rfl
@[simp] theorem State.onTelem_cycle (s : State) (f : Telem → Telem) : (s.onTelem f).cycle = s.cycle := rfl
@[simp] theorem State.onTelem_freeCtr (s : State) (f : Telem → Telem) : (s.onTelem f).freeCtr = s.freeCtr := rfl
@[simp] theorem State.onTelem_mem (s : State) (f : Telem → Telem) : (s.onTelem f).mem = s.mem := rfl
@[simp] theorem State.onTelem_sreg (s : State) (f : Telem → Telem) : (s.onTelem f).sreg = s.sreg := rfl
@[simp] theorem State.onTelem_tiles (s : State) (f : Telem → Telem) : (s.onTelem f).tiles = s.tiles := rfl
@[simp] theorem State.onTelem_routers (s : State) (f : Telem → Telem) : (s.onTelem f).routers = s.routers := rfl
@[simp] theorem State.onTelem_plots (s : State) (f : Telem → Telem) : (s.onTelem f).plots = s.plots := rfl
@[simp] theorem State.onTelem_hostQ (s : State) (f : Telem → Telem) : (s.onTelem f).hostQ = s.hostQ := rfl
@[simp] theorem State.onTelem_hostPorts (s : State) (f : Telem → Telem) : (s.onTelem f).hostPorts = s.hostPorts := rfl
@[simp] theorem State.onTelem_optPorts (s : State) (f : Telem → Telem) : (s.onTelem f).optPorts = s.optPorts := rfl
@[simp] theorem State.onTelem_facets (s : State) (f : Telem → Telem) : (s.onTelem f).facets = s.facets := rfl
@[simp] theorem State.onTelem_fields (s : State) (f : Telem → Telem) : (s.onTelem f).fields = s.fields := rfl
@[simp] theorem State.onTelem_prism (s : State) (f : Telem → Telem) : (s.onTelem f).prism = s.prism := rfl
@[simp] theorem State.onTelem_flash (s : State) (f : Telem → Telem) : (s.onTelem f).flash = s.flash := rfl
@[simp] theorem State.onTelem_svc (s : State) (f : Telem → Telem) : (s.onTelem f).svc = s.svc := rfl
@[simp] theorem State.onTelem_out (s : State) (f : Telem → Telem) : (s.onTelem f).out = s.out := rfl
@[simp] theorem State.onTelem_boot (s : State) (f : Telem → Telem) : (s.onTelem f).boot = s.boot := rfl
@[simp] theorem State.onTelem_supply (s : State) (f : Telem → Telem) : (s.onTelem f).supply = s.supply := rfl
@[simp] theorem State.onTelem_frozen (s : State) (f : Telem → Telem) : (s.onTelem f).frozen = s.frozen := rfl
@[simp] theorem State.onTelem_tile (s : State) (f : Telem → Telem) (u : Site) : (s.onTelem f).tile u = s.tile u := rfl
@[simp] theorem State.onTelem_core (s : State) (f : Telem → Telem) (u : Site) : (s.onTelem f).core u = s.core u := rfl
@[simp] theorem State.onTelem_ni (s : State) (f : Telem → Telem) (u : Site) : (s.onTelem f).ni u = s.ni u := rfl
@[simp] theorem State.onTelem_queue (s : State) (f : Telem → Telem) (u : Site) (k : Nat) : (s.onTelem f).queue u k = s.queue u k := rfl
@[simp] theorem State.onTelem_creg (s : State) (f : Telem → Telem) (u : Site) (k : Nat) : (s.onTelem f).creg u k = s.creg u k := rfl
@[simp] theorem State.onTelem_router (s : State) (f : Telem → Telem) (u : Site) : (s.onTelem f).router u = s.router u := rfl
@[simp] theorem State.onTelem_plot (s : State) (f : Telem → Telem) (k : Nat) : (s.onTelem f).plot k = s.plot k := rfl
@[simp] theorem State.onTelem_hostq (s : State) (f : Telem → Telem) (k : Nat) : (s.onTelem f).hostq k = s.hostq k := rfl
@[simp] theorem State.onTelem_hostPort (s : State) (f : Telem → Telem) (k : Nat) : (s.onTelem f).hostPort k = s.hostPort k := rfl
@[simp] theorem State.onTelem_opt (s : State) (f : Telem → Telem) (k : Nat) : (s.onTelem f).opt k = s.opt k := rfl
@[simp] theorem State.onTelem_facet (s : State) (f : Telem → Telem) (k : Nat) : (s.onTelem f).facet k = s.facet k := rfl
@[simp] theorem State.onTelem_fieldRt (s : State) (f : Telem → Telem) (k : Nat) : (s.onTelem f).fieldRt k = s.fieldRt k := rfl
@[simp] theorem State.onTelem_reg (s : State) (f : Telem → Telem) (k : Nat) : (s.onTelem f).reg k = s.reg k := rfl
@[simp] theorem State.onTelem_fld (s : State) (f : Telem → Telem) (k hi lo : Nat) : (s.onTelem f).fld k hi lo = s.fld k hi lo := rfl
@[simp] theorem State.onTelem_byte (s : State) (f : Telem → Telem) (k : Nat) : (s.onTelem f).byte k = s.byte k := rfl

@[simp] theorem State.atEdge_pending (s : State) (c : Nat) : (s.atEdge c).pending = s.pending := rfl
@[simp] theorem State.atEdge_freeCtr (s : State) (c : Nat) : (s.atEdge c).freeCtr = s.freeCtr := rfl
@[simp] theorem State.atEdge_mem (s : State) (c : Nat) : (s.atEdge c).mem = s.mem := rfl
@[simp] theorem State.atEdge_sreg (s : State) (c : Nat) : (s.atEdge c).sreg = s.sreg := rfl
@[simp] theorem State.atEdge_tiles (s : State) (c : Nat) : (s.atEdge c).tiles = s.tiles := rfl
@[simp] theorem State.atEdge_routers (s : State) (c : Nat) : (s.atEdge c).routers = s.routers := rfl
@[simp] theorem State.atEdge_plots (s : State) (c : Nat) : (s.atEdge c).plots = s.plots := rfl
@[simp] theorem State.atEdge_hostQ (s : State) (c : Nat) : (s.atEdge c).hostQ = s.hostQ := rfl
@[simp] theorem State.atEdge_hostPorts (s : State) (c : Nat) : (s.atEdge c).hostPorts = s.hostPorts := rfl
@[simp] theorem State.atEdge_optPorts (s : State) (c : Nat) : (s.atEdge c).optPorts = s.optPorts := rfl
@[simp] theorem State.atEdge_facets (s : State) (c : Nat) : (s.atEdge c).facets = s.facets := rfl
@[simp] theorem State.atEdge_fields (s : State) (c : Nat) : (s.atEdge c).fields = s.fields := rfl
@[simp] theorem State.atEdge_prism (s : State) (c : Nat) : (s.atEdge c).prism = s.prism := rfl
@[simp] theorem State.atEdge_flash (s : State) (c : Nat) : (s.atEdge c).flash = s.flash := rfl
@[simp] theorem State.atEdge_svc (s : State) (c : Nat) : (s.atEdge c).svc = s.svc := rfl
@[simp] theorem State.atEdge_out (s : State) (c : Nat) : (s.atEdge c).out = s.out := rfl
@[simp] theorem State.atEdge_boot (s : State) (c : Nat) : (s.atEdge c).boot = s.boot := rfl
@[simp] theorem State.atEdge_supply (s : State) (c : Nat) : (s.atEdge c).supply = s.supply := rfl
@[simp] theorem State.atEdge_telem (s : State) (c : Nat) : (s.atEdge c).telem = s.telem := rfl
@[simp] theorem State.atEdge_frozen (s : State) (c : Nat) : (s.atEdge c).frozen = s.frozen := rfl
@[simp] theorem State.atEdge_tile (s : State) (c : Nat) (u : Site) : (s.atEdge c).tile u = s.tile u := rfl
@[simp] theorem State.atEdge_core (s : State) (c : Nat) (u : Site) : (s.atEdge c).core u = s.core u := rfl
@[simp] theorem State.atEdge_ni (s : State) (c : Nat) (u : Site) : (s.atEdge c).ni u = s.ni u := rfl
@[simp] theorem State.atEdge_queue (s : State) (c : Nat) (u : Site) (k : Nat) : (s.atEdge c).queue u k = s.queue u k := rfl
@[simp] theorem State.atEdge_creg (s : State) (c : Nat) (u : Site) (k : Nat) : (s.atEdge c).creg u k = s.creg u k := rfl
@[simp] theorem State.atEdge_router (s : State) (c : Nat) (u : Site) : (s.atEdge c).router u = s.router u := rfl
@[simp] theorem State.atEdge_plot (s : State) (c : Nat) (k : Nat) : (s.atEdge c).plot k = s.plot k := rfl
@[simp] theorem State.atEdge_hostq (s : State) (c : Nat) (k : Nat) : (s.atEdge c).hostq k = s.hostq k := rfl
@[simp] theorem State.atEdge_hostPort (s : State) (c : Nat) (k : Nat) : (s.atEdge c).hostPort k = s.hostPort k := rfl
@[simp] theorem State.atEdge_opt (s : State) (c : Nat) (k : Nat) : (s.atEdge c).opt k = s.opt k := rfl
@[simp] theorem State.atEdge_facet (s : State) (c : Nat) (k : Nat) : (s.atEdge c).facet k = s.facet k := rfl
@[simp] theorem State.atEdge_fieldRt (s : State) (c : Nat) (k : Nat) : (s.atEdge c).fieldRt k = s.fieldRt k := rfl
@[simp] theorem State.atEdge_reg (s : State) (c : Nat) (k : Nat) : (s.atEdge c).reg k = s.reg k := rfl
@[simp] theorem State.atEdge_fld (s : State) (c : Nat) (k hi lo : Nat) : (s.atEdge c).fld k hi lo = s.fld k hi lo := rfl
@[simp] theorem State.atEdge_byte (s : State) (c : Nat) (k : Nat) : (s.atEdge c).byte k = s.byte k := rfl

@[simp] theorem State.report_pending (s : State) (t : Site) (n : SvcNote) : (s.report t n).pending = s.pending := rfl
@[simp] theorem State.report_cycle (s : State) (t : Site) (n : SvcNote) : (s.report t n).cycle = s.cycle := rfl
@[simp] theorem State.report_freeCtr (s : State) (t : Site) (n : SvcNote) : (s.report t n).freeCtr = s.freeCtr := rfl
@[simp] theorem State.report_mem (s : State) (t : Site) (n : SvcNote) : (s.report t n).mem = s.mem := rfl
@[simp] theorem State.report_sreg (s : State) (t : Site) (n : SvcNote) : (s.report t n).sreg = s.sreg := rfl
@[simp] theorem State.report_tiles (s : State) (t : Site) (n : SvcNote) : (s.report t n).tiles = s.tiles := rfl
@[simp] theorem State.report_routers (s : State) (t : Site) (n : SvcNote) : (s.report t n).routers = s.routers := rfl
@[simp] theorem State.report_plots (s : State) (t : Site) (n : SvcNote) : (s.report t n).plots = s.plots := rfl
@[simp] theorem State.report_hostQ (s : State) (t : Site) (n : SvcNote) : (s.report t n).hostQ = s.hostQ := rfl
@[simp] theorem State.report_hostPorts (s : State) (t : Site) (n : SvcNote) : (s.report t n).hostPorts = s.hostPorts := rfl
@[simp] theorem State.report_optPorts (s : State) (t : Site) (n : SvcNote) : (s.report t n).optPorts = s.optPorts := rfl
@[simp] theorem State.report_facets (s : State) (t : Site) (n : SvcNote) : (s.report t n).facets = s.facets := rfl
@[simp] theorem State.report_fields (s : State) (t : Site) (n : SvcNote) : (s.report t n).fields = s.fields := rfl
@[simp] theorem State.report_prism (s : State) (t : Site) (n : SvcNote) : (s.report t n).prism = s.prism := rfl
@[simp] theorem State.report_flash (s : State) (t : Site) (n : SvcNote) : (s.report t n).flash = s.flash := rfl
@[simp] theorem State.report_out (s : State) (t : Site) (n : SvcNote) : (s.report t n).out = s.out := rfl
@[simp] theorem State.report_boot (s : State) (t : Site) (n : SvcNote) : (s.report t n).boot = s.boot := rfl
@[simp] theorem State.report_supply (s : State) (t : Site) (n : SvcNote) : (s.report t n).supply = s.supply := rfl
@[simp] theorem State.report_telem (s : State) (t : Site) (n : SvcNote) : (s.report t n).telem = s.telem := rfl
@[simp] theorem State.report_frozen (s : State) (t : Site) (n : SvcNote) : (s.report t n).frozen = s.frozen := rfl
@[simp] theorem State.report_tile (s : State) (t : Site) (n : SvcNote) (u : Site) : (s.report t n).tile u = s.tile u := rfl
@[simp] theorem State.report_core (s : State) (t : Site) (n : SvcNote) (u : Site) : (s.report t n).core u = s.core u := rfl
@[simp] theorem State.report_ni (s : State) (t : Site) (n : SvcNote) (u : Site) : (s.report t n).ni u = s.ni u := rfl
@[simp] theorem State.report_queue (s : State) (t : Site) (n : SvcNote) (u : Site) (k : Nat) : (s.report t n).queue u k = s.queue u k := rfl
@[simp] theorem State.report_creg (s : State) (t : Site) (n : SvcNote) (u : Site) (k : Nat) : (s.report t n).creg u k = s.creg u k := rfl
@[simp] theorem State.report_router (s : State) (t : Site) (n : SvcNote) (u : Site) : (s.report t n).router u = s.router u := rfl
@[simp] theorem State.report_plot (s : State) (t : Site) (n : SvcNote) (k : Nat) : (s.report t n).plot k = s.plot k := rfl
@[simp] theorem State.report_hostq (s : State) (t : Site) (n : SvcNote) (k : Nat) : (s.report t n).hostq k = s.hostq k := rfl
@[simp] theorem State.report_hostPort (s : State) (t : Site) (n : SvcNote) (k : Nat) : (s.report t n).hostPort k = s.hostPort k := rfl
@[simp] theorem State.report_opt (s : State) (t : Site) (n : SvcNote) (k : Nat) : (s.report t n).opt k = s.opt k := rfl
@[simp] theorem State.report_facet (s : State) (t : Site) (n : SvcNote) (k : Nat) : (s.report t n).facet k = s.facet k := rfl
@[simp] theorem State.report_fieldRt (s : State) (t : Site) (n : SvcNote) (k : Nat) : (s.report t n).fieldRt k = s.fieldRt k := rfl
@[simp] theorem State.report_reg (s : State) (t : Site) (n : SvcNote) (k : Nat) : (s.report t n).reg k = s.reg k := rfl
@[simp] theorem State.report_fld (s : State) (t : Site) (n : SvcNote) (k hi lo : Nat) : (s.report t n).fld k hi lo = s.fld k hi lo := rfl
@[simp] theorem State.report_byte (s : State) (t : Site) (n : SvcNote) (k : Nat) : (s.report t n).byte k = s.byte k := rfl

/-! ### What an update writes -/

@[simp] theorem State.atEdge_cycle (s : State) (c : Nat) : (s.atEdge c).cycle = max s.cycle c := rfl
@[simp] theorem State.report_svc (s : State) (t : Site) (n : SvcNote) : (s.report t n).svc = s.svc ++ [(t, n)] := rfl
@[simp] theorem State.onTelem_telem (s : State) (f : Telem → Telem) : (s.onTelem f).telem = f s.telem := rfl

theorem State.onTile_tile_same {s : State} (h : s.Canonical) (t : Site) (f : Tile → Tile) : (s.onTile t f).tile t = f (s.tile t) :=
  mapGet_set_same _ _ h.tiles

theorem State.onTile_tile_other {s : State} {t u : Site} (h : u.key ≠ t.key) (f : Tile → Tile) : (s.onTile t f).tile u = s.tile u :=
  mapGet_set_other _ h

theorem State.onCore_core_same {s : State} (h : s.Canonical) (t : Site) (f : Core → Core) : (s.onCore t f).core t = f (s.core t) := by
  simp only [State.core, State.onCore, State.onTile_tile_same h]

theorem State.onCore_core_other {s : State} {t u : Site} (h : u.key ≠ t.key) (f : Core → Core) : (s.onCore t f).core u = s.core u := by
  simp only [State.core, State.onCore, State.onTile_tile_other h]

theorem State.onCore_ni {s : State} (h : s.Canonical) (t : Site) (f : Core → Core) : (s.onCore t f).ni t = s.ni t := by
  simp only [State.ni, State.onCore, State.onTile_tile_same h]

theorem State.onNi_ni_same {s : State} (h : s.Canonical) (t : Site) (f : Ni → Ni) : (s.onNi t f).ni t = f (s.ni t) := by
  simp only [State.ni, State.onNi, State.onTile_tile_same h]

theorem State.onNi_ni_other {s : State} {t u : Site} (h : u.key ≠ t.key) (f : Ni → Ni) : (s.onNi t f).ni u = s.ni u := by
  simp only [State.ni, State.onNi, State.onTile_tile_other h]

theorem State.onNi_core {s : State} (h : s.Canonical) (t : Site) (f : Ni → Ni) : (s.onNi t f).core t = s.core t := by
  simp only [State.core, State.onNi, State.onTile_tile_same h]

theorem State.onQueue_queue_same {s : State} (h : s.Canonical) (t : Site) {q : Nat} (hq : q < 8) (f : Queue → Queue) :
    (s.onQueue t q f).queue t q = f (s.queue t q) := by
  simp [State.queue, State.onQueue, State.onTile_tile_same h, Tile.queue, Tile.setQueue, hq]

theorem State.onQueue_queue_other {s : State} (h : s.Canonical) (t : Site) {q r : Nat} (hr : q ≠ r) (f : Queue → Queue) :
    (s.onQueue t q f).queue t r = s.queue t r := by
  by_cases hq : q < 8 <;> by_cases hk : r < 8 <;>
    simp [State.queue, State.onQueue, State.onTile_tile_same h, Tile.queue, Tile.setQueue, hq, hk, hr]

theorem State.onRouter_router_same {s : State} (h : s.Canonical) (t : Site) (f : Router → Router) :
    (s.onRouter t f).router t = f (s.router t) := mapGet_set_same _ _ h.routers

theorem State.onRouter_router_other {s : State} {t u : Site} (h : u.key ≠ t.key) (f : Router → Router) :
    (s.onRouter t f).router u = s.router u := mapGet_set_other _ h

theorem State.onPlot_plot_same {s : State} (h : s.Canonical) (p : Nat) (f : PlotSt → PlotSt) : (s.onPlot p f).plot p = f (s.plot p) :=
  mapGet_set_same _ _ h.plots

theorem State.onPlot_plot_other {s : State} {p r : Nat} (h : r ≠ p) (f : PlotSt → PlotSt) : (s.onPlot p f).plot r = s.plot r :=
  mapGet_set_other _ h

theorem State.onHostq_hostq_same {s : State} (h : s.Canonical) (q : Nat) (f : HostQueue → HostQueue) :
    (s.onHostq q f).hostq q = f (s.hostq q) := mapGet_set_same _ _ h.hostQ

theorem State.onHostq_hostq_other {s : State} {q r : Nat} (h : r ≠ q) (f : HostQueue → HostQueue) :
    (s.onHostq q f).hostq r = s.hostq r := mapGet_set_other _ h

theorem State.onOpt_opt_same {s : State} (h : s.Canonical) (o : Nat) (f : OptPort → OptPort) : (s.onOpt o f).opt o = f (s.opt o) :=
  mapGet_set_same _ _ h.optPorts

theorem State.onOpt_opt_other {s : State} {o r : Nat} (h : r ≠ o) (f : OptPort → OptPort) : (s.onOpt o f).opt r = s.opt r :=
  mapGet_set_other _ h

theorem State.onFacet_facet_same {s : State} (h : s.Canonical) (n : Nat) (f : FacetRt → FacetRt) :
    (s.onFacet n f).facet n = f (s.facet n) := mapGet_set_same _ _ h.facets

theorem State.onField_fieldRt_same {s : State} (h : s.Canonical) (n : Nat) (f : FieldRt → FieldRt) :
    (s.onField n f).fieldRt n = f (s.fieldRt n) := mapGet_set_same _ _ h.fields

theorem State.setReg_reg_same {s : State} (h : s.Canonical) (a : Nat) (v : Dword) : (s.setReg a v).reg a = v :=
  mapGet_set_same _ _ h.sreg

theorem State.setReg_reg_other {s : State} {a b : Nat} (h : b ≠ a) (v : Dword) : (s.setReg a v).reg b = s.reg b :=
  mapGet_set_other _ h

theorem State.setCreg_creg_other {s : State} (h : s.Canonical) {t : Site} {a b : Nat} (hb : b ≠ a) (v : Dword) :
    (s.setCreg t a v).creg t b = s.creg t b := by
  simp only [State.creg, State.setCreg, State.onTile_tile_same h, Tile.creg']
  exact mapGet_set_other _ hb

/-! ### Device memory -/

theorem State.setByte_byte_same {s : State} (h : Memory.wf s.mem) (a : Nat) (b : Byte) : (s.setByte a b).byte a = b :=
  mapGet_set_same _ _ h

theorem State.setByte_byte_other {s : State} {a k : Nat} (h : k ≠ a) (b : Byte) : (s.setByte a b).byte k = s.byte k :=
  mapGet_set_other _ h

theorem State.setByte_wf {s : State} (h : Memory.wf s.mem) (a : Nat) (b : Byte) : Memory.wf (s.setByte a b).mem :=
  mapWf_set a b h

theorem State.setBytes_wf {s : State} (h : Memory.wf s.mem) (a : Nat) (bs : List Byte) : Memory.wf (s.setBytes a bs).mem := by
  induction bs generalizing s a with
  | nil => exact h
  | cons b bs ih => exact ih (s.setByte_wf h a b) (a + 1)

/-- Bytes outside a write read as before. -/
theorem State.setBytes_byte_outside {s : State} {a k : Nat} {bs : List Byte} (h : k < a ∨ a + bs.length ≤ k) :
    (s.setBytes a bs).byte k = s.byte k := by
  induction bs generalizing s a with
  | nil => rfl
  | cons b bs ih =>
    simp only [List.length_cons] at h
    simp only [State.setBytes]
    rw [ih (by omega), State.setByte_byte_other (by omega)]

/-- A byte inside a write reads as written. -/
theorem State.setBytes_byte_inside {s : State} (h : Memory.wf s.mem) {a i : Nat} {bs : List Byte} (hi : i < bs.length) :
    (s.setBytes a bs).byte (a + i) = bs[i] := by
  induction bs generalizing s a i with
  | nil => simp at hi
  | cons b bs ih =>
    simp only [State.setBytes]
    cases i with
    | zero => rw [State.setBytes_byte_outside (by omega), Nat.add_zero, State.setByte_byte_same h]; rfl
    | succ i =>
      have := ih (s.setByte_wf h a b) (a := a + 1) (i := i) (by simpa using hi)
      rw [show a + (i + 1) = a + 1 + i by omega]
      simpa using this

end Sys2Proof.Machine
end

