-- ==== Sys2Proof/Tests/Slice0.lean ====
section
/-!
SUPPORT. Tests of the model on small states, each expected value taken from the spec: what WellFormed refuses, what single commands do,
and for every obligation that has hypotheses a witness: a concrete state and operands that meet them, at the boundary of a range where
a clause has one, with the next state that exec answers there.
-/
namespace Sys2Proof.Tests
open Sys2Proof Sys2Proof.Machine

set_option Elab.async false

/-! ### Helpers -/

/-- The outcome is a next state that satisfies p. -/
def nx (o : Out) (p : State → Bool) : Bool := match o with | .next s => p s | _ => false

/-- The outcome is a next state. -/
def go (o : Out) : Bool := nx o (fun _ => true)

/-- The result is the value, or the error. -/
def okIs {α : Type} [DecidableEq α] (e : Except Nat α) (a : α) : Bool := match e with | .ok b => decide (b = a) | .error _ => false
def errorIs {α : Type} (e : Except Nat α) (n : Nat) : Bool := match e with | .ok _ => false | .error m => decide (m = n)

/-- The outcome is that next state. -/
def eqs (o : Out) (t : State) : Bool := nx o (fun s => decide (s = t))

def canonB (s : State) : Bool :=
  mapWf memDefault s.mem && mapWf flashDefault s.flash && mapWf regReset s.sreg && mapWf (fun _ => Tile.reset) s.tiles &&
    mapWf (fun _ => Router.empty) s.routers && mapWf (fun _ => PlotSt.reset) s.plots && mapWf (fun _ => HostQueue.reset) s.hostQ &&
    mapWf (fun _ => HostPort.reset) s.hostPorts && mapWf (fun _ => OptPort.reset) s.optPorts &&
    mapWf (fun _ => FacetRt.reset) s.facets && mapWf (fun _ => FieldRt.reset) s.fields && mapWf (fun _ => 0) s.prism

theorem canon_iff {s : State} : s.Canonical ↔ canonB s = true := by
  simp only [canonB, Bool.and_eq_true]
  exact ⟨fun h => ⟨⟨⟨⟨⟨⟨⟨⟨⟨⟨⟨h.1, h.2⟩, h.3⟩, h.4⟩, h.5⟩, h.6⟩, h.7⟩, h.8⟩, h.9⟩, h.10⟩, h.11⟩, h.12⟩,
    fun ⟨⟨⟨⟨⟨⟨⟨⟨⟨⟨⟨a, b⟩, c⟩, d⟩, e⟩, f⟩, g⟩, h⟩, i⟩, j⟩, k⟩, l⟩ => ⟨a, b, c, d, e, f, g, h, i, j, k, l⟩⟩

theorem live_iff {s : State} {t : Site} : s.Live t ↔ t.isTile = true ∧ s.frozen = false :=
  ⟨fun h => ⟨h.1, h.2⟩, fun h => ⟨h.1, h.2⟩⟩

theorem liveSite_iff {s : State} {t : Site} : s.LiveSite t ↔ t.onWafer = true ∧ s.frozen = false :=
  ⟨fun h => ⟨h.1, h.2⟩, fun h => ⟨h.1, h.2⟩⟩

def runsB (s : State) (t : Site) (op : Nat) (w : Word) : Bool :=
  t.isTile && !s.frozen && s.atBoundary t && decide ((s.core t).word = some w) && decide (fOp w = op) &&
    (decide ((s.core t).pendQ = []) || (s.core t).trapT)

theorem stands_iff {s : State} {t : Site} {op : Nat} {w : Word} : s.StandsAt t op w ↔ runsB s t op w = true := by
  simp only [runsB, Bool.and_eq_true, Bool.or_eq_true, decide_eq_true_eq, Bool.not_eq_true']
  exact ⟨fun h => ⟨⟨⟨⟨⟨h.1, h.2⟩, h.3⟩, h.4⟩, h.5⟩, h.6⟩, fun ⟨⟨⟨⟨⟨a, b⟩, c⟩, d⟩, e⟩, f⟩ => ⟨a, b, c, d, e, f⟩⟩

theorem runs_iff {s : State} {t : Site} {op : Nat} {w : Word} :
    s.Runs t op w ↔ runsB s t op w = true ∧ (s.core t).pred (fPg w) = true :=
  ⟨fun h => ⟨stands_iff.1 h.1, h.2⟩, fun h => ⟨stands_iff.2 h.1, h.2⟩⟩

theorem picks_of {α : Type} {p : α → Bool} {g : α} : {l rest : List α} → takeFirst p l = some (g, rest) → Picks p l g rest
  | [], _, h => by simp [takeFirst] at h
  | a :: l, rest, h => by
    unfold takeFirst at h
    split at h
    · next hp => cases h; exact ⟨[], l, rfl, rfl, by simp, hp⟩
    · next hp =>
      split at h
      · next b m hm =>
        cases h
        obtain ⟨x, y, rfl, rfl, hx, hg⟩ := picks_of hm
        refine ⟨a :: x, y, rfl, rfl, ?_, hg⟩
        intro z hz
        cases hz with
        | head => simpa using hp
        | tail _ hz => exact hx z hz
      · cases h

theorem serves_iff {s : State} {q op : Nat} {c : HostCmd} : s.Serves q op c ↔
    q < Config.hostQueues ∧ s.command q op = some c ∧ s.refusedCmd q c = none ∧ s.fenceStops q c = false :=
  ⟨fun h => ⟨h.1, h.2, h.3, h.4⟩, fun h => ⟨h.1, h.2.1, h.2.2.1, h.2.2.2⟩⟩

theorem admits_iff {s : State} {e : Ether} {qpn n : Nat} : s.Admits e qpn n ↔
    e.port < 2 ∧ s.linkOn e.port = true ∧ s.takes e = true ∧ qpOf qpn = some n ∧ s.qpReady n = true ∧ s.stage = 8 :=
  ⟨fun h => ⟨h.1, h.2, h.3, h.4, h.5, h.6⟩, fun h => ⟨h.1, h.2.1, h.2.2.1, h.2.2.2.1, h.2.2.2.2.1, h.2.2.2.2.2⟩⟩

/-! ### Small states -/

/-- A compute tile, its neighbours to the east and the south, and a service site. -/
def t0 : Site := ⟨138, 138⟩
def t1 : Site := ⟨139, 138⟩
def t2 : Site := ⟨138, 139⟩
def svc0 : Site := ⟨137, 137⟩

/-- An instruction word of the formats of R116 under p0. -/
def wI (op rd ra imm : Nat) : Word := BitVec.ofNat 32 (op * 2 ^ 26 + rd * 2 ^ 18 + ra * 2 ^ 13 + imm)
def wR (op rd ra rb fn : Nat) : Word := wI op rd ra (rb * 2 ^ 8 + fn)

/-- A running core with one word fetched. -/
def coreAt (w : Word) : Core :=
  { Core.reset with run := .running, fetch := [{ data := BitVec.setWidth 64 w, bad := false }] }

/-- An awake tile t0 whose core is c. -/
def st (c : Core) : State := State.reset.onTile t0 (fun x => { x with power := .active, core := c })

/-- The same at the word w, its core changed by f. -/
def at_ (w : Word) (f : Core → Core) : State := st (f (coreAt w))

/-! ### What WellFormed refuses -/

theorem wellFormed_smoke : ([Instr.alu ⟨320, 0⟩, .nop ⟨0, 0⟩, .grainArrival ⟨0, 320⟩ .north true, .storeScrub t0 12 none,
    .cacheAccess t0 Config.loamLines none false, .loamLineRequest t0 .ld Config.loamLines .clean, .closeGrainSend t0 1024,
    .engineCommandComplete t0 8, .spillReadbackDone t0 Config.tilePorts, .steerMerge t0 Config.steerUnits, .deadlockWindow t0 1024,
    .plotDrained Config.plots, .facetCfgWrite 8 0, .facetFrameSend Config.optPorts,
    .roceSend { port := 2, secure := true, vlan := none, size := 0, plain := true } 0 [],
    .roceSend { port := 0, secure := true, vlan := none, size := 0, plain := true } (2 ^ 24) [], .rdmaWriteAck Config.hostQueues,
    .qpRetryTimeout Config.qps, .vhcpCommandArrival { port := 2, secure := true, vlan := none, size := 0, plain := true } [],
    .place Config.hostQueues, .commitInstant Config.shadowSlots, .pllCoast 0, .fieldShort 64, .clkMuxForce Config.clkMuxes,
    .telemDatagramSend 3, .registerWrite (2 ^ 48) 0, .hostLinkChange 2 true false].map Instr.wellFormed).any id = false ∧
    ([Instr.alu t0, .storeScrub t0 11 none, .engineCommandComplete t0 7, .pllCoast 27, .telemDatagramSend 2].map
      Instr.wellFormed).all id = true := by decide +kernel

/-! ### The queue and reset -/

theorem test_front_command : eqs (step { State.reset with pending := [.cnpReceive, .cnpReceive] })
    { State.reset with pending := [.cnpReceive], cnpRate := 2 ^ 39 } = true := by decide +kernel

theorem test_idle : eqs (step State.reset) { State.reset with cycle := 1 } = true := by decide +kernel

theorem witness_IdleStepCountsACycle : State.reset.pending = [] := rfl

theorem witness_StepKeepsTheStateCanonical : State.reset.Canonical ∧ go (step State.reset) = true := by
  simp only [canon_iff]; decide +kernel

theorem witness_CommandsLeaveTheQueueAlone :
    ({ State.reset with pending := [.cnpReceive] } : State).Canonical ∧
      nx (exec .powerUp { State.reset with pending := [.cnpReceive], supply := { State.reset.supply with aux := false } })
        (fun s => decide (s.pending = [.cnpReceive])) = true := by
  simp only [canon_iff]; decide +kernel

theorem witness_FrozenTilesStand : t0.isTile = true ∧ ({ State.reset with frozen := true } : State).frozen = true ∧
    (match exec (.nop t0) { State.reset with frozen := true } with | .refused .frozen => true | _ => false) = true := by
  decide +kernel

/-! ### The control core -/

theorem witness_CoreRegisterFiles :
    ((coreAt 0).put 31 5).get 31 = 5 ∧ ((coreAt 0).put 0 5).get 0 = 0 ∧ ((coreAt 0).put 1 7).get 31 = 0 ∧
    (({ coreAt 0 with handH := true } : Core).put 24 9).get 24 = 9 ∧ (({ coreAt 0 with handH := true } : Core).put 24 9).regs = (coreAt 0).regs ∧
    ((coreAt 0).setPred 7 true).pred 7 = true ∧ ((coreAt 0).setPred 0 false).pred 0 = true ∧
    ({ coreAt 0 with pc := 0x7FFFC } : Core).advance.pc = 0 := by decide +kernel

/-- A word under p1, which is 0. -/
theorem witness_FalseGuardOnlyAdvancesThePc :
    let w := wI 0x02 5 0 7 ||| 0x00800000
    (at_ w id).StandsAt t0 0x02 w ∧ ((at_ w id).core t0).pred (fPg w) = false ∧
      eqs (exec (.addi t0) (at_ w id)) ((at_ w id).onCore t0 Core.advance) = true := by
  simp only [stands_iff]; decide +kernel

theorem witness_IllegalWordsTrap :
    (let w := wI 0x31 1 0 0
     (at_ w id).atBoundary t0 = true ∧ ((at_ w id).core t0).word = some w ∧ fOp w = 0x31 ∧ fRd w ≠ 0 ∧
       eqs (exec (.close t0) (at_ w id)) ((at_ w id).takeTrap t0 2 w) = true) ∧
    (let w : Word := 0
     (at_ w id).atBoundary t0 = true ∧ ((at_ w id).core t0).word = some w ∧ (∀ r ∈ (coreRows t0).map (fun r => r.2.1), fOp w ≠ r) ∧
       eqs (exec (.illegalInstruction t0) (at_ w id)) ((at_ w id).takeTrap t0 2 w) = true) := by decide +kernel

theorem witness_TrapEntry :
    (let s := st { coreAt 0 with tvec := 0x100, pc := 0x40 }
     (s.core t0).trapT = false ∧ (s.core t0).tvec ≠ 0 ∧ ((s.takeTrap t0 3 9).core t0).pc = 0x100 ∧
       ((s.takeTrap t0 3 9).core t0).epc = 0x40 ∧ ((s.takeTrap t0 3 9).core t0).tval = 9) ∧
    (let s := st (coreAt 0)
     (s.core t0).trapT = false ∧ (s.core t0).tvec = 0 ∧ ((s.takeTrap t0 3 9).core t0).run = .stopped ∧
       ((s.takeTrap t0 3 9).core t0).cause = 3) ∧
    (let s := st { coreAt 0 with trapT := true, tvec := 0x100 }
     (s.core t0).trapT = true ∧ ((s.takeTrap t0 3 9).core t0).run = .stopped ∧ ((s.takeTrap t0 3 9).core t0).cause = 0) := by
  decide +kernel

theorem witness_BreakAndTrapReturn :
    (let w := wI 0x3D 0 0 0x1FFF
     let s := at_ w (fun c => { c with tvec := 0x200 })
     s.Runs t0 0x3D w ∧ fRd w = 0 ∧ fRa w = 0 ∧ nx (exec (.brk t0) s) (fun s' => decide ((s'.core t0).tval = 0x1FFF ∧ (s'.core t0).cause = 10 ∧
       (s'.core t0).pc = 0x200)) = true) ∧
    (let w := wI 0x3E 0 0 0
     let s := at_ w (fun c => { c with trapT := true, epc := 0x1004 })
     s.Runs t0 0x3E w ∧ Word.field w 22 0 = 0 ∧ (s.core t0).trapT = true ∧ nx (exec (.tret t0) s) (fun s' =>
       decide ((s'.core t0).pc = 0x1004 ∧ (s'.core t0).trapT = false)) = true) ∧
    (let w := wI 0x3E 0 0 0
     (at_ w id).Runs t0 0x3E w ∧ ((at_ w id).core t0).trapT = false ∧ eqs (exec (.tret t0) (at_ w id)) ((at_ w id).takeTrap t0 2 w) = true) := by
  simp only [runs_iff]; decide +kernel

/-- What ALU function fn makes of a and b in register 5. -/
def aluOf (fn a b : Nat) : Nat :=
  match exec (.alu t0) (at_ (wR 1 5 6 7 fn) (fun c => (c.put 6 (BitVec.ofNat 32 a)).put 7 (BitVec.ofNat 32 b))) with
  | .next s => ((s.core t0).get 5).toNat
  | _ => 2 ^ 32

theorem test_alu : [aluOf 0 0xFFFFFFFF 2, aluOf 1 1 2, aluOf 7 0x80000000 33, aluOf 9 0x80000000 4, aluOf 0xA 0xFFFFFFFF 4, aluOf 0xB 7 0,
    aluOf 0xD 0x80000000 0xFFFFFFFF, aluOf 0xE 0x80000000 0xFFFFFFFF, aluOf 0xF 0x80000000 1] =
    [1, 0xFFFFFFFF, 0xC0000000, 2, 0xFFFFFFFF, 0xFFFFFFFF, 0x80000000, 0, 0x80000000] := by decide +kernel

theorem witness_AluComputes :
    ((at_ (wR 1 5 6 1 0x13) id).StandsAt t0 1 (wR 1 5 6 1 0x13) ∧ fFn (wR 1 5 6 1 0x13) = 0x13 ∧ fRb (wR 1 5 6 1 0x13) ≠ 0) ∧
    (∀ fn ∈ List.range 19, runsB (at_ (wR 1 5 6 7 fn) id) t0 1 (wR 1 5 6 7 fn) = true ∧ fFn (wR 1 5 6 7 fn) = fn) ∧
    ((at_ (wR 1 5 6 0 0x14) (fun c => c.put 6 0xFF)).Runs t0 1 (wR 1 5 6 0 0x14) ∧ fFn (wR 1 5 6 0 0x14) ≤ 0x14 ∧ fRb (wR 1 5 6 0 0x14) = 0 ∧
      nx (exec (.alu t0) (at_ (wR 1 5 6 0 0x14) (fun c => c.put 6 0xFF))) (fun s => decide ((s.core t0).get 5 = 8)) = true) ∧
    ((at_ (wR 1 5 6 0 0x13) (fun c => c.put 6 0xFF)).Runs t0 1 (wR 1 5 6 0 0x13) ∧
      nx (exec (.alu t0) (at_ (wR 1 5 6 0 0x13) (fun c => c.put 6 0xFF))) (fun s => decide ((s.core t0).get 5 = 24)) = true) := by
  simp only [stands_iff, runs_iff]; decide +kernel

/-- Register 5 after an immediate form with 0xF0F0F0F0 in registers 5 and 6. -/
def immOf (i : Instr) (w : Word) : Nat :=
  match exec i (at_ w (fun c => (c.put 6 0xF0F0F0F0).put 5 0xF0F0F0F0)) with
  | .next s => ((s.core t0).get 5).toNat
  | _ => 2 ^ 32

theorem test_immediates : [immOf (.addi t0) (wI 2 5 6 0x1FFF), immOf (.andi t0) (wI 3 5 6 0x1FFF), immOf (.ori t0) (wI 4 5 6 0x1FFF),
    immOf (.xori t0) (wI 5 5 6 0x1FFF), immOf (.shi t0) (wI 6 5 6 68), immOf (.shi t0) (wI 6 5 6 100),
    immOf (.lil t0) (BitVec.ofNat 32 (8 * 2 ^ 26 + 5 * 2 ^ 18 + 0xFFFF)), immOf (.lih t0) (BitVec.ofNat 32 (9 * 2 ^ 26 + 5 * 2 ^ 18 + 0x1234))] =
    [0xF0F0F0EF, 0x10F0, 0xF0F0FFFF, 0xF0F0EF0F, 0xFF0F0F0F, 0x0F0F0F0F, 0xFFFF, 0x1234F0F0] := by decide +kernel

theorem witness_ImmediateForms :
    (at_ (wI 6 5 6 128) id).StandsAt t0 6 (wI 6 5 6 128) ∧ fImm13 (wI 6 5 6 128) = 128 ∧
    (∀ op ∈ [2, 3, 4, 5], runsB (at_ (wI op 5 6 0x1FFF) id) t0 op (wI op 5 6 0x1FFF) = true) ∧
    (runsB (at_ (wI 6 5 6 127) id) t0 6 (wI 6 5 6 127) = true ∧ fImm13 (wI 6 5 6 127) < 128) ∧
    (runsB (at_ (wI 8 5 0 9) id) t0 8 (wI 8 5 0 9) = true ∧ Word.field (wI 8 5 0 9) 17 16 = 0) ∧
    (runsB (at_ (wI 9 5 0 9) id) t0 9 (wI 9 5 0 9) = true ∧ Word.field (wI 9 5 0 9) 17 16 = 0) ∧
    (at_ (wI 9 5 0 9) id).Runs t0 9 (wI 9 5 0 9) := by
  simp only [stands_iff, runs_iff]; decide +kernel

/-! ### Special registers, loads and stores, branches, predicates -/

theorem witness_SpecialRegisters :
    (∀ fn ∈ List.range 14, runsB (at_ (wR 0x0A 5 0 0 fn) id) t0 0x0A (wR 0x0A 5 0 0 fn) = true ∧
      go (exec (.mfs t0) (at_ (wR 0x0A 5 0 0 fn) id)) = true) ∧
    (∀ fn ∈ [5, 6, 9, 10, 11], runsB (at_ (wR 0x0B 0 6 0 fn) id) t0 0x0B (wR 0x0B 0 6 0 fn) = true ∧
      go (exec (.mts t0) (at_ (wR 0x0B 0 6 0 fn) id)) = true) ∧
    (at_ (wR 0x0A 5 0 0 0) id).Canonical ∧ (at_ (wR 0x0A 5 0 0 0) id).Runs t0 0x0A (wR 0x0A 5 0 0 0) ∧
    nx (exec (.mts t0) (at_ (wR 0x0B 0 6 0 9) (fun c => c.put 6 0x103))) (fun s => decide ((s.core t0).tvec = 0x100)) = true ∧
    nx (exec (.mfs t0) { at_ (wR 0x0A 5 0 0 0) id with cycle := 2 ^ 33 + 5 }) (fun s => decide ((s.core t0).get 5 = 5 ∧
      (s.core t0).cychi = 2)) = true := by
  simp only [canon_iff, runs_iff]; decide +kernel

/-- The last eight bytes of the store of t0 hold 0x88 to 0x8F. -/
def memS (s : State) : State := s.setBytes (storeAddr t0 0x5FFF8) [0x88, 0x89, 0x8A, 0x8B, 0x8C, 0x8D, 0x8E, 0x8F]

/-- What a load of the opcode at an offset delivers, with register 6 at a. -/
def loadOf (i : Instr) (op a imm : Nat) : Nat :=
  match exec i (memS (at_ (wI op 4 6 imm) (fun c => c.put 6 (BitVec.ofNat 32 a)))) with
  | .next s => if (s.core t0).run = .running then ((s.core t0).get 4).toNat else 2 ^ 32 + (s.core t0).cause.toNat
  | _ => 2 ^ 40

theorem test_loads : [loadOf (.lb t0) 0x10 0x60000 0x1FFF, loadOf (.lbu t0) 0x11 0x5FFFF 0, loadOf (.lh t0) 0x12 0x5FFFE 0,
    loadOf (.lhu t0) 0x13 0x5FFFE 0, loadOf (.lw t0) 0x14 0x5FFFC 0, loadOf (.ldd t0) 0x15 0x5FFF8 0, loadOf (.lb t0) 0x10 0x60000 0,
    loadOf (.lw t0) 0x14 0x5FFFD 0, loadOf (.lw t0) 0x14 0x70100 0, loadOf (.lw t0) 0x14 0x80000 0] =
    [0xFFFFFF8F, 0x8F, 0xFFFF8F8E, 0x8F8E, 0x8F8E8D8C, 0x8B8A8988, 2 ^ 32 + 4, 2 ^ 32 + 3, 2 ^ 32 + 5, 2 ^ 32 + 4] := by decide +kernel

theorem witness_LoadsReadTheStore :
    (∀ op ∈ [0x10, 0x11, 0x12, 0x13, 0x14, 0x15], runsB (memS (at_ (wI op 4 6 0) id)) t0 op (wI op 4 6 0) = true ∧ fRd (wI op 4 6 0) % 2 = 0) ∧
    (memS (at_ (wI 0x14 4 6 0) id)).Runs t0 0x14 (wI 0x14 4 6 0) ∧ 0x5FFFC < (memS (at_ 0 id)).storeEnd t0 ∧
    ((memS (at_ 0 id)).onInfo t0 (fun m => { m with poison := [1] })).firstUe t0 8 4 = some 1 ∧
    (at_ 0 id).firstUe t0 8 4 = none ∧ ctrlReg 0x70000 = some (4, 0x70000) ∧ ctrlReg 0x70020 = none ∧ ctrlReg 0x70104 = some (8, 0x70100) := by
  simp only [runs_iff]; decide +kernel

theorem witness_StoresEnterTheBuffer :
    (∀ r ∈ [(Instr.sb t0, 0x18, 0x5FFFF), (.sh t0, 0x19, 0x5FFFE), (.sw t0, 0x1A, 0x5FFFC), (.sdd t0, 0x1B, 0x5FFF8), (.sw t0, 0x1A, 0x71040),
        (.sdd t0, 0x1B, 0x70100), (.sw t0, 0x1A, 0x70020), (.sw t0, 0x1A, 0x70100), (.sw t0, 0x1A, 0x60000), (.sw t0, 0x1A, 2)],
      let w := wI r.2.1 4 6 0
      let s := at_ w (fun c => c.put 6 (BitVec.ofNat 32 r.2.2))
      runsB s t0 r.2.1 w = true ∧ fRd w % 2 = 0 ∧ (s.core t0).stbuf = [] ∧ go (exec r.1 s) = true) ∧
    (at_ (wI 0x1A 4 6 0) id).Runs t0 0x1A (wI 0x1A 4 6 0) := by
  simp only [runs_iff]; decide +kernel

theorem witness_StoreBufferPerforms :
    let e : SbEntry := { addr := 0x5FFF8, mask := 0xC0, data := 0xBBAA000000000000 }
    let s := st { coreAt 0 with stbuf := [e] }
    s.Live t0 ∧ s.Canonical ∧ (s.core t0).stbuf = [e] ∧ (∀ k, k < 8 → e.mask.getLsbD k = decide (6 ≤ k ∧ k < 8)) ∧ 6 + 2 ≤ 8 ∧
      nx (exec (.storeBufferPerform t0) s) (fun s' => decide (s'.byte (storeAddr t0 0x5FFFE) = 0xAA ∧ s'.byte (storeAddr t0 0x5FFFF) = 0xBB ∧
        (s'.core t0).stbuf = [])) = true ∧
      ((s.setCreg t0 aGenCfg 0x701).genOn t0 = true ∧ (s.setCreg t0 aGenCfg 0x701).cfld t0 aGenCfg 11 8 ≠ 0) := by
  simp only [canon_iff, live_iff]; decide +kernel

theorem witness_InstructionFetches :
    (let s := memS (st { coreAt 0 with pc := 0x5FFFC, fetch := [] })
     s.Live t0 ∧ (s.core t0).run = .running ∧ (s.core t0).switch = none ∧ 0x5FFF8 + 8 ≤ s.storeEnd t0 ∧ s.firstUe t0 0x5FFF8 8 = none ∧
       nx (exec (.instructionFetch t0) s) (fun s' => decide ((s'.core t0).word = some 0x8F8E8D8C)) = true) ∧
    (let s := st { coreAt 0 with pc := 0x60000, fetch := [] }
     s.storeEnd t0 < 0x60000 + 8 ∧ eqs (exec (.instructionFetch t0) s) (s.takeTrap t0 1 0x60000) = true) ∧
    (let s := (st { coreAt 0 with pc := 8, fetch := [] }).onInfo t0 (fun m => { m with poison := [1] })
     (s.core t0).fetch = [] ∧ (s.core t0).blocked = none ∧ (s.firstUe t0 8 8).isSome = true ∧ go (exec (.instructionFetch t0) s) = true) ∧
    (let s := st { coreAt 0 with pc := 8, fetch := [{ data := 0, bad := true }] }
     (∀ f ∈ (s.core t0).fetch.head?, f.bad = true) ∧ eqs (exec (.instructionFetch t0) s) (s.takeTrap t0 1 8) = true) := by
  simp only [live_iff]; decide +kernel

theorem witness_BranchesAndJumps :
    (let w : Word := BitVec.ofNat 32 (0x20 * 2 ^ 26 + 0x7FFFFF)
     (at_ w id).Runs t0 0x20 w ∧ nx (exec (.br t0) (at_ w id)) (fun s => decide ((s.core t0).pc = 0x7FFFC)) = true) ∧
    (let w : Word := BitVec.ofNat 32 (0x21 * 2 ^ 26 + 3)
     (at_ w id).Runs t0 0x21 w ∧ nx (exec (.bl t0) (at_ w id)) (fun s => decide ((s.core t0).pc = 12 ∧ (s.core t0).get 31 = 4)) = true) ∧
    (let w := wR 0x22 6 6 0 0
     let s := at_ w (fun c => c.put 6 0x7FFFC)
     s.Runs t0 0x22 w ∧ fRd w = fRa w ∧ nx (exec (.jr t0) s) (fun s => decide ((s.core t0).pc = 0x7FFFC ∧ (s.core t0).get 6 = 4)) = true) ∧
    (let w := wR 0x22 31 6 0 0
     let s := at_ w (fun c => c.put 6 0x7FFFC)
     s.Canonical ∧ s.Runs t0 0x22 w ∧ fRb w = 0 ∧ fFn w = 0 ∧ fRd w ≠ fRa w ∧ (s.core t0).trapT = false ∧ nx (exec (.jr t0) s) (fun s => decide ((s.core t0).pc = 0x7FFFC ∧ (s.core t0).get 31 = 4)) = true ∧
       go (exec (.jr t0) (at_ w (fun c => c.put 6 2))) = true ∧ go (exec (.jr t0) (at_ w (fun c => c.put 6 0x80000))) = true) := by
  simp only [canon_iff, runs_iff]; decide +kernel

/-- PCMP word: condition, pd, pn, ra, rb. -/
def wCmp (cond pd pn ra rb : Nat) : Word :=
  BitVec.ofNat 32 (0x24 * 2 ^ 26 + pd * 2 ^ 20 + pn * 2 ^ 17 + ra * 2 ^ 12 + rb * 2 ^ 7 + cond * 2 ^ 3)

theorem witness_PredicateInstructions :
    (∀ k ∈ List.range 12, let w := wCmp k 1 2 6 7
      let s := at_ w (fun c => (c.put 6 0xFFFFFFFF).put 7 1)
      runsB s t0 0x24 w = true ∧ Word.field w 6 3 = k ∧ Word.field w 2 0 = 0 ∧ Word.field w 22 20 ≠ Word.field w 19 17 ∧
      nx (exec (.pcmp t0) s) (fun s => decide ((s.core t0).pred 1 = [false, true, true, false, false, true, false, true, true, false, true, false].getD k false ∧
        (s.core t0).pred 2 = !(s.core t0).pred 1)) = true) ∧
    (let w := wCmp 0 3 3 6 7
     (at_ w id).Canonical ∧ (at_ w id).Runs t0 0x24 w ∧ Word.field w 22 20 = Word.field w 19 17 ∧ Word.field w 22 20 ≠ 0) ∧
    (let w : Word := BitVec.ofNat 32 (0x25 * 2 ^ 26 + 1 * 2 ^ 20 + 2 * 2 ^ 17 + 6 * 2 ^ 12 + 2 * 2 ^ 8 + 0xFF)
     let s := at_ w (fun c => c.put 6 0xFFFFFFFE)
     s.Runs t0 0x25 w ∧ Word.field w 11 8 ≤ 11 ∧ nx (exec (.pcmpi t0) s) (fun s => (s.core t0).pred 1) = true) ∧
    (let w : Word := BitVec.ofNat 32 (0x26 * 2 ^ 26 + 1 * 2 ^ 20 + 0 * 2 ^ 17 + 2 * 2 ^ 14 + 7 * 2 ^ 10)
     (at_ w id).Runs t0 0x26 w ∧ Word.field w 13 10 ≤ 7 ∧ Word.field w 9 0 = 0 ∧ go (exec (.plog t0) (at_ w id)) = true) ∧
    (let w := wR 0x27 5 0 0 0
     let s := at_ w (fun c => c.setPred 7 true)
     s.Runs t0 0x27 w ∧ fRb w = 0 ∧ fFn w = 0 ∧ fRa w = 0 ∧ nx (exec (.pmov t0) s) (fun s => decide ((s.core t0).get 5 = 0x81)) = true) ∧
    (let w := wR 0x27 0 6 0 1
     let s := at_ w (fun c => c.put 6 0x82)
     s.Runs t0 0x27 w ∧ fFn w = 1 ∧ fRd w = 0 ∧ nx (exec (.pmov t0) s) (fun s => (s.core t0).pred 7 && (s.core t0).pred 1 && !(s.core t0).pred 2) = true) := by
  simp only [canon_iff, runs_iff]; decide +kernel

/-- ISSUE, WAITC, RDCC: rd, ra, queue, V, off9. -/
def wQ (op rd ra q v off : Nat) : Word := wI op rd ra (q * 2 ^ 10 + v * 2 ^ 9 + off)

def entry (n : Nat) : QEntry := { desc := 0, ticket := BitVec.ofNat 32 n }

theorem witness_EngineCommandsAreIssued :
    (let w := wQ 0x28 5 4 7 1 0
     let s := at_ w (fun c => c.put 4 9)
     let full := s.onQueue t0 7 (fun k => { k with entries := (List.range 16).map entry })
     s.Canonical ∧ s.Runs t0 0x28 w ∧ fV w = 1 ∧ fRa w % 4 = 0 ∧ fOff9 w = 0 ∧ (s.core t0).stbuf = [] ∧
       nx (exec (.issue t0) s) (fun s => decide ((s.core t0).get 5 = 1 ∧ (s.queue t0 7).entries.length = 1)) = true ∧
       full.Runs t0 0x28 w ∧ nx (exec (.issue t0) full) (fun s => decide ((s.core t0).blocked = some (.issue 7 9 5)))= true) ∧
    (let w := wQ 0x28 5 6 0 0 0
     let s := at_ w (fun c => c.put 6 0x5FFF0)
     s.Canonical ∧ s.Runs t0 0x28 w ∧ fV w = 0 ∧ s.firstUe t0 0x5FFF0 16 = none ∧ go (exec (.issue t0) s) = true ∧
       go (exec (.issue t0) (at_ w (fun c => c.put 6 8))) = true ∧ go (exec (.issue t0) (at_ w (fun c => c.put 6 0x60000))) = true) ∧
    (let s := st { coreAt 0 with blocked := some (.issue 7 9 5) }
     s.Live t0 ∧ (s.core t0).blocked = some (.issue 7 9 5) ∧ nx (exec (.issueQueueRoom t0) s) (fun s => decide ((s.core t0).get 5 = 1)) = true) ∧
    (let w := wQ 0x2A 5 0 3 0 0
     (at_ w id).Runs t0 0x2A w ∧ fRa w = 0 ∧ fOff9 w = 0 ∧ go (exec (.rdcc t0) (at_ w id)) = true) := by
  simp only [canon_iff, runs_iff, live_iff]; decide +kernel

theorem witness_WaitingInstructions :
    (∀ r ∈ [(Instr.waitc t0, 0x29, wQ 0x29 0 6 7 0 0), (.waitm t0, 0x2B, wR 0x2B 0 0 0 0xFF), (.wfe t0, 0x36, wI 0x36 0 0 0),
        (.fin t0, 0x37, wI 0x37 0 0 0), (.frame t0, 0x39, wI 0x39 0 0 7)],
      runsB (at_ r.2.2 id) t0 r.2.1 r.2.2 = true ∧ go (exec r.1 (at_ r.2.2 id)) = true) ∧
    (at_ (wI 0x36 0 0 0) id).Runs t0 0x36 (wI 0x36 0 0 0) ∧
    (let s := (at_ (wI 0x39 0 0 7) id).setCfld t0 (aNiFrame 7) 63 63 1
     s.Runs t0 0x39 (wI 0x39 0 0 7) ∧ s.cfld t0 (aNiFrame 7) 63 63 = 1 ∧
       nx (exec (.frame t0) s) (fun s => decide ((s.core t0).blocked = some (.frame 7))) = true) ∧
    (let s := st { coreAt 0 with blocked := some (.waitc 7 0xFFFFFFFF) }
     s.Live t0 ∧ (s.core t0).blocked = some (.waitc 7 0xFFFFFFFF) ∧ (BitVec.ofNat 32 (0 + 2 ^ 32 - 0xFFFFFFFF)).toInt ≥ 0 ∧
       go (exec (.waitcRetire t0) s) = true) ∧
    (let s := st { coreAt 0 with blocked := some (.waitm 0xFF) }
     (∀ q, q < 8 → (0xFF).testBit q = true → (s.queue t0 q).ccnt = (s.queue t0 q).icnt) ∧ go (exec (.waitmRetire t0) s) = true) ∧
    (let s := st { coreAt 0 with blocked := some .fin }
     (s.core t0).pendQ = [] ∧ nx (exec (.finStop t0) s) (fun s => decide ((s.core t0).run = .finished)) = true) ∧
    (let s := st { coreAt 0 with blocked := some .wfe, wlimit := 100, tvec := 0x40 }
     Blocked.wfe.op = some 0x36 ∧ (s.core t0).wlimit ≠ 0 ∧ (s.core t0).switch = none ∧ (s.ni t0).sendLeft = none ∧
       nx (exec (.waitTimeout t0) s) (fun s => decide ((s.core t0).tval = 0x36 ∧ (s.core t0).cause = 9 ∧ s.cycle = 100)) = true) ∧
    (let s := st { coreAt 0 with pendQ := [7, 2], tvec := 0x40 }
     2 ∈ (s.core t0).pendQ ∧ (∀ k ∈ (s.core t0).pendQ, 2 ≤ k) ∧ (s.core t0).trapT = false ∧
       nx (exec (.engineFault t0) s) (fun s => decide ((s.core t0).tval = 2 ∧ (s.core t0).cause = 0x80000010 ∧ (s.core t0).pendQ = [7])) = true) := by
  simp only [runs_iff, live_iff]; decide +kernel

theorem witness_QuietInstructions :
    (∀ r ∈ [(Instr.mfence t0, 0x34, wI 0x34 0 0 0), (.nop t0, 0x3F, wI 0x3F 0 0 0), (.heavy t0, 0x3C, wI 0x3C 0 0 0xFFF)],
      runsB (at_ r.2.2 id) t0 r.2.1 r.2.2 = true ∧ go (exec r.1 (at_ r.2.2 id)) = true) ∧
    (let w := wR 0x38 0 6 7 0
     ∀ r ∈ [(0, 0, 0), (2, 0xF01, 4), (3, 9, 8), (4, 1, 16), (0x104, 0, 16)],
       let s := at_ w (fun c => (c.put 6 (BitVec.ofNat 32 r.1)).put 7 (BitVec.ofNat 32 r.2.1))
       runsB s t0 0x38 w = true ∧ fRd w = 0 ∧ fFn w = 0 ∧ nx (exec (.stage t0) s) (fun s => decide ((s.core t0).staged.stat = r.2.2)) = true) ∧
    (let w := wR 0x38 0 6 7 0
     let s := (at_ w (fun c => (c.put 6 1).put 7 7)).setCfld t0 (aNiFrame 7) 63 63 1
     s.Canonical ∧ s.Runs t0 0x38 w ∧ nx (exec (.stage t0) s) (fun s => decide ((s.core t0).staged.stat = 2)) = true) ∧
    (let w := wR 0x38 0 6 7 0
     ∀ r ∈ [(1, 8), (1, 0), (2, 2), (4, 2), (5, 0)],
       let s := at_ w (fun c => (c.put 6 (BitVec.ofNat 32 r.1)).put 7 (BitVec.ofNat 32 r.2))
       eqs (exec (.stage t0) s) (s.takeTrap t0 8 (BitVec.ofNat 32 r.1)) = true) ∧
    (let s := st Core.reset
     s.Live t0 ∧ (s.tile t0).power = .active ∧ (s.core t0).run ≠ .running ∧ (s.tile t0).backfill = none ∧
       nx (exec (.tileIdleEntry t0) s) (fun s => decide ((s.tile t0).power = .idle)) = true) := by
  simp only [canon_iff, runs_iff, live_iff]; decide +kernel

/-! ### The store and the loam column -/

/-- An awake tile whose core is stopped. -/
def tile0 : State := st Core.reset

def upset1 : Upset := { row := 0, word := 1, dbl := false, synd := 3 }

theorem witness_StoreUpkeep :
    (let s := tile0.onInfo t0 (fun m => { m with upsets := [(1, upset1)] })
     s.Canonical ∧ s.Live t0 ∧ s.firstUe t0 0 64 = none ∧ (s.eccRead t0 0 64).2 = false ∧
       ((s.eccRead t0 0 64).1.tile t0).info.upsets = [] ∧ (s.eccRead t0 0 64).1.cfld t0 aEccStat 47 32 = 1 ∧
       nx (exec (.storeScrub t0 0 none) s) (fun s' => decide ((s'.tile t0).info.upsets = [] ∧ (s'.tile t0).info.scrub = [(0, 1)])) = true) ∧
    (let s := tile0.onInfo t0 (fun m => { m with scrub := [(11, 527)] })
     11 < 12 ∧ nx (exec (.storeScrub t0 11 (some { upset1 with dbl := true, row := 511 })) s) (fun s' => decide ((s'.tile t0).info.scrub = [])) = true) ∧
    (let s := { tile0 with svc := [(t0, .sparing 11 511 15)] }
     takeFirst (fun e : Site × SvcNote => isSparing e.2) s.svc = some ((t0, .sparing 11 511 15), []) ∧
       nx (exec .sparingNotice s) (fun s' => decide (s'.repair.rows = [(t0.key, 11, 511, 15)] ∧ s'.flashRepair.rows = s'.repair.rows)) = true ∧
       nx (exec .sparingNotice (s.setFld rPwrSupply 2 2 1)) (fun s' => decide (s'.flashRepair.rows = [])) = true) ∧
    (nx (exec (.tcGenCfgWrite t0 0x701) tile0) (fun s' => decide (s'.genOn t0 = true ∧ (s'.tile t0).info.clearing = true)) = true ∧
      nx (exec (.tcGenCfgWrite t0 0x700) tile0) (fun s' => decide (s'.genOn t0 = false)) = true ∧ tile0.genOn t0 = false) ∧
    (let s := tile0.onInfo t0 (fun m => { m with clearing := true })
     (s.tile t0).info.clearing = true ∧ go (exec (.genTagClearEnd t0) s) = true) ∧
    (let s := ((memS tile0).setCfld t0 aStoreCfg 1 1 1).onTile t0 (fun x => { x with splitTo := some true })
     (s.tile t0).splitTo = some true ∧ s.cfld t0 aStoreCfg 1 1 = 1 ∧ (∀ q ∈ List.range 8, (s.queue t0 q).flight = []) ∧ s.isSplit t0 = false ∧
       nx (exec (.storeSplitSwitch t0) s) (fun s' => decide (s'.byte (storeAddr t0 0x5FFF8) = 0 ∧ s'.isSplit t0 = true)) = true ∧
       go (exec (.splitSwitchEnd t0) (tile0.setCfld t0 aStoreCfg 1 1 1)) = true) := by
  simp only [canon_iff, live_iff]; decide +kernel

/-- A tile in SPLIT whose way 0 of set 511 holds the last line of the column. -/
def split0 : State := (tile0.setCfld t0 aStoreCfg 0 0 1).setTag t0 511 0 { valid := true, dirty := true, tag := 3071 }

/-- LD of one line: OPC, line, store row. -/
def ldDesc (opc line row : Nat) : Desc := BitVec.ofNat 128 (5 * 2 ^ 12 + opc * 2 ^ 8 + row * 2 ^ 32 + line * 2 ^ 45)

def flightOf (q : Nat) (d : Desc) (w : Work) : State → State := fun s =>
  s.onQueue t0 q (fun k => { k with flight := [{ InFlight.start s t0 { desc := d, ticket := 1 } with work := w }] })

/-- A tile whose LD engine is at its one line. -/
def ld0 (opc line row : Nat) : State := flightOf 5 (ldDesc opc line row) (.ld 0) tile0

theorem witness_CacheAndLoam :
    (split0.Canonical ∧ split0.Live t0 ∧ 1572863 < Config.loamLines ∧ split0.isSplit t0 = true ∧ (split0.tile t0).hit 1572863 = some 0 ∧
      split0.firstUe t0 (wayOff 511 0) 64 = none ∧ (split0.tile t0).hit 0 = none ∧ go (exec (.cacheAccess t0 1572863 none false) split0) = true ∧
      go (exec (.cacheAccess t0 1572863 (some [1]) true) split0) = true ∧
      nx (exec (.cacheAccess t0 511 none false) split0) (fun s => decide ((s.tile t0).cache.misses.length = 1)) = true) ∧
    (let s := split0.onCache t0 (fun c => { c with misses := [{ line := 5, store := none, strm := true }], wback := [(7, true, [1, 2])] })
     nx (exec (.cacheFill t0 .clean) s) (fun s => decide ((s.tile t0).cache.misses = [])) = true ∧
       nx (exec (.cacheWriteback t0) s) (fun s => decide (s.byte (loamAddr t0 449) = 2 ∧ (s.tile t0).cache.wback = [] ∧
         (s.tile t0).loam.poison = [7])) = true) ∧
    (let s := (ld0 0 1572863 0x17FF).setByte (loamAddr t0 (64 * 1572863 + 63)) 9
     s.ldNext t0 ≠ none ∧ ldLineAt (ldDesc 0 1572863 0x17FF) 0 = 1572863 ∧ (s.tile t0).loam.lastSrc ≠ .ld ∧ s.isSplit t0 = false ∧
       (s.tile t0).cache.wback = [] ∧ dOpc (ldDesc 0 1572863 0x17FF) = 0 ∧
       nx (exec (.loamLineRequest t0 .ld 1572863 .corrected) s) (fun s' => decide (s'.byte (storeAddr t0 0x5FFFF) = 9)) = true ∧
       nx (exec (.loamLineRequest t0 .ld 1572863 .uncorrectable) s) (fun s' => decide (((s'.flightOf t0 5).bind (fun f => f.fault)).map
         (fun x => (x.cause, x.opnd)) = some (7, 6))) = true) ∧
    (let s := (ld0 1 0 0).setByte (storeAddr t0 63) 9
     dOpc (ldDesc 1 0 0) = 1 ∧ s.firstUe t0 0 64 = none ∧
       nx (exec (.loamLineRequest t0 .ld 0 .clean) s) (fun s' => decide (s'.byte (loamAddr t0 63) = 9)) = true) ∧
    (let g := mkGrain t1 t0 3 5 0 true (.rd (loamAddr t0 64))
     let s := tile0.onNi t0 (fun n => { n with ready := [g] })
     s.remoteNext t0 = some 1 ∧ s.ldNext t0 = none ∧ go (exec (.loamLineRequest t0 .remote 1 .clean) s) = true) ∧
    go (exec (.loamLineRequest t0 .cache 5 .clean) (split0.onCache t0 (fun c => { c with
      misses := [{ line := 5, store := none, strm := true }] }))) = true ∧
    go (exec (.loamRefresh t0) tile0) = true ∧
    (let s := (tile0.setFld rRasScrub 0 0 1).onLoam t0 (fun l => { l with scrub := 1572863 })
     s.Canonical ∧ s.fld rRasScrub 0 0 = 1 ∧ nx (exec (.loamScrub t0 .uncorrectable) s) (fun s' => decide ((s'.tile t0).loam.scrub = 0 ∧
       (s'.tile t0).loam.poison = [1572863])) = true) := by
  simp only [canon_iff, live_iff]; decide +kernel

/-! ### Mesh -/

/-- A DATA grain from t0 to t1 on connection 5. -/
def dataG : Grain := mkGrain t0 t1 0 5 0 true (.data [1])

/-- The grain stands at the west input of t1's router (the east output of t0's has it on the wire). -/
def onWire (g : Grain) : State := State.reset.onRouter t0 (fun x => x.setOutp .east { x.outp .east with wire := [g] })

def buffered (g : Grain) (out : Port) (due : Bool) : State :=
  State.reset.onRouter t0 (fun x => x.setInp .loc ((x.inp .loc).setBuf (vcOf g) [{ grain := g, out := out, dueEsc := due }]))

theorem witness_LinksCarryGrains :
    (let s := onWire dataG
     s.Canonical ∧ s.LiveSite t1 ∧ t1.next .west = some t0 ∧ t1 ≠ t0 ∧ ((s.router t0).outp .east).wire = [dataG] ∧
       ((s.router t1).inp .west).discarding = false ∧
       nx (exec (.grainArrival t1 .west true) s) (fun s' => decide (((s'.router t1).inp .west).dat.length = 1)) = true ∧
       nx (exec (.grainArrival t1 .west false) s) (fun s' => decide (((s'.router t1).inp .west).discarding = true ∧
         s'.fld rMeshErrCnt 63 32 = 1 ∧ ((s'.router t0).outp .east).resend = [dataG])) = true) ∧
    (let s := (onWire dataG).onRouter t1 (fun x => x.setInp .west { x.inp .west with discarding := true })
     ((s.router t1).inp .west).discarding = true ∧ ((s.router t0).outp .east).failed = false ∧ s.LiveSite t0 ∧ t0.next .east = some t1 ∧
       go (exec (.grainArrival t1 .west true) s) = true ∧
       nx (exec (.replayRequest t0 .east) s) (fun s' => decide (((s'.router t1).inp .west).discarding = false)) = true) ∧
    (let s := State.reset.onRouter t0 (fun x => x.setOutp .east { x.outp .east with credits := [.req, .dat], cdat := 8 })
     takeFirst (fun x => decide (x = VC.dat)) ((s.router t0).outp .east).credits = some (.dat, [.req]) ∧
       nx (exec (.linkCreditArrival t0 .east .dat) s) (fun s' => decide (((s'.router t0).outp .east).cdat = 8)) = true) ∧
    (let s := tile0.niSend t0 dataG
     (s.ni t0).outbox = [dataG] ∧ (((s.router t0).inp .loc).buf (vcOf (stickyGrain (s.ni t0) dataG))).length < 8 ∧
       nx (exec (.grainArrival t0 .loc true) s) (fun s' => decide ((s'.ni t0).outbox = [] ∧ ((s'.router t0).inp .loc).dat.length = 1)) = true) := by
  simp only [canon_iff, liveSite_iff]; decide +kernel

theorem witness_AcceptedGrainsAreRouted :
    State.reset.headerFault dataG = none ∧ State.reset.headerFault { dataG with dx := 320 } = some 1 ∧
    State.reset.headerFault { dataG with dx := 0x1FF, dy := 255 } = none ∧ State.reset.headerFault { dataG with dx := 0x1FF, dy := 256 } = some 1 ∧
    State.reset.headerFault { dataG with dx := 0, dy := 0 } = some 2 ∧ dataG.dx ≠ 0x1FF ∧
    State.reset.fencedOff t0 .loc dataG = false ∧ grainDst dataG ≠ t0 ∧ onEsc dataG = false ∧ State.reset.route t0 t1 = .port .east ∧
    grainDst dataG = t1 ∧ State.reset.tables.clean = true ∧ State.reset.failedLinks = [] ∧ t0.field = t1.field ∧
    State.reset.route t1 t0 = .port .west ∧ State.reset.route t0 t2 = .port .south ∧ State.reset.route t0 t0 = .port .loc := by
  decide +kernel

theorem witness_OutputPortsSend :
    let s := buffered dataG .east false
    s.LiveSite t0 ∧ s.choose t0 .east = some (.dat, .loc) ∧ (s.head t0 .loc .dat).map (fun b => b.grain) = some dataG ∧
      s.ready t0 .east .esc = none ∧ ((s.router t0).outp .east).turn = 0 ∧ s.ready t0 .east .rpl = none ∧
      nx (exec (.outputPortSend t0 .east) s) (fun s' => decide (((s'.router t0).outp .east).wire = [dataG] ∧
        ((s'.router t0).outp .east).cdat = 7)) = true := by
  simp only [liveSite_iff]; decide +kernel

def prismG : Grain := { dataG with dx := 0x1FF, dy := 255 }

/-- A plot of one row of two tiles, t0 and t1. -/
def plotted (s : State) : State := s.setReg (rPlotRect 0) (BitVec.ofNat 64 (2 ^ 63 + 138 + 138 * 2 ^ 9 + 139 * 2 ^ 18 + 138 * 2 ^ 27))

theorem witness_EscapesFailuresAndPrism :
    (let s := (buffered dataG .east false).onRouter t0 (fun x => x.setOutp .east { x.outp .east with cdat := 0 })
     s.LiveSite t0 ∧ (s.head t0 .loc .dat).isSome = true ∧ s.hasCredit t0 .east .dat = false ∧
       nx (exec (.meshEscWait t0 .loc .dat) s) (fun s' => decide ((s'.head t0 .loc .dat).map (fun b => b.dueEsc) = some true)) = true) ∧
    (let s := plotted (buffered prismG .loc false)
     (s.prismEntry t0 255).testBit 7 = false ∧ go (exec (.prismForward t0 .loc) s) = true) ∧
    (let s := { plotted (buffered prismG .loc false) with prism := [(t0.key * 256 + 255, 0x92)] }
     (s.prismEntry t0 255).testBit 7 = true ∧ s.plotOf t0 = some 0 ∧ s.plotOf (grainSrc prismG) = s.plotOf t0 ∧
       ((markedPorts (s.prismEntry t0 255)).filter (fun q => !s.portLost t0 q)).all (fun q => s.hasCredit t0 q .dat) = true ∧
       ((markedPorts (s.prismEntry t0 255)).filter (fun q => !s.portLost t0 q)).length = (markedPorts (s.prismEntry t0 255)).length ∧
       nx (exec (.prismForward t0 .loc) s) (fun s' => decide ((s'.ni t0).inbox = [prismG] ∧ ((s'.router t0).outp .east).wire = [prismG])) = true) ∧
    (let s := State.reset.onRouter t0 (fun x => x.setInp .east { x.inp .east with fails := 16 })
     t0.next .east = some t1 ∧ s.linkDown t0 .east = false ∧ 16 ≤ ((s.router t0).inp .east).fails ∧
       nx (exec (.linkFailed t0 .east) s) (fun s' => s'.linkDown t0 .east && s'.linkDown t1 .west && s'.tablesDue) = true) ∧
    (let a : Site := ⟨119, 138⟩
     let s := State.reset.setFld (rPwrField 27) 27 26 2
     a.next .east = some ⟨120, 138⟩ ∧ (⟨120, 138⟩ : Site).field = 27 ∧ a.field ≠ 27 ∧ s.fieldState 27 = 2 ∧ s.fieldState a.field ≠ 2 ∧
       go (exec (.forwardedClockStop a .east) s) = true) := by
  simp only [liveSite_iff]; decide +kernel

/-- Whichever output the escape tree gives, a grain that is due moves there. -/
theorem witness_EscapesFailuresAndPrism_escape : let s := buffered dataG .east true
    s.edgeHolds t0 .loc dataG = false ∧ (s.head t0 .loc .dat).map (fun b => b.dueEsc) = some true ∧
      allPorts.all (fun out => s.hasCredit t0 out .esc && !s.linkDown t0 out) = true ∧ kindSequenced dataG.kind.toNat = true := by
  decide +kernel

/-! ### The network interface -/

/-- One grain at the local port of t0, and one delivered to its NI. -/
def inb (g : Grain) (s : State) : State := s.withInbox t0 [g]
def rdy (l : List Grain) (s : State) : State := s.withReady t0 l

/-- A plot of t0 and t1 whose core stands at w. -/
def plotAt (w : Word) (f : Core → Core) : State := plotted (at_ w f)

/-- A port of kind k: IGR, SLOTS, BASE and SPQ as they stand in the register. -/
def portCfg (k igr slots base spq : Nat) : Dword := BitVec.ofNat 64 (k * 2 ^ 62 + igr * 2 ^ 39 + slots * 2 ^ 27 + base * 2 ^ 13 + spq * 2 ^ 5)

def openO (tag : Nat) : OpenReq :=
  { tag := tag, conn := 1, vx := 1, vy := 0, port := 63, dst := t1, tries := 1, entry := none, stale := false }

theorem witness_ConnectionsOpen :
    (let w := wI 0x30 5 6 63
     let s := plotAt w (fun c => c.put 6 1)
     s.Canonical ∧ s.Runs t0 0x30 w ∧ fImm13 w < 64 ∧ okIs (s.openTarget t0 0 1 0) t1 = true ∧ lowestFree (s.ni t0).inUse 1 = some 1 ∧
       nx (exec (.openConn t0) s) (fun s' => decide ((s'.core t0).blocked = some (.openConn 0 5) ∧ (s'.ni t0).opens = [{ openO 0 with vx := 1 }] ∧
         (s'.ni t0).outbox = [mkGrain t0 t1 6 1 0 true (.openReq 63 1 0 0)])) = true ∧
       errorIs ((plotAt w (fun c => c.put 6 2)).openTarget t0 0 2 0) 4 = true ∧
       nx (exec (.openConn t0) (plotAt w (fun c => c.put 6 2))) (fun s' => decide ((s'.core t0).get 5 = 0x80000004)) = true) ∧
    (let g := mkGrain t1 t0 6 9 0 true (.openReq 63 0 0 7)
     let s := inb g (tile0.setCreg t0 (aNiPort 63) (portCfg 1 0 3 0 0))
     s.Live t0 ∧ takeFirst (ofKind 6) (s.ni t0).inbox = some (g, []) ∧ (s.withInbox t0 []).openAnswer t0 g 63 7 = .accept 1 1 4 0 0 ∧
       nx (exec (.openRequest t0) s) (fun s' => decide ((s'.portRt t0 63).bound = some 9 ∧ (s'.ni t0).rx = [newRx 9 t1 63])) = true ∧
       (inb g tile0).portBad t0 63 = true ∧ ((inb g tile0).withInbox t0 []).openAnswer t0 g 63 7 = .refuse 1) ∧
    (let g := mkGrain t1 t0 7 1 0 true (.openR 3 (.accept 1 1 4 0 0))
     let s := inb g ((st { coreAt 0 with blocked := some (.openConn 3 5) }).onNi t0 (fun n => { n with opens := [openO 3] }))
     takeFirst (ofKind 7) (s.ni t0).inbox = some (g, []) ∧ (s.ni t0).opens.find? (fun o => decide (o.tag = 3)) = some (openO 3) ∧
       (openO 3).stale = false ∧ (openO 3).entry = none ∧ (s.core t0).blocked = some (.openConn 3 5) ∧
       nx (exec (.openrReceive t0) s) (fun s' => decide ((s'.core t0).get 5 = 1 ∧ ((s'.ni t0).tx.map (fun x => (x.conn, x.items))) = [(1, 4)])) = true ∧
       nx (exec (.openrReceive t0) (inb { g with body := .openR 3 (.refuse 2) } s)) (fun s' => decide ((s'.core t0).get 5 = 0x80000002)) = true ∧
       go (exec (.openrReceive t0) (inb { g with body := .openR 4 (.refuse 2) } s)) = true) := by
  simp only [canon_iff, live_iff, runs_iff]; decide +kernel

/-- A sending end on connection 5 with credit. -/
def tx5 : TxConn := { newTx 5 t1 with items := 4, igr := 1, kind := 1 }
def withTx (x : TxConn) (s : State) : State := s.onNi t0 (fun n => { n with tx := [x] })

/-- A receiving end: connection 5 of t1 at port 63. -/
def withRx (r : RxConn) (s : State) : State := (s.onNi t0 (fun n => { n with rx := [r] })).onPort t0 63 (fun p => { p with bound := some 5 })

theorem witness_ConnectionsClose :
    (let w := wI 0x31 0 6 0
     let s := withTx tx5 (at_ w (fun c => c.put 6 5))
     s.Canonical ∧ s.Runs t0 0x31 w ∧ fRd w = 0 ∧ fRb w = 0 ∧ fFn w = 0 ∧
       nx (exec (.close t0) s) (fun s' => decide ((s'.ni t0).tx = [{ tx5 with closed := true }])) = true) ∧
    (let x := { tx5 with closed := true }
     let s := withTx x tile0
     s.Live t0 ∧ (s.ni t0).tx.find? (isConn 5) = some x ∧ x.closed = true ∧ x.unacked = 0 ∧ x.q = [] ∧
       nx (exec (.closeGrainSend t0 5) s) (fun s' => decide ((s'.ni t0).tx = [] ∧ (s'.ni t0).outbox = [mkGrain t0 t1 8 5 0 true .close])) = true) ∧
    (let g := mkGrain t1 t0 8 5 0 true .close
     let s := inb g (withRx (newRx 5 t1 63) tile0)
     takeFirst (ofKind 8) (s.ni t0).inbox = some (g, []) ∧ (s.ni t0).rx.find? (rxFor g) = some (newRx 5 t1 63) ∧
       ((s.withInbox t0 []).ni t0).rxOf 63 = some (newRx 5 t1 63) ∧ ((s.withInbox t0 []).ni t0).allReleased (newRx 5 t1 63) = true ∧
       nx (exec (.closeGrainReceive t0) s) (fun s' => decide ((s'.ni t0).rx = [] ∧ (s'.portRt t0 63).bound = none)) = true ∧
       (let s := inb g ((withRx (newRx 5 t1 63) tile0).onPort t0 63 (fun p => { p with came := 1, arrived := 1 }))
        ((s.withInbox t0 []).ni t0).allReleased (newRx 5 t1 63) = false ∧
          nx (exec (.closeGrainReceive t0) s) (fun s' => decide ((s'.ni t0).rx = [{ newRx 5 t1 63 with closing := true }])) = true) ∧
       go (exec (.closeGrainReceive t0) (inb g tile0)) = true) := by
  simp only [canon_iff, live_iff, runs_iff]; decide +kernel

theorem witness_WindowAndReorder :
    (let g := mkGrain t1 t0 11 5 0 true .escn
     let s := inb g (withTx { tx5 with unacked := 1 } tile0)
     s.LiveSite t0 ∧ takeFirst (fun h => ofKind 11 h && !relayed t0 h) (s.ni t0).inbox = some (g, []) ∧
       nx (exec (.escnReceive t0) s) (fun s' => decide ((s'.ni t0).tx.map (fun x => x.sticky) = [true])) = true) ∧
    (let g := mkGrain t1 t0 9 5 31 true .ack
     let s := inb g (withTx { tx5 with unacked := 32, nextSeq := 31, sticky := true } tile0)
     takeFirst (fun h => ofKind 9 h && !relayed t0 h) (s.ni t0).inbox = some (g, []) ∧ g.seq.toNat = (31 + 64 - 32 + 32) % 32 ∧
       nx (exec (.ackReceive t0) s) (fun s' => decide ((s'.ni t0).tx.map (fun x => (x.unacked, x.sticky)) = [(0, false)])) = true) ∧
    (let g := mkGrain t1 t0 0 5 31 true (.data [])
     let s := inb g (withRx { newRx 5 t1 63 with nextSeq := 31 } (tile0.setCreg t0 (aNiPort 63) (portCfg 1 0 3 0 0)))
     takeFirst (fun h => kindSequenced h.kind.toNat && !isPrism h && !relayed t0 h) (s.ni t0).inbox = some (g, []) ∧ s.Canonical ∧
       (s.ni t0).rx.find? (rxFor g) = some { newRx 5 t1 63 with nextSeq := 31 } ∧ s.kindMatches t0 (newRx 5 t1 63) g = true ∧
       nx (exec (.grainAccept t0) s) (fun s' => decide ((s'.ni t0).ready = [g] ∧ (s'.ni t0).rx.map (fun r => r.nextSeq) = [0])) = true ∧
       nx (exec (.grainAccept t0) (inb { g with seq := 30 } s)) (fun s' => decide ((s'.ni t0).ready = [] ∧
         (s'.ni t0).rx.map (fun r => r.held.length) = [1])) = true ∧
       go (exec (.grainAccept t0) (inb { g with conn := 6 } s)) = true) ∧
    (let g := mkGrain t1 t0 10 5 0 true (.streamCred 3)
     let s := inb g (withTx tx5 tile0)
     t0.isTile = true ∧ (takeFirst (fun h => ofKind 10 h && (match h.body with | .streamCred _ => true | _ => false)) (s.ni t0).inbox).isSome = true ∧
       nx (exec (.streamCredit t0) s) (fun s' => decide ((s'.ni t0).tx.map (fun x => x.items) = [7])) = true) ∧
    (let g := mkGrain t1 t0 10 5 0 true (.ringCred 32 1)
     let s := inb g (withTx tx5 tile0)
     nx (exec (.ringCredit t0) s) (fun s' => decide ((s'.ni t0).tx.map (fun x => (x.bytes, x.recs)) = [(32, 1)])) = true) ∧
    (let x := { tx5 with unacked := 31, nextSeq := 31, q := [(0, false, .data []), (0, true, .data [])] }
     (pumpConn t0 x).1.unacked = 32 ∧ (pumpConn t0 x).1.nextSeq = 0 ∧ (pumpConn t0 x).1.q.length = 1 ∧
       (pumpConn t0 x).2.map (fun g => g.seq.toNat) = [31]) := by
  simp only [canon_iff, liveSite_iff]; decide +kernel

/-- 32 bytes. -/
def b32 : List Byte := (List.range 32).map (fun i => BitVec.ofNat 8 (i + 1))

/-- A PUT (OPC 2) or a GET (OPC 3) of two lines. -/
def rmDesc (opc : Nat) : Desc := BitVec.ofNat 128 (6 * 2 ^ 12 + opc * 2 ^ 8 + 1 * 2 ^ 45 + 1 * 2 ^ 58)

theorem witness_RemoteAccesses :
    (let g := mkGrain t1 t0 2 960 0 true (.wr (storeAddr t0 0x5FFE0) b32)
     let s := rdy [g] tile0
     s.Canonical ∧ s.LiveSite t0 ∧ takeFirst (fun h : Grain => decide (h.kind.toNat = 2)) (s.ni t0).ready = some (g, []) ∧ b32.length = 32 ∧
       okIs ((s.withReady t0 []).window t0 (storeAddr t0 0x5FFE0) 32) (.store 0x5FFE0) = true ∧
       nx (exec (.remoteWrite t0) s) (fun s' => decide (s'.byte (storeAddr t0 0x5FFFF) = 32 ∧ (s'.ni t0).outbox.length = 1)) = true ∧
       errorIs (s.window t0 (storeAddr t0 0x5FFE1) 32) 3 = true ∧ errorIs (s.window t0 (storeAddr t0 0x70000) 32) 4 = true ∧
       okIs (s.window t0 (loamAddr t0 0) 32) (.loam 0) = true ∧
       go (exec (.remoteWrite t0) (rdy [{ g with body := .wr (storeAddr t0 0x70000) b32 }] tile0)) = true ∧
       nx (exec (.remoteWrite t0) (rdy [{ g with body := .wr (loamAddr t0 32) b32 }] tile0)) (fun s' => decide (s'.byte (loamAddr t0 63) = 32)) = true) ∧
    (let u : Site := ⟨122, 127⟩
     let g := mkGrain t0 u 2 960 0 true (.wr (spillAddr u 0xFFFE0) b32)
     let s := State.reset.withReady u [g]
     s.LiveSite u ∧ okIs (s.window u (spillAddr u 0xFFFE0) 32) (.spill 0xFFFE0) = true ∧
       nx (exec (.remoteWrite u) s) (fun s' => decide (s'.byte (spillAddr u 0xFFFFF) = 32)) = true ∧
       nx (exec (.remoteRead u) (State.reset.withReady u [{ g with kind := 3, body := .rd (spillAddr u 0xFFFC0) }]))
         (fun s' => decide ((s'.ni u).outbox.length = 2)) = true) ∧
    (let g := mkGrain t1 t0 3 960 0 true (.rd (storeAddr t0 0x5FFC0))
     let s := rdy [g] (memS tile0)
     s.firstUe t0 0x5FFC0 64 = none ∧ nx (exec (.remoteRead t0) s) (fun s' => decide ((s'.ni t0).outbox.map (fun g => (g.kind.toNat, g.last)) =
       [(4, false), (4, true)])) = true ∧
       go (exec (.remoteRead t0) (s.onInfo t0 (fun m => { m with poison := [0xBFF8] }))) = true ∧
       go (exec (.remoteRead t0) (rdy [{ g with body := .rd 0 }] tile0)) = true) ∧
    (let g := mkGrain t1 t0 5 960 0 true .wra
     let s := rdy [g] (flightOf 6 (rmDesc 2) (.put 2 3) tile0)
     (s.flightOf t0 6).map (fun f => f.work) = some (.put 2 3) ∧
       nx (exec (.wraReceive t0) s) (fun s' => decide ((s'.flightOf t0 6).map (fun f => (f.work, f.done, f.progress)) = some (.put 2 4, true, 2))) = true) ∧
    (let g := mkGrain t1 t0 4 960 0 true (.data b32)
     let s := rdy [g] (flightOf 6 (rmDesc 3) (.get 2 3) tile0)
     nx (exec (.rdrReceive t0) s) (fun s' => decide ((s'.flightOf t0 6).map (fun f => (f.work, f.done)) = some (.get 2 4, true) ∧
       s'.byte (storeAddr t0 127) = 32)) = true) ∧
    (let g := mkGrain stewardSite t0 14 0 0 true (.svcWrite (storeAddr t0 0x70100) 1)
     let s := inb g tile0
     takeFirst (ofKind 14) (s.ni t0).inbox = some (g, []) ∧ (grainSrc g).isSteward = true ∧ ctrlReg 0x70100 = some (8, 0x70100) ∧
       go (exec (.svcAccess t0) s) = true ∧ go (exec (.svcAccess t0) (inb { g with body := .svcRead (storeAddr t0 0x70100) } tile0)) = true ∧
       go (exec (.svcAccess t0) (inb { g with sx := 138 } tile0)) = true ∧ svc0.isTile = false ∧
       go (exec (.svcAccess svc0) (State.reset.withInbox svc0 [g])) = true ∧
       go (exec (.svcAccess svc0) (State.reset.withInbox svc0 [{ g with body := .svcRead 0 }])) = true) := by
  simp only [canon_iff, liveSite_iff]; decide +kernel

theorem witness_ErrorsReachTheirSource :
    (let g := mkGrain t1 t0 13 0 0 true (.err 0 1 6 2)
     let s := inb g ((st { coreAt 0 with blocked := some (.openConn 3 5) }).onNi t0 (fun n => { n with opens := [openO 3] }))
     s.Live t0 ∧ takeFirst (ofKind 13) (s.ni t0).inbox = some (g, []) ∧ s.plotOf t0 = none ∧
       nx (exec (.errReceive t0) s) (fun s' => decide ((s'.core t0).get 5 = 0x80000005)) = true ∧
       go (exec (.errReceive t0) (inb g tile0)) = true) ∧
    (let g := mkGrain t1 t0 13 0 0 true (.err 0 960 2 3)
     let s := inb g (flightOf 6 (rmDesc 2) (.put 1 0) tile0)
     s.Canonical ∧ nx (exec (.errReceive t0) s) (fun s' => decide (((s'.flightOf t0 6).bind (fun f => f.fault)).map (fun d => (d.cause, d.opnd)) = some (2, 7))) = true) ∧
    (let g := mkGrain t1 t0 13 0 0 true (.err 31 5 0 6)
     let s := inb g (withTx { tx5 with unacked := 32, nextSeq := 0 } tile0)
     nx (exec (.errReceive t0) s) (fun s' => decide ((s'.ni t0).tx.map (fun x => (x.closed, x.unacked)) = [(true, 0)])) = true ∧
       nx (exec (.errReceive t0) (inb { g with body := .err 31 5 7 6 } (withTx tx5 tile0))) (fun s' => decide ((s'.ni t0).tx = [tx5])) = true) := by
  simp only [canon_iff, live_iff]; decide +kernel

def ring5 : TxConn := { newTx 5 t1 with kind := 2, bytes := 4096, recs := 64, ring := 4096 }

def rec0 : MsgRec := { off := 0, len := 32, size := 32, slot := 63, src := t1, conn := 5, wrap := false, done := false, lap := false }

theorem witness_ActiveMessages :
    (let w := wR 0x32 4 5 6 63
     let s := withTx ring5 (at_ w (fun c => ((c.put 4 4096).put 5 5).put 6 0x5F000))
     s.Canonical ∧ s.Runs t0 0x32 w ∧ fFn w < 64 ∧ ((s.ni t0).openTx 5).isSome = true ∧ (s.core t0).stbuf = [] ∧
       nx (exec (.send t0) s) (fun s' => decide ((s'.core t0).blocked = some (.send 5 0x5F000 4096 63))) = true ∧
       eqs (exec (.send t0) (s.onCore t0 (fun c => c.put 6 4))) ((s.onCore t0 (fun c => c.put 6 4)).takeTrap t0 3 4) = true ∧
       nx (exec (.send t0) (s.onCore t0 (fun c => c.put 6 0x5F008))) (fun s' => decide ((s'.core t0).cause = 4)) = true ∧
       nx (exec (.send t0) (s.onCore t0 (fun c => c.put 5 6))) (fun s' => decide ((s'.core t0).cause = 7 ∧ (s'.core t0).tval = 6)) = true ∧
       nx (exec (.send t0) (s.onCore t0 (fun c => c.put 4 0))) (fun s' => decide ((s'.core t0).cause = 7 ∧ (s'.core t0).tval = 0)) = true ∧
       nx (exec (.send t0) ((s.onCore t0 (fun c => (c.put 4 4097).put 6 0)))) (fun s' => decide ((s'.core t0).tval = 4097)) = true) ∧
    (let s := st { coreAt 0 with blocked := some (.send 5 0 64 63) }
     s.Live t0 ∧ (s.ni t0).sendLeft = none ∧ s.twinStall t0 = false ∧
       go (exec (.sendStart t0) (withTx { ring5 with woff := 4032 } s)) = true ∧
       go (exec (.sendStart t0) (withTx { ring5 with woff := 4064 } s)) = true ∧
       nx (exec (.sendStart t0) (withTx { ring5 with woff := 32, ring := 64 } s)) (fun s' => decide ((s'.ni t0).tx.map (fun x => x.woff) = [0])) = true) ∧
    (let s := (st { coreAt 0 with blocked := some (.send 5 0 64 63) }).onNi t0 (fun n => { n with sendLeft := some 5, tx := [ring5] })
     (∀ x ∈ ((s.ni t0).txOf 5).toList, x.q = []) ∧ nx (exec (.sendRetire t0) s) (fun s' => decide ((s'.core t0).blocked = none ∧ (s'.ni t0).sendLeft = none)) = true) ∧
    (let h := mkGrain t1 t0 1 5 0 false (.msgHead 32 false 63 0)
     let d := mkGrain t1 t0 1 5 1 true (.data b32)
     let s := rdy [h, d] (withRx (newRx 5 t1 63) ((tile0.setCreg t0 (aNiPort 63) (portCfg 2 0 0 0 0)).setCreg t0 (aNiHslot 63) 0x80000100))
     wholeRun 1 (s.ni t0).ready = some (5, [h, d], []) ∧ (s.ni t0).rx.find? (fun r => decide (r.conn = 5)) = some (newRx 5 t1 63) ∧
       nx (exec (.messageArrival t0) s) (fun s' => decide ((s'.ni t0).waiting = [{ port := 63, off := 0 }] ∧ s'.byte (storeAddr t0 31) = 32)) = true) ∧
    (let s := plotted ((((st { coreAt 0 with handE := true, blocked := some .wfe }).setCreg t0 (aNiHslot 63) 0x80000100).onNi t0 (fun n =>
        { n with waiting := [{ port := 63, off := 0 }] })).onPort t0 63 (fun p => { p with msgs := [rec0] }))
     s.mayHandle t0 = true ∧ s.virt t1 = some (0, 1, 0) ∧
       (s.portRt t0 63).msgs.find? (fun m => decide (m.off = 0) && !m.done && !m.lap && !m.wrap) = some rec0 ∧
       nx (exec (.handlerDispatch t0) s) (fun s' => decide ((s'.core t0).handH = true ∧ (s'.core t0).pc = 0x100 ∧ (s'.core t0).hpc = 4 ∧
         (s'.core t0).get 25 = 32 ∧ (s'.core t0).get 26 = 1 ∧ (s'.core t0).get 27 = 5 ∧ (s'.core t0).get 28 = 63)) = true) ∧
    (let w := wI 0x33 0 0 0
     let s := (at_ w (fun c => { c with handH := true, hpc := 0x44, held := some { port := 63, off := 0 } })).onPort t0 63 (fun p => { p with msgs := [rec0] })
     s.Runs t0 0x33 w ∧ nx (exec (.hret t0) s) (fun s' => decide ((s'.core t0).pc = 0x44 ∧ (s'.core t0).handH = false ∧ (s'.portRt t0 63).msgs = [])) = true ∧
       go (exec (.hret t0) (at_ w id)) = true ∧ go (exec (.hret t0) (at_ w (fun c => { c with handH := true }))) = true) := by
  simp only [canon_iff, live_iff, runs_iff]; decide +kernel

/-- NI_BAR[15] of a leaf whose parent is t1. -/
def bar15 (s : State) : State := s.setCreg t0 (aNiBar 15) (BitVec.ofNat 64 (2 ^ 31 + 2 ^ 8 + 1 * 2 ^ 9))

theorem witness_BarriersAndProbes :
    (let w := wI 0x35 0 0 15
     let s := bar15 (plotAt w id)
     s.Canonical ∧ s.Runs t0 0x35 w ∧ fImm13 w < 16 ∧ s.cfld t0 (aNiBar 15) 31 31 = 1 ∧ s.cfld t0 (aNiBar 15) 8 8 = 1 ∧
       nx (exec (.bar t0) s) (fun s' => decide ((s'.core t0).blocked = some (.bar 15) ∧ (s'.ni t0).outbox = [mkGrain t0 t1 10 0 0 true (.barArrive 15)])) = true ∧
       nx (exec (.bar t0) (plotAt w id)) (fun s' => decide ((s'.core t0).cause = 7 ∧ (s'.core t0).tval = 15)) = true) ∧
    (let g := mkGrain t1 t0 10 0 0 true (.barArrive 15)
     let s := inb g (plotted tile0)
     s.Live t0 ∧ nx (exec (.barrierArrival t0) s) (fun s' => decide ((s'.barRt t0 15).count = 1)) = true) ∧
    (let g := { mkGrain t1 t1 0 0 0 true (.barRelease 15) with dx := 0x1FF, dy := 3 }
     let s := inb g (st { coreAt 0 with blocked := some (.bar 15) })
     nx (exec (.barrierRelease t0) s) (fun s' => decide ((s'.core t0).blocked = none ∧ (s'.core t0).pc = 4)) = true) ∧
    (let s := (withTx { ring5 with bytes := 0 } (st { coreAt 0 with blocked := some (.send 5 0 64 63) })).setCreg t0 aNiCfg 1
     (s.ni t0).txOf 5 = some { ring5 with bytes := 0 } ∧ s.cfld t0 aNiCfg 0 0 = 1 ∧ s.blockedOn t0 { ring5 with bytes := 0 } = true ∧
       go (exec (.deadlockWindow t0 5) s) = true ∧
       nx (exec (.probeReceive t0) (inb (mkGrain t1 t0 12 5 0 true (.probe t2 t2 5 254)) s)) (fun s' => decide ((s'.ni t0).outbox = [])) = true ∧
       nx (exec (.probeReceive t0) (inb (mkGrain t1 t0 12 5 0 true (.probe t2 t2 5 253)) s)) (fun s' => decide ((s'.ni t0).outbox =
         [mkGrain t0 t1 12 5 0 true (.probe t2 t0 5 254)])) = true ∧
       go (exec (.probeReceive t0) (inb (mkGrain t1 t0 12 5 0 true (.probe t0 t2 5 1)) s)) = true) ∧
    (let s := withRx (newRx 5 t1 63) tile0
     (s.ni t0).rx.find? (fun r => decide (r.conn = 5)) = some (newRx 5 t1 63) ∧ s.spillRegion t0 63 = none ∧
       nx (exec (.probeReceive t0) (inb (mkGrain t1 t0 12 5 0 true (.probe t0 t0 5 1)) s)) (fun s' => decide (s'.cfld t0 aNiStat 62 62 = 1)) = true) := by
  simp only [canon_iff, live_iff, runs_iff]; decide +kernel

/-- A steering unit's register: mode, inputs, token port, output 0. -/
def steerCfg (m i0 i1 tok o0 : Nat) : Dword := BitVec.ofNat 64 (m * 2 ^ 61 + i0 * 2 ^ 55 + i1 * 2 ^ 49 + tok * 2 ^ 43 + o0)

/-- Ports 0, 1 and 2 of kind STEER, each with one item. -/
def steering (v : Dword) : State :=
  [0, 1, 2].foldl (fun s p => (s.setCreg t0 (aNiPort p) (portCfg 3 0 0 p 0)).onPort t0 p (fun r => { r with came := 1, arrived := 1 }))
    ((withTx tx5 tile0).setCreg t0 (aNiSteer 3) v)

/-- Spill for port 63 at the spill site (122, 127). -/
def spilling (s : State) : State :=
  (s.setCreg t0 aNiSpill (BitVec.ofNat 64 (122 + 127 * 2 ^ 9 + 1 * 2 ^ 26))).setCreg t0 (aNiPort 63) (portCfg 1 0 0 0 2)

theorem witness_StreamsAndSteering :
    (let g := mkGrain t1 t0 0 5 0 true (.data b32)
     let s := rdy [g] (withRx (newRx 5 t1 63) (spilling tile0))
     s.Canonical ∧ s.Live t0 ∧ wholeRun 0 (s.ni t0).ready = some (5, [g], []) ∧ (s.portRt t0 63).came - (s.portRt t0 63).released < s.portSlots t0 63 ∧
       nx (exec (.itemArrival t0) s) (fun s' => decide (s'.byte (storeAddr t0 31) = 32 ∧ (s'.portRt t0 63).arrived = 1)) = true ∧
       go (exec (.itemArrival t0) (rdy [g] tile0)) = true ∧
       (let s := s.onPort t0 63 (fun p => { p with came := 2, arrived := 1 })
        s.spillRegion t0 63 = some (⟨122, 127⟩, 0) ∧ (s.portRt t0 63).came - (s.portRt t0 63).arrived < s.portSpq t0 63 ∧
          nx (exec (.itemArrival t0) s) (fun s' => decide (s'.byte (spillAddr ⟨122, 127⟩ 31) = 32 ∧ (s'.portRt t0 63).came = 3)) = true)) ∧
    (let s := ((spilling tile0).setBytes (spillAddr ⟨122, 127⟩ 64) b32).onPort t0 63 (fun p => { p with came := 2, arrived := 1, released := 1 })
     63 < Config.tilePorts ∧ s.spillRegion t0 63 = some (⟨122, 127⟩, 0) ∧ (s.portRt t0 63).arrived - (s.portRt t0 63).released < s.portSlots t0 63 ∧
       nx (exec (.spillReadbackDone t0 63) s) (fun s' => decide (s'.byte (storeAddr t0 31) = 32 ∧ (s'.portRt t0 63).arrived = 2)) = true) ∧
    (let s := steering (steerCfg 1 0 1 0 5)
     3 < Config.steerUnits ∧ s.maySend t0 = true ∧ s.twinStall t0 = false ∧ s.cfld t0 (aNiSteer 3) 63 61 = 1 ∧
       (((s.ni t0).openTx 5).map (fun x => decide (0 < x.items) && x.q.isEmpty)) = some true ∧ s.holdsItem t0 0 = true ∧
       go (exec (.steerMerge t0 3) s) = true ∧ eqs (exec (.niSteerWrite t0 3 (steerCfg 2 0 0 0 0)) s) s = true ∧
       go (exec (.niSteerWrite t0 3 0) s) = true ∧ go (exec (.niSteerWrite t0 3 (steerCfg 1 0 1 0 5)) tile0) = true) ∧
    (let s := steering (steerCfg 2 0 0 0 5)
     go (exec (.steerSplit t0 3) s) = true) ∧
    (let s := steering (steerCfg 3 0 1 2 5)
     (lowestComplete true ((s.pairUp t0 3).steerRt t0 3).pairs).isSome = true ∧ go (exec (.steerSelect t0 3) s) = true) ∧
    (let s := steering (steerCfg 4 0 1 2 5)
     (lowestComplete false ((s.pairUp t0 3).steerRt t0 3).pairs).isSome = true ∧ go (exec (.steerGate t0 3) s) = true) ∧
    (eqs (exec (.niPortWrite t0 63 1) (withRx (newRx 5 t1 63) tile0)) (withRx (newRx 5 t1 63) tile0) = true ∧ (tile0.portRt t0 63).bound = none ∧
      go (exec (.niPortWrite t0 63 1) tile0) = true) := by
  simp only [canon_iff, live_iff]; decide +kernel

theorem witness_FrameSwitches :
    (let s := ((st { coreAt 0 with blocked := some (.frame 7) }).setCreg t0 (aNiFrame 7) (BitVec.ofNat 64 (2 ^ 63 + 1)))
     s.Canonical ∧ s.Live t0 ∧ (s.core t0).switching = some 7 ∧ s.switchReady t0 = true) ∧
    (let s := st { coreAt 0 with switch := some { frame := 7, opening := true, entry := 0x7FFFC } }
     (∀ o ∈ (s.ni t0).opens, o.entry = none ∨ o.stale = true) ∧
       nx (exec (.frameEntry t0) s) (fun s' => decide ((s'.core t0).pc = 0x7FFFC ∧ (s'.core t0).switch = none)) = true) := by
  simp only [canon_iff, live_iff]; decide +kernel

/-! ### Engines -/

/-- A descriptor of engine q with operation opc, formats fa and fc, and the bits of rest. -/
def dsc (q opc fa fc rest : Nat) : Desc := BitVec.ofNat 128 (q * 2 ^ 12 + opc * 2 ^ 8 + fa * 2 ^ 4 + fc + rest)

/-- The command d at the head of queue q. -/
def headOf (q : Nat) (d : Desc) (s : State) : State := s.onQueue t0 q (fun k => { k with entries := [{ desc := d, ticket := 1 }], icnt := 1 })

def dVe : Desc := dsc 1 0 0 0 (2 * 2 ^ 58 + 1 * 2 ^ 45 + 15 * 2 ^ 71)
def dSu (opc fa fc kn : Nat) : Desc := dsc 2 opc fa fc (64 * 2 ^ 45 + 15 * 2 ^ 70 + kn * 2 ^ 84)
def dTx (opc : Nat) : Desc := dsc 3 opc 1 1 ((if opc = 0 then 64 * 2 ^ 45 else 0) + 15 * 2 ^ 70 + 15 * 2 ^ 58)
def dFu : Desc := dsc 4 0 0 0 (64 * 2 ^ 45 + 15 * 2 ^ 71)
def dTab : Desc := dsc 4 1 0 0 (15 * 2 ^ 89)
def dSends : Desc := dsc 6 0 0 0 (5 * 2 ^ 45)
def dRecv : Desc := dsc 6 1 0 0 (1 * 2 ^ 50 + 63 * 2 ^ 32)
def dRm (opc : Nat) : Desc := dsc 6 opc 0 0 (1 * 2 ^ 45 + 1 * 2 ^ 58)
def dUpd : Desc := dsc 7 0 0 0 (16 * 2 ^ 45 + 0x1000 * 2 ^ 58)
def dRed : Desc := dsc 7 1 0 0 0
def dTe : Desc := dsc 0 0 1 0 (16 * 2 ^ 58 + 8 * 2 ^ 45 + 15 * 2 ^ 84 + 15 * 2 ^ 96)

/-- Entries of a descriptor that no engine accepts: bit 16 is reserved. -/
def dBad (q opc : Nat) : Desc := dsc q opc 0 0 (2 ^ 16)

theorem witness_FailedChecksWriteNothing :
    [(Instr.veOperation t0, 1, dBad 1 0, veCheck tile0 t0 (dBad 1 0)), (.suConvert t0, 2, dBad 2 4, suConvertCheck tile0 t0 (dBad 2 4)),
      (.suCompress t0, 2, dBad 2 1, suCompressCheck tile0 t0 (dBad 2 1)), (.suPrune t0, 2, dBad 2 3, suPruneCheck tile0 t0 (dBad 2 3)),
      (.txTranspose t0, 3, dBad 3 0, txCheck tile0 t0 (dBad 3 0)), (.txStream t0, 3, dBad 3 1, txCheck tile0 t0 (dBad 3 1)),
      (.fuEval t0, 4, dBad 4 0, fuEvalCheck tile0 t0 (dBad 4 0)), (.ldLoad t0, 5, dBad 5 0, ldCheck tile0 t0 (dBad 5 0)),
      (.ldSave t0, 5, dBad 5 1, ldCheck tile0 t0 (dBad 5 1)), (.sends t0, 6, dBad 6 4, sendsCheck tile0 t0 (dBad 6 4)),
      (.recv t0, 6, dBad 6 1, recvCheck tile0 t0 (dBad 6 1)), (.put t0, 6, dBad 6 2, remoteCheck tile0 t0 (dBad 6 2)),
      (.get t0, 6, dBad 6 3, remoteCheck tile0 t0 (dBad 6 3)), (.update t0, 7, dBad 7 2, updateCheck tile0 t0 (dBad 7 2))].all (fun r =>
        let s := headOf r.2.1 r.2.2.1 tile0
        s.queueOpen t0 r.2.1 && decide ((s.queue t0 r.2.1).flight = []) && decide (dCtl r.2.2.1 = 0) &&
          decide (r.2.2.2.map (fun d => (d.cause, d.opnd)) = some (1, 15)) &&
          nx (exec r.1 s) (fun s' => decide ((s'.flightOf t0 r.2.1).map (fun f => (f.fault.isSome, f.done)) = some (true, true)))) = true ∧
    tile0.Live t0 := by
  simp only [live_iff]; decide +kernel

/-- Ones in FP32 in the first two rows of the store. -/
def ones (s : State) : State := s.setBytes (storeAddr t0 0) (List.replicate 32 [0, 0, 0x80, 0x3F]).flatten

theorem witness_EngineCommandsRun_store :
    (let s := headOf 0 dTe tile0
     s.Canonical ∧ s.Live t0 ∧ dCtl dTe = 0 ∧ s.queueOpen t0 0 = true ∧ s.issues t0 = true ∧ s.uePending t0 = false ∧ go (exec (.teProduct t0) s) = true) ∧
    (let s := headOf 1 dVe (ones tile0)
     s.queueOpen t0 1 = true ∧ veCheck s t0 dVe = none ∧
       nx (exec (.veOperation t0) s) (fun s' => decide (s'.bytes (storeAddr t0 128) 4 = [0, 0, 0, 0x40])) = true) ∧
    (let s := headOf 2 (dSu 0 0 1 0) (ones tile0)
     suConvertCheck s t0 (dSu 0 0 1 0) = none ∧ nx (exec (.suConvert t0) s) (fun s' => decide (s'.bytes (storeAddr t0 4096) 2 = [0, 0x3C])) = true) ∧
    (let s := headOf 2 (dSu 1 1 1 1) (ones tile0)
     suCompressCheck s t0 (dSu 1 1 1 1) = none ∧ go (exec (.suCompress t0) s) = true) ∧
    (suDecompressCheck (headOf 2 (dSu 2 1 1 1) tile0) t0 (dSu 2 1 1 1) ≠ none ∧ go (exec (.suDecompress t0) (headOf 2 (dSu 2 1 1 1) tile0)) = true) ∧
    (let s := headOf 2 (dSu 3 1 1 1) (ones tile0)
     suPruneCheck s t0 (dSu 3 1 1 1) = none ∧ go (exec (.suPrune t0) s) = true) ∧
    (let s := headOf 4 dFu (ones tile0)
     fuEvalCheck s t0 dFu = none ∧ nx (exec (.fuEval t0) s) (fun s' => decide (s'.bytes (storeAddr t0 4096) 4 = [0, 0, 0x80, 0x3F])) = true) := by
  simp only [canon_iff, live_iff]; decide +kernel

/-- The image that COMPRESS makes of the first row. -/
def image0 : State := match exec (.suCompress t0) (headOf 2 (dSu 1 1 1 1) (ones tile0)) with | .next s => s | _ => tile0

/-- A group record of one frozen element of rule 0. -/
def update0 : State :=
  headOf 7 dUpd (((plotted (ones tile0)).setFld (rPlotMode 0) 4 4 1).setBytes (loamAddr t0 0x40000)
    ([0, 1, 0, 0, 1, 0, 0, 0, 1, 0, 0, 0] ++ List.replicate 116 0))

theorem witness_EngineCommandsRun_rest :
    (let s := headOf 3 (dTx 0) (ones tile0)
     txCheck s t0 (dTx 0) = none ∧ go (exec (.txTranspose t0) s) = true) ∧
    (let s := headOf 3 (dTx 1) tile0
     txCheck s t0 (dTx 1) = none ∧ go (exec (.txStream t0) s) = true) ∧
    (let s := headOf 4 dTab tile0
     go (exec (.fuLoadtab t0) s) = true) ∧
    (let s := headOf 5 (ldDesc 0 1572863 0x17FF) tile0
     ldCheck s t0 (ldDesc 0 1572863 0x17FF) = none ∧ go (exec (.ldLoad t0) s) = true) ∧
    (let s := headOf 5 (ldDesc 1 1572863 0x17FF) tile0
     ldCheck s t0 (ldDesc 1 1572863 0x17FF) = none ∧ go (exec (.ldSave t0) s) = true) ∧
    (let s := headOf 6 dSends (withTx tx5 tile0)
     sendsCheck s t0 dSends = none ∧ nx (exec (.sends t0) s) (fun s' => decide ((s'.ni t0).outbox.length = 1)) = true) ∧
    (let s := headOf 6 dRecv (tile0.setCreg t0 (aNiPort 63) (portCfg 1 0 0 0 0))
     recvCheck s t0 dRecv = none ∧ go (exec (.recv t0) s) = true) ∧
    (let s := headOf 6 (dRm 2) (plotted tile0)
     remoteCheck s t0 (dRm 2) = none ∧ nx (exec (.put t0) s) (fun s' => decide ((s'.ni t0).outbox.length = 2)) = true) ∧
    (let s := headOf 6 (dRm 3) (plotted tile0)
     remoteCheck s t0 (dRm 3) = none ∧ nx (exec (.get t0) s) (fun s' => decide ((s'.ni t0).outbox.length = 1)) = true) ∧
    (updateCheck update0 t0 dUpd = none ∧ go (exec (.update t0) update0) = true) ∧
    (let s := headOf 7 dRed tile0
     dOpc dRed = 1 ∧ s.cascState ≠ 1 ∧ go (exec (.reduce t0 true) s) = true) := by decide +kernel

/-- A table of one segment on [0, 1): every coefficient 0 but the constant 1. -/
def table0 : State :=
  (((tile0.setBytes (storeAddr t0 4) [0, 0, 0x80, 0x3F])).setBytes (storeAddr t0 68) [0, 0, 0x80, 0x3F])

theorem witness_FunctionTables :
    (let s := headOf 4 dTab table0
     s.Canonical ∧ s.Live t0 ∧ s.queueOpen t0 4 = true ∧ dOpc dTab = 1 ∧ fuTabCheck s t0 dTab = none ∧
       s.firstUe t0 (fuA dTab) (tabBytes (s.words t0 (fuA dTab) 16)) = none ∧
       nx (exec (.fuLoadtab t0) s) (fun s' => decide ((s'.fuTab t0 15).map List.length = some 24)) = true) ∧
    (decodeVal 0 0x3F800000).isNan = false := by
  simp only [canon_iff, live_iff]; decide +kernel

theorem witness_FormatsRoundTrip :
    (∀ c ∈ List.range 9, (decodeVal c 1).isNan = false ∧ encodeVal c 2 255 false (decodeVal c 1) = (1, 0)) ∧
    (∀ c ∈ [9, 10, 11], encodeVal c 0 0 true (decodeVal c (2 ^ fmtBits c - 1)) = (2 ^ fmtBits c - 1, 0)) ∧
    (decodeVal 5 0x7E).isNan = true ∧ (decodeVal 5 0x7B).isNan = false ∧ (decodeVal 3 0x7F).isNan = false ∧ (decodeVal 3 0x80).isNan = true := by decide +kernel

/-- A product that has its accumulators: one sub-tile of 1.0. -/
def drained0 : State :=
  flightOf 0 dTe (.te [{ row0 := 0, col0 := 0, rows := 1, groups := 1, acc := List.replicate 16 0x3F800000 }]) tile0

def dTePair : Desc := dsc 0 0 1 0 (1 * 2 ^ 122 + 1 * 2 ^ 124 + 16 * 2 ^ 58 + 15 * 2 ^ 84 + 15 * 2 ^ 96)

def ortho0 : OrthoSt :=
  { stage := 2, iter := 0, pend := 1, prods := 0, x := [0], y := [], z := [], g := [], m := [], sumsq := 0, part := [] }

theorem witness_TensorEngineEvents :
    (drained0.Canonical ∧ drained0.Live t0 ∧ drained0.twinStall t0 = false ∧
      nx (exec (.teSubtileDrain t0) drained0) (fun s' => decide (s'.bytes (storeAddr t0 1024) 4 = [0, 0, 0x80, 0x3F])) = true) ∧
    (let s := flightOf 3 (dTx 1) .txPair (flightOf 0 dTePair .tePair tile0)
     s.issues t0 = true ∧ ((s.queue t0 0).flight.find? (fun f => decide (f.work = .tePair) && f.fault.isNone)).isSome = true ∧
       (s.flightOf t0 3).map (fun g => (g.work, g.fault, g.done)) = some (.txPair, none, false) ∧ go (exec (.streamPairing t0) s) = true ∧
       dFC (dTx 1) = teFb dTePair) ∧
    (let s := flightOf 3 (dsc 3 1 1 2 (15 * 2 ^ 70 + 15 * 2 ^ 58)) .txPair (flightOf 0 dTePair .tePair tile0)
     nx (exec (.streamPairing t0) s) (fun s' => decide ((s'.flightOf t0 0).map (fun f => f.done) = some true ∧
       (s'.flightOf t0 3).map (fun f => f.fault.isSome) = some true)) = true) ∧
    (let s := flightOf 7 dUpd (.ortho ortho0) (update0.setBytes (loamAddr t0 0x40000) [3])
     (s.ueFlight t0).map (fun f => f.work) = some (.ortho ortho0) ∧ (match ueRecord s t0 dUpd with | .ok _ => true | _ => false) = true ∧
       s.issues t0 = true ∧ (s.queue t0 0).flight = [] ∧ (s.tile t0).ueTurn = false ∧ go (exec (.ueTeProduct t0) s) = true) := by
  simp only [canon_iff, live_iff]; decide +kernel

/-- A command that has ended, with flags and a fault. -/
def ended (q : Nat) (fl : Byte) (x : Option Detected) : State :=
  tile0.onQueue t0 q (fun k => { k with
    ccnt := 0xFFFFFFFF
    flight := [{ InFlight.start tile0 t0 { desc := dsc q 0 0 0 (0xAB * 2 ^ 20), ticket := 9 } with done := true, flags := fl, fault := x }] })

theorem witness_CommandsEnd :
    ((ended 7 0x15 none).Canonical ∧ (ended 7 0x15 none).Live t0 ∧ 7 < 8 ∧
      nx (exec (.engineCommandComplete t0 7) (ended 7 0x15 none)) (fun s' => decide ((s'.queue t0 7).ccnt = 0 ∧ (s'.queue t0 7).flight = [] ∧
        (s'.queue t0 7).hist[0] = 0x15 ∧ Dword.field (s'.queue t0 7).sticky 7 0 = 0x15)) = true) ∧
    (let x : Detected := { cause := 7, opnd := 6, addr := 64, progress := 3 }
     nx (exec (.engineFaultEffect t0 7) (ended 7 1 (some x))) (fun s' => decide ((s'.queue t0 7).halted = true ∧ (s'.core t0).pendQ = [7] ∧
       (s'.queue t0 7).fault = BitVec.ofNat 64 (2 ^ 63 + 7 * 2 ^ 48 + 0xAB * 2 ^ 40 + 1 * 2 ^ 32 + 9))) = true) ∧
    (let s := { plotted tile0 with svc := [(t0, .sparse 7 9 1 2)] }
     takeFirst (fun e : Site × SvcNote => match e.2 with | .sparse .. => true | _ => false) s.svc = some ((t0, .sparse 7 9 1 2), []) ∧
       go (exec .sparseDropReport s) = true) := by
  simp only [canon_iff, live_iff]; decide +kernel

/-- A control descriptor of queue 7. -/
def ctlD (opc : Nat) : Desc := dsc 7 opc 0 0 (2 ^ 17)

def halted (opc : Nat) : State :=
  tile0.onQueue t0 7 (fun k => { k with
    halted := true, ccnt := 4, icnt := 7, fdesc := dUpd, fault := BitVec.ofNat 64 (2 ^ 63 + 0x15 * 2 ^ 32 + 5)
    entries := [{ desc := dUpd, ticket := 6 }, { desc := ctlD opc, ticket := 7 }] })

theorem witness_ControlDescriptors :
    ((halted 0).Canonical ∧ (halted 0).Live t0 ∧ ((halted 0).queue t0 7).halted = true ∧
      (((halted 0).queue t0 7).entries.find? (fun e => ctlOk e.desc 7 && decide (dOpc e.desc ≤ 2))).map (fun e => e.ticket) = some 7 ∧
      nx (exec (.resume t0 7) (halted 0)) (fun s' => decide ((s'.queue t0 7).halted = false ∧ (s'.queue t0 7).ccnt = 5 ∧
        (s'.queue t0 7).hist[5] = 0x15)) = true ∧
      nx (exec (.retry t0 7) (halted 1)) (fun s' => decide (((s'.queue t0 7).entries.map (fun e => e.ticket)) = [5, 6, 7])) = true ∧
      nx (exec (.discard t0 7) (halted 2)) (fun s' => decide (((s'.queue t0 7).entries.map (fun e => e.ticket)) = [7] ∧
        (s'.queue t0 7).ccnt = 6)) = true) ∧
    (∀ r ∈ [(Instr.resume t0 7, 0), (.retry t0 7, 1), (.discard t0 7, 2), (.clrflags t0 7, 3)],
      let s := (headOf 7 (ctlD r.2) tile0).onQueue t0 7 (fun k => { k with sticky := 5 })
      s.queueOpen t0 7 = true ∧ dCtl (ctlD r.2) = 1 ∧ dEng (ctlD r.2) = 7 ∧ (ctlD r.2).toNat < 2 ^ 32 ∧
        nx (exec r.1 s) (fun s' => decide ((s'.queue t0 7).ccnt = 1 ∧ (s'.queue t0 7).sticky = if r.2 = 3 then 0 else 5)) = true) := by
  simp only [canon_iff, live_iff]; decide +kernel

/-! ### Facets and the cascade -/

/-- Facet 0 is UP on lane 0, its port has credit. -/
def up0 (f : Nat) (s : State) : State :=
  ((s.setFacet f 3).setFld (rFacetStat f) 47 34 1).onOpt (optPortOf f 0) (fun x => { x with credit := 230 })
def ring0 : State := up0 4 (up0 0 State.reset)

def frameOf (t : FrameType) (n : Nat) : FacetFrame := { ftype := t, fseq := n, cret := 2, slots := [], ctrl := [] }

theorem witness_FacetFrames :
    (let s := ring0.onOpt 0 (fun x => { x with dat := [dataG], freed := 300, credit := 1 })
     s.Canonical ∧ s.portLive 0 = true ∧ s.frozen = false ∧ s.shutDown = false ∧ s.portUp 0 = true ∧
       nx (exec (.facetFrameSend 0) s) (fun s' => decide ((s'.opt 0).line = some { frameOf .data 0 with cret := 255, slots := [dataG] } ∧
         (s'.opt 0).credit = 0 ∧ (s'.opt 0).txSeq = 1 ∧ (s'.opt 0).freed = 45)) = true ∧
       nx (exec (.facetFrameSend 0) { s with frozen := true }) (fun s' => decide ((s'.opt 0).line = some { frameOf .idle 0 with cret := 255 } ∧
         (s'.opt 0).credit = 1)) = true ∧
       nx (exec (.facetFrameSend 0) (s.onOpt 0 (fun x => { x with credit := 0 }))) (fun s' =>
         decide ((s'.opt 0).line.map (fun f => f.ftype) = some .idle)) = true) ∧
    (let x := { OptPort.reset with resend := [frameOf .ctrl 7, frameOf .data 8] }
     (x.slot false true).line = some (frameOf .ctrl 7) ∧ (x.slot false true).resend = [frameOf .data 8]) ∧
    (let s := ring0.onOpt 0 (fun x => { x with rxSeq := 1023, credit := 229 })
     nx (exec (.facetFrameReceive 0 (frameOf .data 1023) (some 15)) s) (fun s' => decide ((s'.opt 0).rxSeq = 0 ∧ (s'.opt 0).credit = 230 ∧
       s'.fld (rFacetErr 0) 31 0 = 15)) = true ∧
     nx (exec (.facetFrameReceive 0 (frameOf .idle 1023) (some 0)) s) (fun s' => decide ((s'.opt 0).rxSeq = 1023)) = true ∧
     eqs (exec (.facetFrameReceive 0 (frameOf .data 5) (some 0)) s) (s.bump (rFacetErr 0) 31 0 0) = true ∧
     nx (exec (.facetFrameReceive 0 (frameOf .data 1023) (some 16)) s) (fun s' => decide (s'.fld (rFacetErr 0) 63 48 = 1 ∧
       (s'.opt 0).discarding = true ∧ (s'.opt 0).ctrl = [{ pos := 0, beat := 0, body := .nak 1023 }])) = true ∧
     nx (exec (.facetFrameReceive 0 (frameOf .reserved 1023) (some 0)) s) (fun s' => decide ((s'.opt 0).discarding = true)) = true ∧
     nx (exec (.facetFrameReceive 0 (frameOf .data 2) none) (s.onOpt 0 (fun x => { x with discarding := true }))) (fun s' =>
       decide ((s'.opt 0).ctrl = [] ∧ s'.fld (rFacetErr 0) 63 48 = 1)) = true) := by
  simp only [canon_iff]; decide +kernel

def attG : CtrlGrain := { pos := 0, beat := 0, body := .attest 0 [1] }
def nakG : CtrlGrain := { pos := 0, beat := 0, body := .nak 3 }

/-- Facet 0 attests over lane 2. -/
def attesting : State :=
  ((State.reset.setFacet 0 fsAttest).onFacet 0 (fun x => { x with joined := 4, segs := [(1, [])] })).onOpt (optPortOf 0 2) (fun x => { x with ctrlIn := [attG] })

def openG : Grain := linkGrain 6 3 0 0 true (.openReq 2 0 0 3)

/-- The segments of an ATTEST message of zeros. -/
def allSegs : State :=
  { (attesting.setFld rSecBoot 2 2 0).setFld (rFacetCfg 0) 15 15 0 with
    facets := [(0, { joined := 4, nonce := [], segs := (List.range 667).map (fun i => (i, [])) })] }

theorem allSegs_segs : (allSegs.facet 0).segs = (List.range 667).map (fun i => (i, [])) := by
  simp only [allSegs, State.facet, mapGet, if_pos]

theorem allSegs_whole : (allSegs.facet 0).has 0 667 = true := by
  simp only [FacetRt.has, allSegs_segs, List.all_eq_true, List.any_eq_true, List.mem_map, List.mem_range, Nat.zero_add]
  exact fun i hi => ⟨(i, []), ⟨i, hi, rfl⟩, by simp⟩

theorem takeAt_zero {l : List Byte} (h : ∀ b ∈ l, b = 0) (o n : Nat) : ∀ b ∈ takeAt l o n, b = 0 := by
  intro b hb
  obtain ⟨i, -, rfl⟩ := List.mem_map.1 hb
  rw [List.getD_eq_getElem?_getD]
  cases hx : l[o + i]? with
  | none => rfl
  | some c => exact h c (List.mem_of_getElem? hx)

theorem allSegs_zero (f n len : Nat) : ∀ b ∈ (allSegs.facet 0).bytes f n len, b = 0 := by
  refine takeAt_zero (fun b hb => ?_) _ _
  obtain ⟨i, -, hb⟩ := List.mem_flatMap.1 hb
  refine takeAt_zero ?_ _ _ b hb
  rw [allSegs_segs]
  cases hx : ((List.range 667).map (fun i => (i, ([] : List Byte)))).find? (fun e => decide (e.1 = f + i)) with
  | none => simp
  | some e =>
    obtain ⟨j, -, rfl⟩ := List.mem_map.1 (List.mem_of_find?_eq_some hx)
    simp

theorem zeros_eq {l : List Byte} (h : ∀ b ∈ l, b = 0) : l = List.replicate l.length 0 := List.eq_replicate_iff.2 ⟨rfl, h⟩

/-- Where the signature engines accept, a whole message passes every step of the check. -/
theorem witness_FacetsComeUpAndFail_attested (hv : ∀ k m g, Config.mldsaVerify k m g = true) (hh : ∀ m, Config.sha3 m = 0) :
    allSegs.attestStep 0 = none := by
  have h1 : allSegs.noIdent = false := by decide +kernel
  have h2 : decide (allSegs.fld (rFacetCfg 0) 15 15 = 1) = false := by decide +kernel
  have h3 : leBytes 64 (0 : BitVec 512).toNat = List.replicate 64 0 := by decide +kernel
  have z := fun o n => takeAt_zero (allSegs_zero 2 499 13971) o n
  have h4 : ∀ o n, takeAt (takeAt ((allSegs.facet 0).bytes 2 499 13971) o n) 32 64 = List.replicate 64 0 := fun o n => by
    rw [zeros_eq (takeAt_zero (z o n) 32 64)]; simp [takeAt]
  have h5 : ∀ o n, leAt (takeAt ((allSegs.facet 0).bytes 2 499 13971) o n) 20 1 = 0 := fun o n => by
    unfold leAt; rw [zeros_eq (takeAt_zero (z o n) 20 1)]; simp [takeAt, leNat]
  simp only [State.attestStep, reportGood, hv, hh, h1, h2, h3, h4, h5, allSegs_whole]
  rfl

theorem witness_FacetsComeUpAndFail :
    (let s := State.reset
     s.Canonical ∧ s.fld (rFacetCfg 0) 0 0 = 0 ∧
       nx (exec (.facetCfgWrite 0 3) s) (fun s' => decide (s'.facetState 0 = fsTraining)) = true ∧
       nx (exec (.facetCfgWrite 0 0) (ring0.setReg (rFacetCfg 0) 3)) (fun s' => decide (s'.facetState 0 = 0)) = true) ∧
    (let s := (State.reset.setFacet 3 fsTraining).setReg (rFacetCfg 3) 0x7FFF
     s.facetState 3 = fsTraining ∧ (0x2001 : BitVec 14) &&& s.laneEn 3 ≠ 0 ∧ (0 : BitVec 14) &&& s.laneEn 3 = 0 ∧
       nx (exec (.facetTrainingDone 3 0x2001 0x10 7 4) s) (fun s' => decide (s'.facetState 3 = fsAttest ∧ s'.attestPort 3 = some (optPortOf 3 0) ∧
         (s'.opt (optPortOf 3 0)).ctrl.length = 501 ∧ s'.fld (rFacetStat 3) 33 20 = 0x10 ∧ s'.fld (rFacetStat 3) 59 52 = 7)) = true ∧
       nx (exec (.facetTrainingDone 3 0 0x10 7 4) s) (fun s' => decide (s'.facetState 3 = fsFailed)) = true) ∧
    (let s := attesting
     s.frozen = false ∧ s.facetState 0 = fsAttest ∧ s.attestPort 0 = some (optPortOf 0 2) ∧ (s.facet 0).has 0 2 = false ∧
       takeFirst (fun x => decide (x = attG)) (s.opt (optPortOf 0 2)).ctrlIn = some (attG, []) ∧
       nx (exec (.attest 0 attG) (s.setFld rSecBoot 2 2 1)) (fun s' => decide ((s'.facet 0).segs = [(1, []), (0, [1])])) = true ∧
       (s.setFld rSecBoot 2 2 1).attestStep 0 = some 3 ∧
       nx (exec (.facetAttestDone 0 none []) (s.setFld rSecBoot 2 2 1)) (fun s' => decide (s'.facetState 0 = fsDenied ∧
         s'.telem.alarms.map (fun r => r.code) = [9])) = true ∧
       (s.facet 0).has 0 667 = false ∧ allSegs.facetState 0 = fsAttest) ∧
    (let s := ring0.onOpt 0 (fun x => { x with replay := [frameOf .data 2, frameOf .data 3, frameOf .data 4], ctrlIn := [nakG] })
     takeFirst (fun x => decide (x = nakG)) (s.opt 0).ctrlIn = some (nakG, []) ∧
       nx (exec (.nak 0 nakG) s) (fun s' => decide ((s'.opt 0).resend = [frameOf .data 3, frameOf .data 4])) = true) ∧
    (ring0.portUp 0 = true ∧ ring0.frozen = false ∧
      nx (exec (.facetPortFail 0) ring0) (fun s' => decide (s'.portUp 0 = false ∧ s'.facetState 0 = fsFailed ∧
        s'.telem.alarms.map (fun r => r.code) = [1])) = true) ∧
    (let s := (plotted ring0).onOpt 0 (fun x => { x with rxbuf := [[dataG], [openG]] })
     takeOpen (s.opt 0).rxbuf = some (openG, [[dataG], []]) ∧ s.fenceState 0 = 0 ∧ s.phys 0 0 0 = some t0 ∧ s.phys 0 2 0 = none ∧
       nx (exec (.optRelayOpen 0 true) s) (fun s' => decide ((s'.opt 0).relays.map (fun r => (r.idx, r.site, r.mine)) = [(3, t0.key, false)])) = true ∧
       nx (exec (.optRelayOpen 0 true) (s.setFld (rRasPlot 0) 63 62 2)) (fun s' => decide ((s'.opt 0).relays = [])) = true) ∧
    (let g := mkGrain t0 (optSite 0) 6 5 0 true (.openReq 2 0 0 9)
     let s := (plotted ring0).onNi (optSite 0) (fun n => { n with inbox := [g] })
     takeFirst (fun y => ofKind 6 y) (s.ni (optSite 0)).inbox = some (g, []) ∧
       nx (exec (.optRelayOpen 0 false) s) (fun s' => decide ((s'.opt 0).req.map (fun g => g.kind.toNat) = [6])) = true ∧
       nx (exec (.optRelayOpen 0 false) (s.setFacet 0 5)) (fun s' => decide ((s'.ni (optSite 0)).outbox.map (fun g => g.body) =
         [.openR 9 (.refuse 5)])) = true) := by
  simp only [canon_iff]; decide +kernel

/-- A module in a cascade: the lead (ROLE 1) or a follower (ROLE 2), CASC_ID 5, in the ring's state st of c members. -/
def casc (role st c : Nat) : State :=
  ((((ring0.setFld rFacetCasc 1 0 role).setFld rFacetCasc 31 24 5).setFld rFacetCasc 63 60 st).setFld rFacetCasc 39 32 (c - 1)).setFld rFacetBeat 48 32 1000

/-- The body b has come round from upstream, naming beat n. -/
def heard (b : CtrlBody) (n : Nat) (s : State) : State := s.onCasc (fun c => { c with inbox := [(true, { pos := 2, beat := n, body := b })] })

/-- The event of a control grain. -/
def ringB (i : CtrlGrain → Instr) (b : CtrlBody) (n : Nat) (s : State) (p : State → Bool) : Bool :=
  let g : CtrlGrain := { pos := 2, beat := n, body := b }
  decide (((heard b n s).takeRing g).map (fun x => x.1) = some true) && nx (exec (i g) (heard b n s)) p

/-- A placement that holds a sequence slot on t0. -/
def placed0 : Placement :=
  { seq := 1, flags := 0, tiles := [t0.key], mirror := false, train := false, split := false, layers := [], kvb := 0, actb := 0, optb := 0, beatcyc := 0
    ntree := 0, kvslots := 1, slots := [0], trees := [], groups := [], recs := [], joins := [], spill := [], regions := [], missing := [], moved := false }

theorem witness_RingFormsAndBeats :
    (let s := casc 1 1 3
     s.Canonical ∧ s.frozen = false ∧ s.isLead = true ∧ s.cascState = 1 ∧ s.facetState 0 = fsUp ∧ s.facetState 4 = fsUp ∧ s.casc.formSent = none ∧
       nx (exec .formationStart s) (fun s' => decide (s'.casc.down.length = 1 ∧ s'.casc.formSent = some 0)) = true ∧
       nx (exec .formTimeout (s.onCasc (fun c => { c with formSent := some 7 }))) (fun s' => decide (s'.cascState = 4 ∧ s'.cycle = 150000007 ∧
         s'.fld rFacetCasc 59 56 = 3)) = true ∧
       nx (exec .markTimeout (casc 2 2 3)) (fun s' => decide (s'.cascState = 4 ∧ s'.fld rFacetCasc 59 56 = 5)) = true ∧
       nx (exec .beatTimer ((casc 1 2 3).onCasc (fun c => { c with running := true }))) (fun s' => decide (s'.beatNow = 1 ∧ s'.cycle = 64 ∧
         s'.casc.down.length = 1)) = true ∧
       nx (exec .beatTimer ((casc 1 2 3).onCasc (fun c => { c with running := true, slipDue := true }))) (fun s' =>
         decide (s'.fld rFacetBeat 16 0 = 0 ∧ s'.casc.slipBeat = some 1)) = true) ∧
    (ringB .form (.form 1 0 1) 0 (casc 0 0 1) (fun s' => decide (s'.casc.down = [])) = true ∧
      ringB .form (.form 1 15 1) 0 (casc 2 1 3) (fun s' => decide (s'.cascState = 4 ∧ s'.fld rFacetCasc 59 56 = 15)) = true ∧
      ringB .form (.form 1 2 1) 0 (casc 2 4 3) (fun s' => decide (s'.casc.down = [])) = true ∧
      ringB .form (.form 255 0 1) 0 (casc 2 1 3) (fun s' => decide (s'.myPos = 255)) = true ∧
      ringB .form (.form 1 0 32) 0 (casc 2 1 3) (fun s' => decide (s'.fld rFacetCasc 59 56 = 1)) = true ∧
      ringB .form (.form 1 0 1) 0 (casc 1 1 3) (fun s' => decide (s'.fld rFacetCasc 59 56 = 2)) = true ∧
      ringB .form (.form 256 0 32) 0 ((casc 1 1 1).onCasc (fun c => { c with formSent := some 0 })) (fun s' =>
        decide (s'.fld rFacetCasc 39 32 = 255 ∧ s'.fld rFacetCasc 55 48 = 5)) = true) ∧
    (ringB .roster (.roster 256 255 300) 0 (casc 2 1 1) (fun s' => decide (s'.cascState = 2 ∧ s'.fld rFacetCasc 55 48 = 255 ∧
        s'.fld rFacetCasc 39 32 = 255 ∧ s'.fld rFacetRing 63 32 = 300)) = true ∧
      ringB .roster (.roster 3 5 300) 0 (casc 2 2 1) (fun s' => decide (s'.casc.down = [])) = true ∧
      ringB .roster (.roster 3 5 300) 0 ((casc 1 1 3).onCasc (fun c => { c with rosterSent := true })) (fun s' =>
        decide (s'.cascState = 2 ∧ s'.fld rFacetBeat 16 0 = 1000 ∧ s'.casc.running = true)) = true) ∧
    (ringB .mark (.mark 1000 false) 9 (casc 2 1 3) (fun s' => decide (s'.beatNow = 0)) = true ∧
      ringB .mark (.mark 1000 true) 9 (casc 2 2 3) (fun s' => decide (s'.beatNow = 9 ∧ s'.fld rFacetBeat 16 0 = 1000)) = true ∧
      ringB .mark (.mark 1000 true) 9 (casc 1 2 3) (fun s' => decide (s'.beatNow = 0)) = true ∧
      ringB .mark (.mark 1000 true) 9 { (casc 1 2 3).onCasc (fun c => { c with markSent := [(9, 0)] }) with cycle := 300 } (fun s' =>
        decide (s'.fld rFacetRing 63 32 = 200 ∧ s'.casc.markSent = [])) = true) ∧
    (ringB .slipreq (.slipreq 3) 3 (casc 2 1 3) (fun s' => decide (s'.casc.down = [])) = true ∧
      ringB .slipreq (.slipreq 3) 3 (casc 2 2 3) (fun s' => decide (s'.casc.down.length = 1)) = true ∧
      ringB .slipreq (.slipreq 3) 3 (casc 1 3 3) (fun s' => decide (s'.casc.slipDue = true)) = true ∧
      ringB .bararr (.bararr 0 0) 3 (casc 2 2 3) (fun s' => decide (s'.casc.down.length = 1)) = true ∧
      ringB .bararr (.bararr 0 0) 3 (casc 1 2 1) (fun s' => decide (s'.casc.released = [(0, 0)] ∧ (s'.plot 0).barEpoch = 1)) = true ∧
      ringB .barrel (.barrel 0 255) 3 (casc 2 2 3) (fun s' => decide ((s'.plot 0).barEpoch = 0 ∧ s'.casc.down.length = 1)) = true ∧
      ringB .barrel (.barrel 0 0) 3 (casc 1 2 3) (fun s' => decide (s'.casc.down = [])) = true ∧
      ringB .checked (.checked 4 0) 3 (casc 2 2 3) (fun s' => decide (s'.casc.down.length = 1)) = true ∧
      ringB .checked (.checked 4 0) 3 (casc 1 2 3) (fun s' => decide (s'.casc.checked = [(4, [2])])) = true ∧
      ringB .commitGrain (.commit 6 4) 3 (casc 2 2 3) (fun s' => decide (s'.casc.commitBeat = [(6, 4)])) = true ∧
      ringB .commitGrain (.commit 6 4) 3 (casc 1 2 3) (fun s' => decide (s'.casc.commitBeat = [])) = true) ∧
    (State.reset.casc.commitBeat = [] ∧ (List.range 64).all (fun p => !State.reset.holdsSlots p) = true ∧
      (State.reset.takeMark (2 ^ 32 - 1) (2 ^ 17 - 1) true).fld rFacetBeat 16 0 = 2 ^ 17 - 1) ∧
    (let s := { plotted (casc 1 2 2) with svc := [(t0, .groupComplete 15)] }
     s.plotOf t0 = some 0 ∧ s.lagOf 0 = 0 ∧ nx (exec (.beatGroupComplete 0) s) (fun s' => decide ((s'.plot 0).beatDone = true)) = true ∧
       nx (exec (.beatGroupComplete 0) { s with svc := [(t0, .groupComplete 14)] }) (fun s' => decide (s'.casc.arrivals = [(0, 0, [0])])) = true) ∧
    (let s := { plotted (casc 1 2 2) with svc := [(t0, .groupComplete 15)] }.onPlot 0 (fun x => { x with
       placed := some placed0, begun := 1, marks := 2, run := some { seq := 1, args := [], reports := [], keep := false } })
     s.inBeats 0 = true ∧ 0 < s.lagOf 0 ∧ nx (exec (.beatGroupComplete 0) s) (fun s' => decide ((s'.plot 0).begun = 2)) = true) := by
  simp only [canon_iff]; decide +kernel

/-! ### The host -/

/-- A device in service: the link of port 0 is up, queue 0 is a plot's, queue 1 the device's. -/
def serving : State :=
  (((State.reset.setFld rSecBoot 7 4 8).setFld (rHostPortStat 0) 0 0 1).setFld (rHostQcfg 0) 1 0 1).setFld (rHostQcfg 1) 1 0 3

/-- A command of op with npart parts and that body. -/
def hc (op np : Nat) (body : List Byte) : HostCmd :=
  { seq := 16, op := op, timeout := 1, cookie := 7, npart := np, flags := 0, port := 0, body := body, started := false, part := 0
    codes := [], data := [], stop := none }

def queued (q : Nat) (c : HostCmd) (s : State) : State := s.onHostq q (fun h => { h with cmds := [c] })

/-- The command stands alone at its queue of a serving device changed by f, is served, and its row answers a next state with p. -/
def servedAt (i : Instr) (q : Nat) (c : HostCmd) (f : State → State) (p : State → Bool) : Bool :=
  let s := queued q c (f serving)
  decide (s.command q c.op = some c) && decide (s.refusedCmd q c = none) && !s.fenceStops q c && nx (exec i s) p

/-- The STATUS of the latest completion of a queue. -/
def lastSt (s : State) (q : Nat) : Option Nat := (s.hostq q).done.getLast?.map (fun d => d.status)

/-- A COMMAND frame for queue q with this number. -/
def cmdFrame (q op n np flags : Nat) (body : List Byte) : List Byte :=
  leBytes 2 0x5648 ++ [1, 1] ++ leBytes 1 q ++ leBytes 1 op ++ leBytes 2 body.length ++ leBytes 4 n ++ leBytes 4 1 ++ leBytes 8 7 ++
    leBytes 2 0 ++ leBytes 1 np ++ leBytes 1 flags ++ leBytes 4 0 ++ body

def e0 : Ether := { port := 0, secure := false, vlan := none, size := 100, plain := true }

/-- Context 0 is READY for plot 0, with key 5 and the tile (0, 0) of the plot as its target. -/
def readyQp (s : State) : State := (s.setFld (rHostQp 0 0) 63 60 9).setFld (rHostQp 0 1) 63 32 5

/-- An afterimage of a device that nothing had changed. -/
def snap0 : AiSnap :=
  { cause := 5, cycle := 0, sites := 0, lost := 0, sreg := [], shown := [], tiles := [], routers := [], repair := Repair.empty, plots := [], alarms := []
    events := [], noIdent := false, service := false }

theorem witness_HostCommandsAreAnswered :
    ((serving.Canonical) ∧ e0.port < 2 ∧ serving.linkOn e0.port = true ∧ serving.takes e0 = true ∧ serving.stage = 8 ∧
      (let pay := cmdFrame 0 3 0 0 0 (leBytes 16 0)
       serving.frameGood pay = true ∧ isResync (frameCmd pay 0) = false ∧ (frameCmd pay 0).seq = serving.expSeq 0 ∧
         nx (exec (.vhcpCommandArrival e0 pay) serving) (fun s' => decide (s'.expSeq 0 = 1 ∧ (s'.hostq 0).cmds.length = 1 ∧ s'.out.length = 1)) = true ∧
         (let s := serving.onHostq 0 (fun h => { h with cmds := List.replicate 32 (hc 3 0 []) })
          nx (exec (.vhcpCommandArrival e0 pay) s) (fun s' => decide (s'.expSeq 0 = 0 ∧ (s'.hostq 0).cmds.length = 32)) = true) ∧
         (let s := (serving.setFld (rHostQstat 0) 63 32 64).onHostq 0 (fun h => { h with done := [{ seq := 0, status := 0, frame := [9] }] })
          nx (exec (.vhcpCommandArrival e0 pay) s) (fun s' => decide (s'.out = [.frame 0 [9]])) = true) ∧
         (let s := serving.setFld (rHostQstat 0) 63 32 65
          nx (exec (.vhcpCommandArrival e0 pay) s) (fun s' => decide (s'.expSeq 0 = 65 ∧ (s'.hostq 0).cmds = [])) = true) ∧
         nx (exec (.vhcpCommandArrival { e0 with vlan := some 3 } pay) serving) (fun s' => decide (s'.fld (rHostPortStat 0) 63 32 = 1)) = true)) ∧
    (let s := queued 0 (hc 12 0 (leBytes 16 0)) serving
     s.refusedCmd 0 (hc 12 0 (leBytes 16 0)) = some (stPerm, 0) ∧ go (exec (.recover 0) s) = true) ∧
    (servedAt (.regRead 1) 1 (hc 9 2 (leBytes 8 rThmCfg ++ leBytes 8 3)) id (fun s' => decide (((s'.hostq 1).cmds.map (fun c => (c.codes, c.data))) =
        [([0], leBytes 8 (serving.readReg rThmCfg).toNat)])) = true ∧
      servedAt (.regRead 0) 0 (hc 9 2 (leBytes 8 rThmCfg ++ leBytes 8 3)) id (fun s' => decide ((s'.hostq 0).cmds.map (fun c => c.codes) = [[stPerm]])) = true ∧
      servedAt (.regWrite 1) 1 (hc 10 1 (leBytes 8 rPwrCapSet ++ leBytes 8 5000)) id (fun s' =>
        decide (s'.fld rPwrCapSet 15 0 = 5000 ∧ lastSt s' 1 = some stOk)) = true ∧
      servedAt (.regWrite 1) 1 (hc 10 1 (leBytes 8 rFacetBeat ++ leBytes 8 5)) id (fun s' => decide (lastSt s' 1 = some stPartial)) = true) ∧
    (servedAt (.query 0) 0 (hc 8 0 (leBytes 8 0)) id (fun s' => decide (lastSt s' 0 = some stOk)) = true ∧
      servedAt (.query 0) 0 (hc 8 0 (leBytes 4 4 ++ leBytes 4 8)) id (fun s' => decide (lastSt s' 0 = some stState)) = true ∧
      servedAt (.query 0) 0 (hc 8 0 (leBytes 4 4 ++ leBytes 4 2)) (fun s => s.onHostq 0 (fun h => { h with report := some [1, 2, 3] }))
        (fun s' => decide (lastSt s' 0 = some stOk)) = true) ∧
    (servedAt (.dumpFetch 1) 1 (hc 11 1 (leBytes 32 0)) id (fun s' => decide (lastSt s' 1 = some stPartial)) = true ∧
      servedAt (.dumpFetch 1) 1 (hc 11 1 (leBytes 8 0x2000 ++ leBytes 8 1 ++ leBytes 8 0 ++ leBytes 4 0 ++ leBytes 4 0x100)) (fun s => { readyQp (s.setFld rRasAi 63 63 1) with
        ai := some snap0 }) (fun s' => decide (s'.rdma.map (fun r => (r.queue, r.write, r.off, r.len)) = [(1, true, 0x2000, 1)])) = true) ∧
    (servedAt (.recover 1) 1 (hc 12 0 (leBytes 8 5 ++ leBytes 8 3 ++ [1])) id (fun s' => decide (lastSt s' 1 = some stBadop)) = true ∧
      servedAt (.recover 1) 1 (hc 12 0 (leBytes 8 0 ++ leBytes 8 3 ++ [1])) (fun s => s.setFld rSecBoot 7 4 9) (fun s' =>
        decide (lastSt s' 1 = some stOk ∧ s'.boot.delivery.map (fun d => d.got) = some [(0, 1)])) = true ∧
      servedAt (.recover 1) 1 (hc 12 0 (leBytes 8 1 ++ leBytes 8 3 ++ [1])) (fun s => { s with
        boot := { s.boot with delivery := some { queue := 1, total := 3, extents := [], got := [(0, 1)], cells := [] } } }) (fun s' =>
        decide (lastSt s' 1 = some stOk ∧ s'.boot.delivery.map (fun d => d.got) = some [(0, 2)])) = true) ∧
    (let s := { serving with boot := { serving.boot with writing := some { queue := 1, kind := 0, obj := [] } } }
     (s.hostq 1).front = none ∧ nx (exec (.flashWriteDone false) s) (fun s' => decide (s'.fld rSecRecov 7 4 = 0xE ∧ s'.boot.writing.isNone = true)) = true) := by
  simp only [canon_iff]; decide +kernel

def item1 (item p v : Nat) : List Byte := leBytes 4 7 ++ leBytes 1 item ++ leBytes 1 p ++ leBytes 2 0 ++ leBytes 8 v

/-- Set 7 of queue o in slot 0. -/
def set7 (o state : Nat) (l : List ShadowItem) : ShadowSet :=
  { num := 7, owner := o, state := state, code := 0, items := l, whenKind := 0, instant := 0, want := 0, named := 0, sent := false }
def it1 (item p v : Nat) : ShadowItem := { item := item, plot := p, value := BitVec.ofNat 64 v }
def withSet (x : ShadowSet) (s : State) : State := s.putSet 0 x

/-- What the one part of a STAGE answers. -/
def stageCode (q : Nat) (b : List Byte) (f : State → State) : Nat := ((queued q (hc 4 1 b) (f serving)).stagePart q (hc 4 1 b) 0).1

def full : State → State := fun s => (List.range 8).foldl (fun s k => s.putSet k { set7 1 0 [] with num := 100 + k }) s

theorem witness_ShadowSetsCommit :
    (servedAt (.hostStage 0) 0 (hc 4 1 (item1 1 0 1)) id (fun s' => decide ((s'.setAt 0).map (fun x => x.items) = some [it1 1 0 1] ∧ lastSt s' 0 = some stOk)) = true ∧
      stageCode 0 (item1 1 0 2) id = stBadop ∧ stageCode 0 (item1 0x10 0 0) id = stPerm ∧ stageCode 0 (item1 1 1 0) id = stPerm ∧
      stageCode 0 (item1 1 0 0) (withSet (set7 1 0 [])) = stPerm ∧ stageCode 0 (item1 1 0 0) (withSet (set7 0 3 [])) = stState ∧
      stageCode 0 (item1 0 0 0) (withSet (set7 0 0 [])) = stOk ∧ stageCode 0 (item1 1 0 0) (withSet (set7 0 0 [it1 1 0 1])) = stOk ∧
      stageCode 0 (item1 1 0 0) full = stNospace) ∧
    (servedAt (.check 0) 0 (hc 5 0 (leBytes 4 7)) id (fun s' => decide (lastSt s' 0 = some stRefused)) = true ∧
      servedAt (.check 0) 0 (hc 5 0 (leBytes 4 7)) (withSet (set7 0 0 [it1 1 0 1])) (fun s' => decide (lastSt s' 0 = some stOk ∧
        (s'.setAt 0).map (fun x => x.state) = some 1)) = true ∧
      servedAt (.check 0) 0 (hc 5 0 (leBytes 4 7)) (withSet (set7 0 0 [it1 9 0 1])) (fun s' => decide (lastSt s' 0 = some stRefused ∧
        (s'.setAt 0).map (fun x => (x.state, x.code)) = some (2, 8))) = true ∧
      servedAt (.check 0) 0 (hc 5 0 (leBytes 4 7)) (withSet (set7 0 0 [it1 0x11 0 1])) (fun s' => decide (lastSt s' 0 = some stPerm)) = true) ∧
    (servedAt (.commit 0) 0 (hc 6 0 (leBytes 4 7 ++ leBytes 12 0)) id (fun s' => decide (lastSt s' 0 = some stRefused)) = true ∧
      servedAt (.commit 0) 0 (hc 6 0 (leBytes 4 7 ++ leBytes 12 0)) (withSet (set7 0 0 [it1 1 0 1])) (fun s' => decide (lastSt s' 0 = none ∧
        (s'.setAt 0).map (fun x => x.state) = some 3 ∧ s'.fld (rPlotMode 0) 7 7 = 1)) = true ∧
      servedAt (.commit 0) 0 (hc 6 0 (leBytes 4 7 ++ leBytes 12 2)) (withSet (set7 0 0 [it1 1 0 1])) (fun s' => decide (lastSt s' 0 = some stRefused ∧
        (s'.setAt 0).map (fun x => (x.state, x.code)) = some (2, 10))) = true ∧
      servedAt (.commit 0) 0 (hc 6 0 (leBytes 4 7 ++ leBytes 12 0)) (withSet (set7 0 0 [it1 0x11 0 1])) (fun s' => decide (lastSt s' 0 = some stPerm)) = true) ∧
    (let armed := fun (w n : Nat) => withSet { set7 0 3 [it1 1 0 1] with want := w, named := n } serving
     nx (exec (.commitAcksComplete 0) (armed 0 0)) (fun s' => decide ((s'.setAt 0).map (fun x => (x.sent, x.instant)) = some (true, 2048))) = true ∧
       nx (exec (.commitAcksComplete 0) (armed 1 2048)) (fun s' => decide ((s'.setAt 0).map (fun x => x.instant) = some 2048)) = true ∧
       nx (exec (.commitAcksComplete 0) (armed 1 2047)) (fun s' => decide ((s'.setAt 0).map (fun x => (x.state, x.code)) = some (2, 11))) = true ∧
       nx (exec (.commitAcksComplete 0) (queued 0 (hc 6 0 (leBytes 4 7 ++ leBytes 12 1)) (armed 1 2047))) (fun s' => decide (lastSt s' 0 = some stRefused)) = true) ∧
    (let s := withSet { set7 1 3 [it1 0x11 0 2] with whenKind := 1, instant := 2048, sent := true } serving
     (set7 1 3 [it1 0x11 0 2]).mask = [] ∧ s.commitOf { set7 1 3 [it1 0x11 0 2] with whenKind := 1, instant := 2048, sent := true } = none ∧
       nx (exec (.commitInstant 0) s) (fun s' => decide (s'.fld rShadowDev 3 2 = 2 ∧ s'.cycle = 2048 ∧ s'.shadow = [] ∧ s'.fld rShadowLast 63 32 = 7)) = true) ∧
    ((serving.applyItem (it1 1 63 1)).fld (rPlotMode 63) 0 0 = 1 ∧ (serving.applyItem (it1 6 0 1)).fld (rPlotMode 0) 5 5 = 1 ∧
      (serving.applyItem (it1 7 0 99)).reg (rPlotSeed 0) = 99 ∧ (serving.applyItem (it1 0x13 0 1)).fld rShadowDev 6 6 = 1 ∧
      (serving.applyItem (it1 0x14 0 125000)).fld rFacetBeat 48 32 = 125000) := by
  decide +kernel

/-! ### Plots -/

/-- A package of one layer with one role and no payload, with FLAGS f and a payload digest of 0. -/
def pkgImage (f : Nat) : List Byte :=
  leBytes 4 0x31474B50 ++ leBytes 2 1 ++ leBytes 2 1 ++ leBytes 4 0 ++ leBytes 4 f ++ leBytes 48 0 ++ leBytes 64 0 ++ leBytes 64 1

/-- A plot of one tile and one spill site, the package staged in the tile's column. -/
def tp : Site := ⟨126, 132⟩
def rectP (s : State) : State := s.setReg (rPlotRect 0) (BitVec.ofNat 64 (2 ^ 63 + 126 + 132 * 2 ^ 9 + 127 * 2 ^ 18 + 132 * 2 ^ 27))
def pkg0 : Package := { size := 192, extents := [{ site := tp.key, off := 0x10000 }], written := [(0, 192)] }
def loaded (f : Nat) : State :=
  (((rectP serving).onPlot 0 (fun x => { x with pkg := some pkg0 })).setBytes (loamAddr tp 0x10000) (pkgImage f)).setPlace 0 1

/-- What judges a package but for its digest. -/
theorem loaded_sound (hh : ∀ m, Config.sha3 m = 0) : (loaded 0).formatBad pkg0 = false ∧ (loaded 1).formatBad pkg0 = false := by
  unfold State.formatBad State.headerBad
  simp only [hh]
  decide +kernel

theorem loaded_pkg : ((loaded 0).plot 0).pkg = some pkg0 ∧ ((loaded 1).plot 0).pkg = some pkg0 ∧ (loaded 1).modeMissing 0 ((loaded 1).header pkg0).flags = true ∧
    pkg0.whole = true := by decide +kernel

/-- Where the digest agrees, the plan stands, and its regions move. -/
theorem witness_PlotsArePlacedAndRun_judged (hh : ∀ m, Config.sha3 m = 0) :
    (match (loaded 0).judgePlace 0 16 with
      | .ok pl => decide (pl.tiles = [tp.key]) && ((loaded 0).movesOf 0 pl).isSome
      | .error _ => false) = true := by
  unfold State.judgePlace State.planned
  simp only [loaded_pkg.1, (loaded_sound hh).1]
  decide +kernel

/-- The placement of that plan. -/
def plan0 : Placement :=
  { placed0 with
    tiles := [tp.key], kvslots := 0, slots := [], spill := [(({ px := 127, py := 132 } : Site).key, 0)]
    layers := [(loaded 0).layerRec pkg0 0] }

def placedP (st : Nat) : State := ((rectP serving).onPlot 0 (fun x => { x with placed := some plan0 })).setPlace 0 st
def runP : RunSt := { seq := 3, args := [], reports := [], keep := false }
def runningP (s : State) : State := s.onPlot 0 (fun x => { x with run := some runP })
def finished (s : State) : State := (s.onTile tp (fun x => { x with power := .active })).onCore tp (fun c => { c with run := .finished })

/-- An ABORT of command 3, behind the commands d and the completions l. -/
def ab (d : List HostCmd) (l : List Completion) (f : State → State) : State :=
  (f (placedP 3)).onHostq 0 (fun h => { h with cmds := d ++ [{ hc 7 0 (leBytes 4 3) with seq := 20 }], done := l })
def run3 : HostCmd := { hc 3 0 (leBytes 16 0) with seq := 3 }

theorem witness_PlotsArePlacedAndRun :
    (servedAt (.place 0) 0 (hc 2 0 []) rectP (fun s' => decide (lastSt s' 0 = some stRefused)) = true ∧
      servedAt (.place 0) 0 (hc 2 0 []) (fun s => (rectP s).onPlot 0 (fun x => { x with placing := some plan0 })) (fun s' =>
        decide (lastSt s' 0 = some stRefused ∧ (s'.plot 0).placing = none)) = true ∧
      (let k : Package := { size := 10, extents := [], written := [(0, 10)] }
       k.whole = true ∧ (rectP serving).formatBad k = true) ∧
      (let s := ((rectP serving).onPlot 0 (fun x => { x with placing := some { plan0 with moved := true } })).setPlace 0 2
       s.placeState 0 = 2 ∧ (s.plot 0).placing = some { plan0 with moved := true } ∧ go (exec (.placementCommit 0) s) = true)) ∧
    (let s := placedP 4
     s.fenceState 0 = 0 ∧ s.zeroing = [] ∧ s.tablesDue = false ∧ go (exec (.replacement 0) s) = true ∧
       (match s.rebound 0 plan0 with | .ok pl => decide ((s.copyRegions 0 plan0 pl).2.missing = []) | .error _ => false) = true ∧
       (let r : Region := { kind := 0, layer := 0, tile := 0, pkgOff := 0, len := 0, site := 0, loam := 0, digest := 0 }
        let lost := { plan0 with tiles := [tp.key], regions := [{ r with site := tp.key }] }
        let s := { (placedP 4).onPlot 0 (fun x => { x with placed := some lost }) with repair := { Repair.empty with retiredFields := [tp.field] } }
        errorIs ((s.rebound 0 lost).mapError (fun r => r.code)) reTiles = true ∧
          nx (exec (.replacement 0) s) (fun s' => decide (s'.placeState 0 = 6)) = true)) ∧
    (servedAt (.run 0) 0 (hc 3 0 (leBytes 16 9)) rectP (fun s' => decide (lastSt s' 0 = some stState)) = true ∧
      servedAt (.run 0) 0 (hc 3 0 (leBytes 16 9)) (fun _ => runningP (placedP 3)) (fun s' => decide (lastSt s' 0 = some stState)) = true ∧
      servedAt (.run 0) 0 (hc 3 0 (leBytes 16 9)) (fun _ => (placedP 3).setFld rPwrSupply 1 1 1) (fun s' => decide ((s'.hostq 0).cmds.map (fun c => c.started) = [true])) = true ∧
      servedAt (.run 0) 0 (hc 3 0 (leBytes 16 9)) (fun _ => (placedP 3).onTile tp (fun x => { x with power := .active })) (fun s' =>
        decide ((s'.plot 0).run.map (fun r => r.args) = some [9, 0, 0, 0] ∧ s'.fld (rPwrPlot 0) 23 20 = 15)) = true) ∧
    (let s := { finished (runningP (placedP 3)) with svc := [(tp, .frameReport none)] }
     s.plotOf tp = some 0 ∧ nx (exec .frameReport s) (fun s' => decide ((s'.plot 0).run = none)) = true ∧
       nx (exec .frameReport { placedP 3 with svc := [(t0, .frameReport none)] }) (fun s' => decide (s'.svc = [])) = true ∧
       nx (exec .frameReport { runningP (placedP 3) with svc := [(tp, .frameReport none)] }) (fun s' => decide ((s'.plot 0).run.isSome = true)) = true) ∧
    (let r := { runP with reports := [(tp.key, some 1)] }
     let s := ((finished (placedP 3)).onCore tp (fun c => { c with staged := { c.staged with frame := some 1 } })).onPlot 0 (fun x => { x with run := some r })
     s.allFinished 0 r = true ∧ s.frameStaged 0 = true ∧ nx (exec (.layerAdvance 0) s) (fun s' => decide (s'.cycle = 2048 ∧ (s'.plot 0).run = none)) = true ∧
       (let z := (finished (placedP 3)).onPlot 0 (fun x => { x with run := some r })
        z.allFinished 0 r = true ∧ z.frameStaged 0 = false ∧ nx (exec (.layerAdvance 0) z) (fun s' => decide ((s'.plot 0).run = none)) = true)) ∧
    (let s := (runningP (placedP 3)).onPlot 0 (fun x => { x with draining := true })
     (s.usable 0).all (fun t => s.drained t) = true ∧ s.usable 0 = [tp] ∧ nx (exec (.plotDrained 0) s) (fun s' => decide ((s'.plot 0).run = none)) = true) ∧
    (nx (exec (.abort 0) (ab [] [{ seq := 3, status := 6, frame := [0, 0, 0, 0, 0, 3] }] id)) (fun s' => decide (lastSt s' 0 = some stAlready)) = true ∧
       nx (exec (.abort 0) (ab [] [{ seq := 3, status := 6, frame := [0, 0, 0, 0, 0, 8] }] id)) (fun s' => decide (lastSt s' 0 = some stBadop)) = true ∧
       nx (exec (.abort 0) (ab [] [] id)) (fun s' => decide (lastSt s' 0 = some stNotfound)) = true ∧
       nx (exec (.abort 0) (ab [{ run3 with op := 8 }] [] id)) (fun s' => decide (lastSt s' 0 = some stBadop)) = true ∧
       nx (exec (.abort 0) (ab [run3] [] id)) (fun s' => decide ((s'.hostq 0).done.map (fun d => d.status) = [stAborted, stOk])) = true ∧
       nx (exec (.abort 0) (ab [{ run3 with started := true }] [] runningP)) (fun s' => decide ((s'.plot 0).draining = true)) = true) ∧
    (let s := queued 0 { hc 3 0 (leBytes 16 0) with started := true, seq := 3 } (runningP (placedP 3))
     s.timed 0 = (s.hostq 0).front ∧ nx (exec (.commandTimeout 0) s) (fun s' => decide (s'.fenceState 0 = 1)) = true ∧
       nx (exec (.commandTimeout 1) (queued 1 { hc 11 1 (leBytes 32 0) with started := true } serving)) (fun s' => decide (lastSt s' 1 = some stTimeout)) = true) := by
  decide +kernel

/-! ### RoCEv2 and loads -/

/-- A serving device with a plot on t0 and t1 and its context READY. -/
def qp0 : State := (readyQp (plotted serving)).onTile t0 (fun x => { x with power := .active })

/-- A virtual address of tile (0, 0): window w, offset o. -/
def va (w o : Nat) : Dword := BitVec.ofNat 64 (w * 2 ^ 60 + o)

/-- A request in flight of queue q. -/
def req0 (q : Nat) (w : Bool) (tries : Nat) : Rdma :=
  { queue := q, write := w, off := 0, len := 2, qp := 0, tries := tries, msg := .rdmaRead 0x100 0 0 2 }
def asked (q : Nat) (w : Bool) (tries : Nat) (c : HostCmd) : State := { queued q c qp0 with rdma := [req0 q w tries] }

/-- A LOAD_PACKAGE of one part of n bytes at off under MODE m, and the plot's package. -/
def load (m off n : Nat) : HostCmd :=
  hc 1 1 (leBytes 8 192 ++ leBytes 8 m ++ leBytes 8 off ++ leBytes 8 n ++ leBytes 8 0 ++ leBytes 4 0 ++ leBytes 4 0x100)
def hasPkg (s : State) : State := s.onPlot 0 (fun x => { x with pkg := some { pkg0 with written := [] } })

theorem witness_HostTransfersAndLoads :
    (let s := qp0
     s.Canonical ∧ s.Admits e0 0x100 0 ∧ s.hostWindow 0 5 (va 2 0x5FFFE) 2 = some (t0, .store 0x5FFFE) ∧
       s.hostWindow 0 5 (va 1 0x5FFFFFE) 2 = some (t0, .loam 0x5FFFFFE) ∧
       s.hostWindow 0 5 (va 1 0x5FFFFFF) 2 = none ∧ s.hostWindow 0 6 (va 2 0) 2 = none ∧ s.hostWindow 0 5 (va 3 0) 2 = none ∧
       nx (exec (.roceWrite e0 0x100 5 (va 2 0x5FFFE) [7, 8]) s) (fun s' => decide (s'.bytes (storeAddr t0 0x5FFFE) 2 = [7, 8] ∧
         s'.out = [.ack 0 0x100] ∧ s'.fld (rHostQp 0 2) 23 0 = 1)) = true ∧
       nx (exec (.roceWrite e0 0x100 5 (va 1 0) [7, 8]) s) (fun s' => decide (s'.bytes (loamAddr t0 0) 2 = [7, 8])) = true ∧
       eqs (exec (.roceWrite e0 0x100 6 (va 2 0) [7]) s) { s with out := [.nak 0 0x100] } = true ∧
       s.firstUe t0 0 2 = none ∧ (s.hostPort 0).paused = false ∧
       nx (exec (.roceRead e0 0x100 5 (va 2 0) 2) s) (fun s' => decide (s'.out = [.readData 0 0x100 [0, 0]])) = true ∧
       nx (exec (.roceRead e0 0x100 5 (va 1 0) 2) s) (fun s' => decide (s'.out = [.readData 0 0x100 [0, 0]])) = true ∧
       nx (exec (.roceRead e0 0x100 6 (va 1 0) 2) s) (fun s' => decide (s'.out = [.nak 0 0x100])) = true ∧
       eqs (exec (.roceRead e0 0x500 5 (va 1 0) 2) s) (s.bump (rHostPortStat 0) 63 32 1) = true ∧
       s.phys 0 (s.fld (rHostQp 0 2) 48 40) (s.fld (rHostQp 0 2) 57 49) = some t0 ∧ s.hostRing t0 = none ∧
       eqs (exec (.roceSend e0 0x100 [1]) s) s = true ∧
       nx (exec (.roceSend e0 0x100 [1]) (s.setFld (rRasPlot 0) 63 62 1)) (fun s' => decide (s'.out = [.nak 0 0x100])) = true) ∧
    (let s := qp0.setCreg t0 (aNiPort 3) (portCfg 2 0 0 0 0)
     s.hostRing t0 = some 3 ∧ (s.hostMessage t0 3 0 [1]).isSome = true ∧
       nx (exec (.roceSend e0 0x100 [1]) s) (fun s' => decide (s'.out = [.ack 0 0x100])) = true) ∧
    (nx (exec .cnpReceive qp0) (fun s' => decide (s'.cnpRate = 2 ^ 39)) = true ∧ nx (exec .cnpRateRecovery qp0) (fun s' => decide (s'.cnpRate = 2 ^ 40)) = true) ∧
    (qp0.fld (rHostQp 0 0) 63 63 = 1 ∧ eqs (exec (.hostQpW0Write 0 0x8000000000000000) qp0) qp0 = true ∧
      nx (exec (.hostQpW0Write 0 0) qp0) (fun s' => decide (s'.qpState 0 = 0)) = true ∧
      qp0.fld (rHostQp 1023 0) 63 63 = 0 ∧
      nx (exec (.hostQpW0Write 1023 0x8020000000000000) qp0) (fun s' => decide (s'.qpState 1023 = 1)) = true ∧
      nx (exec (.hostQpW0Write 1023 0x8030000000000000) qp0) (fun s' => decide (s'.qpState 1023 = 2)) = true) ∧
    (nx (exec (.qpRetryTimeout 0) (asked 0 false 6 (load 0 0 2))) (fun s' => decide (s'.rdma.map (fun r => r.tries) = [7])) = true ∧
      nx (exec (.qpRetryTimeout 0) (asked 0 false 7 (load 0 0 2))) (fun s' => decide (s'.rdma = [] ∧ s'.qpState 0 = 2 ∧ lastSt s' 0 = some stPartial)) = true ∧
      nx (exec (.qpRetryTimeout 0) ((asked 0 false 6 (load 0 0 2)).setFld (rHostQp 0 0) 62 60 2)) (fun s' => decide (s'.rdma = [])) = true) ∧
    (nx (exec (.rdmaReadResponse 0 [1, 2]) (hasPkg (asked 0 false 0 (load 1 0 2)))) (fun s' => decide (s'.bytes (loamAddr tp 0x10000) 2 = [1, 2] ∧
        lastSt s' 0 = some stOk)) = true ∧
      nx (exec (.rdmaReadResponse 0 []) (hasPkg (asked 0 false 0 (load 1 0 2)))) (fun s' => decide (s'.rdma = [] ∧
        lastSt s' 0 = some stPartial)) = true ∧
      nx (exec (.rdmaWriteAck 1) (asked 1 true 0 (hc 11 1 (leBytes 32 0)))) (fun s' => decide (lastSt s' 1 = some stOk)) = true) ∧
    (let sv := fun (c : HostCmd) (f : State → State) (p : State → Bool) => servedAt (.loadPackage 0) 0 c (fun _ => f qp0) p
     sv (load 1 190 2) hasPkg (fun s' => decide (s'.rdma.map (fun r => (r.off, r.len)) = [(190, 2)])) = true ∧
       sv (load 1 191 2) hasPkg (fun s' => decide (lastSt s' 0 = some stPartial)) = true ∧
       sv (load 1 0 2) id (fun s' => decide (lastSt s' 0 = some stState)) = true ∧
       sv { load 1 0 2 with part := 1, npart := 2, started := true, codes := [0], body := (load 1 0 2).body ++ (load 1 0 2).body.drop 16 } hasPkg
         (fun s' => decide (s'.rdma.length = 1)) = true ∧
       sv (load 0 0 2) (fun s => s.setPlace 0 2) (fun s' => decide (lastSt s' 0 = some stState)) = true ∧
       sv (load 0 0 2) hasPkg (fun s' => decide ((s'.plot 0).pkg = none ∧ s'.placeState 0 = 0)) = true) := by
  simp only [canon_iff, admits_iff]; decide +kernel

/-! ### Clocks, supply and heat -/

def refclk : State := (State.reset.setFld rClkRef 5 4 2).setFld (rClkMuxStat 0) 15 8 2

/-- Field 27 in a state, its PLL at an operating point. -/
def field27 (st op : Nat) (g : FieldRt → FieldRt) : State :=
  ((State.reset.setFld (rPwrField 27) 27 26 st).setFld (rClkField 27) 4 3 op).onField 27 g

theorem witness_ClocksFollowTheirRules :
    (refclk.Canonical ∧ refclk.refSrc = .refclk ∧
      nx (exec (.refMonitorWindow .refclk 973 false) refclk) (fun s' => decide (s'.fld rClkRef 6 6 = 1 ∧ s'.fld rClkRef 47 32 = 973)) = true ∧
      nx (exec (.refMonitorWindow .refclk 1076 false) refclk) (fun s' => decide (s'.refSrc = .rc ∧ s'.fld rClkRef 7 7 = 1 ∧ s'.refmon.failed = some .refclk)) = true ∧
      nx (exec (.refMonitorWindow .refclk 1000 true) refclk) (fun s' => decide (s'.refSrc = .rc)) = true ∧
      nx (exec .referenceEdgeGap refclk) (fun s' => decide (s'.refSrc = .rc ∧ s'.fld (rClkMuxStat 0) 7 4 = 1)) = true) ∧
    (let s := { State.reset with refmon := { failed := some .crystal, goodRuns := 1023 } }
     s.refSrc ≠ .crystal ∧ nx (exec (.refMonitorWindow .crystal 1075 false) s) (fun s' => decide (s'.refmon.goodRuns = 1024 ∧ s'.fld rClkRef 6 6 = 1)) = true ∧
       nx (exec (.refMonitorWindow .crystal 972 false) s) (fun s' => decide (s'.refmon.goodRuns = 0 ∧ s'.fld rClkRef 6 6 = 0)) = true) ∧
    (let s := field27 0 1 id
     Config.fieldPresent 27 = true ∧ s.fld (rClkField 27) 6 6 = 0 ∧ s.fieldState 27 = 0 ∧
       nx (exec (.pllCoast 27) s) (fun s' => decide (s'.fld (rClkField 27) 7 5 = 7 ∧ (s'.fieldRt 27).pllTo = some 2)) = true ∧
       nx (exec (.pllCoast 27) (field27 1 0 (fun r => { r with pllTo := some 1 }))) (fun s' => decide ((s'.fieldRt 27).pllTo = some 2)) = true ∧
       nx (exec (.pllRelock 27) ((field27 0 2 id).setFld (rClkField 27) 6 6 1)) (fun s' => decide (s'.fld (rClkField 27) 6 6 = 0 ∧
         (s'.fieldRt 27).pllTo = some 1)) = true ∧
       eqs (exec (.pllRelock 27) ((field27 1 2 id).setFld (rClkField 27) 6 6 1)) (field27 1 2 id) = true ∧
       nx (exec (.pllSlewDone 27) (field27 0 1 (fun r => { r with pllTo := some 3 }))) (fun s' => decide (s'.fld (rClkField 27) 4 3 = 3 ∧ s'.fieldState 27 = 0)) = true ∧
       nx (exec (.pllSlewDone 27) (field27 0 1 (fun r => { r with pllTo := some 2, stateTo := some 1 }))) (fun s' =>
         decide (s'.fieldState 27 = 1 ∧ s'.tablesDue = true)) = true) ∧
    (let s := State.reset
     muxNamed 0 = true ∧ muxHere 0 = true ∧ muxNamed 64 = true ∧ muxHere 64 = false ∧ eqs (exec (.clkMuxSelWrite 64 1) s) s = true ∧
       nx (exec (.clkMuxSelWrite 0 2) s) (fun s' => decide (s'.fld (rClkMuxStat 0) 0 0 = 1 ∧ s'.muxGoal 0 = some 2)) = true ∧
       nx (exec (.clkMuxSelWrite 0 3) s) (fun s' => decide (s'.fld (rClkMuxStat 0) 0 0 = 0 ∧ s'.fld (rClkMux 0) 7 0 = 3)) = true ∧
       eqs (exec (.clkMuxSelWrite 0 2) (s.setFld (rClkMuxStat 0) 0 0 1)) (s.setFld (rClkMuxStat 0) 0 0 1) = true) ∧
    (let s := { State.reset.setFld (rClkMuxStat 0) 0 0 1 with muxes := [(0, { target := 2 })] }
     s.muxGoal 0 = some 2 ∧ nx (exec (.clkMuxSwitchDone 0) s) (fun s' => decide (s'.refSrc = .refclk ∧ s'.fld (rClkMuxStat 0) 0 0 = 0)) = true ∧
       nx (exec (.clkMuxHang 0) s) (fun s' => decide (s'.fld (rClkMuxStat 0) 1 1 = 1)) = true ∧
       eqs (exec (.clkMuxForce 0) s) s = true ∧
       nx (exec (.clkMuxForce 0) (s.setFld (rClkMuxStat 0) 1 1 1)) (fun s' => decide (s'.fld (rClkMuxStat 0) 7 0 = 16 ∧ s'.refSrc = .refclk)) = true) ∧
    (nx (exec (.clkMeasGo 0x1234501) State.reset) (fun s' => decide (s'.fld rClkMeas 31 0 = 0x1234501)) = true ∧
      nx (exec (.clkMeasDone 77) (State.reset.setReg rClkMeas 1)) (fun s' => decide (s'.fld rClkMeas 63 32 = 77 ∧ s'.fld rClkMeas 0 0 = 0)) = true) := by
  simp only [canon_iff]; decide +kernel

/-- Tile t0 of field 27 in a power state. -/
def tileIn (p : TilePower) (s : State) : State := s.onTile t0 (fun x => { x with power := p })

theorem witness_PowerStatesChange :
    (let s := tileIn .nap State.reset
     s.Canonical ∧ s.Live t0 ∧ t0.field = 27 ∧ s.plotOf t0 = none ∧ nx (exec (.tileNapWake t0) s) (fun s' => decide ((s'.tile t0).power = .active)) = true ∧
       nx (exec (.tileDarkWake t0) (plotted State.reset)) (fun s' => decide ((s'.tile t0).power = .active)) = true) ∧
    (let s := field27 0 1 id
     s.fieldRests 27 = true ∧ s.scanning 27 = false ∧
       nx (exec (.fieldToPenumbra 27) (tileIn .active s)) (fun s' => decide ((s'.tile t0).power = .nap ∧ (s'.fieldRt 27).stateTo = some 1)) = true ∧
       nx (exec (.fieldToLit 27) (field27 1 2 id)) (fun s' => decide ((s'.fieldRt 27).stateTo = some 0 ∧ (s'.fieldRt 27).pllTo = some 1)) = true ∧
       nx (exec (.fieldToLit 27) ((field27 1 2 id).setFld (rClkField 27) 6 6 1)) (fun s' => decide ((s'.fieldRt 27).pllTo = some 2)) = true ∧
       nx (exec (.fieldToUmbra 27 true) (tileIn .active s)) (fun s' => decide (s'.fieldState 27 = 2 ∧ s'.tile t0 = Tile.reset)) = true ∧
       nx (exec (.fieldToUmbra 27 false) s) (fun s' => decide ((s'.fieldRt 27).stateTo = some 2 ∧ s'.tablesDue = true)) = true ∧
       (let z := { field27 0 1 (fun r => { r with stateTo := some 2 }) with tables := { State.reset.tables with umbra := [27] } }
        z.tablesDue = false ∧ nx (exec (.fieldToUmbra 27 false) z) (fun s' => decide (s'.fieldState 27 = 2)) = true) ∧
       nx (exec (.fieldPowerUp 27) (field27 2 0 id)) (fun s' => decide ((s'.fieldRt 27).untested = true ∧ (s'.fieldRt 27).stateTo = some 1)) = true) ∧
    (nx (exec (.fieldShort 27) (field27 0 1 id)) (fun s' => decide ((s'.fieldRt 27).latched = true ∧ (s'.fieldRt 27).shorts = [0] ∧ s'.retiringFields = [])) = true ∧
      nx (exec (.fieldShort 27) (field27 0 1 (fun r => { r with shorts := [0] }))) (fun s' => decide (27 ∈ s'.retiringFields)) = true ∧
      nx (exec (.shortRetry 27 false) (field27 2 0 (fun r => { r with latched := true }))) (fun s' => decide ((s'.fieldRt 27).stateTo = some 1 ∧
        s'.fld (rPwrField 27) 29 28 = 1)) = true ∧
      nx (exec (.shortRetry 27 true) (field27 2 0 (fun r => { r with latched := true }))) (fun s' => decide (s'.retiringFields = [])) = true ∧
      nx (exec (.shortRetry 27 true) ((field27 2 0 (fun r => { r with latched := true })).setFld (rPwrField 27) 29 28 2)) (fun s' =>
        decide (27 ∈ s'.retiringFields)) = true) ∧
    (let s := { State.reset with tablesDue := true, retiring := [t0.key] }
     nx (exec .tableCommit s) (fun s' => decide (s'.tablesDue = false ∧ t0.key ∈ s'.repair.retired ∧ s'.retiring = [] ∧ s'.fld rRouteStat 63 32 = 1)) = true) := by
  simp only [canon_iff, live_iff]; decide +kernel

/-- Two plots that run: plot 0 on t0 and t1, plot 1 on t2, rate 10, under a cap of 5,000 W. -/
def runs2 : State :=
  let r : RunSt := { seq := 1, args := [], reports := [], keep := false }
  let s := ((plotted State.reset).setReg (rPlotRect 1) (BitVec.ofNat 64 (2 ^ 63 + 138 + 139 * 2 ^ 9 + 138 * 2 ^ 18 + 139 * 2 ^ 27))).setFld rPwrCapSet 15 0 5000
  ((((s.onPlot 0 (fun x => { x with run := some r })).onPlot 1 (fun x => { x with run := some r })).setFld (rPwrPlot 0) 23 20 10).setFld (rPwrPlot 1) 23 20 10)

def rates (s : State) : List Nat := [s.rateOf 0, s.rateOf 1]
def supply0 (f : Supply → Supply) : State := State.reset.onSupply (fun u => f { u with aux := true })

theorem witness_PowerIsHeldInBounds :
    (runs2.Canonical ∧ runs2.policy ≠ 2 ∧ runs2.running 0 = true ∧ runs2.running 1 = true ∧ runs2.belowCeil 0 = true ∧
      nx (exec (.capLoop 5001 [(0, 10), (1, 3000)]) runs2) (fun s' => decide (rates s' = [10, 9] ∧ s'.fld rPwrStat 47 32 = 5001 ∧ s'.fld (rPwrPlot 1) 47 32 = 3000)) = true ∧
      nx (exec (.capLoop 4899 [(0, 10), (1, 20)]) runs2) (fun s' => decide (rates s' = [11, 11])) = true ∧
      nx (exec (.capLoop 4900 [(0, 10), (1, 20)]) runs2) (fun s' => decide (rates s' = [10, 10])) = true ∧
      nx (exec (.capLoop 5001 []) (runs2.setFld rShadowDev 3 2 2)) (fun s' => decide (rates s' = [10, 10])) = true) ∧
    (let s := { runs2.setFld rShadowDev 3 2 1 with svc := [(t0, .heavy 3 0)] }
     s.virt t0 = some (0, 0, 0) ∧ s.policy = 1 ∧ go (exec (.heavyHintReceive 1 1) s) = true ∧
       go (exec (.heavyHintReceive 1 1) { runs2 with svc := [(t0, .heavy 3 0)] }) = true) ∧
    (nx (exec (.pwrCapSetWrite 3999) State.reset) (fun s' => decide (s'.fld rPwrCapSet 15 0 = 4000)) = true ∧
      nx (exec (.pwrCapSetWrite 0x7A411) State.reset) (fun s' => decide (s'.fld rPwrCapSet 15 0 = 42000 ∧ s'.fld rPwrCapSet 19 16 = 7)) = true) ∧
    (nx (exec (.energySample 27 [(63, 5)] [(0, 2 ^ 64 - 1)] 3 4 5000) State.reset) (fun s' => decide (s'.fld (rPwrEplot 63) 63 0 = 5 ∧
        s'.fld (rPwrEqueue 0) 63 0 = 2 ^ 64 - 1 ∧ s'.fld (rPwrField 27) 47 36 = 4095)) = true ∧
      nx (exec (.droopCrossing 27) (field27 0 1 (fun r => { r with droops := [0] }))) (fun s' => decide ((s'.fieldRt 27).clamp = some 0 ∧ (s'.fieldRt 27).droops = [0, 0])) = true ∧
      nx (exec (.droopClampStep 27) (field27 0 1 (fun r => { r with clamp := some 15 }))) (fun s' => decide ((s'.fieldRt 27).clamp = none)) = true ∧
      nx (exec (.thermalSample 27 40 255 3 4) State.reset) (fun s' => decide (s'.temp 27 = 255 ∧ s'.fld rThmStat 7 0 = 255)) = true ∧
      (let s := (State.reset.setFld (rThmField 27) 7 0 95).onField 27 (fun r => { r with below := 9 })
       s.temp 27 = 95 ∧ s.fld rThmCfg 7 0 = 95 ∧ (s.heatCeil 27).fld (rPwrField 27) 35 32 = 14 ∧ (State.reset.setFld (rThmField 27) 7 0 92).temp 27 = 92)) ∧
    (let s := State.reset.onTile t0 (fun x => { x with power := .active, backfill := some 9 })
     s.Live t0 ∧ s.fld rPwrBf 7 4 + 1 < 9 ∧ nx (exec (.backfillStep t0) s) (fun s' => decide ((s'.tile t0).backfill = some 8)) = true ∧
       nx (exec (.backfillStep t0) (State.reset.onTile t0 (fun x => { x with power := .active, climb := some 3 }))) (fun s' =>
         decide ((s'.tile t0).climb = some 4)) = true) ∧
    (nx (exec (.supplySample 4899) (supply0 (fun u => { u with low49 := 1 }))) (fun s' => decide (s'.fld rPwrSupply 0 0 = 1 ∧ s'.shutDown = false)) = true ∧
      nx (exec (.supplySample 4599) (supply0 (fun u => { u with low46 := 40 }))) (fun s' => decide (s'.shutDown = true ∧ s'.supply.stage = 1)) = true ∧
      nx (exec (.supplySample 6001) (supply0 (fun u => { u with over60 := 39 }))) (fun s' => decide (s'.shutDown = true)) = true ∧
      nx (exec (.supplySample 5400) (supply0 id)) (fun s' => decide (s'.fld rPwrStat 63 48 = 5400 ∧ s'.shutDown = false)) = true ∧
      nx (exec .supplyCeilingStep (supply0 (fun u => { u with ceil := 15 }))) (fun s' => decide (s'.supply.ceil = 16)) = true ∧
      nx (exec (.overloadStep 42001) runs2) (fun s' => decide (rates s' = [9, 9] ∧ s'.fld rPwrSupply 3 3 = 1 ∧ s'.supply.drops = 1)) = true ∧
      nx (exec (.overloadStep 42000) runs2) (fun s' => decide (rates s' = [10, 10])) = true ∧
      nx (exec .shutdownStage (supply0 (fun u => { u with stage := 1 }))) (fun s' => decide (s'.supply.stage = 2)) = true ∧
      nx (exec .shutdownStage (supply0 (fun u => { u with stage := 2 }))) (fun s' => decide (s'.supply.stage = 3 ∧ s'.fieldState 2 = 2 ∧ s'.fieldState 27 = 0)) = true ∧
      nx (exec .shutdownStage { supply0 (fun u => { u with stage := 3 }) with pwrOk := true }) (fun s' => decide (s'.supply.stage = 4 ∧ s'.pwrOk = false)) = true ∧
      nx (exec (.thmCfgWrite 0x736A60) State.reset) (fun s' => decide (s'.fld rThmCfg 23 0 = 0x73695F)) = true) := by
  simp only [canon_iff, live_iff]; decide +kernel

/-! ### Faults, resets, boot and telemetry -/

/-- Plot 0 on t0 and t1, its fence in state n. -/
def fenceAt (n : Nat) : State :=
  ((plotted State.reset).setFld (rRasPlot 0) 63 62 n).onPlot 0 (fun x => { x with fence := if n = 0 then none else some {
    cause := 1, cycle := 0, queue := 0xFF, seq := 0, tile := none, engine := 0xFF, field := 0xFFFF, more := 0xFFFF, tcause := 0, epc := 0, tval := 0
    culprit := none, status := 0, replay := none, cut := false } })

def twinG (v : Dword) : Grain := mkGrain t1 t0 10 0 0 true (.twin 0 4 v)

theorem witness_FencesStopPlots :
    ((fenceAt 0).Canonical ∧ (fenceAt 0).fenceState 0 = 0 ∧ (fenceAt 0).usable 0 = [t0, t1] ∧
      nx (exec (.plotResetFence 0) (fenceAt 0)) (fun s' => decide (s'.fenceState 0 = 1 ∧ s'.fld (rRasPlot 0) 55 48 = fcHost ∧
        (s'.plot 0).fence.map (fun f => (f.cause, f.more)) = some (fcHost, 0))) = true ∧
      nx (exec (.plotResetFence 0) (fenceAt 1)) (fun s' => decide ((s'.plot 0).fence.map (fun f => f.more) = some 0xFFFF)) = true ∧
      nx (exec (.plotResetFence 0) (fenceAt 2)) (fun s' => decide (s'.fld (rRasFlt 0 6) 31 16 = 1)) = true) ∧
    (let n := SvcNote.doubleTrap 2 0x40 0
     let s := { fenceAt 0 with svc := [(t0, n)] }
     reportCause n = some fcDoubleTrap ∧ s.plotOf t0 = some 0 ∧
       nx (exec (.fence 0 fcDoubleTrap) s) (fun s' => decide (s'.fenceState 0 = 1 ∧ s'.svc = [] ∧ s'.fld (rRasPlot 0) 55 48 = 1)) = true ∧
       eqs (exec (.fence 0 fcLink) { fenceAt 0 with svc := [(t0, .linkErr)] }) (fenceAt 0) = true) ∧
    ((fenceAt 1).fenceDrained 0 = true ∧ nx (exec (.fenceDrained 0) (fenceAt 1)) (fun s' => decide (s'.fenceState 0 = 2)) = true ∧
      nx (exec (.fenceDrainLimit 0) (fenceAt 1)) (fun s' => decide (s'.fenceState 0 = 2 ∧ (s'.plot 0).fence.map (fun f => f.cut) = some true)) = true ∧
      nx (exec (.fenceDrainLimit 0) ((fenceAt 0).onPlot 0 (fun x => { x with draining := true, run := some runP }))) (fun s' =>
        decide (s'.fenceState 0 = 2 ∧ s'.fld (rRasPlot 0) 55 48 = fcDrain ∧ (s'.plot 0).run = none)) = true) ∧
    (let at2 := fun v : Dword => (fenceAt 0).onNi t0 (fun n => { n with inbox := [twinG v], digests := [{ num := 4, value := 9, point := 0 }] })
     (at2 9).Live t0 ∧ nx (exec (.twinDigest t0) (at2 9)) (fun s' => decide ((s'.ni t0).digests = [] ∧ s'.svc = [])) = true ∧
       nx (exec (.twinDigest t0) (at2 8)) (fun s' => decide (s'.svc = [(t0, .twinMismatch)])) = true) ∧
    (nx (exec (.rasDrainWrite 9) State.reset) (fun s' => decide (s'.fld rRasDrain 15 0 = 10)) = true ∧
      (let v : Dword := 0x201B000000050000
       State.reset.scanFree 27 = true ∧ (List.range 64).all (fun o => !State.reset.usesField o 27) = true ∧
         nx (exec (.scanGo v) State.reset) (fun s' => decide (s'.fld rRasScan 63 63 = 1 ∧ s'.fld rRasScan 31 16 = 5 ∧ s'.scan = { field := 27, next := 28, active := true })) = true ∧
         nx (exec (.scanGo 0x001B000000050000) State.reset) (fun s' => decide (s'.scan = State.reset.scan ∧ s'.fld rRasScan 31 16 = 5)) = true) ∧
      nx (exec .scanPeriod (State.reset.setFld rRasScan 31 16 1)) (fun s' => decide (s'.scan.active = true)) = true ∧
      (let s := field27 1 2 (fun r => { r with untested := true })
       s.scanning 27 = true ∧ s.fieldRests 27 = true ∧ nx (exec (.scanDone 27 [] []) s) (fun s' => decide (s'.fld rRasScan 63 62 = 1 ∧
         (s'.fieldRt 27).untested = false ∧ (s'.fieldRt 27).stateTo = some 0)) = true)) := by
  simp only [canon_iff, live_iff]; decide +kernel

theorem witness_ResetsReachTheirDomains :
    (let s := plotted (tileIn .active serving)
     s.Canonical ∧ nx (exec .rasResetDevice s) (fun s' => decide (s'.sreg = [] ∧ s'.tiles = [])) = true ∧
       nx (exec .resetNLow s) (fun s' => decide (s'.sreg = [] ∧ s'.resetN = false)) = true ∧
       nx (exec .rasResetWarm s) (fun s' => decide (s'.resets = [.warm] ∧ s'.fld rRasResetStat 2 0 = 2)) = true ∧
       Config.fieldPresent 0 = false ∧ nx (exec (.rasResetField 0) s) (fun s' => decide (s'.fld rRasResetStat 30 30 = 1)) = true ∧
       nx (exec (.rasResetField 27) s) (fun s' => decide (s'.resets = [.field 27] ∧ s'.fenceState 0 = 1)) = true ∧
       s.plotValid 0 = true ∧ nx (exec (.rasResetPlot 0) s) (fun s' => decide (s'.resets = [.plot 0] ∧ s'.fenceState 0 = 1)) = true ∧
       s.plotValid 63 = false ∧ eqs (exec (.plotResetReset 63) s) s = true ∧
       svc0.isTile = false ∧ t0.isTile = true ∧ s.plotOf t0 = some 0 ∧
       nx (exec (.rasResetTile t0) s) (fun s' => decide (s'.resets = [.tile t0] ∧ s'.fenceState 0 = 1)) = true) ∧
    (let s := { fenceAt 2 with resets := [.plot 1, .plot 0] }
     takeFirst s.resetReady s.resets = some (.plot 0, [.plot 1]) ∧ nx (exec .resetComplete s) (fun s' => decide (s'.resets = [.plot 1] ∧ s'.fenceState 0 = 0)) = true) ∧
    (let s := { plotted State.reset with resets := [.tile t0] }
     s.fieldState t0.field = 0 ∧ s.rated t0 = true ∧ ((s.restartTile t0).tile t0).power = .active ∧
       takeFirst (fun d => decide (d = .tile t0)) s.resets = some (.tile t0, []) ∧
       (let z := { fenceAt 2 with resets := [.tile t0] }
        z.resetReady (.tile t0) = true ∧ nx (exec (.tileResetTimeout t0) z) (fun s' => decide (t0.key ∈ s'.retiring ∧ s'.resets = [])) = true)) ∧
    (let s := { State.reset.setBytes (loamAddr t0 0xFFFF) [7, 8] with zeroing := [(5, t0.key, 0x10000, 0x10000)] }
     nx (exec (.loamZeroing 5) s) (fun s' => decide (s'.bytes (loamAddr t0 0xFFFF) 2 = [7, 0] ∧ s'.zeroing = [])) = true) := by
  simp only [canon_iff]; decide +kernel

def obs0 : BootObs :=
  { bedrockOk := true, refclkOk := true, crystalOk := true, identOk := true, deadRouters := [], deadUnits := [], failedTiles := [], failedSpills := []
    pathToHost := true }

/-- A device that boots, at a stage. -/
def booting (n : Nat) : State :=
  let s := (State.reset.setFld rSecBoot 7 4 n).onSupply (fun u => { u with aux := true, steward := true })
  { s with boot := { s.boot with running := true } }
def topsoil : State := { booting 8 with boot := { (booting 8).boot with watchdog := true } }

theorem witness_BootAndFreeze :
    (State.reset.Canonical ∧ (State.reset.supply.aux = false → go (exec .powerUp State.reset) = true) ∧
      nx (exec .auxStop (booting 8)) (fun s' => decide (s'.supply.aux = false ∧ s'.alertN = true)) = true ∧
      nx (exec .stewardSupplyLoss (booting 8)) (fun s' => decide (s'.supply.steward = false)) = true) ∧
    (let s := State.reset.onSupply (fun u => { u with aux := true, steward := true })
     s.boot.running = false ∧ nx (exec (.deviceBoot 0x2A35) s) (fun s' => decide (s'.bootMode = 3 ∧ s'.myId = 0x2A ∧ s'.fld rClkRef 3 1 = 5 ∧ s'.service = true ∧
       s'.fieldState 2 = 2 ∧ s'.fieldState 27 = 0)) = true) ∧
    (nx (exec (.bootStage { obs0 with bedrockOk := false }) (booting 5)) (fun s' => decide (s'.stage = 15 ∧ s'.alertN = true)) = true ∧
      nx (exec (.bootStage obs0) (booting 0)) (fun s' => decide (s'.stage = 2 ∧ s'.refSrc = .refclk)) = true ∧
      nx (exec (.bootStage { obs0 with refclkOk := false, crystalOk := false }) (booting 0)) (fun s' => decide (s'.stage = 1 ∧ s'.alertN = true)) = true ∧
      nx (exec (.bootStage { obs0 with identOk := false }) (booting 2)) (fun s' => decide (s'.stage = 3 ∧ s'.noIdent = true)) = true ∧
      (booting 3).stage = 3 ∧ (booting 3).boot.running = true ∧ (booting 3).supply.steward = true ∧
      nx (exec (.bootStage { obs0 with pathToHost := false }) (booting 4)) (fun s' => decide (s'.stage = 15)) = true ∧
      nx (exec (.bootStage obs0) (booting 4)) (fun s' => decide (s'.stage = 5)) = true ∧
      nx (exec (.bootStage obs0) ((booting 5).setFld rSecBoot 1 0 2)) (fun s' => decide (s'.stage = 9 ∧ s'.fld rSecBoot 23 16 = 1)) = true ∧
      nx (exec (.bootStage obs0) (booting 5)) (fun s' => decide (s'.stage = 6 ∧ s'.mem = [])) = true ∧ (booting 6).stage = 6 ∧
      nx (exec (.refwaitRetry false true) (booting 1)) (fun s' => decide (s'.stage = 2 ∧ s'.refSrc = .crystal)) = true ∧
      eqs (exec (.refwaitRetry false false) (booting 1)) (booting 1) = true ∧
      nx (exec .topsoilStartTimeout (booting 7)) (fun s' => decide (s'.boot.tries = 1)) = true ∧
      nx (exec .topsoilStartTimeout { booting 7 with boot := { (booting 7).boot with tries := 1 } }) (fun s' => decide (s'.stage = 9 ∧ s'.fld rSecBoot 23 16 = 4)) = true) ∧
    (topsoil.topsoilRuns = true ∧ go (exec .watchdogAnswer topsoil) = true ∧ eqs (exec (.topsoilRequest .sign) topsoil) topsoil = true ∧
      go (exec (.topsoilRequest .keys) topsoil) = true ∧
      nx (exec (.topsoilRequest (.fence 0 13)) (plotted topsoil)) (fun s' => decide (s'.fld (rRasPlot 0) 55 48 = 13)) = true ∧
      nx (exec (.topsoilRequest (.resetPlot 0)) (plotted topsoil)) (fun s' => decide (s'.resets = [.plot 0])) = true) ∧
    (topsoil.frozen = false ∧ topsoil.aiDue = none ∧ topsoil.fld rRasAi 63 63 = 0 ∧
      nx (exec .aiTrigger (plotted topsoil)) (fun s' => decide (s'.frozen = true ∧ s'.fld rRasAi 59 56 = 5 ∧ s'.aiDue = some 0 ∧ s'.fenceState 0 = 2)) = true ∧
      nx (exec (.fatalError 3) (booting 0)) (fun s' => decide (s'.frozen = true ∧ s'.fld rRasAi 59 56 = 3)) = true ∧
      nx (exec (.fatalError 1) topsoil) (fun s' => decide (s'.frozen = true)) = true ∧
      nx (exec (.fatalError 2) (booting 7)) (fun s' => decide (s'.stage = 15 ∧ s'.frozen = false)) = true ∧
      nx (exec .watchdogExpiry topsoil) (fun s' => decide (s'.frozen = true ∧ s'.cycle = 1500000000)) = true ∧
      nx (exec .aiTrigger { topsoil with frozen := true, aiDue := some 4 }) (fun s' => decide (s'.fld rRasAi 55 48 = 1 ∧ s'.aiDue = some 4)) = true ∧
      nx (exec .aiRelease (topsoil.setFld rRasAi 63 63 1)) (fun s' => decide (s'.fld rRasAi 63 63 = 0)) = true) ∧
    (nx (exec (.tapAccess .bypass) topsoil) (fun s' => decide (s'.out = [.tdo 0])) = true ∧ topsoil.service = false ∧
      nx (exec (.tapAccess .priv) topsoil) (fun s' => decide (s'.out = [.tdo 0])) = true ∧ go (exec (.tapAccess .idcode) topsoil) = true) := by
  simp only [canon_iff]; decide +kernel

def rec1 (cls n : Nat) : TRec := { cls := cls, multi := false, code := 0x0101, seq := n, cycle := 0, source := 0, rep := 0, lost := 0, arg := 0 }
def telem0 (f : Telem → Telem) : State := (serving.setReg (rTelemDest 0) 1).onTelem f

theorem witness_TelemetryPortsAndRegisters :
    (let s := tileIn .active State.reset
     s.Canonical ∧ s.Live t0 ∧
       nx (exec (.telemRecordReceive t0) (s.onNi t0 (fun n => { n with teleAlarm := some (rec1 0 0), tele := [rec1 1 0] }))) (fun s' =>
         decide (s'.telem.alarms.length = 1 ∧ (s'.ni t0).tele.length = 1)) = true ∧
       nx (exec (.telemRecordReceive t0) (s.onNi t0 (fun n => { n with tele := [rec1 1 0] }))) (fun s' => decide (s'.telem.events.length = 1)) = true ∧
       nx (exec (.telemRecordReceive t0) ((plotted s).onNi t0 (fun n => { n with tele := [rec1 2 0] }))) (fun s' => decide (s'.telem.traces.length = 1)) = true) ∧
    (State.reset.coalescing = false ∧ State.reset.telem.events.length < 12287 ∧ (State.reset.eventIn (rec1 1 0)).telem.events.length = 1 ∧
      (State.reset.setFld rTelemStat 31 31 1).coalescing = true) ∧
    ((telem0 id).hasDest = true ∧ (telem0 id).alarmPorts = [0] ∧ (telem0 id).telemPort = some 0 ∧ (telem0 id).linkOn 0 = true ∧
      nx (exec (.telemDatagramSend 0) (telem0 (fun t => { t with alarms := [rec1 0 3] }))) (fun s' => decide (s'.telem.alarmSent = [3] ∧ s'.telem.dseqA = 1)) = true ∧
      nx (exec (.telemDatagramSend 1) (telem0 (fun t => { t with events := [rec1 1 3] }))) (fun s' => decide (s'.telem.events = [] ∧
        s'.out = [.telemetry 0 1 0 [rec1 1 3]])) = true ∧
      nx (exec (.telemDatagramSend 2) (telem0 (fun t => { t with traces := [rec1 2 3] }))) (fun s' => decide (s'.telem.traces = [] ∧ s'.telem.dseqT = 1)) = true ∧
      nx (exec .alarmResend (telem0 (fun t => { t with alarms := [rec1 0 3], alarmSent := [3] }))) (fun s' => decide (s'.telem.alarms.length = 1 ∧ s'.out.length = 1)) = true) ∧
    (let s := (telem0 (fun t => { t with alarms := [rec1 0 4, rec1 0 5] }))
     nx (exec (.telemAackWrite 4) s) (fun s' => decide (s'.telem.alarms = [rec1 0 5])) = true ∧
       eqs (exec (.telemAackWrite 0x80000000) s) s = true) ∧
    (nx (exec (.summaryClose 0x0101) (telem0 (fun t => { t with sums := [rec1 1 0] }))) (fun s' => decide (s'.telem.events.length = 1 ∧ s'.telem.sums = [])) = true) ∧
    (let s := (serving.setFld (rHostPortCfg 1) 0 0 1)
     s.portReady 1 = true ∧ nx (exec (.hostLinkChange 1 true true) (s.onHostPort 1 (fun x => { x with held := [.sync 1 4] }))) (fun s' =>
         decide (s'.linkOn 1 = true ∧ s'.out = [.sync 1 4] ∧ (s'.hostPort 1).swapped = true)) = true ∧
       nx (exec (.hostLinkChange 0 false false) s) (fun s' => decide (s'.linkOn 0 = false)) = true ∧
       nx (exec (.secureAssociation 0 false) s) (fun s' => decide (s'.fld (rHostPortStat 0) 2 2 = 0)) = true ∧
       nx (exec (.pfcFrame 0 true) (s.setFld (rHostPortCfg 0) 19 19 0)) (fun s' => decide (s'.fld (rHostPortStat 0) 63 32 = 1)) = true ∧
       nx (exec (.pfcFrame 0 true) (s.setFld (rHostPortCfg 0) 19 19 1)) (fun s' => decide ((s'.hostPort 0).paused = true)) = true ∧
       nx (exec (.ptpEventMessage 0 true 77) s) (fun s' => decide ((s'.hostPort 0).stamp = 77 ∧ s'.out = [.sync 0 77])) = true) ∧
    (nx (exec (.meshCfgWrite 0xF) State.reset) (fun s' => decide (s'.fld rMeshCfg 11 0 = 16)) = true ∧
      nx (exec (.meshRouterQuery false) ((field27 2 0 id).setReg rMeshRsel (BitVec.ofNat 64 (138 + 138 * 2 ^ 9)))) (fun s' => decide (s'.queried = 0)) = true ∧
      go (exec .routeTableRead State.reset) = true ∧ regRow 3 = none ∧ eqs (exec (.registerWrite 3 5) State.reset) State.reset = true ∧
      nx (exec (.registerWrite rTelemTrace 0x11) State.reset) (fun s' => decide (s'.sreg ≠ [])) = true) := by
  simp only [canon_iff, live_iff]; decide +kernel

/-- Where the sealed key opens, a secure association starts. -/
theorem witness_TelemetryPortsAndRegisters_secure (hu : ∀ v b, Config.unwrap v b = some []) :
    State.hasCak { serving with boot := { serving.boot with applied := [1] } } = true := by
  unfold State.hasCak; simp only [hu]; decide +kernel

/-! ### Worked examples of the spec's text -/

/-- An FP32 value in format c. -/
def conv (c mode r x : Nat) : Nat × Nat := encodeVal c mode r false (decodeVal 0 x)

/-- R96 to R99: the table of the value 3.3 in every floating format, RNE and RTZ. -/
theorem test_value_3_3 :
    [1, 2, 3, 5, 7, 8].map (fun c => ((conv c 0 0 0x40533333).1, (conv c 1 0 0x40533333).1)) =
      [(0x429A, 0x4299), (0x4053, 0x4053), (0x4D, 0x4D), (0x43, 0x42), (0x13, 0x12), (0x6, 0x5)] := by decide +kernel

/-- The table of edge inputs: 300, 70,000, 0.0003, minus zero and a quiet NaN, with their flags (NX 1, UF 2, OF 4, NV 16, SAT 32). -/
theorem test_edge_inputs :
    [0x43960000, 0x4788B800, 0x399D4952, 0x80000000, 0x7FC00000].map (fun x => [3, 5, 7, 8].map (fun c => conv c 0 0 x)) =
      [[(0x7F, 33), (0x5D, 1), (0x1F, 33), (0x7, 33)], [(0x7F, 33), (0x7C, 5), (0x1F, 33), (0x7, 33)],
        [(0, 3), (0x0D, 1), (0, 3), (0, 3)], [(0, 0), (0x80, 0), (0, 0), (0, 0)], [(0x80, 0), (0x7E, 0), (0, 16), (0, 16)]] ∧
    (conv 5 1 0 0x43960000).1 = 0x5C ∧ (conv 5 1 0 0x4788B800).1 = 0x7B := by decide +kernel

/-- The draws 0x70 and 0x50 of the STOCH example. -/
theorem test_stochastic : (conv 5 2 0x70 0x40533333).1 = 0x43 ∧ (conv 5 2 0x50 0x40533333).1 = 0x42 := by decide +kernel

/-- The VF8a group of the accumulation example: 4.015625 and NX. -/
theorem test_group_example :
    accFloat 0 0 0 (groupSum ((decodeVal 3 0x48, decodeVal 3 0x48) :: (decodeVal 3 0x19, decodeVal 3 0x38) ::
      List.replicate 14 (decodeVal 3 0x09, decodeVal 3 0x38))) = ((0x40808000 : Word), 1) := by decide +kernel

/-- R308: field (4,3) has lane 6 of facet 0 at (172, 147) and lane 6 of facet 4 at (187, 132). -/
theorem test_optical_ports :
    (optSite 48, optFacet 48, optLane 48, optSite 49, optFacet 49, optLane 49) =
      ((⟨172, 147⟩ : Site), 0, 6, (⟨187, 132⟩ : Site), 4, 6) := by decide +kernel

/-- The words of the guarded loop: the fields of the example's table (an immediate stands in some of them). -/
theorem test_loop_words :
    [0x20044000, 0x08100018, 0xA80C0000, 0xA4006000, 0xA0083400, 0xA4005400, 0xA00C2001, 0x08042020, 0x08109FFF, 0x94104100, 0x80FFFFF9,
        0xDC000000].map (fun n => let w : Word := BitVec.ofNat 32 n; (fOp w, fPg w, fRd w, fRa w)) =
      [(0x08, 0, 1, 2), (0x02, 0, 4, 0), (0x2A, 0, 3, 0), (0x29, 0, 0, 3), (0x28, 0, 2, 1), (0x29, 0, 0, 2),
        (0x28, 0, 3, 1), (0x02, 0, 1, 1), (0x02, 0, 4, 4), (0x25, 0, 4, 2), (0x20, 1, 31, 31),
        (0x37, 0, 0, 0)] ∧
    fQ 0xA0083400 = 5 ∧ fOff9 0xA00C2001 = 1 ∧ fImm13 0x08109FFF = 0x1FFF := by decide +kernel

/-- The forward layer fragment of the engine chapter, from its four words. -/
theorem test_te_descriptor :
    let d : Desc := BitVec.ofNat 128 0x204C41FF01F400180080020021700022
    dGen d = 2 ∧ dTag d = 0x17 ∧ dRnd d = 0 ∧ dFA d = 2 ∧ dFC d = 2 ∧ Desc.field d 44 32 = 0x200 ∧ Desc.field d 57 45 = 0x400 ∧
      Desc.field d 70 58 = 0x600 ∧ Desc.field d 83 71 = 0x800 ∧ Desc.field d 95 84 = 31 ∧ Desc.field d 109 96 = 511 := by decide +kernel

end Sys2Proof.Tests
end

section
/-!
PROOFS. What the instructions of the core that act on its registers and its PC alone have in common: from the row of the dispatch
table to the effect of the body, each said once.
-/
namespace Sys2Proof.Machine

/-! ### The dispatch of the instructions of chapter 4 that write a register or the PC -/

theorem exec_alu (t : Site) (s : State) : exec (.alu t) s = execAlu t s := rfl
theorem exec_addi (t : Site) (s : State) : exec (.addi t) s = execAddi t s := rfl
theorem exec_andi (t : Site) (s : State) : exec (.andi t) s = execAndi t s := rfl
theorem exec_ori (t : Site) (s : State) : exec (.ori t) s = execOri t s := rfl
theorem exec_xori (t : Site) (s : State) : exec (.xori t) s = execXori t s := rfl
theorem exec_shi (t : Site) (s : State) : exec (.shi t) s = execShi t s := rfl
theorem exec_lil (t : Site) (s : State) : exec (.lil t) s = execLil t s := rfl
theorem exec_lih (t : Site) (s : State) : exec (.lih t) s = execLih t s := rfl
theorem exec_br (t : Site) (s : State) : exec (.br t) s = execBr t s := rfl
theorem exec_bl (t : Site) (s : State) : exec (.bl t) s = execBl t s := rfl
theorem exec_jr (t : Site) (s : State) : exec (.jr t) s = execJr t s := rfl

/-! ### The effects of a body -/

section
variable {name : String} {op : Nat} {t : Site} {legal : Word → Bool} {body : Word → State → Eff} {s : State} {w : Word}

theorem State.StandsAt.instr_illegal (h : s.StandsAt t op w) (hl : legal w = false) :
    instr name op t legal body s = .next (s.takeTrap t 2 w) :=
  Machine.instr_illegal h.live h.bound h.word h.op hl

theorem instr_runs_ok {s' : State} (h : s.Runs t op w) (hl : legal w = true) (hb : body w s = .ok s') :
    instr name op t legal body s = .next s' := by
  rw [instr_runs h hl, hb]

theorem instr_runs_trap {cause : Nat} {tval : Word} {s' : State} (h : s.Runs t op w) (hl : legal w = true)
    (hb : body w s = .trap cause tval s') :
    instr name op t legal body s = .next (s'.takeTrap t (BitVec.ofNat 32 cause) tval) := by
  rw [instr_runs h hl, hb]

theorem instr_runs_effReg {rd : Nat} {v : Word} (h : s.Runs t op w) (hl : legal w = true) (hb : body w s = effReg t s rd v) :
    instr name op t legal body s = .next (s.onCore t (fun c => (c.put rd v).advance)) :=
  instr_runs_ok h hl hb

end

/-- A change of the core matters only at the core that the state holds. -/
theorem State.onCore_congr {s : State} {t : Site} {f g : Core → Core} (h : f (s.core t) = g (s.core t)) :
    s.onCore t f = s.onCore t g :=
  congrArg (fun c => s.setTile t { s.tile t with core := c }) h

/-! ### What a trap saves (R147) -/

theorem State.Runs.unblocked {s : State} {t : Site} {op : Nat} {w : Word} (h : s.Runs t op w) : (s.core t).blocked = none := by
  have hb := h.bound
  simp only [State.atBoundary, Bool.and_eq_true, Option.isNone_iff_eq_none] at hb
  exact hb.1.1.2

/-- Outside a trap handler, a core that does not block saves its PC, the cause and the value, whether it enters a handler or
stops for want of one. -/
theorem State.takeTrap_saves {s : State} {t : Site} (hs : s.Canonical) (hb : (s.core t).blocked = none)
    (ht : (s.core t).trapT = false) (cause tval : Word) :
    ((s.takeTrap t cause tval).core t).epc = BitVec.setWidth 32 (s.core t).pc ∧
      ((s.takeTrap t cause tval).core t).cause = cause ∧ ((s.takeTrap t cause tval).core t).tval = tval := by
  simp only [State.takeTrap, hb, ht, Bool.false_eq_true, if_false]
  split
  · simp [State.onCore_core_same hs]
  · simp [State.onCore_core_same hs, Core.jump]

end Sys2Proof.Machine
end

section
/-!
PROOFS. The ALU (R120, R121): each function of aluFn in the arithmetic of the numbers that the words hold.
-/
namespace Sys2Proof.Machine

/-! ### Words as numbers that are 0 -/

theorem toNat_ne_zero {a : Word} (h : a ≠ 0) : a.toNat ≠ 0 := BitVec.toNat_ne.1 h

theorem toInt_ne_zero {a : Word} (h : a ≠ 0) : a.toInt ≠ 0 := BitVec.toInt_ne.2 h

/-! ### Division and the high product -/

theorem divs_of_ne {a b : Word} (hb : b ≠ 0) : divs a b = a.sdiv b := by
  rw [← BitVec.toInt_inj, BitVec.toInt_sdiv, divs, if_neg hb, BitVec.toInt_ofInt]

theorem rems_of_ne {a b : Word} (hb : b ≠ 0) : rems a b = a.srem b := by
  rw [rems, if_neg hb, ← BitVec.toInt_srem, BitVec.ofInt_toInt]

/-- DIV with its corners (R121). -/
theorem toInt_divs (a b : Word) :
    (divs a b).toInt = if b.toInt = 0 then -1 else if a.toInt = -2 ^ 31 ∧ b.toInt = -1 then -2 ^ 31
      else a.toInt.tdiv b.toInt := by
  have hm : a.toInt = -2 ^ 31 ↔ a = BitVec.intMin 32 := BitVec.toInt_inj (y := BitVec.intMin 32)
  have h1 : b.toInt = -1 ↔ b = -1#32 := BitVec.toInt_inj (y := -1#32)
  by_cases hb : b = 0
  · simp [divs, hb]
  · rw [if_neg (toInt_ne_zero hb), divs_of_ne hb]
    by_cases hc : a.toInt = -2 ^ 31 ∧ b.toInt = -1
    · rw [if_pos hc, hm.1 hc.1, h1.1 hc.2]
      decide
    · rw [if_neg hc]
      rw [hm, h1] at hc
      exact BitVec.toInt_sdiv_of_ne_or_ne a b (Decidable.not_and_iff_or_not.1 hc)

/-- REM with its corners (R121): both agree with the remainder of the truncating division. -/
theorem toInt_rems (a b : Word) :
    (rems a b).toInt = if b.toInt = 0 then a.toInt else if a.toInt = -2 ^ 31 ∧ b.toInt = -1 then 0
      else a.toInt.tmod b.toInt := by
  by_cases hb : b = 0
  · simp [rems, hb]
  · rw [if_neg (toInt_ne_zero hb), rems_of_ne hb, BitVec.toInt_srem]
    split
    · next hc => rw [hc.1, hc.2]; decide
    · rfl

/-- The high word of a signed product fits a word. -/
theorem toInt_mulh (a b : Word) : (BitVec.ofInt 32 (a.toInt * b.toInt / 2 ^ 32)).toInt = a.toInt * b.toInt / 2 ^ 32 := by
  have hle : a.toInt * b.toInt ≤ 2 ^ 62 := BitVec.toInt_mul_toInt_le
  have hge : -2 ^ 62 ≤ a.toInt * b.toInt := BitVec.le_toInt_mul_toInt
  apply BitVec.toInt_ofInt_eq_self <;> omega

/-- The high word of an unsigned product fits a word. -/
theorem toNat_mulhu (a b : Word) : (BitVec.ofNat 32 (a.toNat * b.toNat / 2 ^ 32)).toNat = a.toNat * b.toNat / 2 ^ 32 := by
  have hp : a.toNat * b.toNat < 2 ^ 32 * 2 ^ 32 := Nat.mul_lt_mul'' a.isLt b.isLt
  exact Nat.mod_eq_of_lt (Nat.div_lt_of_lt_mul hp)

/-! ### Counting bits -/

theorem clz_le (a : Word) : clz a ≤ 32 := by
  unfold clz; split <;> omega

theorem log2_lt_width {a : Word} (h : a ≠ 0) : Nat.log2 a.toNat < 32 := (Nat.log2_lt (toNat_ne_zero h)).2 a.isLt

/-- The bits that CLZ counts are clear. -/
theorem getLsbD_of_lt_clz {a : Word} {i : Nat} (hi : i < clz a) : a.getLsbD (31 - i) = false := by
  by_cases h : a = 0
  · simp [h]
  · have hl := log2_lt_width h
    rw [clz, if_neg h] at hi
    exact Nat.testBit_lt_two_pow ((Nat.log2_lt (toNat_ne_zero h)).1 (by omega))

/-- The bit below those that CLZ counts is set. -/
theorem getLsbD_clz {a : Word} (hc : clz a < 32) : a.getLsbD (31 - clz a) = true := by
  have h : a ≠ 0 := by
    rintro rfl
    exact absurd hc (by decide)
  have hl := log2_lt_width h
  rw [clz, if_neg h, show 31 - (31 - Nat.log2 a.toNat) = Nat.log2 a.toNat by omega]
  exact Nat.testBit_log2 (toNat_ne_zero h)

theorem popcount_le (n w : Nat) : popcount n w ≤ n := by
  simpa [popcount] using List.length_filter_le (fun i => w.testBit i) (List.range n)

/-! ### The functions of the ALU -/

/-- What the ALU writes for function fn of a and b. -/
def aluResult (fn : Nat) (a b : Word) : Word := (aluFn fn a b).getD 0

section
variable (a b : Word)

theorem aluResult_add : (aluResult 0x00 a b).toNat = (a.toNat + b.toNat) % 2 ^ 32 := BitVec.toNat_add a b

theorem aluResult_sub : (aluResult 0x01 a b).toNat = (a.toNat + (2 ^ 32 - b.toNat)) % 2 ^ 32 := by
  rw [Nat.add_comm]; exact BitVec.toNat_sub a b

theorem aluResult_and (i : Nat) : (aluResult 0x02 a b).getLsbD i = (a.getLsbD i && b.getLsbD i) := BitVec.getLsbD_and

theorem aluResult_or (i : Nat) : (aluResult 0x03 a b).getLsbD i = (a.getLsbD i || b.getLsbD i) := BitVec.getLsbD_or

theorem aluResult_xor (i : Nat) : (aluResult 0x04 a b).getLsbD i = (a.getLsbD i != b.getLsbD i) := BitVec.getLsbD_xor

theorem aluResult_sll : (aluResult 0x05 a b).toNat = a.toNat * 2 ^ (b.toNat % 32) % 2 ^ 32 := by
  rw [← Nat.shiftLeft_eq]; exact BitVec.toNat_shiftLeft

theorem aluResult_srl : (aluResult 0x06 a b).toNat = a.toNat / 2 ^ (b.toNat % 32) := by
  rw [← Nat.shiftRight_eq_div_pow]; exact BitVec.toNat_ushiftRight a _

theorem aluResult_sra : (aluResult 0x07 a b).toInt = a.toInt / 2 ^ (b.toNat % 32) := by
  have h := Int.shiftRight_eq_div_pow a.toInt (b.toNat % 32)
  rw [Int.natCast_pow] at h
  exact BitVec.toInt_sshiftRight.trans h

theorem aluResult_mul : (aluResult 0x08 a b).toNat = a.toNat * b.toNat % 2 ^ 32 := BitVec.toNat_mul a b

theorem aluResult_mulhu : (aluResult 0x09 a b).toNat = a.toNat * b.toNat / 2 ^ 32 := toNat_mulhu a b

theorem aluResult_mulh : (aluResult 0x0A a b).toInt = a.toInt * b.toInt / 2 ^ 32 := toInt_mulh a b

theorem aluResult_divu : (aluResult 0x0B a b).toNat = if b.toNat = 0 then 0xFFFFFFFF else a.toNat / b.toNat := by
  have hq : a.toNat / b.toNat < 2 ^ 32 := Nat.lt_of_le_of_lt (Nat.div_le_self _ _) a.isLt
  by_cases hb : b = 0
  · subst hb; rfl
  · rw [if_neg (toNat_ne_zero hb)]
    simp only [aluResult, aluFn, if_neg hb, Option.getD_some]
    exact Nat.mod_eq_of_lt hq

theorem aluResult_remu : (aluResult 0x0C a b).toNat = if b.toNat = 0 then a.toNat else a.toNat % b.toNat := by
  have hr : a.toNat % b.toNat < 2 ^ 32 := Nat.lt_of_le_of_lt (Nat.mod_le _ _) a.isLt
  by_cases hb : b = 0
  · subst hb; rfl
  · rw [if_neg (toNat_ne_zero hb)]
    simp only [aluResult, aluFn, if_neg hb, Option.getD_some]
    exact Nat.mod_eq_of_lt hr

theorem aluResult_div :
    (aluResult 0x0D a b).toInt = if b.toInt = 0 then -1 else if a.toInt = -2 ^ 31 ∧ b.toInt = -1 then -2 ^ 31
      else a.toInt.tdiv b.toInt := toInt_divs a b

theorem aluResult_rem :
    (aluResult 0x0E a b).toInt = if b.toInt = 0 then a.toInt else if a.toInt = -2 ^ 31 ∧ b.toInt = -1 then 0
      else a.toInt.tmod b.toInt := toInt_rems a b

theorem aluResult_min : (aluResult 0x0F a b).toInt = min a.toInt b.toInt := by
  simp only [aluResult, aluFn, Option.getD_some, Int.min_def, apply_ite BitVec.toInt]

theorem aluResult_max : (aluResult 0x10 a b).toInt = max a.toInt b.toInt := by
  simp only [aluResult, aluFn, Option.getD_some, Int.max_def, apply_ite BitVec.toInt]

theorem aluResult_minu : (aluResult 0x11 a b).toNat = min a.toNat b.toNat := by
  simp only [aluResult, aluFn, Option.getD_some, Nat.min_def, apply_ite BitVec.toNat]

theorem aluResult_maxu : (aluResult 0x12 a b).toNat = max a.toNat b.toNat := by
  simp only [aluResult, aluFn, Option.getD_some, Nat.max_def, apply_ite BitVec.toNat]

theorem aluResult_clz : (aluResult 0x13 a b).toNat = clz a :=
  Nat.mod_eq_of_lt (Nat.lt_of_le_of_lt (clz_le a) (by decide))

theorem aluResult_popc : (aluResult 0x14 a b).toNat = ((List.range 32).filter (fun i => a.getLsbD i)).length :=
  Nat.mod_eq_of_lt (Nat.lt_of_le_of_lt (popcount_le 32 a.toNat) (by decide))

end

/-! ### The instruction -/

theorem aluLegal_iff {w : Word} : aluLegal w = true ↔ fFn w ≤ 0x14 ∧ (0x13 ≤ fFn w → fRb w = 0) := by
  simp only [aluLegal, Bool.and_eq_true, Bool.or_eq_true, decide_eq_true_eq]
  omega

/-- ALU writes its result and goes on; nothing else of the machine changes. -/
theorem exec_alu_runs {s : State} {t : Site} {w : Word} (h : s.Runs t 0x01 w) (hl : aluLegal w = true) :
    exec (.alu t) s = .next (s.onCore t (fun c =>
      (c.put (fRd w) (aluResult (fFn w) ((s.core t).get (fRa w)) ((s.core t).get (fRb w)))).advance)) := by
  rw [exec_alu]
  exact instr_runs_effReg h hl rfl

/-- A word that ALU's decoding refuses is ILLEGAL (R118). -/
theorem exec_alu_illegal {s : State} {t : Site} {w : Word} (h : s.StandsAt t 0x01 w) (hl : aluLegal w = false) :
    exec (.alu t) s = .next (s.takeTrap t 2 w) := by
  rw [exec_alu]
  exact h.instr_illegal hl

/-- Settles O13: the instruction writes aluResult, taken function by function; CLZ and POPC refuse an rb other than 0. -/
theorem aluComputes : Obligations.AluComputes := by
  unfold Obligations.AluComputes
  intro s t w
  refine ⟨fun h hfn _ hrb => exec_alu_illegal h ?_, fun h hfn hrb => ?_⟩
  · rw [← Bool.not_eq_true, aluLegal_iff]
    exact fun hl => hrb (hl.2 hfn)
  intro a b
  refine ⟨aluResult (fFn w) a b, exec_alu_runs h (aluLegal_iff.2 ⟨hfn, hrb⟩), ?_⟩
  and_intros <;> intro hf <;> rw [hf]
  · exact aluResult_add a b
  · exact aluResult_sub a b
  · exact aluResult_and a b
  · exact aluResult_or a b
  · exact aluResult_xor a b
  · exact aluResult_sll a b
  · exact aluResult_srl a b
  · exact aluResult_sra a b
  · exact aluResult_mul a b
  · exact aluResult_mulhu a b
  · exact aluResult_mulh a b
  · exact aluResult_divu a b
  · exact aluResult_remu a b
  · exact aluResult_div a b
  · exact aluResult_rem a b
  · exact aluResult_min a b
  · exact aluResult_max a b
  · exact aluResult_minu a b
  · exact aluResult_maxu a b
  · rw [aluResult_clz]
    exact ⟨clz_le a, fun i => getLsbD_of_lt_clz, getLsbD_clz⟩
  · exact aluResult_popc a b

end Sys2Proof.Machine
end

section
/-!
PROOFS. The immediate forms (R122).
-/
namespace Sys2Proof.Machine

section
variable {s : State} {t : Site} {w : Word}

theorem exec_addi_runs (h : s.Runs t 0x02 w) :
    exec (.addi t) s = .next (s.onCore t (fun c => (c.put (fRd w) ((s.core t).get (fRa w) + simm13 w)).advance)) := by
  rw [exec_addi]; exact instr_runs_effReg h rfl rfl

theorem exec_andi_runs (h : s.Runs t 0x03 w) :
    exec (.andi t) s = .next (s.onCore t (fun c =>
      (c.put (fRd w) ((s.core t).get (fRa w) &&& BitVec.ofNat 32 (fImm13 w))).advance)) := by
  rw [exec_andi]; exact instr_runs_effReg h rfl rfl

theorem exec_ori_runs (h : s.Runs t 0x04 w) :
    exec (.ori t) s = .next (s.onCore t (fun c =>
      (c.put (fRd w) ((s.core t).get (fRa w) ||| BitVec.ofNat 32 (fImm13 w))).advance)) := by
  rw [exec_ori]; exact instr_runs_effReg h rfl rfl

theorem exec_xori_runs (h : s.Runs t 0x05 w) :
    exec (.xori t) s = .next (s.onCore t (fun c =>
      (c.put (fRd w) ((s.core t).get (fRa w) ^^^ BitVec.ofNat 32 (fImm13 w))).advance)) := by
  rw [exec_xori]; exact instr_runs_effReg h rfl rfl

theorem exec_shi_runs (h : s.Runs t 0x06 w) (hi : fImm13 w < 128) :
    exec (.shi t) s = .next (s.onCore t (fun c => (c.put (fRd w) (shiFn ((s.core t).get (fRa w)) w)).advance)) := by
  rw [exec_shi]; exact instr_runs_effReg h (decide_eq_true hi) rfl

theorem exec_shi_illegal (h : s.StandsAt t 0x06 w) (hi : 128 ≤ fImm13 w) :
    exec (.shi t) s = .next (s.takeTrap t 2 w) := by
  rw [exec_shi]; exact h.instr_illegal (decide_eq_false (Nat.not_lt.2 hi))

theorem exec_lil_runs (h : s.Runs t 0x08 w) (hz : Word.field w 17 16 = 0) :
    exec (.lil t) s = .next (s.onCore t (fun c => (c.put (fRd w) (BitVec.ofNat 32 (fImm16 w))).advance)) := by
  rw [exec_lil]; exact instr_runs_effReg h (decide_eq_true hz) rfl

theorem exec_lih_runs (h : s.Runs t 0x09 w) (hz : Word.field w 17 16 = 0) :
    exec (.lih t) s = .next (s.onCore t (fun c => (c.put (fRd w)
      (BitVec.ofNat 32 (fImm16 w * 2 ^ 16 + ((s.core t).get (fRd w)).toNat % 2 ^ 16))).advance)) := by
  rw [exec_lih]; exact instr_runs_effReg h (decide_eq_true hz) rfl

end

/-- The kinds of SHI, where imm13[12:7] is 0: imm13[6:5] selects one of four shifts by imm13[4:0]. -/
theorem shiFn_of_lt {a w : Word} (hi : fImm13 w < 128) :
    shiFn a w = if fImm13 w / 32 = 0 then a <<< (fImm13 w % 32) else if fImm13 w / 32 = 1 then a >>> (fImm13 w % 32)
      else if fImm13 w / 32 = 2 then a.sshiftRight (fImm13 w % 32) else a.rotateRight (fImm13 w % 32) := by
  have hk : fImm13 w / 32 < 4 := by omega
  rw [shiFn, Nat.mod_eq_of_lt hk]
  generalize fImm13 w / 32 = k at hk
  match k, hk with
  | 0, _ => rfl
  | 1, _ => rfl
  | 2, _ => rfl
  | 3, _ => rfl

/-- Settles O14, form by form; for SHI the kinds are those of shiFn_of_lt. -/
theorem immediateForms : Obligations.ImmediateForms := by
  unfold Obligations.ImmediateForms
  intro s t w
  refine ⟨exec_addi_runs, exec_andi_runs, exec_ori_runs, exec_xori_runs, fun h hi => ?_, exec_shi_illegal, exec_lil_runs,
    exec_lih_runs⟩
  rw [exec_shi_runs h hi, shiFn_of_lt hi]

end Sys2Proof.Machine
end

section
/-!
PROOFS. BR, BL and JR (R125).
-/
namespace Sys2Proof.Machine

section
variable {s : State} {t : Site} {w : Word}

theorem exec_br_runs (h : s.Runs t 0x20 w) :
    exec (.br t) s = .next (s.onCore t (fun c => c.jump (branchTo c w))) := by
  rw [exec_br]; exact instr_runs_ok h rfl rfl

theorem exec_bl_runs (h : s.Runs t 0x21 w) :
    exec (.bl t) s = .next (s.onCore t (fun c => (c.put 31 (BitVec.setWidth 32 (c.pc + 4))).jump (branchTo c w))) := by
  rw [exec_bl]; exact instr_runs_ok h rfl rfl

/-- A target that is a multiple of 4 is the PC that a jump to it takes. -/
theorem pcOf_of_aligned {a : Nat} (h : a % 4 = 0) : pcOf a = BitVec.ofNat 19 a := by
  rw [pcOf, Nat.div_mul_cancel (Nat.dvd_of_mod_eq_zero h)]

section
variable (h : s.Runs t 0x22 w) (hrb : fRb w = 0) (hfn : fFn w = 0)
include h hrb hfn

theorem exec_jr_misaligned (hm : ((s.core t).get (fRa w)).toNat % 4 ≠ 0) :
    exec (.jr t) s = .next (s.takeTrap t 3 ((s.core t).get (fRa w))) := by
  rw [exec_jr]
  exact instr_runs_trap (cause := trMisalign) h (by simp [hrb, hfn]) (if_pos hm)

theorem exec_jr_outside (hm : ((s.core t).get (fRa w)).toNat % 4 = 0) (ho : 0x80000 ≤ ((s.core t).get (fRa w)).toNat) :
    exec (.jr t) s = .next (s.takeTrap t 4 ((s.core t).get (fRa w))) := by
  rw [exec_jr]
  exact instr_runs_trap (cause := trAddr) h (by simp [hrb, hfn]) (by simp [hm, Nat.not_lt.2 ho])

theorem exec_jr_jumps (hm : ((s.core t).get (fRa w)).toNat % 4 = 0) (ho : ((s.core t).get (fRa w)).toNat < 0x80000) :
    exec (.jr t) s = .next (s.onCore t (fun c =>
      (c.put (fRd w) (BitVec.setWidth 32 (c.pc + 4))).jump (BitVec.ofNat 19 ((s.core t).get (fRa w)).toNat))) := by
  rw [exec_jr]
  exact instr_runs_ok h (by simp [hrb, hfn]) (by simp [hm, ho, pcOf_of_aligned])

end
end

/-- Settles O20: the target and the link are those of the core that stands at the branch. -/
theorem branchesAndJumps : Obligations.BranchesAndJumps := by
  unfold Obligations.BranchesAndJumps
  intro s t w c goal link a
  refine ⟨fun h => ?_, fun h => ?_, fun h hrb hfn => ⟨fun hs ht k _ => ?_, ?_, ?_, fun _ hm ho => ?_⟩⟩
  · rw [exec_br_runs h]
    exact congrArg _ (State.onCore_congr rfl)
  · rw [exec_bl_runs h]
    exact congrArg _ (State.onCore_congr rfl)
  · exact State.takeTrap_saves hs h.unblocked ht k a
  · exact exec_jr_misaligned h hrb hfn
  · exact exec_jr_outside h hrb hfn
  · rw [exec_jr_jumps h hrb hfn hm ho]
    exact congrArg _ (State.onCore_congr rfl)

end Sys2Proof.Machine
end

section
/-!
PROOFS. What every command keeps: the canonical form of each map of the state and the commands that wait behind it
(spec/95_what_each_step_holds.md). Each meaning's own lemma stands in Laws/; here they are put together over the table of
operations.
-/
namespace Sys2Proof.Machine

/-- Every meaning keeps the canonical form and the commands that wait. -/
theorem exec_keeps {p : List Instr} {s : State} (h : s.Keeps p) : (c : Instr) → outKeeps p (exec c s)
  | .grainArrival _ _ _ => execGrainArrival_keeps h
  | .replayRequest _ _ => execReplayRequest_keeps h
  | .linkFailed _ _ => execLinkFailed_keeps h
  | .linkCreditArrival _ _ _ => execLinkCreditArrival_keeps h
  | .outputPortSend _ _ => execOutputPortSend_keeps h
  | .meshEscWait _ _ _ => execMeshEscWait_keeps h
  | .escapeMove _ _ _ => execEscapeMove_keeps h
  | .escnReceive _ => execEscnReceive_keeps h
  | .grainAccept _ => execGrainAccept_keeps h
  | .ackReceive _ => execAckReceive_keeps h
  | .prismForward _ _ => execPrismForward_keeps h
  | .errReceive _ => execErrReceive_keeps h
  | .remoteWrite _ => execRemoteWrite_keeps h
  | .remoteRead _ => execRemoteRead_keeps h
  | .rdrReceive _ => execRdrReceive_keeps h
  | .wraReceive _ => execWraReceive_keeps h
  | .svcAccess _ => execSvcAccess_keeps h
  | .storeScrub _ _ _ => execStoreScrub_keeps h
  | .sparingNotice => execSparingNotice_keeps h
  | .cacheAccess _ _ _ _ => execCacheAccess_keeps h
  | .cacheFill _ _ => execCacheFill_keeps h
  | .cacheWriteback _ => execCacheWriteback_keeps h
  | .storeSplitSwitch _ => execStoreSplitSwitch_keeps h
  | .splitSwitchEnd _ => execSplitSwitchEnd_keeps h
  | .tcGenCfgWrite _ _ => execTcGenCfgWrite_keeps h
  | .genTagClearEnd _ => execGenTagClearEnd_keeps h
  | .loamLineRequest _ _ _ _ => execLoamLineRequest_keeps h
  | .loamRefresh _ => execLoamRefresh_keeps h
  | .loamScrub _ _ => execLoamScrub_keeps h
  | .alu _ => execAlu_keeps h
  | .addi _ => execAddi_keeps h
  | .andi _ => execAndi_keeps h
  | .ori _ => execOri_keeps h
  | .xori _ => execXori_keeps h
  | .shi _ => execShi_keeps h
  | .lil _ => execLil_keeps h
  | .lih _ => execLih_keeps h
  | .mfs _ => execMfs_keeps h
  | .mts _ => execMts_keeps h
  | .lb _ => execLb_keeps h
  | .lbu _ => execLbu_keeps h
  | .lh _ => execLh_keeps h
  | .lhu _ => execLhu_keeps h
  | .lw _ => execLw_keeps h
  | .ldd _ => execLdd_keeps h
  | .sb _ => execSb_keeps h
  | .sh _ => execSh_keeps h
  | .sw _ => execSw_keeps h
  | .sdd _ => execSdd_keeps h
  | .storeBufferPerform _ => execStoreBufferPerform_keeps h
  | .instructionFetch _ => execInstructionFetch_keeps h
  | .br _ => execBr_keeps h
  | .bl _ => execBl_keeps h
  | .jr _ => execJr_keeps h
  | .pcmp _ => execPcmp_keeps h
  | .pcmpi _ => execPcmpi_keeps h
  | .plog _ => execPlog_keeps h
  | .pmov _ => execPmov_keeps h
  | .issue _ => execIssue_keeps h
  | .issueQueueRoom _ => execIssueQueueRoom_keeps h
  | .waitc _ => execWaitc_keeps h
  | .waitcRetire _ => execWaitcRetire_keeps h
  | .rdcc _ => execRdcc_keeps h
  | .waitm _ => execWaitm_keeps h
  | .waitmRetire _ => execWaitmRetire_keeps h
  | .openConn _ => execOpenConn_keeps h
  | .openRequest _ => execOpenRequest_keeps h
  | .openrReceive _ => execOpenrReceive_keeps h
  | .close _ => execClose_keeps h
  | .closeGrainSend _ _ => execCloseGrainSend_keeps h
  | .closeGrainReceive _ => execCloseGrainReceive_keeps h
  | .send _ => execSend_keeps h
  | .sendStart _ => execSendStart_keeps h
  | .sendRetire _ => execSendRetire_keeps h
  | .messageArrival _ => execMessageArrival_keeps h
  | .handlerDispatch _ => execHandlerDispatch_keeps h
  | .hret _ => execHret_keeps h
  | .mfence _ => execMfence_keeps h
  | .bar _ => execBar_keeps h
  | .wfe _ => execWfe_keeps h
  | .fin _ => execFin_keeps h
  | .finStop _ => execFinStop_keeps h
  | .stage _ => execStage_keeps h
  | .frame _ => execFrame_keeps h
  | .frameSwitch _ => execFrameSwitch_keeps h
  | .frameEntry _ => execFrameEntry_keeps h
  | .heavy _ => execHeavy_keeps h
  | .brk _ => execBrk_keeps h
  | .tret _ => execTret_keeps h
  | .nop _ => execNop_keeps h
  | .engineFault _ => execEngineFault_keeps h
  | .waitTimeout _ => execWaitTimeout_keeps h
  | .tileIdleEntry _ => execTileIdleEntry_keeps h
  | .teProduct _ => execTeProduct_keeps h
  | .teSubtileDrain _ => execTeSubtileDrain_keeps h
  | .veOperation _ => execVeOperation_keeps h
  | .suConvert _ => execSuConvert_keeps h
  | .suCompress _ => execSuCompress_keeps h
  | .suDecompress _ => execSuDecompress_keeps h
  | .suPrune _ => execSuPrune_keeps h
  | .txTranspose _ => execTxTranspose_keeps h
  | .txStream _ => execTxStream_keeps h
  | .streamPairing _ => execStreamPairing_keeps h
  | .fuEval _ => execFuEval_keeps h
  | .fuLoadtab _ => execFuLoadtab_keeps h
  | .ldLoad _ => execLdLoad_keeps h
  | .ldSave _ => execLdSave_keeps h
  | .sends _ => execSends_keeps h
  | .recv _ => execRecv_keeps h
  | .put _ => execPut_keeps h
  | .get _ => execGet_keeps h
  | .update _ => execUpdate_keeps h
  | .reduce _ _ => execReduce_keeps h
  | .ueTeProduct _ => execUeTeProduct_keeps h
  | .engineCommandComplete _ _ => execEngineCommandComplete_keeps h
  | .engineFaultEffect _ _ => execEngineFaultEffect_keeps h
  | .resume _ _ => execResume_keeps h
  | .retry _ _ => execRetry_keeps h
  | .discard _ _ => execDiscard_keeps h
  | .clrflags _ _ => execClrflags_keeps h
  | .sparseDropReport => execSparseDropReport_keeps h
  | .itemArrival _ => execItemArrival_keeps h
  | .spillReadbackDone _ _ => execSpillReadbackDone_keeps h
  | .streamCredit _ => execStreamCredit_keeps h
  | .ringCredit _ => execRingCredit_keeps h
  | .barrierArrival _ => execBarrierArrival_keeps h
  | .barrierRelease _ => execBarrierRelease_keeps h
  | .steerMerge _ _ => execSteerMerge_keeps h
  | .steerSplit _ _ => execSteerSplit_keeps h
  | .steerSelect _ _ => execSteerSelect_keeps h
  | .steerGate _ _ => execSteerGate_keeps h
  | .niSteerWrite _ _ _ => execNiSteerWrite_keeps h
  | .niPortWrite _ _ _ => execNiPortWrite_keeps h
  | .deadlockWindow _ _ => execDeadlockWindow_keeps h
  | .probeReceive _ => execProbeReceive_keeps h
  | .plotDrained _ => execPlotDrained_keeps h
  | .frameReport => execFrameReport_keeps h
  | .layerAdvance _ => execLayerAdvance_keeps h
  | .placementCommit _ => execPlacementCommit_keeps h
  | .replacement _ => execReplacement_keeps h
  | .facetCfgWrite _ _ => execFacetCfgWrite_keeps h
  | .facetTrainingDone _ _ _ _ _ => execFacetTrainingDone_keeps h
  | .attest _ _ => execAttest_keeps h
  | .facetAttestDone _ _ _ => execFacetAttestDone_keeps h
  | .facetFrameSend _ => execFacetFrameSend_keeps h
  | .facetFrameReceive _ _ _ => execFacetFrameReceive_keeps h
  | .nak _ _ => execNak_keeps h
  | .facetPortFail _ => execFacetPortFail_keeps h
  | .optRelayOpen _ _ => execOptRelayOpen_keeps h
  | .formationStart => execFormationStart_keeps h
  | .form _ => execForm_keeps h
  | .formTimeout => execFormTimeout_keeps h
  | .roster _ => execRoster_keeps h
  | .beatTimer => execBeatTimer_keeps h
  | .mark _ => execMark_keeps h
  | .beatGroupComplete _ => execBeatGroupComplete_keeps h
  | .slipreq _ => execSlipreq_keeps h
  | .bararr _ => execBararr_keeps h
  | .barrel _ => execBarrel_keeps h
  | .checked _ => execChecked_keeps h
  | .commitGrain _ => execCommitGrain_keeps h
  | .markTimeout => execMarkTimeout_keeps h
  | .roceWrite _ _ _ _ _ => execRoceWrite_keeps h
  | .roceRead _ _ _ _ _ => execRoceRead_keeps h
  | .roceSend _ _ _ => execRoceSend_keeps h
  | .cnpReceive => execCnpReceive_keeps h
  | .cnpRateRecovery => execCnpRateRecovery_keeps h
  | .rdmaReadResponse _ _ => execRdmaReadResponse_keeps h
  | .rdmaWriteAck _ => execRdmaWriteAck_keeps h
  | .qpRetryTimeout _ => execQpRetryTimeout_keeps h
  | .hostQpW0Write _ _ => execHostQpW0Write_keeps h
  | .vhcpCommandArrival _ _ => execVhcpCommandArrival_keeps h
  | .loadPackage _ => execLoadPackage_keeps h
  | .place _ => execPlace_keeps h
  | .run _ => execRun_keeps h
  | .hostStage _ => execHostStage_keeps h
  | .check _ => execCheck_keeps h
  | .commit _ => execCommit_keeps h
  | .abort _ => execAbort_keeps h
  | .query _ => execQuery_keeps h
  | .regRead _ => execRegRead_keeps h
  | .regWrite _ => execRegWrite_keeps h
  | .dumpFetch _ => execDumpFetch_keeps h
  | .recover _ => execRecover_keeps h
  | .commandTimeout _ => execCommandTimeout_keeps h
  | .commitAcksComplete _ => execCommitAcksComplete_keeps h
  | .commitInstant _ => execCommitInstant_keeps h
  | .refMonitorWindow _ _ _ => execRefMonitorWindow_keeps h
  | .pllCoast _ => execPllCoast_keeps h
  | .pllRelock _ => execPllRelock_keeps h
  | .pllSlewDone _ => execPllSlewDone_keeps h
  | .clkMuxSelWrite _ _ => execClkMuxSelWrite_keeps h
  | .clkMuxSwitchDone _ => execClkMuxSwitchDone_keeps h
  | .clkMuxHang _ => execClkMuxHang_keeps h
  | .clkMuxForce _ => execClkMuxForce_keeps h
  | .clkMeasGo _ => execClkMeasGo_keeps h
  | .clkMeasDone _ => execClkMeasDone_keeps h
  | .tileNapWake _ => execTileNapWake_keeps h
  | .tileDarkWake _ => execTileDarkWake_keeps h
  | .fieldToPenumbra _ => execFieldToPenumbra_keeps h
  | .fieldToLit _ => execFieldToLit_keeps h
  | .fieldToUmbra _ _ => execFieldToUmbra_keeps h
  | .fieldPowerUp _ => execFieldPowerUp_keeps h
  | .capLoop _ _ => execCapLoop_keeps h
  | .heavyHintReceive _ _ => execHeavyHintReceive_keeps h
  | .pwrCapSetWrite _ => execPwrCapSetWrite_keeps h
  | .energySample _ _ _ _ _ _ => execEnergySample_keeps h
  | .droopCrossing _ => execDroopCrossing_keeps h
  | .droopClampStep _ => execDroopClampStep_keeps h
  | .backfillStep _ => execBackfillStep_keeps h
  | .supplySample _ => execSupplySample_keeps h
  | .supplyCeilingStep => execSupplyCeilingStep_keeps h
  | .overloadStep _ => execOverloadStep_keeps h
  | .shutdownStage => execShutdownStage_keeps h
  | .thermalSample _ _ _ _ _ => execThermalSample_keeps h
  | .thmCfgWrite _ => execThmCfgWrite_keeps h
  | .fieldShort _ => execFieldShort_keeps h
  | .shortRetry _ _ => execShortRetry_keeps h
  | .tableCommit => execTableCommit_keeps h
  | .fence _ _ => execFence_keeps h
  | .fenceDrained _ => execFenceDrained_keeps h
  | .fenceDrainLimit _ => execFenceDrainLimit_keeps h
  | .twinDigest _ => execTwinDigest_keeps h
  | .resetNLow => execResetNLow_keeps h
  | .rasResetDevice => execRasResetDevice_keeps h
  | .rasResetWarm => execRasResetWarm_keeps h
  | .rasResetField _ => execRasResetField_keeps h
  | .rasResetPlot _ => execRasResetPlot_keeps h
  | .rasResetTile _ => execRasResetTile_keeps h
  | .plotResetReset _ => execPlotResetReset_keeps h
  | .plotResetFence _ => execPlotResetFence_keeps h
  | .resetComplete => execResetComplete_keeps h
  | .loamZeroing _ => execLoamZeroing_keeps h
  | .rasDrainWrite _ => execRasDrainWrite_keeps h
  | .scanGo _ => execScanGo_keeps h
  | .scanPeriod => execScanPeriod_keeps h
  | .scanDone _ _ _ => execScanDone_keeps h
  | .fatalError _ => execFatalError_keeps h
  | .aiTrigger => execAiTrigger_keeps h
  | .afterimageSigned => execAfterimageSigned_keeps h
  | .aiRelease => execAiRelease_keeps h
  | .watchdogAnswer => execWatchdogAnswer_keeps h
  | .watchdogExpiry => execWatchdogExpiry_keeps h
  | .topsoilRequest _ => execTopsoilRequest_keeps h
  | .powerUp => execPowerUp_keeps h
  | .auxStop => execAuxStop_keeps h
  | .deviceBoot _ => execDeviceBoot_keeps h
  | .bootStage _ => execBootStage_keeps h
  | .refwaitRetry _ _ => execRefwaitRetry_keeps h
  | .topsoilReady => execTopsoilReady_keeps h
  | .topsoilStartTimeout => execTopsoilStartTimeout_keeps h
  | .flashWriteDone _ => execFlashWriteDone_keeps h
  | .telemRecordReceive _ => execTelemRecordReceive_keeps h
  | .telemDatagramSend _ => execTelemDatagramSend_keeps h
  | .alarmResend => execAlarmResend_keeps h
  | .telemAackWrite _ => execTelemAackWrite_keeps h
  | .summaryClose _ => execSummaryClose_keeps h
  | .meshCfgWrite _ => execMeshCfgWrite_keeps h
  | .meshRouterQuery _ => execMeshRouterQuery_keeps h
  | .routeTableRead => execRouteTableRead_keeps h
  | .registerWrite _ _ => execRegisterWrite_keeps h
  | .illegalInstruction _ => execIllegalInstruction_keeps h
  | .referenceEdgeGap => execReferenceEdgeGap_keeps h
  | .forwardedClockStop _ _ => execForwardedClockStop_keeps h
  | .tileResetTimeout _ => execTileResetTimeout_keeps h
  | .hostLinkChange _ _ _ => execHostLinkChange_keeps h
  | .secureAssociation _ _ => execSecureAssociation_keeps h
  | .pfcFrame _ _ => execPfcFrame_keeps h
  | .ptpEventMessage _ _ _ => execPtpEventMessage_keeps h
  | .tapAccess _ => execTapAccess_keeps h
  | .stewardSupplyLoss => execStewardSupplyLoss_keeps h

/-- A canonical state keeps its own queue. -/
theorem State.Canonical.keeps {s : State} (h : s.Canonical) : s.Keeps s.pending := ⟨rfl, h⟩

theorem exec_next_keeps {c : Instr} {s s' : State} (h : s.Canonical) (he : exec c s = .next s') : s'.Keeps s.pending := by
  have hk := exec_keeps h.keeps c
  rwa [he] at hk

/-- The commands that wait are no map: the queue's rest leaves a canonical state canonical. -/
theorem State.Canonical.withPending {s : State} (h : s.Canonical) (l : List Instr) : State.Canonical { s with pending := l } :=
  { h with }

/-- Settles O5: an idle step changes the count alone, and every command keeps what exec_keeps says. -/
theorem stepKeepsTheStateCanonical : Obligations.StepKeepsTheStateCanonical := by
  unfold Obligations.StepKeepsTheStateCanonical
  intro s s' hs h
  cases hp : s.pending with
  | nil =>
    simp only [step, hp, Host.Outcome.next.injEq] at h
    exact h ▸ { hs with }
  | cons c rest =>
    simp only [step, hp] at h
    exact (exec_next_keeps (hs.withPending rest) h).canon

/-- Settles O6. -/
theorem commandsLeaveTheQueueAlone : Obligations.CommandsLeaveTheQueueAlone := by
  unfold Obligations.CommandsLeaveTheQueueAlone
  intro c s s' hs h
  exact (exec_next_keeps hs h).queue

end Sys2Proof.Machine
end

section
/-!
PROOFS. The files of the core (R109, R138): registers, predicates and PC as records, each operation read back once.
-/
namespace Sys2Proof.Machine

/-! ### Registers -/

section
variable (c : Core) (i j : Nat) (v : Word)

theorem Core.get_zero : c.get 0 = 0 := rfl

theorem Core.put_zero : c.put 0 v = c := rfl

/-- Where a register lives: the handler bank stands for s24 to s31 while a handler runs. -/
theorem Core.get_banked (hi : i < 32) (h : c.handH = true) (hb : 24 ≤ i) :
    c.get i = c.bank[i - 24]'(by omega) := by
  have h0 : i ≠ 0 := by omega
  have h8 : i - 24 < 8 := by omega
  simp [Core.get, h0, h, hb, h8]

theorem Core.get_plain (hi : i < 32) (h0 : i ≠ 0) (h : c.handH = false ∨ i < 24) : c.get i = c.regs[i] := by
  have hb : (c.handH && decide (24 ≤ i)) = false := by
    rcases h with h | h
    · simp [h]
    · simp [Nat.not_le.2 h]
  simp [Core.get, h0, hb, hi]

theorem Core.put_banked (hi : i < 32) (h : c.handH = true) (hb : 24 ≤ i) :
    c.put i v = { c with bank := c.bank.set (i - 24) v (by omega) } := by
  have h0 : i ≠ 0 := by omega
  have h8 : i - 24 < 8 := by omega
  simp [Core.put, h0, h, hb, h8]

theorem Core.put_plain (hi : i < 32) (h0 : i ≠ 0) (h : c.handH = false ∨ i < 24) :
    c.put i v = { c with regs := c.regs.set i v } := by
  have hb : (c.handH && decide (24 ≤ i)) = false := by
    rcases h with h | h
    · simp [h]
    · simp [Nat.not_le.2 h]
  simp [Core.put, h0, hb, hi]

/-- A write touches one of the two files and nothing else of the core. -/
theorem Core.put_files : ∃ (r : Vector Word 32) (b : Vector Word 8), c.put i v = { c with regs := r, bank := b } := by
  unfold Core.put
  split
  · exact ⟨c.regs, c.bank, rfl⟩
  split
  · split
    · exact ⟨c.regs, _, rfl⟩
    · exact ⟨c.regs, c.bank, rfl⟩
  split
  · exact ⟨_, c.bank, rfl⟩
  · exact ⟨c.regs, c.bank, rfl⟩

theorem Core.put_handH : (c.put i v).handH = c.handH := by
  obtain ⟨r, b, h⟩ := c.put_files i v
  rw [h]

/-- A read after a write. -/
theorem Core.get_put (hi : i < 32) (hj : j < 32) :
    (c.put i v).get j = if i = j ∧ i ≠ 0 then v else c.get j := by
  by_cases i0 : i = 0
  · simp [i0, Core.put_zero]
  by_cases j0 : j = 0
  · subst j0
    simp [Core.get_zero, i0]
  by_cases hbi : c.handH = true ∧ 24 ≤ i
  · rw [Core.put_banked c i v hi hbi.1 hbi.2]
    by_cases hbj : 24 ≤ j
    · have hij : (i - 24 = j - 24) ↔ i = j := by omega
      rw [Core.get_banked _ j hj (by exact hbi.1) hbj, Core.get_banked c j hj hbi.1 hbj]
      simp [Vector.getElem_set, hij, i0]
    · have hij : i ≠ j := by omega
      rw [Core.get_plain _ j hj j0 (.inr (by omega)), Core.get_plain c j hj j0 (.inr (by omega))]
      simp [hij]
  · have hpi : c.handH = false ∨ i < 24 := by
      cases hh : c.handH
      · exact .inl rfl
      · exact .inr (by simpa [hh] using hbi)
    rw [Core.put_plain c i v hi i0 hpi]
    by_cases hbj : c.handH = true ∧ 24 ≤ j
    · have hij : i ≠ j := by
        rcases hpi with h | h
        · simp [hbj.1] at h
        · omega
      rw [Core.get_banked _ j hj (by exact hbj.1) hbj.2, Core.get_banked c j hj hbj.1 hbj.2]
      simp [hij]
    · have hpj : c.handH = false ∨ j < 24 := by
        cases hh : c.handH
        · exact .inl rfl
        · exact .inr (by simpa [hh] using hbj)
      rw [Core.get_plain _ j hj j0 (by exact hpj), Core.get_plain c j hj j0 hpj]
      simp [Vector.getElem_set, i0]

theorem Core.put_regs_of_handler (hi : i < 32) (h : c.handH = true) (hb : 24 ≤ i) : (c.put i v).regs = c.regs := by
  rw [Core.put_banked c i v hi h hb]

theorem Core.put_bank_of_plain (hi : i < 32) (h : c.handH = false ∨ i < 24) : (c.put i v).bank = c.bank := by
  by_cases i0 : i = 0
  · rw [i0, Core.put_zero]
  · rw [Core.put_plain c i v hi i0 h]

end

/-! ### Predicates -/

section
variable (c : Core) (p q : Nat) (b : Bool)

theorem Core.pred_zero : c.pred 0 = true := rfl

theorem Core.setPred_zero : c.setPred 0 b = c := rfl

/-- A write of a predicate touches the byte of predicates alone. -/
theorem Core.setPred_preds : ∃ x : BitVec 8, c.setPred p b = { c with preds := x } := by
  unfold Core.setPred
  split
  · exact ⟨c.preds, rfl⟩
  · exact ⟨_, rfl⟩

/-- One bit of a byte, as the mask that names it. -/
theorem getLsbD_bitMask {q : Nat} (hq : q < 8) : (BitVec.ofNat 8 (2 ^ p)).getLsbD q = decide (p = q) := by
  rw [BitVec.getLsbD_ofNat, Nat.testBit_two_pow]
  simp [hq]

theorem Core.pred_setPred (hq : q < 8) : (c.setPred p b).pred q = if p = q ∧ p ≠ 0 then b else c.pred q := by
  by_cases p0 : p = 0
  · simp [p0, Core.setPred_zero]
  by_cases q0 : q = 0
  · subst q0
    simp [Core.pred_zero, p0]
  have hm := getLsbD_bitMask p hq
  simp only [Core.setPred, Core.pred, if_neg p0, q0, decide_false, Bool.false_or]
  generalize BitVec.ofNat 8 (2 ^ p) = m at hm ⊢
  rw [BitVec.getLsbD_eq_getElem hq] at hm
  by_cases hpq : p = q <;> cases b <;> simp [hm, hpq, q0, hq]

end

/-! ### The PC -/

theorem Core.advance_eq (c : Core) :
    c.advance = { c with pc := c.pc + 4, fetch := if c.pc.toNat % 8 = 4 then c.fetch.drop 1 else c.fetch } := rfl

theorem Core.jump_eq (c : Core) (a : BitVec 19) : c.jump a = { c with pc := a, fetch := [] } := rfl

/-- Settles O8: the rules of the two files, of the predicates and of the PC; the JR is that of exec_jr_jumps. -/
theorem coreRegisterFiles : Obligations.CoreRegisterFiles := by
  unfold Obligations.CoreRegisterFiles
  refine ⟨fun c i j p q v b a hi hj _ hq => ⟨⟨?_, ?_, ?_, ?_, ?_, ?_, ?_⟩, ⟨?_, ?_, ?_, ?_⟩, ?_, ?_, ?_, ?_, ?_⟩,
    fun s t w h hrb hfn _ => ?_⟩
  · exact c.get_zero
  · exact c.put_zero v
  · exact c.get_put i j v hi hj
  · exact c.put_regs_of_handler i v hi
  · exact fun h => c.put_bank_of_plain i v hi (.inl h)
  · exact fun h => c.put_bank_of_plain i v hi (.inr h)
  · exact c.put_files i v
  · exact c.pred_zero
  · exact c.setPred_zero b
  · exact c.pred_setPred p q b hq
  · exact c.setPred_preds p b
  · exact BitVec.toNat_add c.pc 4
  · intro h0
    simp [Core.advance_eq, h0]
  · intro h4
    simp [Core.advance_eq, h4]
  · exact ⟨_, c.advance_eq⟩
  · exact c.jump_eq a
  · intro a hm ho
    exact exec_jr_jumps h hrb hfn hm ho

end Sys2Proof.Machine
end

section
/-!
PROOFS. The instructions of R119 as rows of one table: each is the path `instr` with its major opcode and a decoding that takes the
words R118 lets it have. What that path does with a false guard, a refused word or a frozen device then holds of every row at once.
-/
namespace Sys2Proof.Machine

/-- A row of coreRows is the path of an instruction whose decoding takes the row's words. -/
def IsCoreRow (t : Site) (r : Instr × Nat × (Word → Prop)) : Prop :=
  ∃ name legal body, (∀ s, exec r.1 s = instr name r.2.1 t legal body s) ∧ ∀ w, legal w = true ↔ r.2.2 w

/-- A bare word has its 23 low bits clear: rd, ra, rb and fn are 0. -/
theorem bareLegal_iff (w : Word) : bareLegal w = true ↔ fRd w = 0 ∧ fRa w = 0 ∧ fRb w = 0 ∧ fFn w = 0 := by
  simp only [bareLegal, decide_eq_true_eq, fRd, fRa, fRb, fFn, Word.field, Nat.shiftRight_eq_div_pow]
  omega

theorem coreRows_isCoreRow (t : Site) : ∀ r ∈ coreRows t, IsCoreRow t r := by
  simp only [coreRows, List.forall_mem_cons]
  and_intros
  · exact ⟨_, _, _, fun s => execAlu.eq_1 t s, fun _ => aluLegal_iff⟩
  · exact ⟨_, _, _, fun s => execAddi.eq_1 t s, fun _ => iff_of_true rfl trivial⟩
  · exact ⟨_, _, _, fun s => execAndi.eq_1 t s, fun _ => iff_of_true rfl trivial⟩
  · exact ⟨_, _, _, fun s => execOri.eq_1 t s, fun _ => iff_of_true rfl trivial⟩
  · exact ⟨_, _, _, fun s => execXori.eq_1 t s, fun _ => iff_of_true rfl trivial⟩
  · exact ⟨_, _, _, fun s => execShi.eq_1 t s, fun w => by simp⟩
  · exact ⟨_, _, _, fun s => execLil.eq_1 t s, fun w => by simp [limLegal]⟩
  · exact ⟨_, _, _, fun s => execLih.eq_1 t s, fun w => by simp [limLegal]⟩
  · exact ⟨_, _, _, fun s => execMfs.eq_1 t s, fun w => by simp [and_assoc]⟩
  · exact ⟨_, _, _, fun s => execMts.eq_1 t s, fun w => by simp [and_assoc]⟩
  · exact ⟨_, _, _, fun s => execLb.eq_1 t s, fun _ => iff_of_true rfl trivial⟩
  · exact ⟨_, _, _, fun s => execLbu.eq_1 t s, fun _ => iff_of_true rfl trivial⟩
  · exact ⟨_, _, _, fun s => execLh.eq_1 t s, fun _ => iff_of_true rfl trivial⟩
  · exact ⟨_, _, _, fun s => execLhu.eq_1 t s, fun _ => iff_of_true rfl trivial⟩
  · exact ⟨_, _, _, fun s => execLw.eq_1 t s, fun _ => iff_of_true rfl trivial⟩
  · exact ⟨_, _, _, fun s => execLdd.eq_1 t s, fun w => by simp [evenRd]⟩
  · exact ⟨_, _, _, fun s => execSb.eq_1 t s, fun _ => iff_of_true rfl trivial⟩
  · exact ⟨_, _, _, fun s => execSh.eq_1 t s, fun _ => iff_of_true rfl trivial⟩
  · exact ⟨_, _, _, fun s => execSw.eq_1 t s, fun _ => iff_of_true rfl trivial⟩
  · exact ⟨_, _, _, fun s => execSdd.eq_1 t s, fun w => by simp [evenRd]⟩
  · exact ⟨_, _, _, fun s => execBr.eq_1 t s, fun _ => iff_of_true rfl trivial⟩
  · exact ⟨_, _, _, fun s => execBl.eq_1 t s, fun _ => iff_of_true rfl trivial⟩
  · exact ⟨_, _, _, fun s => execJr.eq_1 t s, fun w => by simp⟩
  · exact ⟨_, _, _, fun s => execPcmp.eq_1 t s, fun w => by simp [and_comm]⟩
  · exact ⟨_, _, _, fun s => execPcmpi.eq_1 t s, fun w => by simp⟩
  · exact ⟨_, _, _, fun s => execPlog.eq_1 t s, fun w => by simp⟩
  · exact ⟨_, _, _, fun s => execPmov.eq_1 t s, fun w => by simp⟩
  · exact ⟨_, _, _, fun s => execIssue.eq_1 t s, fun w => by simp⟩
  · exact ⟨_, _, _, fun s => execWaitc.eq_1 t s, fun w => by simp [and_assoc]⟩
  · exact ⟨_, _, _, fun s => execRdcc.eq_1 t s, fun w => by simp⟩
  · exact ⟨_, _, _, fun s => execWaitm.eq_1 t s, fun w => by simp [and_assoc]⟩
  · exact ⟨_, _, _, fun s => execOpenConn.eq_1 t s, fun w => by simp⟩
  · exact ⟨_, _, _, fun s => execClose.eq_1 t s, fun w => by simp [and_assoc]⟩
  · exact ⟨_, _, _, fun s => execSend.eq_1 t s, fun w => by simp⟩
  · exact ⟨_, _, _, fun s => execHret.eq_1 t s, bareLegal_iff⟩
  · exact ⟨_, _, _, fun s => execMfence.eq_1 t s, bareLegal_iff⟩
  · exact ⟨_, _, _, fun s => execBar.eq_1 t s, fun w => by simp [immOnly, and_assoc]⟩
  · exact ⟨_, _, _, fun s => execWfe.eq_1 t s, bareLegal_iff⟩
  · exact ⟨_, _, _, fun s => execFin.eq_1 t s, bareLegal_iff⟩
  · exact ⟨_, _, _, fun s => execStage.eq_1 t s, fun w => by simp⟩
  · exact ⟨_, _, _, fun s => execFrame.eq_1 t s, fun w => by simp [immOnly, and_assoc]⟩
  · exact ⟨_, _, _, fun s => execHeavy.eq_1 t s, fun w => by simp [immOnly, and_assoc]⟩
  · exact ⟨_, _, _, fun s => execBrk.eq_1 t s, fun w => by simp [immOnly]⟩
  · exact ⟨_, _, _, fun s => execTret.eq_1 t s, bareLegal_iff⟩
  · exact ⟨_, _, _, fun s => execNop.eq_1 t s, bareLegal_iff⟩
  · exact fun _ hr => absurd hr List.not_mem_nil

/-! ### What the path does with a row -/

section
variable {s : State} {t : Site} {w : Word} {r : Instr × Nat × (Word → Prop)}

theorem IsCoreRow.skips (hr : IsCoreRow t r) (h : s.StandsAt t r.2.1 w) (hw : r.2.2 w) (hg : (s.core t).pred (fPg w) = false) :
    exec r.1 s = .next (s.onCore t Core.advance) := by
  obtain ⟨name, legal, body, he, hl⟩ := hr
  rw [he]
  exact instr_skips h ((hl w).2 hw) hg

theorem IsCoreRow.illegal (hr : IsCoreRow t r) (ht : s.Live t) (hb : s.atBoundary t = true) (hc : (s.core t).word = some w)
    (ho : fOp w = r.2.1) (hw : ¬ r.2.2 w) : exec r.1 s = .next (s.takeTrap t 2 w) := by
  obtain ⟨name, legal, body, he, hl⟩ := hr
  rw [he]
  exact Machine.instr_illegal ht hb hc ho (Bool.eq_false_iff.2 fun h => hw ((hl w).1 h))

theorem onTile_frozen {k : Out} (ht : t.isTile = true) (hf : s.frozen = true) : onTile t s k = .refused .frozen := by
  simp [Machine.onTile, ht, hf]

theorem Site.onWafer_of_isTile (ht : t.isTile = true) : t.onWafer = true := by
  rw [Site.isTile, Bool.and_eq_true] at ht
  exact ht.1

theorem State.Live.site (h : s.Live t) : s.LiveSite t := ⟨Site.onWafer_of_isTile h.tile, h.thawed⟩

theorem onSite_frozen {k : Out} (ht : t.onWafer = true) (hf : s.frozen = true) : onSite t s k = .refused .frozen := by
  simp [onSite, ht, hf]

theorem IsCoreRow.frozen (hr : IsCoreRow t r) (ht : t.isTile = true) (hf : s.frozen = true) :
    exec r.1 s = .refused .frozen := by
  obtain ⟨name, legal, body, he, -⟩ := hr
  rw [he, instr, onTile_frozen ht hf]

end

/-- The opcodes that ILLEGAL_INSTRUCTION leaves to other commands are those of the rows. -/
theorem mem_assignedOps (t : Site) : ∀ op ∈ assignedOps, ∃ r ∈ coreRows t, r.2.1 = op := by
  have h : (coreRows t).map (fun r => r.2.1) = assignedOps := rfl
  intro op ho
  rwa [← h, List.mem_map] at ho

theorem exec_illegalInstruction {s : State} {t : Site} {w : Word} (ht : s.Live t) (hb : s.atBoundary t = true)
    (hw : (s.core t).word = some w) (ho : fOp w ∉ assignedOps) :
    exec (.illegalInstruction t) s = .next (s.takeTrap t 2 w) := by
  refine (onTile_live ht).trans ?_
  simp [hw, hb, ho, when_of, trIllegal]

/-- Settles O7: every row is an event of its tile, and so are the others. -/
theorem frozenTilesStand : Obligations.FrozenTilesStand := by
  unfold Obligations.FrozenTilesStand
  intro t s ht hf
  refine ⟨fun r hr => (coreRows_isCoreRow t r hr).frozen ht hf, ?_⟩
  have hs := Site.onWafer_of_isTile ht
  simp only [List.forall_mem_cons]
  and_intros
  · exact onSite_frozen hs hf
  · exact onSite_frozen hs hf
  · exact onTile_frozen ht hf
  · exact onTile_frozen ht hf
  · exact onTile_frozen ht hf
  · exact onTile_frozen ht hf
  · exact onTile_frozen ht hf
  · exact onTile_frozen ht hf
  · exact onTile_frozen ht hf
  · exact onTile_frozen ht hf
  · exact onTile_frozen ht hf
  · exact fun _ hr => absurd hr List.not_mem_nil

/-- Settles O9. -/
theorem falseGuardOnlyAdvancesThePc : Obligations.FalseGuardOnlyAdvancesThePc := by
  unfold Obligations.FalseGuardOnlyAdvancesThePc
  intro s t w r hr h hw hg
  exact (coreRows_isCoreRow t r hr).skips h hw hg

/-- Settles O10. -/
theorem illegalWordsTrap : Obligations.IllegalWordsTrap := by
  unfold Obligations.IllegalWordsTrap
  intro s t w ht hf hb hw
  refine ⟨fun r hr ho hn => (coreRows_isCoreRow t r hr).illegal ⟨ht, hf⟩ hb hw ho hn,
    fun hn => exec_illegalInstruction ⟨ht, hf⟩ hb hw fun ho => ?_, rfl⟩
  obtain ⟨r, hr, he⟩ := mem_assignedOps t _ ho
  exact hn r hr he.symm

/-! ### Traps and their return -/

section
variable {s : State} {t : Site} {w : Word}

theorem exec_brk_traps (h : s.Runs t 0x3D w) (hd : fRd w = 0) (ha : fRa w = 0) :
    exec (.brk t) s = .next (s.takeTrap t 10 (BitVec.ofNat 32 (fImm13 w))) := by
  change execBrk t s = _
  exact instr_runs_trap (cause := trBreak) h (by simp [immOnly, hd, ha]) rfl

theorem exec_tret_returns (h : s.Runs t 0x3E w) (hw : Word.field w 22 0 = 0) (ht : (s.core t).trapT = true) :
    exec (.tret t) s = .next (s.onCore t Core.trapReturn) := by
  change execTret t s = _
  exact instr_runs_ok h (decide_eq_true hw) (if_pos ht)

theorem exec_tret_illegal (h : s.Runs t 0x3E w) (hw : Word.field w 22 0 = 0) (ht : (s.core t).trapT = false) :
    exec (.tret t) s = .next (s.takeTrap t 2 w) := by
  change execTret t s = _
  exact instr_runs_trap (cause := trIllegal) h (decide_eq_true hw) (if_neg (by simp [ht]))

end

section
variable {s : State} {t : Site}

/-- Where the core waits for no OPEN, a trap leaves the NI alone. -/
theorem State.takeTrap_eq (hb : ∀ tag rd, (s.core t).blocked ≠ some (.openConn tag rd)) (cause tval : Word) :
    s.takeTrap t cause tval =
      if (s.core t).trapT then
        (s.onCore t (fun c => { c with run := .stopped, blocked := none })).report t
          (.doubleTrap cause (BitVec.setWidth 32 (s.core t).pc) tval)
      else if (s.core t).tvec = 0 then
        (s.onCore t (fun c => { c with epc := BitVec.setWidth 32 (s.core t).pc, cause := cause, tval := tval,
                                       run := .stopped, blocked := none })).report t
          (.doubleTrap cause (BitVec.setWidth 32 (s.core t).pc) tval)
      else s.onCore t (fun c => { c with
        epc := BitVec.setWidth 32 (s.core t).pc, cause := cause, tval := tval, trapT := true, blocked := none,
        pc := pcOf c.tvec.toNat, fetch := [] }) := by
  cases hc : (s.core t).blocked with
  | none => simp only [State.takeTrap, hc]; rfl
  | some b =>
    cases b with
    | openConn tag rd => exact absurd hc (hb tag rd)
    | _ => simp only [State.takeTrap, hc]; rfl

end

/-- Settles O11. -/
theorem trapEntry : Obligations.TrapEntry := by
  unfold Obligations.TrapEntry
  intro s t cause tval hb c pc
  rw [State.takeTrap_eq hb]
  refine ⟨fun ht hv => ?_, fun ht hv => ?_, fun ht => ?_⟩
  · rw [if_neg (by simpa using ht), if_neg hv]
  · rw [if_neg (by simpa using ht), if_pos hv]
  · rw [if_pos ht]

/-- Settles O12. -/
theorem breakAndTrapReturn : Obligations.BreakAndTrapReturn := by
  unfold Obligations.BreakAndTrapReturn
  exact fun s t w => ⟨exec_brk_traps, exec_tret_returns, exec_tret_illegal⟩

end Sys2Proof.Machine
end

section
/-!
PROOFS. Fields of registers, steward registers and tile control registers alike: what a field reads after a write of the same field,
of another field of its register, and of another register.
-/
namespace Sys2Proof.Machine

/-! ### Fields of a 64-bit word -/

theorem Dword.field_lt (w : Dword) (hi lo : Nat) : Dword.field w hi lo < 2 ^ (hi + 1 - lo) :=
  Nat.mod_lt _ (Nat.two_pow_pos _)

theorem Dword.testBit_field (w : Dword) (hi lo i : Nat) :
    (Dword.field w hi lo).testBit i = (decide (i < hi + 1 - lo) && w.getLsbD (lo + i)) := by
  rw [Dword.field, Nat.testBit_mod_two_pow, Nat.testBit_shiftRight]
  rfl

/-- The mask of a field has the field's bits. -/
theorem Dword.getLsbD_fieldMask {hi lo i : Nat} (hi64 : i < 64) (hl : lo ≤ hi) :
    (BitVec.ofNat 64 ((2 ^ (hi + 1 - lo) - 1) <<< lo)).getLsbD i = decide (lo ≤ i ∧ i ≤ hi) := by
  rw [BitVec.getLsbD_ofNat, Nat.testBit_shiftLeft, Nat.testBit_two_pow_sub_one]
  simp only [hi64, decide_true, Bool.true_and, ge_iff_le, ← Bool.decide_and, decide_eq_decide]
  omega

theorem Dword.getLsbD_setField (w : Dword) {hi lo i : Nat} (v : Nat) (hi64 : i < 64) (hl : lo ≤ hi) :
    (Dword.setField w hi lo v).getLsbD i = if lo ≤ i ∧ i ≤ hi then v.testBit (i - lo) else w.getLsbD i := by
  have hm := Dword.getLsbD_fieldMask hi64 hl
  have hv : (BitVec.ofNat 64 (v <<< lo)).getLsbD i = (decide (lo ≤ i) && v.testBit (i - lo)) := by
    rw [BitVec.getLsbD_ofNat, Nat.testBit_shiftLeft]
    simp [hi64]
  simp only [Dword.setField, BitVec.getLsbD_or, BitVec.getLsbD_and, BitVec.getLsbD_not, hm, hv, hi64, decide_true,
    Bool.true_and]
  by_cases hin : lo ≤ i ∧ i ≤ hi
  · simp [hin]
  · simp [hin]

theorem Dword.field_setField_same (w : Dword) {hi lo : Nat} (v : Nat) (h64 : hi < 64) (hl : lo ≤ hi) :
    Dword.field (Dword.setField w hi lo v) hi lo = v % 2 ^ (hi + 1 - lo) := by
  apply Nat.eq_of_testBit_eq
  intro i
  rw [Dword.testBit_field, Nat.testBit_mod_two_pow]
  by_cases hi' : i < hi + 1 - lo
  · have hin : lo ≤ lo + i ∧ lo + i ≤ hi := by omega
    rw [Dword.getLsbD_setField w v (by omega) hl, if_pos hin, Nat.add_sub_cancel_left]
  · simp [hi']

theorem Dword.field_setField_other (w : Dword) {hi lo h l : Nat} (v : Nat) (hd : h < lo ∨ hi < l) (hl : lo ≤ hi) :
    Dword.field (Dword.setField w hi lo v) h l = Dword.field w h l := by
  apply Nat.eq_of_testBit_eq
  intro i
  rw [Dword.testBit_field, Dword.testBit_field]
  by_cases hi' : i < h + 1 - l
  · by_cases h64 : l + i < 64
    · have hout : ¬ (lo ≤ l + i ∧ l + i ≤ hi) := by omega
      rw [Dword.getLsbD_setField w v h64 hl, if_neg hout]
    · rw [BitVec.getLsbD_of_ge _ _ (by omega), BitVec.getLsbD_of_ge _ _ (by omega)]
  · simp [hi']

/-- A field within the field that was written reads its part of the value. -/
theorem Dword.field_setField_inside (w : Dword) {hi lo h l : Nat} (v : Nat) (h64 : hi < 64) (hl : lo ≤ l) (hh : h ≤ hi)
    (hle : lo ≤ hi) : Dword.field (Dword.setField w hi lo v) h l = v / 2 ^ (l - lo) % 2 ^ (h + 1 - l) := by
  apply Nat.eq_of_testBit_eq
  intro i
  rw [Dword.testBit_field, Nat.testBit_mod_two_pow, Nat.testBit_div_two_pow]
  by_cases hi' : i < h + 1 - l
  · have hin : lo ≤ l + i ∧ l + i ≤ hi := by omega
    rw [Dword.getLsbD_setField w v (by omega) hle, if_pos hin, show l + i - lo = i + (l - lo) by omega]
  · simp [hi']

/-- Writing back what a field holds changes nothing. -/
theorem Dword.setField_self (w : Dword) {hi lo : Nat} (hl : lo ≤ hi) : Dword.setField w hi lo (Dword.field w hi lo) = w := by
  apply BitVec.eq_of_getLsbD_eq
  intro i h64
  rw [Dword.getLsbD_setField w _ h64 hl]
  split
  · next hin =>
    rw [Dword.testBit_field, show lo + (i - lo) = i by omega]
    simp only [Bool.and_eq_right_iff_imp, decide_eq_true_eq]
    omega
  · rfl

/-! ### Steward registers -/

section
variable {s : State}

theorem State.fld_lt (s : State) (a hi lo : Nat) : s.fld a hi lo < 2 ^ (hi + 1 - lo) := Dword.field_lt _ _ _

theorem State.setReg_fld_same (h : s.Canonical) (a hi lo : Nat) (v : Dword) : (s.setReg a v).fld a hi lo = Dword.field v hi lo := by
  rw [State.fld, State.setReg_reg_same h]

theorem State.setReg_fld_other {a b : Nat} (hb : b ≠ a) (hi lo : Nat) (v : Dword) : (s.setReg a v).fld b hi lo = s.fld b hi lo := by
  rw [State.fld, State.setReg_reg_other hb, State.fld]

theorem State.setFld_reg_other {a b : Nat} (hb : b ≠ a) (hi lo v : Nat) : (s.setFld a hi lo v).reg b = s.reg b :=
  State.setReg_reg_other hb _

theorem State.setFld_fld_same (h : s.Canonical) {a hi lo : Nat} (v : Nat) (h64 : hi < 64) (hl : lo ≤ hi) :
    (s.setFld a hi lo v).fld a hi lo = v % 2 ^ (hi + 1 - lo) := by
  rw [State.setFld, State.setReg_fld_same h, Dword.field_setField_same _ _ h64 hl]

/-- A field takes a value that fits it. -/
theorem State.setFld_fld_of_lt (h : s.Canonical) {a hi lo v : Nat} (h64 : hi < 64) (hl : lo ≤ hi) (hv : v < 2 ^ (hi + 1 - lo)) :
    (s.setFld a hi lo v).fld a hi lo = v := by
  rw [State.setFld_fld_same h v h64 hl, Nat.mod_eq_of_lt hv]

theorem State.setFld_fld_field (h : s.Canonical) {a hi lo h' l' : Nat} (v : Nat) (hd : h' < lo ∨ hi < l') (hl : lo ≤ hi) :
    (s.setFld a hi lo v).fld a h' l' = s.fld a h' l' := by
  rw [State.setFld, State.setReg_fld_same h, Dword.field_setField_other _ _ hd hl, State.fld]

theorem State.setFld_fld_other {a b : Nat} (hb : b ≠ a) (hi lo v h' l' : Nat) : (s.setFld a hi lo v).fld b h' l' = s.fld b h' l' :=
  State.setReg_fld_other hb _ _ _

/-- A field of another register, or another field of the same one. -/
theorem State.setFld_fld_apart (h : s.Canonical) {a b hi lo h' l' : Nat} (v : Nat) (hd : b ≠ a ∨ h' < lo ∨ hi < l') (hl : lo ≤ hi) :
    (s.setFld a hi lo v).fld b h' l' = s.fld b h' l' := by
  by_cases hb : b = a
  · subst hb
    exact State.setFld_fld_field h v (hd.resolve_left (fun h => h rfl)) hl
  · exact State.setFld_fld_other hb _ _ _ _ _

end

/-! ### What is canonical stays so -/

section
variable {s : State}

theorem State.Canonical.setReg (h : s.Canonical) (a : Nat) (v : Dword) : (s.setReg a v).Canonical :=
  (State.setReg_keeps h.keeps).canon

theorem State.Canonical.setFld (h : s.Canonical) (a hi lo v : Nat) : (s.setFld a hi lo v).Canonical :=
  (State.setFld_keeps h.keeps).canon

theorem State.Canonical.bump (h : s.Canonical) (a hi lo v : Nat) : (s.bump a hi lo v).Canonical :=
  (State.bump_keeps h.keeps).canon

theorem State.Canonical.setTile (h : s.Canonical) (t : Site) (v : Tile) : (s.setTile t v).Canonical :=
  (State.setTile_keeps h.keeps).canon

theorem State.Canonical.onTile (h : s.Canonical) (t : Site) (f : Tile → Tile) : (s.onTile t f).Canonical :=
  (State.onTile_keeps h.keeps).canon

theorem State.Canonical.onCore (h : s.Canonical) (t : Site) (f : Core → Core) : (s.onCore t f).Canonical :=
  (State.onCore_keeps h.keeps).canon

theorem State.Canonical.onNi (h : s.Canonical) (t : Site) (f : Ni → Ni) : (s.onNi t f).Canonical :=
  (State.onNi_keeps h.keeps).canon

theorem State.Canonical.onQueue (h : s.Canonical) (t : Site) (q : Nat) (f : Queue → Queue) : (s.onQueue t q f).Canonical :=
  (State.onQueue_keeps h.keeps).canon

theorem State.Canonical.onRouter (h : s.Canonical) (t : Site) (f : Router → Router) : (s.onRouter t f).Canonical :=
  (State.onRouter_keeps h.keeps).canon

theorem State.Canonical.setCreg (h : s.Canonical) (t : Site) (a : Nat) (v : Dword) : (s.setCreg t a v).Canonical :=
  (State.setCreg_keeps h.keeps).canon

theorem State.Canonical.setCfld (h : s.Canonical) (t : Site) (a hi lo v : Nat) : (s.setCfld t a hi lo v).Canonical :=
  (State.setCfld_keeps h.keeps).canon

end

end Sys2Proof.Machine
end

section
/-!
PROOFS. The queue of commands and reset.
-/
namespace Sys2Proof.Machine

/-- Settles O1. -/
theorem stepRunsTheFrontCommand : Obligations.StepRunsTheFrontCommand := by
  unfold Obligations.StepRunsTheFrontCommand
  exact fun c rest s => rfl

/-- Settles O2. -/
theorem idleStepCountsACycle : Obligations.IdleStepCountsACycle := by
  unfold Obligations.IdleStepCountsACycle
  intro s h
  simp only [step, h]

/-- Every map is empty at reset. -/
theorem State.reset_canonical : State.reset.Canonical := by
  constructor <;> exact mapWf_nil _

/-- Settles O3. -/
theorem resetIsCanonical : Obligations.ResetIsCanonical := by
  unfold Obligations.ResetIsCanonical
  exact ⟨State.reset_canonical, rfl⟩

/-! ### The rows of the register index name different registers -/

/-- Address a is a register of row r. -/
def RegRow.Names (r : RegRow) (a : Nat) : Prop := ∃ i, i < r.count ∧ a = r.first + r.stride * i

/-- Rows whose registers differ: one ends before the other begins, or they interleave at one stride out of step. -/
def RegRow.Apart (r x : RegRow) : Prop :=
  r.first + r.stride * (r.count - 1) < x.first ∨ x.first + x.stride * (x.count - 1) < r.first ∨
    (r.stride = x.stride ∧ r.first % r.stride ≠ x.first % r.stride)

/-- The rows of the index are pairwise apart. -/
theorem regTable_apart : ∀ r ∈ regTable, ∀ x ∈ regTable, r = x ∨ r.Apart x := by
  unfold RegRow.Apart
  decide +kernel

theorem regTable_stride_pos : ∀ r ∈ regTable, 0 < r.stride := by
  decide +kernel

theorem RegRow.Apart.not_names {r x : RegRow} (h : r.Apart x) {a : Nat} (hr : r.Names a) : ¬ x.Names a := by
  rintro ⟨j, hj, hx⟩
  obtain ⟨i, hi, ha⟩ := hr
  have hri : r.stride * i ≤ r.stride * (r.count - 1) := Nat.mul_le_mul_left _ (by omega)
  have hxj : x.stride * j ≤ x.stride * (x.count - 1) := Nat.mul_le_mul_left _ (by omega)
  rcases h with h | h | ⟨hs, hm⟩
  · omega
  · omega
  · apply hm
    have hr' : a % r.stride = r.first % r.stride := by rw [ha, Nat.add_mul_mod_self_left]
    rw [← hr', hx, hs, Nat.add_mul_mod_self_left]

/-- The row that regRow finds is one that names the address. -/
theorem regRow_test_iff {r : RegRow} (hs : 0 < r.stride) (a : Nat) :
    (decide (r.first ≤ a) && decide ((a - r.first) % r.stride = 0) && decide ((a - r.first) / r.stride < r.count)) = true ↔
      r.Names a := by
  simp only [Bool.and_eq_true, decide_eq_true_eq]
  constructor
  · rintro ⟨⟨hf, hm⟩, hc⟩
    refine ⟨(a - r.first) / r.stride, hc, ?_⟩
    rw [Nat.mul_div_cancel' (Nat.dvd_of_mod_eq_zero hm)]
    omega
  · rintro ⟨i, hi, rfl⟩
    simp [Nat.mul_div_cancel_left _ hs, hi]

theorem regRow_of_names {r : RegRow} (hr : r ∈ regTable) {a : Nat} (ha : r.Names a) : regRow a = some r := by
  have htest : ∀ x ∈ regTable, (decide (x.first ≤ a) && decide ((a - x.first) % x.stride = 0) &&
      decide ((a - x.first) / x.stride < x.count)) = true ↔ x.Names a :=
    fun x hx => regRow_test_iff (regTable_stride_pos x hx) a
  cases hf : regRow a with
  | none =>
    have hn := List.find?_eq_none.1 hf r hr
    exact absurd ((htest r hr).2 ha) hn
  | some x =>
    have hx : x ∈ regTable := List.mem_of_find?_eq_some hf
    have hxa : x.Names a := by
      rw [regRow] at hf
      have hp := List.find?_some hf
      exact (htest x hx).1 hp
    rcases regTable_apart r hr x hx with rfl | hap
    · rfl
    · exact absurd hxa (hap.not_names ha)

theorem regReset_of_names {r : RegRow} (hr : r ∈ regTable) {a : Nat} (ha : r.Names a) (hq : a ≠ rHostQcfg 0) :
    regReset a = BitVec.ofNat 64 r.reset := by
  rw [regReset, if_neg hq, regRow_of_names hr ha]

/-! ### A tile at reset -/

theorem State.reset_tile (t : Site) : State.reset.tile t = Tile.reset := rfl

theorem Core.reset_get (i : Nat) : Core.reset.get i = 0 := by
  simp [Core.get, Core.reset]

theorem Core.reset_pred {i : Nat} (hi : 0 < i) : Core.reset.pred i = false := by
  have h0 : i ≠ 0 := by omega
  simp [Core.pred, Core.reset, h0]

theorem State.reset_queue (t : Site) (q : Nat) : State.reset.queue t q = Queue.reset := by
  simp [State.queue, State.reset_tile, Tile.queue, Tile.reset]

/-- Settles O4: the index's rows name different registers, so that each address reads its row's reset value. -/
theorem resetRegisters : Obligations.ResetRegisters := by
  unfold Obligations.ResetRegisters
  refine ⟨fun r hr i hi hq => regReset_of_names hr ⟨i, hi, rfl⟩ hq, rfl, rfl, fun t => ?_, fun t q => ?_⟩
  · exact ⟨rfl, Core.reset_get, rfl, fun i => Core.reset_pred, rfl, rfl, rfl, rfl, rfl, rfl, rfl, rfl, rfl, rfl, rfl, rfl, rfl⟩
  · rw [State.reset_queue]
    exact ⟨rfl, rfl, rfl⟩

end Sys2Proof.Machine
end

section
/-!
PROOFS. Reads after writes of one tile: what the named updates of a tile leave alone, what a unit of the tile reads after an update of
itself or of another unit, and the frames of the store's code, tags and control registers. All are rules for `simp`, whose side
condition, a canonical state, is among them.
-/
namespace Sys2Proof.Machine

/-! ### Canonical states -/

section
variable {s : State}

@[simp] theorem State.onTile_canonical (h : s.Canonical) (t : Site) (f : Tile → Tile) : (s.onTile t f).Canonical := h.onTile t f
@[simp] theorem State.onCore_canonical (h : s.Canonical) (t : Site) (f : Core → Core) : (s.onCore t f).Canonical := h.onCore t f
@[simp] theorem State.onNi_canonical (h : s.Canonical) (t : Site) (f : Ni → Ni) : (s.onNi t f).Canonical := h.onNi t f
@[simp] theorem State.onQueue_canonical (h : s.Canonical) (t : Site) (q : Nat) (f : Queue → Queue) : (s.onQueue t q f).Canonical :=
  h.onQueue t q f
@[simp] theorem State.setCreg_canonical (h : s.Canonical) (t : Site) (a : Nat) (v : Dword) : (s.setCreg t a v).Canonical :=
  h.setCreg t a v
@[simp] theorem State.setCfld_canonical (h : s.Canonical) (t : Site) (a hi lo v : Nat) : (s.setCfld t a hi lo v).Canonical :=
  h.setCfld t a hi lo v
@[simp] theorem State.onRouter_canonical (h : s.Canonical) (t : Site) (f : Router → Router) : (s.onRouter t f).Canonical :=
  h.onRouter t f
@[simp] theorem State.setReg_canonical (h : s.Canonical) (a : Nat) (v : Dword) : (s.setReg a v).Canonical := h.setReg a v
@[simp] theorem State.setFld_canonical (h : s.Canonical) (a hi lo v : Nat) : (s.setFld a hi lo v).Canonical := h.setFld a hi lo v
@[simp] theorem State.bump_canonical (h : s.Canonical) (a hi lo v : Nat) : (s.bump a hi lo v).Canonical := h.bump a hi lo v
@[simp] theorem State.onInfo_canonical (h : s.Canonical) (t : Site) (f : Meta → Meta) : (s.onInfo t f).Canonical := h.onTile t _
@[simp] theorem State.onLoam_canonical (h : s.Canonical) (t : Site) (f : LoamCtl → LoamCtl) : (s.onLoam t f).Canonical := h.onTile t _
@[simp] theorem State.onCache_canonical (h : s.Canonical) (t : Site) (f : Cache → Cache) : (s.onCache t f).Canonical := h.onTile t _
@[simp] theorem State.report_canonical (h : s.Canonical) (t : Site) (n : SvcNote) : (s.report t n).Canonical := { h with }
@[simp] theorem State.freeCtr_canonical (h : s.Canonical) (n : Nat) : State.Canonical { s with freeCtr := n } := { h with }

end

/-! ### What an update of a tile leaves alone -/

@[simp] theorem State.onTile_mem (s : State) (t : Site) (f : Tile → Tile) : (s.onTile t f).mem = s.mem := rfl
@[simp] theorem State.onTile_byte (s : State) (t : Site) (f : Tile → Tile) (k : Nat) : (s.onTile t f).byte k = s.byte k := rfl
@[simp] theorem State.onTile_reg (s : State) (t : Site) (f : Tile → Tile) (k : Nat) : (s.onTile t f).reg k = s.reg k := rfl
@[simp] theorem State.onTile_fld (s : State) (t : Site) (f : Tile → Tile) (k h l : Nat) : (s.onTile t f).fld k h l = s.fld k h l := rfl
@[simp] theorem State.onTile_cycle (s : State) (t : Site) (f : Tile → Tile) : (s.onTile t f).cycle = s.cycle := rfl
@[simp] theorem State.onTile_frozen (s : State) (t : Site) (f : Tile → Tile) : (s.onTile t f).frozen = s.frozen := rfl
@[simp] theorem State.onTile_svc (s : State) (t : Site) (f : Tile → Tile) : (s.onTile t f).svc = s.svc := rfl

@[simp] theorem State.onCore_mem (s : State) (t : Site) (f : Core → Core) : (s.onCore t f).mem = s.mem := rfl
@[simp] theorem State.onCore_byte (s : State) (t : Site) (f : Core → Core) (k : Nat) : (s.onCore t f).byte k = s.byte k := rfl
@[simp] theorem State.onCore_reg (s : State) (t : Site) (f : Core → Core) (k : Nat) : (s.onCore t f).reg k = s.reg k := rfl
@[simp] theorem State.onCore_fld (s : State) (t : Site) (f : Core → Core) (k h l : Nat) : (s.onCore t f).fld k h l = s.fld k h l := rfl
@[simp] theorem State.onCore_cycle (s : State) (t : Site) (f : Core → Core) : (s.onCore t f).cycle = s.cycle := rfl
@[simp] theorem State.onCore_frozen (s : State) (t : Site) (f : Core → Core) : (s.onCore t f).frozen = s.frozen := rfl
@[simp] theorem State.onCore_svc (s : State) (t : Site) (f : Core → Core) : (s.onCore t f).svc = s.svc := rfl

@[simp] theorem State.onNi_mem (s : State) (t : Site) (f : Ni → Ni) : (s.onNi t f).mem = s.mem := rfl
@[simp] theorem State.onNi_byte (s : State) (t : Site) (f : Ni → Ni) (k : Nat) : (s.onNi t f).byte k = s.byte k := rfl
@[simp] theorem State.onNi_reg (s : State) (t : Site) (f : Ni → Ni) (k : Nat) : (s.onNi t f).reg k = s.reg k := rfl
@[simp] theorem State.onNi_fld (s : State) (t : Site) (f : Ni → Ni) (k h l : Nat) : (s.onNi t f).fld k h l = s.fld k h l := rfl
@[simp] theorem State.onNi_cycle (s : State) (t : Site) (f : Ni → Ni) : (s.onNi t f).cycle = s.cycle := rfl
@[simp] theorem State.onNi_frozen (s : State) (t : Site) (f : Ni → Ni) : (s.onNi t f).frozen = s.frozen := rfl
@[simp] theorem State.onNi_svc (s : State) (t : Site) (f : Ni → Ni) : (s.onNi t f).svc = s.svc := rfl

@[simp] theorem State.onQueue_mem (s : State) (t : Site) (q : Nat) (f : Queue → Queue) : (s.onQueue t q f).mem = s.mem := rfl
@[simp] theorem State.onQueue_byte (s : State) (t : Site) (q : Nat) (f : Queue → Queue) (k : Nat) : (s.onQueue t q f).byte k = s.byte k := rfl
@[simp] theorem State.onQueue_reg (s : State) (t : Site) (q : Nat) (f : Queue → Queue) (k : Nat) : (s.onQueue t q f).reg k = s.reg k := rfl
@[simp] theorem State.onQueue_fld (s : State) (t : Site) (q : Nat) (f : Queue → Queue) (k h l : Nat) : (s.onQueue t q f).fld k h l = s.fld k h l := rfl
@[simp] theorem State.onQueue_cycle (s : State) (t : Site) (q : Nat) (f : Queue → Queue) : (s.onQueue t q f).cycle = s.cycle := rfl
@[simp] theorem State.onQueue_frozen (s : State) (t : Site) (q : Nat) (f : Queue → Queue) : (s.onQueue t q f).frozen = s.frozen := rfl
@[simp] theorem State.onQueue_svc (s : State) (t : Site) (q : Nat) (f : Queue → Queue) : (s.onQueue t q f).svc = s.svc := rfl

@[simp] theorem State.setCreg_mem (s : State) (t : Site) (a : Nat) (v : Dword) : (s.setCreg t a v).mem = s.mem := rfl
@[simp] theorem State.setCreg_byte (s : State) (t : Site) (a : Nat) (v : Dword) (k : Nat) : (s.setCreg t a v).byte k = s.byte k := rfl
@[simp] theorem State.setCreg_reg (s : State) (t : Site) (a : Nat) (v : Dword) (k : Nat) : (s.setCreg t a v).reg k = s.reg k := rfl
@[simp] theorem State.setCreg_fld (s : State) (t : Site) (a : Nat) (v : Dword) (k h l : Nat) : (s.setCreg t a v).fld k h l = s.fld k h l := rfl
@[simp] theorem State.setCreg_cycle (s : State) (t : Site) (a : Nat) (v : Dword) : (s.setCreg t a v).cycle = s.cycle := rfl
@[simp] theorem State.setCreg_frozen (s : State) (t : Site) (a : Nat) (v : Dword) : (s.setCreg t a v).frozen = s.frozen := rfl
@[simp] theorem State.setCreg_svc (s : State) (t : Site) (a : Nat) (v : Dword) : (s.setCreg t a v).svc = s.svc := rfl

@[simp] theorem State.setCfld_mem (s : State) (t : Site) (a hi lo v : Nat) : (s.setCfld t a hi lo v).mem = s.mem := rfl
@[simp] theorem State.setCfld_byte (s : State) (t : Site) (a hi lo v : Nat) (k : Nat) : (s.setCfld t a hi lo v).byte k = s.byte k := rfl
@[simp] theorem State.setCfld_reg (s : State) (t : Site) (a hi lo v : Nat) (k : Nat) : (s.setCfld t a hi lo v).reg k = s.reg k := rfl
@[simp] theorem State.setCfld_fld (s : State) (t : Site) (a hi lo v : Nat) (k h l : Nat) : (s.setCfld t a hi lo v).fld k h l = s.fld k h l := rfl
@[simp] theorem State.setCfld_cycle (s : State) (t : Site) (a hi lo v : Nat) : (s.setCfld t a hi lo v).cycle = s.cycle := rfl
@[simp] theorem State.setCfld_frozen (s : State) (t : Site) (a hi lo v : Nat) : (s.setCfld t a hi lo v).frozen = s.frozen := rfl
@[simp] theorem State.setCfld_svc (s : State) (t : Site) (a hi lo v : Nat) : (s.setCfld t a hi lo v).svc = s.svc := rfl

@[simp] theorem State.cbump_mem (s : State) (t : Site) (a hi lo : Nat) : (s.cbump t a hi lo).mem = s.mem := rfl
@[simp] theorem State.cbump_byte (s : State) (t : Site) (a hi lo : Nat) (k : Nat) : (s.cbump t a hi lo).byte k = s.byte k := rfl
@[simp] theorem State.cbump_reg (s : State) (t : Site) (a hi lo : Nat) (k : Nat) : (s.cbump t a hi lo).reg k = s.reg k := rfl
@[simp] theorem State.cbump_fld (s : State) (t : Site) (a hi lo : Nat) (k h l : Nat) : (s.cbump t a hi lo).fld k h l = s.fld k h l := rfl
@[simp] theorem State.cbump_cycle (s : State) (t : Site) (a hi lo : Nat) : (s.cbump t a hi lo).cycle = s.cycle := rfl
@[simp] theorem State.cbump_frozen (s : State) (t : Site) (a hi lo : Nat) : (s.cbump t a hi lo).frozen = s.frozen := rfl
@[simp] theorem State.cbump_svc (s : State) (t : Site) (a hi lo : Nat) : (s.cbump t a hi lo).svc = s.svc := rfl

@[simp] theorem State.onInfo_mem (s : State) (t : Site) (f : Meta → Meta) : (s.onInfo t f).mem = s.mem := rfl
@[simp] theorem State.onInfo_byte (s : State) (t : Site) (f : Meta → Meta) (k : Nat) : (s.onInfo t f).byte k = s.byte k := rfl
@[simp] theorem State.onInfo_reg (s : State) (t : Site) (f : Meta → Meta) (k : Nat) : (s.onInfo t f).reg k = s.reg k := rfl
@[simp] theorem State.onInfo_fld (s : State) (t : Site) (f : Meta → Meta) (k h l : Nat) : (s.onInfo t f).fld k h l = s.fld k h l := rfl
@[simp] theorem State.onInfo_cycle (s : State) (t : Site) (f : Meta → Meta) : (s.onInfo t f).cycle = s.cycle := rfl
@[simp] theorem State.onInfo_frozen (s : State) (t : Site) (f : Meta → Meta) : (s.onInfo t f).frozen = s.frozen := rfl
@[simp] theorem State.onInfo_svc (s : State) (t : Site) (f : Meta → Meta) : (s.onInfo t f).svc = s.svc := rfl

@[simp] theorem State.onLoam_mem (s : State) (t : Site) (f : LoamCtl → LoamCtl) : (s.onLoam t f).mem = s.mem := rfl
@[simp] theorem State.onLoam_byte (s : State) (t : Site) (f : LoamCtl → LoamCtl) (k : Nat) : (s.onLoam t f).byte k = s.byte k := rfl
@[simp] theorem State.onLoam_reg (s : State) (t : Site) (f : LoamCtl → LoamCtl) (k : Nat) : (s.onLoam t f).reg k = s.reg k := rfl
@[simp] theorem State.onLoam_fld (s : State) (t : Site) (f : LoamCtl → LoamCtl) (k h l : Nat) : (s.onLoam t f).fld k h l = s.fld k h l := rfl
@[simp] theorem State.onLoam_cycle (s : State) (t : Site) (f : LoamCtl → LoamCtl) : (s.onLoam t f).cycle = s.cycle := rfl
@[simp] theorem State.onLoam_frozen (s : State) (t : Site) (f : LoamCtl → LoamCtl) : (s.onLoam t f).frozen = s.frozen := rfl
@[simp] theorem State.onLoam_svc (s : State) (t : Site) (f : LoamCtl → LoamCtl) : (s.onLoam t f).svc = s.svc := rfl

@[simp] theorem State.onCache_mem (s : State) (t : Site) (f : Cache → Cache) : (s.onCache t f).mem = s.mem := rfl
@[simp] theorem State.onCache_byte (s : State) (t : Site) (f : Cache → Cache) (k : Nat) : (s.onCache t f).byte k = s.byte k := rfl
@[simp] theorem State.onCache_reg (s : State) (t : Site) (f : Cache → Cache) (k : Nat) : (s.onCache t f).reg k = s.reg k := rfl
@[simp] theorem State.onCache_fld (s : State) (t : Site) (f : Cache → Cache) (k h l : Nat) : (s.onCache t f).fld k h l = s.fld k h l := rfl
@[simp] theorem State.onCache_cycle (s : State) (t : Site) (f : Cache → Cache) : (s.onCache t f).cycle = s.cycle := rfl
@[simp] theorem State.onCache_frozen (s : State) (t : Site) (f : Cache → Cache) : (s.onCache t f).frozen = s.frozen := rfl
@[simp] theorem State.onCache_svc (s : State) (t : Site) (f : Cache → Cache) : (s.onCache t f).svc = s.svc := rfl
/-! ### The units of one tile -/

section
variable {s : State} (h : s.Canonical) (t : Site)
include h

@[simp] theorem State.onTile_tile (f : Tile → Tile) : (s.onTile t f).tile t = f (s.tile t) := State.onTile_tile_same h t f

@[simp] theorem State.onCore_tile (f : Core → Core) : (s.onCore t f).tile t = { s.tile t with core := f (s.core t) } :=
  State.onTile_tile_same h t _
@[simp] theorem State.onNi_tile (f : Ni → Ni) : (s.onNi t f).tile t = { s.tile t with ni := f (s.ni t) } :=
  State.onTile_tile_same h t _
@[simp] theorem State.onQueue_tile (q : Nat) (f : Queue → Queue) :
    (s.onQueue t q f).tile t = (s.tile t).setQueue q (f (s.queue t q)) := State.onTile_tile_same h t _
@[simp] theorem State.setCreg_tile (a : Nat) (v : Dword) :
    (s.setCreg t a v).tile t = { s.tile t with creg := mapSet cregReset (s.tile t).creg a v } := State.onTile_tile_same h t _
@[simp] theorem State.onInfo_tile (f : Meta → Meta) : (s.onInfo t f).tile t = { s.tile t with info := f (s.tile t).info } :=
  State.onTile_tile_same h t _
@[simp] theorem State.onLoam_tile (f : LoamCtl → LoamCtl) : (s.onLoam t f).tile t = { s.tile t with loam := f (s.tile t).loam } :=
  State.onTile_tile_same h t _
@[simp] theorem State.onCache_tile (f : Cache → Cache) : (s.onCache t f).tile t = { s.tile t with cache := f (s.tile t).cache } :=
  State.onTile_tile_same h t _

@[simp] theorem State.onCore_core (f : Core → Core) : (s.onCore t f).core t = f (s.core t) := State.onCore_core_same h t f
@[simp] theorem State.onNi_ni (f : Ni → Ni) : (s.onNi t f).ni t = f (s.ni t) := State.onNi_ni_same h t f
@[simp] theorem State.onCore_ni_same (f : Core → Core) : (s.onCore t f).ni t = s.ni t := State.onCore_ni h t f
@[simp] theorem State.onNi_core_same (f : Ni → Ni) : (s.onNi t f).core t = s.core t := State.onNi_core h t f
@[simp] theorem State.setCreg_core (a : Nat) (v : Dword) : (s.setCreg t a v).core t = s.core t := by
  rw [State.core, State.setCreg_tile h]; rfl
@[simp] theorem State.setCreg_ni (a : Nat) (v : Dword) : (s.setCreg t a v).ni t = s.ni t := by
  rw [State.ni, State.setCreg_tile h]; rfl
@[simp] theorem State.setCfld_core (a hi lo v : Nat) : (s.setCfld t a hi lo v).core t = s.core t := State.setCreg_core h t _ _
@[simp] theorem State.setCfld_ni (a hi lo v : Nat) : (s.setCfld t a hi lo v).ni t = s.ni t := State.setCreg_ni h t _ _
@[simp] theorem State.cbump_core (a hi lo : Nat) : (s.cbump t a hi lo).core t = s.core t := State.setCreg_core h t _ _
@[simp] theorem State.cbump_ni (a hi lo : Nat) : (s.cbump t a hi lo).ni t = s.ni t := State.setCreg_ni h t _ _
@[simp] theorem State.onInfo_core (f : Meta → Meta) : (s.onInfo t f).core t = s.core t := by
  rw [State.core, State.onInfo_tile h]; rfl
@[simp] theorem State.onInfo_ni (f : Meta → Meta) : (s.onInfo t f).ni t = s.ni t := by
  rw [State.ni, State.onInfo_tile h]; rfl
@[simp] theorem State.onLoam_core (f : LoamCtl → LoamCtl) : (s.onLoam t f).core t = s.core t := by
  rw [State.core, State.onLoam_tile h]; rfl
@[simp] theorem State.onCache_core (f : Cache → Cache) : (s.onCache t f).core t = s.core t := by
  rw [State.core, State.onCache_tile h]; rfl
@[simp] theorem State.onQueue_core (q : Nat) (f : Queue → Queue) : (s.onQueue t q f).core t = s.core t := by
  rw [State.core, State.onQueue_tile h, Tile.setQueue]; split <;> rfl
@[simp] theorem State.onQueue_ni (q : Nat) (f : Queue → Queue) : (s.onQueue t q f).ni t = s.ni t := by
  rw [State.ni, State.onQueue_tile h, Tile.setQueue]; split <;> rfl
@[simp] theorem State.onCore_queue (q : Nat) (f : Core → Core) : (s.onCore t f).queue t q = s.queue t q := by
  rw [State.queue, State.onCore_tile h]; rfl
@[simp] theorem State.onNi_queue (q : Nat) (f : Ni → Ni) : (s.onNi t f).queue t q = s.queue t q := by
  rw [State.queue, State.onNi_tile h]; rfl
@[simp] theorem State.onCore_creg (a : Nat) (f : Core → Core) : (s.onCore t f).creg t a = s.creg t a := by
  rw [State.creg, State.onCore_tile h]; rfl
@[simp] theorem State.onNi_creg (a : Nat) (f : Ni → Ni) : (s.onNi t f).creg t a = s.creg t a := by
  rw [State.creg, State.onNi_tile h]; rfl
@[simp] theorem State.onInfo_creg (a : Nat) (f : Meta → Meta) : (s.onInfo t f).creg t a = s.creg t a := by
  rw [State.creg, State.onInfo_tile h]; rfl
@[simp] theorem State.onLoam_creg (a : Nat) (f : LoamCtl → LoamCtl) : (s.onLoam t f).creg t a = s.creg t a := by
  rw [State.creg, State.onLoam_tile h]; rfl
@[simp] theorem State.onCache_creg (a : Nat) (f : Cache → Cache) : (s.onCache t f).creg t a = s.creg t a := by
  rw [State.creg, State.onCache_tile h]; rfl
@[simp] theorem State.onQueue_creg (q : Nat) (a : Nat) (f : Queue → Queue) : (s.onQueue t q f).creg t a = s.creg t a := by
  rw [State.creg, State.onQueue_tile h, Tile.setQueue]; split <;> rfl

end

end Sys2Proof.Machine
end

section
/-!
PROOFS. The store's code and tags leave device memory alone (R48), a read meets an uncorrectable word where firstUe names one, and what a
write of the store leaves (R64).
-/
namespace Sys2Proof.Machine

theorem ite_is_either {α : Type} (c : Prop) [Decidable c] (x y : α) : (if c then x else y) = x ∨ (if c then x else y) = y := by
  split
  · exact .inl rfl
  · exact .inr rfl

/-- A fold of changes that leave memory alone leaves it alone. -/
theorem foldl_mem {α : Type} {f : State → α → State} (hf : ∀ u a, (f u a).mem = u.mem) (s : State) (l : List α) :
    (l.foldl f s).mem = s.mem := by
  induction l generalizing s with
  | nil => rfl
  | cons a l ih => rw [List.foldl_cons, ih, hf]

/-- A fold of changes that keep the state canonical keeps it so. -/
theorem foldl_canonical {α : Type} {f : State → α → State} (hf : ∀ u a, u.Canonical → (f u a).Canonical) {s : State}
    (h : s.Canonical) (l : List α) : (l.foldl f s).Canonical := by
  induction l generalizing s with
  | nil => exact h
  | cons a l ih => exact ih (hf s a h)

theorem State.byte_of_mem {s s' : State} (h : s'.mem = s.mem) (a : Nat) : s'.byte a = s.byte a := by
  rw [State.byte, h, State.byte]

theorem State.bytes_of_mem {s s' : State} (h : s'.mem = s.mem) (a n : Nat) : s'.bytes a n = s.bytes a n := by
  simp only [State.bytes, State.byte_of_mem h]

theorem SameMemory.of_mem {s s' : State} (h : s'.mem = s.mem) : SameMemory s s' := State.byte_of_mem h

/-! ### The code (R48) -/

section
variable (s : State) (t : Site)

@[simp] theorem State.report_mem' (n : SvcNote) : (s.report t n).mem = s.mem := rfl

@[simp] theorem State.eccEvent_mem (ue : Bool) (b p w y : Nat) : (s.eccEvent t ue b p w y).mem = s.mem := by
  unfold State.eccEvent
  cases ue
  · simp only [Bool.false_eq_true, if_false]
    split <;> simp
  · simp

@[simp] theorem State.spareRow_mem (b r : Nat) (p : Bool) : (s.spareRow t b r p).mem = s.mem := by
  unfold State.spareRow
  dsimp only
  split <;> simp

@[simp] theorem State.eccWord_mem (w : Nat) (u : Upset) : (s.eccWord t w u).mem = s.mem := by
  unfold State.eccWord
  dsimp only
  split
  · simp
  · split <;> simp

@[simp] theorem State.eccPoison_mem (w : Nat) : (s.eccPoison t w).mem = s.mem := by
  simp [State.eccPoison, State.takeFree]

@[simp] theorem State.eccRead_mem (off n : Nat) : (s.eccRead t off n).1.mem = s.mem := by
  simp only [State.eccRead]
  exact (foldl_mem (fun u (e : Nat × Upset) => State.eccWord_mem u t e.1 e.2) _ _).trans (foldl_mem (fun u w => State.eccPoison_mem u t w) _ _)

@[simp] theorem State.eccRead_canonical {s : State} (h : s.Canonical) (t : Site) (off n : Nat) : (s.eccRead t off n).1.Canonical :=
  (State.eccRead_keeps' h.keeps).canon

/-- The words that a range touches. -/
theorem mem_wordsOf {off n w : Nat} : w ∈ wordsOf off n ↔ off / 8 ≤ w ∧ w < (off + n + 7) / 8 := by
  simp only [wordsOf, List.mem_map, List.mem_range]
  constructor
  · rintro ⟨i, hi, rfl⟩
    omega
  · intro ⟨h1, h2⟩
    exact ⟨w - off / 8, by omega, by omega⟩

theorem mem_rowsOf {off n r : Nat} : r ∈ rowsOf off n ↔ off / 64 ≤ r ∧ r < (off + n + 63) / 64 := by
  simp only [rowsOf, List.mem_map, List.mem_range]
  constructor
  · rintro ⟨i, hi, rfl⟩
    omega
  · intro ⟨h1, h2⟩
    exact ⟨r - off / 64, by omega, by omega⟩

/-- A read meets an uncorrectable error exactly where a word of its range is uncorrectable. -/
theorem State.eccRead_ue (off n : Nat) : (s.eccRead t off n).2 = (s.firstUe t off n).isSome := by
  rw [Bool.eq_iff_iff, State.firstUe, List.find?_isSome]
  simp only [State.eccRead, Bool.or_eq_true, Bool.not_eq_true', List.isEmpty_eq_false_iff_exists_mem, List.mem_filter,
    Bool.and_eq_true, decide_eq_true_eq, List.any_eq_true, mem_wordsOf, List.contains_iff_mem]
  constructor
  · rintro (⟨w, hw, hin⟩ | ⟨⟨w, u⟩, ⟨hu, hin, -⟩, hd⟩)
    · exact ⟨w, hin, .inl hw⟩
    · exact ⟨w, hin, .inr ⟨(w, u), hu, rfl, hd⟩⟩
  · rintro ⟨w, hin, hw⟩
    by_cases hp : w ∈ (s.tile t).info.poison
    · exact .inl ⟨w, hp, hin⟩
    · rcases hw with hw | ⟨⟨v, u⟩, hu, he, hd⟩
      · exact absurd hw hp
      · obtain rfl : v = w := he
        exact .inr ⟨(v, u), ⟨hu, hin, by simpa using hp⟩, hd⟩

theorem State.eccRead_ok {off n : Nat} (h : s.firstUe t off n = none) : (s.eccRead t off n).2 = false := by
  rw [State.eccRead_ue, h]; rfl

theorem State.eccRead_bad {off n : Nat} (h : (s.firstUe t off n).isSome) : (s.eccRead t off n).2 = true := by
  rw [State.eccRead_ue, h]

/-- What a read of the store delivers: its bytes as memory holds them. -/
theorem State.readStore_eq (off n : Nat) :
    s.readStore t off n = (s.bytes (storeAddr t off) n, (s.eccRead t off n).1, (s.firstUe t off n).isSome) := by
  simp only [State.readStore, State.bytes_of_mem (State.eccRead_mem s t off n), State.eccRead_ue]

end

theorem State.getD_bytes {s : State} {a n i : Nat} (hi : i < n) : (s.bytes a n).getD i 0 = s.byte (a + i) := by
  simp [State.bytes, List.getD_eq_getElem?_getD, hi]

/-! ### What a read of the store leaves alone

A read that meets errors keeps its books (R48 to R55): TC_ECC_STAT, TC_ECC_LOG, TC_SPARE_STAT and the tables of rows in error change,
a notice may go to the steward, and nothing else. -/

/-- The registers of a tile that keep the store's books. -/
def bookRegs : List Nat := [aEccStat, aEccLog, aSpareStat]

structure Upkeep (t : Site) (s s' : State) : Prop where
  canon : s'.Canonical
  rest  : s' = { s with tiles := s'.tiles, svc := s'.svc, freeCtr := s'.freeCtr }
  tile  : s'.tile t = { s.tile t with
    creg := (s'.tile t).creg
    info := { (s'.tile t).info with gens := (s.tile t).info.gens, clearing := (s.tile t).info.clearing,
                                    scrub := (s.tile t).info.scrub } }
  other : ∀ u : Site, u.key ≠ t.key → s'.tile u = s.tile u
  creg  : ∀ a, a ∉ bookRegs → s'.creg t a = s.creg t a

section
variable {t : Site} {s s' s'' : State}

theorem Upkeep.refl (h : s.Canonical) : Upkeep t s s := ⟨h, rfl, rfl, fun _ _ => rfl, fun _ _ => rfl⟩

theorem Upkeep.trans (h : Upkeep t s s') (k : Upkeep t s' s'') : Upkeep t s s'' where
  canon := k.canon
  rest := by rw [k.rest, h.rest]
  tile := by rw [k.tile, h.tile]
  other := fun u hu => (k.other u hu).trans (h.other u hu)
  creg := fun a ha => (k.creg a ha).trans (h.creg a ha)

theorem Upkeep.core (h : Upkeep t s s') : s'.core t = s.core t := by rw [State.core, h.tile]; rfl
theorem Upkeep.ni (h : Upkeep t s s') : s'.ni t = s.ni t := by rw [State.ni, h.tile]; rfl
theorem Upkeep.queue (h : Upkeep t s s') (q : Nat) : s'.queue t q = s.queue t q := by rw [State.queue, h.tile]; rfl
theorem Upkeep.mem (h : Upkeep t s s') : s'.mem = s.mem := by rw [h.rest]
theorem Upkeep.sreg (h : Upkeep t s s') : s'.sreg = s.sreg := by rw [h.rest]
theorem Upkeep.cache (h : Upkeep t s s') : (s'.tile t).cache = (s.tile t).cache := by rw [h.tile]
theorem Upkeep.loam (h : Upkeep t s s') : (s'.tile t).loam = (s.tile t).loam := by rw [h.tile]
theorem Upkeep.gens (h : Upkeep t s s') : (s'.tile t).info.gens = (s.tile t).info.gens := by rw [h.tile]
theorem Upkeep.power (h : Upkeep t s s') : (s'.tile t).power = (s.tile t).power := by rw [h.tile]
theorem Upkeep.cfld (h : Upkeep t s s') {a : Nat} (ha : a ∉ bookRegs) (hi lo : Nat) : s'.cfld t a hi lo = s.cfld t a hi lo := by
  rw [State.cfld, h.creg a ha, State.cfld]

theorem upkeep_setCreg (h : s.Canonical) {a : Nat} (ha : a ∈ bookRegs) (v : Dword) : Upkeep t s (s.setCreg t a v) where
  canon := h.setCreg t a v
  rest := rfl
  tile := by simp [h]
  other := fun u hu => State.onTile_tile_other hu _
  creg := fun b hb => State.setCreg_creg_other h (by rintro rfl; exact hb ha) v

theorem upkeep_setCfld (h : s.Canonical) {a : Nat} (ha : a ∈ bookRegs) (hi lo v : Nat) : Upkeep t s (s.setCfld t a hi lo v) :=
  upkeep_setCreg h ha _

theorem upkeep_onInfo (h : s.Canonical) {f : Meta → Meta}
    (hf : f (s.tile t).info = { f (s.tile t).info with gens := (s.tile t).info.gens, clearing := (s.tile t).info.clearing,
                                                       scrub := (s.tile t).info.scrub }) : Upkeep t s (s.onInfo t f) where
  canon := State.onInfo_canonical h t f
  rest := rfl
  tile := by
    rw [State.onInfo_tile h]
    exact congrArg (fun i => { s.tile t with info := i }) hf
  other := fun u hu => State.onTile_tile_other hu _
  creg := fun b _ => State.onInfo_creg h t b f

theorem upkeep_report (h : s.Canonical) (n : SvcNote) : Upkeep t s (s.report t n) :=
  ⟨State.report_canonical h t n, rfl, rfl, fun _ _ => rfl, fun _ _ => rfl⟩

theorem upkeep_takeFree (h : s.Canonical) : Upkeep t s s.takeFree.2 :=
  ⟨State.freeCtr_canonical h _, rfl, rfl, fun _ _ => rfl, fun _ _ => rfl⟩

theorem upkeep_foldl {α : Type} {f : State → α → State} (hf : ∀ u a, u.Canonical → Upkeep t u (f u a)) (h : s.Canonical)
    (l : List α) : Upkeep t s (l.foldl f s) := by
  induction l generalizing s with
  | nil => exact .refl h
  | cons a l ih => exact (hf s a h).trans (ih (hf s a h).canon)

theorem upkeep_eccEvent (h : s.Canonical) (ue : Bool) (b p w y : Nat) : Upkeep t s (s.eccEvent t ue b p w y) := by
  have hstat : aEccStat ∈ bookRegs := by decide
  have hlog : aEccLog ∈ bookRegs := by decide
  have two : ∀ i c d, Upkeep t s ((s.setCfld t aEccStat i i 1).cbump t aEccStat c d) := fun i c d =>
    (upkeep_setCfld h hstat i i 1).trans (upkeep_setCfld (h.setCfld t _ _ _ _) hstat c d _)
  unfold State.eccEvent
  cases ue
  · simp only [Bool.false_eq_true, if_false]
    split
    · exact two 0 47 32
    · exact (two 0 47 32).trans (upkeep_setCreg (two 0 47 32).canon hlog _)
  · simp only [if_true, Bool.not_true, Bool.and_false, Bool.false_eq_true, if_false]
    exact (two 1 63 48).trans (upkeep_setCreg (two 1 63 48).canon hlog _)

theorem upkeep_spareRow (h : s.Canonical) (b r : Nat) (p : Bool) : Upkeep t s (s.spareRow t b r p) := by
  unfold State.spareRow
  dsimp only
  split
  · have h1 := upkeep_setCfld (t := t) h (show aSpareStat ∈ bookRegs by decide) 60 60 1
    exact h1.trans (upkeep_report h1.canon _)
  · have h1 := upkeep_onInfo (t := t) h (f := fun m => { m with
      remap := mapPut m.remap (b * 512 + r) (sparesUsed (s.tile t).info b)
      upsets := m.upsets.filter (fun e => !(decide ((b * 512 + r) * 8 ≤ e.1) && decide (e.1 < (b * 512 + r) * 8 + 8)))
      once := m.once.filter (fun x => decide (x ≠ b * 512 + r))
      poison := if p then (wordsOf (8 * ((b * 512 + r) * 8)) 64).foldl insertNat m.poison else m.poison }) rfl
    exact h1.trans (upkeep_report h1.canon _)

theorem upkeep_eccWord (h : s.Canonical) (w : Nat) (u : Upset) : Upkeep t s (s.eccWord t w u) := by
  unfold State.eccWord
  dsimp only
  have h1 := upkeep_eccEvent (t := t) h u.dbl (w / 4096) (physRow (s.tile t).info (w / 4096) (w / 8 % 512)) (w % 8) u.synd.toNat
  split
  · exact h1.trans (upkeep_spareRow h1.canon _ _ _)
  · have h2 := h1.trans (upkeep_onInfo h1.canon (f := fun m => { m with upsets := mapDel m.upsets w }) rfl)
    split
    · exact h2.trans (upkeep_spareRow h2.canon _ _ _)
    · exact h2.trans (upkeep_onInfo h2.canon rfl)

theorem upkeep_eccPoison (h : s.Canonical) (w : Nat) : Upkeep t s (s.eccPoison t w) :=
  (upkeep_takeFree h).trans (upkeep_eccEvent (upkeep_takeFree (t := t) h).canon _ _ _ _ _)

theorem upkeep_eccRead (h : s.Canonical) (off n : Nat) : Upkeep t s (s.eccRead t off n).1 := by
  have h1 := upkeep_foldl (t := t) (f := fun s w => s.eccPoison t w) (fun u a hu => upkeep_eccPoison hu a) h
    ((s.tile t).info.poison.filter (fun w => decide (off / 8 ≤ w) && decide (w < (off + n + 7) / 8)))
  exact h1.trans (upkeep_foldl (f := fun (s : State) (e : Nat × Upset) => s.eccWord t e.1 e.2)
    (fun u a hu => upkeep_eccWord hu a.1 a.2) h1.canon _)

end

/-! ### A core that is not at reset

A tile whose core is not at reset is listed, so that what is written of it reads back in any state, canonical or not. -/

section
variable {t : Site} {c : Core} (hc : c ≠ Core.reset)
include hc

theorem State.setTile_core_of_ne {s : State} {v : Tile} (hv : v.core = c) : (s.setTile t v).core t = c := by
  have hne : v ≠ Tile.reset := fun h => hc (by rw [← hv, h]; rfl)
  rw [State.core, State.tile, State.setTile, mapSet, if_neg hne, mapGet_put_same, hv]

theorem State.setCreg_core_of_ne {s : State} (h : s.core t = c) (a : Nat) (v : Dword) : (s.setCreg t a v).core t = c :=
  State.setTile_core_of_ne hc h

theorem State.onInfo_core_of_ne {s : State} (h : s.core t = c) (f : Meta → Meta) : (s.onInfo t f).core t = c :=
  State.setTile_core_of_ne hc h

theorem State.eccEvent_core_of_ne {s : State} (h : s.core t = c) (ue : Bool) (b p w y : Nat) :
    (s.eccEvent t ue b p w y).core t = c := by
  have two : ∀ a i d e, ((s.setCfld t a i i 1).cbump t a d e).core t = c := fun a i d e =>
    State.setCreg_core_of_ne hc (State.setCreg_core_of_ne hc h _ _) _ _
  unfold State.eccEvent
  cases ue
  · simp only [Bool.false_eq_true, if_false]
    split
    · exact two _ _ _ _
    · exact State.setCreg_core_of_ne hc (two _ _ _ _) _ _
  · simp only [if_true, Bool.not_true, Bool.and_false, Bool.false_eq_true, if_false]
    exact State.setCreg_core_of_ne hc (two _ _ _ _) _ _

theorem State.spareRow_core_of_ne {s : State} (h : s.core t = c) (b r : Nat) (p : Bool) : (s.spareRow t b r p).core t = c := by
  unfold State.spareRow
  dsimp only
  split
  · exact State.setCreg_core_of_ne hc h _ _
  · rw [State.report_core]
    exact State.onInfo_core_of_ne hc h _

theorem State.eccWord_core_of_ne {s : State} (h : s.core t = c) (w : Nat) (u : Upset) : (s.eccWord t w u).core t = c := by
  unfold State.eccWord
  dsimp only
  have h1 := State.eccEvent_core_of_ne hc h u.dbl (w / 4096) (physRow (s.tile t).info (w / 4096) (w / 8 % 512)) (w % 8) u.synd.toNat
  split
  · exact State.spareRow_core_of_ne hc h1 _ _ _
  · have h2 := State.onInfo_core_of_ne hc h1 (fun m => { m with upsets := mapDel m.upsets w })
    split
    · exact State.spareRow_core_of_ne hc h2 _ _ _
    · exact State.onInfo_core_of_ne hc h2 _

omit hc in
theorem foldl_core_of_ne {α : Type} {f : State → α → State} (hf : ∀ u a, u.core t = c → (f u a).core t = c) {s : State}
    (h : s.core t = c) (l : List α) : (l.foldl f s).core t = c := by
  induction l generalizing s with
  | nil => exact h
  | cons a l ih => exact ih (hf s a h)

theorem State.eccRead_core_of_ne {s : State} (h : s.core t = c) (off n : Nat) : (s.eccRead t off n).1.core t = c := by
  refine foldl_core_of_ne (fun u (e : Nat × Upset) hu => State.eccWord_core_of_ne hc hu e.1 e.2) ?_ _
  exact foldl_core_of_ne (fun u w hu => State.eccEvent_core_of_ne (s := { u with freeCtr := u.freeCtr + 1 }) hc hu _ _ _ _ _) h _

end

/-! ### Writes of memory and of the store -/

theorem State.setBytes_eq (s : State) (a : Nat) (bs : List Byte) : s.setBytes a bs = { s with mem := (s.setBytes a bs).mem } := by
  induction bs generalizing s a with
  | nil => rfl
  | cons b bs ih => rw [State.setBytes, ih]; rfl

section
variable (s : State) (a : Nat) (bs : List Byte)

@[simp] theorem State.setBytes_tile (t : Site) : (s.setBytes a bs).tile t = s.tile t := by rw [State.setBytes_eq]; rfl
@[simp] theorem State.setBytes_core (t : Site) : (s.setBytes a bs).core t = s.core t := by rw [State.setBytes_eq]; rfl
@[simp] theorem State.setBytes_ni (t : Site) : (s.setBytes a bs).ni t = s.ni t := by rw [State.setBytes_eq]; rfl
@[simp] theorem State.setBytes_queue (t : Site) (q : Nat) : (s.setBytes a bs).queue t q = s.queue t q := by
  rw [State.setBytes_eq]; rfl
@[simp] theorem State.setBytes_cfld (t : Site) (r h l : Nat) : (s.setBytes a bs).cfld t r h l = s.cfld t r h l := by
  rw [State.setBytes_eq]; rfl
@[simp] theorem State.setBytes_sreg : (s.setBytes a bs).sreg = s.sreg := by rw [State.setBytes_eq]
@[simp] theorem State.setBytes_canonical {s : State} (h : s.Canonical) (a : Nat) (bs : List Byte) : (s.setBytes a bs).Canonical := by
  rw [State.setBytes_eq]
  exact { h with mem := State.setBytes_wf h.mem a bs }

theorem State.setBytes_sameOutside : SameOutside s (s.setBytes a bs) a bs.length := fun _ h => State.setBytes_byte_outside h

/-- The bytes of a write, read back. -/
theorem State.setBytes_reads {s : State} (h : s.Canonical) {a k : Nat} {bs : List Byte} (hk : k < bs.length) :
    (s.setBytes a bs).byte (a + k) = bs.getD k 0 := by
  rw [State.setBytes_byte_inside h.mem hk, List.getD_eq_getElem?_getD, List.getElem?_eq_getElem hk, Option.getD_some]

end

theorem State.setBytes_mem_congr {s u : State} (h : u.mem = s.mem) (a : Nat) (bs : List Byte) :
    (u.setBytes a bs).mem = (s.setBytes a bs).mem := by
  induction bs generalizing s u a with
  | nil => exact h
  | cons b bs ih => exact ih (show (u.setByte a b).mem = (s.setByte a b).mem by simp only [State.setByte, h]) _

theorem SameOutside.of_mem {s s' u u' : State} (h : u.mem = s.mem) (h' : u'.mem = s'.mem) {a n : Nat} (hs : SameOutside s s' a n) :
    SameOutside u u' a n := fun x hx => by
  rw [State.byte_of_mem h' x, hs x hx, State.byte_of_mem h x]

/-- A write of the store: the words it touches in part are read first, then the bytes and the tags of its rows are written. -/
theorem State.writeStore_eq {s : State} (h : s.Canonical) (t : Site) (off : Nat) {bs : List Byte} (hb : bs ≠ []) (g : Nat) :
    ∃ u, Upkeep t s u ∧ s.writeStore t off bs g = (u.setBytes (storeAddr t off) bs).genStamp t off bs.length g := by
  have he : bs.isEmpty = false := by simpa using hb
  have read : ∀ (c : Bool) (u : State) (o : Nat), u.Canonical → Upkeep t u (if c then u else (u.eccRead t o 1).1) := by
    intro c u o hu
    split
    · exact .refl hu
    · exact upkeep_eccRead hu o 1
  simp only [State.writeStore, he, Bool.false_eq_true, if_false]
  have h1 := read (decide (off ≤ 8 * (off / 8)) && decide (8 * (off / 8) + 8 ≤ off + bs.length)) s off h
  have h2 := h1.trans (read (decide (off ≤ 8 * ((off + bs.length - 1) / 8)) && decide (8 * ((off + bs.length - 1) / 8) + 8 ≤
    off + bs.length) || decide ((off + bs.length - 1) / 8 = off / 8)) _ (off + bs.length - 1) h1.canon)
  exact ⟨_, h2.trans (upkeep_onInfo h2.canon rfl), rfl⟩

@[simp] theorem State.genStamp_mem (s : State) (t : Site) (off n g : Nat) : (s.genStamp t off n g).mem = s.mem := by
  unfold State.genStamp; split <;> rfl

theorem State.genStamp_tile {s : State} (h : s.Canonical) (t : Site) (off n g : Nat) :
    (s.genStamp t off n g).tile t = { s.tile t with info := { (s.tile t).info with
      gens := if s.genOn t && decide (n ≠ 0) then (rowsOf off n).foldl (fun gs r => mapSet (fun _ => 0) gs r g) (s.tile t).info.gens
        else (s.tile t).info.gens } } := by
  unfold State.genStamp
  split
  · rw [State.onInfo_tile h]
  · rfl

@[simp] theorem State.genStamp_canonical {s : State} (h : s.Canonical) (t : Site) (off n g : Nat) :
    (s.genStamp t off n g).Canonical := by
  unfold State.genStamp; split
  · exact State.onInfo_canonical h t _
  · exact h

/-- A row that a fold of tags stamps holds the tag. -/
theorem mapGet_stamped {g : Nat} {gs : List (Nat × Nat)} (hg : g ≠ 0 ∨ mapWf (fun _ => 0) gs = true) {rows : List Nat} {r : Nat}
    (hr : r ∈ rows) : mapGet (fun _ => 0) (rows.foldl (fun gs r => mapSet (fun _ => 0) gs r g) gs) r = g := by
  have same : ∀ m : List (Nat × Nat), (g ≠ 0 ∨ mapWf (fun _ => 0) m = true) → ∀ k, mapGet (fun _ => 0) (mapSet (fun _ => 0) m k g) k = g := by
    intro m hm k
    rcases hm with hm | hm
    · rw [mapSet, if_neg hm, mapGet_put_same]
    · exact mapGet_set_same k g hm
  have next : ∀ m : List (Nat × Nat), (g ≠ 0 ∨ mapWf (fun _ => 0) m = true) → ∀ k,
      g ≠ 0 ∨ mapWf (fun _ => 0) (mapSet (fun _ => 0) m k g) = true := fun m hm k => hm.imp_right (mapWf_set k g)
  have stays : ∀ (l : List Nat) (m : List (Nat × Nat)), (g ≠ 0 ∨ mapWf (fun _ => 0) m = true) → mapGet (fun _ => 0) m r = g →
      mapGet (fun _ => 0) (l.foldl (fun gs r => mapSet (fun _ => 0) gs r g) m) r = g := by
    intro l
    induction l with
    | nil => exact fun m _ h => h
    | cons a l ih =>
      intro m hm h
      refine ih _ (next m hm a) ?_
      by_cases ha : r = a
      · exact ha ▸ same m hm r
      · rw [mapGet_set_other g ha, h]
  induction rows generalizing gs with
  | nil => exact absurd hr List.not_mem_nil
  | cons a l ih =>
    rcases List.mem_cons.1 hr with rfl | hr
    · exact stays l _ (next gs hg r) (same gs hg r)
    · exact ih (next gs hg a) hr

section
variable {s : State} (h : s.Canonical) (t : Site) (off : Nat) {bs : List Byte} (hb : bs ≠ []) (g : Nat)
include h hb

theorem State.writeStore_mem : (s.writeStore t off bs g).mem = (s.setBytes (storeAddr t off) bs).mem := by
  obtain ⟨u, hu, he⟩ := State.writeStore_eq h t off hb g
  rw [he, State.genStamp_mem, State.setBytes_mem_congr hu.mem]

theorem State.writeStore_sameOutside : SameOutside s (s.writeStore t off bs g) (storeAddr t off) bs.length :=
  (State.setBytes_sameOutside s _ bs).of_mem rfl (State.writeStore_mem h t off hb g)

theorem State.writeStore_reads {k : Nat} (hk : k < bs.length) :
    (s.writeStore t off bs g).byte (storeAddr t off + k) = bs.getD k 0 := by
  rw [State.byte_of_mem (State.writeStore_mem h t off hb g), State.setBytes_reads h hk]

end

/-- A write of the store leaves every unit of its tile but the store's own tables and books. -/
theorem State.writeStore_tile {s : State} (h : s.Canonical) (t : Site) (off : Nat) (bs : List Byte) (g : Nat) :
    ∃ creg info, (s.writeStore t off bs g).tile t = { s.tile t with creg := creg, info := info } ∧
      ∀ a, a ∉ bookRegs → (s.writeStore t off bs g).creg t a = s.creg t a := by
  by_cases hb : bs = []
  · subst hb
    exact ⟨_, _, rfl, fun _ _ => rfl⟩
  · obtain ⟨u, hu, he⟩ := State.writeStore_eq h t off hb g
    have hc := State.setBytes_canonical hu.canon (storeAddr t off) bs
    obtain ⟨info, hi⟩ : ∃ info, (s.writeStore t off bs g).tile t = { u.tile t with info := info } :=
      ⟨_, by rw [he, State.genStamp_tile hc, State.setBytes_tile]⟩
    have ht : (s.writeStore t off bs g).tile t = { s.tile t with creg := (u.tile t).creg, info := info } := by
      rw [hi, hu.tile]
    refine ⟨_, _, ht, fun a ha => ?_⟩
    rw [← hu.creg a ha, State.creg, ht]
    rfl

theorem State.writeStore_canonical {s : State} (h : s.Canonical) (t : Site) (off : Nat) (bs : List Byte) (g : Nat) :
    (s.writeStore t off bs g).Canonical := (State.writeStore_keeps h.keeps).canon

section
variable {s : State} (h : s.Canonical) (t : Site) (off : Nat) (bs : List Byte) (g : Nat)
include h

theorem State.writeStore_core : (s.writeStore t off bs g).core t = s.core t := by
  obtain ⟨c, i, ht, -⟩ := State.writeStore_tile h t off bs g
  rw [State.core, ht]; rfl

theorem State.writeStore_ni : (s.writeStore t off bs g).ni t = s.ni t := by
  obtain ⟨c, i, ht, -⟩ := State.writeStore_tile h t off bs g
  rw [State.ni, ht]; rfl

theorem State.writeStore_queue (q : Nat) : (s.writeStore t off bs g).queue t q = s.queue t q := by
  obtain ⟨c, i, ht, -⟩ := State.writeStore_tile h t off bs g
  rw [State.queue, ht]; rfl

/-- With tagging on, every row that a write touches takes the writer's tag (R64). -/
theorem State.writeStore_gens (hb : bs ≠ []) (hg : s.genOn t = true)
    (hw : g ≠ 0 ∨ mapWf (fun _ => 0) (s.tile t).info.gens = true) {r : Nat} (hr : r ∈ rowsOf off bs.length) :
    mapGet (fun _ => 0) ((s.writeStore t off bs g).tile t).info.gens r = g := by
  obtain ⟨u, hu, he⟩ := State.writeStore_eq h t off hb g
  have hgen : (u.setBytes (storeAddr t off) bs).genOn t = true := by
    rw [State.genOn, State.setBytes_cfld, hu.cfld (by decide)]
    exact hg
  have hn : bs.length ≠ 0 := by simpa using hb
  rw [he, State.genStamp_tile (State.setBytes_canonical hu.canon _ _), hgen]
  simp only [hn, ne_eq, not_false_eq_true, decide_true, Bool.and_self, if_true, State.setBytes_tile]
  exact mapGet_stamped (hw.imp_right (fun h => by rwa [hu.gens])) hr

end

end Sys2Proof.Machine
end

section
/-!
PROOFS. Loads, stores, the store buffer and the fetch (R113, R114, R123, R124).
-/
namespace Sys2Proof.Machine

/-! ### The address of a load or a store (R123) -/

section
variable {s : State} {t : Site} {w : Word} {n : Nat}

theorem effAddr_misaligned (hm : (eaWord s t w).toNat % n ≠ 0) : effAddr s t w n = .error trMisalign := if_pos hm

theorem effAddr_store (hm : (eaWord s t w).toNat % n = 0) (he : (eaWord s t w).toNat < s.storeEnd t) :
    effAddr s t w n = .ok (eaWord s t w).toNat := by
  have hs : s.storeEnd t ≤ 0x60000 := by unfold State.storeEnd; split <;> omega
  have h1 : (eaWord s t w).toNat < 0x80000 := by omega
  have h2 : (eaWord s t w).toNat < 0x70000 := by omega
  simp only [eaWord] at *
  simp only [effAddr, hm, h1, h2, he, ne_eq, not_true, if_false, decide_true, Bool.not_true, Bool.false_eq_true, if_true]

theorem effAddr_outside (hm : (eaWord s t w).toNat % n = 0) (he : s.storeEnd t ≤ (eaWord s t w).toNat)
    (ho : (eaWord s t w).toNat < 0x70000 ∨ 0x80000 ≤ (eaWord s t w).toNat) : effAddr s t w n = .error trAddr := by
  simp only [eaWord] at *
  rcases ho with h | h
  · have h8 : ((s.core t).get (fRa w) + simm13 w).toNat < 0x80000 := by omega
    simp only [effAddr, hm, h8, h, Nat.not_lt.2 he, ne_eq, not_true, if_false, decide_true, Bool.not_true, Bool.false_eq_true,
      if_true]
  · simp only [effAddr, hm, Nat.not_lt.2 h, ne_eq, not_true, if_false, decide_false, Bool.not_false, if_true]

section
variable (hm : (eaWord s t w).toNat % n = 0) (h7 : 0x70000 ≤ (eaWord s t w).toNat) (h8 : (eaWord s t w).toNat < 0x80000)
include hm h7 h8

theorem effAddr_reserved (hc : ctrlReg (eaWord s t w).toNat = none) : effAddr s t w n = .error trAddr := by
  simp only [eaWord] at *
  simp only [effAddr, hm, h8, Nat.not_lt.2 h7, hc, ne_eq, not_true, if_false, decide_true, Bool.not_true, Bool.false_eq_true]

theorem effAddr_ctrlsize {k b : Nat} (hc : ctrlReg (eaWord s t w).toNat = some (k, b))
    (hk : ¬ (k = n ∧ b = (eaWord s t w).toNat)) : effAddr s t w n = .error trCtrlsize := by
  simp only [eaWord] at *
  simp only [effAddr, hm, h8, Nat.not_lt.2 h7, hc, ne_eq, not_true, if_false, decide_true, Bool.not_true, Bool.false_eq_true]
  exact if_neg (by simpa using hk)

theorem effAddr_ctrlreg (hc : ctrlReg (eaWord s t w).toNat = some (n, (eaWord s t w).toNat)) :
    effAddr s t w n = .ok (eaWord s t w).toNat := by
  simp only [eaWord] at *
  simp only [effAddr, hm, h8, Nat.not_lt.2 h7, hc, ne_eq, not_true, if_false, decide_true, Bool.not_true, Bool.false_eq_true,
    Bool.and_self, if_true]

end

/-! ### Loads -/

/-- The bytes a load delivers: the newest buffered store's, else the store's. -/
def State.loaded (s : State) (t : Site) (a n : Nat) : List Byte :=
  (List.range n).map (fun k => (bufferedByte (s.core t).stbuf (a + k)).getD (s.byte (storeAddr t (a + k))))

theorem storeAddr_add (t : Site) (a k : Nat) : storeAddr t (a + k) = storeAddr t a + k := (Nat.add_assoc _ _ _).symm

variable {f : Word → List Byte → Core → Core}

theorem loadBody_error {c : Nat} (h : effAddr s t w n = .error c) : loadBody n t f w s = .trap c (eaWord s t w) s := by
  simp only [loadBody, h]

theorem loadBody_ctrl (h : effAddr s t w n = .ok (eaWord s t w).toNat) (h7 : 0x70000 ≤ (eaWord s t w).toNat)
    (hb : (s.core t).stbuf = []) :
    loadBody n t f w s = .ok (s.onCore t (fun c => (f w (leBytes n (s.ctrlRead t (eaWord s t w).toNat).toNat) c).advance)) := by
  simp [loadBody, h, Nat.not_lt.2 h7, hb]

theorem loadBody_ue (h : effAddr s t w n = .ok (eaWord s t w).toNat) (h7 : (eaWord s t w).toNat < 0x70000)
    (hu : (s.firstUe t (eaWord s t w).toNat n).isSome) :
    loadBody n t f w s = .trap trStoreUe (eaWord s t w) (s.eccRead t (eaWord s t w).toNat n).1 := by
  simp [loadBody, h, h7, State.readStore_eq, hu]

theorem loadBody_store (h : effAddr s t w n = .ok (eaWord s t w).toNat) (h7 : (eaWord s t w).toNat < 0x70000)
    (hu : s.firstUe t (eaWord s t w).toNat n = none) :
    loadBody n t f w s = .ok ((s.eccRead t (eaWord s t w).toNat n).1.onCore t (fun c =>
      (f w (s.loaded t (eaWord s t w).toNat n) c).advance)) := by
  have hl : (List.range n).map (fun i => (bufferedByte (s.core t).stbuf ((eaWord s t w).toNat + i)).getD
      ((s.bytes (storeAddr t (eaWord s t w).toNat) n).getD i 0)) = s.loaded t (eaWord s t w).toNat n := by
    refine List.map_congr_left fun i hi => ?_
    rw [State.getD_bytes (List.mem_range.1 hi), storeAddr_add]
  simp only [loadBody, h, h7, State.readStore_eq, hu, hl, decide_true, Bool.not_true, Bool.false_eq_true, if_false,
    Option.isSome_none]

/-- What the statement of LoadsReadTheStore says of one load: i is the instruction with opcode op that reads n bytes. -/
def LoadsAs (s : State) (t : Site) (w : Word) (i : Instr) (n : Nat) (g : List Byte → Core → Core) : Prop :=
  ((eaWord s t w).toNat % n ≠ 0 → exec i s = .next (s.takeTrap t 3 (eaWord s t w))) ∧
  ((eaWord s t w).toNat % n = 0 → (eaWord s t w).toNat < s.storeEnd t →
    (s.firstUe t (eaWord s t w).toNat n = none → exec i s = .next ((s.eccRead t (eaWord s t w).toNat n).1.onCore t (fun c =>
      (g (s.loaded t (eaWord s t w).toNat n) c).advance))) ∧
    ((s.firstUe t (eaWord s t w).toNat n).isSome →
      exec i s = .next ((s.eccRead t (eaWord s t w).toNat n).1.takeTrap t 6 (eaWord s t w)))) ∧
  ((eaWord s t w).toNat % n = 0 → s.storeEnd t ≤ (eaWord s t w).toNat →
    (eaWord s t w).toNat < 0x70000 ∨ 0x80000 ≤ (eaWord s t w).toNat → exec i s = .next (s.takeTrap t 4 (eaWord s t w))) ∧
  ((eaWord s t w).toNat % n = 0 → 0x70000 ≤ (eaWord s t w).toNat → (eaWord s t w).toNat < 0x80000 →
    (ctrlReg (eaWord s t w).toNat = none → exec i s = .next (s.takeTrap t 4 (eaWord s t w))) ∧
    (∀ k b, ctrlReg (eaWord s t w).toNat = some (k, b) → ¬ (k = n ∧ b = (eaWord s t w).toNat) →
      exec i s = .next (s.takeTrap t 5 (eaWord s t w))) ∧
    (ctrlReg (eaWord s t w).toNat = some (n, (eaWord s t w).toNat) → (s.core t).stbuf = [] →
      exec i s = .next (s.onCore t (fun c => (g (leBytes n (s.ctrlRead t (eaWord s t w).toNat).toNat) c).advance))))

/-- An instruction whose body is loadBody loads. -/
theorem loadsAs_of_loadBody {name : String} {op : Nat} {legal : Word → Bool} {i : Instr} (h : s.Runs t op w)
    (hl : legal w = true) (hi : exec i s = instr name op t legal (loadBody n t f) s) : LoadsAs s t w i n (f w) := by
  have hs : s.storeEnd t ≤ 0x60000 := by unfold State.storeEnd; split <;> omega
  refine ⟨fun hm => ?_, fun hm he => ⟨fun hu => ?_, fun hu => ?_⟩, fun hm he ho => ?_, fun hm h7 h8 => ⟨fun hc => ?_,
    fun k b hc hk => ?_, fun hc hb => ?_⟩⟩ <;> rw [hi]
  · exact instr_runs_trap (cause := trMisalign) h hl (loadBody_error (effAddr_misaligned hm))
  · exact instr_runs_ok h hl (loadBody_store (effAddr_store hm he) (by omega) hu)
  · exact instr_runs_trap (cause := trStoreUe) h hl (loadBody_ue (effAddr_store hm he) (by omega) hu)
  · exact instr_runs_trap (cause := trAddr) h hl (loadBody_error (effAddr_outside hm he ho))
  · exact instr_runs_trap (cause := trAddr) h hl (loadBody_error (effAddr_reserved hm h7 h8 hc))
  · exact instr_runs_trap (cause := trCtrlsize) h hl (loadBody_error (effAddr_ctrlsize hm h7 h8 hc hk))
  · exact instr_runs_ok h hl (loadBody_ctrl (effAddr_ctrlreg hm h7 h8 hc) h7 hb)

end

/-- Settles O16: each load is loadBody with its size and its change of the core. -/
theorem loadsReadTheStore : Obligations.LoadsReadTheStore := by
  unfold Obligations.LoadsReadTheStore
  intro s t w rd
  simp only [List.forall_mem_cons]
  refine ⟨fun h _ => ?_, fun h _ => ?_, fun h _ => ?_, fun h _ => ?_, fun h _ => ?_, fun h he => ?_,
    fun _ hr => absurd hr List.not_mem_nil⟩
  · exact loadsAs_of_loadBody (i := .lb t) h rfl (execLb.eq_1 t s)
  · exact loadsAs_of_loadBody (i := .lbu t) h rfl (execLbu.eq_1 t s)
  · exact loadsAs_of_loadBody (i := .lh t) h rfl (execLh.eq_1 t s)
  · exact loadsAs_of_loadBody (i := .lhu t) h rfl (execLhu.eq_1 t s)
  · exact loadsAs_of_loadBody (i := .lw t) h rfl (execLw.eq_1 t s)
  · exact loadsAs_of_loadBody (i := .ldd t) h (decide_eq_true (he trivial)) (execLdd.eq_1 t s)

/-! ### Stores -/

/-- The entry of the store buffer for n bytes of v at address a. -/
def sbEntry (a n v : Nat) : SbEntry :=
  { addr := a / 8 * 8, mask := BitVec.ofNat 8 ((2 ^ n - 1) * 2 ^ (a % 8)), data := BitVec.ofNat 64 (v * 2 ^ (8 * (a % 8))) }

theorem sbEntry_mask (a n v : Nat) {k : Nat} (hk : k < 8) :
    (sbEntry a n v).mask.getLsbD k = decide (a % 8 ≤ k ∧ k < a % 8 + n) := by
  rw [sbEntry, BitVec.getLsbD_ofNat, Nat.testBit_mul_two_pow, Nat.testBit_two_pow_sub_one, Bool.eq_iff_iff]
  simp only [hk, decide_true, Bool.true_and, Bool.and_eq_true, decide_eq_true_eq]
  omega

/-- An aligned access of 1, 2, 4 or 8 bytes lies in one word. -/
theorem aligned_in_word {a n : Nat} (hn : n ∣ 8) (hm : a % n = 0) : a % 8 + n ≤ 8 := by
  have h8 : n ≤ 8 := Nat.le_of_dvd (by decide) hn
  have ha : a % 8 % n = 0 := by rw [Nat.mod_mod_of_dvd a hn, hm]
  have hcases : n = 0 ∨ n = 1 ∨ n = 2 ∨ n = 3 ∨ n = 4 ∨ n = 5 ∨ n = 6 ∨ n = 7 ∨ n = 8 := by omega
  rcases hcases with rfl | rfl | rfl | rfl | rfl | rfl | rfl | rfl | rfl <;> omega

theorem sbEntry_data {a n v : Nat} (hn : n ∣ 8) (hm : a % n = 0) (hv : v < 2 ^ (8 * n)) :
    (sbEntry a n v).data.toNat = v * 2 ^ (8 * (a % 8)) := by
  have hw := aligned_in_word hn hm
  refine Nat.mod_eq_of_lt ?_
  calc v * 2 ^ (8 * (a % 8)) < 2 ^ (8 * n) * 2 ^ (8 * (a % 8)) := Nat.mul_lt_mul_of_pos_right hv (Nat.two_pow_pos _)
    _ = 2 ^ (8 * n + 8 * (a % 8)) := (Nat.pow_add _ _ _).symm
    _ ≤ 2 ^ 64 := Nat.pow_le_pow_right (by decide) (by omega)

section
variable {s : State} {t : Site} {w : Word} {n : Nat} {val : Word → Core → Nat}

theorem storeBody_error {c : Nat} (h : effAddr s t w n = .error c) : storeBody n t val w s = .trap c (eaWord s t w) s := by
  simp only [storeBody, h]

theorem storeBody_ctrl (h : effAddr s t w n = .ok (eaWord s t w).toNat) (h7 : 0x70000 ≤ (eaWord s t w).toNat)
    (hb : (s.core t).stbuf = []) : storeBody n t val w s =
      .ok ((s.ctrlWrite t (eaWord s t w).toNat (BitVec.ofNat 64 (val w (s.core t)))).onCore t Core.advance) := by
  simp [storeBody, h, Nat.not_lt.2 h7, hb]

theorem storeBody_enters (h : effAddr s t w n = .ok (eaWord s t w).toNat) (h7 : (eaWord s t w).toNat < 0x70000)
    (hb : (s.core t).stbuf.length < 4) : storeBody n t val w s = .ok (s.onCore t (fun c => { c with
      stbuf := c.stbuf ++ [sbEntry (eaWord s t w).toNat n (val w (s.core t) % 2 ^ (8 * n))] }.advance)) := by
  simp only [storeBody, h, h7, Nat.not_le.2 hb, decide_true, Bool.not_true, Bool.false_eq_true, if_false]
  rfl

/-- What the statement of StoresEnterTheBuffer says of one store: i is the instruction that writes the n bytes of v, and wide is the
value a tile control register takes. -/
def StoresAs (s : State) (t : Site) (w : Word) (i : Instr) (n v wide : Nat) : Prop :=
  ((eaWord s t w).toNat % n ≠ 0 → exec i s = .next (s.takeTrap t 3 (eaWord s t w))) ∧
  ((eaWord s t w).toNat % n = 0 → (eaWord s t w).toNat < s.storeEnd t → (s.core t).stbuf.length < 4 →
    ∃ e : SbEntry, exec i s = .next (s.onCore t (fun c => { c with stbuf := c.stbuf ++ [e] }.advance)) ∧
      e.addr = (eaWord s t w).toNat / 8 * 8 ∧
      (∀ k, k < 8 → e.mask.getLsbD k = decide ((eaWord s t w).toNat % 8 ≤ k ∧ k < (eaWord s t w).toNat % 8 + n)) ∧
      e.data.toNat = v * 2 ^ (8 * ((eaWord s t w).toNat % 8))) ∧
  ((eaWord s t w).toNat % n = 0 → s.storeEnd t ≤ (eaWord s t w).toNat →
    (eaWord s t w).toNat < 0x70000 ∨ 0x80000 ≤ (eaWord s t w).toNat → exec i s = .next (s.takeTrap t 4 (eaWord s t w))) ∧
  ((eaWord s t w).toNat % n = 0 → 0x70000 ≤ (eaWord s t w).toNat → (eaWord s t w).toNat < 0x80000 →
    (ctrlReg (eaWord s t w).toNat = none → exec i s = .next (s.takeTrap t 4 (eaWord s t w))) ∧
    (∀ k b, ctrlReg (eaWord s t w).toNat = some (k, b) → ¬ (k = n ∧ b = (eaWord s t w).toNat) →
      exec i s = .next (s.takeTrap t 5 (eaWord s t w))) ∧
    (ctrlReg (eaWord s t w).toNat = some (n, (eaWord s t w).toNat) → (s.core t).stbuf = [] → ∃ x : Dword, x.toNat = wide ∧
      exec i s = .next ((s.ctrlWrite t (eaWord s t w).toNat x).onCore t Core.advance)))

/-- An instruction whose body is storeBody stores. -/
theorem storesAs_of_storeBody {name : String} {op v : Nat} {legal : Word → Bool} {i : Instr} (h : s.Runs t op w)
    (hl : legal w = true) (hi : exec i s = instr name op t legal (storeBody n t val) s) (hn : n ∣ 8)
    (hv : val w (s.core t) % 2 ^ (8 * n) = v) (h64 : val w (s.core t) < 2 ^ 64) : StoresAs s t w i n v (val w (s.core t)) := by
  have hs : s.storeEnd t ≤ 0x60000 := by unfold State.storeEnd; split <;> omega
  refine ⟨fun hm => ?_, fun hm he hb => ⟨_, ?_, rfl, fun k => sbEntry_mask _ _ _, sbEntry_data hn hm ?_⟩, fun hm he ho => ?_,
    fun hm h7 h8 => ⟨fun hc => ?_, fun k b hc hk => ?_, fun hc hb => ⟨BitVec.ofNat 64 (val w (s.core t)), Nat.mod_eq_of_lt h64, ?_⟩⟩⟩
  · rw [hi]
    exact instr_runs_trap (cause := trMisalign) h hl (storeBody_error (effAddr_misaligned hm))
  · rw [hi, ← hv]
    exact instr_runs_ok h hl (storeBody_enters (effAddr_store hm he) (by omega) hb)
  · exact hv ▸ Nat.mod_lt _ (Nat.two_pow_pos _)
  · rw [hi]
    exact instr_runs_trap (cause := trAddr) h hl (storeBody_error (effAddr_outside hm he ho))
  · rw [hi]
    exact instr_runs_trap (cause := trAddr) h hl (storeBody_error (effAddr_reserved hm h7 h8 hc))
  · rw [hi]
    exact instr_runs_trap (cause := trCtrlsize) h hl (storeBody_error (effAddr_ctrlsize hm h7 h8 hc hk))
  · rw [hi]
    exact instr_runs_ok h hl (storeBody_ctrl (effAddr_ctrlreg hm h7 h8 hc) h7 hb)

end

/-- Settles O17: each store is storeBody with its size and value. -/
theorem storesEnterTheBuffer : Obligations.StoresEnterTheBuffer := by
  unfold Obligations.StoresEnterTheBuffer
  intro s t w c low
  have hlow : low < 2 ^ 32 := ((s.core t).get (fRd w)).isLt
  have hhigh : (c.get (fRd w + 1)).toNat < 2 ^ 32 := ((s.core t).get (fRd w + 1)).isLt
  have hwide : low + (c.get (fRd w + 1)).toNat * 2 ^ 32 < 2 ^ 64 := by omega
  simp only [List.forall_mem_cons]
  refine ⟨fun h _ => ?_, fun h _ => ?_, fun h _ => ?_, fun h he => ?_, fun _ hr => absurd hr List.not_mem_nil⟩
  · exact storesAs_of_storeBody (i := .sb t) h rfl (execSb.eq_1 t s) (by decide) rfl (by omega)
  · exact storesAs_of_storeBody (i := .sh t) h rfl (execSh.eq_1 t s) (by decide) rfl (by omega)
  · exact storesAs_of_storeBody (i := .sw t) h rfl (execSw.eq_1 t s) (by decide) (Nat.mod_eq_of_lt hlow) (by omega)
  · exact storesAs_of_storeBody (i := .sdd t) h (decide_eq_true (he trivial)) (execSdd.eq_1 t s) (by decide)
      (Nat.mod_eq_of_lt hwide) hwide

/-! ### The store buffer (R114) -/

section
variable {e : SbEntry} {lo n : Nat} (hn : 1 ≤ n) (hl : lo + n ≤ 8) (hm : ∀ k, k < 8 → e.mask.getLsbD k = decide (lo ≤ k ∧ k < lo + n))
include hl hm

theorem SbEntry.len_eq : e.len = n := by
  have hf : (List.range 8).filter (fun i => e.mask.toNat.testBit i) =
      (List.range 8).filter (fun i => decide (lo ≤ i ∧ i < lo + n)) :=
    List.filter_congr fun i hi => hm i (List.mem_range.1 hi)
  have count : ∀ lo ≤ 8, ∀ n ≤ 8, lo + n ≤ 8 → ((List.range 8).filter (fun i => decide (lo ≤ i ∧ i < lo + n))).length = n := by
    decide
  rw [SbEntry.len, popcount, hf]
  exact count lo (by omega) n (by omega) hl

include hn

theorem SbEntry.lo_eq : e.lo = lo := by
  have hf : (List.range 8).find? (fun i => e.mask.getLsbD i) = some lo := by
    rw [List.find?_range_eq_some]
    have hlo : lo < 8 := by omega
    refine ⟨?_, List.mem_range.2 hlo, fun j hj => ?_⟩
    · rw [hm lo hlo, decide_eq_true_eq]
      omega
    · rw [hm j (by omega), Bool.not_eq_true', decide_eq_false_iff_not]
      omega
  rw [SbEntry.lo, hf, Option.getD_some]

end

@[simp] theorem leBytes_length (n v : Nat) : (leBytes n v).length = n := by
  induction n generalizing v with
  | zero => rfl
  | succ n ih => rw [leBytes, List.length_cons, ih]

/-- Byte k of a little-endian number. -/
theorem getD_leBytes {n k : Nat} (v : Nat) (hk : k < n) : (leBytes n v).getD k 0 = BitVec.ofNat 8 (v / 2 ^ (8 * k)) := by
  induction n generalizing v k with
  | zero => omega
  | succ n ih =>
    cases k with
    | zero => simp [leBytes]
    | succ k =>
      rw [leBytes, List.getD_cons_succ, ih _ (by omega), Nat.div_div_eq_div_mul]
      congr 2
      rw [Nat.mul_add, Nat.pow_add, Nat.mul_comm]

theorem leBytes_ne_nil {n : Nat} (v : Nat) (hn : 1 ≤ n) : leBytes n v ≠ [] := by
  intro h
  have := congrArg List.length h
  simp only [leBytes_length, List.length_nil] at this
  omega

theorem exec_storeBufferPerform {s : State} {t : Site} {e : SbEntry} {rest : List SbEntry} (hl : s.Live t)
    (he : (s.core t).stbuf = e :: rest) :
    exec (.storeBufferPerform t) s = .next ((s.onCore t (fun c => { c with stbuf := rest })).writeStore t (e.addr + e.lo)
      (leBytes e.len (e.data.toNat / 2 ^ (8 * e.lo))) ((s.onCore t (fun c => { c with stbuf := rest })).cfld t aGenCfg 11 8)) := by
  refine (onTile_live hl).trans ?_
  simp only [he]

/-- Settles O18: the write of the oldest entry's bytes, by the rules of writeStore. -/
theorem storeBufferPerforms : Obligations.StoreBufferPerforms := by
  unfold Obligations.StoreBufferPerforms
  intro s t e rest lo n hl hc he hn h8 hm a
  have h1 : (s.onCore t (fun c => { c with stbuf := rest })).Canonical := hc.onCore t _
  have hg : ∀ r hi lo, (s.onCore t (fun c => { c with stbuf := rest })).cfld t r hi lo = s.cfld t r hi lo := fun r hi lo => by
    rw [State.cfld, State.onCore_creg hc, State.cfld]
  refine ⟨_, exec_storeBufferPerform hl he, ?_⟩
  rw [SbEntry.lo_eq hn h8 hm, SbEntry.len_eq h8 hm, hg]
  have hb : leBytes n (e.data.toNat / 2 ^ (8 * lo)) ≠ [] := leBytes_ne_nil _ hn
  have hlen : (leBytes n (e.data.toNat / 2 ^ (8 * lo))).length = n := leBytes_length n _
  refine ⟨?_, ?_, fun k hk => ?_, fun hon hw r hr => ?_⟩
  · rw [State.writeStore_core h1, State.onCore_core hc]
  · have h := State.writeStore_sameOutside h1 t (e.addr + lo) hb (s.cfld t aGenCfg 11 8)
    rwa [hlen] at h
  · rw [State.writeStore_reads h1 t (e.addr + lo) hb _ (by rwa [hlen]), getD_leBytes _ hk, Nat.div_div_eq_div_mul,
      ← Nat.pow_add, Nat.mul_add]
  · refine State.writeStore_gens h1 t _ _ _ hb ?_ (hw.imp_right ?_) (by rwa [hlen])
    · rw [State.genOn, hg]
      exact hon
    · rw [State.onCore_tile hc]
      exact id

/-! ### The fetch (R113, R114) -/

section
variable {s : State} {t : Site} (hl : s.Live t) (hr : (s.core t).run = .running) (hs : (s.core t).switch = none)
include hl hr hs

theorem exec_fetch_outside (hf : (s.core t).fetch = []) (ho : s.storeEnd t < (s.core t).fetchAddr + 8) :
    exec (.instructionFetch t) s = .next (s.takeTrap t 1 (BitVec.setWidth 32 (s.core t).pc)) := by
  refine (onTile_live hl).trans ?_
  simp only [hr, hs, hf, ho, decide_true, Option.isNone_none, Bool.and_self, Bool.not_true, Bool.false_eq_true, if_false, if_true]
  rfl

theorem exec_fetch_bad {f : FetchWord} (hf : f ∈ (s.core t).fetch.head?) (hbad : f.bad = true) (hb : (s.core t).blocked = none) :
    exec (.instructionFetch t) s = .next (s.takeTrap t 1 (BitVec.setWidth 32 (s.core t).pc)) := by
  obtain ⟨l, hf⟩ : ∃ l, (s.core t).fetch = f :: l := by
    cases h : (s.core t).fetch with
    | nil => simp [h] at hf
    | cons x l =>
      simp only [h, List.head?_cons, Option.mem_def, Option.some.injEq] at hf
      exact ⟨l, by rw [hf]⟩
  refine (onTile_live hl).trans ?_
  simp only [hr, hs, hf, hbad, hb, decide_true, Option.isNone_none, Bool.and_self, Bool.not_true, Bool.false_eq_true, if_false, if_true]
  rfl

theorem exec_fetch_ue (hf : (s.core t).fetch = []) (hb : (s.core t).blocked = none)
    (hi : (s.core t).fetchAddr + 8 ≤ s.storeEnd t) (hu : (s.firstUe t (s.core t).fetchAddr 8).isSome) :
    exec (.instructionFetch t) s =
      .next ((s.eccRead t (s.core t).fetchAddr 8).1.takeTrap t 1 (BitVec.setWidth 32 (s.core t).pc)) := by
  refine (onTile_live hl).trans ?_
  simp only [hr, hs, hf, hb, hu, Nat.not_lt.2 hi, State.readStore_eq, decide_true, Option.isNone_none, Bool.and_self, Bool.not_true,
    Bool.false_eq_true, if_false, if_true]
  rfl

theorem exec_fetch_enters (hi : (s.core t).fetchAddr + 8 ≤ s.storeEnd t) (h4 : (s.core t).fetch.length < 4)
    (hg : ∀ f ∈ (s.core t).fetch.head?, f.bad = false) (hu : s.firstUe t (s.core t).fetchAddr 8 = none) :
    exec (.instructionFetch t) s = .next ((s.eccRead t (s.core t).fetchAddr 8).1.onCore t (fun c => { c with
      fetch := c.fetch ++
        [{ data := BitVec.ofNat 64 (leNat (s.bytes (storeAddr t (s.core t).fetchAddr) 8)), bad := false }] })) := by
  refine (onTile_live hl).trans ?_
  cases hf : (s.core t).fetch with
  | nil =>
    simp only [hr, hs, hf, hu, Nat.not_lt.2 hi, State.readStore_eq, decide_true, Option.isNone_none, Bool.and_self, Bool.not_true,
      Bool.false_eq_true, if_false, Option.isSome_none, Bool.false_and]
    have hne : s.core t ≠ Core.reset := fun h => by rw [h] at hr; cases hr
    refine congrArg _ (State.onCore_congr ?_)
    rw [State.eccRead_core_of_ne hne rfl, hf, List.nil_append]
  | cons f l =>
    have hgf : f.bad = false := hg f (by simp [hf])
    rw [hf] at h4
    simp only [hr, hs, hf, hu, hi, h4, hgf, State.readStore_eq, decide_true, Option.isNone_none, Bool.and_self, Bool.not_true,
      Bool.false_eq_true, if_false, if_true, Option.isSome_none, Bool.false_and]

end

/-- Settles O19: the word in line as exec_fetch_enters takes it, and the three ways to FETCH. -/
theorem instructionFetches : Obligations.InstructionFetches := by
  unfold Obligations.InstructionFetches
  intro s t hl hr hs c a word pc
  refine ⟨exec_fetch_outside hl hr hs, fun hi h4 hg hu => ?_, fun hf hb hi hu => exec_fetch_ue hl hr hs hf hb hi hu,
    fun f hf hbad hb => exec_fetch_bad hl hr hs hf hbad hb⟩
  rw [exec_fetch_enters hl hr hs hi h4 hg hu]
  simp only [State.bytes, ← storeAddr_add]
  rfl

end Sys2Proof.Machine
end

section
/-!
PROOFS. Equal contents are equal states: a canonical map is what it reads, so that two updates of one unit are one.
-/
namespace Sys2Proof.Machine

section
variable {α : Type} [DecidableEq α] {d : Nat → α}

omit [DecidableEq α] in
/-- Two sorted lists above a bound, without defaults, that read alike are one list. -/
theorem mapSorted_ext {m n : List (Nat × α)} (hm : mapSorted none m = true) (hn : mapSorted none n = true)
    (dm : ∀ e ∈ m, e.2 ≠ d e.1) (dn : ∀ e ∈ n, e.2 ≠ d e.1) (h : ∀ k, mapGet d m k = mapGet d n k) : m = n := by
  induction m generalizing n with
  | nil =>
    cases n with
    | nil => rfl
    | cons e n =>
      obtain ⟨j, v⟩ := e
      have hv := h j
      simp only [mapGet, if_true] at hv
      exact absurd hv.symm (dn (j, v) List.mem_cons_self)
  | cons e m ih =>
    obtain ⟨j, v⟩ := e
    cases n with
    | nil =>
      have hv := h j
      simp only [mapGet, if_true] at hv
      exact absurd hv (dm (j, v) List.mem_cons_self)
    | cons f n =>
      obtain ⟨i, w⟩ := f
      simp only [mapSorted] at hm hn
      have hji : j = i := by
        rcases Nat.lt_trichotomy j i with hlt | heq | hgt
        · have hv := h j
          simp only [mapGet, if_true, Nat.ne_of_lt hlt, if_false] at hv
          rw [mapGet_of_lt d n (mapSorted_lower (Nat.le_of_lt hlt) hn)] at hv
          exact absurd hv (dm (j, v) List.mem_cons_self)
        · exact heq
        · have hv := h i
          simp only [mapGet, if_true, Nat.ne_of_lt hgt, if_false] at hv
          rw [mapGet_of_lt d m (mapSorted_lower (Nat.le_of_lt hgt) hm)] at hv
          exact absurd hv.symm (dn (i, w) List.mem_cons_self)
      subst hji
      have hvw : v = w := by simpa [mapGet] using h j
      subst hvw
      have hrest : m = n := by
        refine ih (mapSorted_weaken hm) (mapSorted_weaken hn) (fun e he => dm e (List.mem_cons_of_mem _ he))
          (fun e he => dn e (List.mem_cons_of_mem _ he)) fun k => ?_
        by_cases hk : k = j
        · rw [hk, mapGet_of_lt d m hm, mapGet_of_lt d n hn]
        · simpa [mapGet, hk] using h k
      rw [hrest]

theorem mapWf_ext {m n : List (Nat × α)} (hm : mapWf d m = true) (hn : mapWf d n = true) (h : ∀ k, mapGet d m k = mapGet d n k) :
    m = n := by
  rw [mapWf_iff] at hm hn
  exact mapSorted_ext hm.1 hn.1 hm.2 hn.2 h

/-- The later of two writes of one key stands. -/
theorem mapSet_mapSet {m : List (Nat × α)} (hm : mapWf d m = true) (k : Nat) (v w : α) :
    mapSet d (mapSet d m k v) k w = mapSet d m k w := by
  have h1 := mapWf_set k v hm
  refine mapWf_ext (mapWf_set k w h1) (mapWf_set k w hm) fun j => ?_
  by_cases hj : j = k
  · rw [hj, mapGet_set_same k w h1, mapGet_set_same k w hm]
  · rw [mapGet_set_other w hj, mapGet_set_other v hj, mapGet_set_other w hj]

/-- Writing what a key already reads changes nothing. -/
theorem mapSet_self {m : List (Nat × α)} (hm : mapWf d m = true) (k : Nat) : mapSet d m k (mapGet d m k) = m := by
  refine mapWf_ext (mapWf_set k _ hm) hm fun j => ?_
  by_cases hj : j = k
  · rw [hj, mapGet_set_same k _ hm]
  · rw [mapGet_set_other _ hj]

/-- Writes of two keys commute. -/
theorem mapSet_comm {m : List (Nat × α)} (hm : mapWf d m = true) {k j : Nat} (hkj : k ≠ j) (v w : α) :
    mapSet d (mapSet d m k v) j w = mapSet d (mapSet d m j w) k v := by
  have h1 := mapWf_set k v hm
  have h2 := mapWf_set j w hm
  refine mapWf_ext (mapWf_set j w h1) (mapWf_set k v h2) fun i => ?_
  by_cases hik : i = k
  · subst hik
    rw [mapGet_set_other w hkj, mapGet_set_same i v hm, mapGet_set_same i v h2]
  · by_cases hij : i = j
    · subst hij
      rw [mapGet_set_same i w h1, mapGet_set_other v hik, mapGet_set_same i w hm]
    · rw [mapGet_set_other w hij, mapGet_set_other v hik, mapGet_set_other v hik, mapGet_set_other w hij]

end

section
variable {s : State} (h : s.Canonical) (t : Site)
include h

theorem State.setTile_setTile (v w : Tile) : (s.setTile t v).setTile t w = s.setTile t w := by
  simp only [State.setTile, mapSet_mapSet h.tiles]

theorem State.onTile_onTile (f g : Tile → Tile) : (s.onTile t f).onTile t g = s.onTile t (fun x => g (f x)) := by
  rw [State.onTile, State.onTile_tile h, State.onTile, State.setTile_setTile h, State.onTile]

theorem State.onCore_onCore (f g : Core → Core) : (s.onCore t f).onCore t g = s.onCore t (fun c => g (f c)) :=
  State.onTile_onTile h t _ _

theorem State.onNi_onNi (f g : Ni → Ni) : (s.onNi t f).onNi t g = s.onNi t (fun n => g (f n)) :=
  State.onTile_onTile h t _ _

/-- An update that changes nothing. -/
theorem State.onTile_self {f : Tile → Tile} (hf : f (s.tile t) = s.tile t) : s.onTile t f = s := by
  rw [State.onTile, hf, State.setTile, State.tile, mapSet_self h.tiles]

theorem State.onCore_self {f : Core → Core} (hf : f (s.core t) = s.core t) : s.onCore t f = s :=
  State.onTile_self h t (congrArg (fun c => { s.tile t with core := c }) hf)

theorem State.onNi_self {f : Ni → Ni} (hf : f (s.ni t) = s.ni t) : s.onNi t f = s :=
  State.onTile_self h t (congrArg (fun c => { s.tile t with ni := c }) hf)

theorem State.onRouter_onRouter (f g : Router → Router) : (s.onRouter t f).onRouter t g = s.onRouter t (fun x => g (f x)) := by
  rw [State.onRouter, State.onRouter_router_same h, State.onRouter, State.onRouter]
  simp only [State.setRouter, mapSet_mapSet h.routers]

end

/-- An update matters only at the tile that the state holds. -/
theorem State.onTile_congr {s : State} {t : Site} {f g : Tile → Tile} (h : f (s.tile t) = g (s.tile t)) : s.onTile t f = s.onTile t g :=
  congrArg (s.setTile t) h

theorem State.onNi_congr {s : State} {t : Site} {f g : Ni → Ni} (h : f (s.ni t) = g (s.ni t)) : s.onNi t f = s.onNi t g :=
  congrArg (fun n => s.setTile t { s.tile t with ni := n }) h

theorem State.onRouter_congr {s : State} {t : Site} {f g : Router → Router} (h : f (s.router t) = g (s.router t)) :
    s.onRouter t f = s.onRouter t g := congrArg (s.setRouter t) h

/-- Updates of the core and of the NI of one tile commute. -/
theorem State.onNi_onCore {s : State} (h : s.Canonical) (t : Site) (f : Core → Core) (g : Ni → Ni) :
    (s.onCore t f).onNi t g = (s.onNi t g).onCore t f := by
  rw [State.onNi, State.onCore, State.onTile_onTile h, State.onCore, State.onNi, State.onTile_onTile h]

end Sys2Proof.Machine
end

section
/-!
PROOFS. Special registers (R110), predicates (R126 to R128), and the instructions that only move the core on (R114, R119, R141, R143,
R394).
-/
namespace Sys2Proof.Machine

section
variable {s : State} {t : Site} {w : Word}

/-! ### Special registers -/

theorem exec_mfs_reads (h : s.Runs t 0x0A w) (ha : fRa w = 0) (hb : fRb w = 0) (hn : fFn w ≤ 13) (h0 : fFn w ≠ 0) :
    exec (.mfs t) s = .next (s.onCore t (fun c => (c.put (fRd w) (s.special t (fFn w))).advance)) := by
  change execMfs t s = _
  exact instr_runs_ok h (by simp [ha, hb, hn]) (by simp only [if_neg h0]; rfl)

theorem exec_mfs_cyclo (hc : s.Canonical) (h : s.Runs t 0x0A w) (ha : fRa w = 0) (hb : fRb w = 0) (h0 : fFn w = 0) :
    exec (.mfs t) s = .next (s.onCore t (fun c =>
      ({ c with cychi := BitVec.ofNat 32 (s.coreCycles t / 2 ^ 32) }.put (fRd w) (BitVec.ofNat 32 (s.coreCycles t))).advance)) := by
  change execMfs t s = _
  refine instr_runs_ok h (by simp [ha, hb, h0]) ?_
  simp only [h0, if_true, effReg, State.onCore_onCore hc]
  rfl

theorem exec_mts_writes (h : s.Runs t 0x0B w) (hd : fRd w = 0) (hb : fRb w = 0)
    (hn : fFn w = 5 ∨ fFn w = 6 ∨ fFn w = 9 ∨ fFn w = 10 ∨ fFn w = 11) :
    exec (.mts t) s = .next (s.onCore t (fun c => (c.putSpecial (fFn w) (c.get (fRa w))).advance)) := by
  change execMts t s = _
  exact instr_runs_ok h (by simpa [hd, hb] using hn) rfl

/-- TVEC loses its bits [1:0]. -/
theorem and_fffffffc (v : Word) : v &&& 0xFFFFFFFC = BitVec.ofNat 32 (v.toNat / 4 * 4) := by
  have mask : ∀ i < 32, (0xFFFFFFFC : Word).getLsbD i = decide (2 ≤ i) := by decide
  apply BitVec.eq_of_getLsbD_eq
  intro i hi
  rw [BitVec.getLsbD_and, mask i hi, BitVec.getLsbD_ofNat, show 4 = 2 ^ 2 from rfl, Nat.testBit_mul_two_pow,
    Nat.testBit_div_two_pow]
  by_cases h2 : 2 ≤ i
  · simp only [h2, hi, decide_true, Bool.and_true, Bool.true_and, Nat.sub_add_cancel h2]
    rfl
  · simp [h2]

/-- The bits of STATUS. -/
theorem Core.status_bits (c : Core) : c.status.getLsbD 3 = !c.pendQ.isEmpty ∧ c.status.getLsbD 2 = c.handE ∧
    c.status.getLsbD 1 = c.handH ∧ c.status.getLsbD 0 = c.trapT := by
  unfold Core.status
  cases c.pendQ.isEmpty <;> cases c.handE <;> cases c.handH <;> cases c.trapT <;> decide

end

/-- Settles O15. -/
theorem specialRegisters : Obligations.SpecialRegisters := by
  unfold Obligations.SpecialRegisters
  intro s t w hc c cycles read wrote
  refine ⟨fun h ha hb => ?_, fun h hd hb => ?_, c.status_bits⟩
  · have reads : ∀ n, 0 < n → n ≤ 13 → fFn w = n → exec (.mfs t) s = read (s.special t n) := fun n h0 hn he => by
      subst he
      exact exec_mfs_reads h ha hb hn (Nat.ne_of_gt h0)
    exact ⟨fun h0 => exec_mfs_cyclo hc h ha hb h0, reads 1 (by decide) (by decide), reads 2 (by decide) (by decide),
      reads 3 (by decide) (by decide), reads 4 (by decide) (by decide), reads 5 (by decide) (by decide),
      reads 6 (by decide) (by decide), reads 7 (by decide) (by decide), reads 8 (by decide) (by decide),
      reads 9 (by decide) (by decide), reads 10 (by decide) (by decide), reads 11 (by decide) (by decide),
      reads 12 (by decide) (by decide), reads 13 (by decide) (by decide)⟩
  · intro v
    have writes : ∀ n, (n = 5 ∨ n = 6 ∨ n = 9 ∨ n = 10 ∨ n = 11) → fFn w = n →
        exec (.mts t) s = wrote (fun c => c.putSpecial n v) := fun n hn he => by
      subst he
      exact (exec_mts_writes h hd hb hn).trans (congrArg _ (State.onCore_congr rfl))
    refine ⟨writes 5 (by decide), writes 6 (by decide), fun h9 => ?_, writes 10 (by decide), writes 11 (by decide)⟩
    rw [writes 9 (by decide) h9]
    simp only [Core.putSpecial, and_fffffffc]

/-! ### Predicates -/

section
variable {s : State} {t : Site} {w : Word}

theorem exec_pcmp (h : s.Runs t 0x24 w) (hk : Word.field w 6 3 ≤ 11) (h0 : Word.field w 2 0 = 0) {s' : State}
    (he : effPred t s (Word.field w 22 20) (Word.field w 19 17) (compare (Word.field w 6 3) ((s.core t).get (Word.field w 16 12))
      ((s.core t).get (Word.field w 11 7))) = .ok s') : exec (.pcmp t) s = .next s' := by
  change execPcmp t s = _
  exact instr_runs_ok h (by simp [h0, hk]) he

theorem exec_pcmpi (h : s.Runs t 0x25 w) (hk : Word.field w 11 8 ≤ 11) {s' : State}
    (he : effPred t s (Word.field w 22 20) (Word.field w 19 17) (compare (Word.field w 11 8) ((s.core t).get (Word.field w 16 12))
      (BitVec.signExtend 32 (BitVec.ofNat 8 (Word.field w 7 0)))) = .ok s') : exec (.pcmpi t) s = .next s' := by
  change execPcmpi t s = _
  exact instr_runs_ok h (by simp [hk]) he

theorem effPred_apart {pd pn : Nat} (hp : pd ≠ pn ∨ pd = 0) (r : Bool) :
    effPred t s pd pn r = .ok (s.onCore t (fun c => ((c.setPred pd r).setPred pn (!r)).advance)) := by
  refine if_neg ?_
  rcases hp with hp | hp <;> simp [hp]

theorem effPred_same {pd pn : Nat} (hp : pd = pn) (h0 : pd ≠ 0) (r : Bool) :
    ∃ v : Bool, effPred t s pd pn r = .ok ({ s with freeCtr := s.freeCtr + 1 }.onCore t (fun c => (c.setPred pd v).advance)) :=
  ⟨_, if_pos (by simp [hp, hp ▸ h0])⟩

/-- The tests of a comparison (R126). -/
theorem compare_iff {k : Nat} (hk : k ≤ 11) (a b : Word) : compare k a b = true ↔
    if k = 0 then a = b else if k = 1 then a ≠ b
    else if k = 2 then a.toInt < b.toInt else if k = 3 then a.toInt ≥ b.toInt
    else if k = 4 then a.toNat < b.toNat else if k = 5 then a.toNat ≥ b.toNat
    else if k = 6 then a.toInt > b.toInt else if k = 7 then a.toInt ≤ b.toInt
    else if k = 8 then a.toNat > b.toNat else if k = 9 then a.toNat ≤ b.toNat
    else if k = 10 then a &&& b ≠ 0 else a &&& b = 0 := by
  have hcases : k = 0 ∨ k = 1 ∨ k = 2 ∨ k = 3 ∨ k = 4 ∨ k = 5 ∨ k = 6 ∨ k = 7 ∨ k = 8 ∨ k = 9 ∨ k = 10 ∨ k = 11 := by
    omega
  rcases hcases with rfl | rfl | rfl | rfl | rfl | rfl | rfl | rfl | rfl | rfl | rfl | rfl <;>
    exact decide_eq_true_iff

theorem plogFn_eq {k : Nat} (hk : k ≤ 7) (x y : Bool) :
    plogFn k x y = [x && y, x || y, x != y, x && !y, x || !y, !(x && y), true, false].getD k false := by
  have hcases : k = 0 ∨ k = 1 ∨ k = 2 ∨ k = 3 ∨ k = 4 ∨ k = 5 ∨ k = 6 ∨ k = 7 := by omega
  rcases hcases with rfl | rfl | rfl | rfl | rfl | rfl | rfl | rfl <;> rfl

theorem exec_plog_writes (h : s.Runs t 0x26 w) (hk : Word.field w 13 10 ≤ 7) (h0 : Word.field w 9 0 = 0) :
    exec (.plog t) s = .next (s.onCore t (fun c => (c.setPred (Word.field w 22 20)
      (plogFn (Word.field w 13 10) (c.pred (Word.field w 19 17)) (c.pred (Word.field w 16 14)))).advance)) := by
  change execPlog t s = _
  exact instr_runs_ok h (by simp [hk, h0]) rfl

theorem exec_pmov_reads (h : s.Runs t 0x27 w) (hb : fRb w = 0) (hf : fFn w = 0) (ha : fRa w = 0) :
    exec (.pmov t) s = .next (s.onCore t (fun c => (c.put (fRd w) (BitVec.setWidth 32 ((s.core t).preds ||| 1))).advance)) := by
  change execPmov t s = _
  exact instr_runs_ok h (by simp [hb, hf, ha]) (if_pos hf)

theorem exec_pmov_writes (h : s.Runs t 0x27 w) (hb : fRb w = 0) (hf : fFn w = 1) (hd : fRd w = 0) :
    exec (.pmov t) s = .next (s.onCore t (fun c => ({ c with preds := BitVec.setWidth 8 (c.get (fRa w)) ||| 1 }).advance)) := by
  change execPmov t s = _
  exact instr_runs_ok h (by simp [hb, hf, hd]) (if_neg (by omega))

/-- The byte of predicates as PMOV delivers it: p0 reads 1. -/
theorem Core.preds_bits (c : Core) (i : Nat) :
    (BitVec.setWidth 32 (c.preds ||| 1)).getLsbD i = (decide (i = 0) || (decide (i < 8) && c.pred i)) := by
  rw [BitVec.getLsbD_setWidth, BitVec.getLsbD_or, show (1 : BitVec 8).getLsbD i = decide (i = 0) by simp, Core.pred]
  by_cases h0 : i = 0
  · simp [h0]
  · by_cases h8 : i < 8
    · have h32 : i < 32 := by omega
      simp [h0, h8, h32]
    · rw [BitVec.getLsbD_of_ge c.preds i (by omega)]
      simp [h0, h8]

end

/-- Settles O21. -/
theorem predicateInstructions : Obligations.PredicateInstructions := by
  unfold Obligations.PredicateInstructions
  intro s t w c holds pd pn a sets
  refine ⟨fun h hk h0 r hr => ⟨fun hp => ?_, fun hp hz => ?_⟩, fun h hk r hr => ⟨fun hp => ?_, fun hp hz => ?_⟩, fun h hk h0 => ?_,
    fun h hb hf ha => ⟨_, c.preds_bits, exec_pmov_reads h hb hf ha⟩,
    fun h hb hf hd => ⟨BitVec.setWidth 8 (c.get (fRa w)) ||| 1, fun i hi h8 => ?_, ?_⟩⟩
  · rw [← Bool.eq_iff_iff.2 ((compare_iff hk a (c.get (Word.field w 11 7))).trans hr.symm)]
    exact exec_pcmp h hk h0 (effPred_apart hp _)
  · obtain ⟨v, hv⟩ := effPred_same (s := s) (t := t) hp hz (compare (Word.field w 6 3) a (c.get (Word.field w 11 7)))
    exact ⟨v, exec_pcmp h hk h0 hv⟩
  · rw [← Bool.eq_iff_iff.2 ((compare_iff hk a (BitVec.signExtend 32 (BitVec.ofNat 8 (Word.field w 7 0)))).trans hr.symm)]
    exact exec_pcmpi h hk (effPred_apart hp _)
  · obtain ⟨v, hv⟩ := effPred_same (s := s) (t := t) hp hz (compare (Word.field w 11 8) a
      (BitVec.signExtend 32 (BitVec.ofNat 8 (Word.field w 7 0))))
    exact ⟨v, exec_pcmpi h hk hv⟩
  · intro x y
    rw [exec_plog_writes h hk h0, ← plogFn_eq hk]
    exact congrArg _ (State.onCore_congr rfl)
  · have h0 : i ≠ 0 := by omega
    simp [h8, h0]
  · rw [exec_pmov_writes h hb hf hd]
    exact congrArg _ (State.onCore_congr rfl)

/-! ### Instructions that only move the core on -/

section
variable {s : State} {t : Site} {w : Word}

theorem exec_mfence_drains (h : s.Runs t 0x34 w) (hw : Word.field w 22 0 = 0) (hb : (s.core t).stbuf = []) :
    exec (.mfence t) s = .next (s.onCore t (fun c => { c.advance with fetch := [] })) := by
  change execMfence t s = _
  exact instr_runs_ok h (decide_eq_true hw) (if_pos (by simp [hb]))

theorem exec_nop (h : s.Runs t 0x3F w) (hw : Word.field w 22 0 = 0) : exec (.nop t) s = .next (s.onCore t Core.advance) := by
  change execNop t s = _
  exact instr_runs_ok h (decide_eq_true hw) rfl

section
variable (h : s.Runs t 0x38 w) (hd : fRd w = 0) (hf : fFn w = 0)
include h hd hf

theorem exec_stage_takes {g : Staged} (hg : stageKey s t (((s.core t).get (fRa w)).toNat % 256) ((s.core t).get (fRb w))
    (s.core t).staged = some g) : exec (.stage t) s = .next (s.onCore t (fun c => ({ c with staged := g }).advance)) := by
  change execStage t s = _
  exact instr_runs_ok h (by simp [hd, hf]) (by simp only [hg])

theorem exec_stage_refuses (hg : stageKey s t (((s.core t).get (fRa w)).toNat % 256) ((s.core t).get (fRb w))
    (s.core t).staged = none) :
    exec (.stage t) s = .next (s.takeTrap t 8 (BitVec.ofNat 32 (((s.core t).get (fRa w)).toNat % 256))) := by
  change execStage t s = _
  exact instr_runs_trap (cause := trStage) h (by simp [hd, hf]) (by simp only [hg])

end

/-- The bits that GEN_CFG leaves reserved. -/
theorem and_genReserved_iff (v : Word) : v &&& 0xFFFFF0FE = 0 ↔ ∀ i, v.getLsbD i = true → i = 0 ∨ (8 ≤ i ∧ i < 12) := by
  have mask : ∀ i < 32, (0xFFFFF0FE : Word).getLsbD i = !decide (i = 0 ∨ (8 ≤ i ∧ i < 12)) := by decide
  constructor
  · intro h i hi
    have h32 : i < 32 := BitVec.lt_of_getLsbD hi
    have hb : (v &&& 0xFFFFF0FE).getLsbD i = false := by rw [h]; exact BitVec.getLsbD_zero
    rw [BitVec.getLsbD_and, hi, mask i h32, Bool.true_and, Bool.not_eq_false', decide_eq_true_eq] at hb
    exact hb
  · intro h
    apply BitVec.eq_of_getLsbD_eq
    intro i hi
    rw [BitVec.getLsbD_and, mask i hi]
    cases hv : v.getLsbD i with
    | false => simp
    | true => simp [h i hv]

/-- What STAGE refuses (R141). -/
theorem stageKey_none {key : Nat} {v : Word} {g : Staged} (h1 : key = 1 → 8 ≤ v.toNat ∨ s.cfld t (aNiFrame v.toNat) 63 63 = 0)
    (h2 : key = 2 → ∃ i, v.getLsbD i = true ∧ i ≠ 0 ∧ (i < 8 ∨ 12 ≤ i)) (h4 : key = 4 → 2 ≤ v.toNat) (h0 : key ≠ 0) (h3 : key ≠ 3) :
    stageKey s t key v g = none := by
  match key with
  | 0 => exact absurd rfl h0
  | 1 =>
    refine if_neg ?_
    rw [Bool.and_eq_true, decide_eq_true_eq, decide_eq_true_eq]
    have := h1 rfl
    omega
  | 2 =>
    refine if_neg fun hz => ?_
    obtain ⟨i, hi, hi0, hib⟩ := h2 rfl
    have := (and_genReserved_iff v).1 hz i hi
    omega
  | 3 => exact absurd rfl h3
  | 4 =>
    refine if_neg ?_
    have := h4 rfl
    omega
  | _ + 5 => rfl

theorem exec_heavy_reports (h : s.Runs t 0x3C w) (hd : fRd w = 0) (ha : fRa w = 0) (hi : fImm13 w < 0x1000) :
    exec (.heavy t) s = .next (((s.report t (.heavy (fImm13 w % 256) (fImm13 w / 256))).tileTrace t 8 0x0410
      (fImm13 w % 256 + fImm13 w / 256 * 2 ^ 32)).onCore t Core.advance) := by
  have hl : fImm13 w / 256 % 16 = fImm13 w / 256 := Nat.mod_eq_of_lt (by omega)
  change execHeavy t s = _
  refine instr_runs_ok h (by simp [immOnly, hd, ha, hi]) ?_
  simp only [hl, effNext]

theorem exec_tileIdleEntry (hl : s.Live t) (hp : (s.tile t).power = .active) (hq : (s.tile t).quiet = true) :
    exec (.tileIdleEntry t) s = .next (s.onTile t (fun x => { x with power := .idle })) :=
  (onTile_live hl).trans (when_of (by simp [hp, hq]))

theorem Tile.quiet_of {x : Tile} (hr : x.core.run ≠ .running ∨ x.core.blocked.isSome = true)
    (hq : ∀ q, q < 8 → (x.queue q).entries = [] ∧ (x.queue q).flight = []) (hb : x.backfill = none) : x.quiet = true := by
  have hall : x.queues.toList.all (fun q => q.entries.isEmpty && q.flight.isEmpty) = true := by
    rw [List.all_eq_true]
    intro k hk
    obtain ⟨i, hi, rfl⟩ := List.getElem_of_mem hk
    have h8 : i < 8 := by simpa using hi
    have he := hq i h8
    simp only [Tile.queue, h8, dif_pos] at he
    simp [he]
  simp only [Tile.quiet, hall, hb, Bool.and_true, Option.isNone_none, Bool.or_eq_true, decide_eq_true_eq]
  exact hr

end

/-- Settles O24. -/
theorem quietInstructions : Obligations.QuietInstructions := by
  unfold Obligations.QuietInstructions
  intro s t w c v key staged
  refine ⟨exec_mfence_drains, exec_nop, fun h hd hf => ?_, exec_heavy_reports,
    fun hl hp hr hq hb => exec_tileIdleEntry hl hp (Tile.quiet_of hr hq hb)⟩
  have takes : ∀ k g, key = k → stageKey s t k v c.staged = some g → staged g := fun k g hk hg => by
    subst hk
    exact exec_stage_takes h hd hf hg
  refine ⟨fun hk => takes 0 _ hk rfl, fun hk h8 hv => takes 1 _ hk (if_pos (by simp [h8, hv])),
    fun hk hv => takes 2 _ hk (if_pos ((and_genReserved_iff v).2 hv)), fun hk => takes 3 _ hk rfl,
    fun hk h2 => takes 4 _ hk (if_pos h2), fun h1 h2 h4 h0 h3 => exec_stage_refuses h hd hf (stageKey_none h1 h2 h4 h0 h3)⟩

end Sys2Proof.Machine
end

section
/-!
PROOFS. ISSUE, its wait and RDCC (R129, R130, R132, R193).
-/
namespace Sys2Proof.Machine

theorem Tile.stopBackfill_core (x : Tile) : x.stopBackfill.core = x.core := rfl

theorem fQ_lt (w : Word) : fQ w < 8 := Nat.mod_lt _ (by decide)

section
variable {s : State} (h : s.Canonical) (t : Site) (q : Nat) (d : Desc)
include h

/-- A descriptor enters one queue; the core and memory stay. -/
theorem State.pushCmd_core : (s.pushCmd t q d).1.core t = s.core t := by
  simp only [State.pushCmd]
  split
  · rw [State.core, State.onTile_tile (h.onQueue t q _), Tile.stopBackfill_core]
    exact State.onQueue_core h t q _
  · exact State.onQueue_core h t q _

theorem State.pushCmd_queue (hq : q < 8) (k : Nat) : (s.pushCmd t q d).1.queue t k = if k = q then { s.queue t q with
    icnt := (s.queue t q).icnt + 1
    entries := (s.queue t q).entries ++ [{ desc := d, ticket := (s.queue t q).icnt + 1 }] } else s.queue t k := by
  have hqk : (s.pushCmd t q d).1.queue t k = (s.onQueue t q (fun x => { x with
      icnt := (s.queue t q).icnt + 1
      entries := x.entries ++ [{ desc := d, ticket := (s.queue t q).icnt + 1 }] })).queue t k := by
    simp only [State.pushCmd]
    split
    · rw [State.queue, State.onTile_tile (h.onQueue t q _)]
      rfl
    · rfl
  rw [hqk]
  split
  · next hk => rw [hk, State.onQueue_queue_same h t hq]
  · next hk => rw [State.onQueue_queue_other h t (Ne.symm hk)]

end

theorem State.pushCmd_mem (s : State) (t : Site) (q : Nat) (d : Desc) : (s.pushCmd t q d).1.mem = s.mem := by
  simp only [State.pushCmd]
  split <;> rfl

theorem State.pushCmd_ticket (s : State) (t : Site) (q : Nat) (d : Desc) : (s.pushCmd t q d).2 = (s.queue t q).icnt + 1 := rfl

theorem State.pushCmd_canonical {s : State} (h : s.Canonical) (t : Site) (q : Nat) (d : Desc) : (s.pushCmd t q d).1.Canonical := by
  simp only [State.pushCmd]
  split
  · exact (h.onQueue t q _).onTile t _
  · exact h.onQueue t q _

/-- Room in a queue, as the spec counts it (R68, R193). -/
theorem Queue.room_iff (k : Queue) (d : Desc) : k.room d = true ↔
    k.entries.length + k.flight.length < (if k.halted = true ∧ Desc.field d 17 17 = 0 then 15 else 16) := by
  simp only [Queue.room, Queue.depth, decide_eq_true_eq, Bool.and_eq_true]

/-- What a descriptor's entry into queue q leaves: the core changed by f with the ticket, one entry more, all else as it was. -/
def TakesCmd (s0 s' : State) (t : Site) (q : Nat) (d : Desc) (f : Word → Core → Core) : Prop :=
  s'.core t = f ((s0.queue t q).icnt + 1) (s0.core t) ∧ (s'.queue t q).icnt = (s0.queue t q).icnt + 1 ∧
    (s'.queue t q).entries = (s0.queue t q).entries ++ [{ desc := d, ticket := (s0.queue t q).icnt + 1 }] ∧
    (∀ k, k ≠ q → s'.queue t k = s0.queue t k)

theorem pushCmd_takesCmd {s : State} (h : s.Canonical) (t : Site) {q : Nat} (hq : q < 8) (d : Desc) (f : Word → Core → Core) :
    TakesCmd s ((s.pushCmd t q d).1.onCore t (f (s.pushCmd t q d).2)) t q d f := by
  have hp := State.pushCmd_canonical h t q d
  refine ⟨?_, ?_, ?_, fun k hk => ?_⟩
  · rw [State.onCore_core hp, State.pushCmd_core h]
    rfl
  · rw [State.onCore_queue hp, State.pushCmd_queue h t q d hq, if_pos rfl]
  · rw [State.onCore_queue hp, State.pushCmd_queue h t q d hq, if_pos rfl]
  · rw [State.onCore_queue hp, State.pushCmd_queue h t q d hq, if_neg hk]

/-! ### ISSUE -/

section
variable {s : State} {t : Site} {w : Word} (h : s.Runs t 0x28 w)
  (hl : (decide (fV w = 0) || (decide (fRa w % 4 = 0) && decide (fOff9 w = 0))) = true)
include h hl

theorem exec_issue_takes (hb : (s.core t).stbuf = []) {d : Desc} {m : State} (hd : issueDesc t w s = .inr (d, m))
    (hr : (m.queue t (fQ w)).room d = true) : exec (.issue t) s = .next ((m.pushCmd t (fQ w) d).1.onCore t (fun c =>
      (c.put (fRd w) (m.pushCmd t (fQ w) d).2).advance)) := by
  change execIssue t s = _
  refine instr_runs_ok h hl ?_
  simp only [hb, hd, hr, List.isEmpty_nil, Bool.not_true, Bool.false_eq_true, if_false]
  rfl

theorem exec_issue_blocks (hb : (s.core t).stbuf = []) {d : Desc} {m : State} (hd : issueDesc t w s = .inr (d, m))
    (hr : (m.queue t (fQ w)).room d = false) : exec (.issue t) s = .next (m.onCore t (fun c => { c with
      blocked := some (.issue (fQ w) d (fRd w)), blockedAt := m.cycle })) := by
  change execIssue t s = _
  refine instr_runs_ok h hl ?_
  simp only [hb, hd, hr, List.isEmpty_nil, Bool.not_true, Bool.not_false, Bool.false_eq_true, if_false, if_true]
  rfl

/-- A descriptor that cannot be read traps, once earlier stores let it be read (R145). -/
theorem exec_issue_traps {c : Nat} {v : Word} {m : State} (hd : issueDesc t w s = .inl (.trap c v m))
    (hb : (s.core t).stbuf = [] ∨ c ≠ trStoreUe) : exec (.issue t) s = .next (m.takeTrap t (BitVec.ofNat 32 c) v) := by
  change execIssue t s = _
  refine instr_runs_trap h hl ?_
  cases he : (s.core t).stbuf.isEmpty
  case true => simp only [hd, Bool.not_true, Bool.false_eq_true, if_false]
  case false =>
    have hc : c ≠ trStoreUe := hb.resolve_left fun hn => by simp [hn] at he
    simp only [hd, hc, Bool.not_false, if_true, if_false]

end

section
variable {s : State} {t : Site} {w : Word}

theorem issueDesc_regs (hv : fV w = 1) : issueDesc t w s = .inr (BitVec.ofNat 128 (((s.core t).get (fRa w)).toNat +
    ((s.core t).get (fRa w + 1)).toNat * 2 ^ 32 + ((s.core t).get (fRa w + 2)).toNat * 2 ^ 64 +
    ((s.core t).get (fRa w + 3)).toNat * 2 ^ 96), s) := if_pos hv

/-- The address of a descriptor in the store (R129). -/
def descAddr (s : State) (t : Site) (w : Word) : Word := (s.core t).get (fRa w) + BitVec.ofNat 32 (16 * fOff9 w)

variable (hv : fV w = 0)
include hv

theorem issueDesc_store : issueDesc t w s =
    if (descAddr s t w).toNat % 16 ≠ 0 then .inl (.trap trMisalign (descAddr s t w) s)
    else if s.storeEnd t < (descAddr s t w).toNat + 16 then .inl (.trap trAddr (descAddr s t w) s)
    else if (s.firstUe t (descAddr s t w).toNat 16).isSome then
      .inl (.trap trStoreUe (descAddr s t w) (s.eccRead t (descAddr s t w).toNat 16).1)
    else .inr (BitVec.ofNat 128 (leNat (s.bytes (storeAddr t (descAddr s t w).toNat) 16)),
      (s.eccRead t (descAddr s t w).toNat 16).1) := by
  have h1 : ¬ fV w = 1 := by omega
  simp only [issueDesc, if_neg h1, State.readStore_eq]
  rfl

end

/-- Settles O22. -/
theorem engineCommandsAreIssued : Obligations.EngineCommandsAreIssued := by
  unfold Obligations.EngineCommandsAreIssued
  intro s t w hc c q four a stored depth room takes
  have hroom : ∀ (u : State) (k : Nat) (d : Desc), (u.queue t k).room d = true ↔ room u k d := fun u k d => Queue.room_iff _ _
  have hfull : ∀ (u : State) (k : Nat) (d : Desc), (u.queue t k).room d = false ↔ ¬ room u k d := fun u k d => by
    rw [← hroom, Bool.not_eq_true]
  have hq : q < 8 := fQ_lt w
  have taken : ∀ (u : State) (i : Instr) (k : Nat) (d : Desc) (f : Word → Core → Core), u.Canonical → k < 8 → u.mem = s.mem →
      exec i s = .next ((u.pushCmd t k d).1.onCore t (f (u.pushCmd t k d).2)) → takes u i k d f := fun u i k d f hu hk hm he => by
    obtain ⟨h1, h2, h3, h4⟩ := pushCmd_takesCmd hu t hk d f
    exact ⟨_, he, h1, h2, h3, h4, SameMemory.of_mem ((State.pushCmd_mem u t k d).trans hm)⟩
  refine ⟨fun h hv ha ho hb => ⟨fun hr => ?_, fun hr => ?_⟩, fun h hv => ⟨fun hm => ?_, fun hm ho => ?_, fun hm hi hb => ?_⟩,
    fun k d rd hk hl hb hr => ?_, fun h ha ho => ?_⟩
  · have hl : (decide (fV w = 0) || (decide (fRa w % 4 = 0) && decide (fOff9 w = 0))) = true := by simp [ha, ho]
    exact taken s _ q four (fun tk c => (c.put (fRd w) tk).advance) hc hq rfl
      (exec_issue_takes h hl hb (issueDesc_regs hv) ((hroom s q four).2 hr))
  · have hl : (decide (fV w = 0) || (decide (fRa w % 4 = 0) && decide (fOff9 w = 0))) = true := by simp [ha, ho]
    exact exec_issue_blocks h hl hb (issueDesc_regs hv) ((hfull s q four).2 hr)
  · rw [exec_issue_traps (c := trMisalign) h (by simp [hv]) ((issueDesc_store hv).trans (if_pos hm)) (.inr (by decide))]
    rfl
  · rw [exec_issue_traps (c := trAddr) h (by simp [hv]) ((issueDesc_store hv).trans ((if_neg (fun hn => hn hm)).trans (if_pos ho)))
      (.inr (by decide))]
    rfl
  · have hl : (decide (fV w = 0) || (decide (fRa w % 4 = 0) && decide (fOff9 w = 0))) = true := by simp [hv]
    have hd := (issueDesc_store (s := s) (t := t) hv).trans ((if_neg (fun hn => hn hm)).trans (if_neg (Nat.not_lt.2 hi)))
    have hs : BitVec.ofNat 128 (leNat (s.bytes (storeAddr t (descAddr s t w).toNat) 16)) = stored := by
      simp only [State.bytes, ← storeAddr_add]
      rfl
    intro m
    have hread : s.firstUe t a.toNat 16 = none → issueDesc t w s = .inr (stored, m) := fun hu => by
      have hn : ¬ (s.firstUe t (descAddr s t w).toNat 16).isSome = true := by
        rw [show s.firstUe t (descAddr s t w).toNat 16 = none from hu]
        decide
      rw [hd, if_neg hn, hs]
      rfl
    refine ⟨fun hu => exec_issue_traps (c := trStoreUe) h hl (hd.trans (if_pos hu)) (.inl hb), fun hu hr => ?_, fun hu hr => ?_⟩
    · exact taken m _ q stored (fun tk c => (c.put (fRd w) tk).advance) (State.eccRead_canonical hc t _ _) hq
        (State.eccRead_mem s t _ _) (exec_issue_takes h hl hb (hread hu) ((hroom m q stored).2 hr))
    · exact exec_issue_blocks h hl hb (hread hu) ((hfull m q stored).2 hr)
  · refine taken s _ k d (fun tk c => ({ c with blocked := none }.put rd tk).advance) hc hk rfl ?_
    refine (onTile_live hl).trans ?_
    rw [show (s.core t).blocked = some (.issue k d rd) from hb]
    exact when_of ((hroom s k d).2 hr)
  · change execRdcc t s = _
    exact instr_runs_effReg h (by simp [ha, ho]) rfl

end Sys2Proof.Machine
end

section
/-!
PROOFS. What telling leaves alone: a record that a steward produces changes its rings and their counters (R480 to R490), one that a
tile produces changes the three telemetry entries of its NI (R483).
-/
namespace Sys2Proof.Machine

/-! ### Records of the stewards -/

/-- The registers that count and flag telemetry. -/
def toldRegs : List Nat := [rTelemDrop, rTelemStat]

/-- s' is s after records that stewards have produced. -/
structure Told (s s' : State) : Prop where
  rest  : s' = { s with sreg := s'.sreg, telem := s'.telem }
  reg   : ∀ a, a ∉ toldRegs → s'.reg a = s.reg a
  canon : s.Canonical → s'.Canonical

section
variable {s s' s'' : State}

theorem Told.refl (s : State) : Told s s := ⟨rfl, fun _ _ => rfl, id⟩

theorem Told.trans (h : Told s s') (k : Told s' s'') : Told s s'' where
  rest := by rw [k.rest, h.rest]
  reg := fun a ha => (k.reg a ha).trans (h.reg a ha)
  canon := fun hc => k.canon (h.canon hc)

theorem Told.fld (h : Told s s') {a : Nat} (ha : a ∉ toldRegs) (hi lo : Nat) : s'.fld a hi lo = s.fld a hi lo := by
  rw [State.fld, h.reg a ha, State.fld]
theorem Told.mem (h : Told s s') : s'.mem = s.mem := by rw [h.rest]
theorem Told.tiles (h : Told s s') : s'.tiles = s.tiles := by rw [h.rest]
theorem Told.tile (h : Told s s') (t : Site) : s'.tile t = s.tile t := by rw [State.tile, h.tiles, State.tile]
theorem Told.core (h : Told s s') (t : Site) : s'.core t = s.core t := by rw [State.core, h.tile, State.core]
theorem Told.ni (h : Told s s') (t : Site) : s'.ni t = s.ni t := by rw [State.ni, h.tile, State.ni]
theorem Told.cycle (h : Told s s') : s'.cycle = s.cycle := by rw [h.rest]
theorem Told.flash (h : Told s s') : s'.flash = s.flash := by rw [h.rest]
theorem Told.out (h : Told s s') : s'.out = s.out := by rw [h.rest]

theorem told_setFld {a : Nat} (ha : a ∈ toldRegs) (hi lo v : Nat) : Told s (s.setFld a hi lo v) :=
  ⟨rfl, fun b hb => State.setReg_reg_other (by rintro rfl; exact hb ha) _, fun h => h.setFld a hi lo v⟩

theorem told_bump {a : Nat} (ha : a ∈ toldRegs) (hi lo v : Nat) : Told s (s.bump a hi lo v) := told_setFld ha _ _ _

theorem told_onTelem (f : Telem → Telem) : Told s (s.onTelem f) := ⟨rfl, fun _ _ => rfl, fun h => { h with }⟩

theorem rTelemDrop_told : rTelemDrop ∈ toldRegs := List.mem_cons_self
theorem rTelemStat_told : rTelemStat ∈ toldRegs := List.mem_cons_of_mem _ List.mem_cons_self

theorem told_eventIn (s : State) (r : TRec) : Told s (s.eventIn r) := by
  unfold State.eventIn
  split
  · have h := told_bump (s := s) rTelemDrop_told 31 0 1
    dsimp only
    split
    · exact h.trans (told_onTelem _)
    · exact h.trans (told_onTelem _)
  · dsimp only
    split
    · exact (told_onTelem _).trans (told_setFld rTelemStat_told _ _ _)
    · exact told_onTelem _

theorem told_traceIn (s : State) (r : TRec) (b : Bool) : Told s (s.traceIn r b) := by
  unfold State.traceIn
  split
  · exact told_bump rTelemDrop_told _ _ _
  · exact told_onTelem _

theorem told_alarm (s : State) (code : Nat) (source : Word) (arg : Nat) : Told s (s.alarm code source arg) := told_onTelem _

theorem told_event (s : State) (code : Nat) (source : Word) (arg : Nat) : Told s (s.event code source arg) := by
  unfold State.event
  split
  · exact told_eventIn s _
  · exact .refl s

theorem told_trace (s : State) (bit code : Nat) (source : Word) (arg : Nat) : Told s (s.trace bit code source arg) := by
  unfold State.trace
  split
  · exact told_traceIn s _ _
  · exact .refl s

end

/-! ### Records of a tile -/

/-- s' is s after records that tile t has produced: the telemetry entries of its NI alone may differ. -/
structure TileTold (t : Site) (s s' : State) : Prop where
  rest  : s' = { s with tiles := s'.tiles }
  tile  : s.Canonical → s'.tile t = { s.tile t with ni := { s.ni t with
    tele := (s'.ni t).tele, teleAlarm := (s'.ni t).teleAlarm, teleLost := (s'.ni t).teleLost } }
  other : ∀ u : Site, u.key ≠ t.key → s'.tile u = s.tile u
  canon : s.Canonical → s'.Canonical

section
variable {t : Site} {s s' s'' : State}

theorem TileTold.refl (t : Site) (s : State) : TileTold t s s := ⟨rfl, fun _ => rfl, fun _ _ => rfl, id⟩

theorem TileTold.ni (h : TileTold t s s') (hc : s.Canonical) : s'.ni t = { s.ni t with
    tele := (s'.ni t).tele, teleAlarm := (s'.ni t).teleAlarm, teleLost := (s'.ni t).teleLost } :=
  congrArg Tile.ni (h.tile hc)

theorem TileTold.trans (h : TileTold t s s') (k : TileTold t s' s'') : TileTold t s s'' where
  rest := by rw [k.rest, h.rest]
  tile := fun hc => by rw [k.tile (h.canon hc), h.ni hc, h.tile hc]
  other := fun u hu => (k.other u hu).trans (h.other u hu)
  canon := fun hc => k.canon (h.canon hc)

theorem TileTold.mem (h : TileTold t s s') : s'.mem = s.mem := by rw [h.rest]
theorem TileTold.sreg (h : TileTold t s s') : s'.sreg = s.sreg := by rw [h.rest]
theorem TileTold.core (h : TileTold t s s') (hc : s.Canonical) : s'.core t = s.core t := by
  rw [State.core, h.tile hc]; rfl
theorem TileTold.queue (h : TileTold t s s') (hc : s.Canonical) (q : Nat) : s'.queue t q = s.queue t q := by
  rw [State.queue, h.tile hc]; rfl
theorem TileTold.creg (h : TileTold t s s') (hc : s.Canonical) (a : Nat) : s'.creg t a = s.creg t a := by
  rw [State.creg, h.tile hc]; rfl

theorem tileTold_onNi {f : Ni → Ni} (hf : f (s.ni t) = { s.ni t with
    tele := (f (s.ni t)).tele, teleAlarm := (f (s.ni t)).teleAlarm, teleLost := (f (s.ni t)).teleLost }) : TileTold t s (s.onNi t f) :=
  ⟨rfl, fun hc => by rw [State.onNi_ni hc, State.onNi_tile hc, ← hf], fun _ hu => State.onTile_tile_other hu _, fun hc => hc.onNi t f⟩

theorem niEvent_eq (n : Ni) (r : TRec) : niEvent n r = { n with
    tele := (niEvent n r).tele, teleAlarm := (niEvent n r).teleAlarm, teleLost := (niEvent n r).teleLost } := by
  unfold niEvent
  split
  · rfl
  · split <;> rfl

theorem niTrace_eq (n : Ni) (r : TRec) : niTrace n r = { n with
    tele := (niTrace n r).tele, teleAlarm := (niTrace n r).teleAlarm, teleLost := (niTrace n r).teleLost } := by
  unfold niTrace
  split <;> rfl

theorem tileTold_tileEvent (s : State) (t : Site) (code arg : Nat) : TileTold t s (s.tileEvent t code arg) := by
  unfold State.tileEvent
  split
  · exact tileTold_onNi (niEvent_eq _ _)
  · exact .refl t s

theorem tileTold_tileTrace (s : State) (t : Site) (bit code arg : Nat) : TileTold t s (s.tileTrace t bit code arg) := by
  unfold State.tileTrace
  split
  · exact tileTold_onNi (niTrace_eq _ _)
  · exact .refl t s

theorem tileTold_tileAlarm (s : State) (t : Site) (code arg : Nat) : TileTold t s (s.tileAlarm t code arg) :=
  tileTold_onNi rfl

end

end Sys2Proof.Machine
end

section
/-!
PROOFS. The store's upkeep: scrub, sparing notices, generation tags and the split mode (R48, R49, R54, R61, R66).
-/
namespace Sys2Proof.Machine

/-- Dropping keys: a key that stays reads as before, one that goes reads the default. -/
theorem mapGet_filter_key {α : Type} (d : Nat → α) (q : Nat → Bool) (m : List (Nat × α)) (k : Nat) :
    mapGet d (m.filter (fun e => q e.1)) k = if q k then mapGet d m k else d k := by
  induction m with
  | nil => simp [mapGet]
  | cons e m ih =>
    obtain ⟨j, v⟩ := e
    by_cases hq : q j = true
    · rw [List.filter_cons_of_pos (by exact hq)]
      by_cases hk : k = j
      · simp [mapGet, hk, hq]
      · simp [mapGet, hk, ih]
    · rw [List.filter_cons_of_neg (by exact hq), ih]
      by_cases hk : k = j
      · simp [hk, hq]
      · simp [mapGet, hk]

/-- What every queue of a tile satisfies. -/
theorem Tile.queues_all {x : Tile} {p : Queue → Bool} (h : ∀ q, q < 8 → p (x.queue q) = true) : x.queues.toList.all p = true := by
  rw [List.all_eq_true]
  intro k hk
  obtain ⟨i, hi, rfl⟩ := List.getElem_of_mem hk
  have h8 : i < 8 := by simpa using hi
  have he := h i h8
  simp only [Tile.queue, h8, dif_pos] at he
  simpa using he

theorem Tile.enginesIdle_of {x : Tile} (h : ∀ q, q < 8 → (x.queue q).flight = []) : x.enginesIdle = true :=
  Tile.queues_all fun q hq => by simp [h q hq]

section
variable {s : State} {t : Site}

/-! ### Reads and the scrub (R48, R49) -/

theorem State.firstUe_none_iff (s : State) (t : Site) (off n : Nat) :
    s.firstUe t off n = none ↔ (s.eccRead t off n).2 = false := by
  rw [State.eccRead_ue]
  cases s.firstUe t off n <;> simp

/-- A read of words that hold no error changes nothing. -/
theorem State.eccRead_clean {off n : Nat}
    (h : ∀ x ∈ wordsOf off n, x ∉ (s.tile t).info.poison ∧ ∀ e ∈ (s.tile t).info.upsets, e.1 ≠ x) : s.eccRead t off n = (s, false) := by
  have hp : (s.tile t).info.poison.filter (fun w => decide (off / 8 ≤ w) && decide (w < (off + n + 7) / 8)) = [] := by
    rw [List.filter_eq_nil_iff]
    intro w hw hin
    rw [Bool.and_eq_true, decide_eq_true_eq, decide_eq_true_eq] at hin
    exact (h w (mem_wordsOf.2 hin)).1 hw
  have hu : (s.tile t).info.upsets.filter (fun e => decide (off / 8 ≤ e.1) && decide (e.1 < (off + n + 7) / 8) &&
      !(s.tile t).info.poison.contains e.1) = [] := by
    rw [List.filter_eq_nil_iff]
    intro e he hin
    simp only [Bool.and_eq_true, decide_eq_true_eq] at hin
    exact (h e.1 (mem_wordsOf.2 hin.1)).2 e he rfl
  simp only [State.eccRead, hp, hu, List.foldl_nil, List.isEmpty_nil, List.any_nil]
  rfl

theorem Upkeep.scrub {s' : State} (h : Upkeep t s s') : (s'.tile t).info.scrub = (s.tile t).info.scrub := by rw [h.tile]

/-- The scrub pointer of a bank after physical row prow. -/
def scrubPast (bank prow : Nat) (m : Meta) : Meta := { m with scrub := mapSet (fun _ => 0) m.scrub bank ((prow + 1) % 528) }

/-- The end of a scrub, once the pointer has moved on: the row is read, where it is in use. -/
theorem scrub_ends {v : State} (hv : Upkeep t s v) (bank prow : Nat) (o : Option Nat) (off : Nat → Nat) :
    ∃ s', (match o with
      | none => Host.Outcome.next (φ := Fault) (ρ := Refusal) (v.onInfo t (scrubPast bank prow))
      | some r => .next ((v.onInfo t (scrubPast bank prow)).eccRead t (off r) 64).1) = .next s' ∧ SameMemory s s' ∧
      (s'.tile t).info.scrub = mapSet (fun _ => 0) (s.tile t).info.scrub bank ((prow + 1) % 528) := by
  have hi := State.onInfo_canonical hv.canon t (scrubPast bank prow)
  have pointed : ∀ w, Upkeep t (v.onInfo t (scrubPast bank prow)) w → SameMemory s w ∧
      (w.tile t).info.scrub = mapSet (fun _ => 0) (s.tile t).info.scrub bank ((prow + 1) % 528) := by
    intro w hw
    refine ⟨SameMemory.of_mem (hw.mem.trans hv.mem), ?_⟩
    rw [hw.scrub, State.onInfo_tile hv.canon, ← hv.scrub]
    rfl
  cases o with
  | none => exact ⟨_, rfl, pointed _ (.refl hi)⟩
  | some r => exact ⟨_, rfl, pointed _ (upkeep_eccRead hi _ _)⟩

/-- A scrub moves the pointer of its bank on, changes no byte, and meets the row it reads. -/
theorem exec_storeScrub (hc : s.Canonical) (hl : s.Live t) {bank : Nat} (hb : bank < 12) (u : Option Upset) :
    ∃ s', exec (.storeScrub t bank u) s = .next s' ∧ SameMemory s s' ∧ (s'.tile t).info.scrub =
      mapSet (fun _ => 0) (s.tile t).info.scrub bank ((mapGet (fun _ => 0) (s.tile t).info.scrub bank + 1) % 528) := by
  have hx : exec (.storeScrub t bank u) s = onUnit (decide (bank < 12)) _ := onTile_live hl
  rw [hx, onUnit_of (decide_eq_true hb)]
  refine scrub_ends ?_ _ _ _ _
  split
  · exact .refl hc
  · split
    · exact .refl hc
    · exact upkeep_onInfo hc rfl

/-! ### Sparing notices (R54) -/

/-- A notice that names a spare enters the repair map, and flash unless a shutdown has begun. -/
theorem State.takeNotice_sparing (s : State) (t : Site) (bank row spare : Nat) :
    (s.takeNotice t (.sparing bank row spare)).repair =
        { s.repair with rows := s.repair.rows ++ [(t.key, bank, row, spare)] } ∧
      (s.takeNotice t (.sparing bank row spare)).flashRepair = if s.shutDown then s.flashRepair else
        { s.flashRepair with rows := s.flashRepair.rows ++ [(t.key, bank, row, spare)] } := by
  have told : ∀ u : State, Told { u with freeCtr := u.freeCtr + 1 } (u.repairEvent (s.source t)) := fun u => told_event _ _ _ _
  have h := (told (s.note (fun r => { r with rows := r.rows ++ [(t.key, bank, row, spare)] }))).rest
  have he : s.takeNotice t (.sparing bank row spare) =
    (s.note (fun r => { r with rows := r.rows ++ [(t.key, bank, row, spare)] })).repairEvent (s.source t) := rfl
  rw [he, h]
  exact ⟨rfl, rfl⟩

theorem exec_sparingNotice {e : Site × SvcNote} {rest : List (Site × SvcNote)} (h : Picks (fun e => isSparing e.2) s.svc e rest) :
    exec .sparingNotice s = .next ({ s with svc := rest }.takeNotice e.1 e.2) :=
  whenSome_of (takeFirst_picks h)

/-! ### Generation tags (R66) -/

theorem exec_tcGenCfgWrite (hl : s.Live t) (v : Dword) : exec (.tcGenCfgWrite t v) s = .next (s.writeGenCfg t v) := onTile_live hl

theorem Dword.field_bit (v : Dword) (i : Nat) : Dword.field v i i = (v.getLsbD i).toNat := by
  rw [Dword.field, Nat.add_sub_cancel_left, Nat.pow_one, Nat.shiftRight_eq_div_pow, ← Nat.toNat_testBit]
  rfl

theorem State.writeGenCfg_on {v : Dword} (hv : v.getLsbD 0 = true) (hg : s.genOn t = false) : s.writeGenCfg t v =
    ((s.setCreg t aGenCfg (v &&& 0xF01)).setCfld t aGenStat 63 32 0).onInfo t (fun m => { m with gens := [], clearing := true }) := by
  simp [State.writeGenCfg, Dword.field_bit, hv, hg]

theorem State.writeGenCfg_stays {v : Dword} (hv : v.getLsbD 0 = true) (hg : s.genOn t = true) :
    s.writeGenCfg t v = s.setCreg t aGenCfg (v &&& 0xF01) := by
  have h1 : Dword.field v 0 0 = 1 := by rw [Dword.field_bit, hv]; rfl
  simp [State.writeGenCfg, h1, hg]

theorem State.writeGenCfg_off {v : Dword} (hv : v.getLsbD 0 = false) :
    s.writeGenCfg t v = (s.setCreg t aGenCfg (v &&& 0xF01)).onInfo t (fun m => { m with clearing := false }) := by
  simp only [State.writeGenCfg, Dword.field_bit, hv]
  rfl

theorem exec_genTagClearEnd (hl : s.Live t) (h : (s.tile t).info.clearing = true) :
    exec (.genTagClearEnd t) s = .next (s.onInfo t (fun m => { m with clearing := false })) :=
  (onTile_live hl).trans (when_of h)

/-! ### The split mode (R61) -/

/-- Banks 8 to 11 read zero; every other byte stays. -/
theorem State.zeroCacheBanks_byte (s : State) (t : Site) (a : Nat) : (s.zeroCacheBanks t).byte a =
    if storeAddr t 0x40000 ≤ a ∧ a < storeAddr t 0x40000 + 0x20000 then 0 else s.byte a := by
  have h : (s.zeroCacheBanks t).byte a = mapGet memDefault (s.mem.filter (fun e =>
    !(decide (storeAddr t 0x40000 ≤ e.1) && decide (e.1 < storeAddr t 0x40000 + 0x20000)))) a := rfl
  rw [h, mapGet_filter_key memDefault (fun k => !(decide (storeAddr t 0x40000 ≤ k) && decide (k < storeAddr t 0x40000 + 0x20000)))]
  by_cases hin : storeAddr t 0x40000 ≤ a ∧ a < storeAddr t 0x40000 + 0x20000
  · simp [hin, memDefault]
  · rw [if_neg hin, if_pos]
    · rfl
    · simpa only [Bool.not_eq_true', Bool.and_eq_false_imp, decide_eq_true_eq, decide_eq_false_iff_not, not_and] using hin

/-- The state in which the split mode has been switched: the cache's lines are in loam, its banks zero. -/
def State.splitSwitched (s : State) (t : Site) (split : Bool) : State :=
  (((if s.isSplit t then s.flushCache t else s).zeroCacheBanks t).setCfld t aStoreCfg 0 0 (if split then 1 else 0)).onTile t
    (fun x => { x with splitTo := none })

theorem exec_storeSplitSwitch (hl : s.Live t) {split : Bool} (hs : (s.tile t).splitTo = some split) (hb : s.cfld t aStoreCfg 1 1 = 1)
    (hq : ∀ q, q < 8 → (s.queue t q).flight = []) : exec (.storeSplitSwitch t) s = .next (s.splitSwitched t split) := by
  refine (onTile_live hl).trans ?_
  have hi : (s.tile t).enginesIdle = true := Tile.enginesIdle_of hq
  simp only [hs]
  exact when_of (by simp [hi, hb])

theorem State.splitSwitched_byte (s : State) (t : Site) (split : Bool) (a : Nat) : (s.splitSwitched t split).byte a =
    if storeAddr t 0x40000 ≤ a ∧ a < storeAddr t 0x40000 + 0x20000 then 0
    else (if s.isSplit t then s.flushCache t else s).byte a := by
  rw [State.splitSwitched, State.onTile_byte, State.setCfld_byte, State.zeroCacheBanks_byte]

theorem State.splitSwitched_splitTo (hc : s.Canonical) (split : Bool) : ((s.splitSwitched t split).tile t).splitTo = none := by
  have h1 : (if s.isSplit t then s.flushCache t else s).Canonical := by
    split
    · exact (State.flushCache_keeps hc.keeps).canon
    · exact hc
  have h2 : ((if s.isSplit t then s.flushCache t else s).zeroCacheBanks t).Canonical := (State.zeroCacheBanks_keeps h1.keeps).canon
  rw [State.splitSwitched, State.onTile_tile (h2.setCfld t _ _ _ _)]

theorem exec_splitSwitchEnd (hl : s.Live t) (hb : s.cfld t aStoreCfg 1 1 = 1) (hs : (s.tile t).splitTo = none) :
    exec (.splitSwitchEnd t) s = .next (s.setCfld t aStoreCfg 1 1 0) :=
  (onTile_live hl).trans (when_of (by simp [hb, hs]))

end

/-- Settles O25. -/
theorem storeUpkeep : Obligations.StoreUpkeep := by
  unfold Obligations.StoreUpkeep
  intro s t hc hl
  refine ⟨fun off n => ⟨s.firstUe_none_iff t off n, SameMemory.of_mem (State.eccRead_mem s t off n), State.eccRead_clean⟩,
    fun bank u hb => exec_storeScrub hc hl hb u, fun e rest h => ⟨_, exec_sparingNotice h, fun bank row spare he => ?_⟩,
    fun v => ?_, exec_genTagClearEnd hl, fun split hs hb hq => ⟨_, exec_storeSplitSwitch hl hs hb hq, State.splitSwitched_splitTo hc split,
      fun k hk => ?_, fun hn a ha => ?_⟩, exec_splitSwitchEnd hl⟩
  · rw [he]
    exact State.takeNotice_sparing _ _ _ _ _
  · intro cfg
    refine ⟨fun hv hg => ?_, fun hv hg => ?_, fun hv => ?_⟩ <;> rw [exec_tcGenCfgWrite hl]
    · rw [State.writeGenCfg_on hv hg]
    · rw [State.writeGenCfg_stays hv hg]
    · rw [State.writeGenCfg_off hv]
  · rw [State.splitSwitched_byte, if_pos (by omega)]
  · rw [State.splitSwitched_byte, if_neg (by omega), hn]
    rfl

end Sys2Proof.Machine
end

section
/-!
PROOFS. The end of an engine command and the control descriptors (R190, R192, R194, R214).
-/
namespace Sys2Proof.Machine

/-! ### A command counts as complete -/

section
variable {s : State} (h : s.Canonical) (t : Site) (q fl : Nat)

theorem State.wfeWake_mem (s : State) (t : Site) : (s.wfeWake t).mem = s.mem := by
  unfold State.wfeWake
  split <;> rfl

theorem State.countDone_mem (s : State) (t : Site) (q fl : Nat) : (s.countDone t q fl).mem = s.mem := by
  simp only [State.countDone, State.wfeWake_mem, (tileTold_tileTrace _ _ _ _ _).mem, State.onQueue_mem]

include h

theorem State.wfeWake_canonical : (s.wfeWake t).Canonical := by
  unfold State.wfeWake
  split
  · exact h.onCore t _
  · exact h

theorem State.wfeWake_queue (r : Nat) : (s.wfeWake t).queue t r = s.queue t r := by
  unfold State.wfeWake
  split
  · exact State.onCore_queue h t r _
  · rfl

theorem State.wfeWake_pendQ : ((s.wfeWake t).core t).pendQ = (s.core t).pendQ := by
  unfold State.wfeWake
  split
  · rw [State.retire, State.onCore_core h]; rfl
  · rfl

theorem State.countDone_canonical : (s.countDone t q fl).Canonical :=
  State.wfeWake_canonical ((tileTold_tileTrace _ t _ _ _).canon (h.onQueue t q _)) t

/-- Of all queues, the one that counts a command changes, and in three registers alone. -/
theorem State.countDone_queue_same (hq : q < 8) : (s.countDone t q fl).queue t q = { s.queue t q with
    ccnt := (s.queue t q).ccnt + 1
    hist := (s.queue t q).hist.set (((s.queue t q).ccnt + 1).toNat % 16) (BitVec.ofNat 8 fl) (Nat.mod_lt _ (by decide))
    sticky := if fl = 0 then (s.queue t q).sticky
      else Dword.setField (Dword.setField (s.queue t q).sticky 63 32 ((s.queue t q).ccnt + 1).toNat) 7 0
        (Dword.field (s.queue t q).sticky 7 0 ||| fl) } := by
  have hc := h.onQueue t q (fun k => { k with
    ccnt := (s.queue t q).ccnt + 1
    hist := k.hist.set (((s.queue t q).ccnt + 1).toNat % 16) (BitVec.ofNat 8 fl) (Nat.mod_lt _ (by decide))
    sticky := if fl = 0 then k.sticky
      else Dword.setField (Dword.setField k.sticky 63 32 ((s.queue t q).ccnt + 1).toNat) 7 0 (Dword.field k.sticky 7 0 ||| fl) })
  rw [State.countDone, State.wfeWake_queue ((tileTold_tileTrace _ t _ _ _).canon hc), (tileTold_tileTrace _ t _ _ _).queue hc,
    State.onQueue_queue_same h t hq]

theorem State.countDone_queue_other {r : Nat} (hr : r ≠ q) : (s.countDone t q fl).queue t r = s.queue t r := by
  rw [State.countDone, State.wfeWake_queue ((tileTold_tileTrace _ t _ _ _).canon (h.onQueue t q _)),
    (tileTold_tileTrace _ t _ _ _).queue (h.onQueue t q _), State.onQueue_queue_other h t (Ne.symm hr)]

end

/-! ### Completion (O45) -/

section
variable {s : State} (t : Site)

theorem State.startBackfill_mem (s : State) (t : Site) : (s.startBackfill t).mem = s.mem := by
  unfold State.startBackfill
  split
  · split
    · split <;> rfl
    · rfl
  · rfl

theorem State.startBackfill_canonical (h : s.Canonical) : (s.startBackfill t).Canonical := by
  unfold State.startBackfill
  split
  · split
    · split
      · exact (State.freeCtr_canonical h _).onTile t _
      · exact h.onTile t _
    · exact h
  · exact h

theorem State.startBackfill_queue (h : s.Canonical) (q : Nat) : (s.startBackfill t).queue t q = s.queue t q := by
  unfold State.startBackfill
  split
  · split
    · split
      · exact (congrArg (Tile.queue · q) (State.onTile_tile (State.freeCtr_canonical h _) t _)).trans rfl
      · exact (congrArg (Tile.queue · q) (State.onTile_tile h t _)).trans rfl
    · rfl
  · rfl

end

/-- What completion does besides the count: the tensor engine's backfill, and the report of dropped groups. -/
def State.afterDone (s : State) (t : Site) (q : Nat) (f : InFlight) : State :=
  let s := if q = 0 then s.startBackfill t else s
  if f.groups = 0 then s else s.report t (.sparse q f.entry.ticket f.groups f.vals)

theorem State.afterDone_mem (s : State) (t : Site) (q : Nat) (f : InFlight) : (s.afterDone t q f).mem = s.mem := by
  have hb : (if q = 0 then s.startBackfill t else s).mem = s.mem := by
    split
    · exact State.startBackfill_mem s t
    · exact rfl
  simp only [State.afterDone]
  split <;> exact hb

theorem State.afterDone_queue {s : State} (h : s.Canonical) (t : Site) (q : Nat) (f : InFlight) (r : Nat) :
    (s.afterDone t q f).queue t r = s.queue t r := by
  have hb : (if q = 0 then s.startBackfill t else s).queue t r = s.queue t r := by
    split
    · exact State.startBackfill_queue t h r
    · exact rfl
  simp only [State.afterDone]
  split <;> exact hb

theorem exec_complete {s : State} {t : Site} {q : Nat} {f : InFlight} (hl : s.Live t) (hq : q < 8) (hf : s.flightOf t q = some f)
    (hd : f.done = true) (hn : f.fault = none) : exec (.engineCommandComplete t q) s = .next
      (((s.onQueue t q (fun k => { k with flight := k.flight.drop 1 })).countDone t q f.flags.toNat).afterDone t q f) := by
  refine (onTile_live hl).trans ((onUnit_of (decide_eq_true hq)).trans ?_)
  simp only [hf]
  exact when_of (by rw [hd, hn]; rfl)

/-- The queue after its front command has counted as complete. -/
def Queue.completed (k : Queue) (fl : Byte) : Queue :=
  let n := k.ccnt + 1
  { k with
    flight := k.flight.drop 1
    ccnt := n
    hist := k.hist.set (n.toNat % 16) fl (Nat.mod_lt _ (by decide))
    sticky := if fl.toNat = 0 then k.sticky
      else Dword.setField (Dword.setField k.sticky 63 32 n.toNat) 7 0 (Dword.field k.sticky 7 0 ||| fl.toNat) }

theorem complete_queue_same {s : State} (h : s.Canonical) (t : Site) {q : Nat} (hq : q < 8) (f : InFlight) :
    (((s.onQueue t q (fun k => { k with flight := k.flight.drop 1 })).countDone t q f.flags.toNat).afterDone t q f).queue t q =
      (s.queue t q).completed f.flags := by
  have h1 := h.onQueue t q (fun k => { k with flight := k.flight.drop 1 })
  rw [State.afterDone_queue (State.countDone_canonical h1 t q _), State.countDone_queue_same h1 t q _ hq,
    State.onQueue_queue_same h t hq, BitVec.ofNat_toNat, BitVec.setWidth_eq]
  rfl

theorem complete_queue_other {s : State} (h : s.Canonical) (t : Site) {q r : Nat} (hr : r ≠ q) (f : InFlight) :
    (((s.onQueue t q (fun k => { k with flight := k.flight.drop 1 })).countDone t q f.flags.toNat).afterDone t q f).queue t r =
      s.queue t r := by
  have h1 := h.onQueue t q (fun k => { k with flight := k.flight.drop 1 })
  rw [State.afterDone_queue (State.countDone_canonical h1 t q _), State.countDone_queue_other h1 t q _ hr,
    State.onQueue_queue_other h t (Ne.symm hr)]

/-- The sticky flags collect the flag byte of every command, with the ticket of the last that raised one. -/
theorem Queue.completed_sticky (k : Queue) (fl : Byte) :
    (fl = 0 → (k.completed fl).sticky = k.sticky) ∧ (fl ≠ 0 → Dword.field (k.completed fl).sticky 63 32 = (k.ccnt + 1).toNat ∧
      Dword.field (k.completed fl).sticky 7 0 = Dword.field k.sticky 7 0 ||| fl.toNat) := by
  refine ⟨fun h0 => by rw [Queue.completed, h0]; rfl, fun h0 => ?_⟩
  have hz : fl.toNat ≠ 0 := fun hz => h0 (BitVec.eq_of_toNat_eq hz)
  have hst : (k.completed fl).sticky = Dword.setField (Dword.setField k.sticky 63 32 (k.ccnt + 1).toNat) 7 0
      (Dword.field k.sticky 7 0 ||| fl.toNat) := if_neg hz
  have hlow : Dword.field k.sticky 7 0 ||| fl.toNat < 2 ^ 8 := Nat.or_lt_two_pow (Nat.mod_lt _ (by decide)) fl.isLt
  rw [hst]
  constructor
  · rw [Dword.field_setField_other _ _ (by decide) (by decide), Dword.field_setField_same _ _ (by decide) (by decide)]
    exact Nat.mod_eq_of_lt (k.ccnt + 1).isLt
  · rw [Dword.field_setField_same _ _ (by decide) (by decide)]
    exact Nat.mod_eq_of_lt hlow

/-! ### Faults (O45) -/

/-- The queue after the fault of its front command has taken effect. -/
def Queue.faulted (k : Queue) (f : InFlight) (d : Detected) : Queue := { k with
  entries := (k.flight.drop 1).map (fun x => x.entry) ++ k.entries
  flight := []
  halted := true
  fdesc := f.entry.desc
  fault := BitVec.ofNat 64 (2 ^ 63 + d.cause * 2 ^ 48 + dTag f.entry.desc * 2 ^ 40 + f.flags.toNat * 2 ^ 32 + f.entry.ticket.toNat)
  detail := BitVec.ofNat 64 (f.progress % 2 ^ 32 * 2 ^ 32 + d.opnd * 2 ^ 28 + d.addr % 2 ^ 27) }

theorem Queue.faulted_fault (k : Queue) (f : InFlight) {d : Detected} (hc : d.cause < 2 ^ 8) :
    let w := (k.faulted f d).fault
    Dword.field w 63 63 = 1 ∧ Dword.field w 55 48 = d.cause ∧ Dword.field w 47 40 = Desc.field f.entry.desc 27 20 ∧
      Dword.field w 39 32 = f.flags.toNat ∧ Dword.field w 31 0 = f.entry.ticket.toNat := by
  have htag : Desc.field f.entry.desc 27 20 < 2 ^ 8 := Nat.mod_lt _ (by decide)
  have hfl : f.flags.toNat < 2 ^ 8 := f.flags.isLt
  have htk : f.entry.ticket.toNat < 2 ^ 32 := f.entry.ticket.isLt
  simp only [Queue.faulted, Dword.field, BitVec.toNat_ofNat, Nat.shiftRight_eq_div_pow, dTag]
  generalize Desc.field f.entry.desc 27 20 = tag at htag
  omega

theorem Queue.faulted_detail (k : Queue) (f : InFlight) {d : Detected} (ho : d.opnd < 16) :
    Dword.field (k.faulted f d).detail 63 32 = f.progress % 2 ^ 32 ∧ Dword.field (k.faulted f d).detail 31 28 = d.opnd := by
  simp only [Queue.faulted, Dword.field, BitVec.toNat_ofNat, Nat.shiftRight_eq_div_pow]
  omega

theorem mem_insertNat {l : List Nat} {w x : Nat} : x ∈ insertNat l w ↔ x = w ∨ x ∈ l := by
  simp only [insertNat, List.mem_append, List.mem_filter, List.mem_singleton, decide_eq_true_eq]
  constructor
  · rintro ((⟨hx, -⟩ | hx) | ⟨hx, -⟩)
    · exact .inr hx
    · exact .inl hx
    · exact .inr hx
  · rintro (rfl | hx)
    · exact .inl (.inr rfl)
    · rcases Nat.lt_trichotomy x w with hlt | heq | hgt
      · exact .inl (.inl ⟨hx, hlt⟩)
      · exact .inl (.inr heq)
      · exact .inr ⟨hx, hgt⟩

section
variable {s : State} (h : s.Canonical) (t : Site) (q : Nat) (f : InFlight) (d : Detected)
include h

theorem State.faultEffect_canonical : (s.faultEffect t q f d).Canonical := by
  unfold State.faultEffect
  exact (h.onQueue t q _).onCore t _

theorem State.faultEffect_queue_same (hq : q < 8) : (s.faultEffect t q f d).queue t q = (s.queue t q).faulted f d := by
  rw [State.faultEffect, State.onCore_queue (h.onQueue t q _), State.onQueue_queue_same h t hq]
  rfl

theorem State.faultEffect_queue_other {r : Nat} (hr : r ≠ q) : (s.faultEffect t q f d).queue t r = s.queue t r := by
  rw [State.faultEffect, State.onCore_queue (h.onQueue t q _), State.onQueue_queue_other h t (Ne.symm hr)]

theorem State.faultEffect_regs : ((s.faultEffect t q f d).core t).regs = (s.core t).regs := by
  rw [State.faultEffect, State.onCore_core (h.onQueue t q _), State.onQueue_core h]

/-- The fault's trap is pending besides those that were. -/
theorem State.mem_faultEffect_pendQ {x : Nat} : x ∈ ((s.faultEffect t q f d).core t).pendQ ↔ x = q ∨ x ∈ (s.core t).pendQ := by
  rw [State.faultEffect, State.onCore_core (h.onQueue t q _), State.onQueue_core h]
  simp only [mem_insertNat, List.mem_filter, decide_eq_true_eq]
  by_cases hx : x = q <;> simp [hx]

/-- The fault of a pair changes queue 3 at most, and adds no trap but its own. -/
theorem State.pairedFault_frame : (s.pairedFault t).queue t 0 = s.queue t 0 ∧
    ((s.pairedFault t).core t).regs = (s.core t).regs ∧ (s.pairedFault t).mem = s.mem ∧
    (∀ x, x ∈ ((s.pairedFault t).core t).pendQ → x = 3 ∨ x ∈ (s.core t).pendQ) ∧
    (∀ x, x ∈ (s.core t).pendQ → x ∈ ((s.pairedFault t).core t).pendQ) := by
  have keep : s.queue t 0 = s.queue t 0 ∧ (s.core t).regs = (s.core t).regs ∧ s.mem = s.mem ∧
      (∀ x, x ∈ (s.core t).pendQ → x = 3 ∨ x ∈ (s.core t).pendQ) ∧ (∀ x, x ∈ (s.core t).pendQ → x ∈ (s.core t).pendQ) :=
    ⟨rfl, rfl, rfl, fun _ hx => .inr hx, fun _ hx => hx⟩
  unfold State.pairedFault
  split
  · split
    · exact ⟨State.faultEffect_queue_other h t 3 _ _ (by decide), State.faultEffect_regs h t 3 _ _, rfl,
        fun x hx => (State.mem_faultEffect_pendQ h t 3 _ _).1 hx, fun x hx => (State.mem_faultEffect_pendQ h t 3 _ _).2 (.inr hx)⟩
    · exact keep
  · exact keep

end

theorem exec_faultEffect {s : State} {t : Site} {q : Nat} {f : InFlight} {d : Detected} (hl : s.Live t) (hq : q < 8)
    (hf : s.flightOf t q = some f) (hd : f.done = true) (hx : f.fault = some d) : exec (.engineFaultEffect t q) s =
      .next (if q = 0 then (s.faultEffect t q f d).pairedFault t else s.faultEffect t q f d) := by
  refine (onTile_live hl).trans ((onUnit_of (decide_eq_true hq)).trans ?_)
  simp only [hf]
  exact (whenSome_of hx).trans (when_of hd)

theorem exec_sparseDropReport {s : State} {e : Site × SvcNote} {rest : List (Site × SvcNote)} {qn gs vs : Nat} {tk : Word}
    (h : Picks (fun e => match e.2 with | SvcNote.sparse .. => true | _ => false) s.svc e rest) (he : e.2 = .sparse qn tk gs vs) :
    exec .sparseDropReport s = .next ({ s with svc := rest }.takeDrops e.1 qn tk gs vs) := by
  have ht := takeFirst_picks h
  obtain ⟨u, n⟩ := e
  obtain rfl : n = .sparse qn tk gs vs := he
  exact whenSome_of ht

/-- Settles O45: completion counts a command once in its own queue; a fault halts the queue and leaves its trap pending. -/
theorem commandsEnd : Obligations.CommandsEnd := by
  intro s t q f hc hl hq hf
  refine ⟨fun hd hn => ?_, fun d hd hx hcause hopnd => ?_, fun e rest tk gs vs qn hp he => exec_sparseDropReport hp he⟩
  · refine ⟨_, exec_complete hl hq hf hd hn, ?_⟩
    dsimp only
    rw [complete_queue_same hc t hq]
    obtain ⟨hsame, hcollect⟩ := Queue.completed_sticky (s.queue t q) f.flags
    refine ⟨rfl, rfl, rfl, rfl, rfl, ?_, hsame, hcollect, fun j _ hj => complete_queue_other hc t hj f, .of_mem ?_⟩
    · simp only [Queue.completed, Vector.getElem_set_self]
    · rw [State.afterDone_mem, State.countDone_mem, State.onQueue_mem]
  · refine ⟨_, exec_faultEffect hl hq hf hd hx, ?_⟩
    have hf1 := State.faultEffect_canonical hc t q f d
    obtain ⟨hq0, hregs, hmem, hpend, hpend'⟩ := State.pairedFault_frame hf1 t
    have hkeep : ∀ s', (s' = if q = 0 then (s.faultEffect t q f d).pairedFault t else s.faultEffect t q f d) →
        s'.queue t q = (s.queue t q).faulted f d ∧ (s'.core t).regs = (s.core t).regs ∧ s'.mem = s.mem ∧
        (∀ x, x = q ∨ x ∈ (s.core t).pendQ → x ∈ (s'.core t).pendQ) ∧
        (∀ x ∈ (s'.core t).pendQ, x = q ∨ x ∈ (s.core t).pendQ ∨ (q = 0 ∧ x = 3)) := by
      rintro s' rfl
      split
      · next h0 =>
        subst h0
        refine ⟨hq0.trans (State.faultEffect_queue_same hc t 0 f d hq), hregs.trans (State.faultEffect_regs hc t 0 f d), hmem,
          fun x hx => hpend' x ((State.mem_faultEffect_pendQ hc t 0 f d).2 hx), fun x hx => ?_⟩
        rcases hpend x hx with h3 | hx
        · exact .inr (.inr ⟨rfl, h3⟩)
        · exact ((State.mem_faultEffect_pendQ hc t 0 f d).1 hx).imp_right .inl
      · exact ⟨State.faultEffect_queue_same hc t q f d hq, State.faultEffect_regs hc t q f d, rfl,
          fun x hx => (State.mem_faultEffect_pendQ hc t q f d).2 hx,
          fun x hx => ((State.mem_faultEffect_pendQ hc t q f d).1 hx).imp_right .inl⟩
    obtain ⟨hqueue, hreg, hm, hin, hout⟩ := hkeep _ rfl
    dsimp only
    rw [hqueue]
    obtain ⟨h63, hca, htag, hfl, htk⟩ := Queue.faulted_fault (s.queue t q) f hcause
    obtain ⟨hpr, hop⟩ := Queue.faulted_detail (s.queue t q) f hopnd
    exact ⟨rfl, rfl, rfl, rfl, rfl, rfl, h63, hca, htag, hfl, htk, hpr, hop, hin, hout, hreg, .of_mem hm⟩

/-! ### Control descriptors (O46) -/

/-- A well-formed control descriptor, as the spec lists its fields. -/
theorem ctlOk_iff (d : Desc) (q : Nat) : ctlOk d q = true ↔ dCtl d = 1 ∧ dEng d = q ∧ d.toNat < 2 ^ 32 ∧ dGen d = 0 ∧
    dRnd d = 0 ∧ Desc.field d 16 16 = 0 ∧ Desc.field d 7 0 = 0 := by
  simp only [ctlOk, Bool.and_eq_true, decide_eq_true_eq, and_assoc, Nat.div_eq_zero_iff]
  simp

section
variable {s : State} {t : Site} {q : Nat} {e : QEntry}

theorem haltedControl_acts {name : String} {opc : Nat} {act : QEntry → State}
    (ha : (s.queue t q).entries.find? (fun e => ctlOk e.desc q && decide (dOpc e.desc ≤ 2)) = some e) (ho : dOpc e.desc = opc) :
    haltedControl name opc t q s act = .next (act e) := by
  rw [haltedControl, Queue.acting, ha]
  exact when_of (decide_eq_true ho)

/-- At the head of a queue that runs, a well-formed control descriptor leaves the queue and counts as complete. -/
theorem headControl_counts {name : String} {opc : Nat → Bool} {clear : Bool} {rest : List QEntry}
    (hopen : s.queueOpen t q = true) (hfl : (s.queue t q).flight = []) (he : (s.queue t q).entries = e :: rest)
    (hok : ctlOk e.desc q = true) (ho : opc (dOpc e.desc) = true) : headControl name opc clear t q s =
      .next ((s.onQueue t q (fun k => { k with entries := k.entries.drop 1, sticky := if clear then 0 else k.sticky })).countDone t q 0) := by
  have hgo : (s.mayStart t q && decide (dCtl e.desc = 1) && opc (dOpc e.desc)) = true := by
    rw [State.mayStart, hopen, hfl, ho, ((ctlOk_iff _ _).1 hok).1]; rfl
  simp only [headControl, he, hgo, hok, Bool.not_true, Bool.false_eq_true, if_false, if_true]

/-- What such a descriptor leaves: one command more counted, with flag byte 0. -/
theorem headControl_leaves (h : s.Canonical) (t : Site) (hq : q < 8) (clear : Bool) {rest : List QEntry}
    (he : (s.queue t q).entries = e :: rest) :
    let s' := (s.onQueue t q (fun k => { k with entries := k.entries.drop 1, sticky := if clear then 0 else k.sticky })).countDone t q 0
    (s'.queue t q).ccnt = (s.queue t q).ccnt + 1 ∧ (s'.queue t q).entries = rest ∧
      (s'.queue t q).sticky = (if clear then 0 else (s.queue t q).sticky) ∧
      (s'.queue t q).hist[((s.queue t q).ccnt + 1).toNat % 16]'(Nat.mod_lt _ (by decide)) = 0 ∧ SameMemory s s' := by
  dsimp only
  have h1 := h.onQueue t q (fun k => { k with entries := k.entries.drop 1, sticky := if clear then 0 else k.sticky })
  rw [State.countDone_queue_same h1 t q 0 hq, State.onQueue_queue_same h t hq, he]
  refine ⟨rfl, rfl, rfl, ?_, .of_mem ?_⟩
  · simp only [Vector.getElem_set_self]
    rfl
  · rw [State.countDone_mem, State.onQueue_mem]

end

/-- Commands that count as complete with flag byte 0, n of them. -/
theorem foldl_countDone {s : State} (h : s.Canonical) (t : Site) {q : Nat} (hq : q < 8) (l : List Nat) :
    let s' := l.foldl (fun s _ => s.countDone t q 0) s
    (s'.queue t q).ccnt = (s.queue t q).ccnt + BitVec.ofNat 32 l.length ∧ (s'.queue t q).entries = (s.queue t q).entries ∧
      (s'.queue t q).halted = (s.queue t q).halted := by
  dsimp only
  induction l generalizing s with
  | nil => exact ⟨by simp, rfl, rfl⟩
  | cons a l ih =>
    obtain ⟨hn, he, hh⟩ := ih (State.countDone_canonical h t q 0)
    rw [State.countDone_queue_same h t q 0 hq] at hn he hh
    refine ⟨?_, he, hh⟩
    rw [List.foldl_cons, hn, BitVec.add_assoc]
    congr 1
    rw [List.length_cons, Nat.add_comm, BitVec.ofNat_add]
    rfl

/-- A list splits where its first entry of a ticket stands. -/
theorem drop_takeWhile_ticket (l : List QEntry) (tk : Word) :
    let older := l.takeWhile (fun x => decide (x.ticket ≠ tk))
    l = older ++ l.drop older.length ∧ (∀ x ∈ older, x.ticket ≠ tk) ∧ ∀ x ∈ (l.drop older.length).head?, x.ticket = tk := by
  induction l with
  | nil => simp
  | cons a l ih =>
    obtain ⟨happ, hne, hhead⟩ := ih
    by_cases ha : a.ticket = tk
    · simp [ha]
    · simp only [ne_eq, List.takeWhile_cons_of_pos (p := fun x : QEntry => decide (x.ticket ≠ tk)) (decide_eq_true ha),
        List.length_cons, List.drop_succ_cons, List.cons_append] at happ hne hhead ⊢
      exact ⟨congrArg (a :: ·) happ, fun x hx => by
        rcases List.mem_cons.1 hx with rfl | hx
        · exact ha
        · exact hne x hx, hhead⟩

section
variable {s : State} {t : Site} {q : Nat} {e : QEntry} (hl : s.Live t) (hq : q < 8) (hh : (s.queue t q).halted = true)
  (ha : (s.queue t q).entries.find? (fun e => ctlOk e.desc q && decide (dOpc e.desc ≤ 2)) = some e)
include hl hq hh ha

theorem exec_resume_halted (ho : dOpc e.desc = 0) : exec (.resume t q) s =
    .next ((s.onQueue t q Queue.clearHalt).countDone t q (Dword.field (s.queue t q).fault 39 32)) := by
  refine (onTile_live hl).trans ((onUnit_of (decide_eq_true hq)).trans ?_)
  rw [if_pos hh]
  exact haltedControl_acts ha ho

theorem exec_retry_halted (ho : dOpc e.desc = 1) : exec (.retry t q) s = .next (s.onQueue t q (fun k => { k with
    halted := false, fault := Dword.setField k.fault 63 63 0,
    entries := { desc := k.fdesc, ticket := BitVec.ofNat 32 (Dword.field k.fault 31 0) } :: k.entries })) := by
  refine (onTile_live hl).trans ((onUnit_of (decide_eq_true hq)).trans ?_)
  rw [if_pos hh]
  exact haltedControl_acts ha ho

theorem exec_discard_halted (ho : dOpc e.desc = 2) : exec (.discard t q) s = .next
    ((List.range (((s.queue t q).entries.takeWhile (fun x => decide (x.ticket ≠ e.ticket))).length + 1)).foldl
      (fun s _ => s.countDone t q 0) (s.onQueue t q (fun k => { k.clearHalt with
        entries := k.entries.drop ((s.queue t q).entries.takeWhile (fun x => decide (x.ticket ≠ e.ticket))).length }))) := by
  refine (onTile_live hl).trans ((onUnit_of (decide_eq_true hq)).trans ?_)
  rw [if_pos hh]
  exact haltedControl_acts ha ho

end

section
variable {s : State} {t : Site} {q : Nat} {e : QEntry} {rest : List QEntry} (hl : s.Live t) (hq : q < 8)
  (hh : (s.queue t q).halted = false) (hopen : s.queueOpen t q = true) (hfl : (s.queue t q).flight = [])
  (he : (s.queue t q).entries = e :: rest) (hok : ctlOk e.desc q = true)
include hl hq hh hopen hfl he hok

/-- The head of a queue that runs, of each of the four kinds: only CLRFLAGS clears the sticky flags. -/
theorem exec_headControl : ∀ i ∈ [(Instr.resume t q, dOpc e.desc = 0), (.retry t q, dOpc e.desc = 1),
    (.discard t q, dOpc e.desc = 2), (.clrflags t q, dOpc e.desc = 3)], i.2 → exec i.1 s =
      .next ((s.onQueue t q (fun k => { k with
        entries := k.entries.drop 1, sticky := if decide (dOpc e.desc = 3) then 0 else k.sticky })).countDone t q 0) := by
  have hrun : ¬ (s.queue t q).halted = true := by rw [hh]; decide
  have halt : ∀ a b : Out, (if (s.queue t q).halted = true then a else b) = b := fun a b => if_neg hrun
  intro i hi
  simp only [List.mem_cons, List.not_mem_nil, or_false] at hi
  rcases hi with rfl | rfl | rfl | rfl <;> intro (ho : dOpc e.desc = _) <;> rw [ho]
  · refine (onTile_live hl).trans ((onUnit_of (decide_eq_true hq)).trans ((halt _ _).trans ?_))
    exact headControl_counts hopen hfl he hok (by rw [ho]; rfl)
  · refine (onTile_live hl).trans ((onUnit_of (decide_eq_true hq)).trans ((halt _ _).trans ?_))
    exact headControl_counts hopen hfl he hok (by rw [ho]; rfl)
  · refine (onTile_live hl).trans ((onUnit_of (decide_eq_true hq)).trans ((halt _ _).trans ?_))
    exact headControl_counts hopen hfl he hok (by rw [ho]; rfl)
  · refine (onTile_live hl).trans ((onUnit_of (decide_eq_true hq)).trans ?_)
    exact headControl_counts hopen hfl he hok (by rw [ho]; rfl)

end

/-- Settles O46: the acting entry of a halted queue, and a control descriptor at the head of one that runs. -/
theorem controlDescriptors : Obligations.ControlDescriptors := by
  intro s t q e hc hl hq
  refine ⟨fun hh ha => ⟨fun ho => ?_, fun ho => exec_retry_halted hl hq hh ha ho, fun ho => ?_⟩,
    fun hh hopen hfl rest he hok i hi ho => ?_⟩
  · refine ⟨_, exec_resume_halted hl hq hh ha ho, ?_⟩
    have h1 := hc.onQueue t q Queue.clearHalt
    rw [State.countDone_queue_same h1 t q _ hq, State.onQueue_queue_same hc t hq]
    refine ⟨rfl, rfl, rfl, Dword.field_setField_same _ _ (by decide) (by decide), ?_⟩
    simp only [Queue.clearHalt, Vector.getElem_set_self]
  · refine ⟨_, exec_discard_halted hl hq hh ha ho, ?_⟩
    obtain ⟨happ, hne, hhead⟩ := drop_takeWhile_ticket (s.queue t q).entries e.ticket
    generalize hn : ((s.queue t q).entries.takeWhile (fun x => decide (x.ticket ≠ e.ticket))).length = n at happ hhead ⊢
    have h1 := hc.onQueue t q (fun k => { k.clearHalt with entries := k.entries.drop n })
    obtain ⟨hcnt, hent, hhalt⟩ := foldl_countDone h1 t hq (List.range (n + 1))
    rw [State.onQueue_queue_same hc t hq] at hcnt hent hhalt
    rw [hhalt, hent, hcnt]
    exact ⟨rfl, _, happ, hne, hhead, by rw [hn, List.length_range]; rfl⟩
  · have hok' := (ctlOk_iff _ _).2 hok
    refine ⟨_, exec_headControl hl hq hh hopen hfl he hok' i hi ho, ?_⟩
    obtain ⟨hcnt, hent, hst, hhist, hmem⟩ := headControl_leaves hc t hq (decide (dOpc e.desc = 3)) he
    exact ⟨hcnt, hent, by rw [hst]; simp only [decide_eq_true_eq], hhist, hmem⟩

end Sys2Proof.Machine
end

section
/-!
PROOFS. The start of an engine command (R68, R155, R156, R192): a head whose checks fail, and one whose checks pass.
-/
namespace Sys2Proof.Machine

/-- Queue q of tile t is open, has nothing in flight, and holds an engine command at its head. -/
structure State.Heads (s : State) (t : Site) (q : Nat) (e : QEntry) : Prop where
  live : s.Live t
  opened : s.queueOpen t q = true
  idle : (s.queue t q).flight = []
  head : ∃ rest, (s.queue t q).entries = e :: rest
  ctl : dCtl e.desc = 0

section
variable {s : State} {t : Site} {q : Nat} {e : QEntry}

theorem engine_starts {name : String} {opc : Nat → Bool} (o : EngineOp) (h : s.Heads t q e) (ho : opc (dOpc e.desc) = true) :
    engine name q t opc o s = .next (o.start t q e s) := by
  obtain ⟨hl, hopen, hfl, ⟨rest, he⟩, hctl⟩ := h
  refine (onTile_live hl).trans ?_
  rw [he]
  refine when_of ?_
  simp only [hopen, hfl, hctl, ho, List.isEmpty_nil, Bool.or_false, Bool.and_true, decide_true]

/-- A head whose checks fail, where no header is read: it stands in flight with its fault. -/
theorem start_fails {o : EngineOp} {x : Detected} (hx : o.check s e.desc = some x) (hpre : o.pre = noPre) :
    o.start t q e s = s.launch t q { InFlight.start s t e with fault := some x, done := true } := by
  have hp : (if some x.cause = some ecDesc then s else o.pre s e.desc) = s := by
    rw [hpre]; exact ite_self _
  simp only [EngineOp.start, hx, Option.map_some, hp]

/-- A head whose checks pass: the engine's work, then the command in flight. -/
theorem start_runs {o : EngineOp} (hx : o.check s e.desc = none) : o.start t q e s =
    (o.run (o.pre s e.desc) (InFlight.start s t e) e.desc).1.launch t q
      (o.run (o.pre s e.desc) (InFlight.start s t e) e.desc).2 := by
  simp only [EngineOp.start, hx, Option.map_none, reduceCtorEq, if_false]

theorem engine_fails {name : String} {opc : Nat → Bool} {o : EngineOp} {x : Detected} (h : s.Heads t q e)
    (ho : opc (dOpc e.desc) = true) (hx : o.check s e.desc = some x) (hpre : o.pre = noPre) : engine name q t opc o s =
      .next (s.launch t q { InFlight.start s t e with fault := some x, done := true }) := by
  rw [engine_starts o h ho, start_fails hx hpre]

theorem engine_runs {name : String} {opc : Nat → Bool} {o : EngineOp} (h : s.Heads t q e) (ho : opc (dOpc e.desc) = true)
    (hx : o.check s e.desc = none) : engine name q t opc o s =
      .next ((o.run (o.pre s e.desc) (InFlight.start s t e) e.desc).1.launch t q
        (o.run (o.pre s e.desc) (InFlight.start s t e) e.desc).2) := by
  rw [engine_starts o h ho, start_runs hx]

/-- With nothing in flight, neither the NI nor the UE has a command under way. -/
theorem niFlight_of_idle (hf : (s.queue t 6).flight = []) : s.niFlight t = none := by
  simp only [State.niFlight, State.flightOf, hf, List.head?_nil, Option.filter_none]

theorem ueFlight_of_idle (hf : (s.queue t 7).flight = []) : s.ueFlight t = none := by
  simp only [State.ueFlight, State.flightOf, hf, List.head?_nil, Option.filter_none]

theorem exec_sends_head (h : s.Heads t 6 e) : exec (.sends t) s =
    engine "SENDS" 6 t (fun o => decide (o = 0) || decide (4 ≤ o)) (sendsOp t) s := by
  change execSends t s = _
  rw [execSends, niFlight_of_idle h.idle]

theorem exec_put_head (h : s.Heads t 6 e) : exec (.put t) s = engine "PUT" 6 t (fun o => decide (o = 2)) (putOp t) s := by
  change execPut t s = _
  rw [execPut, niFlight_of_idle h.idle]

theorem exec_get_head (h : s.Heads t 6 e) : exec (.get t) s = engine "GET" 6 t (fun o => decide (o = 3)) (getOp t) s := by
  change execGet t s = _
  rw [execGet, niFlight_of_idle h.idle]

theorem exec_update_head (h : s.Heads t 7 e) :
    exec (.update t) s = engine "UPDATE" 7 t (fun o => decide (o ≠ 1)) (updateOp t) s := by
  change execUpdate t s = _
  rw [execUpdate, ueFlight_of_idle h.idle]

end

/-- Settles O40: a failed check leaves the command in flight with its fault, and nothing else. -/
theorem failedChecksWriteNothing : Obligations.FailedChecksWriteNothing := by
  intro s t e rest x d r hr hl hopen hfl he hctl hsel hx
  have heads : s.Heads t r.2.1 e := ⟨hl, hopen, hfl, ⟨rest, he⟩, hctl⟩
  simp only [List.mem_cons, List.not_mem_nil, or_false] at hr
  rcases hr with rfl | rfl | rfl | rfl | rfl | rfl | rfl | rfl | rfl | rfl | rfl | rfl | rfl | rfl
  · change execVeOperation t s = _
    exact engine_fails heads rfl hx rfl
  · change execSuConvert t s = _
    exact engine_fails heads (by simpa [Bool.or_eq_true] using hsel) hx rfl
  · change execSuCompress t s = _
    exact engine_fails heads hsel hx rfl
  · change execSuPrune t s = _
    exact engine_fails heads hsel hx rfl
  · change execTxTranspose t s = _
    exact engine_fails heads hsel hx rfl
  · change execTxStream t s = _
    exact engine_fails heads hsel hx rfl
  · change execFuEval t s = _
    exact engine_fails heads hsel hx rfl
  · change execLdLoad t s = _
    exact engine_fails heads hsel hx rfl
  · change execLdSave t s = _
    exact engine_fails heads hsel hx rfl
  · exact (exec_sends_head heads).trans (engine_fails heads (by simpa using hsel) hx rfl)
  · change execRecv t s = _
    exact engine_fails heads hsel hx rfl
  · exact (exec_put_head heads).trans (engine_fails heads hsel hx rfl)
  · exact (exec_get_head heads).trans (engine_fails heads hsel hx rfl)
  · exact (exec_update_head heads).trans (engine_fails heads hsel hx rfl)

end Sys2Proof.Machine
end

section
/-!
PROOFS. What an engine's reads of the store leave alone (R48, R65, R154): the books of the code and of the tags, and the records that
go with them, change, and nothing else.
-/
namespace Sys2Proof.Machine

/-- The registers of a tile that the code and the generation tags keep. -/
def readRegs : List Nat := bookRegs ++ [aGenStat, aGenLog]

/-- s' is s after reads of tile t's store. -/
structure Meets (t : Site) (s s' : State) : Prop where
  rest  : s.Canonical → s' = { s with tiles := s'.tiles, svc := s'.svc, freeCtr := s'.freeCtr }
  canon : s.Canonical → s'.Canonical
  tile  : s.Canonical → s'.tile t = { s.tile t with
    creg := (s'.tile t).creg
    info := { (s'.tile t).info with gens := (s.tile t).info.gens, clearing := (s.tile t).info.clearing,
                                    scrub := (s.tile t).info.scrub }
    ni := { s.ni t with tele := (s'.ni t).tele, teleAlarm := (s'.ni t).teleAlarm, teleLost := (s'.ni t).teleLost } }
  other : s.Canonical → ∀ u : Site, u.key ≠ t.key → s'.tile u = s.tile u
  creg  : s.Canonical → ∀ a, a ∉ readRegs → s'.creg t a = s.creg t a

section
variable {t : Site} {s s' s'' : State}

theorem Meets.refl (t : Site) (s : State) : Meets t s s := ⟨fun _ => rfl, id, fun _ => rfl, fun _ _ _ => rfl, fun _ _ _ => rfl⟩

theorem Meets.ni (h : Meets t s s') (hc : s.Canonical) : s'.ni t = { s.ni t with
    tele := (s'.ni t).tele, teleAlarm := (s'.ni t).teleAlarm, teleLost := (s'.ni t).teleLost } := by
  conv => lhs; rw [State.ni, h.tile hc]

theorem Meets.info (h : Meets t s s') (hc : s.Canonical) : (s'.tile t).info.gens = (s.tile t).info.gens ∧
    (s'.tile t).info.clearing = (s.tile t).info.clearing ∧ (s'.tile t).info.scrub = (s.tile t).info.scrub := by
  rw [h.tile hc]
  exact ⟨rfl, rfl, rfl⟩

theorem Meets.trans (h : Meets t s s') (k : Meets t s' s'') : Meets t s s'' where
  rest := fun hc => by rw [k.rest (h.canon hc), h.rest hc]
  canon := fun hc => k.canon (h.canon hc)
  tile := fun hc => by
    obtain ⟨hg, hcl, hsc⟩ := h.info hc
    rw [k.tile (h.canon hc), h.ni hc, hg, hcl, hsc, h.tile hc]
  other := fun hc u hu => (k.other (h.canon hc) u hu).trans (h.other hc u hu)
  creg := fun hc a ha => (k.creg (h.canon hc) a ha).trans (h.creg hc a ha)

theorem Meets.mem (h : Meets t s s') (hc : s.Canonical) : s'.mem = s.mem := by rw [h.rest hc]
theorem Meets.core (h : Meets t s s') (hc : s.Canonical) : s'.core t = s.core t := by rw [State.core, h.tile hc]; rfl
theorem Meets.queue (h : Meets t s s') (hc : s.Canonical) (q : Nat) : s'.queue t q = s.queue t q := by
  rw [State.queue, h.tile hc]; rfl
theorem Meets.fu (h : Meets t s s') (hc : s.Canonical) : (s'.tile t).fu = (s.tile t).fu := by rw [h.tile hc]
theorem Meets.loam (h : Meets t s s') (hc : s.Canonical) : (s'.tile t).loam = (s.tile t).loam := by rw [h.tile hc]
theorem Meets.cache (h : Meets t s s') (hc : s.Canonical) : (s'.tile t).cache = (s.tile t).cache := by rw [h.tile hc]
theorem Meets.cfld (h : Meets t s s') (hc : s.Canonical) {a : Nat} (ha : a ∉ readRegs) (hi lo : Nat) :
    s'.cfld t a hi lo = s.cfld t a hi lo := by rw [State.cfld, h.creg hc a ha, State.cfld]
theorem Meets.sreg (h : Meets t s s') (hc : s.Canonical) : s'.sreg = s.sreg := by rw [h.rest hc]

theorem Upkeep.meets (h : s.Canonical → Upkeep t s s') : Meets t s s' where
  rest := fun hc => (h hc).rest
  canon := fun hc => (h hc).canon
  tile := fun hc => by
    have hni : s'.ni t = s.ni t := (h hc).ni
    rw [hni, (h hc).tile]
    rfl
  other := fun hc => (h hc).other
  creg := fun hc a ha => (h hc).creg a (fun hb => ha (List.mem_append_left _ hb))

theorem TileTold.meets (h : TileTold t s s') : Meets t s s' where
  rest := fun _ => by rw [h.rest]
  canon := h.canon
  tile := fun hc => by rw [h.tile hc]
  other := fun _ => h.other
  creg := fun hc a _ => h.creg hc a

theorem meets_setCreg {a : Nat} (ha : a ∈ readRegs) (v : Dword) : Meets t s (s.setCreg t a v) where
  rest := fun _ => rfl
  canon := fun hc => hc.setCreg t a v
  tile := fun hc => by simp [hc, State.ni]
  other := fun _ u hu => State.onTile_tile_other hu _
  creg := fun hc b hb => State.setCreg_creg_other hc (by rintro rfl; exact hb ha) v

theorem meets_foldl {α : Type} {f : State → α → State} (hf : ∀ u a, Meets t u (f u a)) (l : List α) (s : State) :
    Meets t s (l.foldl f s) := by
  induction l generalizing s with
  | nil => exact .refl t s
  | cons a l ih => exact (hf s a).trans (ih (f s a))

theorem meets_genMismatch (q g found row : Nat) : Meets t s (s.genMismatch t q g found row) := by
  have hstat : aGenStat ∈ readRegs := by decide
  have hlog : aGenLog ∈ readRegs := by decide
  have h1 : Meets t s ((s.setCfld t aGenStat 0 0 1).cbump t aGenStat 63 32) :=
    (meets_setCreg hstat _).trans (meets_setCreg hstat _)
  have told : ∀ u, Meets t s u → Meets t s (u.tileEvent t 0x0100 (u.creg t aGenLog).toNat) := fun u hu =>
    hu.trans (tileTold_tileEvent u t _ _).meets
  simp only [State.genMismatch]
  split
  · exact told _ (h1.trans (meets_setCreg hlog _))
  · exact told _ h1

theorem meets_genCheck (s : State) (t : Site) (off n g q : Nat) : Meets t s (s.genCheck t off n g q) := by
  unfold State.genCheck
  split
  · refine meets_foldl (fun u r => ?_) _ _
    dsimp only
    split
    · exact .refl t u
    · exact meets_genMismatch _ _ _ _
  · exact .refl t s

theorem meets_eccRead (s : State) (t : Site) (off n : Nat) : Meets t s (s.eccRead t off n).1 :=
  Upkeep.meets (fun hc => upkeep_eccRead hc off n)

theorem meets_meetReads (s : State) (t : Site) (q g : Nat) (rs : List (Nat × Nat)) (fault : Option Detected) :
    Meets t s (s.meetReads t q g rs fault) := by
  have h1 : Meets t s (rs.foldl (fun s r => s.genCheck t r.1 r.2 g q) s) := meets_foldl (fun u r => meets_genCheck u t _ _ _ _) rs s
  unfold State.meetReads
  split
  · split
    · exact h1.trans (meets_eccRead _ t _ _)
    · exact h1
  · exact h1.trans (meets_foldl (fun u r => meets_eccRead u t _ _) rs _)

end

end Sys2Proof.Machine
end

section
/-!
PROOFS. The function unit: the identity, and the load of a table (R180, R181).
-/
namespace Sys2Proof.Machine

/-! ### Reads without an uncorrectable error make none (R48, R51) -/

/-- No word of tile t that was free of uncorrectable errors has one now. -/
structure NoNewUe (t : Site) (s s' : State) : Prop where
  poison : (s'.tile t).info.poison = (s.tile t).info.poison
  upsets : ∀ e ∈ (s'.tile t).info.upsets, e ∈ (s.tile t).info.upsets

section
variable {t : Site} {s s' s'' : State}

theorem NoNewUe.refl (t : Site) (s : State) : NoNewUe t s s := ⟨rfl, fun _ he => he⟩

theorem NoNewUe.trans (h : NoNewUe t s s') (k : NoNewUe t s' s'') : NoNewUe t s s'' :=
  ⟨k.poison.trans h.poison, fun e he => h.upsets e (k.upsets e he)⟩

theorem NoNewUe.of_info (h : (s'.tile t).info = (s.tile t).info) : NoNewUe t s s' := by
  refine ⟨?_, ?_⟩ <;> rw [h]
  exact fun _ he => he

theorem firstUe_none {off n : Nat} : s.firstUe t off n = none ↔ ∀ w ∈ wordsOf off n,
    w ∉ (s.tile t).info.poison ∧ ∀ e ∈ (s.tile t).info.upsets, e.1 = w → e.2.dbl = false := by
  simp only [State.firstUe, List.find?_eq_none, Bool.or_eq_true, List.contains_eq_mem, decide_eq_true_eq, List.any_eq_true,
    Bool.and_eq_true, not_or, not_exists, not_and, Bool.not_eq_true]

theorem NoNewUe.firstUe (h : NoNewUe t s s') {off n : Nat} (hn : s.firstUe t off n = none) : s'.firstUe t off n = none := by
  rw [firstUe_none] at hn ⊢
  intro w hw
  rw [h.poison]
  exact ⟨(hn w hw).1, fun e he => (hn w hw).2 e (h.upsets e he)⟩

theorem noNewUe_onInfo (hc : s.Canonical) {f : Meta → Meta} (hp : (f (s.tile t).info).poison = (s.tile t).info.poison)
    (hu : ∀ e ∈ (f (s.tile t).info).upsets, e ∈ (s.tile t).info.upsets) : NoNewUe t s (s.onInfo t f) := by
  refine ⟨?_, ?_⟩ <;> rw [State.onInfo_tile hc]
  · exact hp
  · exact hu

theorem State.setCreg_info (hc : s.Canonical) (a : Nat) (v : Dword) : ((s.setCreg t a v).tile t).info = (s.tile t).info := by
  rw [State.setCreg_tile hc]

theorem State.eccEvent_info (hc : s.Canonical) (ue : Bool) (b p w y : Nat) :
    ((s.eccEvent t ue b p w y).tile t).info = (s.tile t).info := by
  have two : ∀ i c d, ((s.setCfld t aEccStat i i 1).cbump t aEccStat c d).Canonical ∧
      (((s.setCfld t aEccStat i i 1).cbump t aEccStat c d).tile t).info = (s.tile t).info := fun i c d =>
    ⟨(hc.setCfld t _ _ _ _).setCfld t _ _ _ _,
      (State.setCreg_info (hc.setCfld t _ _ _ _) _ _).trans (State.setCreg_info hc _ _)⟩
  unfold State.eccEvent
  cases ue
  · simp only [Bool.false_eq_true, if_false]
    split
    · exact (two 0 47 32).2
    · exact (State.setCreg_info (two 0 47 32).1 _ _).trans (two 0 47 32).2
  · simp only [if_true, Bool.not_true, Bool.and_false, Bool.false_eq_true, if_false]
    exact (State.setCreg_info (two 1 63 48).1 _ _).trans (two 1 63 48).2

theorem noNewUe_spareRow (hc : s.Canonical) (b r : Nat) : NoNewUe t s (s.spareRow t b r false) := by
  unfold State.spareRow
  simp only [Bool.false_eq_true, if_false]
  split
  · exact .of_info (State.setCreg_info hc _ _)
  · exact NoNewUe.trans (noNewUe_onInfo hc (f := fun m => { m with
      remap := mapPut m.remap (b * 512 + r) (sparesUsed (s.tile t).info b)
      upsets := m.upsets.filter (fun e => !(decide ((b * 512 + r) * 8 ≤ e.1) && decide (e.1 < (b * 512 + r) * 8 + 8)))
      once := m.once.filter (fun x => decide (x ≠ b * 512 + r)) }) rfl (fun e he => (List.mem_filter.1 he).1)) (.of_info rfl)

/-- A word in correctable error, corrected: its row may be spared, with its data. -/
theorem noNewUe_eccWord (hc : s.Canonical) (w : Nat) {u : Upset} (hu : u.dbl = false) : NoNewUe t s (s.eccWord t w u) := by
  have hkeep : ∀ e ∈ mapDel (s.tile t).info.upsets w, e ∈ (s.tile t).info.upsets := fun e he => mem_mapDel he
  unfold State.eccWord
  rw [hu]
  simp only [Bool.false_eq_true, if_false]
  have h1 := upkeep_eccEvent (t := t) hc false (w / 4096) (physRow (s.tile t).info (w / 4096) (w / 8 % 512)) (w % 8) u.synd.toNat
  generalize hv : s.eccEvent t false (w / 4096) (physRow (s.tile t).info (w / 4096) (w / 8 % 512)) (w % 8) u.synd.toNat = v at h1 ⊢
  have hi : (v.tile t).info = (s.tile t).info := by rw [← hv]; exact State.eccEvent_info hc ..
  have h2 : NoNewUe t s (v.onInfo t (fun m => { m with upsets := mapDel m.upsets w })) :=
    (NoNewUe.of_info hi).trans (noNewUe_onInfo h1.canon rfl (by rw [hi]; exact hkeep))
  have hc2 := State.onInfo_canonical h1.canon t (fun m => { m with upsets := mapDel m.upsets w })
  split
  · exact h2.trans (noNewUe_spareRow hc2 _ _)
  · exact h2.trans (noNewUe_onInfo hc2 rfl (fun _ he => he))

theorem noNewUe_foldl {l : List (Nat × Upset)} (hc : s.Canonical) (hl : ∀ e ∈ l, e.2.dbl = false) :
    NoNewUe t s (l.foldl (fun s e => s.eccWord t e.1 e.2) s) := by
  induction l generalizing s with
  | nil => exact .refl t s
  | cons e l ih =>
    exact (noNewUe_eccWord hc e.1 (hl e (.head l))).trans
      (ih (upkeep_eccWord (t := t) hc e.1 e.2).canon (fun x hx => hl x (.tail e hx)))

theorem noNewUe_eccRead (hc : s.Canonical) {off n : Nat} (hn : s.firstUe t off n = none) : NoNewUe t s (s.eccRead t off n).1 := by
  rw [firstUe_none] at hn
  have hp : (s.tile t).info.poison.filter (fun w => decide (off / 8 ≤ w) && decide (w < (off + n + 7) / 8)) = [] := by
    rw [List.filter_eq_nil_iff]
    intro w hw hin
    rw [Bool.and_eq_true, decide_eq_true_eq, decide_eq_true_eq] at hin
    exact (hn w (mem_wordsOf.2 hin)).1 hw
  simp only [State.eccRead, hp, List.foldl_nil]
  refine noNewUe_foldl hc (fun e he => ?_)
  obtain ⟨hmem, hin⟩ := List.mem_filter.1 he
  simp only [Bool.and_eq_true, decide_eq_true_eq] at hin
  exact (hn e.1 (mem_wordsOf.2 hin.1)).2 e hmem rfl

theorem State.genMismatch_info (hc : s.Canonical) (q g found row : Nat) :
    ((s.genMismatch t q g found row).tile t).info = (s.tile t).info := by
  have told : ∀ u : State, u.Canonical → (u.tile t).info = (s.tile t).info → ∀ c a, ((u.tileEvent t c a).tile t).info = (s.tile t).info :=
    fun u hu h c a => (congrArg Tile.info ((tileTold_tileEvent u t c a).tile hu)).trans h
  have h1 : (((s.setCfld t aGenStat 0 0 1).cbump t aGenStat 63 32).tile t).info = (s.tile t).info :=
    (State.setCreg_info (hc.setCfld t _ _ _ _) _ _).trans (State.setCreg_info hc _ _)
  have hc1 : ((s.setCfld t aGenStat 0 0 1).cbump t aGenStat 63 32).Canonical := (hc.setCfld t _ _ _ _).setCfld t _ _ _ _
  simp only [State.genMismatch]
  split
  · exact told _ (hc1.setCreg t _ _) ((State.setCreg_info hc1 _ _).trans h1) _ _
  · exact told _ hc1 h1 _ _

theorem State.genCheck_info (hc : s.Canonical) (off n g q : Nat) : ((s.genCheck t off n g q).tile t).info = (s.tile t).info := by
  have fold : ∀ (l : List Nat) (u : State), u.Canonical → (u.tile t).info = (s.tile t).info →
      ((l.foldl (fun s r => if mapGet (fun _ => 0) (s.tile t).info.gens r = g then s
        else s.genMismatch t q g (mapGet (fun _ => 0) (s.tile t).info.gens r) r) u).tile t).info = (s.tile t).info := by
    intro l
    induction l with
    | nil => exact fun u _ h => h
    | cons r l ih =>
      intro u hu h
      rw [List.foldl_cons]
      split
      · exact ih u hu h
      · exact ih _ ((meets_genMismatch q g _ r).canon hu) ((State.genMismatch_info hu ..).trans h)
  unfold State.genCheck
  split
  · exact fold _ s hc rfl
  · rfl

/-- The operands of a command, read where no word is uncorrectable. -/
theorem noNewUe_meetRead (hc : s.Canonical) (q g off n : Nat) (hn : s.firstUe t off n = none) :
    NoNewUe t s (s.meetReads t q g [(off, n)] none) := by
  have h1 : NoNewUe t s (s.genCheck t off n g q) := .of_info (State.genCheck_info hc ..)
  exact h1.trans (noNewUe_eccRead ((meets_genCheck s t off n g q).canon hc) (h1.firstUe hn))

end

/-- A range without an uncorrectable word has none in any part of it. -/
theorem State.firstUe_part {s : State} {t : Site} {off n o k : Nat} (h : s.firstUe t off n = none) (hlo : off ≤ o)
    (hhi : o + k ≤ off + n) : s.firstUe t o k = none := by
  rw [firstUe_none] at h ⊢
  intro w hw
  rw [mem_wordsOf] at hw
  exact h w (mem_wordsOf.2 (by omega))

/-! ### A launch -/

theorem State.launch_mem (s : State) (t : Site) (q : Nat) (f : InFlight) : (s.launch t q f).mem = s.mem := rfl

theorem State.launch_tile {s : State} (hc : s.Canonical) (t : Site) (q : Nat) (f : InFlight) : (s.launch t q f).tile t =
    (fun x : Tile => if x.power = .idle then { x with power := .active } else x) ((s.tile t).setQueue q { s.queue t q with
      entries := (s.queue t q).entries.drop 1, flight := (s.queue t q).flight ++ [f] }) := by
  rw [State.launch, State.onTile_tile (hc.onQueue t q _), State.onQueue_tile hc]

theorem State.launch_fu {s : State} (hc : s.Canonical) (t : Site) (q : Nat) (f : InFlight) :
    ((s.launch t q f).tile t).fu = (s.tile t).fu := by
  rw [State.launch_tile hc, Tile.setQueue]
  dsimp only
  split <;> split <;> rfl

/-! ### LOADTAB (R181) -/

theorem State.words_of_mem {s s' : State} (h : s'.mem = s.mem) (t : Site) (off n : Nat) : s'.words t off n = s.words t off n := by
  simp only [State.words, State.bytes_of_mem h]

theorem find_mapPut {α : Type} (m : List (Nat × α)) (k : Nat) (v : α) :
    (mapPut m k v).find? (fun e => decide (e.1 = k)) = some (k, v) := by
  induction m with
  | nil => simp [mapPut]
  | cons e m ih =>
    obtain ⟨j, w⟩ := e
    rw [mapPut]
    split
    · simp
    · split
      · simp
      · next h1 h2 => rw [List.find?_cons_of_neg (by simpa using Ne.symm h2), ih]

section
variable {s : State} {t : Site} (hc : s.Canonical) {d : Desc} (f : InFlight)
include hc

/-- The header read at the checks makes no error where the table has none. -/
theorem fuTabPre_reads (hu : s.firstUe t (fuA d) (tabBytes (s.words t (fuA d) 16)) = none) :
    Meets t s (fuTabPre t s d) ∧ NoNewUe t s (fuTabPre t s d) := by
  have hn : 64 ≤ tabBytes (s.words t (fuA d) 16) := Nat.le_add_right ..
  unfold fuTabPre
  split
  · exact ⟨.refl t s, .refl t s⟩
  · exact ⟨meets_meetReads .., noNewUe_meetRead hc _ _ _ _ (State.firstUe_part hu (Nat.le_refl _) (by omega))⟩

/-- The slot takes the words of its table. -/
theorem fuTabRun_loads (hu : s.firstUe t (fuA d) (tabBytes (s.words t (fuA d) 16)) = none) :
    (fuTabRun t s f d).1.Canonical ∧ ((fuTabRun t s f d).1.tile t).fu =
      mapPut (s.tile t).fu (fuSlot d) (s.words t (fuA d) (tabBytes (s.words t (fuA d) 16) / 4)) := by
  have hn : 64 ≤ tabBytes (s.words t (fuA d) 16) := Nat.le_add_right ..
  have hpart : s.firstUe t (fuA d + 64) (tabBytes (s.words t (fuA d) 16) - 64) = none :=
    State.firstUe_part hu (by omega) (by omega)
  simp only [fuTabRun, hpart, Option.map_none, Option.isSome_none, Bool.false_eq_true, if_false]
  have hm := meets_meetReads s t 4 (dGen d) [(fuA d + 64, tabBytes (s.words t (fuA d) 16) - 64)] none
  refine ⟨(hm.canon hc).onTile t _, ?_⟩
  rw [State.onTile_tile (hm.canon hc), hm.fu hc]

end

theorem exec_fuLoadtab_runs {s : State} {t : Site} {e : QEntry} (h : s.Heads t 4 e) (ho : dOpc e.desc = 1)
    (hx : fuTabCheck s t e.desc = none) : exec (.fuLoadtab t) s = .next
      ((fuTabRun t (fuTabPre t s e.desc) (InFlight.start s t e) e.desc).1.launch t 4
        (fuTabRun t (fuTabPre t s e.desc) (InFlight.start s t e) e.desc).2) := by
  change execFuLoadtab t s = _
  exact engine_runs h (decide_eq_true ho) hx

/-- Settles O42: without a table the FU is the identity, and LOADTAB's slot holds its table's words. -/
theorem functionTables : Obligations.FunctionTables := by
  intro s t e rest v hc
  refine ⟨fun hv => ?_, fun hl hopen hfl he hctl hopc hchk hue => ?_⟩
  · simp only [fuEvalAt, hv, Bool.false_eq_true, if_false, and_self]
  · have heads : s.Heads t 4 e := ⟨hl, hopen, hfl, ⟨rest, he⟩, hctl⟩
    refine ⟨_, exec_fuLoadtab_runs heads hopc hchk, ?_⟩
    obtain ⟨hm, hno⟩ := fuTabPre_reads hc hue
    have hw : ∀ n, (fuTabPre t s e.desc).words t (fuA e.desc) n = s.words t (fuA e.desc) n :=
      fun n => State.words_of_mem (hm.mem hc) t _ n
    obtain ⟨hcan, hfu⟩ := fuTabRun_loads (hm.canon hc) (d := e.desc) (InFlight.start s t e) (by rw [hw]; exact hno.firstUe hue)
    rw [hw, hw] at hfu
    rw [State.fuTab, State.launch_fu hcan, hfu, find_mapPut]
    rfl

end Sys2Proof.Machine
end

section
/-!
PROOFS. What an engine command writes: none of memory but the extents of its results (R46, R152).
-/
namespace Sys2Proof.Machine

/-- s' is s after work of tile t whose writes of its store all lie in the extents out (offset, bytes). -/
structure Writes (t : Site) (out : List (Nat × Nat)) (s s' : State) : Prop where
  canon : s'.Canonical
  bytes : ∀ x, (∀ r ∈ out, x < storeAddr t r.1 ∨ storeAddr t r.1 + r.2 ≤ x) → s'.byte x = s.byte x

section
variable {t : Site} {out : List (Nat × Nat)} {s s' s'' : State}

theorem Writes.refl (hc : s.Canonical) : Writes t out s s := ⟨hc, fun _ _ => rfl⟩

theorem Writes.trans (h : Writes t out s s') (k : Writes t out s' s'') : Writes t out s s'' :=
  ⟨k.canon, fun x hx => (k.bytes x hx).trans (h.bytes x hx)⟩

theorem Writes.of_mem (hc : s'.Canonical) (h : s'.mem = s.mem) : Writes t out s s' := ⟨hc, fun x _ => State.byte_of_mem h x⟩

theorem writes_foldl {α : Type} {f : State → α → State} {l : List α} (hf : ∀ u, u.Canonical → ∀ a ∈ l, Writes t out u (f u a))
    (hc : s.Canonical) : Writes t out s (l.foldl f s) := by
  induction l generalizing s with
  | nil => exact .refl hc
  | cons a l ih =>
    have h1 := hf s hc a (.head l)
    exact h1.trans (ih (fun u hu b hb => hf u hu b (.tail a hb)) h1.canon)

/-- A write within an extent. -/
theorem writes_writeStore (hc : s.Canonical) {off : Nat} {bs : List Byte} (g : Nat)
    (hin : ∃ r ∈ out, r.1 ≤ off ∧ off + bs.length ≤ r.1 + r.2) : Writes t out s (s.writeStore t off bs g) := by
  refine ⟨State.writeStore_canonical hc t off bs g, fun x hx => ?_⟩
  by_cases hb : bs = []
  · rw [hb]; rfl
  · obtain ⟨r, hr, hlo, hhi⟩ := hin
    refine State.writeStore_sameOutside hc t off hb g x ?_
    have := hx r hr
    simp only [storeAddr] at this ⊢
    omega

theorem Meets.writes (h : Meets t s s') (hc : s.Canonical) : Writes t out s s' := .of_mem (h.canon hc) (h.mem hc)

end

/-! ### Rows and scale bytes of a matrix (R81, R152) -/

theorem packBits_length (n : Nat) (cs : List (Nat × Nat)) : (packBits n cs).length = n := leBytes_length _ _

theorem packRow_length (c : Nat) (codes : List Nat) : (packRow c codes).length = rowBytes c codes.length := packBits_length _ _

theorem rowBytes_mono (c : Nat) {m n : Nat} (h : m ≤ n) : rowBytes c m ≤ rowBytes c n := by
  unfold rowBytes
  split
  · omega
  · exact Nat.div_le_div_right (Nat.add_le_add_right (Nat.mul_le_mul_right _ h) _)

theorem rowBytes_le_pitch (m : Mat) : rowBytes m.fmt m.len ≤ m.pitch := by
  unfold Mat.pitch pitchOf
  omega

/-- Row r of a matrix lies in its extent. -/
theorem Mat.row_le (m : Mat) {r n : Nat} (hr : r < m.rows) (hn : n ≤ m.pitch) : m.rowOff r + n ≤ m.base + m.rows * m.pitch := by
  have : (r + 1) * m.pitch ≤ m.rows * m.pitch := Nat.mul_le_mul_right _ hr
  rw [Nat.add_mul, Nat.one_mul] at this
  unfold Mat.rowOff
  omega

theorem Mat.rows_le_extent (m : Mat) : m.rows * m.pitch ≤ m.extent := Nat.le_add_right _ _

section
variable {t : Site} {out : List (Nat × Nat)} {s : State} {m : Mat} (hc : s.Canonical) (hm : (m.base, m.extent) ∈ out)
include hc hm

theorem writes_writeCodes {r : Nat} (hr : r < m.rows) {codes : List Nat} (hn : codes.length ≤ m.len) (g : Nat) :
    Writes t out s (s.writeCodes t m r codes g) := by
  refine writes_writeStore hc g ⟨_, hm, ?_, ?_⟩
  · exact Nat.le_add_right _ _
  · have hlen : (if codes.length = m.len then packRow m.fmt codes
        else (packRow m.fmt codes).take (codes.length * fmtBits m.fmt / 8)).length ≤ m.pitch := by
      refine Nat.le_trans (Nat.le_trans ?_ (rowBytes_mono m.fmt hn)) (rowBytes_le_pitch m)
      split
      · exact Nat.le_of_eq (packRow_length _ _)
      · rw [List.length_take, packRow_length]; exact Nat.min_le_right _ _
    exact Nat.le_trans (m.row_le hr hlen) (Nat.add_le_add_left m.rows_le_extent _)

theorem writes_writeRows (codes : List Nat) (g : Nat) : Writes t out s (s.writeRows t m codes g) := by
  refine writes_foldl (fun u hu r hr => ?_) hc
  dsimp only
  split
  · exact .refl hu
  · exact writes_writeCodes hu hm (List.mem_range.1 hr) (by rw [List.length_take]; exact Nat.min_le_left _ _) g

theorem writes_writeScales {sbs : List Nat} (hn : isScaled m.fmt = true → sbs.length ≤ m.rows * scalesPerRow m.len) (g : Nat) :
    Writes t out s (s.writeScales t m sbs g) := by
  unfold State.writeScales
  split
  · next hs =>
    refine writes_writeStore hc g ⟨_, hm, Nat.le_add_right _ _, ?_⟩
    have hsb := hn hs
    rw [List.length_map, Mat.extent, if_pos hs]
    omega
  · exact .refl hc

end

end Sys2Proof.Machine
end

section
/-!
PROOFS. Work of a network interface that changes nothing but the NI itself.
-/
namespace Sys2Proof.Machine

/-- s' differs from a canonical s in the NI of tile t at most. -/
def NiOnly (t : Site) (s s' : State) : Prop := s.Canonical → ∃ n, s' = s.onNi t (fun _ => n)

section
variable {t : Site} {s s' s'' : State}

theorem NiOnly.refl (t : Site) (s : State) : NiOnly t s s := fun hc => ⟨s.ni t, (State.onNi_self hc t rfl).symm⟩

theorem niOnly_onNi (s : State) (t : Site) (f : Ni → Ni) : NiOnly t s (s.onNi t f) := fun _ => ⟨f (s.ni t), rfl⟩

theorem NiOnly.onNi (h : NiOnly t s s') (f : Ni → Ni) : NiOnly t s (s'.onNi t f) := fun hc => by
  obtain ⟨n, rfl⟩ := h hc
  exact ⟨_, State.onNi_onNi hc ..⟩

theorem NiOnly.canon (h : NiOnly t s s') (hc : s.Canonical) : s'.Canonical := by obtain ⟨n, rfl⟩ := h hc; exact hc.onNi t _

theorem NiOnly.trans (h : NiOnly t s s') (k : NiOnly t s' s'') : NiOnly t s s'' := fun hc => by
  obtain ⟨n, rfl⟩ := k (h.canon hc)
  exact h.onNi _ hc

theorem NiOnly.mem (h : NiOnly t s s') (hc : s.Canonical) : s'.mem = s.mem := by obtain ⟨n, rfl⟩ := h hc; rfl
theorem NiOnly.sreg (h : NiOnly t s s') (hc : s.Canonical) : s'.sreg = s.sreg := by obtain ⟨n, rfl⟩ := h hc; rfl
theorem NiOnly.rest (h : NiOnly t s s') (hc : s.Canonical) : s' = { s with tiles := s'.tiles } := by
  obtain ⟨n, rfl⟩ := h hc; rfl
theorem NiOnly.tile (h : NiOnly t s s') (hc : s.Canonical) : s'.tile t = { s.tile t with ni := s'.ni t } := by
  obtain ⟨n, rfl⟩ := h hc
  rw [State.onNi_ni hc, State.onNi_tile hc]
theorem NiOnly.other (h : NiOnly t s s') (hc : s.Canonical) (u : Site) (hu : u.key ≠ t.key) : s'.tile u = s.tile u := by
  obtain ⟨n, rfl⟩ := h hc
  exact State.onTile_tile_other hu _
theorem NiOnly.core (h : NiOnly t s s') (hc : s.Canonical) : s'.core t = s.core t := by
  rw [State.core, h.tile hc]; rfl
theorem NiOnly.queue (h : NiOnly t s s') (hc : s.Canonical) (q : Nat) : s'.queue t q = s.queue t q := by
  rw [State.queue, h.tile hc]; rfl
theorem NiOnly.creg (h : NiOnly t s s') (hc : s.Canonical) (a : Nat) : s'.creg t a = s.creg t a := by
  rw [State.creg, h.tile hc]; rfl
theorem NiOnly.loam (h : NiOnly t s s') (hc : s.Canonical) : (s'.tile t).loam = (s.tile t).loam := by rw [h.tile hc]
theorem NiOnly.cache (h : NiOnly t s s') (hc : s.Canonical) : (s'.tile t).cache = (s.tile t).cache := by rw [h.tile hc]
theorem NiOnly.info (h : NiOnly t s s') (hc : s.Canonical) : (s'.tile t).info = (s.tile t).info := by rw [h.tile hc]

end

section
variable (s : State) (t : Site)

theorem niOnly_niSend (g : Grain) : NiOnly t s (s.niSend t g) := niOnly_onNi s t _
theorem niOnly_onTx (p : TxConn → Bool) (f : TxConn → TxConn) : NiOnly t s (s.onTx t p f) := niOnly_onNi s t _
theorem niOnly_onPort (p : Nat) (f : PortRt → PortRt) : NiOnly t s (s.onPort t p f) := niOnly_onNi s t _
theorem niOnly_sendItem (c : Nat) (bs : List Byte) : NiOnly t s (s.sendItem t c bs) := niOnly_onTx s t _ _

theorem niOnly_emitPair (u : Site) (gs : List (Nat × Bool × Payload)) : NiOnly t s (s.emitPair t u gs) := by
  unfold State.emitPair
  dsimp only
  split
  · exact niOnly_onTx s t _ _
  · exact (niOnly_onNi s t _).trans (niOnly_onTx _ t _ _)

theorem niOnly_mirrorPoint (k : Nat) (bs : List Byte) : NiOnly t s (s.mirrorPoint t k bs) := by
  unfold State.mirrorPoint
  split
  · dsimp only
    split
    · exact (niOnly_onNi s t _).trans (niOnly_niSend _ t _)
    · exact (niOnly_onNi s t _).onNi _
  · exact .refl t s

theorem niOnly_settleClose (p : Nat) : NiOnly t s (s.settleClose t p) := by
  unfold State.settleClose
  split
  · split
    · exact niOnly_onNi s t _
    · exact .refl t s
  · exact .refl t s

theorem niOnly_releaseItems (p n : Nat) : NiOnly t s (s.releaseItems t p n) := by
  unfold State.releaseItems
  split
  · exact .refl t s
  · dsimp only
    split
    · exact ((niOnly_onPort s t p _).trans (niOnly_niSend _ t _)).trans (niOnly_settleClose _ t p)
    · exact niOnly_onPort s t p _

end

end Sys2Proof.Machine
end

section
/-!
PROOFS. Engine commands whose checks pass: they start, and of memory write the extents of their results alone.
-/
namespace Sys2Proof.Machine

/-! ### Units and their results -/

section
variable {α : Type} (size : α → Nat) (f : Nat × Nat × Nat → Except Detected (α × Nat))

/-- One unit more of a collection. -/
def collectStep (a : List α × Nat × Option Detected × Nat) (u : Nat × Nat × Nat) : List α × Nat × Option Detected × Nat :=
  match a with
  | (xs, fl, none, k) => match f u with
    | .ok (x, g) => (x :: xs, fl ||| g, none, k + size x)
    | .error d => (xs, fl, some { d with progress := k }, k)
  | a => a

theorem collectU_eq (us : List (Nat × Nat × Nat)) :
    (collectU size f us).1 = (us.foldl (collectStep size f) ([], 0, none, 0)).1.reverse := rfl

/-- After a fault nothing more is collected. -/
theorem collectStep_stops (us : List (Nat × Nat × Nat)) (xs : List α) (fl : Nat) (d : Detected) (k : Nat) :
    us.foldl (collectStep size f) (xs, fl, some d, k) = (xs, fl, some d, k) := by
  induction us with
  | nil => rfl
  | cons u us ih => exact ih

theorem collectStep_collects (us : List (Nat × Nat × Nat)) (ys : List α) (fl k : Nat) : ∃ rs : List α,
    (us.foldl (collectStep size f) (ys, fl, none, k)).1 = rs.reverse ++ ys ∧ rs.length ≤ us.length ∧
      ∀ x ∈ us.zip rs, ∃ g, f x.1 = .ok (x.2, g) := by
  induction us generalizing ys fl k with
  | nil => exact ⟨[], rfl, Nat.le_refl _, by simp⟩
  | cons u us ih =>
    cases hu : f u with
    | error d =>
      refine ⟨[], ?_, Nat.zero_le _, by simp⟩
      rw [List.foldl_cons, show collectStep size f (ys, fl, none, k) u = (ys, fl, some { d with progress := k }, k) by
        simp only [collectStep, hu], collectStep_stops]
      rfl
    | ok r =>
      obtain ⟨x, g⟩ := r
      obtain ⟨rs, hr, hlen, hall⟩ := ih (x :: ys) (fl ||| g) (k + size x)
      refine ⟨x :: rs, ?_, Nat.succ_le_succ hlen, fun y hy => ?_⟩
      · rw [List.foldl_cons, show collectStep size f (ys, fl, none, k) u = (x :: ys, fl ||| g, none, k + size x) by
          simp only [collectStep, hu], hr, List.reverse_cons, List.append_assoc, List.singleton_append]
      · rw [List.zip_cons_cons, List.mem_cons] at hy
        rcases hy with rfl | hy
        · exact ⟨g, hu⟩
        · exact hall y hy

/-- The results of a collection are those of its first units, in their order. -/
theorem collectU_results (us : List (Nat × Nat × Nat)) : (collectU size f us).1.length ≤ us.length ∧
    ∀ x ∈ us.zip (collectU size f us).1, ∃ g, f x.1 = .ok (x.2, g) := by
  obtain ⟨rs, hr, hlen, hall⟩ := collectStep_collects size f us [] 0 0
  rw [collectU_eq, hr, List.append_nil, List.reverse_reverse]
  exact ⟨hlen, hall⟩

end

theorem unitsOf_length (rows len u : Nat) : (unitsOf rows len u).length = rows * ((len + u - 1) / u) := by
  simp only [unitsOf, List.length_flatMap, List.length_map, List.length_range, List.map_const', List.sum_replicate_nat]

theorem mem_unitsOf {rows len u : Nat} {x : Nat × Nat × Nat} (h : x ∈ unitsOf rows len u) :
    x.1 < rows ∧ ∃ b, b < (len + u - 1) / u ∧ x.2.1 = b * u := by
  simp only [unitsOf, List.mem_flatMap, List.mem_map, List.mem_range] at h
  obtain ⟨r, hr, b, hb, rfl⟩ := h
  exact ⟨hr, b, hb, rfl⟩

/-! ### Checks -/

theorem firstFail_none {l : List (Bool × Detected)} : firstFail l = none ↔ ∀ e ∈ l, e.1 = false := by
  simp only [firstFail, Option.map_eq_none_iff, List.find?_eq_none, Bool.not_eq_true]

/-- A command of the SU whose checks pass: neither of its formats, nor its shape, was refused. -/
theorem suCheck_none {s : State} {t : Site} {d : Desc} {db ab cb : Bool} {more : List (Bool × Detected)} {na nc : Nat}
    (h : suCheck s t d db ab cb more na nc = none) : cb = false ∧ ∀ e ∈ more, e.1 = false := by
  have h' := firstFail_none.1 h
  simp only [formatChecks, List.mem_append] at h'
  refine ⟨h' (cb, det ecFormat 2 (suC d)) ?_, fun e he => h' e ?_⟩
  · exact .inl (.inl (.inl (.inr (.inl (by simp)))))
  · exact .inl (.inl (.inr he))

/-! ### Starting -/

section
variable {s : State} {t : Site} {q : Nat} {e : QEntry} {out : List (Nat × Nat)}

theorem engine_writes {name : String} {opc : Nat → Bool} {o : EngineOp} (h : s.Heads t q e) (ho : opc (dOpc e.desc) = true)
    (hx : o.check s e.desc = none)
    (hw : Writes t out s (o.run (o.pre s e.desc) (InFlight.start s t e) e.desc).1) : ∃ s', engine name q t opc o s = .next s' ∧
      ∀ x, (∀ r ∈ out, x < storeAddr t r.1 ∨ storeAddr t r.1 + r.2 ≤ x) → s'.byte x = s.byte x :=
  ⟨_, engine_runs h ho hx, hw.bytes⟩

/-- Reads, then rows and scale bytes of one matrix: the work of every command with a dense result. -/
theorem writes_matrix (hc : s.Canonical) {m : Mat} (hm : (m.base, m.extent) ∈ out) {q g : Nat} {rs : List (Nat × Nat)}
    {x : Option Detected} (codes : List Nat) {sbs : List Nat} (hn : isScaled m.fmt = true → sbs.length ≤ m.rows * scalesPerRow m.len) :
    Writes t out s (((s.meetReads t q g rs x).writeRows t m codes g).writeScales t m sbs g) := by
  have h1 := (meets_meetReads s t q g rs x).writes (out := out) hc
  have h2 := writes_writeRows (t := t) h1.canon hm codes g
  exact (h1.trans h2).trans (writes_writeScales h2.canon hm hn g)

theorem scales_le {α : Type} (size : α × Nat → Nat) (g : Nat × Nat × Nat → Except Detected ((α × Nat) × Nat)) (m : Mat)
    {u : Nat} (hs : isScaled m.fmt = true → u = 32) : isScaled m.fmt = true →
    ((collectU size g (unitsOf m.rows m.len u)).1.map (fun r => r.2)).length ≤ m.rows * scalesPerRow m.len := fun h => by
  have hlen := (collectU_results size g (unitsOf m.rows m.len u)).1
  rw [unitsOf_length] at hlen
  rw [List.length_map]
  exact Nat.le_trans hlen (Nat.le_of_eq (by rw [hs h]; rfl))

section
variable (hc : s.Canonical) {f : InFlight} {d : Desc}
include hc

theorem veRun_writes : Writes t [(veC d, (veMatC d).extent)] s (veRun t s f d).1 := by
  have h1 := fun rs x => (meets_meetReads s t 1 (dGen d) rs x).writes (out := [(veC d, (veMatC d).extent)]) hc
  exact (h1 _ _).trans (writes_writeRows (m := veMatC d) (h1 _ _).canon (.head _) _ _)

theorem suConvertRun_writes : Writes t [(suC d, (suMatC d).extent)] s (suConvertRun t s f d).1 :=
  writes_matrix hc (m := suMatC d) (.head _) _ (scales_le _ _ (suMatC d) (fun h => if_pos h))

theorem suPruneRun_writes (hf : dFC d = dFA d) : Writes t [(suC d, (suMatC d).extent)] s (suPruneRun t s f d).1 :=
  writes_matrix hc (m := suMatC d) (.head _) _ (scales_le _ _ (suMatC d) (fun h => if_pos (show isScaled (dFA d) = true by rw [← hf]; exact h)))

theorem txRun_writes : Writes t [(txC d, (txMatC d).extent)] s (txRun t s f d).1 :=
  writes_matrix hc (m := txMatC d) (.head _) _ (scales_le _ _ (txMatC d) (fun h => if_pos h))

theorem fuEvalRun_writes (hC : (fuC d, (fuMatC d).extent) ∈ out) (hX : fuMode d = 1 → (fuX d, (fuMatX d).extent) ∈ out) :
    Writes t out s (fuEvalRun t s f d).1 := by
  have h1 := fun rs x => (meets_meetReads s t 4 (dGen d) rs x).writes (out := out) hc
  have h2 := fun rs x codes => (h1 rs x).trans (writes_writeRows (m := fuMatC d) (h1 rs x).canon hC codes (dGen d))
  simp only [fuEvalRun]
  split
  · next hm => exact (h2 _ _ _).trans (writes_writeRows (m := fuMatX d) (h2 _ _ _).canon (hX hm) _ _)
  · exact h2 _ _ _

theorem fuTabRun_writes : Writes t out s (fuTabRun t s f d).1 := by
  have h1 := fun rs x => (meets_meetReads s t 4 (dGen d) rs x).writes (out := out) hc
  simp only [fuTabRun]
  split
  · exact h1 _ _
  · exact (h1 _ _).trans (.of_mem ((h1 _ _).canon.onTile t _) rfl)

end

end

end Sys2Proof.Machine
end

section
/-!
PROOFS. Sparse images: COMPRESS and DECOMPRESS write the extents of their results alone (R201 to R204, R217, R219).
-/
namespace Sys2Proof.Machine

/-! ### Where the parts of an image lie (R202, R203) -/

section
variable (m : Img) {i j r : Nat} (hi : i < m.br) (hj : j < m.bc)
include hi hj

/-- Block (i, j) lies in the image. -/
theorem Img.blk_le : m.blkOff i j + m.bs ≤ m.base + m.extent := by
  have h1 : i * m.bc + j + 1 ≤ m.br * m.bc := by
    have := Nat.mul_le_mul_right m.bc hi
    rw [Nat.succ_mul] at this
    omega
  have h2 := Nat.mul_le_mul_right m.bs h1
  rw [Nat.add_mul (i * m.bc + j), Nat.one_mul] at h2
  unfold Img.blkOff Img.extent
  omega

variable (hr : r < 64)
include hr

theorem Img.val_le : m.valOff i j r + m.vrow ≤ m.base + m.extent := by
  have h1 := m.blk_le hi hj
  have h2 := Nat.mul_le_mul_right m.vrow hr
  rw [Nat.succ_mul] at h2
  unfold Img.bs at h1
  unfold Img.valOff
  omega

theorem Img.code_le : m.codeOff i j r + m.crow ≤ m.base + m.extent := by
  have h1 := m.blk_le hi hj
  have h2 := Nat.mul_le_mul_right m.crow hr
  rw [Nat.succ_mul] at h2
  unfold Img.bs at h1
  unfold Img.codeOff
  omega

theorem Img.scl_le (hs : isScaled m.fmt = true) : m.sclOff i j r + 1 ≤ m.base + m.extent := by
  have h1 := m.blk_le hi hj
  rw [Img.bs, if_pos hs] at h1
  unfold Img.sclOff
  omega

end

theorem Img.base_le_blk (m : Img) (i j : Nat) : m.base ≤ m.blkOff i j := by unfold Img.blkOff; omega

/-- The header of block b lies in the image. -/
theorem Img.hdr_le (m : Img) {b : Nat} (hb : b < m.br * m.bc) : m.hdrOff (b / m.bc) (b % m.bc) + 8 ≤ m.base + m.extent := by
  have h1 : b / m.bc * m.bc + b % m.bc = b := by rw [Nat.mul_comm]; exact Nat.div_add_mod b m.bc
  have h2 : m.head ≤ m.extent := Nat.le_add_right _ _
  unfold Img.head at h2
  unfold Img.hdrOff
  omega

theorem Img.head_le (m : Img) : 8 ≤ m.extent := by unfold Img.extent Img.head; omega

/-! ### COMPRESS (R217) -/

section
variable {s : State} {t : Site} {out : List (Nat × Nat)} (hc : s.Canonical) {m : Img} (hm : (m.base, m.extent) ∈ out)
include hc hm

/-- A block row stored into its image. -/
theorem writes_putPacked {r j : Nat} (hr : r / 64 < m.br) (hj : j < m.bc) (g : Nat) (p : PackedRow) :
    Writes t out s (s.putPacked t m r j g p) := by
  have hb := m.base_le_blk (r / 64) j
  have hmod : r % 64 < 64 := Nat.mod_lt _ (by decide)
  have part : ∀ {u : State}, u.Canonical → ∀ {off : Nat} {bs : List Byte}, m.base ≤ off → off + bs.length ≤ m.base + m.extent →
      Writes t out u (u.writeStore t off bs g) := fun hu _ _ hlo hhi => writes_writeStore hu g ⟨_, hm, hlo, hhi⟩
  have h1 := part hc (off := m.valOff (r / 64) j (r % 64))
    (bs := packBits m.vrow ((p.slots.map (fun e => e.2)).zipIdx.map (fun e => (fmtBits m.fmt * e.2, e.1))))
    (by unfold Img.valOff; omega) (by rw [packBits_length]; exact m.val_le hr hj hmod)
  have h2 := h1.trans (part h1.canon (off := m.codeOff (r / 64) j (r % 64))
    (bs := packBits m.crow ((p.slots.map (fun e => e.1)).zipIdx.map (fun e => (codeBits m.kn * e.2, e.1))))
    (by unfold Img.codeOff; omega) (by rw [packBits_length]; exact m.code_le hr hj hmod))
  simp only [State.putPacked]
  split
  · next hs =>
    exact h2.trans (part h2.canon (by unfold Img.sclOff; omega) (by
      rw [List.length_singleton]
      exact m.scl_le hr hj hmod hs))
  · exact h2

theorem writes_zeroed (g : Nat) : Writes t out s (s.writeStore t m.base (List.replicate m.extent 0) g) :=
  writes_writeStore hc g ⟨_, hm, Nat.le_refl _, Nat.le_of_eq (by rw [List.length_replicate])⟩

/-- Block rows of an image stored, each where its unit says. -/
theorem writes_packedRows {us : List (Nat × Nat × Nat)} (hus : ∀ u ∈ us, u.1 / 64 < m.br ∧ u.2.1 / 64 < m.bc) (rs : List PackedRow)
    (g : Nat) : Writes t out s ((us.zip rs).foldl (fun s x => s.putPacked t m x.1.1 (x.1.2.1 / 64) g x.2) s) := by
  refine writes_foldl (fun u hu x hx => ?_) hc
  obtain ⟨hr, hj⟩ := hus x.1 (List.of_mem_zip (a := x.1) (b := x.2) hx).1
  exact writes_putPacked hu hm hr hj g x.2

/-- The block headers, then the header of the image. -/
theorem writes_headers (n : Nat → Nat) (h g : Nat) : Writes t out s (((List.range (m.br * m.bc)).foldl (fun s b =>
    s.writeStore t (m.hdrOff (b / m.bc) (b % m.bc)) (leBytes 8 (n b)) g) s).writeStore t m.base (leBytes 8 h) g) := by
  have h1 : Writes t out s ((List.range (m.br * m.bc)).foldl (fun s b =>
      s.writeStore t (m.hdrOff (b / m.bc) (b % m.bc)) (leBytes 8 (n b)) g) s) :=
    writes_foldl (fun v hv b hb => writes_writeStore hv _ ⟨_, hm, by unfold Img.hdrOff; omega, by
      rw [leBytes_length]; exact m.hdr_le (List.mem_range.1 hb)⟩) hc
  exact h1.trans (writes_writeStore h1.canon _ ⟨_, hm, Nat.le_refl _, by
    rw [leBytes_length]; exact Nat.add_le_add_left m.head_le _⟩)

end

/-- The units of a matrix stand in the blocks of its image. -/
theorem suImg_units {d : Desc} : ∀ u ∈ unitsOf (suMatA d).rows (suMatA d).len 64,
    u.1 / 64 < (suImg d (suC d)).br ∧ u.2.1 / 64 < (suImg d (suC d)).bc := by
  intro u hu
  obtain ⟨hr, b, hb, he⟩ := mem_unitsOf hu
  simp only [Img.br, Img.bc, suImg, suMatA] at hr hb ⊢
  omega

section
variable {s : State} {t : Site} (hc : s.Canonical) {f : InFlight} {d : Desc}
include hc

/-- The image of COMPRESS is zeroed, filled and given its headers, all within its extent. -/
theorem suCompressRun_writes : Writes t [(suC d, (suImg d (suC d)).extent)] s (suCompressRun t s f d).1 := by
  have hm : ((suImg d (suC d)).base, (suImg d (suC d)).extent) ∈ [(suC d, (suImg d (suC d)).extent)] := .head _
  obtain ⟨rs, fl, x, hrun⟩ : ∃ rs fl x, (collectU (fun r => r.slots.length) (compressUnit s t f d)
      (unitsOf (suMatA d).rows (suMatA d).len 64)) = (rs, fl, x) := ⟨_, _, _, rfl⟩
  have h1 := (meets_meetReads s t 2 (dGen d) (suMatA d).ranges x).writes (out := [(suC d, (suImg d (suC d)).extent)]) hc
  simp only [suCompressRun, hrun]
  cases x with
  | none =>
    have h2 := h1.trans (writes_zeroed h1.canon hm (dGen d))
    have h3 := h2.trans (writes_packedRows h2.canon hm suImg_units rs (dGen d))
    exact h3.trans (writes_headers h3.canon hm _ _ _)
  | some d' => exact h1.trans (writes_packedRows h1.canon hm suImg_units rs (dGen d))

end

/-! ### DECOMPRESS (R219) -/

/-- Whole segments of 64 elements before a part of a row leave it room. -/
theorem segment_le (c j n len : Nat) (h : 64 * j + n ≤ len) : elemBit c (64 * j) / 8 + rowBytes c n ≤ rowBytes c len := by
  refine Nat.le_trans (Nat.le_of_eq ?_) (rowBytes_mono c h)
  unfold elemBit rowBytes
  split
  · omega
  · rw [Nat.add_mul, Nat.mul_assoc 64]
    omega

section
variable {s : State} {t : Site} {out : List (Nat × Nat)} (hc : s.Canonical) {c : Mat} (hm : (c.base, c.extent) ∈ out)
include hc hm

/-- A segment of a row, and its scale bytes. -/
theorem writes_putSegment {r j : Nat} (hr : r < c.rows) {codes : List Nat} (hj : 64 * j + codes.length ≤ c.len) (g sb : Nat) :
    Writes t out s (s.putSegment t c r j g codes sb) := by
  have hseg := segment_le c.fmt j codes.length c.len hj
  have hrow := c.row_le hr (Nat.le_trans hseg (rowBytes_le_pitch c))
  have h1 : Writes t out s (s.writeStore t (c.rowOff r + elemBit c.fmt (64 * j) / 8) (packRow c.fmt codes) g) :=
    writes_writeStore hc g ⟨_, hm, by unfold Mat.rowOff; omega, by
      have := c.rows_le_extent
      rw [packRow_length]
      omega⟩
  simp only [State.putSegment]
  split
  · next hs =>
    refine h1.trans (writes_writeStore h1.canon g ⟨_, hm, by unfold Mat.scaleOff; omega, ?_⟩)
    have hspr := Nat.mul_le_mul_right (scalesPerRow c.len) hr
    rw [Nat.succ_mul] at hspr
    have hin : 64 * j / 32 + (codes.length + 31) / 32 ≤ scalesPerRow c.len := by unfold scalesPerRow; omega
    rw [List.length_replicate, Mat.extent, if_pos hs]
    unfold Mat.scaleOff
    omega
  · exact h1

end

theorem mem_imgOrder {m : Img} {u : Nat × Nat × Nat} (h : u ∈ imgOrder m) : 64 * u.1 + u.2.2 < m.rows ∧ u.2.1 < m.bc := by
  simp only [imgOrder, List.mem_flatMap, List.mem_map, List.mem_range] at h
  obtain ⟨i, hi, j, hj, r, hr, rfl⟩ := h
  unfold Img.br at hi
  dsimp only
  omega

/-- What one block row expands to lies in its row. -/
theorem decompressUnit_length {s : State} {t : Site} {st : Bool} {m : Img} {u : Nat × Nat × Nat} {x : List Nat × BlkRow} {g : Nat}
    (h : decompressUnit s t st m u = .ok (x, g)) : x.1.length = min 64 (m.len - 64 * u.2.1) := by
  have hx : ∃ b, x.1 = expandRow m u.2.1 b := by
    simp only [decompressUnit] at h
    split at h
    · cases h
    · cases h
    · split at h
      · cases h
      · next b _ =>
        cases h
        exact ⟨b, rfl⟩
  obtain ⟨b, hb⟩ := hx
  rw [hb, expandRow, List.length_map, List.length_range]

/-- The checks of DECOMPRESS pass only for an image of the descriptor's shape. -/
theorem suDecompressCheck_shape {s : State} {t : Site} {d : Desc} (h : suDecompressCheck s t d = none) :
    (imgOf (suA d) (s.imgHeader t (suA d))).rows = suR d ∧ (imgOf (suA d) (s.imgHeader t (suA d))).len = suL d := by
  unfold suDecompressCheck at h
  dsimp only at h
  split at h
  · cases h
  · split at h
    · cases h
    · have hs := (suCheck_none h).2 _ (.head _)
      simp only [Bool.or_eq_false_iff, decide_eq_false_iff_not, ne_eq, Classical.not_not] at hs
      exact hs.1

section
variable {s : State} {t : Site} (hc : s.Canonical) {f : InFlight} {d : Desc}
include hc

omit hc in
theorem imgPre_meets (q base g : Nat) : Meets t s (imgPre t q base g s) := by
  unfold imgPre
  split
  · exact .refl t s
  · exact meets_meetReads ..

theorem suDecompressRun_writes (hrows : (imgOf (suA d) (s.imgHeader t (suA d))).rows = suR d)
    (hlen : (imgOf (suA d) (s.imgHeader t (suA d))).len = suL d) :
    Writes t [(suC d, (suMatC d).extent)] s (suDecompressRun t s f d).1 := by
  have hm : ((suMatC d).base, (suMatC d).extent) ∈ [(suC d, (suMatC d).extent)] := .head _
  simp only [suDecompressRun]
  generalize imgOf (suA d) (s.imgHeader t (suA d)) = m at hrows hlen ⊢
  have hres := (collectU_results (fun r => r.1.length) (decompressUnit s t f.strict m) (imgOrder m)).2
  generalize collectU (fun r => r.1.length) (decompressUnit s t f.strict m) (imgOrder m) = rs at hres ⊢
  have h1 := (meets_meetReads s t 2 (dGen d) [(m.base + 64, m.extent - 64)] rs.2.2).writes (out := [(suC d, (suMatC d).extent)]) hc
  refine h1.trans (writes_foldl (fun u hu x hx => ?_) h1.canon)
  obtain ⟨hr, hj⟩ := mem_imgOrder (List.of_mem_zip (a := x.1) (b := x.2) hx).1
  obtain ⟨g, hg⟩ := hres x hx
  have hn := decompressUnit_length hg
  refine writes_putSegment hu hm ?_ ?_ _ _
  · show _ < suR d
    rw [← hrows]
    exact hr
  · show _ ≤ suL d
    rw [← hlen, hn]
    unfold Img.bc at hj
    omega

end

end Sys2Proof.Machine
end

section
/-!
PROOFS. Commands of the NI, of the TE and of the UE start; of memory none of them writes a byte as it does (R160, R184, R229 to R233).
-/
namespace Sys2Proof.Machine

section
variable {s : State} {t : Site} {out : List (Nat × Nat)}

theorem NiOnly.writes {s' : State} (h : NiOnly t s s') (hc : s.Canonical) : Writes t out s s' := .of_mem (h.canon hc) (h.mem hc)

variable (hc : s.Canonical)
include hc

theorem sendsNext_writes (f : InFlight) (k : Nat) : Writes t out s (sendsNext t s f k).1 := by
  have h1 := (meets_genCheck s t (sdA f.entry.desc + k * pitchOfItem (sdIgr f.entry.desc)) (32 * sdIgr f.entry.desc)
    (dGen f.entry.desc) 6).writes (out := out) hc
  have h2 := fun o n => h1.trans ((meets_eccRead _ t o n).writes h1.canon)
  unfold sendsNext
  dsimp only
  split
  · exact .refl hc
  · split
    · exact .refl hc
    · split
      · exact h2 _ _
      · exact (h2 _ _).trans (((niOnly_mirrorPoint _ t 4 _).trans (niOnly_sendItem _ t _ _)).writes (h2 _ _).canon)

theorem putNext_writes (f : InFlight) : Writes t out s (putNext t s f).1 := by
  unfold putNext
  dsimp only
  split
  · split
    · exact .refl hc
    · have h1 := fun o => (meets_genCheck s t o 64 (dGen f.entry.desc) 6).writes (out := out) hc
      have h2 := fun o => (h1 o).trans ((meets_eccRead _ t o 64).writes (h1 o).canon)
      split
      · exact h2 _
      · exact (h2 _).trans (((niOnly_mirrorPoint _ t 3 _).trans (niOnly_emitPair _ t _ _)).writes (h2 _).canon)
  · exact .refl hc

theorem getNext_writes (f : InFlight) : Writes t out s (getNext t s f).1 := by
  unfold getNext
  dsimp only
  split
  · split
    · exact .refl hc
    · exact (niOnly_emitPair s t _ _).writes hc
  · exact .refl hc

theorem recvOp_writes (f : InFlight) (d : Desc) : Writes t out s ((recvOp t).run s f d).1 := by
  have h1 := (niOnly_releaseItems s t (rcPort d) (rcFree d)).trans
    (niOnly_onPort _ t (rcPort d) (fun r => { r with target := r.target + rcCount d }))
  exact h1.writes hc

theorem teAccumulate_writes (q : Nat) (f : InFlight) (d : Desc) (b : BSource) : Writes t out s (teAccumulate t q s f d b).1 := by
  unfold teAccumulate
  refine List.foldlRecOn (motive := fun a : State × List SubTile × InFlight × Option Detected => Writes t out s a.1) (teOrder d) _ (Writes.refl hc) (fun a ha p _ => ?_)
  obtain ⟨u, tiles, f, x⟩ := a
  have hread := fun x => ha.trans ((meets_meetReads u t q (dGen d) (teReads u t d p.1 p.2) x).writes ha.canon)
  cases x with
  | some x => exact ha
  | none =>
    dsimp only
    split
    · next y _ => exact hread (some y)
    · exact hread none

theorem teRun_writes (f : InFlight) (d : Desc) : Writes t out s (teRun t s f d).1 := by
  unfold teRun
  split
  · exact .refl hc
  · exact teAccumulate_writes hc 0 f d _

theorem tePre_writes (d : Desc) : Writes t out s (tePre t s d) := by
  unfold tePre
  split
  · exact (imgPre_meets _ _ _).writes hc
  · exact .refl hc

end

/-- A head whose checks fail writes what its header read writes. -/
theorem EngineOp.start_fails_writes {s : State} {t : Site} {out : List (Nat × Nat)} {o : EngineOp} {q : Nat} {e : QEntry}
    {d : Detected} (hc : s.Canonical) (hpre : Writes t out s (o.pre s e.desc)) (hx : o.check s e.desc = some d) :
    ∀ x, (∀ r ∈ out, x < storeAddr t r.1 ∨ storeAddr t r.1 + r.2 ≤ x) → (o.start t q e s).byte x = s.byte x := by
  have hp : Writes t out s (if some d.cause = some ecDesc then s else o.pre s e.desc) := by
    split
    · exact .refl hc
    · exact hpre
  simp only [EngineOp.start, hx, Option.map_some]
  exact hp.bytes

/-- However a head's checks come out, it starts, and what it writes is what its header read and its work write. -/
theorem EngineOp.start_writes {s : State} {t : Site} {out : List (Nat × Nat)} {o : EngineOp} {q : Nat} {e : QEntry} (hc : s.Canonical)
    (hpre : Writes t out s (o.pre s e.desc)) (hrun : ∀ u f, u.Canonical → Writes t out u (o.run u f e.desc).1) :
    ∀ x, (∀ r ∈ out, x < storeAddr t r.1 ∨ storeAddr t r.1 + r.2 ≤ x) → (o.start t q e s).byte x = s.byte x := by
  cases hx : o.check s e.desc with
  | none =>
    rw [start_runs hx]
    exact (hpre.trans (hrun _ _ hpre.canon)).bytes
  | some d => exact start_fails_writes hc hpre hx

/-! ### TE_PRODUCT (R160, R161, R300) -/

/-- The UE's turn is over when the core's command starts; nothing that lets a queue start depends on it. -/
theorem heads_ueTurn {s : State} {t : Site} {q : Nat} {e : QEntry} (hc : s.Canonical) (h : s.Heads t q e) :
    (s.onTile t (fun x => { x with ueTurn := false })).Heads t q e := by
  have hq : (s.onTile t (fun x => { x with ueTurn := false })).queue t q = s.queue t q :=
    (congrArg (Tile.queue · q) (State.onTile_tile hc t _)).trans rfl
  have hopen : (s.onTile t (fun x => { x with ueTurn := false })).queueOpen t q = s.queueOpen t q := by
    rw [State.queueOpen, hq, State.cfld, State.creg, State.onTile_tile hc]
    rfl
  exact ⟨⟨h.live.tile, h.live.thawed⟩, hopen.trans h.opened, by rw [hq, h.idle], by rw [hq]; exact h.head, h.ctl⟩

theorem exec_teProduct_head {s : State} {t : Site} {e : QEntry} (hc : s.Canonical) (h : s.Heads t 0 e) (hi : s.issues t = true)
    (hu : s.uePending t = false ∨ (s.tile t).ueTurn = true) : ∃ s', exec (.teProduct t) s = .next s' ∧
      ∀ x, (∀ r ∈ ([] : List (Nat × Nat)), x < storeAddr t r.1 ∨ storeAddr t r.1 + r.2 ≤ x) → s'.byte x = s.byte x := by
  have hgo : ¬ (!s.issues t || (s.uePending t && !(s.tile t).ueTurn)) = true := by
    rw [hi]
    rcases hu with hu | hu <;> rw [hu] <;> simp
  obtain ⟨hl, hopen, hfl, ⟨rest, he⟩, hctl⟩ := heads_ueTurn hc h
  have hc1 := hc.onTile t (fun x => { x with ueTurn := false })
  have hw := EngineOp.start_writes hc1 (o := teOp t) (q := 0) (e := e) (out := []) (tePre_writes hc1 e.desc)
    (fun u f hu => teRun_writes hu f e.desc)
  refine ⟨_, ?_, hw⟩
  change execTeProduct t s = _
  rw [execTeProduct, if_neg hgo]
  refine (onTile_live hl).trans ?_
  rw [he]
  refine when_of ?_
  simp only [hopen, hfl, hctl, List.isEmpty_nil, Bool.true_or, Bool.and_true, decide_true]

/-! ### Every engine (O41) -/

/-- Settles O41: where the checks pass, a command starts, and writes memory only in the extents of its results. -/
theorem engineCommandsRun : Obligations.EngineCommandsRun := by
  intro s t e rest hc hl hctl d head runs
  have heads : ∀ {q}, head q → s.Heads t q e := fun ⟨hopen, hfl, he⟩ => ⟨hl, hopen, hfl, ⟨rest, he⟩, hctl⟩
  refine ⟨fun h hi hu => exec_teProduct_head hc (heads h) hi hu, fun h hx => ?_, fun h ho hx => ?_, fun h ho hx => ?_,
    fun h ho => ⟨fun hx => ?_, fun hx => ?_⟩, fun h ho hx => ?_, fun h ho hx => ?_, fun h ho hx => ?_, fun h ho hx => ?_,
    fun h ho => ?_, fun h ho hx => ?_, fun h ho hx => ?_, fun h ho hx => ?_, fun h ho hx => ?_, fun h ho hx => ?_, fun h ho hx => ?_,
    fun h ho hx => ?_, fun b h ho hx => ?_⟩
  · change ∃ s', execVeOperation t s = _ ∧ _
    exact engine_writes (heads h) rfl hx (veRun_writes hc)
  · change ∃ s', execSuConvert t s = _ ∧ _
    exact engine_writes (heads h) (by rw [ho]; rfl) hx (suConvertRun_writes hc)
  · change ∃ s', execSuCompress t s = _ ∧ _
    exact engine_writes (heads h) (decide_eq_true ho) hx (suCompressRun_writes hc)
  · have hm := (imgPre_meets (s := s) (t := t) 2 (suA d) (dGen d)).writes (out := []) hc
    obtain ⟨x, hx⟩ := Option.ne_none_iff_exists'.1 hx
    change ∃ s', execSuDecompress t s = _ ∧ _
    exact ⟨_, engine_starts _ (heads h) (decide_eq_true ho), EngineOp.start_fails_writes hc hm hx⟩
  · have hm := imgPre_meets (s := s) (t := t) 2 (suA d) (dGen d)
    obtain ⟨hrows, hlen⟩ := suDecompressCheck_shape hx
    have hh : (imgPre t 2 (suA d) (dGen d) s).imgHeader t (suA d) = s.imgHeader t (suA d) := by
      rw [State.imgHeader, State.bytes_of_mem (hm.mem hc), State.imgHeader]
    change ∃ s', execSuDecompress t s = _ ∧ _
    exact engine_writes (heads h) (decide_eq_true ho) hx
      ((hm.writes hc).trans (suDecompressRun_writes (hm.canon hc) (by rw [hh, hrows]) (by rw [hh, hlen])))
  · change ∃ s', execSuPrune t s = _ ∧ _
    exact engine_writes (heads h) (decide_eq_true ho) hx
      (suPruneRun_writes hc (Classical.not_not.1 (decide_eq_false_iff_not.1 (suCheck_none hx).1)))
  · change ∃ s', execTxTranspose t s = _ ∧ _
    exact engine_writes (heads h) (by rw [ho]; rfl) hx (txRun_writes hc)
  · change ∃ s', execTxStream t s = _ ∧ _
    exact engine_writes (heads h) (decide_eq_true ho) hx (.refl hc)
  · change ∃ s', execFuEval t s = _ ∧ _
    exact engine_writes (heads h) (by rw [ho]; rfl) hx (fuEvalRun_writes hc (.head _) (fun hm => .tail _ (by rw [if_pos hm]; exact .head _)))
  · change ∃ s', execFuLoadtab t s = _ ∧ _
    refine ⟨_, engine_starts _ (heads h) (decide_eq_true ho), EngineOp.start_writes hc ?_ (fun u f hu => fuTabRun_writes hu)⟩
    show Writes t [] s (fuTabPre t s d)
    unfold fuTabPre
    split
    · exact .refl hc
    · exact (meets_meetReads ..).writes hc
  · change ∃ s', execLdLoad t s = _ ∧ _
    exact engine_writes (heads h) (by rw [ho]; rfl) hx (.refl hc)
  · change ∃ s', execLdSave t s = _ ∧ _
    exact engine_writes (heads h) (decide_eq_true ho) hx (.refl hc)
  · show ∃ s', exec _ s = _ ∧ _
    rw [exec_sends_head (heads h)]
    exact engine_writes (heads h) (by rw [ho]; rfl) hx (sendsNext_writes hc _ 0)
  · change ∃ s', execRecv t s = _ ∧ _
    exact engine_writes (heads h) (decide_eq_true ho) hx (recvOp_writes hc _ d)
  · show ∃ s', exec _ s = _ ∧ _
    rw [exec_put_head (heads h)]
    exact engine_writes (heads h) (decide_eq_true ho) hx (putNext_writes hc _)
  · show ∃ s', exec _ s = _ ∧ _
    rw [exec_get_head (heads h)]
    exact engine_writes (heads h) (decide_eq_true ho) hx (getNext_writes hc _)
  · rw [exec_update_head (heads h)]
    exact ⟨_, engine_starts _ (heads h) (by rw [ho]; rfl)⟩
  · change ∃ s', execReduce t b s = _
    rw [execReduce, ueFlight_of_idle (heads h).idle]
    dsimp only
    rw [if_neg hx]
    exact ⟨_, engine_starts _ (heads h) (decide_eq_true ho)⟩

end Sys2Proof.Machine
end

section
/-!
PROOFS. The drain of a sub-tile, the pair of a stream and a product, and the products of an orthogonalising UPDATE
(R161, R166 to R168, R178, R300).
-/
namespace Sys2Proof.Machine

/-- Of n results at most n are collected. -/
theorem collect_length_le {α : Type} (f : Nat → Except Detected (α × Nat)) (n : Nat) : (collect f n).1.length ≤ n := by
  let collected := fun (a : List α × Nat × Option Detected × Nat) (i : Nat) =>
    match a with
    | (xs, fl, none, k) => match f i with
      | .ok (x, g) => (x :: xs, fl ||| g, none, k + 1)
      | .error d => (xs, fl, some { d with progress := k }, k)
    | a => a
  have hlen : ∀ n, ((List.range n).foldl collected ([], 0, none, 0)).1.length ≤ n := by
    intro n
    induction n with
    | zero => exact Nat.le_refl _
    | succ n ih =>
      rw [List.range_succ, List.foldl_append, List.foldl_cons, List.foldl_nil]
      generalize (List.range n).foldl collected ([], 0, none, 0) = a at ih ⊢
      obtain ⟨xs, fl, e, k⟩ := a
      cases e with
      | some e => exact Nat.le_succ_of_le ih
      | none =>
        dsimp only [collected]
        split
        · exact Nat.succ_le_succ ih
        · exact Nat.le_succ_of_le ih
  exact Nat.le_trans (Nat.le_of_eq (List.length_reverse (as := ((List.range n).foldl collected ([], 0, none, 0)).1))) (hlen n)

/-! ### The drain (R166, R167) -/

/-- The segments of C, and of X, that a sub-tile's drain writes. -/
def drainOut (d : Desc) (tile : SubTile) : List (Nat × Nat) := (List.range tile.rows).flatMap (fun r =>
  (teMatC d :: (if teWritesX d then [teMatX d] else [])).map (fun m =>
    (m.rowOff (tile.row0 + r) + elemBit m.fmt tile.col0 / 8, rowBytes m.fmt 16)))

theorem mem_drainOut {d : Desc} {tile : SubTile} {x : Nat × Nat} : x ∈ drainOut d tile ↔ ∃ r, r < tile.rows ∧
    ∃ m ∈ teMatC d :: (if teWritesX d then [teMatX d] else []),
      x = (m.rowOff (tile.row0 + r) + elemBit m.fmt tile.col0 / 8, rowBytes m.fmt 16) := by
  simp only [drainOut, List.mem_flatMap, List.mem_range, List.mem_map, eq_comm]

section
variable {s : State} {t : Site} (hc : s.Canonical) {f : InFlight} {d : Desc} {tile : SubTile}
include hc

theorem writes_writeSeg {m : Mat} {r : Nat} (hm : m ∈ teMatC d :: (if teWritesX d then [teMatX d] else [])) (hr : r < tile.rows)
    {codes : List Nat} (hn : codes.length = 16) (g : Nat) :
    Writes t (drainOut d tile) s (s.writeSeg t m (tile.row0 + r) tile.col0 g codes) :=
  writes_writeStore hc g ⟨_, mem_drainOut.2 ⟨r, hr, m, hm, rfl⟩, Nat.le_refl _, Nat.le_of_eq (by rw [packRow_length, hn])⟩

theorem drainTile_writes : Writes t (drainOut d tile) s (drainTile t s f d tile).1 := by
  have hlen := collect_length_le (drainElem s t f d tile) (16 * tile.rows)
  simp only [drainTile]
  generalize collect (drainElem s t f d tile) (16 * tile.rows) = rs at hlen ⊢
  have h1 : Writes t (drainOut d tile) s (if teReadsX d then
      s.meetReads t 0 (dGen d) ((List.range tile.rows).map (fun r =>
        ((teMatX d).rowOff (tile.row0 + r) + tile.col0 * fmtBits (dFC d) / 8, 2 * fmtBits (dFC d)))) rs.2.2
      else s) := by
    split
    · exact (meets_meetReads ..).writes hc
    · exact .refl hc
  have h2 := h1.trans (writes_foldl (l := List.range (rs.1.length / 16)) (f := fun s r =>
    if teWritesX d then (s.writeSeg t (teMatC d) (tile.row0 + r) tile.col0 (dGen d) (((rs.1.drop (16 * r)).take 16).map
      (fun e => e.1))).writeSeg t (teMatX d) (tile.row0 + r) tile.col0 (dGen d) (((rs.1.drop (16 * r)).take 16).map (fun e => e.2))
    else s.writeSeg t (teMatC d) (tile.row0 + r) tile.col0 (dGen d) (((rs.1.drop (16 * r)).take 16).map (fun e => e.1)))
    (fun u hu r hr => ?_) h1.canon)
  · exact h2.trans ((niOnly_mirrorPoint _ t 0 _).writes h2.canon)
  · have hr' := List.mem_range.1 hr
    have hrow : r < tile.rows := by omega
    have h16 : ((rs.1.drop (16 * r)).take 16).length = 16 := by
      rw [List.length_take, List.length_drop]
      omega
    have hC := writes_writeSeg (t := t) hu (m := teMatC d) (.head _) hrow
      (codes := ((rs.1.drop (16 * r)).take 16).map (fun e => e.1)) (by rw [List.length_map, h16]) (dGen d)
    split
    · next hX =>
      exact hC.trans (writes_writeSeg hC.canon (.tail _ (by rw [if_pos hX]; exact .head _)) hrow (by rw [List.length_map, h16]) _)
    · exact hC

end

theorem exec_teSubtileDrain {s : State} {t : Site} {f : InFlight} {tile : SubTile} {tiles : List SubTile} (hl : s.Live t)
    (hst : s.twinStall t = false) (hf : (s.queue t 0).flight.find? (fun f => !f.done) = some f)
    (hw : f.work = .te (tile :: tiles)) : exec (.teSubtileDrain t) s = .next
      ((drainTile t s f f.entry.desc tile).1.onQueue t 0 (fun k => { k with
        flight := updFirst (fun g : InFlight => !g.done) (fun g =>
          g.drained tiles (drainTile t s f f.entry.desc tile).2.1 (drainTile t s f f.entry.desc tile).2.2) k.flight })) := by
  refine (onTile_live hl).trans ?_
  simp only [hst, Bool.false_eq_true, if_false, hf, hw]

/-! ### Pairing (R178) -/

theorem pairRun_writes {s : State} (hc : s.Canonical) (t : Site) (f g : InFlight) : Writes t [] s (pairRun s t f g).1 := by
  have hacc := teAccumulate_writes (t := t) (out := []) hc 0 f f.entry.desc
    (denseSource (teK f.entry.desc) (teChunk (teFb f.entry.desc)) (txElem s t g g.entry.desc))
  simp only [pairRun]
  generalize teAccumulate t 0 s f f.entry.desc
    (denseSource (teK f.entry.desc) (teChunk (teFb f.entry.desc)) (txElem s t g g.entry.desc)) = a at hacc ⊢
  have hread := fun rs x => hacc.trans ((meets_meetReads a.1 t 3 (dGen g.entry.desc) rs x).writes hacc.canon)
  split
  · exact .refl hc
  · split
    · exact .refl hc
    · split
      · exact hread (txMatA g.entry.desc).ranges none
      · next x _ =>
        split
        · exact hread [] (some { x with opnd := x.opnd - 16 })
        · exact hacc

/-- Formats that do not agree fault both commands at once. -/
theorem pairRun_format {s : State} {t : Site} {f g : InFlight} (h : dFC g.entry.desc ≠ teFb f.entry.desc) : pairRun s t f g =
    (s, f.failed (det ecFormat 1 0) true, g.failed (det ecFormat 2 0) false) := by
  rw [pairRun]
  exact if_pos h

section
variable {s : State} {t : Site} {f g : InFlight} (hl : s.Live t)
  (hf : (s.queue t 0).flight.find? (fun f => decide (f.work = .tePair) && f.fault.isNone) = some f) (hg : s.flightOf t 3 = some g)
  (hi : s.issues t = true) (hw : g.work = .txPair) (hn : g.fault = none) (hd : g.done = false)
include hl hf hg hi hw hn hd

theorem exec_streamPairing : exec (.streamPairing t) s = .next (((pairRun s t f g).1.onQueue t 0 (fun k => { k with
      flight := updFirst (fun f => decide (f.work = .tePair) && f.fault.isNone) (fun _ => (pairRun s t f g).2.1) k.flight })).onFlight t 3
        (fun _ => (pairRun s t f g).2.2)) := by
  refine (onTile_live hl).trans ?_
  simp only [hf, hg]
  exact when_of (by rw [hi, hw, hn, hd]; rfl)

end

/-! ### Products of the UE (R300) -/

/-- What the product that has run leaves of an orthogonalising UPDATE: it is counted, and its result stands where its stage keeps it. -/
def OrthoSt.produced (o : OrthoSt) (ws : List Word) : OrthoSt :=
  if o.stage = 2 then { o with stage := 3, pend := 0, part := ws, g := [], prods := o.prods + 1 }
  else if o.pend = 2 then { o with pend := 1, y := ws, prods := o.prods + 1 }
  else { o with pend := 0, z := ws, prods := o.prods + 1 }

theorem OrthoSt.produced_counts (o : OrthoSt) (ws : List Word) (h2 : o.pend ≤ 2) :
    (o.produced ws).prods = o.prods + 1 ∧
      (o.stage ≠ 2 → (o.produced ws).pend = o.pend - 1 ∧ (o.produced ws).stage = o.stage) ∧
      (o.stage = 2 → (o.produced ws).pend = 0 ∧ (o.produced ws).stage = 3) := by
  unfold OrthoSt.produced
  split
  · next hs => exact ⟨rfl, fun hn => absurd hs hn, fun _ => ⟨rfl, rfl⟩⟩
  · next hs =>
    split
    · next hp => exact ⟨rfl, fun _ => ⟨by rw [hp], rfl⟩, fun h => absurd h hs⟩
    · next hp => exact ⟨rfl, fun _ => ⟨by dsimp only; omega, rfl⟩, fun h => absurd h hs⟩

/-- The product that waits: XᵀX at stage 2, then X·G, then Y·G, each with its flags (R301). -/
def orthoProduct (f : InFlight) (o : OrthoSt) (r : GroupRec) : List Word × Nat :=
  let n := recRows r
  let c := recCols r
  let x := fun i k => vb16 (o.x.getD (i * c + k) 0)
  let xt := fun i k => vb16 (o.x.getD (k * c + i) 0)
  let y := fun i k => vb16 (o.y.getD (i * c + k) 0)
  let g := fun i k => vb16 (o.g.getD (i * c + k) 0)
  if o.stage = 2 then ueProduct f f.entry.desc o.prods 0 c c n xt xt
  else if o.pend = 2 then ueProduct f f.entry.desc o.prods 2 n c c x g
  else ueProduct f f.entry.desc o.prods 2 n c c y g

section
variable {s : State} {t : Site} {f : InFlight} {o : OrthoSt} {r : GroupRec} (hl : s.Live t) (hf : s.ueFlight t = some f)
  (hw : f.work = .ortho o) (hr : ueRecord s t f.entry.desc = .ok r) (hi : s.issues t = true) (hp : o.pend ≠ 0)
  (hq : (s.queue t 0).flight = []) (ht : (s.tile t).ueTurn = false ∨ s.teWaits t = false)
include hl hf hw hr hi hp hq ht

theorem exec_ueTeProduct : exec (.ueTeProduct t) s = .next ((saveWork t r (o.produced (orthoProduct f o r).1)
    ((s.setCfld t aUeStat 31 0 (s.cfld t aUeStat 31 0 + 1)).onTile t (fun x => { x.stopBackfill with ueTurn := true }))).onFlight t 7
      (fun g => { g with flags := g.flags ||| BitVec.ofNat 8 (orthoProduct f o r).2,
                                      work := .ortho (o.produced (orthoProduct f o r).1) })) := by
  have hgo : (s.issues t && decide (o.pend ≠ 0) && (s.queue t 0).flight.isEmpty && !((s.tile t).ueTurn && s.teWaits t)) = true := by
    rw [hi, hq, decide_eq_true hp]
    rcases ht with h | h <;> rw [h] <;> simp
  obtain ⟨ws, fl, hprod⟩ : ∃ ws fl, orthoProduct f o r = (ws, fl) := ⟨_, _, rfl⟩
  rw [hprod]
  refine (onTile_live hl).trans ?_
  simp only [orthoProduct] at hprod
  simp only [hf, hw, hr, hprod, OrthoSt.produced]
  exact when_of hgo

end

/-- Settles O44: a drain writes its sub-tile's segments alone, a pair starts or faults both, and a product is counted once. -/
theorem tensorEngineEvents : Obligations.TensorEngineEvents := by
  intro s t f g hc hl
  refine ⟨fun tile tiles hst hf hw => ⟨_, exec_teSubtileDrain hl hst hf hw, fun x hx => ?_⟩,
    fun hf hg hi hw hn hd => ⟨_, exec_streamPairing hl hf hg hi hw hn hd, ?_, fun hfc => ?_⟩,
    fun o r hf hw hr hi h0 h2 hq ht => ?_⟩
  · refine (drainTile_writes hc).bytes x (fun y hy => ?_)
    obtain ⟨r, hr, m, hm, rfl⟩ := mem_drainOut.1 hy
    exact hx r hr m hm
  · exact fun x => (pairRun_writes hc t f g).bytes x (by simp)
  · rw [pairRun_format hfc]
    simp only [InFlight.failed, ← hd]
  · exact ⟨_, _, exec_ueTeProduct hl hf hw hr hi h0 hq ht, o.produced_counts _ h2⟩

end Sys2Proof.Machine
end

section
/-!
PROOFS. The statement that a number format gives every number one code fails (R82, R89, R90).
-/
namespace Sys2Proof.Machine

/-- VF4 reads the code 8, a sign with exponent 0, as zero, whose code is 0. -/
theorem encodeVal_decodeVal_vf4_signedZero : encodeVal 8 0 0 false (decodeVal 8 8) = (0, 0) := by decide

/-- Refutes O43: VF4 has two codes for zero, 0 and 8, and the second does not come back. -/
theorem not_formatsRoundTrip : ¬ Obligations.FormatsRoundTrip := by
  intro h
  have h8 := (h 8 8 0 0 (by decide) (by decide) (by decide)).1 (by decide) (by decide)
  rw [encodeVal_decodeVal_vf4_signedZero] at h8
  exact absurd (congrArg Prod.fst h8) (by decide)

end Sys2Proof.Machine
end

section
/-!
PROOFS. Grains at the local port, the window and the reorder buffer (R24, R32 to R34, R231, R241).
-/
namespace Sys2Proof.Machine

/-! ### Grains taken from the local port -/

section
variable {s : State} {t : Site} {g : Grain} {rest : List Grain}

theorem inKind_picks {k : Nat} {p : Grain → Bool} (h : Picks (fun g => ofKind k g && p g) (s.ni t).inbox g rest) :
    s.inKind t k p = some (g, s.withInbox t rest) := by
  have ht : takeFirst (fun g : Grain => decide (g.kind.toNat = k) && !isPrism g && p g) (s.ni t).inbox = some (g, rest) :=
    takeFirst_picks h
  rw [State.inKind, ht]
  rfl

theorem inKind_ofKind {k : Nat} (h : Picks (ofKind k) (s.ni t).inbox g rest) :
    s.inKind t k anyGrain = some (g, s.withInbox t rest) := by
  refine inKind_picks ?_
  simpa only [anyGrain, Bool.and_true] using h

theorem readyKind_picks {k : Nat} (h : Picks (fun g : Grain => decide (g.kind.toNat = k)) (s.ni t).ready g rest) :
    s.readyKind t k = some (g, s.withReady t rest) := by
  rw [State.readyKind, takeFirst_picks h]
  rfl

theorem withInbox_ni (hc : s.Canonical) : (s.withInbox t rest).ni t = { s.ni t with inbox := rest } := State.onNi_ni hc t _

theorem niOnly_withInbox (s : State) (t : Site) (rest : List Grain) : NiOnly t s (s.withInbox t rest) := niOnly_onNi s t _
theorem niOnly_withReady (s : State) (t : Site) (rest : List Grain) : NiOnly t s (s.withReady t rest) := niOnly_onNi s t _

theorem niOnly_returnErr (s : State) (t : Site) (g : Grain) (e : Nat) : NiOnly t s (s.returnErr t g e) := by
  unfold State.returnErr
  split
  · exact .refl t s
  · exact niOnly_niSend s t _

end

/-! ### The window (R34) -/

/-- What an acknowledgement of the d oldest grains leaves. -/
theorem ackTo_acks {y : TxConn} {n d : Nat} (hu : y.unacked ≤ 32) (hs : y.nextSeq < 32) (h1 : 1 ≤ d) (hd : d ≤ y.unacked)
    (hn : n = (y.nextSeq + 64 - y.unacked + d) % 32) :
    ackTo n y = { y with unacked := y.unacked - d, sticky := y.sticky && decide (d ≠ y.unacked) } := by
  have hd' : (if decide ((n + 32 - (y.nextSeq + 32 * 2 - y.unacked) % 32) % 32 = 0) && decide (y.unacked = 32) then 32
      else (n + 32 - (y.nextSeq + 32 * 2 - y.unacked) % 32) % 32) = d := by
    simp only [Bool.and_eq_true, decide_eq_true_eq]
    split <;> omega
  rw [ackTo]
  rw [hd', if_pos hd]

/-- An acknowledgement that names the oldest grain again changes nothing. -/
theorem ackTo_none {y : TxConn} {n : Nat} (hu : y.unacked < 32) (hs : y.nextSeq < 32) (h0 : 0 < y.unacked)
    (hn : n = (y.nextSeq + 64 - y.unacked) % 32) : ackTo n y = y := by
  have hd : (if decide ((n + 32 - (y.nextSeq + 32 * 2 - y.unacked) % 32) % 32 = 0) && decide (y.unacked = 32) then 32
      else (n + 32 - (y.nextSeq + 32 * 2 - y.unacked) % 32) % 32) = 0 := by
    simp only [Bool.and_eq_true, decide_eq_true_eq]
    split <;> omega
  rw [ackTo]
  rw [hd, if_pos (Nat.zero_le _), decide_eq_true (Nat.ne_of_lt h0), Bool.and_true, Nat.sub_zero]

/-- What an acknowledgement leaves alone: all but the count of unacknowledged grains, which does not grow, and stickiness. -/
theorem ackTo_frame (n : Nat) (y : TxConn) : (ackTo n y).conn = y.conn ∧ (ackTo n y).dst = y.dst ∧ (ackTo n y).q = y.q ∧
    (ackTo n y).unacked ≤ y.unacked := by
  unfold ackTo
  dsimp only
  generalize (if decide ((n + 32 - (y.nextSeq + 32 * 2 - y.unacked) % 32) % 32 = 0) && decide (y.unacked = 32) then 32
      else (n + 32 - (y.nextSeq + 32 * 2 - y.unacked) % 32) % 32) = d
  split
  · exact ⟨rfl, rfl, rfl, Nat.sub_le _ _⟩
  · exact ⟨rfl, rfl, rfl, Nat.le_refl _⟩

/-- The window lets out what it has room for, numbered in order. -/
theorem pumpConn_numbers (t : Site) (x : TxConn) :
    let e := pumpConn t x
    e.1.unacked = x.unacked + e.2.length ∧ e.2.length = min x.q.length (32 - x.unacked) ∧ e.1.q = x.q.drop e.2.length ∧
      (∀ k (h : k < e.2.length), (e.2[k].seq.toNat = (x.nextSeq + k) % 32 ∧ e.2[k].conn.toNat = x.conn % 1024)) := by
  have hlen : (pumpConn t x).2.length = min x.q.length (32 - x.unacked) := by
    simp only [pumpConn, List.length_map, List.length_zipIdx, List.length_take]
    omega
  refine ⟨by rw [hlen]; rfl, hlen, by rw [hlen]; rfl, fun k hk => ?_⟩
  obtain ⟨a, ha⟩ : ∃ a : Nat × Bool × Payload,
      (pumpConn t x).2[k] = mkGrain t x.dst a.1 x.conn ((x.nextSeq + k) % 32) a.2.1 a.2.2 :=
    ⟨_, by simp only [pumpConn, List.getElem_map, List.getElem_zipIdx, Nat.zero_add]; rfl⟩
  rw [ha]
  constructor
  · simp only [mkGrain, BitVec.toNat_ofNat]
    omega
  · simp only [mkGrain, BitVec.toNat_ofNat, Nat.reducePow]

/-! ### The reorder buffer (R33, R34) -/

/-- The next grain in order, alone: it is delivered. -/
theorem drainHeld_next {k n : Nat} {g : Grain} (h : g.seq.toNat = n) : drainHeld (k + 2) n [g] = ([g], (n + 1) % 32, []) := by
  simp only [drainHeld, takeFirst, h, decide_true, if_true]

/-- No grain held has the next number: nothing is delivered. -/
theorem drainHeld_none {k n : Nat} {held : List Grain} (h : ∀ g ∈ held, g.seq.toNat ≠ n) :
    drainHeld (k + 1) n held = ([], n, held) := by
  have hnone : takeFirst (fun g : Grain => decide (g.seq.toNat = n)) held = none := by
    induction held with
    | nil => rfl
    | cons a l ih =>
      rw [takeFirst, if_neg (by simpa using h a (.head l)), ih (fun g hg => h g (.tail a hg))]
  rw [drainHeld, hnone]

section
variable {s : State} {t : Site} {g : Grain} {rest : List Grain} (hl : s.LiveSite t)
include hl

theorem exec_escnReceive (h : Picks (fun h => ofKind 11 h && !relayed t h) (s.ni t).inbox g rest) : exec (.escnReceive t) s =
    .next ((s.withInbox t rest).onNi t (fun n => { n with tx := n.tx.map (fun y =>
      if y.conn = g.conn.toNat ∧ 0 < y.unacked then { y with sticky := true } else y) })) := by
  refine (onSite_live hl).trans ((whenSome_of (inKind_picks h)).trans ?_)
  simp only [Bool.and_eq_true, decide_eq_true_eq]

theorem exec_ackReceive (h : Picks (fun h => ofKind 9 h && !relayed t h) (s.ni t).inbox g rest) : exec (.ackReceive t) s =
    .next ((s.withInbox t rest).onTx t (fun y => decide (y.conn = g.conn.toNat) && decide (y.dst = grainSrc g)) (ackTo g.seq.toNat)) :=
  (onSite_live hl).trans (whenSome_of (inKind_picks h))

theorem exec_streamCredit {k : Nat} (ht : t.isTile = true) (hb : g.body = .streamCred k) (h : Picks (fun h => ofKind 10 h &&
      (match h.body with | .streamCred _ => true | _ => false)) (s.ni t).inbox g rest) : exec (.streamCredit t) s =
    .next ((s.withInbox t rest).onTx t (fun y => decide (y.conn = g.conn.toNat) && decide (y.dst = grainSrc g))
      (fun y => { y with items := y.items + k })) := by
  refine (onTile_live ⟨ht, hl.thawed⟩).trans ((whenSome_of (inKind_picks h)).trans ?_)
  simp only [hb]

theorem exec_ringCredit {b k : Nat} (ht : t.isTile = true) (hb : g.body = .ringCred b k) (h : Picks (fun h => ofKind 10 h &&
      (match h.body with | .ringCred .. => true | _ => false)) (s.ni t).inbox g rest) : exec (.ringCredit t) s =
    .next ((s.withInbox t rest).onTx t (fun y => decide (y.conn = g.conn.toNat) && decide (y.dst = grainSrc g))
      (fun y => { y with bytes := y.bytes + b, recs := y.recs + k })) := by
  refine (onTile_live ⟨ht, hl.thawed⟩).trans ((whenSome_of (inKind_picks h)).trans ?_)
  simp only [hb]

variable (h : Picks (fun h => kindSequenced h.kind.toNat && !isPrism h && !relayed t h) (s.ni t).inbox g rest) (hc : s.Canonical)
include h hc

/-- A grain of a connection that has no receiving end here: an ERR answers it. -/
theorem exec_grainAccept_unknown (hr : (s.ni t).rx.find? (rxFor g) = none) (hn : g.conn.toNat < 0x3C0) :
    exec (.grainAccept t) s = .next ((s.withInbox t rest).returnErr t g errAddr) := by
  refine (onSite_live hl).trans ?_
  simp only [takeFirst_picks h, decide_eq_false (Nat.not_le.2 hn), Bool.false_and, Bool.false_eq_true, if_false]
  have hr' : ((s.onNi t (fun n => { n with inbox := rest })).ni t).rx.find? (rxFor g) = none := by
    rw [State.onNi_ni hc]; exact hr
  rw [hr']
  rfl

/-- A grain of a connection that has a receiving end here, after the reorder buffer has said which grains follow in order. -/
theorem exec_grainAccept_known {r : RxConn} (hr : (s.ni t).rx.find? (rxFor g) = some r) {gs held : List Grain} {next : Nat}
    (hd : drainHeld 32 r.nextSeq (r.held ++ [g]) = (gs, next, held)) (hk : ∀ x ∈ gs, s.kindMatches t r x = true) :
    exec (.grainAccept t) s = .next (
      let u := (s.withInbox t rest).onNi t (fun n => { n with
        rx := updFirst (rxFor g) (fun y => { y with nextSeq := next, held := held }) n.rx
        ready := n.ready ++ gs })
      if gs.isEmpty then u else u.niSend t (mkGrain t r.src 9 r.conn next true .ack)) := by
  have hni := State.onNi_ni hc t (fun n => { n with inbox := rest })
  have hany : (s.ni t).rx.any (rxFor g) = true := List.any_eq_true.2 ⟨r, List.mem_of_find?_eq_some hr, List.find?_some hr⟩
  have hkind : ∀ x, (s.onNi t (fun n => { n with inbox := rest })).kindMatches t r x = s.kindMatches t r x := fun x => by
    rw [State.kindMatches, State.portKind, State.cfld, State.onNi_creg hc]
    rfl
  have hgood : gs.filter (fun x => s.kindMatches t r x) = gs := List.filter_eq_self.2 hk
  have hbad : gs.filter (fun x => !s.kindMatches t r x) = [] := List.filter_eq_nil_iff.2 (fun x hx => by rw [hk x hx]; decide)
  refine (onSite_live hl).trans ?_
  simp only [takeFirst_picks h, hni, hany, Bool.not_true, Bool.and_false, Bool.false_eq_true, if_false, hr, hd, hkind, hgood, hbad,
    List.foldl_nil]
  rfl

end

/-- Settles O33: the window, the reorder buffer, and the credits of connections. -/
theorem windowAndReorder : Obligations.WindowAndReorder := by
  intro s t g rest x hl mine
  refine ⟨exec_escnReceive hl, fun h => ⟨_, exec_ackReceive hl h, fun y d hu hs h1 hd hn => ackTo_acks hu hs h1 hd hn,
      fun y hu hs hn h0 => ackTo_none hu hs h0 hn⟩,
    fun h hc => ⟨fun r hr hheld hseq hk => ?_, fun r hr hnone => ?_, exec_grainAccept_unknown hl h hc⟩,
    fun ht n hb h => exec_streamCredit hl ht hb h, fun ht b n hb h => exec_ringCredit hl ht hb h, pumpConn_numbers t x⟩
  · have hd : drainHeld 32 r.nextSeq (r.held ++ [g]) = ([g], (r.nextSeq + 1) % 32, []) := by
      rw [hheld]
      exact drainHeld_next hseq
    exact exec_grainAccept_known hl h hc hr hd (fun y hy => by rw [List.mem_singleton.1 hy]; exact hk)
  · have hd := drainHeld_none (k := 31) hnone
    refine (exec_grainAccept_known hl h hc hr hd (fun y hy => absurd hy List.not_mem_nil)).trans ?_
    simp only [List.append_nil, List.isEmpty_nil, if_true]

end Sys2Proof.Machine
end

section
/-!
PROOFS. The end of a connection: CLOSE, its grain, and ERR grains at the source (R224 to R226, R233).
-/
namespace Sys2Proof.Machine

/-! ### The first entry that satisfies a predicate, changed -/

/-- Where two searches find one entry, the search that the change keeps finds the changed entry. -/
theorem find_updFirst {α : Type} {p q : α → Bool} {f : α → α} {l : List α} {a : α} (hp : l.find? p = some a) (hq : l.find? q = some a)
    (hf : q (f a) = true) : (updFirst p f l).find? q = some (f a) := by
  induction l with
  | nil => cases hp
  | cons b l ih =>
    rw [updFirst]
    by_cases hb : p b = true
    · rw [List.find?_cons_of_pos hb] at hp
      cases hp
      rw [if_pos hb, List.find?_cons_of_pos hf]
    · rw [List.find?_cons_of_neg hb] at hp
      rw [if_neg hb]
      by_cases hqb : q b = true
      · rw [List.find?_cons_of_pos hqb] at hq
        cases hq
        exact absurd (List.find?_some hp) hb
      · rw [List.find?_cons_of_neg hqb] at hq ⊢
        exact ih hp hq

/-! ### CLOSE (R225) -/

section
variable {s : State} {t : Site}

theorem State.withInbox_canonical (hc : s.Canonical) (rest : List Grain) : (s.withInbox t rest).Canonical := hc.onNi t _

theorem isConn_eq (c : Nat) (y : TxConn) : (isConn c y = true) = (y.conn = c ∧ y.conn < 0x3C0) := by
  simp only [isConn, Bool.and_eq_true, decide_eq_true_eq, eq_iff_iff]
  constructor
  · rintro ⟨rfl, h⟩; exact ⟨rfl, h⟩
  · rintro ⟨rfl, h⟩; exact ⟨rfl, h⟩

theorem exec_close {w : Word} (h : s.Runs t 0x31 w)
    (hl : (decide (fRd w = 0) && decide (fRb w = 0) && decide (fFn w = 0)) = true) : exec (.close t) s =
      .next ((s.onNi t (fun n => { n with tx := n.tx.map (fun y =>
        if y.conn = ((s.core t).get (fRa w)).toNat ∧ y.conn < 0x3C0 then { y with closed := true } else y) })).onCore t Core.advance) := by
  change execClose t s = _
  refine instr_runs_ok h hl ?_
  simp only [State.closeTx, isConn_eq]
  rfl

theorem exec_closeGrainSend {conn : Nat} {x : TxConn} (hl : s.Live t) (hx : (s.ni t).tx.find? (isConn conn) = some x)
    (hcl : x.closed = true) (hu : x.unacked = 0) (hq : x.q = []) : exec (.closeGrainSend t conn) s = .next (s.sendClose t x) :=
  (onTile_live hl).trans ((whenSome_of hx).trans (when_of (by rw [hcl, hu, hq]; rfl)))

theorem State.sendClose_eq (hc : s.Canonical) (x : TxConn) : s.sendClose t x = s.onNi t (fun n => { n with
    tx := n.tx.filter (fun y => !isConn x.conn y)
    outbox := n.outbox ++ [mkGrain t x.dst 8 x.conn 0 true .close] }) := by
  unfold State.sendClose State.niSend
  exact State.onNi_onNi hc t _ _

variable {g : Grain} {rest : List Grain} (hl : s.Live t) (hp : Picks (ofKind 8) (s.ni t).inbox g rest) (hc : s.Canonical)
include hl hp hc

theorem exec_closeGrainReceive_unknown (hr : (s.ni t).rx.find? (rxFor g) = none) :
    exec (.closeGrainReceive t) s = .next (s.withInbox t rest) := by
  have hr' : ((s.withInbox t rest).ni t).rx.find? (rxFor g) = none := by rw [withInbox_ni hc]; exact hr
  refine (onTile_live hl).trans ((whenSome_of (inKind_ofKind hp)).trans ?_)
  simp only [hr']

theorem exec_closeGrainReceive_known {r : RxConn} (hr : (s.ni t).rx.find? (rxFor g) = some r) : exec (.closeGrainReceive t) s =
    .next (((s.withInbox t rest).onNi t (fun n => { n with
      rx := updFirst (rxFor g) (fun x => { x with closing := true }) n.rx })).settleClose t r.port) := by
  have hr' : ((s.withInbox t rest).ni t).rx.find? (rxFor g) = some r := by rw [withInbox_ni hc]; exact hr
  refine (onTile_live hl).trans ((whenSome_of (inKind_ofKind hp)).trans ?_)
  simp only [hr']

end

section
variable {s : State} (hc : s.Canonical) {t : Site} {g : Grain} {r : RxConn} (hr : (s.ni t).rx.find? (rxFor g) = some r)
  (ho : (s.ni t).rxOf r.port = some r)
include hc hr ho

/-- The receiving end that the port's connection has, once its CLOSE has come. -/
theorem rxOf_closing : ((s.onNi t (fun n => { n with
    rx := updFirst (rxFor g) (fun x => { x with closing := true }) n.rx })).ni t).rxOf r.port = some { r with closing := true } := by
  rw [State.onNi_ni hc]
  have hq : (decide (r.port = r.port) && decide (r.conn < 0x3C0)) = true :=
    List.find?_some (p := fun y : RxConn => decide (y.port = r.port) && decide (y.conn < 0x3C0)) ho
  exact find_updFirst hr ho hq

omit hr ho in
theorem allReleased_closing : ((s.onNi t (fun n => { n with
    rx := updFirst (rxFor g) (fun x => { x with closing := true }) n.rx })).ni t).allReleased { r with closing := true } =
      (s.ni t).allReleased r := by
  rw [State.onNi_ni hc]
  rfl

/-- What arrived is not all released: the number and the port stay in use. -/
theorem settleClose_waits (ha : (s.ni t).allReleased r = false) : ((s.onNi t (fun n => { n with
    rx := updFirst (rxFor g) (fun x => { x with closing := true }) n.rx })).settleClose t r.port).ni t =
      { s.ni t with rx := updFirst (rxFor g) (fun y => { y with closing := true }) (s.ni t).rx } := by
  simp only [State.settleClose, rxOf_closing hc hr ho, allReleased_closing hc, ha, Bool.and_false, Bool.false_eq_true, if_false]
  exact State.onNi_ni hc t _

/-- Everything that arrived is released: the number and the port are free. -/
theorem settleClose_frees (ha : (s.ni t).allReleased r = true) : ((s.onNi t (fun n => { n with
    rx := updFirst (rxFor g) (fun x => { x with closing := true }) n.rx })).settleClose t r.port).ni t =
      { (s.ni t).setPort r.port { PortRt.reset with
          target := ((s.ni t).port r.port).target - ((s.ni t).port r.port).arrived } with
        rx := (updFirst (rxFor g) (fun y => { y with closing := true }) (s.ni t).rx).filter (fun y =>
          !(decide (y.port = r.port) && decide (y.conn = r.conn))) } := by
  simp only [State.settleClose, rxOf_closing hc hr ho, allReleased_closing hc, ha, Bool.and_true, if_true]
  rw [State.onNi_ni (hc.onNi t _), State.onNi_ni hc]
  rfl

end

/-- Settles O32: a CLOSE counts at once, its grain goes when nothing waits, and the target frees the port when all is released. -/
theorem connectionsClose : Obligations.ConnectionsClose := by
  intro s t w conn x g rest hc
  refine ⟨fun h hd hb hf => ?_, fun hl hx hcl hu hq => ⟨_, exec_closeGrainSend hl hx hcl hu hq, ?_, ?_, ?_⟩,
    fun hl hp => ⟨exec_closeGrainReceive_unknown hl hp hc, fun r hr => ⟨_, exec_closeGrainReceive_known hl hp hc hr, ?_, fun ho ha => ?_,
      fun ho ha => ?_⟩⟩⟩
  · refine ⟨_, exec_close h (by rw [hd, hb, hf]; rfl), ?_, ?_, .of_mem rfl⟩
    · rw [State.onCore_core (hc.onNi t _), State.onNi_core_same hc]
    · rw [State.onCore_ni_same (hc.onNi t _), State.onNi_ni hc]
  · rw [State.sendClose_eq hc, State.onNi_ni hc]
  · rw [State.sendClose_eq hc, State.onNi_core_same hc]
  · rw [State.sendClose_eq hc]; exact .of_mem rfl
  · refine .of_mem (((niOnly_withInbox s t rest).onNi _).trans (niOnly_settleClose _ t _) |>.mem hc)
  · have hni : ((s.withInbox t rest).ni t).rx = (s.ni t).rx := by rw [withInbox_ni hc]
    rw [settleClose_waits (s.withInbox_canonical hc rest) (hni ▸ hr) ho ha, hni]
  · have hni : ((s.withInbox t rest).ni t) = { s.ni t with inbox := rest } := withInbox_ni hc
    rw [settleClose_frees (s.withInbox_canonical hc rest) (by rw [hni]; exact hr) ho ha, hni]
    rfl

end Sys2Proof.Machine
end

section
/-!
PROOFS. ERR grains at the source (R224, R226, R233, R423).
-/
namespace Sys2Proof.Machine

/-! ### The command at the front of a queue, changed -/

section
variable {s : State} (hc : s.Canonical) (t : Site) {q : Nat} (hq : q < 8) (f : InFlight → InFlight)
include hc hq

theorem flightOf_onFlight : (s.onFlight t q f).flightOf t q = (s.flightOf t q).map f := by
  rw [State.flightOf, State.onFlight, State.onQueue_queue_same hc t hq, State.flightOf]
  cases (s.queue t q).flight <;> rfl

end

/-- A PUT or GET that an ERR meets takes an ADDR fault at its peer's line, unless it has one. -/
theorem remoteErr_faults {f : InFlight} (hn : f.fault = none)
    (hw : (∃ sent ans, f.work = .put sent ans) ∨ ∃ asked got, f.work = .get asked got) :
    ∃ d, (remoteErr f).fault = some d ∧ d.cause = 2 ∧ d.opnd = 7 := by
  rcases hw with ⟨sent, ans, hw⟩ | ⟨asked, got, hw⟩
  · refine ⟨{ det ecAddr 7 (remoteOff f.entry.desc (ans / 2)) with progress := f.progress }, ?_, rfl, rfl⟩
    simp only [remoteErr, hw, settleRemote, hn, Option.getD_none]
  · refine ⟨{ det ecAddr 7 (remoteOff f.entry.desc (got / 2)) with progress := f.progress }, ?_, rfl, rfl⟩
    simp only [remoteErr, hw, settleRemote, hn, Option.getD_none]

theorem openReason_eq (code : Nat) : openReason code = if code = 2 ∨ code = 6 then 5 else if code = 7 then 6 else 7 := by
  simp only [openReason, Bool.or_eq_true, decide_eq_true_eq]
  rfl

/-- The state in which an ERR acts: the grain is taken, and LINKFAIL in a running plot is reported. -/
def State.errTaken (s : State) (t : Site) (rest : List Grain) (code : Nat) : State :=
  let took := s.withInbox t rest
  let runs : Bool := match took.plotOf t with | some p => took.running p | none => false
  if code = 6 ∧ runs = true then took.report t .linkErr else took

section
variable {s : State} {t : Site} {g : Grain} {rest : List Grain} {seq conn kind code : Nat}

theorem State.errTaken_cases (s : State) (t : Site) (rest : List Grain) (code : Nat) :
    s.errTaken t rest code = (s.withInbox t rest).report t .linkErr ∨ s.errTaken t rest code = s.withInbox t rest := by
  unfold State.errTaken
  exact ite_is_either _ _ _

theorem State.errTaken_canonical (hc : s.Canonical) : (s.errTaken t rest code).Canonical := by
  have hc1 := s.withInbox_canonical (t := t) hc rest
  rcases s.errTaken_cases t rest code with h | h <;> rw [h]
  · exact State.report_canonical hc1 t _
  · exact hc1

theorem State.errTaken_queue (hc : s.Canonical) (q : Nat) : (s.errTaken t rest code).queue t q = s.queue t q := by
  rcases s.errTaken_cases t rest code with h | h <;> rw [h]
  · exact (niOnly_withInbox s t rest).queue hc q
  · exact (niOnly_withInbox s t rest).queue hc q

theorem State.errTaken_mem : (s.errTaken t rest code).mem = s.mem := by
  rcases s.errTaken_cases t rest code with h | h <;> rw [h] <;> rfl

variable (hl : s.Live t) (hp : Picks (ofKind 13) (s.ni t).inbox g rest) (hb : g.body = .err seq conn kind code)
include hl hp hb

/-- An ERR acts by the kind of the grain that it answers. -/
theorem exec_errReceive : exec (.errReceive t) s = (let u := s.errTaken t rest code
    if kind = 6 then match (u.ni t).opens.find? (fun o => decide (o.conn = conn)) with
      | some o => Host.Outcome.next (φ := Fault) (ρ := Refusal) (u.openResult t o (.error (openReason code)))
      | none => .next u
    else if decide (kind = 2) || decide (kind = 3) then .next (u.onFlight t 6 (fun f => if f.done then f else remoteErr f))
    else if decide (kind ≤ 1) && decide (conn < 0x3C0) then .next (u.refusedTx t conn seq)
    else .next u) := by
  have htaken : ∀ r : Bool, (if (decide (code = errLinkfail) && r) = true then (s.withInbox t rest).report t .linkErr
      else s.withInbox t rest) = if code = 6 ∧ r = true then (s.withInbox t rest).report t .linkErr else s.withInbox t rest := by
    intro r
    by_cases h6 : code = 6 <;> simp [errLinkfail, h6]
  refine (onTile_live hl).trans ((whenSome_of (inKind_ofKind hp)).trans ?_)
  simp only [hb, htaken, State.errTaken] <;> rfl

end

/-- Settles O35: an ERR refuses an OPEN, faults a PUT or GET that runs, or closes the connection that it names. -/
theorem errorsReachTheirSource : Obligations.ErrorsReachTheirSource := by
  intro s t g rest seq conn kind code hl hp hb took runs s0
  have hs0 : s0 = s.errTaken t rest code := rfl
  clear_value s0
  subst hs0
  have hx := exec_errReceive hl hp hb
  refine ⟨fun hk o ho => ?_, fun hk ho => ?_, fun hk hc f hf hd hn hw => ?_, fun hk hn => ?_, fun h6 h2 h3 hk => ?_⟩ <;> rw [hx] <;> dsimp only
  · rw [if_pos hk, ho, openReason_eq]
  · rw [if_pos hk, ho]
  · obtain ⟨d, hfault, hcause, hopnd⟩ := remoteErr_faults hn hw
    have hk6 : kind ≠ 6 := by omega
    have hk23 : (decide (kind = 2) || decide (kind = 3)) = true := by simpa using hk
    rw [if_neg hk6, if_pos hk23]
    refine ⟨_, remoteErr f, d, rfl, ?_, hfault, hcause, hopnd, .of_mem s.errTaken_mem⟩
    rw [flightOf_onFlight (s.errTaken_canonical hc) t (by decide), State.flightOf, State.errTaken_queue hc, ← State.flightOf, hf,
      Option.map_some, hd]
    rfl
  · have hk6 : kind ≠ 6 := by omega
    have hk23 : ¬ (decide (kind = 2) || decide (kind = 3)) = true := by simp; omega
    have hk1 : (decide (kind ≤ 1) && decide (conn < 0x3C0)) = true := by simp [hk, hn]
    rw [if_neg hk6, if_neg hk23, if_pos hk1]
    refine ⟨_, rfl, fun y => ?_, fun y d hu hs h1 hd hseq => ?_⟩
    · obtain ⟨hconn, hdst, hq, hu⟩ := ackTo_frame ((seq + 1) % 32) y
      exact ⟨rfl, hconn, hdst, hq, hu⟩
    · rw [ackTo_acks hu hs h1 hd hseq]
  · have hk23 : ¬ (decide (kind = 2) || decide (kind = 3)) = true := by simp [h2, h3]
    have hk1 : ¬ (decide (kind ≤ 1) && decide (conn < 0x3C0)) = true := by simp; omega
    rw [if_neg h6, if_neg hk23, if_neg hk1]

end Sys2Proof.Machine
end

section
/-!
PROOFS. OPEN, its answers, and the binding of the target's port (R221 to R224).
-/
namespace Sys2Proof.Machine

/-! ### The source begins (R223) -/

section
variable {s : State} {t : Site} {w : Word} (h : s.Runs t 0x30 w) (hi : fImm13 w < 64)
include h hi

theorem exec_openConn_refused {r : Nat} (hr : s.startOpen t (Word.field ((s.core t).get (fRa w)) 31 30)
    (Word.field ((s.core t).get (fRa w)) 8 0) (Word.field ((s.core t).get (fRa w)) 24 16) (fImm13 w) none = .error r) :
    exec (.openConn t) s = .next (s.onCore t (fun c => (c.put (fRd w) (BitVec.ofNat 32 (2 ^ 31 + r))).advance)) := by
  change execOpenConn t s = _
  refine instr_runs_ok h (decide_eq_true (by omega)) ?_
  simp only [Nat.mod_eq_of_lt hi, hr]
  rfl

theorem exec_openConn_starts {tag : Nat} {s' : State} (hr : s.startOpen t (Word.field ((s.core t).get (fRa w)) 31 30)
    (Word.field ((s.core t).get (fRa w)) 8 0) (Word.field ((s.core t).get (fRa w)) 24 16) (fImm13 w) none = .ok (tag, s')) :
    exec (.openConn t) s = .next (s'.onCore t (fun c => { c with blocked := some (.openConn tag (fRd w)), blockedAt := s'.cycle })) := by
  change execOpenConn t s = _
  refine instr_runs_ok h (decide_eq_true (by omega)) ?_
  simp only [Nat.mod_eq_of_lt hi, hr]
  rfl

end

section
variable {s : State} {t : Site} {m vx vy port : Nat} {e : Option Nat}

theorem startOpen_noTarget {r : Nat} (h : s.openTarget t m vx vy = .error r) : s.startOpen t m vx vy port e = .error r := by
  rw [State.startOpen, h]

theorem startOpen_noNumber {u : Site} (h : s.openTarget t m vx vy = .ok u) (hn : lowestFree (s.ni t).inUse 1 = none) :
    s.startOpen t m vx vy port e = .error 3 := by
  rw [State.startOpen, h]
  dsimp only
  rw [hn]

/-- The request that an OPEN leaves in its NI. -/
def openReqOf (s : State) (t : Site) (n vx vy port : Nat) (u : Site) (e : Option Nat) : OpenReq :=
  { tag := (s.ni t).nextTag, conn := n, vx := vx, vy := vy, port := port, dst := u, tries := 1, entry := e, stale := false }

theorem startOpen_ok {u : Site} {n : Nat} (h : s.openTarget t m vx vy = .ok u) (hn : lowestFree (s.ni t).inUse 1 = some n) :
    s.startOpen t m vx vy port e = .ok ((s.ni t).nextTag, (s.onNi t (fun i => { i with
      nextTag := (s.ni t).nextTag + 1, opens := i.opens ++ [openReqOf s t n vx vy port u e] })).sendOpen t
        (openReqOf s t n vx vy port u e)) := by
  rw [State.startOpen, h]
  dsimp only
  rw [hn]
  rfl

end

/-! ### The target answers (R221, R223, R224) -/

section
variable {s : State} {t : Site} {g : Grain} {rest : List Grain} {port vx vy tag : Nat}

theorem exec_openRequest (hl : s.Live t) (hp : Picks (ofKind 6) (s.ni t).inbox g rest) (hb : g.body = .openReq port vx vy tag)
    (hport : port < 64) : exec (.openRequest t) s = .next (
      (match (s.withInbox t rest).openAnswer t g port tag with
        | .accept .. => (s.withInbox t rest).bind t port g.conn.toNat (grainSrc g)
        | _ => s.withInbox t rest).niSend t
        (mkGrain t (grainSrc g) 7 g.conn.toNat 0 true (.openR tag ((s.withInbox t rest).openAnswer t g port tag)))) := by
  refine (onTile_live hl).trans ((whenSome_of (inKind_ofKind hp)).trans ?_)
  simp only [hb, Nat.mod_eq_of_lt hport] <;> rfl

theorem openAnswer_bad (h : s.portBad t port = true) : s.openAnswer t g port tag = .refuse 1 := by
  simp only [State.openAnswer, h, if_true]

theorem openAnswer_bound (h : s.portBad t port = false) (hb : (s.portRt t port).bound.isSome) (hs : grainSrc g ≠ t) :
    s.openAnswer t g port tag = .refuse 2 := by
  have hb' : ((s.ni t).port port).bound.isSome = true := hb
  simp only [State.openAnswer, h, hs, if_false, hb', if_true, Bool.false_eq_true]

end

/-! ### The answer at the source (R223, R224) -/

/-- The sending end that an acceptance opens. -/
def openedTx (o : OpenReq) (k i n b r : Nat) : TxConn :=
  { newTx o.conn o.dst with kind := k, igr := i, items := n, bytes := b, recs := r, ring := b, closed := o.stale }

section
variable {s : State} {t : Site} {g : Grain} {rest : List Grain} {tag : Nat} {ans : OpenAnswer}

theorem exec_openrReceive_unknown (hl : s.Live t) (hc : s.Canonical) (hp : Picks (ofKind 7) (s.ni t).inbox g rest)
    (hb : g.body = .openR tag ans) (ho : (s.ni t).opens.find? (fun o => decide (o.tag = tag)) = none) :
    exec (.openrReceive t) s = .next (s.withInbox t rest) := by
  refine (onTile_live hl).trans ((whenSome_of (inKind_ofKind hp)).trans ?_)
  simp only [hb, withInbox_ni hc, ho]

/-- An OPEN of the core ends: its request is gone, and the core goes on with what rd receives. -/
theorem openResult_core {o : OpenReq} {rd : Nat} (hc : s.Canonical) (hst : o.stale = false) (he : o.entry = none)
    (hb : (s.core t).blocked = some (.openConn o.tag rd)) (v : Except Nat Nat) : s.openResult t o v =
      (s.onNi t (fun n => { n with opens := n.opens.filter (fun x => decide (x.tag ≠ o.tag)) })).retire t
        (fun c => c.put rd (match v with | .ok c => BitVec.ofNat 32 c | .error r => refusal r)) := by
  simp only [State.openResult, hst, Bool.false_eq_true, if_false, he, State.onNi_core_same hc, hb, if_true] <;> rfl

variable {o : OpenReq} {rd : Nat} (hl : s.Live t) (hc : s.Canonical) (hp : Picks (ofKind 7) (s.ni t).inbox g rest)
  (hb : g.body = .openR tag ans) (ho : (s.ni t).opens.find? (fun o => decide (o.tag = tag)) = some o) (hst : o.stale = false)
  (he : o.entry = none) (hblk : (s.core t).blocked = some (.openConn tag rd))
include hl hc hp hb ho hst he hblk

omit hl hp hb hst he in
/-- The state once the grain is taken: its request is known, and the core waits for it. -/
theorem openr_taken : ((s.withInbox t rest).ni t).opens.find? (fun o => decide (o.tag = tag)) = some o ∧ o.tag = tag ∧
    ((s.withInbox t rest).core t).blocked = some (.openConn o.tag rd) := by
  have htag : o.tag = tag := by simpa using List.find?_some ho
  refine ⟨by rw [withInbox_ni hc]; exact ho, htag, ?_⟩
  rw [State.withInbox, State.onNi_core_same hc, hblk, htag]

theorem exec_openrReceive_accept {k i n b r : Nat} (ha : ans = .accept k i n b r) : ∃ s', exec (.openrReceive t) s = .next s' ∧
    s'.mem = s.mem ∧ s'.core t = ({ s.core t with blocked := none }.put rd (BitVec.ofNat 32 o.conn)).advance ∧
    (s'.ni t).tx = (s.ni t).tx ++ [openedTx o k i n b r] := by
  obtain ⟨hfind, -, hblk'⟩ := openr_taken (rest := rest) hc ho hblk
  have hc0 := s.withInbox_canonical (t := t) hc rest
  have hc1 := hc0.onNi t (fun x => { x with tx := x.tx ++ [openedTx o k i n b r] })
  refine ⟨((s.withInbox t rest).onNi t (fun x => { x with tx := x.tx ++ [openedTx o k i n b r] })).openResult t o (.ok o.conn),
    (onTile_live hl).trans ((whenSome_of (inKind_ofKind hp)).trans (by simp only [hb, hfind, ha]; rfl)), ?_⟩
  rw [openResult_core hc1 hst he (by rw [State.onNi_core_same hc0]; exact hblk')]
  refine ⟨by simp only [State.retire, State.onCore_mem, State.onNi_mem, State.withInbox], ?_, ?_⟩
  · rw [State.retire, State.onCore_core (hc1.onNi t _), State.onNi_core_same hc1, State.onNi_core_same hc0, State.withInbox,
      State.onNi_core_same hc]
  · rw [State.retire, State.onCore_ni_same (hc1.onNi t _), State.onNi_ni hc1, State.onNi_ni hc0, withInbox_ni hc]

omit hl hp hb in
/-- A request that ends in a refusal, whatever ended it. -/
theorem openResult_refuses (r : Nat) :
    let s' := (s.withInbox t rest).openResult t o (.error r)
    s'.mem = s.mem ∧ s'.core t = ({ s.core t with blocked := none }.put rd (BitVec.ofNat 32 (2 ^ 31 + r))).advance ∧
      (s'.ni t).tx = (s.ni t).tx := by
  obtain ⟨-, -, hblk'⟩ := openr_taken (rest := rest) hc ho hblk
  have hc1 := s.withInbox_canonical (t := t) hc rest
  dsimp only
  rw [openResult_core hc1 hst he hblk']
  refine ⟨rfl, ?_, ?_⟩
  · rw [State.retire, State.onCore_core (hc1.onNi t _), State.onNi_core_same hc1, State.withInbox, State.onNi_core_same hc]
    rfl
  · rw [State.retire, State.onCore_ni_same (hc1.onNi t _), State.onNi_ni hc1, withInbox_ni hc]

omit hst he in
theorem exec_openrReceive_refuse {r : Nat} (ha : ans = .refuse r) :
    exec (.openrReceive t) s = .next ((s.withInbox t rest).openResult t o (.error r)) := by
  obtain ⟨hfind, -, -⟩ := openr_taken (rest := rest) hc ho hblk
  exact (onTile_live hl).trans ((whenSome_of (inKind_ofKind hp)).trans (by simp only [hb, hfind, ha]))

/-- An answer that renumbers ends the request, or asks again. -/
theorem exec_openrReceive_renumber {c : Nat} (ha : ans = .renumber c) : ∃ s', exec (.openrReceive t) s = .next s' ∧ s'.mem = s.mem := by
  obtain ⟨hfind, -, -⟩ := openr_taken (rest := rest) hc ho hblk
  obtain ⟨hmem, -⟩ := openResult_refuses hc ho hst he hblk 3
  have hx : ∀ out, (out = .next ((s.withInbox t rest).openResult t o (.error 3)) ∨ ∃ n f, out =
      Host.Outcome.next (φ := Fault) (ρ := Refusal) (((s.withInbox t rest).onNi t f).niSend t n)) → ∃ s', out = .next s' ∧ s'.mem = s.mem := by
    rintro out (rfl | ⟨n, f, rfl⟩)
    · exact ⟨_, rfl, hmem⟩
    · exact ⟨_, rfl, rfl⟩
  refine hx _ ?_
  change onTile t s _ = _ ∨ ∃ n f, onTile t s _ = _
  rw [onTile_live hl, whenSome_of (inKind_ofKind hp)]
  simp only [hb, hfind, ha, hst, Bool.false_eq_true, if_false]
  split
  · exact .inl rfl
  · split
    · exact .inl rfl
    · exact .inr ⟨_, _, rfl⟩

end

/-- Settles O31: an OPEN is refused at once or waits under a new tag, the target binds when it accepts, and rd takes the answer. -/
theorem connectionsOpen : Obligations.ConnectionsOpen := by
  intro s t w g rest hc
  refine ⟨fun h hi => ⟨fun r hr => ?_, fun u hu hn => ?_, fun u n hu hn => ?_⟩,
    fun hl hp port vx vy tag hb hport => ⟨fun hna => ?_, fun k i n b r ha => ?_, openAnswer_bad, openAnswer_bound⟩,
    fun hl hp tag ans hb => ⟨exec_openrReceive_unknown hl hc hp hb, fun o rd ho hst he hblk => ?_⟩⟩
  · exact exec_openConn_refused h hi (startOpen_noTarget hr)
  · exact exec_openConn_refused h hi (startOpen_noNumber hu hn)
  · refine ⟨_, exec_openConn_starts h hi (startOpen_ok hu hn), ?_, ?_, .of_mem rfl⟩
    · simp only [State.sendOpen, State.niSend]
      rw [State.onCore_core ((hc.onNi t _).onNi t _), State.onNi_core_same (hc.onNi t _),
        State.onNi_core_same hc]
      rfl
    · simp only [State.sendOpen, State.niSend]
      rw [State.onCore_ni_same ((hc.onNi t _).onNi t _), State.onNi_ni (hc.onNi t _), State.onNi_ni hc]
      rfl
  · rw [exec_openRequest hl hp hb hport]
    cases ha : (s.withInbox t rest).openAnswer t g port tag with
    | accept k i n b r => exact absurd ha (hna k i n b r)
    | refuse r => rfl
    | renumber c => rfl
  · rw [exec_openRequest hl hp hb hport]
    exact congrArg _ (congrArg (fun u : State => u.niSend t _) (by
      rw [show (s.withInbox t rest).openAnswer t g port tag = .accept k i n b r from ha]))
  · cases ans with
    | accept k i n b r =>
      obtain ⟨s', hx, hmem, hcore, htx⟩ := exec_openrReceive_accept hl hc hp hb ho hst he hblk rfl
      refine ⟨s', hx, .of_mem hmem, ?_, fun _ h => OpenAnswer.noConfusion h⟩
      rintro _ _ _ _ _ ⟨rfl, rfl, rfl, rfl, rfl⟩
      rw [htx, openedTx, hst]
      exact ⟨hcore, rfl⟩
    | refuse r =>
      obtain ⟨hmem, hcore, htx⟩ := openResult_refuses hc ho hst he hblk r
      refine ⟨_, exec_openrReceive_refuse hl hc hp hb ho hblk rfl, .of_mem hmem, fun _ _ _ _ _ h => OpenAnswer.noConfusion h, ?_⟩
      rintro _ ⟨rfl⟩
      exact ⟨hcore, htx⟩
    | renumber c =>
      obtain ⟨s', hx, hmem⟩ := exec_openrReceive_renumber hl hc hp hb ho hst he hblk rfl
      exact ⟨s', hx, .of_mem hmem, fun _ _ _ _ _ h => OpenAnswer.noConfusion h, fun _ h => OpenAnswer.noConfusion h⟩

end Sys2Proof.Machine
end

section
/-!
PROOFS. Remote writes and reads, their answers, and a steward's access to a tile's registers (R42, R43, R232, R233).
-/
namespace Sys2Proof.Machine

theorem storeAddr_sub_zero (t : Site) (o : Nat) : storeAddr t o - storeAddr t 0 = o := by
  unfold storeAddr
  omega

section
variable {s : State} {t : Site} {g : Grain} {rest : List Grain}

theorem State.withReady_canonical (hc : s.Canonical) (rest : List Grain) : (s.withReady t rest).Canonical := hc.onNi t _

/-! ### WR and RD (R43, R76, R232) -/

/-- A write at the window that its address names. -/
def State.windowWrite (s : State) (t : Site) (bs : List Byte) : Window → State
  | .store o => s.writeStore t o bs (s.cfld t aNiCfg 47 44)
  | .loam o => s.loamPut t o bs
  | .spill o => s.setBytes (spillAddr t o) bs

section
variable {a : Nat} {bs : List Byte} (hl : s.LiveSite t) (hp : Picks (fun h : Grain => decide (h.kind.toNat = 2)) (s.ni t).ready g rest)
  (hb : g.body = .wr a bs)
include hl hp hb

theorem exec_remoteWrite_refused {e : Nat} (hw : (s.withReady t rest).window t a bs.length = .error e) :
    exec (.remoteWrite t) s = .next ((s.withReady t rest).returnErr t g e) := by
  refine (onSite_live hl).trans ((whenSome_of (readyKind_picks hp)).trans ?_)
  simp only [hb, hw]

theorem exec_remoteWrite_served {w : Window} (hw : (s.withReady t rest).window t a bs.length = .ok w) : exec (.remoteWrite t) s =
    .next (((s.withReady t rest).windowWrite t bs w).emitPair t (grainSrc g) [(5, true, .wra)]) := by
  refine (onSite_live hl).trans ((whenSome_of (readyKind_picks hp)).trans ?_)
  simp only [hb, hw]
  cases w <;> rfl

end

/-- The answer to a write leaves what it wrote. -/
theorem emitPair_writes {u : State} {gs : List (Nat × Bool × Payload)} {a n : Nat} {bs : List Byte} {p : Site} (hc : u.Canonical)
    (ho : SameOutside s u a n) (hr : ∀ k, k < n → u.byte (a + k) = bs.getD k 0) : SameOutside s (u.emitPair t p gs) a n ∧
      ∀ k, k < n → (u.emitPair t p gs).byte (a + k) = bs.getD k 0 := by
  have hb := State.byte_of_mem ((niOnly_emitPair u t p gs).mem hc)
  exact ⟨fun x hx => (hb x).trans (ho x hx), fun k hk => (hb _).trans (hr k hk)⟩

section
variable {a : Nat} (hl : s.LiveSite t) (hp : Picks (fun h : Grain => decide (h.kind.toNat = 3)) (s.ni t).ready g rest)
  (hb : g.body = .rd a)
include hl hp hb

theorem exec_remoteRead_refused {e : Nat} (hw : (s.withReady t rest).window t a 64 = .error e) :
    exec (.remoteRead t) s = .next ((s.withReady t rest).returnErr t g e) := by
  refine (onSite_live hl).trans ((whenSome_of (readyKind_picks hp)).trans ?_)
  simp only [hb, hw]

theorem exec_remoteRead_spill {o : Nat} (hw : (s.withReady t rest).window t a 64 = .ok (.spill o)) : exec (.remoteRead t) s =
    .next ((s.withReady t rest).emitPair t (grainSrc g) [(4, false, .data ((s.bytes (spillAddr t o) 64).take 32)),
      (4, true, .data ((s.bytes (spillAddr t o) 64).drop 32))]) := by
  refine (onSite_live hl).trans ((whenSome_of (readyKind_picks hp)).trans ?_)
  simp only [hb, hw]
  rfl

theorem exec_remoteRead_bad {o : Nat} (hw : (s.withReady t rest).window t a 64 = .ok (.store o))
    (hu : ((s.withReady t rest).firstUe t o 64).isSome) : exec (.remoteRead t) s =
      .next (((s.withReady t rest).eccRead t o 64).1.returnErr t g errAddr) := by
  refine (onSite_live hl).trans ((whenSome_of (readyKind_picks hp)).trans ?_)
  simp only [hb, hw, State.readStore_eq, hu, if_true]

theorem exec_remoteRead_store {o : Nat} (hw : (s.withReady t rest).window t a 64 = .ok (.store o))
    (hu : (s.withReady t rest).firstUe t o 64 = none) : exec (.remoteRead t) s =
      .next (((s.withReady t rest).eccRead t o 64).1.emitPair t (grainSrc g)
        [(4, false, .data ((s.bytes (storeAddr t o) 64).take 32)), (4, true, .data ((s.bytes (storeAddr t o) 64).drop 32))]) := by
  refine (onSite_live hl).trans ((whenSome_of (readyKind_picks hp)).trans ?_)
  simp only [hb, hw, State.readStore_eq, hu, Option.isSome_none, Bool.false_eq_true, if_false]
  rfl

end

/-! ### The answers at the source (R233) -/

theorem State.withReady_flightOf (hc : s.Canonical) (q : Nat) : (s.withReady t rest).flightOf t q = s.flightOf t q := by
  rw [State.flightOf, (niOnly_withReady s t rest).queue hc, State.flightOf]

/-- A PUT whose write is acknowledged. -/
def putAnswered (f : InFlight) : InFlight := match f.work with
  | .put sent ans => settleRemote { f with work := .put sent (ans + 1), progress := if f.fault.isSome then f.progress else (ans + 1) / 2 }
  | _ => f

theorem exec_wraReceive (hl : s.Live t) (hp : Picks (fun h : Grain => decide (h.kind.toNat = 5)) (s.ni t).ready g rest) :
    exec (.wraReceive t) s = .next ((s.withReady t rest).onFlight t 6 putAnswered) :=
  (onTile_live hl).trans (whenSome_of (readyKind_picks hp))

theorem putAnswered_put {f : InFlight} {sent ans : Nat} (hw : f.work = .put sent ans) :
    (putAnswered f).work = .put sent (ans + 1) ∧ (f.fault = none → (putAnswered f).progress = (ans + 1) / 2 ∧
      ((putAnswered f).done = true ↔ ans + 1 = 2 * sent ∧ sent = Desc.field f.entry.desc 57 45 + 1)) := by
  simp only [putAnswered, hw, settleRemote, true_and]
  intro hn
  simp [hn]

/-- A GET that has received half a line more. -/
def getAnswered (asked got : Nat) (f : InFlight) : InFlight :=
  settleRemote { f with work := .get asked (got + 1), progress := if f.fault.isSome then f.progress else (got + 1) / 2 }

theorem exec_rdrReceive {f : InFlight} {asked got : Nat} {bs : List Byte} (hl : s.Live t) (hc : s.Canonical)
    (hp : Picks (fun h : Grain => decide (h.kind.toNat = 4)) (s.ni t).ready g rest) (hb : g.body = .data bs)
    (hf : s.flightOf t 6 = some f) (hd : f.done = false) (hw : f.work = .get asked got) (hn : f.fault = none) :
    exec (.rdrReceive t) s = .next (((s.withReady t rest).writeStore t (64 * Desc.field f.entry.desc 44 32 + 32 * got) bs
      (dGen f.entry.desc)).onFlight t 6 (getAnswered asked got)) := by
  have hni : (s.withReady t rest).niFlight t = some f := by
    rw [State.niFlight, State.withReady_flightOf hc, hf, Option.filter_some, hd]
    rfl
  refine (onTile_live hl).trans ((whenSome_of (readyKind_picks hp)).trans ?_)
  simp only [hni, hw, hb, hn, Option.isSome_none, Bool.false_eq_true, if_false, rowOff]
  rfl

/-! ### Stewards (R43, R72) -/

section
variable (hl : s.LiveSite t) (hp : Picks (ofKind 14) (s.ni t).inbox g rest)
include hl hp

theorem exec_svcAccess_refused (hs : (grainSrc g).isSteward = false) :
    exec (.svcAccess t) s = .next ((s.withInbox t rest).returnErr t g errPerm) := by
  refine (onSite_live hl).trans ((whenSome_of (inKind_ofKind hp)).trans ?_)
  simp only [hs, Bool.not_false, if_true]

section
variable {o n b : Nat} (hs : (grainSrc g).isSteward = true) (ht : t.isTile = true) (ho : o < 0x80000) (hr : ctrlReg o = some (n, b))
include hs ht ho hr

theorem exec_svcAccess_write {v : Dword} (hb : g.body = .svcWrite (storeAddr t o) v) :
    exec (.svcAccess t) s = .next ((s.withInbox t rest).ctrlWrite t b v) := by
  have hin : (!(decide (storeAddr t 0 ≤ storeAddr t o) && decide (o < 0x80000))) = false := by
    rw [decide_eq_true ho, decide_eq_true (by unfold storeAddr; omega)]; rfl
  refine (onSite_live hl).trans ((whenSome_of (inKind_ofKind hp)).trans ?_)
  simp only [hs, Bool.not_true, Bool.false_eq_true, if_false, ht, if_true, hb, storeAddr_sub_zero, hin, hr]

theorem exec_svcAccess_read (hb : g.body = .svcRead (storeAddr t o)) :
    exec (.svcAccess t) s = .next { s.withInbox t rest with queried := (s.withInbox t rest).ctrlRead t b } := by
  have hin : (!(decide (storeAddr t 0 ≤ storeAddr t o) && decide (o < 0x80000))) = false := by
    rw [decide_eq_true ho, decide_eq_true (by unfold storeAddr; omega)]; rfl
  refine (onSite_live hl).trans ((whenSome_of (inKind_ofKind hp)).trans ?_)
  simp only [hs, Bool.not_true, Bool.false_eq_true, if_false, ht, if_true, hb, storeAddr_sub_zero, hin, hr]

end

section
variable {a : Nat} (hs : (grainSrc g).isSteward = true) (ht : t.isTile = false)
include hs ht

theorem exec_svcAccess_siteWrite {v : Dword} (hb : g.body = .svcWrite a v) : exec (.svcAccess t) s = .next (s.withInbox t rest) := by
  refine (onSite_live hl).trans ((whenSome_of (inKind_ofKind hp)).trans ?_)
  simp only [hs, Bool.not_true, Bool.false_eq_true, if_false, ht, hb]

theorem exec_svcAccess_siteRead (hb : g.body = .svcRead a) : ∃ v, exec (.svcAccess t) s =
    .next { s.withInbox t rest with freeCtr := (s.withInbox t rest).freeCtr + 1, queried := v } := by
  refine ⟨(s.withInbox t rest).takeFree.1, (onSite_live hl).trans ((whenSome_of (inKind_ofKind hp)).trans ?_)⟩
  simp only [hs, Bool.not_true, Bool.false_eq_true, if_false, ht, hb]
  rfl

end

end

end

/-- Settles O34: a remote write changes its own bytes alone, a read answers what memory holds, and refusals answer with ERR. -/
theorem remoteAccesses : Obligations.RemoteAccesses := by
  intro s t g rest hc hl s0 kind
  have hc0 : s0.Canonical := s.withReady_canonical hc rest
  refine ⟨fun a bs hp hb hn => ?_, fun a hp hb => ⟨fun e hw => exec_remoteRead_refused hl hp hb hw,
      fun o hw => ⟨_, rfl, exec_remoteRead_spill hl hp hb hw⟩, fun o hw hu => exec_remoteRead_bad hl hp hb hw hu,
      fun o hw hu => ⟨_, rfl, exec_remoteRead_store hl hp hb hw hu⟩⟩,
    fun ht f sent ans hp hf hw => ?_, fun ht f asked got bs hp hb hn hf hd hw hfn => ?_,
    fun box hp => ⟨exec_svcAccess_refused hl hp, fun o n b hs ht ho hr => ⟨fun v => exec_svcAccess_write hl hp hs ht ho hr,
      exec_svcAccess_read hl hp hs ht ho hr⟩, fun a hs ht => ⟨fun v => exec_svcAccess_siteWrite hl hp hs ht,
      exec_svcAccess_siteRead hl hp hs ht⟩⟩⟩
  · have hne : bs ≠ [] := by rintro rfl; cases hn
    rw [← hn]
    refine ⟨fun e hw => exec_remoteWrite_refused hl hp hb hw, fun o hw => ⟨_, exec_remoteWrite_served hl hp hb hw, ?_⟩,
      fun o hw => ⟨_, exec_remoteWrite_served hl hp hb hw, ?_⟩, fun o hw => exec_remoteWrite_served hl hp hb hw⟩
    · exact emitPair_writes (State.setBytes_canonical hc0 _ _) (State.setBytes_sameOutside s0 _ bs)
        (fun k hk => State.setBytes_reads hc0 hk)
    · exact emitPair_writes (State.writeStore_canonical hc0 t o bs _) (State.writeStore_sameOutside hc0 t o hne _)
        (fun k hk => State.writeStore_reads hc0 t o hne _ hk)
  · obtain ⟨hwork, hprog⟩ := putAnswered_put hw
    refine ⟨_, putAnswered f, exec_wraReceive ⟨ht, hl.thawed⟩ hp, ?_, hwork, .of_mem rfl, hprog⟩
    rw [flightOf_onFlight hc0 t (by decide), State.withReady_flightOf hc, hf]
    rfl
  · have hne : bs ≠ [] := by rintro rfl; cases hn
    refine ⟨_, getAnswered asked got f, exec_rdrReceive ⟨ht, hl.thawed⟩ hc hp hb hf hd hw hfn, ?_, rfl, ?_, fun k hk => ?_⟩
    · rw [flightOf_onFlight (State.writeStore_canonical hc0 t _ bs _) t (by decide), State.flightOf,
        State.writeStore_queue hc0, ← State.flightOf, State.withReady_flightOf hc, hf]
      rfl
    · rw [← hn]
      exact State.writeStore_sameOutside hc0 t _ hne _
    · exact State.writeStore_reads hc0 t _ hne _ (hn ▸ hk)

end Sys2Proof.Machine
end

section
/-!
PROOFS. Configuration-frame switches (R142, R249, R250): what the tables and the open list leave of the tile, and the two events.
-/
namespace Sys2Proof.Machine

/-- The core and the accesses that wait, as a switch configures the tile around them. -/
structure Configures (t : Site) (s s' : State) : Prop where
  canon   : s.Canonical → s'.Canonical
  core    : s.Canonical → s'.core t = s.core t
  waiting : s.Canonical → (s'.ni t).waiting = (s.ni t).waiting

section
variable {t : Site} {s s' s'' : State}

theorem Configures.refl (t : Site) (s : State) : Configures t s s := ⟨id, fun _ => rfl, fun _ => rfl⟩

theorem Configures.trans (h : Configures t s s') (k : Configures t s' s'') : Configures t s s'' where
  canon := fun hc => k.canon (h.canon hc)
  core := fun hc => (k.core (h.canon hc)).trans (h.core hc)
  waiting := fun hc => (k.waiting (h.canon hc)).trans (h.waiting hc)

theorem configures_foldl {α : Type} {f : State → α → State} (hf : ∀ u a, Configures t u (f u a)) (l : List α) (s : State) :
    Configures t s (l.foldl f s) :=
  List.foldlRecOn (motive := fun u : State => Configures t s u) l f (.refl t s) (fun u hu a _ => hu.trans (hf u a))

theorem configures_setCreg (s : State) (t : Site) (a : Nat) (v : Dword) : Configures t s (s.setCreg t a v) where
  canon := fun hc => hc.setCreg t a v
  core := fun hc => State.setCreg_core hc t a v
  waiting := fun hc => by rw [State.setCreg_ni hc]

theorem configures_setBytes (s : State) (t : Site) (a : Nat) (bs : List Byte) : Configures t s (s.setBytes a bs) where
  canon := fun hc => State.setBytes_canonical hc a bs
  core := fun _ => State.setBytes_core s a bs t
  waiting := fun _ => by rw [State.setBytes_ni]

theorem configures_onNi (s : State) (t : Site) {f : Ni → Ni} (hf : ∀ n, (f n).waiting = n.waiting) : Configures t s (s.onNi t f) where
  canon := fun hc => hc.onNi t f
  core := fun hc => State.onNi_core_same hc t f
  waiting := fun hc => by rw [State.onNi_ni hc, hf]

theorem configures_eccRead (s : State) (t : Site) (off n : Nat) : Configures t s (s.eccRead t off n).1 where
  canon := (meets_eccRead s t off n).canon
  core := (meets_eccRead s t off n).core
  waiting := fun hc => by rw [(meets_eccRead s t off n).ni hc]

/-! ### The tables and the open list -/

theorem configures_checkSpill (s : State) (t : Site) : Configures t s (s.checkSpill t) := by
  unfold State.checkSpill
  split
  · exact configures_setCreg s t _ _
  · exact .refl t s

theorem configures_loadTable (s : State) (t : Site) (h : List Byte) (off a w n : Nat) : Configures t s (s.loadTable t h off a w n) :=
  configures_foldl (fun u _ => configures_setCreg u t _ _) _ s

theorem configures_loadTables (s : State) (t : Site) (h : List Byte) : Configures t s (s.loadTables t h) :=
  ((((configures_loadTable ..).trans (configures_loadTable ..)).trans (configures_loadTable ..)).trans
    (configures_loadTable ..)).trans (configures_checkSpill ..)

theorem configures_sendOpen (s : State) (t : Site) (o : OpenReq) : Configures t s (s.sendOpen t o) := by
  unfold State.sendOpen State.niSend
  exact configures_onNi s t (by exact fun _ => rfl)

theorem configures_startOpen {m vx vy port tag : Nat} {e : Option Nat} (h : s.startOpen t m vx vy port e = .ok (tag, s')) :
    Configures t s s' := by
  unfold State.startOpen at h
  split at h
  · cases h
  · split at h
    · cases h
    · cases h
      exact .trans (configures_onNi s t (by exact fun _ => rfl)) (configures_sendOpen ..)

theorem configures_openEntry (s : State) (t : Site) (base : Nat) (h : List Byte) (i : Nat) :
    Configures t s (s.openEntry t base h i) := by
  unfold State.openEntry
  extract_lets e at_
  split
  · exact .refl t s
  · split
    · next hs => exact configures_startOpen hs
    · exact (configures_eccRead ..).trans (configures_setBytes ..)

/-! ### The switch and the entry -/

/-- A tile whose connections close: its core holds nothing, and no access waits. -/
theorem clearNi_clears (hc : s.Canonical) : (s.clearNi t).Canonical ∧ (s.clearNi t).core t = { s.core t with held := none } ∧
    ((s.clearNi t).ni t).waiting = [] := by
  have hn : NiOnly t s (((s.ni t).tx.filter (fun x => decide (x.conn < 0x3C0))).foldl (fun s x => s.sendClose t x) s) :=
    List.foldlRecOn (motive := fun u : State => NiOnly t s u) _ _ (.refl t s) (fun u hu x _ =>
      fun hc => by rw [State.sendClose_eq (hu.canon hc)]; exact hu.onNi _ hc)
  have h1 := hn.canon hc
  unfold State.clearNi
  refine ⟨(h1.onNi t _).onCore t _, ?_, ?_⟩
  · rw [State.onCore_core (h1.onNi t _), State.onNi_core_same h1, hn.core hc]
  · rw [State.onCore_ni_same (h1.onNi t _), State.onNi_ni h1]

/-- The header of frame f. -/
def State.frameHeader (s : State) (t : Site) (f : Nat) : List Byte := s.bytes (storeAddr t (64 * s.cfld t (aNiFrame f) 12 0)) 1024

/-- The tile once the header of the new frame is read, its tables stand and its open list is under way (R249). -/
def State.configured (s : State) (t : Site) (f : Nat) : State :=
  (List.range (min 12 (leAt (s.frameHeader t f) 0 8 / 2 ^ 32 % 16))).foldl
    (fun u i => u.openEntry t (64 * s.cfld t (aNiFrame f) 12 0) (s.frameHeader t f) i)
    ((s.eccRead t (64 * s.cfld t (aNiFrame f) 12 0) 1024).1.loadTables t (s.frameHeader t f))

theorem configures_configured (s : State) (t : Site) (f : Nat) : Configures t s (s.configured t f) :=
  ((configures_eccRead ..).trans (configures_loadTables ..)).trans (configures_foldl (fun u i => configures_openEntry u t _ _ i) _ _)

theorem exec_frameSwitch {f : Nat} (hl : s.Live t) (hf : (s.core t).switching = some f) (hr : s.switchReady t = true) :
    exec (.frameSwitch t) s = .next (((s.clearNi t).configured t f).onCore t (fun c => { c with
      frame := f
      blocked := none
      switch := some { frame := f, opening := true, entry := leAt ((s.clearNi t).frameHeader t f) 0 8 % 2 ^ 19 / 4 * 4 } })) := by
  refine (onTile_live hl).trans ((whenSome_of hf).trans ((when_of hr).trans ?_))
  simp only [State.readStore_eq]
  rfl

theorem exec_frameEntry {x : Switch} (hl : s.Live t) (hx : (s.core t).switch = some x) (ho : x.opening = true)
    (ha : ∀ o ∈ (s.ni t).opens, o.entry = none ∨ o.stale = true) : exec (.frameEntry t) s = .next (s.onCore t (fun c => { c with
      switch := none, run := .running, pc := BitVec.ofNat 19 x.entry, fetch := [] })) := by
  refine (onTile_live hl).trans ((whenSome_of hx).trans (when_of ?_))
  rw [ho, Bool.true_and, List.all_eq_true]
  intro o hm
  simpa [Option.isNone_iff_eq_none] using ha o hm

theorem allDone_iff : s.allDone t 0xFF = true ↔ ∀ q, q < 8 → (s.queue t q).ccnt = (s.queue t q).icnt := by
  have hbit : ∀ q, q < 8 → Nat.testBit 0xFF q = true := by decide
  simp only [State.allDone, List.all_eq_true, List.mem_range]
  exact forall₂_congr fun q hq => by simp [hbit q hq]

theorem switchReady_iff : s.switchReady t = true ↔ (∀ q, q < 8 → (s.queue t q).ccnt = (s.queue t q).icnt) ∧
    (s.core t).stbuf = [] ∧ (s.core t).pendQ = [] ∧ ∀ x ∈ (s.ni t).tx, x.unacked = 0 ∧ x.q = [] := by
  simp [State.switchReady, allDone_iff, and_assoc]

end

/-- Settles O39: the tables and the open list leave the core and its waiting accesses as clearing the NI left them. -/
theorem frameSwitches : Obligations.FrameSwitches := by
  intro s t f hc hl
  refine ⟨fun hf hr => ?_, fun x hx ho ha => exec_frameEntry hl hx ho ha, switchReady_iff⟩
  have hu := configures_configured (s.clearNi t) t f
  obtain ⟨h0, hcore, hwait⟩ := clearNi_clears (t := t) hc
  have h1 := hu.canon h0
  have hk := State.onCore_core h1 t (fun c => { c with
    frame := f
    blocked := none
    switch := some { frame := f, opening := true, entry := leAt ((s.clearNi t).frameHeader t f) 0 8 % 2 ^ 19 / 4 * 4 } })
  refine ⟨_, exec_frameSwitch hl hf hr, by rw [hk], by rw [hk], ⟨_, by rw [hk], rfl, rfl⟩, ?_, ?_, ?_⟩
  · rw [State.onCore_ni_same h1, hu.waiting h0, hwait]
  · rw [hk, hu.core h0, hcore]
  · rw [hk, hu.core h0, hcore]

end Sys2Proof.Machine
end

section
/-!
PROOFS. Active messages (R135 to R138, R241 to R244): SEND and its events, arrival, the dispatch of a handler, and HRET.
-/
namespace Sys2Proof.Machine

/-! ### SEND (R136, R137, R242) -/

section
variable {s : State} {t : Site} {w : Word} (h : s.Runs t 0x32 w) (hf : fFn w < 64)
include h hf

theorem exec_send_misaligned (ha : ((s.core t).get (fRb w)).toNat % 8 ≠ 0) :
    exec (.send t) s = .next (s.takeTrap t 3 ((s.core t).get (fRb w))) := by
  change execSend t s = _
  refine instr_runs_trap h (decide_eq_true (by omega)) ?_
  simp only [ha, if_true, ne_eq, not_false_eq_true]
  rfl

variable (ha : ((s.core t).get (fRb w)).toNat % 8 = 0)
include ha

theorem exec_send_beyond (he : s.storeEnd t < ((s.core t).get (fRb w)).toNat + ((s.core t).get (fRd w)).toNat) :
    exec (.send t) s = .next (s.takeTrap t 4 ((s.core t).get (fRb w))) := by
  change execSend t s = _
  refine instr_runs_trap h (decide_eq_true (by omega)) ?_
  simp only [ha, ne_eq, not_true_eq_false, if_false, he, if_true]
  rfl

variable (he : ((s.core t).get (fRb w)).toNat + ((s.core t).get (fRd w)).toNat ≤ s.storeEnd t)
include he

theorem exec_send_unopened (hx : (s.ni t).openTx ((s.core t).get (fRa w)).toNat = none) :
    exec (.send t) s = .next (s.takeTrap t 7 ((s.core t).get (fRa w))) := by
  change execSend t s = _
  refine instr_runs_trap h (decide_eq_true (by omega)) ?_
  simp only [ha, ne_eq, not_true_eq_false, if_false, Nat.not_lt.2 he, hx, Option.isNone_none, if_true]
  rfl

variable (hx : ((s.ni t).openTx ((s.core t).get (fRa w)).toNat).isSome)
include hx

theorem exec_send_badLength (hn : (s.core t).get (fRd w) = 0 ∨ 4096 < ((s.core t).get (fRd w)).toNat) :
    exec (.send t) s = .next (s.takeTrap t 7 ((s.core t).get (fRd w))) := by
  have hbad : (decide (((s.core t).get (fRd w)).toNat = 0) || decide (4096 < ((s.core t).get (fRd w)).toNat)) = true := by
    rcases hn with hn | hn
    · simp [hn]
    · simp [hn]
  change execSend t s = _
  refine instr_runs_trap h (decide_eq_true (by omega)) ?_
  simp only [ha, ne_eq, not_true_eq_false, if_false, Nat.not_lt.2 he, Option.isNone_eq_false_iff.2 hx, Bool.false_eq_true, hbad, if_true]
  rfl

theorem exec_send_waits (h0 : (s.core t).get (fRd w) ≠ 0) (hn : ((s.core t).get (fRd w)).toNat ≤ 4096) (hb : (s.core t).stbuf = []) :
    exec (.send t) s = .next (s.onCore t (fun c => { c with
      blocked := some (.send ((s.core t).get (fRa w)).toNat ((s.core t).get (fRb w)).toNat ((s.core t).get (fRd w)).toNat (fFn w))
      blockedAt := s.cycle })) := by
  have h0' : ((s.core t).get (fRd w)).toNat ≠ 0 := fun e => h0 (BitVec.eq_of_toNat_eq e)
  change execSend t s = _
  refine instr_runs_ok h (decide_eq_true (by omega)) ?_
  simp only [ha, ne_eq, not_true_eq_false, if_false, Nat.not_lt.2 he, Option.isNone_eq_false_iff.2 hx, Bool.false_eq_true, h0',
    decide_false, Nat.not_lt.2 hn, Bool.or_self, hb, List.isEmpty_nil, Bool.not_true, effBlock]

end

section
variable {s : State} {t : Site} {k a n h : Nat} (hl : s.Live t) (hb : (s.core t).blocked = some (.send k a n h))
include hl hb

section
variable {x : TxConn} (hs : (s.ni t).sendLeft = none) (ht : s.twinStall t = false) (hx : (s.ni t).openTx k = some x)
include hs ht hx

/-- The message of a SEND that waits leaves when its connection has the credit that its place in the ring takes. -/
theorem exec_sendStart : exec (.sendStart t) s =
    (let size := 32 * ((n + 31) / 32)
     let e := x.ring - x.woff
     if size ≤ e then
       when_ "SEND_START" (decide (size ≤ x.bytes) && decide (1 ≤ x.recs)) (s.startMessage t x a n h false)
     else if e + size ≤ x.ring then
       when_ "SEND_START" (decide (e + size ≤ x.bytes) && decide (2 ≤ x.recs)) (s.startMessage t x a n h true)
     else
       when_ "SEND_START" (decide (e ≤ x.bytes) && decide (1 ≤ x.recs)) (s.onTx t (isConn k) (fun x => { x with
         bytes := x.bytes - e, recs := x.recs - 1, woff := 0
         q := x.q ++ [(1, true, .msgHead 0 true 0 (x.woff / 32))] }))) := by
  refine (onTile_live hl).trans ?_
  simp only [hb, hs, ht, Option.isSome_none, Bool.or_self, Bool.false_eq_true, if_false]
  exact whenSome_of hx

theorem exec_sendStart_fits (h1 : 32 * ((n + 31) / 32) ≤ x.ring - x.woff) (h2 : 32 * ((n + 31) / 32) ≤ x.bytes) (h3 : 1 ≤ x.recs) :
    exec (.sendStart t) s = .next (s.startMessage t x a n h false) := by
  rw [exec_sendStart hl hb hs ht hx]
  exact (if_pos h1).trans (when_of (by simp [h2, h3]))

theorem exec_sendStart_wraps (h1 : x.ring - x.woff < 32 * ((n + 31) / 32)) (h2 : x.ring - x.woff + 32 * ((n + 31) / 32) ≤ x.ring)
    (h3 : x.ring - x.woff + 32 * ((n + 31) / 32) ≤ x.bytes) (h4 : 2 ≤ x.recs) :
    exec (.sendStart t) s = .next (s.startMessage t x a n h true) := by
  rw [exec_sendStart hl hb hs ht hx]
  exact (if_neg (Nat.not_le.2 h1)).trans ((if_pos h2).trans (when_of (by simp [h3, h4])))

theorem exec_sendStart_marks (h1 : x.ring - x.woff < 32 * ((n + 31) / 32)) (h2 : x.ring < x.ring - x.woff + 32 * ((n + 31) / 32))
    (h3 : x.ring - x.woff ≤ x.bytes) (h4 : 1 ≤ x.recs) : exec (.sendStart t) s = .next (s.onTx t (isConn k) (fun y => { y with
      bytes := y.bytes - (x.ring - x.woff), recs := y.recs - 1, woff := 0
      q := y.q ++ [(1, true, .msgHead 0 true 0 (y.woff / 32))] })) := by
  rw [exec_sendStart hl hb hs ht hx]
  exact (if_neg (Nat.not_le.2 h1)).trans ((if_neg (Nat.not_le.2 h2)).trans (when_of (by simp [h3, h4])))

end

theorem exec_sendRetire {j : Nat} (hj : (s.ni t).sendLeft = some j) (hq : ∀ x ∈ (s.ni t).txOf j, x.q = []) :
    exec (.sendRetire t) s = .next ((s.onNi t (fun n => { n with sendLeft := none })).onCore t (fun c =>
      { c with blocked := none }.advance)) := by
  refine (onTile_live hl).trans ?_
  simp only [hb, hj]
  refine when_of ?_
  cases hx : (s.ni t).txOf j with
  | none => rfl
  | some x => simp [hq x hx]

end

/-! ### Arrival (R241, R243) -/

section
variable {s : State} {t : Site}

theorem exec_messageArrival {j n slot off : Nat} {wrap : Bool} {g : Grain} {data rest : List Grain} {r : RxConn} (hc : s.Canonical)
    (hl : s.Live t) (hw : wholeRun 1 (s.ni t).ready = some (j, g :: data, rest))
    (hr : (s.ni t).rx.find? (fun r => decide (r.conn = j)) = some r) (hb : g.body = .msgHead n wrap slot off) :
    exec (.messageArrival t) s = .next ((s.withReady t rest).takeRecord t r.port r.src j n slot (32 * off) wrap
      (data.flatMap grainBytes)) := by
  have hj : r.conn = j := by simpa using List.find?_some hr
  refine (onTile_live hl).trans ((whenSome_of hw).trans ?_)
  simp only [State.onNi_ni hc, hr, hb, hj]
  rfl

/-! ### Dispatch (R138) -/

/-- The core as it enters the handler of a message that it then holds: the bank takes the message's five words. -/
def Core.handling (c : Core) (h : HeldMsg) (hpc : Word) (entry : BitVec 19) (at_ len who conn slot : Word) : Core :=
  ((((({ c with blocked := none, handH := true, held := some h, hpc := hpc }.put 24 at_).put 25 len).put 26 who).put 27 conn).put 28
    slot).jump entry

theorem Core.handling_eq (c : Core) (h : HeldMsg) (hpc : Word) (entry : BitVec 19) (at_ len who conn slot : Word) :
    c.handling h hpc entry at_ len who conn slot = { c with
      blocked := none, handH := true, held := some h, hpc := hpc, pc := entry, fetch := []
      bank := ((((c.bank.set 0 at_).set 1 len).set 2 who).set 3 conn).set 4 slot } := rfl

theorem Core.handling_get (c : Core) (h : HeldMsg) (hpc : Word) (entry : BitVec 19) (at_ len who conn slot : Word) :
    let d := c.handling h hpc entry at_ len who conn slot
    d.get 24 = at_ ∧ d.get 25 = len ∧ d.get 26 = who ∧ d.get 27 = conn ∧ d.get 28 = slot := by
  dsimp only
  rw [Core.handling_eq]
  simp [Core.get]

theorem exec_handlerDispatch {h : HeldMsg} {rest : List HeldMsg} {m : MsgRec} (hc : s.Canonical) (hl : s.Live t) (hw : (s.ni t).waiting = h :: rest)
    (hm : s.mayHandle t = true) (hv : s.virt m.src ≠ none)
    (hf : (s.portRt t h.port).msgs.find? (fun m => decide (m.off = h.off) && !m.done && !m.lap && !m.wrap) = some m) :
    exec (.handlerDispatch t) s = .next ((s.onNi t (fun n => { n with waiting := rest })).onCore t (fun c =>
      c.handling h (BitVec.setWidth 32 (if c.blocked = some .wfe then c.pc + 4 else c.pc)) (pcOf (s.cfld t (aNiHslot m.slot) 18 2 * 4))
        (BitVec.ofNat 32 (s.portBase t h.port + m.off)) (BitVec.ofNat 32 m.len) (BitVec.ofNat 32 (s.vxy m.src))
        (BitVec.ofNat 32 m.conn) (BitVec.ofNat 32 m.slot))) := by
  obtain ⟨v, hv⟩ := Option.ne_none_iff_exists'.1 hv
  refine (onTile_live hl).trans ?_
  simp only [hw, hm, Bool.not_true, Bool.false_eq_true, if_false, hf, State.sourceWord, hv, State.portBase, State.cfld,
    State.onNi_creg hc]
  rfl

end

/-! ### HRET (R138, R243) -/

section
variable {s : State} {t : Site} {w : Word} (h : s.Runs t 0x33 w) (hw : Word.field w 22 0 = 0)
include h hw

theorem exec_hret_illegal (hh : (s.core t).handH = false) : exec (.hret t) s = .next (s.takeTrap t 2 w) := by
  change execHret t s = _
  refine instr_runs_trap h (decide_eq_true hw) ?_
  simp only [hh, Bool.not_false, if_true]
  rfl

/-- The core back where the handler began. -/
def Core.handled (c : Core) : Core := { c with handH := false, held := none, pc := pcOf c.hpc.toNat, fetch := [] }

theorem exec_hret_unheld (hh : (s.core t).handH = true) (hn : (s.core t).held = none) :
    exec (.hret t) s = .next (s.onCore t Core.handled) := by
  change execHret t s = _
  refine instr_runs_ok h (decide_eq_true hw) ?_
  simp only [hh, hn, Bool.not_true, Bool.false_eq_true, if_false]
  rfl

theorem exec_hret_releases {m : HeldMsg} (hh : (s.core t).handH = true) (hm : (s.core t).held = some m) :
    exec (.hret t) s = .next (((s.onCore t Core.handled).onPort t m.port (fun r => { r with
      msgs := updFirst (fun x => decide (x.off = m.off) && !x.done && !x.lap && !x.wrap) (fun x => { x with done := true })
        r.msgs })).releaseRing t m.port) := by
  change execHret t s = _
  refine instr_runs_ok h (decide_eq_true hw) ?_
  simp only [hh, hm, Bool.not_true, Bool.false_eq_true, if_false]
  rfl

end

/-- Settles O36: each event of a message has one case, and a handler's words stand in its bank. -/
theorem activeMessages : Obligations.ActiveMessages := by
  intro s t w hc
  refine ⟨fun h hf => ⟨exec_send_misaligned h hf, exec_send_beyond h hf, fun ha he => ⟨exec_send_unopened h hf ha he,
      exec_send_badLength h hf ha he, exec_send_waits h hf ha he⟩⟩,
    fun k a n h x hl hb hs ht hx => ⟨exec_sendStart_fits hl hb hs ht hx, exec_sendStart_wraps hl hb hs ht hx,
      exec_sendStart_marks hl hb hs ht hx⟩,
    fun k a n h j hl hb hj hq => exec_sendRetire hl hb hj hq,
    fun j g data rest r n wrap slot off hl hw hr hb => exec_messageArrival hc hl hw hr hb,
    fun h rest m hl hw hm hv hf => ?_,
    fun h hw => ⟨exec_hret_illegal h hw, fun hh => ⟨exec_hret_unheld h hw hh, fun m hm => exec_hret_releases h hw hh hm⟩⟩⟩
  have h1 := hc.onNi t (fun n => { n with waiting := rest })
  refine ⟨_, exec_handlerDispatch hc hl hw hm hv hf, .of_mem rfl, by rw [State.onCore_ni_same h1, State.onNi_ni hc], ?_⟩
  rw [State.onCore_core h1, State.onNi_core_same hc]
  exact ⟨rfl, rfl, rfl, rfl, rfl, rfl, Core.handling_get ..⟩

end Sys2Proof.Machine
end

section
/-!
PROOFS. Stream items and steering units (R221, R231, R234 to R236, R238, R239): what they write of memory, and the writes of their
registers.
-/
namespace Sys2Proof.Machine

/-- Every byte of memory stays, whatever else changes. -/
structure MemKept (s s' : State) : Prop where
  canon : s.Canonical → s'.Canonical
  mem   : s.Canonical → s'.mem = s.mem

section
variable {t : Site} {s s' s'' : State}

theorem MemKept.refl (s : State) : MemKept s s := ⟨id, fun _ => rfl⟩

theorem MemKept.trans (h : MemKept s s') (k : MemKept s' s'') : MemKept s s'' :=
  ⟨fun hc => k.canon (h.canon hc), fun hc => (k.mem (h.canon hc)).trans (h.mem hc)⟩

theorem NiOnly.memKept (h : NiOnly t s s') : MemKept s s' := ⟨h.canon, h.mem⟩
theorem Meets.memKept (h : Meets t s s') : MemKept s s' := ⟨h.canon, h.mem⟩

theorem memKept_foldl {α : Type} {f : State → α → State} (hf : ∀ u a, MemKept u (f u a)) (l : List α) (s : State) :
    MemKept s (l.foldl f s) :=
  List.foldlRecOn (motive := fun u : State => MemKept s u) l f (.refl s) (fun u hu a _ => hu.trans (hf u a))

theorem meets_takeFree (s : State) (t : Site) : Meets t s s.takeFree.2 :=
  ⟨fun _ => rfl, fun h => { h with }, fun _ => rfl, fun _ _ _ => rfl, fun _ _ _ => rfl⟩

/-- A read that faults nothing: words in error read free values. -/
theorem meets_readAny (s : State) (t : Site) (off n : Nat) : Meets t s (s.readAny t off n).2 := by
  simp only [State.readAny, State.readStore_eq]
  exact List.foldlRecOn (motive := fun a : List (Nat × List Byte) × State => Meets t s a.2) _ _
    (meets_eccRead s t off n) (fun a ha w _ => ha.trans (meets_takeFree a.2 t))

theorem meets_token (s : State) (t : Site) (u i : Nat) : Meets t s (s.token t u i).2 := meets_readAny s t _ _

theorem memKept_slotItem (s : State) (t : Site) (p i : Nat) : MemKept s (s.slotItem t p i).2 := (meets_readAny s t _ _).memKept

/-! ### Ports, pairing queues and RECV -/

theorem niOnly_onSteer (s : State) (t : Site) (u : Nat) (f : SteerRt → SteerRt) : NiOnly t s (s.onSteer t u f) := niOnly_onNi s t _

theorem State.pairUp_cases (s : State) (t : Site) (u : Nat) : s.pairUp t u = s ∨ ∃ f, s.pairUp t u = s.onSteer t u f := by
  unfold State.pairUp
  extract_lets m input
  split
  · exact .inr ⟨_, rfl⟩
  · exact .inl rfl

theorem niOnly_pairUp (s : State) (t : Site) (u : Nat) : NiOnly t s (s.pairUp t u) := by
  obtain h | ⟨f, h⟩ := s.pairUp_cases t u <;> rw [h]
  · exact .refl t s
  · exact niOnly_onSteer s t u f

theorem niOnly_noteMerge (s : State) (t : Site) (p : Nat) : NiOnly t s (s.noteMerge t p) := by
  refine List.foldlRecOn (motive := fun u : State => NiOnly t s u) _ _ (.refl t s) (fun u hu k _ => hu.trans ?_)
  split
  · split
    · exact niOnly_onSteer _ _ _ _
    · split
      · exact niOnly_onSteer _ _ _ _
      · exact .refl t u
  · exact .refl t u

theorem niOnly_finishPair (s : State) (t : Site) (u : Nat) (e : PairEnt) : NiOnly t s (s.finishPair t u e) := by
  unfold State.finishPair
  extract_lets s1 s2 s3
  have h2 : NiOnly t s s2 := (niOnly_onSteer s t u _).trans (niOnly_releaseItems _ _ _ _)
  have h3 : NiOnly t s s3 := by
    rcases ite_is_either (e.hasB = true) (s2.releaseItems t (steerIn1 s2 t u) 1) s2 with h | h
    · exact (h2.trans (niOnly_releaseItems _ _ _ _)).trans (by rw [← h]; exact .refl t s3)
    · exact h2.trans (by rw [← h]; exact .refl t s3)
  exact (h3.trans (niOnly_releaseItems _ _ _ _)).trans (niOnly_pairUp _ _ _)

theorem memKept_recvDone (s : State) (t : Site) : MemKept s (s.recvDone t) := by
  unfold State.recvDone State.onFlight
  exact ⟨fun h => h.onQueue t 6 _, fun _ => rfl⟩

theorem memKept_itemIn (s : State) (t : Site) : MemKept s (s.itemIn t) :=
  (memKept_recvDone s t).trans (memKept_foldl (fun u k => (niOnly_pairUp u t k).memKept) _ _)

/-! ### Items (R231, R239) -/

theorem State.writeStore_mem_eq (hc : s.Canonical) (t : Site) (off : Nat) (bs : List Byte) (g : Nat) :
    (s.writeStore t off bs g).mem = (s.setBytes (storeAddr t off) bs).mem := by
  by_cases hb : bs = []
  · subst hb; rfl
  · exact State.writeStore_mem hc t off hb g

/-- Bytes written over an unchanged memory, of which nothing changes after. -/
theorem MemKept.writes_bytes {u v : State} {a : Nat} {bs : List Byte} (h : MemKept u v) (hc : s.Canonical) (hu : u.Canonical)
    (hm : u.mem = (s.setBytes a bs).mem) : SameOutside s v a bs.length ∧ ∀ k, k < bs.length → v.byte (a + k) = bs.getD k 0 :=
  ⟨(State.setBytes_sameOutside s a bs).of_mem rfl ((h.mem hu).trans hm), fun k hk => by
    rw [State.byte_of_mem ((h.mem hu).trans hm), State.setBytes_reads hc hk]⟩

theorem NiOnly.cfld (h : NiOnly t s s') (hc : s.Canonical) (r hi lo : Nat) : s'.cfld t r hi lo = s.cfld t r hi lo := by
  rw [State.cfld, h.creg hc, State.cfld]

theorem NiOnly.spillRegion (h : NiOnly t s s') (hc : s.Canonical) (p : Nat) : s'.spillRegion t p = s.spillRegion t p := by
  have hwant : ∀ i, s'.spillWant t i = s.spillWant t i := fun i => by
    simp only [State.spillWant, State.portSpq, State.portKind, State.ringSize, State.pitch, State.portIgr, h.cfld hc]
    rfl
  simp only [State.spillRegion, hwant, h.cfld hc]

theorem NiOnly.slotOff (h : NiOnly t s s') (hc : s.Canonical) (p i : Nat) : s'.slotOff t p i = s.slotOff t p i := by
  simp only [State.slotOff, State.portBase, State.portSlots, State.pitch, State.portIgr, h.cfld hc]

end

section
variable {s : State} {t : Site} {c : Nat} {run rest : List Grain} (hl : s.Live t)
  (hw : wholeRun 0 (s.ni t).ready = some (c, run, rest))
include hl hw

theorem exec_itemArrival_unbound (hr : (s.ni t).rx.find? (fun r => decide (r.conn = c)) = none) :
    exec (.itemArrival t) s = .next (s.withReady t rest) := by
  refine (onTile_live hl).trans ((whenSome_of hw).trans ?_)
  simp only [hr]
  rfl

variable (hc : s.Canonical) {r : RxConn} (hr : (s.ni t).rx.find? (fun r => decide (r.conn = c)) = some r)
include hc hr

/-- An item that nothing waits before takes the slot that is free. -/
theorem exec_itemArrival_slot (h1 : (s.portRt t r.port).came = (s.portRt t r.port).arrived)
    (h2 : (s.portRt t r.port).came - (s.portRt t r.port).released < s.portSlots t r.port) :
    exec (.itemArrival t) s = .next ((((((s.withReady t rest).writeStore t (s.slotOff t r.port (s.portRt t r.port).came)
      (run.flatMap grainBytes) (s.cfld t (aNiPort r.port) 59 56)).onPort t r.port (fun x => { x with
        came := x.came + 1, arrived := x.arrived + 1 })).noteMerge t r.port).itemIn t)) := by
  have hn := niOnly_withReady s t rest
  have hslots : (s.withReady t rest).portSlots t r.port = s.portSlots t r.port := by simp only [State.portSlots, hn.cfld hc]
  have hcond : (decide ((s.portRt t r.port).came = (s.portRt t r.port).arrived) && decide ((s.portRt t r.port).came -
      (s.portRt t r.port).released < (s.withReady t rest).portSlots t r.port)) = true := by
    simp only [hslots, h1, h1 ▸ h2, decide_true, Bool.and_self]
  refine (onTile_live hl).trans ((whenSome_of hw).trans ?_)
  simp only [hr]
  refine (if_pos hcond).trans ?_
  rw [← hn.slotOff hc, ← hn.cfld hc]
  rfl

/-- An item that finds no slot joins the spill of its port. -/
theorem exec_itemArrival_spill (h1 : ¬ ((s.portRt t r.port).came = (s.portRt t r.port).arrived ∧
      (s.portRt t r.port).came - (s.portRt t r.port).released < s.portSlots t r.port)) {v : Site} {off : Nat}
    (hs : s.spillRegion t r.port = some (v, off)) (h2 : (s.portRt t r.port).came - (s.portRt t r.port).arrived < s.portSpq t r.port) :
    exec (.itemArrival t) s = .next ((((s.withReady t rest).setBytes (spillAddr v (off + (s.portRt t r.port).came %
      s.portSpq t r.port * s.pitch t r.port)) (run.flatMap grainBytes)).onPort t r.port (fun x => { x with
        came := x.came + 1 })).noteMerge t r.port) := by
  have hn := niOnly_withReady s t rest
  have hslots : (s.withReady t rest).portSlots t r.port = s.portSlots t r.port := by simp only [State.portSlots, hn.cfld hc]
  have hspq : (s.withReady t rest).portSpq t r.port = s.portSpq t r.port := by simp only [State.portSpq, hn.cfld hc]
  have hpitch : (s.withReady t rest).pitch t r.port = s.pitch t r.port := by simp only [State.pitch, State.portIgr, hn.cfld hc]
  have hcond : ¬ (decide ((s.portRt t r.port).came = (s.portRt t r.port).arrived) && decide ((s.portRt t r.port).came -
      (s.portRt t r.port).released < (s.withReady t rest).portSlots t r.port)) = true := by
    rw [hslots, Bool.and_eq_true, decide_eq_true_iff, decide_eq_true_iff]
    exact h1
  have hsp := (hn.spillRegion hc r.port).trans hs
  refine (onTile_live hl).trans ((whenSome_of hw).trans ?_)
  simp only [hr]
  refine (if_neg hcond).trans ?_
  simp only [State.withReady] at hsp hspq hpitch
  simp only [hsp, hspq, hpitch]
  exact when_of (decide_eq_true h2)

end

/-- The oldest item of a port's spill moves into its slot. -/
theorem exec_spillReadbackDone {s : State} {t : Site} {p off : Nat} {v : Site} (hl : s.Live t) (hp : p < Config.tilePorts)
    (hs : s.spillRegion t p = some (v, off)) (h1 : (s.portRt t p).arrived < (s.portRt t p).came)
    (h2 : (s.portRt t p).arrived - (s.portRt t p).released < s.portSlots t p) : exec (.spillReadbackDone t p) s =
      .next (((s.writeStore t (s.slotOff t p (s.portRt t p).arrived) (s.bytes (spillAddr v (off + (s.portRt t p).arrived %
        s.portSpq t p * s.pitch t p)) (32 * s.portIgr t p)) (s.cfld t (aNiPort p) 59 56)).onPort t p (fun x => { x with
          arrived := x.arrived + 1 })).itemIn t) := by
  refine (onTile_live hl).trans ((onUnit_of (decide_eq_true hp)).trans ?_)
  simp only [hs]
  exact when_of (by simp [h1, h2])

/-! ### Steering units (R234, R235) -/

/-- A plot's usable tiles depend on the good sites and the irregular holes alone. -/
theorem rowWalk_congr {s s' : State} (hgood : ∀ t, s'.goodSite t = s.goodSite t) (hirr : ∀ t, s'.irregular t = s.irregular t)
    (py : Nat) (l : List Nat) (holes : Nat) : rowWalk s' py holes l = rowWalk s py holes l := by
  induction l generalizing holes with
  | nil => rfl
  | cons a l ih => simp only [rowWalk, ih, hgood, hirr]

theorem State.rowOf_congr {s s' : State} (hgood : ∀ t, s'.goodSite t = s.goodSite t) (hirr : ∀ t, s'.irregular t = s.irregular t)
    (hv : ∀ p, s'.plotValid p = s.plotValid p) (hx : ∀ p, s'.rectXs p = s.rectXs p) (p py : Nat) : s'.rowOf p py = s.rowOf p py := by
  simp only [State.rowOf, rowWalk_congr hgood hirr, hv, hx]

theorem State.oddTwin_tiles (s : State) (x : List (Nat × Tile)) (t : Site) :
    ({ s with tiles := x } : State).oddTwin t = s.oddTwin t := by
  have hrow : ∀ p py, ({ s with tiles := x } : State).rowOf p py = s.rowOf p py :=
    State.rowOf_congr (fun _ => rfl) (fun _ => rfl) (fun _ => rfl) (fun _ => rfl)
  simp only [State.oddTwin, State.rank, State.usable, hrow]
  rfl

section
variable {s : State} {t : Site} {u : Nat}

theorem outReady_of {c : Nat} {x : TxConn} (hs : s.twinStall t = false) (hx : (s.ni t).openTx c = some x) (hi : 0 < x.items)
    (hq : x.q = []) : s.outReady t c = true := by
  simp [State.outReady, hs, hx, TxConn.itemRoom, hi, hq]

/-- The pairing queue is no part of what a connection needs to send. -/
theorem pairUp_outReady (hc : s.Canonical) (c : Nat) : (s.pairUp t u).outReady t c = s.outReady t c := by
  obtain h | ⟨f, h⟩ := s.pairUp_cases t u <;> rw [h]
  have hn : (s.onSteer t u f).ni t = { s.ni t with steer := ((s.onSteer t u f).ni t).steer } := by
    rw [State.onSteer, State.onNi_ni hc]
  have hmirror : (s.onSteer t u f).mirrored t = s.mirrored t := rfl
  have hodd : (s.onSteer t u f).oddTwin t = s.oddTwin t := State.oddTwin_tiles s _ t
  have hstall : (s.onSteer t u f).twinStall t = s.twinStall t := by rw [State.twinStall, hn, hmirror, hodd, State.twinStall]
  rw [State.outReady, hstall, hn]
  rfl

theorem pairUp_maySend (hc : s.Canonical) : (s.pairUp t u).maySend t = s.maySend t := by
  rw [(niOnly_pairUp s t u).rest hc]
  rfl

variable (hl : s.Live t) (hu : u < Config.steerUnits) (hm : s.maySend t = true)
include hl hu hm

theorem exec_steerMerge (hk : s.cfld t (aNiSteer u) 63 61 = 1) (ho : s.outReady t (s.cfld t (aNiSteer u) 9 0) = true)
    (hi : s.holdsItem t (if s.mergeNext t u = 0 then s.cfld t (aNiSteer u) 60 55 else s.cfld t (aNiSteer u) 54 49) = true) :
    ∃ s', exec (.steerMerge t u) s = .next s' ∧ MemKept s s' := by
  refine ⟨_, (onTile_live hl).trans ((onUnit_of (decide_eq_true hu)).trans (when_of ?_)), ?_⟩
  · have hk' : steerMode s t u = 1 := hk
    have ho' : s.outReady t (steerOut s t u 0) = true := ho
    have hi' : s.holdsItem t (if s.mergeNext t u = 0 then steerIn0 s t u else steerIn1 s t u) = true := hi
    simp only [hk', hm, hi', ho', decide_true, Bool.and_self]
  · generalize hp : (if s.mergeNext t u = 0 then steerIn0 s t u else steerIn1 s t u) = p
    have h1 := memKept_slotItem s t p (s.portRt t p).released
    have h2 := h1.trans ((niOnly_sendItem (s.slotItem t p (s.portRt t p).released).2 t (steerOut s t u 0)
      (s.slotItem t p (s.portRt t p).released).1).trans (niOnly_releaseItems _ t p 1)).memKept
    dsimp only
    split
    · exact h2
    · exact h2.trans (niOnly_onSteer _ _ _ _).memKept

theorem exec_steerSplit (hk : s.cfld t (aNiSteer u) 63 61 = 2) (hi : s.holdsItem t (s.cfld t (aNiSteer u) 60 55) = true)
    (ho : ∀ k, k < 4 → s.cfld t (aNiSteer u) (10 * k + 9) (10 * k) ≠ 0 →
      s.outReady t (s.cfld t (aNiSteer u) (10 * k + 9) (10 * k)) = true) :
    ∃ s', exec (.steerSplit t u) s = .next s' ∧ MemKept s s' := by
  refine ⟨_, (onTile_live hl).trans ((onUnit_of (decide_eq_true hu)).trans (when_of ?_)), ?_⟩
  · have hk' : steerMode s t u = 2 := hk
    have hi' : s.holdsItem t (steerIn0 s t u) = true := hi
    have ho' : (((List.range 4).map (steerOut s t u)).filter (fun c => decide (c ≠ 0))).all (fun c => s.outReady t c) = true := by
      simp only [List.all_eq_true, List.mem_filter, List.mem_map, List.mem_range, decide_eq_true_eq]
      rintro c ⟨⟨k, hk, rfl⟩, h0⟩
      exact ho k hk h0
    simp only [hk', hm, hi', ho', decide_true, Bool.and_self]
  · exact (memKept_slotItem ..).trans ((memKept_foldl (fun v c => (niOnly_sendItem v t c _).memKept) _ _).trans
      (niOnly_releaseItems _ _ _ _).memKept)

variable (hc : s.Canonical)
include hc

theorem exec_steerSelect (hk : s.cfld t (aNiSteer u) 63 61 = 3) (ho : s.outReady t (s.cfld t (aNiSteer u) 9 0) = true) {e : PairEnt}
    (he : lowestComplete true ((s.pairUp t u).steerRt t u).pairs = some e) :
    ∃ s', exec (.steerSelect t u) s = .next s' ∧ MemKept s s' := by
  have hn := niOnly_pairUp s t u
  refine ⟨_, (onTile_live hl).trans ((onUnit_of (decide_eq_true hu)).trans ((whenSome_of he).trans (when_of ?_))), ?_⟩
  · have hk' : steerMode (s.pairUp t u) t u = 3 := (hn.cfld hc _ _ _).trans hk
    have ho' : (s.pairUp t u).outReady t (steerOut (s.pairUp t u) t u 0) = true := by
      rw [steerOut, hn.cfld hc, pairUp_outReady hc]
      exact ho
    simp only [hk', ho', pairUp_maySend hc, hm, decide_true, Bool.and_self]
  · exact hn.memKept.trans (((meets_token ..).memKept.trans (memKept_slotItem ..)).trans
      ((niOnly_sendItem _ _ _ _).trans (niOnly_finishPair _ _ _ _)).memKept)

theorem exec_steerGate (hk : s.cfld t (aNiSteer u) 63 61 = 4) (ho : s.outReady t (s.cfld t (aNiSteer u) 9 0) = true) {e : PairEnt}
    (he : lowestComplete false ((s.pairUp t u).steerRt t u).pairs = some e) :
    ∃ s', exec (.steerGate t u) s = .next s' ∧ MemKept s s' := by
  have hn := niOnly_pairUp s t u
  have htok := meets_token (s.pairUp t u) t u e.idx
  have hc1 := hn.canon hc
  have hreg : aNiSteer u ∉ readRegs := by
    unfold aNiSteer
    simp only [readRegs, bookRegs, List.cons_append, List.nil_append, List.mem_cons, List.not_mem_nil, or_false, aEccStat, aEccLog, aSpareStat,
      aGenStat, aGenLog]
    have hu4 : u < 4 := hu
    omega
  refine ⟨_, (onTile_live hl).trans ((onUnit_of (decide_eq_true hu)).trans ((whenSome_of he).trans (when_of ?_))), ?_⟩
  · change (decide (steerMode ((s.pairUp t u).token t u e.idx).2 t u = 4) && ((s.pairUp t u).token t u e.idx).2.maySend t &&
      ((s.pairUp t u).outReady t (steerOut (s.pairUp t u) t u 0) || !((s.pairUp t u).token t u e.idx).1)) = true
    have hk' : steerMode ((s.pairUp t u).token t u e.idx).2 t u = 4 :=
      (htok.cfld hc1 hreg _ _).trans ((hn.cfld hc _ _ _).trans hk)
    have hm' : ((s.pairUp t u).token t u e.idx).2.maySend t = true := by
      rw [htok.rest hc1]
      exact (pairUp_maySend hc).trans hm
    have ho' : (s.pairUp t u).outReady t (steerOut (s.pairUp t u) t u 0) = true := by
      rw [steerOut, hn.cfld hc, pairUp_outReady hc]
      exact ho
    simp only [hk', hm', ho', decide_true, Bool.true_or, Bool.and_self]
  · refine hn.memKept.trans (htok.memKept.trans ((memKept_slotItem ((s.pairUp t u).token t u e.idx).2 t
      (steerIn0 ((s.pairUp t u).token t u e.idx).2 t u) e.idx).trans (.trans ?_ (niOnly_finishPair _ _ _ _).memKept)))
    split
    · exact (niOnly_sendItem _ _ _ _).memKept
    · exact .refl _

end

/-! ### Writes of the units' registers (R221, R236) -/

section
variable {s : State} {t : Site} {u p : Nat} (hl : s.Live t)
include hl

theorem exec_niSteerWrite (hu : u < Config.steerUnits) (v : Dword) : exec (.niSteerWrite t u v) s = .next (s.writeSteer t u v) :=
  (onTile_live hl).trans (onUnit_of (decide_eq_true hu))

theorem exec_niPortWrite (hp : p < Config.tilePorts) (v : Dword) : exec (.niPortWrite t p v) s = .next (s.writePort t p v) :=
  (onTile_live hl).trans (onUnit_of (decide_eq_true hp))

end

section
variable {s : State} {t : Site} {u p : Nat} {v : Dword}

theorem writeSteer_off (h : s.cfld t (aNiSteer u) 63 61 = 0) : s.writeSteer t u v = s.ctrlStore t (aNiSteer u) v := if_pos h

theorem writeSteer_running (h : s.cfld t (aNiSteer u) 63 61 ≠ 0) (hv : Dword.field v 63 61 ≠ 0) : s.writeSteer t u v = s :=
  (if_neg h).trans (if_neg hv)

theorem writeSteer_stops (h : s.cfld t (aNiSteer u) 63 61 ≠ 0) (hv : Dword.field v 63 61 = 0) :
    s.writeSteer t u v = (s.clearSteer t u).ctrlStore t (aNiSteer u) v := (if_neg h).trans (if_pos hv)

theorem writePort_bound (h : (s.portRt t p).bound.isSome) : s.writePort t p v = s := if_pos h

theorem writePort_free (h : (s.portRt t p).bound = none) : s.writePort t p v = (s.ctrlStore t (aNiPort p) v).checkSpill t :=
  if_neg (by simp [h])

end

theorem State.bytes_length (s : State) (a n : Nat) : (s.bytes a n).length = n := by simp [State.bytes]

theorem MemKept.same {s s' : State} (h : MemKept s s') (hc : s.Canonical) : SameMemory s s' := .of_mem (h.mem hc)

/-- Settles O38: items write the bytes of their slot alone, and a steering unit that can send writes nothing of memory. -/
theorem streamsAndSteering : Obligations.StreamsAndSteering := by
  intro s t p u hc hl
  refine ⟨fun c run rest r hw => ⟨exec_itemArrival_unbound hl hw, fun hr => ⟨fun h1 h2 => ?_, fun h1 v off hs h2 => ?_⟩⟩,
    fun hp v off hs h1 h2 => ?_, fun hu hm ht => ⟨fun hk ho hi => ?_, fun hk hi ho => ?_, fun hk ho e he => ?_, fun hk ho e he => ?_⟩,
    fun hu v => ⟨fun h => ?_, fun h hv => ?_, fun h hv => ?_⟩, fun hp v => ⟨fun h => ?_, fun h => ?_⟩⟩
  · have h0 := s.withReady_canonical (t := t) hc rest
    exact ⟨_, exec_itemArrival_slot hl hw hc hr h1 h2, ((niOnly_onPort _ t r.port _).memKept.trans
      ((niOnly_noteMerge _ t r.port).memKept.trans (memKept_itemIn _ t))).writes_bytes hc (State.writeStore_canonical h0 t _ _ _)
        ((State.writeStore_mem_eq h0 t _ _ _).trans (State.setBytes_mem_congr (by rfl) _ _))⟩
  · have h0 := s.withReady_canonical (t := t) hc rest
    exact ⟨_, exec_itemArrival_spill hl hw hc hr h1 hs h2, ((niOnly_onPort _ t r.port _).memKept.trans
      (niOnly_noteMerge _ t r.port).memKept).writes_bytes hc (State.setBytes_canonical h0 _ _) (State.setBytes_mem_congr (by rfl) _ _)⟩
  · obtain ⟨hout, hin⟩ := ((niOnly_onPort (s.writeStore t (s.slotOff t p (s.portRt t p).arrived) (s.bytes (spillAddr v (off +
      (s.portRt t p).arrived % s.portSpq t p * s.pitch t p)) (32 * s.portIgr t p)) (s.cfld t (aNiPort p) 59 56)) t p
      (fun x => { x with arrived := x.arrived + 1 })).memKept.trans (memKept_itemIn _ t)).writes_bytes hc
        (State.writeStore_canonical hc t _ _ _) (State.writeStore_mem_eq hc t _ _ _)
    rw [State.bytes_length] at hout hin
    exact ⟨_, exec_spillReadbackDone hl hp hs h1 h2, hout, fun k hk => (hin k hk).trans (State.getD_bytes hk)⟩
  · obtain ⟨x, hx, hi', hq⟩ := ho
    obtain ⟨s', he, hk⟩ := exec_steerMerge hl hu hm hk (outReady_of ht hx hi' hq) hi
    exact ⟨s', he, hk.same hc⟩
  · obtain ⟨s', he, hk⟩ := exec_steerSplit hl hu hm hk hi (fun k hk h0 => by
      obtain ⟨x, hx, hi', hq⟩ := ho k hk h0
      exact outReady_of ht hx hi' hq)
    exact ⟨s', he, hk.same hc⟩
  · obtain ⟨x, hx, hi', hq⟩ := ho
    obtain ⟨s', he, hk⟩ := exec_steerSelect hl hu hm hc hk (outReady_of ht hx hi' hq) he
    exact ⟨s', he, hk.same hc⟩
  · obtain ⟨x, hx, hi', hq⟩ := ho
    obtain ⟨s', he, hk⟩ := exec_steerGate hl hu hm hc hk (outReady_of ht hx hi' hq) he
    exact ⟨s', he, hk.same hc⟩
  · rw [exec_niSteerWrite hl hu, writeSteer_off h]
  · rw [exec_niSteerWrite hl hu, writeSteer_running h hv]
  · rw [exec_niSteerWrite hl hu, writeSteer_stops h hv]
  · rw [exec_niPortWrite hl hp, writePort_bound h]
  · rw [exec_niPortWrite hl hp, writePort_free h]

end Sys2Proof.Machine
end

section
/-!
PROOFS. The cache of SPLIT and the loam column (R57 to R59, R75 to R78, R184, R186, R419, R421).
-/
namespace Sys2Proof.Machine

section
variable {t : Site} {s s' s'' : State}

/-! ### The misses that wait (R58) -/

/-- The misses of tile t's cache stand as they stood. -/
structure MissesKept (t : Site) (s s' : State) : Prop where
  canon  : s.Canonical → s'.Canonical
  misses : s.Canonical → (s'.tile t).cache.misses = (s.tile t).cache.misses

theorem MissesKept.refl (t : Site) (s : State) : MissesKept t s s := ⟨id, fun _ => rfl⟩

theorem MissesKept.trans (h : MissesKept t s s') (k : MissesKept t s' s'') : MissesKept t s s'' :=
  ⟨fun hc => k.canon (h.canon hc), fun hc => (k.misses (h.canon hc)).trans (h.misses hc)⟩

theorem NiOnly.missesKept (h : NiOnly t s s') : MissesKept t s s' := ⟨h.canon, fun hc => by rw [h.cache hc]⟩
theorem Meets.missesKept (h : Meets t s s') : MissesKept t s s' := ⟨h.canon, fun hc => by rw [h.cache hc]⟩

theorem missesKept_onLoam (s : State) (t : Site) (f : LoamCtl → LoamCtl) : MissesKept t s (s.onLoam t f) :=
  ⟨fun hc => State.onLoam_canonical hc t f, fun hc => by rw [State.onLoam_tile hc]⟩

theorem missesKept_onCache (s : State) (t : Site) {f : Cache → Cache} (hf : ∀ c, (f c).misses = c.misses) :
    MissesKept t s (s.onCache t f) :=
  ⟨fun hc => State.onCache_canonical hc t f, fun hc => by rw [State.onCache_tile hc]; exact hf _⟩

theorem missesKept_setBytes (s : State) (t : Site) (a : Nat) (bs : List Byte) : MissesKept t s (s.setBytes a bs) :=
  ⟨fun hc => State.setBytes_canonical hc a bs, fun _ => by rw [State.setBytes_tile]⟩

theorem missesKept_putLine (s : State) (t : Site) (line : Nat) (bs : List Byte) : MissesKept t s (s.putLine t line bs) := by
  unfold State.putLine State.openRow
  exact ((missesKept_setBytes s t _ _).trans (missesKept_onLoam _ t _)).trans (missesKept_onLoam _ t _)

theorem missesKept_writeBackOldest (s : State) (t : Site) : MissesKept t s (s.writeBackOldest t) := by
  unfold State.writeBackOldest
  split
  · exact .refl t s
  · next l bad bs rest _ =>
    have h1 := ((niOnly_mirrorPoint s t 2 bs).missesKept.trans (missesKept_putLine _ t l bs)).trans
      (missesKept_onCache _ t (f := fun c => { c with wback := rest }) fun _ => rfl)
    dsimp only
    split
    · exact h1.trans (missesKept_onLoam _ t _)
    · exact h1

theorem missesKept_flushLine (s : State) (t : Site) (line : Nat) : MissesKept t s (s.flushLine t line) := by
  unfold State.flushLine State.writeBackAll
  split
  · exact List.foldlRecOn (motive := fun u : State => MissesKept t s u) _ _ (.refl t s)
      (fun u hu _ _ => hu.trans (missesKept_writeBackOldest u t))
  · exact .refl t s

theorem missesKept_setTag (s : State) (t : Site) (set way : Nat) (v : Tag) : MissesKept t s (s.setTag t set way v) :=
  missesKept_onCache s t (f := fun c => { c with tags := mapSet (fun _ => Tag.none) c.tags (4 * set + way) v }) fun _ => rfl

theorem missesKept_evict (s : State) (t : Site) (set way : Nat) : MissesKept t s (s.evict t set way) := by
  unfold State.evict
  extract_lets g s1 s2 bad
  have h1 : MissesKept t s s1 := missesKept_setTag s t set way _
  split
  · have h2 : MissesKept t s1 s2 := by
      rcases ite_is_either (8 ≤ (s.tile t).cache.wback.length) (s1.writeBackOldest t) s1 with h | h <;> rw [show s2 = _ from h]
      · exact missesKept_writeBackOldest s1 t
      · exact .refl t s1
    exact (h1.trans h2).trans (missesKept_onCache s2 t (f := fun c => { c with wback := _ }) fun _ => rfl)
  · exact h1

/-! ### What the code makes of a line (R419, R420) -/

/-- The counts and marks of a line that was read. -/
structure Decoded (t : Site) (line : Nat) (err : LoamErr) (s s' : State) : Prop where
  canon  : s'.Canonical
  mem    : s'.mem = s.mem
  tile   : s'.tile t = { s.tile t with loam := (s'.tile t).loam }
  scrub  : (s'.tile t).loam.scrub = (s.tile t).loam.scrub
  poison : (s'.tile t).loam.poison = if err = .uncorrectable then insertNat (s.tile t).loam.poison line
    else (s.tile t).loam.poison

theorem decoded_onLoam {line : Nat} {err : LoamErr} (hc : s.Canonical) (h : s.tile t = s''.tile t) (hm : s.mem = s''.mem)
    {f : LoamCtl → LoamCtl} (hs : (f (s.tile t).loam).scrub = (s.tile t).loam.scrub)
    (hp : (f (s.tile t).loam).poison = if err = .uncorrectable then insertNat (s.tile t).loam.poison line else (s.tile t).loam.poison) :
    Decoded t line err s'' (s.onLoam t f) where
  canon := State.onLoam_canonical hc t f
  mem := hm
  tile := by rw [State.onLoam_tile hc, h]
  scrub := by rw [State.onLoam_tile hc, ← h]; exact hs
  poison := by rw [State.onLoam_tile hc, ← h]; exact hp

theorem decoded_loamDecode (hc : s.Canonical) (line : Nat) (err : LoamErr) : Decoded t line err s (s.loamDecode t line err) := by
  have hb : ∀ hi lo, (s.bump rRasLoam hi lo 1).Canonical := fun hi lo => hc.bump _ _ _ _
  cases err with
  | clean => exact ⟨hc, rfl, rfl, rfl, rfl⟩
  | corrected =>
    simp only [State.loamDecode]
    exact decoded_onLoam (hb 31 0) (by rfl) (by rfl) rfl rfl
  | uncorrectable =>
    simp only [State.loamDecode, State.poisonLine]
    exact decoded_onLoam (hb 63 48) (by rfl) (by rfl) rfl rfl
  | erasure layer =>
    simp only [State.loamDecode]
    have h1 : Decoded t line (.erasure layer) s ((s.bump rRasLoam 47 32 1).onLoam t (fun l => { l with wback := l.wback ++ [line] })) :=
      decoded_onLoam (hb 47 32) (by rfl) (by rfl) rfl rfl
    generalize (s.bump rRasLoam 47 32 1).onLoam t (fun l => { l with wback := l.wback ++ [line] }) = u at h1
    generalize List.filter _ _ ++ [_] = recent
    have h2 : Decoded t line (.erasure layer) u
        (u.onLoam t (fun l => { l with erased := mapSet (fun _ => []) l.erased layer recent })) :=
      decoded_onLoam h1.canon rfl rfl rfl rfl
    have h3 : Decoded t line (.erasure layer) s
        (u.onLoam t (fun l => { l with erased := mapSet (fun _ => []) l.erased layer recent })) :=
      ⟨h2.canon, h2.mem.trans h1.mem, by rw [h2.tile, h1.tile], h2.scrub.trans h1.scrub, h2.poison.trans h1.poison⟩
    split
    · exact ⟨{ h3.canon with }, h3.mem, h3.tile, h3.scrub, h3.poison⟩
    · exact h3

theorem Decoded.isSplit {line : Nat} {err : LoamErr} (h : Decoded t line err s s') : s'.isSplit t = s.isSplit t := by
  rw [State.isSplit, State.cfld, State.creg, h.tile]
  rfl

theorem Decoded.cache {line : Nat} {err : LoamErr} (h : Decoded t line err s s') : (s'.tile t).cache = (s.tile t).cache := by
  rw [h.tile]

theorem memKept_onLoam (s : State) (t : Site) (f : LoamCtl → LoamCtl) : MemKept s (s.onLoam t f) := ⟨fun hc => hc.onTile t _, fun _ => rfl⟩

theorem memKept_onFlight (s : State) (t : Site) (q : Nat) (f : InFlight → InFlight) : MemKept s (s.onFlight t q f) :=
  ⟨fun hc => hc.onQueue t q _, fun _ => rfl⟩

theorem mem_insertNat_self (l : List Nat) (w : Nat) : w ∈ insertNat l w := mem_insertNat.2 (.inl rfl)

end

/-! ### The cache's events (R57 to R59) -/

section
variable {s : State} {t : Site} {line : Nat} (hl : s.Live t)
include hl

section
variable (hn : line < Config.loamLines) (hs : s.isSplit t = true) {strm : Bool}
include hn hs

theorem exec_cacheAccess_hitStore {way : Nat} (bs : List Byte) (hw : (s.tile t).hit line = some way) :
    exec (.cacheAccess t line (some bs) strm) s = .next (s.loamWrite t line (takeAt bs 0 64) strm) := by
  refine (onTile_live hl).trans ((onUnit_of (decide_eq_true hn)).trans ((when_of hs).trans ?_))
  simp only [hw]

theorem exec_cacheAccess_hitLoad {way : Nat} (hw : (s.tile t).hit line = some way)
    (hu : s.firstUe t (wayOff (line % 512) way) 64 = none) : exec (.cacheAccess t line none strm) s =
      .next ((s.eccRead t (wayOff (line % 512) way) 64).1.touch t (line % 512) way) := by
  refine (onTile_live hl).trans ((onUnit_of (decide_eq_true hn)).trans ((when_of hs).trans ?_))
  simp only [hw, State.hitRead, State.readStore_eq, hu, Option.isSome_none, Bool.false_eq_true, if_false]

theorem exec_cacheAccess_miss (hc : s.Canonical) {store : Option (List Byte)} {s' : State} (hw : (s.tile t).hit line = none)
    (he : exec (.cacheAccess t line store strm) s = .next s') :
    (s'.tile t).cache.misses = (s.tile t).cache.misses ++ [{ line := line, store := store, strm := strm }] := by
  obtain ⟨u, hu, hex⟩ : ∃ u, MissesKept t s u ∧ exec (.cacheAccess t line store strm) s = .next (u.onCache t (fun c => { c with
      misses := c.misses ++ [{ line := line, store := store, strm := strm }] })) := by
    refine ⟨if strm then s.flushLine t line else (s.flushLine t line).evict t (line % 512) (((s.flushLine t line).tile t).victim
      (line % 512)), ?_, (onTile_live hl).trans ((onUnit_of (decide_eq_true hn)).trans ((when_of hs).trans ?_))⟩
    · split
      · exact missesKept_flushLine s t line
      · exact (missesKept_flushLine s t line).trans (missesKept_evict ..)
    · simp only [hw]
  cases hex.symm.trans he
  rw [State.onCache_tile (hu.canon hc), hu.misses hc]

end

/-- The oldest missed line, delivered and allocated unless it streams or cannot be read. -/
def State.filled (s : State) (t : Site) (m : Miss) (rest : List Miss) (err : LoamErr) : State :=
  let s := ((s.onCache t (fun c => { c with misses := rest })).openRow t m.line).loamDecode t m.line err
  match m.store with
  | some bs => s.loamWrite t m.line (takeAt bs 0 64) m.strm
  | none => if (s.tile t).loam.poison.contains m.line || m.strm then s else s.allocate t m.line (s.loamLine t m.line) false

theorem exec_cacheFill {err : LoamErr} {m : Miss} {rest : List Miss} (hm : (s.tile t).cache.misses = m :: rest) :
    exec (.cacheFill t err) s = .next (s.filled t m rest err) := by
  refine (onTile_live hl).trans ?_
  rw [hm]
  rfl

omit hl in
theorem filled_stream (hc : s.Canonical) {m : Miss} {rest : List Miss} (h1 : m.store = none) (h2 : m.strm = true) :
    (s.filled t m rest .clean).mem = s.mem ∧ ((s.filled t m rest .clean).tile t).cache.misses = rest := by
  have h3 : s.filled t m rest .clean = (s.onCache t (fun c => { c with misses := rest })).openRow t m.line := by
    simp only [State.filled, h1, h2, Bool.or_true, if_true]
    rfl
  rw [h3]
  exact ⟨rfl, by rw [State.openRow, State.onLoam_tile (State.onCache_canonical hc t _), State.onCache_tile hc]⟩

theorem exec_cacheWriteback (hw : (s.tile t).cache.wback ≠ []) : exec (.cacheWriteback t) s = .next (s.writeBackOldest t) :=
  (onTile_live hl).trans (when_of (by simpa using hw))

end

section
variable {s : State} {t : Site}

theorem State.putLine_mem (line : Nat) (bs : List Byte) : (s.putLine t line bs).mem = (s.setBytes (loamAddr t (64 * line)) bs).mem := rfl

theorem State.putLine_canonical (hc : s.Canonical) (line : Nat) (bs : List Byte) : (s.putLine t line bs).Canonical := by
  unfold State.putLine State.openRow
  exact ((State.setBytes_canonical hc _ _).onTile t _).onTile t _

/-- The oldest line of the write-back buffer stands in loam, whether poisoned or not. -/
theorem writeBackOldest_line (hc : s.Canonical) {l : Nat} {bad : Bool} {bs : List Byte} {rest : List (Nat × Bool × List Byte)}
    (hw : (s.tile t).cache.wback = (l, bad, bs) :: rest) : ((s.writeBackOldest t).tile t).cache.wback = rest ∧
      (s.writeBackOldest t).mem = (s.setBytes (loamAddr t (64 * l)) bs).mem := by
  have hn := niOnly_mirrorPoint s t 2 bs
  have h1 := State.putLine_canonical (t := t) (hn.canon hc) l bs
  have h2 := State.onCache_canonical h1 t (fun c => { c with wback := rest })
  have hmem : ((s.mirrorPoint t 2 bs).putLine t l bs).mem = (s.setBytes (loamAddr t (64 * l)) bs).mem :=
    (State.putLine_mem l bs).trans (State.setBytes_mem_congr (hn.mem hc) _ _)
  simp only [State.writeBackOldest, hw]
  split
  · exact ⟨by rw [State.poisonLine, State.onLoam_tile h2, State.onCache_tile h1], hmem⟩
  · exact ⟨by rw [State.onCache_tile h1], hmem⟩

end

/-! ### Lines of an LD command (R186, R187) -/

section
variable {s : State} {t : Site} {d : Desc} {i : Nat} {err : LoamErr}

theorem openRow_canonical (hc : s.Canonical) (line : Nat) : (s.openRow t line).Canonical := State.onLoam_canonical hc t _

theorem openRow_poison (hc : s.Canonical) (line : Nat) : ((s.openRow t line).tile t).loam.poison = (s.tile t).loam.poison := by
  rw [State.openRow, State.onLoam_tile hc]

theorem openRow_isSplit (hc : s.Canonical) (line : Nat) : (s.openRow t line).isSplit t = s.isSplit t := by
  rw [State.isSplit, State.cfld, State.openRow, State.onLoam_creg hc]
  rfl

/-- Outside SPLIT a line is read from the column itself. -/
theorem loamRead_column (hc : s.Canonical) (hs : s.isSplit t = false) (hw : (s.tile t).cache.wback = []) (line : Nat) (strm : Bool) :
    s.loamRead t line strm = if (s.tile t).loam.poison.contains line then (none, s.openRow t line)
      else (some (s.loamLine t line), s.openRow t line) := by
  simp only [State.loamRead, hs, Bool.false_eq_true, if_false, State.flushLine, hw, List.any_nil, openRow_isSplit hc, Bool.false_and,
    openRow_poison hc]
  rfl

/-- The column's part of a loaded line: what the code makes of it, where the column is reached. -/
def State.ldDecoded (s : State) (t : Site) (line : Nat) (err : LoamErr) : State :=
  if s.reachesColumn t line then s.loamDecode t line err else s

theorem reachesColumn_plain (hs : s.isSplit t = false) (line : Nat) : s.reachesColumn t line = true := by
  simp [State.reachesColumn, hs]

theorem ldMove_load (hc : s.Canonical) (hs : s.isSplit t = false) (hw : (s.tile t).cache.wback = []) (ho : dOpc d = 0)
    (hp : ldLineAt d i ∉ (s.tile t).loam.poison) :
    (err ≠ .uncorrectable → ∃ u : State, u.Canonical ∧ u.mem = s.mem ∧
      ldMove t s d i err = (u.writeStore t (ldS d + 64 * i) (s.loamLine t (ldLineAt d i)) (dGen d), none)) ∧
    (err = .uncorrectable → ∃ u : State, u.Canonical ∧ u.mem = s.mem ∧ (∀ q, u.queue t q = s.queue t q) ∧
      ldMove t s d i err = (u, some (det ecLoamUe 6 (64 * ldLineAt d i)))) := by
  have hd := decoded_loamDecode (t := t) hc (ldLineAt d i) err
  have hsave : ldSave d = false := by simp [ldSave, ho]
  have hread := loamRead_column hd.canon (hd.isSplit.trans hs) (by rw [hd.cache, hw]) (ldLineAt d i) (ldStrm d)
  rw [hd.poison] at hread
  refine ⟨fun he => ?_, fun he => ?_⟩
  · refine ⟨((s.loamDecode t (ldLineAt d i) err).openRow t (ldLineAt d i)), State.onLoam_canonical hd.canon t _, hd.mem, ?_⟩
    rw [if_neg he, if_neg (by simpa using hp)] at hread
    have hline : (s.loamDecode t (ldLineAt d i) err).loamLine t (ldLineAt d i) = s.loamLine t (ldLineAt d i) :=
      State.bytes_of_mem hd.mem _ _
    simp only [ldMove, hsave, Bool.false_eq_true, if_false, reachesColumn_plain hs, if_true, hread, hline]
  · refine ⟨((s.loamDecode t (ldLineAt d i) err).openRow t (ldLineAt d i)), State.onLoam_canonical hd.canon t _, hd.mem, fun q => ?_, ?_⟩
    · rw [State.queue, State.openRow, State.onLoam_tile hd.canon, hd.tile]
      rfl
    · rw [if_pos he, if_pos (by simpa using mem_insertNat_self _ _)] at hread
      simp only [ldMove, hsave, Bool.false_eq_true, if_false, reachesColumn_plain hs, if_true, hread]

/-- A saved line: the column takes the store's bytes. -/
theorem ldMove_save (hc : s.Canonical) (hs : s.isSplit t = false) (ho : dOpc d = 1) (hu : s.firstUe t (ldS d + 64 * i) 64 = none) :
    ∃ u : State, u.Canonical ∧ u.mem = s.mem ∧
      ldMove t s d i err = (u.putLine t (ldLineAt d i) (s.bytes (storeAddr t (ldS d + 64 * i)) 64), none) := by
  have hsave : ldSave d = true := by simp [ldSave, ho]
  have hg := meets_genCheck s t (ldS d + 64 * i) 64 (dGen d) 5
  have hbad : (s.genCheck t (ldS d + 64 * i) 64 (dGen d) 5).badAt t (ldS d + 64 * i) 64 = false := by
    rw [State.badAt, (NoNewUe.of_info (State.genCheck_info hc ..)).firstUe hu]
    rfl
  have he := hg.trans (meets_eccRead _ t (ldS d + 64 * i) 64)
  have hm := niOnly_mirrorPoint ((s.genCheck t (ldS d + 64 * i) 64 (dGen d) 5).eccRead t (ldS d + 64 * i) 64).1 t 1
    (s.bytes (storeAddr t (ldS d + 64 * i)) 64)
  have hsplit : (((s.genCheck t (ldS d + 64 * i) 64 (dGen d) 5).eccRead t (ldS d + 64 * i) 64).1.mirrorPoint t 1
      (s.bytes (storeAddr t (ldS d + 64 * i)) 64)).isSplit t = false := by
    rw [State.isSplit, hm.cfld (he.canon hc), he.cfld hc (by decide), ← State.isSplit, hs]
  refine ⟨_, hm.canon (he.canon hc), (hm.mem (he.canon hc)).trans (he.mem hc), ?_⟩
  have hbytes : (s.genCheck t (ldS d + 64 * i) 64 (dGen d) 5).bytes (storeAddr t (ldS d + 64 * i)) 64 =
      s.bytes (storeAddr t (ldS d + 64 * i)) 64 := State.bytes_of_mem (hg.mem hc) _ _
  simp only [ldMove, hsave, if_true, hbad, Bool.false_eq_true, if_false, State.readStore_eq, hbytes, Option.isSome_none, State.loamWrite,
    hsplit]

/-- The LD command after its line: on to the next, or at its fault. -/
def ldMoved (i : Nat) (e : Option Detected) (f : InFlight) : InFlight :=
  match e with
  | some x => { f with fault := some x, done := true, progress := i }
  | none => { f with work := .ld (i + 1), progress := i + 1, done := decide (i + 1 = ldTotal f.entry.desc) }

theorem exec_ldLine {f : InFlight} {line : Nat} (hl : s.Live t) (hn : line < Config.loamLines) (hf : s.ldNext t = some (f, i))
    (hi : ldLineAt f.entry.desc i = line) (hr : (s.tile t).loam.lastSrc ≠ .ld ∨ s.remoteNext t = none) :
    exec (.loamLineRequest t .ld line err) s = .next (((ldMove t s f.entry.desc i err).1.onLoam t (fun l => { l with
      lastSrc := .ld })).onFlight t 5 (ldMoved i (ldMove t s f.entry.desc i err).2)) := by
  refine (onTile_live hl).trans ((onUnit_of (decide_eq_true hn)).trans ((whenSome_of hf).trans ((when_of ?_).trans rfl)))
  simp only [hi, hl.thawed, decide_true, Bool.not_false, Bool.true_and, Bool.not_eq_true', Bool.and_eq_false_iff, decide_eq_false_iff_not]
  exact hr.imp_right (fun h => by rw [h]; rfl)

theorem ldNext_flight {f : InFlight} (hf : s.ldNext t = some (f, i)) : s.flightOf t 5 = some f := by
  unfold State.ldNext at hf
  split at hf
  · next g hg =>
    split at hf
    · split at hf
      · cases hf
      · cases hf; exact hg
    · cases hf
  · cases hf

end

/-! ### The controller's other lines (R76, R419, R421) -/

section
variable {s : State} {t : Site} {line : Nat} {err : LoamErr} (hl : s.Live t)
include hl

theorem exec_remoteLine (hn : line < Config.loamLines) (hr : s.remoteNext t = some line)
    (ha : (s.tile t).loam.lastSrc ≠ .remote ∨ s.ldNext t = none) : exec (.loamLineRequest t .remote line err) s =
      .next (((s.ldDecoded t line err).openRow t line).onLoam t (fun l => { l with lastSrc := .remote })) := by
  refine (onTile_live hl).trans ((onUnit_of (decide_eq_true hn)).trans ((when_of ?_).trans rfl))
  simp only [hr, decide_true, Bool.true_and, Bool.not_eq_true', Bool.and_eq_false_iff, decide_eq_false_iff_not]
  exact ha.imp_right (fun h => by rw [h]; rfl)

theorem exec_cacheLine (hn : line < Config.loamLines) (hm : ∃ m ∈ (s.tile t).cache.misses, m.line = line) :
    exec (.loamLineRequest t .cache line err) s =
      .next ((s.onLoam t (fun l => { l with openRow := some (line / 32) })).onLoam t (fun l => { l with lastSrc := .cache })) :=
  (onTile_live hl).trans ((onUnit_of (decide_eq_true hn)).trans ((when_of (by simpa using hm)).trans rfl))

/-- The controller once the line of the scrub pointer has been read. -/
def scrubbed (line : Nat) (l : LoamCtl) : LoamCtl :=
  { l with scrub := (line + 1) % Config.loamLines, lastSrc := .scrub, wback := l.wback.filter (fun x => decide (x ≠ line)) }

theorem exec_loamScrub (hs : s.fld rRasScrub 0 0 = 1) : exec (.loamScrub t err) s =
    .next (((s.loamDecode t (s.tile t).loam.scrub err).openRow t (s.tile t).loam.scrub).onLoam t (scrubbed (s.tile t).loam.scrub)) :=
  (onTile_live hl).trans ((when_of (decide_eq_true hs)).trans rfl)

end

/-- Settles O26: each event of the cache and of the controller moves the bytes of one line. -/
theorem cacheAndLoam : Obligations.CacheAndLoam := by
  intro s t line strm err hc hl hn
  refine ⟨fun hs => ⟨fun store => ⟨_, (onTile_live hl).trans ((onUnit_of (decide_eq_true hn)).trans (when_of hs))⟩,
      fun way bs hw => exec_cacheAccess_hitStore hl hn hs bs hw, fun way hw hu => exec_cacheAccess_hitLoad hl hn hs hw hu,
      fun store s' hw he => exec_cacheAccess_miss hl hn hs hc hw he⟩,
    fun m rest hm => ⟨s.filled t m rest err, exec_cacheFill hl hm, fun h1 h2 he => ?_⟩, fun l bad bs rest hw => ?_,
    fun f i hf hi hr => ⟨⟨_, exec_ldLine hl hn hf hi hr⟩, fun hs hw ho hp => ⟨fun he => ?_, fun he => ?_⟩, fun hs ho hu => ?_⟩,
    fun hr ha => ⟨_, exec_remoteLine hl hn hr ha, ?_, ?_⟩, exec_cacheLine hl hn,
    onTile_live hl, fun hs => ⟨_, exec_loamScrub hl hs, ?_, ?_, fun he => ?_⟩⟩
  · subst he
    obtain ⟨hmem, hmiss⟩ := filled_stream (t := t) (rest := rest) hc h1 h2
    exact ⟨.of_mem hmem, hmiss⟩
  · obtain ⟨hrest, hmem⟩ := writeBackOldest_line hc hw
    exact ⟨_, exec_cacheWriteback hl (by rw [hw]; exact List.cons_ne_nil _ _), hrest,
      (MemKept.refl _).writes_bytes hc (State.writeBackOldest_keeps hc.keeps).canon hmem⟩
  · obtain ⟨u, hcu, hmu, hmove⟩ := (ldMove_load hc hs hw ho (hi ▸ hp)).1 he
    rw [exec_ldLine hl hn hf hi hr, hmove, hi]
    obtain ⟨hout, hin⟩ := ((memKept_onLoam _ t (fun l => { l with lastSrc := .ld })).trans (memKept_onFlight _ t 5 _)).writes_bytes hc
      (State.writeStore_canonical hcu t (ldS f.entry.desc + 64 * i) (s.loamLine t line) (dGen f.entry.desc))
      ((State.writeStore_mem_eq hcu t _ _ _).trans (State.setBytes_mem_congr hmu _ _))
    rw [State.loamLine, State.bytes_length] at hout hin
    exact ⟨_, rfl, hout, fun k hk => (hin k hk).trans (State.getD_bytes hk)⟩
  · obtain ⟨u, hcu, hmu, hq, hmove⟩ := (ldMove_load hc hs hw ho (hi ▸ hp)).2 he
    rw [exec_ldLine hl hn hf hi hr, hmove, hi]
    have hcl := State.onLoam_canonical hcu t (fun l => { l with lastSrc := .ld })
    have hkept := (memKept_onLoam u t (fun l => { l with lastSrc := .ld })).trans (memKept_onFlight _ t 5
      (ldMoved i (some (det ecLoamUe 6 (64 * line)))))
    have hflight : (u.onLoam t (fun l => { l with lastSrc := .ld })).flightOf t 5 = some f := by
      have hqu : (u.onLoam t (fun l => { l with lastSrc := .ld })).queue t 5 = u.queue t 5 := by
        rw [State.queue, State.onLoam_tile hcu, State.queue]
        rfl
      rw [State.flightOf, hqu, hq, ← State.flightOf, ldNext_flight hf]
    exact ⟨_, ldMoved i (some (det ecLoamUe 6 (64 * line))) f, det ecLoamUe 6 (64 * line), rfl,
      .of_mem ((hkept.mem hcu).trans hmu), by rw [flightOf_onFlight hcl t (by decide), hflight]; rfl, rfl, rfl, rfl⟩
  · obtain ⟨u, hcu, hmu, hmove⟩ := ldMove_save (err := err) hc hs ho hu
    rw [exec_ldLine hl hn hf hi hr, hmove, hi]
    obtain ⟨hout, hin⟩ := ((memKept_onLoam _ t (fun l => { l with lastSrc := .ld })).trans (memKept_onFlight _ t 5 _)).writes_bytes hc
      (State.putLine_canonical (t := t) hcu line (s.bytes (storeAddr t (ldS f.entry.desc + 64 * i)) 64))
      ((State.putLine_mem _ _).trans (State.setBytes_mem_congr hmu _ _))
    rw [State.bytes_length] at hout hin
    exact ⟨_, rfl, hout, fun k hk => (hin k hk).trans (State.getD_bytes hk)⟩
  · refine .of_mem ?_
    change (s.ldDecoded t line err).mem = s.mem
    unfold State.ldDecoded
    split
    · exact (decoded_loamDecode hc line err).mem
    · exact rfl
  · have hcd : (s.ldDecoded t line err).Canonical := by
      unfold State.ldDecoded
      split
      · exact (decoded_loamDecode hc line err).canon
      · exact hc
    rw [State.onLoam_tile (openRow_canonical hcd line)]
  · exact .of_mem (decoded_loamDecode (t := t) hc _ err).mem
  · have hd := decoded_loamDecode (t := t) hc (s.tile t).loam.scrub err
    rw [State.onLoam_tile (openRow_canonical hd.canon _)]
    rfl
  · have hd := decoded_loamDecode (t := t) hc (s.tile t).loam.scrub err
    rw [State.onLoam_tile (openRow_canonical hd.canon _)]
    change _ ∈ (((s.loamDecode t (s.tile t).loam.scrub err).openRow t (s.tile t).loam.scrub).tile t).loam.poison
    rw [openRow_poison hd.canon, hd.poison, if_pos he]
    exact mem_insertNat_self _ _

end Sys2Proof.Machine
end

section
/-!
PROOFS. A link (R17 to R19, R25, R26): arrival, discard, replay and credit, and the local port.
-/
namespace Sys2Proof.Machine

/-! ### Ports of a router -/

section
variable (x : Router) (p : Port)

@[simp] theorem Router.inp_setInp (v : InPort) : (x.setInp p v).inp p = v := by cases p <;> rfl
@[simp] theorem Router.outp_setOutp (v : OutPort) : (x.setOutp p v).outp p = v := by cases p <;> rfl
@[simp] theorem Router.inp_setOutp (q : Port) (v : OutPort) : (x.setOutp p v).inp q = x.inp q := by cases p <;> cases q <;> rfl
@[simp] theorem Router.outp_setInp (q : Port) (v : InPort) : (x.setInp p v).outp q = x.outp q := by cases p <;> cases q <;> rfl
@[simp] theorem Router.setOutp_setOutp (v w : OutPort) : (x.setOutp p v).setOutp p w = x.setOutp p w := by cases p <;> rfl
@[simp] theorem Router.crc_setInp (v : InPort) : (x.setInp p v).crc = x.crc := by cases p <;> rfl
@[simp] theorem Router.crc_setOutp (v : OutPort) : (x.setOutp p v).crc = x.crc := by cases p <;> rfl

end

/-- Sites of the wafer have different keys. -/
theorem Site.key_inj {a b : Site} (ha : a.onWafer = true) (hb : b.onWafer = true) (h : a.key = b.key) : a = b := by
  simp only [Site.onWafer, Bool.and_eq_true, decide_eq_true_eq] at ha hb
  simp only [Site.key] at h
  obtain ⟨ax, ay⟩ := a
  obtain ⟨bx, by_⟩ := b
  simp only [Site.mk.injEq]
  dsimp only at ha hb h
  omega

theorem Site.next_onWafer {r u : Site} {p : Port} (h : r.next p = some u) : u.onWafer = true := by
  have key : ∀ n : Option Site, (match n with | some v => if v.onWafer then some v else none | none => none) = some u →
      u.onWafer = true := by
    intro n hn
    cases n with
    | none => cases hn
    | some v =>
      obtain ⟨hv, he⟩ := Option.ite_none_right_eq_some.1 hn
      exact Option.some.inj he ▸ hv
  exact key _ h

section
variable {s : State} {r u : Site} {p : Port}

theorem State.onOutp_onOutp (hc : s.Canonical) (f g : OutPort → OutPort) :
    (s.onOutp u p f).onOutp u p g = s.onOutp u p (fun o => g (f o)) := by
  simp only [State.onOutp, State.onRouter_onRouter hc, Router.outp_setOutp, Router.setOutp_setOutp]

theorem State.Canonical.onOutp (hc : s.Canonical) (f : OutPort → OutPort) : (s.onOutp u p f).Canonical := hc.onRouter u _
theorem State.Canonical.onInp (hc : s.Canonical) (f : InPort → InPort) : (s.onInp u p f).Canonical := hc.onRouter u _

theorem State.onOutp_outp (hc : s.Canonical) (f : OutPort → OutPort) :
    ((s.onOutp u p f).router u).outp p = f ((s.router u).outp p) := by
  rw [State.onOutp, State.onRouter_router_same hc, Router.outp_setOutp]

theorem State.onInp_inp (hc : s.Canonical) (f : InPort → InPort) : ((s.onInp u p f).router u).inp p = f ((s.router u).inp p) := by
  rw [State.onInp, State.onRouter_router_same hc, Router.inp_setInp]

theorem State.onInp_outp (hc : s.Canonical) (f : InPort → InPort) (q : Port) :
    ((s.onInp u p f).router u).outp q = (s.router u).outp q := by
  rw [State.onInp, State.onRouter_router_same hc, Router.outp_setInp]

theorem State.onOutp_inp (hc : s.Canonical) (f : OutPort → OutPort) (q : Port) :
    ((s.onOutp u p f).router u).inp q = (s.router u).inp q := by
  rw [State.onOutp, State.onRouter_router_same hc, Router.inp_setOutp]

theorem State.onOutp_router_other (hk : r.key ≠ u.key) (f : OutPort → OutPort) : (s.onOutp u p f).router r = s.router r :=
  State.onRouter_router_other hk _

theorem State.onInp_router_other (hk : r.key ≠ u.key) (f : InPort → InPort) : (s.onInp u p f).router r = s.router r :=
  State.onRouter_router_other hk _

end

/-! ### Arrival from a link (R17, R19) -/

/-- A grain that the link must send again. -/
def State.again (s : State) (u : Site) (p : Port) (g : Grain) : State := s.onOutp u p.opposite (fun o => { o with resend := o.resend ++ [g] })

/-- A failed CRC at input p of router r: counted there and on the device, and the input discards. -/
def State.crcFails (s : State) (r : Site) (p : Port) : State :=
  ((s.bump rMeshErrCnt 63 32 1).onRouter r (fun x => { x with crc := satAdd 0xFFFFFFFF x.crc 1 })).onInp r p
    (fun i => { i with discarding := true, fails := i.fails + 1 })

section
variable {s : State} {r u : Site} {p : Port} {g : Grain} {wire : List Grain} (hl : s.LiveSite r) (hn : r.next p = some u)
  (hk : r.key ≠ u.key) (hw : ((s.router u).outp p.opposite).wire = g :: wire)
include hl hn hk hw

theorem exec_grainArrival_discards (hd : ((s.router r).inp p).discarding = true) (ok : Bool) : exec (.grainArrival r p ok) s =
    .next ((s.onOutp u p.opposite (fun o => { o with wire := wire })).again u p g) := by
  have hd' : (((s.onOutp u p.opposite (fun o => { o with wire := wire })).router r).inp p).discarding = true := by
    rw [State.onOutp_router_other hk, hd]
  refine (onSite_live hl).trans ?_
  cases p
  case loc => simp [Site.next] at hn
  all_goals
    simp only [hn, hw, hd', if_true]
    rfl

variable (hd : ((s.router r).inp p).discarding = false)
include hd

theorem exec_grainArrival_accepts : exec (.grainArrival r p true) s =
    .next (((s.onOutp u p.opposite (fun o => { o with wire := wire })).onInp r p (fun i => { i with fails := 0 })).accept r p g) := by
  have hd' : (((s.onOutp u p.opposite (fun o => { o with wire := wire })).router r).inp p).discarding = false := by
    rw [State.onOutp_router_other hk, hd]
  refine (onSite_live hl).trans ?_
  cases p
  case loc => simp [Site.next] at hn
  all_goals simp only [hn, hw, hd', Bool.false_eq_true, if_false, if_true]

theorem exec_grainArrival_fails : exec (.grainArrival r p false) s =
    .next (((s.onOutp u p.opposite (fun o => { o with wire := wire })).crcFails r p).again u p g) := by
  have hd' : (((s.onOutp u p.opposite (fun o => { o with wire := wire })).router r).inp p).discarding = false := by
    rw [State.onOutp_router_other hk, hd]
  refine (onSite_live hl).trans ?_
  cases p
  case loc => simp [Site.next] at hn
  all_goals
    simp only [hn, hw, hd', Bool.false_eq_true, if_false]
    rfl

end

section
variable {s : State} {r u : Site} {p : Port}

theorem State.crcFails_canonical (hc : s.Canonical) : (s.crcFails r p).Canonical := ((hc.bump _ _ _ _).onRouter r _).onInp _

theorem State.crcFails_router (hc : s.Canonical) : ((s.crcFails r p).router r).inp p =
    { (s.router r).inp p with discarding := true, fails := ((s.router r).inp p).fails + 1 } ∧
      ((s.crcFails r p).router r).crc = min (2 ^ 32 - 1) ((s.router r).crc + 1) := by
  have hb := hc.bump rMeshErrCnt 63 32 1
  have h2 : ((s.bump rMeshErrCnt 63 32 1).onRouter r (fun x => { x with crc := satAdd 0xFFFFFFFF x.crc 1 })).router r =
      { s.router r with crc := satAdd 0xFFFFFFFF (s.router r).crc 1 } := State.onRouter_router_same hb r _
  refine ⟨?_, ?_⟩
  · rw [State.crcFails, State.onInp_inp (hb.onRouter r _), h2]
    rfl
  · rw [State.crcFails, State.onInp, State.onRouter_router_same (hb.onRouter r _), h2, Router.crc_setInp]
    rfl

theorem State.crcFails_other (hk : u.key ≠ r.key) : (s.crcFails r p).router u = s.router u := by
  rw [State.crcFails, State.onInp_router_other hk, State.onRouter_router_other hk]
  rfl

theorem State.crcFails_count (hc : s.Canonical) : (s.crcFails r p).fld rMeshErrCnt 63 32 = min (2 ^ 32 - 1) (s.fld rMeshErrCnt 63 32 + 1) :=
  State.setFld_fld_of_lt hc (by decide) (by decide) (by omega)

end

/-! ### Replay, credit, and the local port (R17, R19, R26) -/

section
variable {s : State} {r u : Site} {p : Port}

theorem exec_replayRequest (hl : s.LiveSite r) (hn : r.next p = some u) (hd : ((s.router u).inp p.opposite).discarding = true)
    (hf : ((s.router r).outp p).failed = false) : exec (.replayRequest r p) s =
      .next ((s.onOutp r p (fun o => { o with wire := o.resend ++ o.wire, resend := [] })).onInp u p.opposite
        (fun i => { i with discarding := false })) := by
  refine (onSite_live hl).trans ?_
  simp only [hn]
  exact when_of (by rw [hd, hf]; rfl)

theorem exec_linkCreditArrival {v w : VC} {rest : List VC} (hl : s.LiveSite r)
    (h : Picks (fun x => decide (x = v)) ((s.router r).outp p).credits w rest) : exec (.linkCreditArrival r p v) s =
      .next (s.onOutp r p (fun o => ({ o with credits := rest }).setCredit v (min 8 (o.credit v + 1)))) := by
  refine (onSite_live hl).trans ?_
  simp only [takeFirst_picks h]

/-- The NI once its next grain has entered; a connection whose grain takes ESC becomes sticky (R32). -/
def State.outboxTaken (s : State) (r : Site) (g : Grain) (rest : List Grain) : State :=
  let s := s.onNi r (fun n => { n with outbox := rest })
  if kindSequenced g.kind.toNat && !isPrism g && !onEsc g && decide (s.route r (grainDst g) = .esc) then
    s.onNi r (fun n => { n with tx := n.tx.map (fun c =>
      if decide (c.conn = g.conn.toNat) && decide (c.dst = grainDst g) then { c with sticky := true } else c) })
  else s

theorem exec_grainArrival_local {g : Grain} {rest : List Grain} (hl : s.LiveSite r) (ok : Bool)
    (ho : (s.ni r).outbox = g :: rest) (hb : (((s.router r).inp .loc).buf (vcOf (stickyGrain (s.ni r) g))).length < 8) :
    exec (.grainArrival r .loc ok) s =
      .next ((s.outboxTaken r (stickyGrain (s.ni r) g) rest).accept r .loc (stickyGrain (s.ni r) g)) := by
  refine (onSite_live hl).trans ?_
  simp only [ho]
  exact when_of (decide_eq_true hb)

theorem outboxTaken_frame (hc : s.Canonical) (g : Grain) (rest : List Grain) : NiOnly r s (s.outboxTaken r g rest) ∧
    ((s.outboxTaken r g rest).ni r).outbox = rest ∧ (s.outboxTaken r g rest).routers = s.routers := by
  have h1 := hc.onNi r (fun n => { n with outbox := rest })
  unfold State.outboxTaken
  dsimp only
  split
  · exact ⟨(niOnly_onNi s r _).onNi _, by rw [State.onNi_ni h1, State.onNi_ni hc], rfl⟩
  · exact ⟨niOnly_onNi s r _, by rw [State.onNi_ni hc], rfl⟩

end

/-- Settles O27: a link touches the sender's output and the receiver's input, which lie in two routers. -/
theorem linksCarryGrains : Obligations.LinksCarryGrains := by
  intro s r u p g wire hc hl hn hne
  have hk : r.key ≠ u.key := fun h => hne (Site.key_inj hl.wafer (Site.next_onWafer hn) h)
  have hkept : (s.onOutp u p.opposite (fun o => { o with wire := wire })).again u p g = s.onOutp u p.opposite (fun o => { o with
      wire := wire, resend := o.resend ++ [g] }) := State.onOutp_onOutp hc _ _
  have h1 : (s.onOutp u p.opposite (fun o => { o with wire := wire })).Canonical := hc.onOutp _
  refine ⟨fun hw => ⟨fun hd => ?_, fun hd => ⟨exec_grainArrival_accepts hl hn hk hw hd, _, exec_grainArrival_fails hl hn hk hw hd,
      ?_, ?_, ?_, ?_, .of_mem rfl⟩⟩, fun hd hf => ⟨_, exec_replayRequest hl hn hd hf, ?_, ?_, .of_mem rfl⟩,
    fun v rest h => exec_linkCreditArrival hl h, fun ok rest ho hb => ?_⟩
  · rw [exec_grainArrival_discards hl hn hk hw hd, exec_grainArrival_discards hl hn hk hw hd, hkept]
    exact ⟨rfl, rfl⟩
  · rw [State.again, State.onOutp_router_other hk, (State.crcFails_router h1).1, State.onOutp_router_other hk]
  · rw [State.again, State.onOutp_outp (State.crcFails_canonical h1), State.crcFails_other (Ne.symm hk), State.onOutp_outp hc]
    exact (State.onOutp_outp hc (fun o => { o with wire := wire, resend := o.resend ++ [g] })).symm
  · exact State.crcFails_count (r := r) (p := p) h1
  · rw [State.again, State.onOutp_router_other hk, (State.crcFails_router h1).2, State.onOutp_router_other hk]
  · rw [State.onInp_router_other hk, State.onOutp_outp hc]
  · rw [State.onInp_inp (hc.onOutp _), State.onOutp_router_other (Ne.symm hk)]
  · obtain ⟨hni, hout, hr⟩ := outboxTaken_frame (r := r) hc (stickyGrain (s.ni r) g) rest
    exact ⟨_, exec_grainArrival_local hl ok ho hb, hout, hr, .of_mem (hni.mem hc)⟩

end Sys2Proof.Machine
end

section
/-!
PROOFS. The escape channel, prism trees, and failed links (R20, R31, R37, R39, R397).
-/
namespace Sys2Proof.Machine

theorem isPrism_of_ne {g : Grain} (h : g.dx ≠ 0x1FF) : isPrism g = false :=
  decide_eq_false (fun e => h (BitVec.eq_of_toNat_eq e))

/-! ### The escape channel (R31) -/

section
variable {s : State} {r : Site} {p : Port} {v : VC} {b : Buffered} (hl : s.LiveSite r)
include hl

theorem exec_meshEscWait (hb : s.head r p v = some b) (hv : v ≠ .esc) (hp : b.grain.dx ≠ 0x1FF) (hd : b.dueEsc = false)
    (hc : s.hasCredit r b.out v = false) : exec (.meshEscWait r p v) s =
      .next (s.onInp r p (fun i => i.setBuf v ({ b with dueEsc := true } :: (i.buf v).drop 1))) := by
  refine (onSite_live hl).trans ?_
  simp only [hb]
  exact when_of (by simp [hv, isPrism_of_ne hp, hd, hc])

section
variable (hb : s.head r p v = some b) (hd : b.dueEsc = true) (he : s.edgeHolds r p b.grain = false)
include hb hd he

theorem exec_escapeMove_noRoute (hr : s.tables.escPort r (grainDst b.grain) = none) :
    exec (.escapeMove r p v) s = .next ((s.popHead r p v).returnErr r b.grain errNoroute) := by
  refine (onSite_live hl).trans ?_
  simp only [hb, hd, he, hr, Bool.not_true, Bool.or_self, Bool.false_eq_true, if_false]

variable {out : Port} (hr : s.tables.escPort r (grainDst b.grain) = some out)
include hr

theorem exec_escapeMove_linkFailed (hf : s.linkDown r out = true) :
    exec (.escapeMove r p v) s = .next ((s.popHead r p v).returnErr r b.grain errLinkfail) := by
  refine (onSite_live hl).trans ?_
  simp only [hb, hd, he, hr, hf, Bool.not_true, Bool.or_self, Bool.false_eq_true, if_false, if_true]

theorem exec_escapeMove_moves (hf : s.linkDown r out = false) (hc : s.hasCredit r out .esc = true) :
    exec (.escapeMove r p v) s = .next (
      let moved := ((s.popHead r p v).sendOut r out .esc (toEsc b.grain)).count rMeshStat 31 0 1
      if kindSequenced b.grain.kind.toNat then
        moved.niSend r (mkGrain r (grainSrc b.grain) 11 b.grain.conn.toNat 0 true .escn)
      else moved) := by
  refine (onSite_live hl).trans ?_
  simp only [hb, hd, he, hr, hf, Bool.not_true, Bool.or_self, Bool.false_eq_true, if_false]
  exact when_of hc

end

/-! ### Prism trees (R37, R39) -/

section
variable (hb : s.head r p .dat = some b) (hp : b.grain.dx = 0x1FF)
include hb hp

theorem exec_prismForward_refused (hr : (s.prismEntry r (b.grain.dy.toNat % 256)).testBit 7 = false ∨ s.plotOf r = none ∨
    s.plotOf (grainSrc b.grain) ≠ s.plotOf r) :
    exec (.prismForward r p) s = .next ((s.popHead r p .dat).returnErr r b.grain errPrism) := by
  have hprism : isPrism b.grain = true := by simp [isPrism, hp]
  have hbad : (!(s.prismEntry r (b.grain.dy.toNat % 256)).testBit 7 || decide (s.plotOf r = none) ||
      decide (s.plotOf (grainSrc b.grain) ≠ s.plotOf r)) = true := by
    simpa [or_assoc] using hr
  refine (onSite_live hl).trans ?_
  simp only [hb, hprism, hbad, Bool.not_true, Bool.false_eq_true, if_false, if_true]

/-- The ports of a tree that a router can send on. -/
def State.livePorts (s : State) (r : Site) (g : Grain) : List Port :=
  (markedPorts (s.prismEntry r (g.dy.toNat % 256))).filter (fun q => !s.portLost r q)

/-- The router once a prism grain has left by every port that it can: a tree that has lost a port is reported, once in 1,024 cycles. -/
def State.prismSent (s : State) (r : Site) (p : Port) (g : Grain) : State :=
  let u := (s.livePorts r g).foldl (fun s q => s.sendOut r q .dat g) (s.popHead r p .dat)
  let last := ((u.router r).prismErr.find? (fun x => decide (x.1 = g.dy.toNat % 256))).map (fun x => x.2)
  let due := match last with | some c => decide (c + 1024 ≤ u.cycle) | none => true
  if decide ((s.livePorts r g).length < (markedPorts (s.prismEntry r (g.dy.toNat % 256))).length) && due then
    (u.onRouter r (fun x => { x with prismErr := mapPut x.prismErr (g.dy.toNat % 256) u.cycle })).returnErr r g errLinkfail
  else u

theorem exec_prismForward_sends (he : (s.prismEntry r (b.grain.dy.toNat % 256)).testBit 7 = true) (h1 : s.plotOf r ≠ none)
    (h2 : s.plotOf (grainSrc b.grain) = s.plotOf r) (hc : ∀ q ∈ s.livePorts r b.grain, s.hasCredit r q .dat = true) :
    exec (.prismForward r p) s = .next (s.prismSent r p b.grain) := by
  have hprism : isPrism b.grain = true := by simp [isPrism, hp]
  have hgood : (!(s.prismEntry r (b.grain.dy.toNat % 256)).testBit 7 || decide (s.plotOf r = none) ||
      decide (s.plotOf (grainSrc b.grain) ≠ s.plotOf r)) = false := by
    simp [he, h1, h2]
  refine (onSite_live hl).trans ?_
  simp only [hb, hprism, hgood, Bool.not_true, Bool.false_eq_true, if_false]
  exact when_of (List.all_eq_true.2 hc)

omit hl hb hp in
theorem prismSent_whole {g : Grain} (h : (s.livePorts r g).length = (markedPorts (s.prismEntry r (g.dy.toNat % 256))).length) :
    s.prismSent r p g = (s.livePorts r g).foldl (fun s q => s.sendOut r q .dat g) (s.popHead r p .dat) := by
  simp only [State.prismSent, h, Nat.lt_irrefl, decide_false, Bool.false_and, Bool.false_eq_true, if_false]

end

end

/-! ### Failed links (R20, R397) -/

/-- The links that count as failed, and the tables that wait for it, stand. -/
structure LinksKept (s s' : State) : Prop where
  failed : s'.failedLinks = s.failedLinks
  due    : s'.tablesDue = s.tablesDue

section
variable {s s' s'' : State}

theorem LinksKept.refl (s : State) : LinksKept s s := ⟨rfl, rfl⟩
theorem LinksKept.trans (h : LinksKept s s') (k : LinksKept s' s'') : LinksKept s s'' :=
  ⟨k.failed.trans h.failed, k.due.trans h.due⟩

theorem linksKept_foldl {α : Type} {f : State → α → State} (hf : ∀ u a, LinksKept u (f u a)) (l : List α) (s : State) :
    LinksKept s (l.foldl f s) :=
  List.foldlRecOn (motive := fun u : State => LinksKept s u) l f (.refl s) (fun u hu a _ => hu.trans (hf u a))

theorem linksKept_onRouter (s : State) (r : Site) (f : Router → Router) : LinksKept s (s.onRouter r f) := ⟨rfl, rfl⟩

theorem linksKept_alarm (s : State) (c : Nat) (x : Word) (a : Nat) : LinksKept s (s.alarm c x a) := ⟨rfl, rfl⟩

theorem linksKept_returnErr (s : State) (r : Site) (g : Grain) (e : Nat) : LinksKept s (s.returnErr r g e) := by
  unfold State.returnErr
  split <;> exact ⟨rfl, rfl⟩

theorem linksKept_freeEntry (s : State) (r : Site) (p : Port) (v : VC) : LinksKept s (s.freeEntry r p v) := by
  unfold State.freeEntry
  split <;> exact ⟨rfl, rfl⟩

theorem linksKept_divert (s : State) (r : Site) (p : Port) : LinksKept s (s.divert r p) := by
  refine linksKept_foldl (fun u i => linksKept_foldl (fun w v => ?_) _ u) _ s
  cases v
  case esc =>
    dsimp only
    exact (linksKept_onRouter ..).trans (linksKept_foldl (fun y b => (linksKept_returnErr ..).trans (linksKept_freeEntry ..)) _ _)
  all_goals exact linksKept_onRouter ..

theorem failSide_links {r : Site} {p : Port} (h : s.linkDown r p = false) :
    (s.failSide r p).failedLinks = s.failedLinks ++ [(r.key, p.num)] ∧ (s.failSide r p).tablesDue = true := by
  have hf : ∀ (u : State) c x y, ((u.divert r p).alarm c x y).failedLinks = u.failedLinks := fun u c x y => by
    rw [(linksKept_alarm _ c x y).failed, (linksKept_divert u r p).failed]
  have hd : ∀ (u : State) c x y, ((u.divert r p).alarm c x y).tablesDue = u.tablesDue := fun u c x y => by
    rw [(linksKept_alarm _ c x y).due, (linksKept_divert u r p).due]
  simp only [State.failSide, h, Bool.false_eq_true, if_false, hf, hd]
  exact ⟨rfl, rfl⟩

variable {r u : Site} {p : Port} (hl : s.LiveSite r) (hn : r.next p = some u) (hd : s.linkDown r p = false)
include hl hn hd

theorem exec_linkFailed (hf : 16 ≤ ((s.router r).inp p).fails) :
    exec (.linkFailed r p) s = .next ((s.failSide r p).failSide u p.opposite) := by
  refine (onSite_live hl).trans ((when_of (by simp [hf, hn, hd])).trans ?_)
  simp only [State.failLink, hn]

theorem exec_forwardedClockStop (h1 : u.field ≠ r.field) (h2 : s.fieldState u.field = 2) (h3 : s.fieldState r.field ≠ 2) :
    exec (.forwardedClockStop r p) s = .next (s.failSide r p) := by
  refine (onSite_live hl).trans ?_
  simp only [hn]
  exact when_of (by simp [h1, State.inUmbra, h2, h3, hd])

end

/-- Settles O30: one case of the escape channel, of a prism tree or of a failed link for each clause. -/
theorem escapesFailuresAndPrism : Obligations.EscapesFailuresAndPrism := by
  intro s r p v b hl
  refine ⟨exec_meshEscWait hl, fun hb hd he => ⟨exec_escapeMove_noRoute hl hb hd he, fun out hr =>
      ⟨exec_escapeMove_linkFailed hl hb hd he hr, fun hf hc => ⟨fun hs => ?_, fun hs => ?_⟩⟩⟩,
    fun hb hp => ⟨exec_prismForward_refused hl hb hp, fun he h1 h2 hc hn => ?_, fun he h1 h2 hc =>
      ⟨_, exec_prismForward_sends hl hb hp he h1 h2 hc⟩⟩,
    fun u hn hd => ⟨exec_linkFailed hl hn hd, exec_forwardedClockStop hl hn hd, ?_, (failSide_links hd).2⟩⟩
  · rw [exec_escapeMove_moves hl hb hd he hr hf hc, hs]
    rfl
  · rw [exec_escapeMove_moves hl hb hd he hr hf hc, hs]
    rfl
  · rw [exec_prismForward_sends hl hb hp he h1 h2 hc, prismSent_whole hn]
    rfl
  · rw [(failSide_links hd).1]
    exact List.mem_append_right _ (List.mem_singleton_self _)

end Sys2Proof.Machine
end

section
/-!
PROOFS. Frames of a facet (R310 to R312, R324): what a slot sends, what a frame in error and a good frame do to the receiver.
-/
namespace Sys2Proof.Machine

/-! ### A slot (R310, R312, R314) -/

theorem OptPort.takeSlots_frame (n : Nat) (x : OptPort) : ∃ a b c k, (x.takeSlots n).1 = { x with req := a, rpl := b, dat := c, turn := k } ∧
    (x.takeSlots n).2.length ≤ n := by
  induction n generalizing x with
  | zero => exact ⟨x.req, x.rpl, x.dat, x.turn, rfl, Nat.le_refl 0⟩
  | succ n ih =>
    unfold OptPort.takeSlots
    split
    · exact ⟨x.req, x.rpl, x.dat, x.turn, rfl, Nat.zero_le _⟩
    · next k _ =>
      dsimp only
      split
      · exact ⟨x.req, x.rpl, x.dat, x.turn, rfl, Nat.zero_le _⟩
      · obtain ⟨a, b, c, m, hx, hn⟩ := ih { x.dropHead (turnVC (x.turn + k)) with turn := (x.turn + k + 1) % 3 }
        refine ⟨a, b, c, m, ?_, Nat.succ_le_succ hn⟩
        dsimp only
        rw [hx]
        cases turnVC (x.turn + k) <;> rfl

section
variable (x : OptPort) (f : FacetFrame) (paid : Bool)

theorem OptPort.sendNew_last : (x.sendNew f paid).replay.getLast? = some f := by
  have h : x.replay.length - 255 ≤ x.replay.length := Nat.sub_le _ _
  simp only [OptPort.sendNew, List.drop_append_of_le_length h, List.getLast?_append, List.getLast?_singleton, Option.some_or]

theorem OptPort.sendNew_replay_le : (x.sendNew f paid).replay.length ≤ 256 := by
  simp only [OptPort.sendNew, List.length_drop, List.length_append, List.length_singleton]
  omega

/-- The frame that a slot sends when nothing else can go. -/
def idleFrame (x : OptPort) : FacetFrame := { ftype := .idle, fseq := x.txSeq, cret := min 255 x.freed, slots := [], ctrl := [] }

/-- The port after an IDLE frame. -/
def idleSlot (x : OptPort) : OptPort := { x with line := some (idleFrame x), freed := x.freed - min 255 x.freed }

theorem OptPort.slot_idleOnly (up : Bool) : x.slot true up = idleSlot x := rfl

theorem OptPort.slot_resend {rest : List FacetFrame} (up : Bool) (h : x.resend = f :: rest) :
    x.slot false up = { x with line := some f, resend := rest } := by
  simp only [OptPort.slot, Bool.false_eq_true, if_false, h]

/-- A frame with a new number goes out of a port whose traffic queues may have been served. -/
structure SendsNew (x : OptPort) (up : Bool) (f : FacetFrame) (y : OptPort) : Prop where
  port  : ∃ z paid, y = OptPort.sendNew z f paid ∧ z.txSeq = x.txSeq ∧ z.credit = x.credit ∧ z.freed = x.freed - min 255 x.freed ∧
    (up = true → paid = true)
  seq   : f.fseq = x.txSeq
  cret  : f.cret = min 255 x.freed
  slots : f.slots.length ≤ 16
  ctrl  : f.ctrl.length ≤ 16
  type  : f.ftype = .data ∧ up = true ∧ f.slots ≠ [] ∨ f.ftype = .ctrl
  room  : up = true → 0 < x.credit

/-- A slot with nothing to send again sends IDLE or a new frame. -/
theorem OptPort.slot_fresh (up : Bool) (h : x.resend = []) :
    x.slot false up = idleSlot x ∨ ∃ f, SendsNew x up f (x.slot false up) := by
  obtain ⟨a, b, c, k, hx, hn⟩ := x.takeSlots_frame 16
  by_cases hc : (decide (x.credit = 0) && up) = true
  · left
    simp only [OptPort.slot, Bool.false_eq_true, if_false, h, hc, if_true, idleSlot, idleFrame]
  have hroom : up = true → 0 < x.credit := by
    intro hu
    have : x.credit ≠ 0 := by simpa [hu] using hc
    omega
  by_cases hq : (!x.ctrl.isEmpty) = true
  · right
    simp only [OptPort.slot, Bool.false_eq_true, if_false, h, hc, hq, if_true]
    exact ⟨_, ⟨_, _, rfl, rfl, rfl, rfl, id⟩, rfl, rfl, Nat.zero_le _, List.length_take_le _ _, .inr rfl, hroom⟩
  by_cases hg : ((x.takeSlots 16).2.isEmpty || !up) = true
  · left
    simp only [OptPort.slot, Bool.false_eq_true, if_false, h, hc, hq, hg, if_true, idleSlot, idleFrame]
  · right
    obtain ⟨hne, hup⟩ : (x.takeSlots 16).2 ≠ [] ∧ up = true := by simpa using hg
    simp only [OptPort.slot, Bool.false_eq_true, if_false, h, hc, hq, hg]
    exact ⟨_, ⟨_, _, rfl, by rw [hx], by rw [hx], rfl, fun _ => rfl⟩, rfl, rfl, hn, Nat.zero_le _, .inl ⟨rfl, hup, hne⟩, hroom⟩

end

/-! ### The receiver (R311, R312) -/

/-- Where port o stands in the sequence of the frames that it takes. -/
structure RxKept (o : Nat) (s s' : State) : Prop where
  canon : s.Canonical → s'.Canonical
  rx    : s.Canonical → (s'.opt o).rxSeq = (s.opt o).rxSeq ∧ (s'.opt o).discarding = (s.opt o).discarding ∧
    (s'.opt o).fails = (s.opt o).fails

/-- What a relay does at port o: the steward's registers stand too. -/
structure Relaying (o : Nat) (s s' : State) : Prop extends RxKept o s s' where
  sreg  : s'.sreg = s.sreg

section
variable {s s' s'' : State} {o : Nat}

theorem State.Canonical.onOpt (hc : s.Canonical) (o : Nat) (f : OptPort → OptPort) : (s.onOpt o f).Canonical :=
  (State.onOpt_keeps hc.keeps).canon

theorem RxKept.refl (o : Nat) (s : State) : RxKept o s s := ⟨id, fun _ => ⟨rfl, rfl, rfl⟩⟩

theorem RxKept.trans (h : RxKept o s s') (k : RxKept o s' s'') : RxKept o s s'' where
  canon := fun hc => k.canon (h.canon hc)
  rx := fun hc => by
    obtain ⟨h1, h2, h3⟩ := h.rx hc
    obtain ⟨k1, k2, k3⟩ := k.rx (h.canon hc)
    exact ⟨k1.trans h1, k2.trans h2, k3.trans h3⟩

theorem Relaying.refl (o : Nat) (s : State) : Relaying o s s := ⟨.refl o s, rfl⟩

theorem Relaying.trans (h : Relaying o s s') (k : Relaying o s' s'') : Relaying o s s'' :=
  ⟨h.toRxKept.trans k.toRxKept, k.sreg.trans h.sreg⟩

theorem relaying_onOpt (s : State) (o : Nat) {f : OptPort → OptPort} (hf : ∀ x, (f x).rxSeq = x.rxSeq ∧ (f x).discarding = x.discarding ∧
    (f x).fails = x.fails) : Relaying o s (s.onOpt o f) :=
  ⟨⟨fun hc => hc.onOpt o f, fun hc => by rw [State.onOpt_opt_same hc]; exact hf _⟩, rfl⟩

theorem relaying_onNi (s : State) (o : Nat) (t : Site) (f : Ni → Ni) : Relaying o s (s.onNi t f) :=
  ⟨⟨fun hc => hc.onNi t _, fun _ => ⟨rfl, rfl, rfl⟩⟩, rfl⟩

theorem relaying_niSend (s : State) (o : Nat) (t : Site) (g : Grain) : Relaying o s (s.niSend t g) := relaying_onNi s o t _

theorem relaying_toPort (s : State) (o : Nat) (g : Grain) : Relaying o s (s.toPort o g) := by
  refine relaying_onOpt s o (fun x => ?_)
  unfold OptPort.enqueue
  split <;> exact ⟨rfl, rfl, rfl⟩

theorem relaying_dropRelay (s : State) (o i : Nat) : Relaying o s (s.dropRelay o i) := relaying_onOpt s o fun _ => ⟨rfl, rfl, rfl⟩
theorem relaying_setRelay (s : State) (o : Nat) (r : Relay) : Relaying o s (s.setRelay o r) := relaying_onOpt s o fun _ => ⟨rfl, rfl, rfl⟩

theorem Relaying.ite {c : Prop} [Decidable c] {a b : State} (ha : Relaying o s a) (hb : Relaying o s b) :
    Relaying o s (if c then a else b) := by
  split <;> assumption

theorem relaying_foldl {α : Type} {f : State → α → State} (hf : ∀ u a, Relaying o u (f u a)) (l : List α) (s : State) :
    Relaying o s (l.foldl f s) :=
  List.foldlRecOn (motive := fun u : State => Relaying o s u) l f (.refl o s) (fun u hu a _ => hu.trans (hf u a))

/-- Grains of the link that leave the receive buffer. -/
theorem relaying_relayIn {g : Grain} (h : s.relayIn o g = some s') : Relaying o s s' := by
  have drop : ∀ (c : Prop) [Decidable c] (t : Site) (g : Grain) (i : Nat),
      Relaying o s (if c then (s.niSend t g).dropRelay o i else s.niSend t g) := fun c _ t g i =>
    .ite ((relaying_niSend s o t g).trans (relaying_dropRelay _ o i)) (relaying_niSend s o t g)
  unfold State.relayIn at h
  dsimp only at h
  split at h
  · cases h
  · split at h
    · cases h; exact .ite (relaying_toPort ..) (.refl o s)
    · next r _ =>
      split at h
      · cases h
      · split at h
        · cases h; exact .ite ((relaying_toPort ..).trans (relaying_dropRelay ..)) (relaying_toPort ..)
        · split at h
          · split at h
            · cases h; exact .refl o s
            · split at h
              · cases h; exact (relaying_niSend ..).trans (relaying_setRelay ..)
              · cases h; exact (relaying_niSend ..).trans (relaying_dropRelay ..)
          · cases h; exact drop ..
          · cases h; exact drop ..

theorem relaying_drainEntry (o : Nat) (l : List Grain) (s : State) : Relaying o s (s.drainEntry o l).1 := by
  induction l generalizing s with
  | nil => exact .refl o s
  | cons g l ih =>
    unfold State.drainEntry
    split
    · next h => exact (relaying_relayIn h).trans (ih _)
    · exact ih s

theorem relaying_drainBuf (o : Nat) (l : List (List Grain)) (s : State) : Relaying o s (s.drainBuf o l) := by
  induction l generalizing s with
  | nil => exact .refl o s
  | cons e l ih =>
    refine .trans ?_ (ih _)
    exact (relaying_drainEntry o e s).trans (.ite (relaying_onOpt _ o fun _ => ⟨rfl, rfl, rfl⟩) (relaying_onOpt _ o fun _ => ⟨rfl, rfl, rfl⟩))

theorem relaying_drainRx (s : State) (o : Nat) : Relaying o s (s.drainRx o) :=
  (relaying_onOpt s o (f := fun x => { x with rxbuf := [] }) fun _ => ⟨rfl, rfl, rfl⟩).trans (relaying_drainBuf o _ _)

theorem relaying_returnErr (s : State) (o : Nat) (t : Site) (g : Grain) (e : Nat) : Relaying o s (s.returnErr t g e) := by
  unfold State.returnErr
  exact .ite (.refl o s) (relaying_niSend ..)

/-- Grains of tiles that go to the link. -/
theorem relaying_relayOut (s : State) (o : Nat) (g : Grain) : Relaying o s (s.relayOut o g) := by
  have answer : ∀ (u : State) (g : Grain), Relaying o s u → Relaying o s (u.toPort o g) := fun u g hu => hu.trans (relaying_toPort u o g)
  unfold State.relayOut
  dsimp only
  split
  · unfold State.relayAnswer
    split
    · exact .refl o s
    · dsimp only
      split
      · exact answer _ _ (relaying_setRelay ..)
      · exact answer _ _ (relaying_dropRelay ..)
      · split
        · split
          · exact answer _ _ (relaying_dropRelay ..)
          · exact (relaying_setRelay ..).trans (relaying_niSend ..)
        · exact answer _ _ (relaying_dropRelay ..)
  · split
    · exact .refl o s
    · exact .ite ((relaying_toPort ..).trans (relaying_dropRelay ..)) (relaying_toPort ..)
  · split
    · exact .ite (relaying_returnErr ..) (.refl o s)
    · exact .ite ((relaying_toPort ..).trans (relaying_dropRelay ..)) (relaying_toPort ..)

theorem relaying_relayAll (s : State) (o : Nat) : Relaying o s (s.relayAll o) :=
  (relaying_onNi s o _ _).trans (relaying_foldl (fun u g => relaying_relayOut u o g) _ _)

theorem State.cascToPort_sreg (s : State) (o : Nat) : (s.cascToPort o).sreg = s.sreg := by
  unfold State.cascToPort
  dsimp only
  split <;> split <;> rfl

theorem State.portUp_of_sreg (h : s'.sreg = s.sreg) (o : Nat) : s'.portUp o = s.portUp o := by
  have hr : ∀ a, s'.reg a = s.reg a := fun a => by rw [State.reg, h, State.reg]
  rw [State.portUp, State.fld, hr, State.portUp, State.fld]

theorem rxKept_takeCtrl (s : State) (o : Nat) (g : CtrlGrain) : RxKept o s (s.takeCtrl o g) := by
  unfold State.takeCtrl
  split
  · exact (relaying_onOpt s o (f := fun x => { x with ctrlIn := x.ctrlIn ++ [g] }) fun _ => ⟨rfl, rfl, rfl⟩).toRxKept
  · exact (relaying_onOpt s o (f := fun x => { x with ctrlIn := x.ctrlIn ++ [g] }) fun _ => ⟨rfl, rfl, rfl⟩).toRxKept
  · exact ⟨fun hc => hc.bump _ _ _ _, fun _ => ⟨rfl, rfl, rfl⟩⟩
  · exact ⟨fun hc => { hc with }, fun _ => ⟨rfl, rfl, rfl⟩⟩

end

section
variable {s : State} {o : Nat} (ho : o < Config.optPorts) (hp : s.portLive o = true)
include ho hp

theorem exec_facetFrameSend_idle (h : s.frozen = true ∨ s.shutDown = true) : exec (.facetFrameSend o) s = .next (s.onOpt o idleSlot) := by
  have hi : (s.frozen || s.shutDown) = true := by simpa using h
  refine (onUnit_of (decide_eq_true ho)).trans ((when_of hp).trans ?_)
  simp only [hi, if_true]
  rfl

theorem exec_facetFrameSend_runs (h1 : s.frozen = false) (h2 : s.shutDown = false) : exec (.facetFrameSend o) s =
    .next ((((s.relayAll o).drainRx o).cascToPort o).onOpt o (fun x => x.slot false (s.portUp o))) := by
  have hup : (((s.relayAll o).drainRx o).cascToPort o).portUp o = s.portUp o :=
    State.portUp_of_sreg ((State.cascToPort_sreg _ o).trans ((relaying_relayAll s o).trans (relaying_drainRx _ o)).sreg) o
  refine (onUnit_of (decide_eq_true ho)).trans ((when_of hp).trans ?_)
  simp only [h1, h2, Bool.or_self, Bool.false_eq_true, if_false, hup]

end

section
variable {s : State} {o : Nat} {fr : FacetFrame}

/-- A port that takes the frame it waits for: it discards no more, and the credit that the frame returns is its own. -/
def OptPort.resumed (x : OptPort) (n : Nat) : OptPort := { x with discarding := false, fails := 0, credit := min 230 (x.credit + n) }

theorem goodFrame_other (h : fr.fseq ≠ (s.opt o).rxSeq) : s.goodFrame o fr = s := if_pos h

/-- A frame that takes a number moves the receiver on by one. -/
theorem goodFrame_numbered (hc : s.Canonical) (h : fr.fseq = (s.opt o).rxSeq) (ht : fr.ftype = .data ∨ fr.ftype = .ctrl) :
    ((s.goodFrame o fr).opt o).rxSeq = ((s.opt o).rxSeq + 1) % 1024 ∧ ((s.goodFrame o fr).opt o).discarding = false ∧
      ((s.goodFrame o fr).opt o).fails = 0 := by
  have h1 := hc.onOpt o (fun x => x.resumed fr.cret)
  have key : ∀ (g : OptPort → OptPort) (v : State), (∀ x, (g x).rxSeq = (x.rxSeq + 1) % 1024 ∧ (g x).discarding = x.discarding ∧
      (g x).fails = x.fails) → RxKept o ((s.onOpt o (fun x => x.resumed fr.cret)).onOpt o g) v →
      (v.opt o).rxSeq = ((s.opt o).rxSeq + 1) % 1024 ∧ (v.opt o).discarding = false ∧ (v.opt o).fails = 0 := by
    intro g v hg hv
    obtain ⟨v1, v2, v3⟩ := hv.rx (h1.onOpt o g)
    rw [v1, v2, v3, State.onOpt_opt_same h1, State.onOpt_opt_same hc]
    exact hg _
  have hne : ¬ fr.fseq ≠ (s.opt o).rxSeq := fun e => e h
  unfold State.goodFrame
  rw [if_neg hne]
  rcases ht with ht | ht <;> rw [ht] <;> dsimp only
  · exact key (fun x => { x with rxSeq := (x.rxSeq + 1) % 1024, rxbuf := x.rxbuf ++ [fr.slots] }) _ (fun _ => ⟨rfl, rfl, rfl⟩)
      (relaying_drainRx _ o).toRxKept
  · exact key (fun x => { x with rxSeq := (x.rxSeq + 1) % 1024, freed := x.freed + 1 }) _ (fun _ => ⟨rfl, rfl, rfl⟩)
      (List.foldlRecOn (motive := fun u : State => RxKept o _ u) _ _ (.refl o _) (fun u hu g _ => hu.trans (rxKept_takeCtrl u o g)))

theorem goodFrame_idle (h : fr.fseq = (s.opt o).rxSeq) (ht : fr.ftype = .idle) :
    s.goodFrame o fr = s.onOpt o (fun x => x.resumed fr.cret) := by
  have hne : ¬ fr.fseq ≠ (s.opt o).rxSeq := fun e => e h
  unfold State.goodFrame
  rw [if_neg hne, ht]
  rfl

/-- A frame in error: it is counted, and the first missing frame is asked for, once. -/
theorem badFrame_effect (hc : s.Canonical) :
    let s' := s.badFrame o fr
    s'.fld (rFacetErr (optFacet o)) 63 48 = min (2 ^ 16 - 1) (s.fld (rFacetErr (optFacet o)) 63 48 + 1) ∧
      (s'.opt o).rxSeq = (s.opt o).rxSeq ∧ (s'.opt o).rxbuf = (s.opt o).rxbuf ∧
      ((s.opt o).discarding = true → fr.fseq ≠ (s.opt o).rxSeq → s'.opt o = s.opt o) ∧
      ((s.opt o).discarding = false ∨ fr.fseq = (s.opt o).rxSeq → (s'.opt o).discarding = true ∧
        (s'.opt o).ctrl = (s.opt o).ctrl ++ [{ pos := s.myPos, beat := 0, body := .nak (s.opt o).rxSeq }]) := by
  have hb := hc.bump (rFacetErr (optFacet o)) 63 48 1
  have hcount : (s.bump (rFacetErr (optFacet o)) 63 48 1).fld (rFacetErr (optFacet o)) 63 48 =
      min (2 ^ 16 - 1) (s.fld (rFacetErr (optFacet o)) 63 48 + 1) :=
    State.setFld_fld_of_lt hc (by decide) (by decide) (by omega)
  dsimp only
  unfold State.badFrame
  by_cases hq : ((s.opt o).discarding && !decide (fr.fseq = (s.opt o).rxSeq)) = true
  · simp only [hq, if_true]
    obtain ⟨hd, hn⟩ : (s.opt o).discarding = true ∧ fr.fseq ≠ (s.opt o).rxSeq := by simpa using hq
    exact ⟨hcount, rfl, rfl, fun _ _ => rfl, fun h => (h.elim (fun h => absurd (hd.symm.trans h) (by decide)) (fun h => absurd h hn))⟩
  · simp only [hq, Bool.false_eq_true, if_false, State.onOpt_opt_same hb]
    exact ⟨hcount, rfl, rfl, fun hd hn => absurd (by simp [hd, hn]) hq, fun _ => ⟨trivial, rfl⟩⟩

variable (ho : o < Config.optPorts) (hp : s.portLive o = true) (hf : s.frozen = false)
include ho hp hf

theorem exec_facetFrameReceive_bad {errs : Option Nat} (he : errs = none ∨ (∃ n, errs = some n ∧ 15 < n) ∨ fr.ftype = .reserved) :
    exec (.facetFrameReceive o fr errs) s = .next (s.badFrame o fr) := by
  refine (onUnit_of (decide_eq_true ho)).trans ?_
  simp only [hf, Bool.false_eq_true, if_false]
  refine (when_of hp).trans ?_
  cases errs with
  | none => rfl
  | some n =>
    have hbad : (decide (15 < n) || decide (fr.ftype = .reserved)) = true := by simpa using he
    simp only [hbad, if_true]

theorem exec_facetFrameReceive_good {n : Nat} (hn : n ≤ 15) (ht : fr.ftype ≠ .reserved) :
    exec (.facetFrameReceive o fr (some n)) s = .next ((s.bump (rFacetErr (optFacet o)) 31 0 n).goodFrame o fr) := by
  have hgood : (decide (15 < n) || decide (fr.ftype = .reserved)) = false := by simp [Nat.not_lt.2 hn, ht]
  refine (onUnit_of (decide_eq_true ho)).trans ?_
  simp only [hf, Bool.false_eq_true, if_false]
  refine (when_of hp).trans ?_
  simp only [hgood, Bool.false_eq_true, if_false]

end

/-- Settles O47: a slot sends IDLE, a frame again, or one new frame; a receiver moves on by the frame that it waits for. -/
theorem facetFrames : Obligations.FacetFrames := by
  intro s o fr hc ho hp
  refine ⟨fun h => ⟨_, idleFrame (s.opt o), exec_facetFrameSend_idle ho hp h, ?_⟩, exec_facetFrameSend_runs ho hp, fun x up hx => ?_,
    fun x up f rest hx => ?_, fun hf => ⟨fun errs he => ⟨_, exec_facetFrameReceive_bad ho hp hf he, badFrame_effect hc⟩,
      fun n hn ht => ⟨fun hq => ?_, fun hq => ⟨_, exec_facetFrameReceive_good ho hp hf hn ht, ?_⟩⟩⟩⟩
  · rw [State.onOpt_opt_same hc]
    exact ⟨rfl, rfl, rfl, rfl, rfl, rfl, rfl⟩
  · obtain h | ⟨f, h⟩ := x.slot_fresh up hx
    · rw [h]
      exact ⟨idleFrame x, rfl, rfl, rfl, Nat.zero_le _, Nat.zero_le _, rfl, fun _ => ⟨rfl, rfl⟩,
        fun h => by simp [idleFrame] at h, fun h => by simp [idleFrame] at h, by simp [idleFrame]⟩
    · obtain ⟨z, paid, hy, hseq, hcred, hfreed, hpaid⟩ := h.port
      rw [hy]
      have hty := h.type
      refine ⟨f, rfl, h.seq, h.cret, h.slots, h.ctrl, hfreed, fun hi => ?_, fun _ => ⟨?_, z.sendNew_last f paid,
        z.sendNew_replay_le f paid, fun hu => ⟨h.room hu, ?_⟩⟩, fun hd => ?_, fun hr => ?_⟩
      · simp [hi] at hty
      · rw [← hseq]; rfl
      · rw [hpaid hu, ← hcred]; rfl
      · simp only [hd, true_and, reduceCtorEq, or_false] at hty; exact hty
      · simp [hr] at hty
  · rw [x.slot_resend f up hx]
    exact ⟨rfl, rfl⟩
  · rw [exec_facetFrameReceive_good ho hp hf hn ht, goodFrame_other (s := s.bump (rFacetErr (optFacet o)) 31 0 n) hq]
  · have hb := hc.bump (rFacetErr (optFacet o)) 31 0 n
    cases hk : fr.ftype with
    | data =>
      obtain ⟨h1, h2, h3⟩ := goodFrame_numbered hb hq (.inl hk)
      exact ⟨h2, h3, fun _ => h1, fun h => by cases h⟩
    | ctrl =>
      obtain ⟨h1, h2, h3⟩ := goodFrame_numbered hb hq (.inr hk)
      exact ⟨h2, h3, fun _ => h1, fun h => by cases h⟩
    | idle =>
      rw [goodFrame_idle (s := s.bump (rFacetErr (optFacet o)) 31 0 n) hq hk, State.onOpt_opt_same hb]
      exact ⟨rfl, rfl, fun h => (h.elim (fun h => by cases h) (fun h => by cases h)), fun _ => rfl⟩
    | reserved => exact absurd hk ht

end Sys2Proof.Machine
end

section
/-!
PROOFS. Link-up, attestation, failed ports and relayed opens (R311, R315 to R317, R321 to R323).
-/
namespace Sys2Proof.Machine

/-! ### Ports and lanes (R308) -/

theorem optPortOf_half {f : Nat} (hf : f < 8) (l : Nat) : optPortOf f l / 2 = 4 * l + f % 4 ∧ optPortOf f l % 2 = f / 4 := by
  unfold optPortOf
  omega

theorem optFacet_optPortOf {f : Nat} (hf : f < 8) (l : Nat) : optFacet (optPortOf f l) = f := by
  obtain ⟨h1, h2⟩ := optPortOf_half hf l
  rw [optFacet, h1, h2]
  omega

theorem optLane_optPortOf {f : Nat} (hf : f < 8) (l : Nat) : optLane (optPortOf f l) = l := by
  obtain ⟨h1, -⟩ := optPortOf_half hf l
  rw [optLane, h1]
  omega

section
variable {s : State} {f : Nat}

theorem State.Canonical.onFacet (hc : s.Canonical) (f : Nat) (g : FacetRt → FacetRt) : (s.onFacet f g).Canonical :=
  (State.onFacet_keeps hc.keeps).canon

theorem State.Canonical.freshPorts (hc : s.Canonical) (f : Nat) : (s.freshPorts f).Canonical := (State.freshPorts_keeps hc.keeps).canon

theorem setFacet_state (hc : s.Canonical) (f : Nat) {n : Nat} (hn : n < 16) : (s.setFacet f n).facetState f = n :=
  State.setFld_fld_of_lt hc (by decide) (by decide) hn

theorem setFacet_facet (s : State) (f n k : Nat) : (s.setFacet f n).facet k = s.facet k := rfl
theorem setFacet_opt (s : State) (f n k : Nat) : (s.setFacet f n).opt k = s.opt k := rfl

theorem setFacet_field (hc : s.Canonical) (f n : Nat) {hi lo : Nat} (h : hi < 60) :
    (s.setFacet f n).fld (rFacetStat f) hi lo = s.fld (rFacetStat f) hi lo := State.setFld_fld_field hc n (.inl h) (by decide)

/-- A reset of ports leaves the rest of the state. -/
theorem freshPorts_rest (s : State) (f : Nat) : s.freshPorts f = { s with optPorts := (s.freshPorts f).optPorts } :=
  List.foldlRecOn (motive := fun u : State => u = { s with optPorts := u.optPorts }) _ _ rfl (fun u hu l _ => by rw [hu]; rfl)

theorem freshPorts_facet (s : State) (f k : Nat) : (s.freshPorts f).facet k = s.facet k := by
  rw [State.facet, freshPorts_rest, State.facet]

theorem freshPorts_fld (s : State) (f a hi lo : Nat) : (s.freshPorts f).fld a hi lo = s.fld a hi lo := by
  rw [State.fld, State.reg, freshPorts_rest, State.fld, State.reg]

/-- A fold that resets ports leaves reset what it names. -/
theorem foldl_resets (hc : s.Canonical) {p : Nat} {L : List Nat} (h : p ∈ L.map (optPortOf f) ∨ s.opt p = OptPort.reset) :
    (L.foldl (fun s l => s.onOpt (optPortOf f l) (fun _ => OptPort.reset)) s).opt p = OptPort.reset := by
  induction L generalizing s with
  | nil => exact h.resolve_left List.not_mem_nil
  | cons l L ih =>
    refine ih (hc.onOpt _ _) ?_
    by_cases hp : p = optPortOf f l
    · right
      rw [hp, State.onOpt_opt_same hc]
    · rw [State.onOpt_opt_other hp]
      refine h.imp_left (fun hm => ?_)
      exact (List.mem_cons.1 hm).resolve_left hp

theorem freshPorts_opt (hc : s.Canonical) {l : Nat} (hl : l < 14) : (s.freshPorts f).opt (optPortOf f l) = OptPort.reset :=
  foldl_resets hc (.inl (List.mem_map_of_mem (List.mem_range.2 hl)))

/-! ### FACET_CFG (R315, R338) -/

theorem exec_facetCfgWrite (hf : f < 8) (v : Dword) : exec (.facetCfgWrite f v) s = .next (s.writeFacetCfg f v) :=
  onUnit_of (decide_eq_true hf)

theorem facetCfg_enabled (hc : s.Canonical) (v : Dword) : (s.setReg (rFacetCfg f) (v &&& 0xFFFF)).fld (rFacetCfg f) 0 0 =
    (v.getLsbD 0).toNat := by
  rw [State.setReg_fld_same hc, Dword.field_bit]
  simp

/-- The state in which link-up begins, before its registers say so. -/
def State.facetCleared (s : State) (f : Nat) : State :=
  (((s.setFld (rFacetStat f) 47 34 0).setFld (rFacetStat f) 33 20 0).onFacet f (fun _ => FacetRt.reset)).freshPorts f

theorem writeFacetCfg_starts (hc : s.Canonical) {v : Dword} (h0 : s.fld (rFacetCfg f) 0 0 = 0) (hv : v.getLsbD 0 = true) :
    s.writeFacetCfg f v = ((s.setReg (rFacetCfg f) (v &&& 0xFFFF)).facetCleared f).setFacet f fsTraining := by
  have hb : (v.getLsbD 0).toNat = 1 := by rw [hv]; rfl
  simp only [State.writeFacetCfg, facetCfg_enabled hc, hb, h0, decide_true, Bool.and_self, if_true]
  rfl

theorem facetCleared_frame (hc : s.Canonical) : (s.facetCleared f).Canonical ∧ (s.facetCleared f).facet f = FacetRt.reset ∧
    (s.facetCleared f).fld (rFacetStat f) 47 34 = 0 ∧ ∀ l, l < 14 → (s.facetCleared f).opt (optPortOf f l) = OptPort.reset := by
  have h1 := hc.setFld (rFacetStat f) 47 34 0
  have h2 := h1.setFld (rFacetStat f) 33 20 0
  have h3 := h2.onFacet f (fun _ => FacetRt.reset)
  refine ⟨h3.freshPorts f, ?_, ?_, fun l hl => freshPorts_opt h3 hl⟩
  · rw [State.facetCleared, freshPorts_facet, State.onFacet_facet_same h2]
  · rw [State.facetCleared, freshPorts_fld]
    exact (State.setFld_fld_field h1 0 (.inr (by decide)) (by decide)).trans (State.setFld_fld_of_lt hc (by decide) (by decide) (by decide))

/-- The ports of a facet that is switched off fail before they are reset. -/
def State.facetDown (s : State) (f : Nat) : State :=
  (((((List.range 14).map (fun l => optPortOf f l)).filter (fun o => s.portUp o)).foldl (fun s o => s.failPort o) s).onFacet f
    (fun _ => FacetRt.reset)).freshPorts f

theorem writeFacetCfg_stops (hc : s.Canonical) {v : Dword} (h1 : s.fld (rFacetCfg f) 0 0 = 1) (hv : v.getLsbD 0 = false) :
    s.writeFacetCfg f v = ((s.setReg (rFacetCfg f) (v &&& 0xFFFF)).facetDown f).setFacet f 0 := by
  have hb : (v.getLsbD 0).toNat = 0 := by rw [hv]; rfl
  simp only [State.writeFacetCfg, facetCfg_enabled hc, hb, h1]
  rfl

theorem facetDown_frame (hc : s.Canonical) : (s.facetDown f).Canonical ∧ (s.facetDown f).facet f = FacetRt.reset := by
  have h1 : ((((List.range 14).map (fun l => optPortOf f l)).filter (fun o => s.portUp o)).foldl (fun s o => s.failPort o) s).Canonical :=
    foldl_canonical (fun u o hu => (State.failPort_keeps hu.keeps).canon) hc _
  refine ⟨(h1.onFacet f _).freshPorts f, ?_⟩
  rw [State.facetDown, freshPorts_facet, State.onFacet_facet_same h1]

theorem writeFacetCfg_same (hc : s.Canonical) {v : Dword} (h : s.fld (rFacetCfg f) 0 0 = 1 ↔ v.getLsbD 0 = true) :
    s.writeFacetCfg f v = s.setReg (rFacetCfg f) (v &&& 0xFFFF) := by
  have hlt := s.fld_lt (rFacetCfg f) 0 0
  have hcase : s.fld (rFacetCfg f) 0 0 = (v.getLsbD 0).toNat := by
    cases hv : v.getLsbD 0
    · simp only [hv, Bool.false_eq_true, iff_false] at h
      simp only [Bool.toNat_false]
      omega
    · exact h.2 hv
  simp only [State.writeFacetCfg, facetCfg_enabled hc, hcase]
  cases v.getLsbD 0 <;> rfl

/-! ### Joined lanes (R315) -/

/-- A facet whose lanes have joined attests over the lowest of them. -/
theorem attestPort_joined {j : BitVec 14} (h : (s.facet f).joined = j) (h0 : j ≠ 0) :
    ∃ l, l < 14 ∧ s.attestPort f = some (optPortOf f l) := by
  obtain ⟨i, hi, hj⟩ : ∃ i, i < 14 ∧ j.getLsbD i = true := by
    refine Classical.byContradiction fun hn => ?_
    refine h0 (BitVec.eq_of_getLsbD_eq fun i hi => ?_)
    rw [show (0 : BitVec 14).getLsbD i = false from BitVec.getLsbD_zero, Bool.eq_false_iff]
    exact fun hj => hn ⟨i, hi, hj⟩
  obtain ⟨l, hl⟩ := Option.isSome_iff_exists.1 ((List.find?_isSome (p := fun l => j.getLsbD l)).2 ⟨i, List.mem_range.2 hi, hj⟩)
  exact ⟨l, List.mem_range.1 (List.mem_of_find?_eq_some hl), by rw [State.attestPort, h, hl]; rfl⟩

/-- What a facet with joined lanes sends first: its nonce and its report, in 501 segments. -/
def attestSegments (pos : Nat) (msg : List Byte) : List CtrlGrain :=
  (List.range 501).map (fun i => { pos := pos, beat := 0, body := .attest i (takeAt msg (28 * i) 28) })

/-- The free bytes that serve as the facet's nonce. -/
def State.nonce (s : State) : List Byte := (List.range 4).flatMap (fun i => leBytes 8 (Config.free (s.freeCtr + i)).toNat)

/-- The facet's registers name its peer, and it attests with a nonce of its own. -/
def State.namesPeer (s : State) (f : Nat) (on : BitVec 14) (nonce : List Byte) (peerId peerFacet : Nat) : State :=
  (((s.setFld (rFacetStat f) 59 52 peerId).setFld (rFacetStat f) 51 48 peerFacet).onFacet f (fun _ =>
    { joined := on, nonce := nonce, segs := [] })).setFacet f fsAttest

/-- The facet with its lanes joined and its ports fresh. -/
def State.joinedTo (s : State) (f : Nat) (on : BitVec 14) (peerId peerFacet : Nat) : State :=
  (({ s with freeCtr := s.freeCtr + 4 } : State).freshPorts f).namesPeer f on s.nonce peerId peerFacet

/-- The facet once its segments wait at the port over which it attests. -/
def State.attesting (s : State) (f : Nat) (nonce : List Byte) : State :=
  match s.attestPort f with
  | some o => s.onOpt o (fun x => { x with
      ctrl := x.ctrl ++ attestSegments s.myPos (takeAt nonce 0 56 ++ takeAt s.boot.report 0 (499 * 28)) })
  | none => s

section
variable {joined miswired : BitVec 14} {id pf : Nat} (hf : f < 8) (hs : s.facetState f = fsTraining)
include hf hs

theorem exec_facetTrainingDone_fails (h : joined &&& s.laneEn f = 0) : exec (.facetTrainingDone f joined miswired id pf) s =
    .next ((s.setFld (rFacetStat f) 33 20 (miswired &&& s.laneEn f &&& ~~~ (joined &&& s.laneEn f)).toNat).setFacet f fsFailed) := by
  refine (onUnit_of (decide_eq_true hf)).trans ((when_of (decide_eq_true hs)).trans ?_)
  simp only [h, if_true]

theorem exec_facetTrainingDone_joins (h : joined &&& s.laneEn f ≠ 0) : exec (.facetTrainingDone f joined miswired id pf) s =
    .next (((s.setFld (rFacetStat f) 33 20 (miswired &&& s.laneEn f &&& ~~~ (joined &&& s.laneEn f)).toNat).joinedTo f
      (joined &&& s.laneEn f) id pf).attesting f s.nonce) := by
  refine (onUnit_of (decide_eq_true hf)).trans ((when_of (decide_eq_true hs)).trans ?_)
  simp only [h, if_false]
  rfl

end

theorem namesPeer_frame (hc : s.Canonical) (on : BitVec 14) (nonce : List Byte) (id pf : Nat) :
    let u := s.namesPeer f on nonce id pf
    u.Canonical ∧ u.facetState f = fsAttest ∧ u.facet f = { joined := on, nonce := nonce, segs := [] } ∧ u.freeCtr = s.freeCtr ∧
      u.fld (rFacetStat f) 33 20 = s.fld (rFacetStat f) 33 20 ∧ u.optPorts = s.optPorts := by
  have h1 := hc.setFld (rFacetStat f) 59 52 id
  have h2 := h1.setFld (rFacetStat f) 51 48 pf
  have h3 := h2.onFacet f (fun _ => { joined := on, nonce := nonce, segs := [] })
  refine ⟨h3.setFld _ _ _ _, setFacet_state h3 f (by decide), State.onFacet_facet_same h2 f (fun _ => { joined := on, nonce := nonce, segs := [] }), rfl, ?_, rfl⟩
  rw [State.namesPeer, setFacet_field h3 f fsAttest (by decide)]
  exact (State.setFld_fld_field h1 pf (.inl (by decide)) (by decide)).trans (State.setFld_fld_field hc id (.inl (by decide)) (by decide))

theorem joinedTo_frame (hc : s.Canonical) (on : BitVec 14) (id pf : Nat) :
    let u := s.joinedTo f on id pf
    u.Canonical ∧ u.facetState f = fsAttest ∧ u.facet f = { joined := on, nonce := s.nonce, segs := [] } ∧ u.freeCtr = s.freeCtr + 4 ∧
      u.fld (rFacetStat f) 33 20 = s.fld (rFacetStat f) 33 20 ∧ ∀ l, l < 14 → u.opt (optPortOf f l) = OptPort.reset := by
  have h0 : ({ s with freeCtr := s.freeCtr + 4 } : State).Canonical := { hc with }
  obtain ⟨h1, h2, h3, h4, h5, h6⟩ := namesPeer_frame (f := f) (h0.freshPorts f) on s.nonce id pf
  refine ⟨h1, h2, h3, h4.trans ?_, h5.trans (freshPorts_fld _ f _ _ _), fun l hl => ?_⟩
  · rw [freshPorts_rest]
  · rw [← freshPorts_opt h0 hl, State.joinedTo, State.opt, h6, State.opt]

/-- A facet that has joined has its 501 segments on their way. -/
theorem attesting_frame (hc : s.Canonical) {on : BitVec 14} (hj : (s.facet f).joined = on) (h0 : on ≠ 0)
    (hr : ∀ l, l < 14 → s.opt (optPortOf f l) = OptPort.reset) (nonce : List Byte) : ∃ p gs,
      s.attesting f nonce = s.onOpt p (fun x => { x with ctrl := x.ctrl ++ gs }) ∧ s.attestPort f = some p ∧
        ((s.attesting f nonce).opt p).ctrl.length = 501 := by
  obtain ⟨l, hl, hp⟩ := attestPort_joined hj h0
  have he : s.attesting f nonce = s.onOpt (optPortOf f l) (fun x => { x with
      ctrl := x.ctrl ++ attestSegments s.myPos (takeAt nonce 0 56 ++ takeAt s.boot.report 0 (499 * 28)) }) := by
    rw [State.attesting, hp]
  refine ⟨optPortOf f l, _, he, hp, ?_⟩
  rw [he, State.onOpt_opt_same hc, hr l hl]
  simp [attestSegments, OptPort.reset]

/-! ### Attestation (R316) -/

/-- The signature that answers a whole nonce. -/
def State.ownSignature (s : State) (f : Nat) : List CtrlGrain :=
  (List.range 166).map (fun i => { pos := s.myPos, beat := 0
                                   body := .attest (501 + i) (takeAt (Config.mldsaSign s.service (s.facetMessage f)) (28 * i) 28) })

/-- A segment of the peer's message stands in the facet. -/
def State.segmentIn (s : State) (f i : Nat) (bytes : List Byte) : State :=
  s.onFacet f (fun x => { x with segs := x.segs.filter (fun e => decide (e.1 ≠ i)) ++ [(i, bytes)] })

theorem exec_attest {g : CtrlGrain} {i p : Nat} {bytes : List Byte} {rest : List CtrlGrain} (hf : f < 8) (hz : s.frozen = false)
    (hb : g.body = .attest i bytes) (hs : s.facetState f = fsAttest) (ha : s.attestPort f = some p)
    (hp : Picks (fun x => decide (x = g)) (s.opt p).ctrlIn g rest) : exec (.attest f g) s = .next (
      let u := (s.onOpt p (fun x => { x with ctrlIn := rest })).segmentIn f i bytes
      if !(s.facet f).has 0 2 && (u.facet f).has 0 2 && !s.noIdent then
        u.onOpt p (fun x => { x with ctrl := x.ctrl ++ u.ownSignature f })
      else u) := by
  have hpc : s.portCtrl p g = some (s.onOpt p (fun x => { x with ctrlIn := rest })) := by rw [State.portCtrl, takeFirst_picks hp]; rfl
  have hns : ¬ s.facetState f ≠ fsAttest := fun h => h hs
  refine (onUnit_of (decide_eq_true hf)).trans ?_
  simp only [hz, Bool.false_eq_true, if_false, hb, ha, hns]
  refine (whenSome_of hpc).trans ?_
  exact (apply_ite Host.Outcome.next _ _ _).symm

/-- The lanes of a facet whose round trip is short enough (R312). -/
def State.goodLanes (s : State) (f : Nat) (rtt : List Nat) : List Nat :=
  (List.range 14).filter (fun l => (s.facet f).joined.getLsbD l && decide (rtt.getD l 0 ≤ 10220))

/-- A set of lanes as the register shows it. -/
def laneBits (lanes : List Nat) : Nat := lanes.foldl (fun (n : Nat) l => n + 2 ^ l) 0

/-- Lanes that are no longer joined leave the facet. -/
def State.attested (s : State) (f : Nat) (lanes : List Nat) : State :=
  s.onFacet f (fun x => { x with segs := [], joined := BitVec.ofNat 14 (laneBits lanes) })

/-- The facet comes up: every lane that is up has 230 entries of credit. -/
def State.comesUp (s : State) (f : Nat) (lanes rtt : List Nat) : State :=
  (((lanes.foldl (fun s l => s.onOpt (optPortOf f l) (fun x => { x with credit := 230 })) s).setFld (rFacetStat f) 47 34
    (laneBits lanes)).setFld (rFacetStat f) 19 0 (lanes.foldl (fun (n : Nat) l => max n (rtt.getD l 0)) 0)).setFacet f fsUp

section
variable {failStep : Option Nat} {rtt : List Nat} (hf : f < 8) (hs : s.facetState f = fsAttest)
include hf hs

theorem exec_facetAttestDone_denied {k : Nat} (hk : (s.attestStep f).orElse (fun _ => failStep) = some k)
    (hd : failStep.isSome = true ∨ s.noIdent = true ∨ (s.facet f).has 0 667 = true) : exec (.facetAttestDone f failStep rtt) s =
      .next ((s.setFacet f fsDenied).alarm 0x0009 wholeModule (f + k * 2 ^ 32)) := by
  refine (onUnit_of (decide_eq_true hf)).trans ((when_of ?_).trans ?_)
  · simpa [hs, or_assoc] using hd
  · simp only [hk]

theorem exec_facetAttestDone_good (hk : s.attestStep f = none) (hn : failStep = none) (hd : (s.facet f).has 0 667 = true) :
    exec (.facetAttestDone f failStep rtt) s = .next (
      if (s.goodLanes f rtt).isEmpty then (s.attested f (s.goodLanes f rtt)).setFacet f fsFailed
      else (s.attested f (s.goodLanes f rtt)).comesUp f (s.goodLanes f rtt) rtt) := by
  refine (onUnit_of (decide_eq_true hf)).trans ((when_of ?_).trans ?_)
  · simp [hs, hd]
  · simp only [hk, hn]
    rfl

end

theorem laneBits_range (p : Nat → Bool) (n : Nat) : laneBits ((List.range n).filter p) < 2 ^ n ∧
    ∀ i, (laneBits ((List.range n).filter p)).testBit i = (decide (i < n) && p i) := by
  induction n with
  | zero => exact ⟨Nat.one_pos, fun i => by simp [laneBits]⟩
  | succ n ih =>
    obtain ⟨hlt, hbit⟩ := ih
    rw [List.range_succ, List.filter_append]
    by_cases hp : p n = true
    · have hsum : laneBits ((List.range n).filter p ++ [n].filter p) = 2 ^ n + laneBits ((List.range n).filter p) := by
        simp [laneBits, hp, Nat.add_comm]
      rw [hsum]
      refine ⟨by rw [Nat.pow_succ]; omega, fun i => ?_⟩
      rcases Nat.lt_trichotomy i n with hi | rfl | hi
      · rw [Nat.testBit_two_pow_add_gt hi, hbit]
        simp [hi, Nat.lt_succ_of_lt hi]
      · rw [Nat.testBit_two_pow_add_eq, hbit]
        simp [hp]
      · rw [Nat.testBit_lt_two_pow (Nat.lt_of_lt_of_le (Nat.add_lt_add_left hlt _) (by
          rw [← Nat.two_mul, ← Nat.pow_succ']; exact Nat.pow_le_pow_right (by decide) hi))]
        simp [Nat.not_lt.2 (Nat.succ_le_of_lt hi)]
    · have hsum : laneBits ((List.range n).filter p ++ [n].filter p) = laneBits ((List.range n).filter p) := by simp [laneBits, hp]
      rw [hsum]
      refine ⟨by rw [Nat.pow_succ]; omega, fun i => ?_⟩
      rw [hbit]
      rcases Nat.lt_trichotomy i n with hi | rfl | hi
      · simp [hi, Nat.lt_succ_of_lt hi]
      · simp [hp]
      · simp [Nat.not_lt.2 (Nat.le_of_lt hi), Nat.not_lt.2 (Nat.succ_le_of_lt hi)]

/-- A fold that gives ports their credit. -/
theorem foldl_credit (hc : s.Canonical) {p : Nat} {L : List Nat} (h : p ∈ L.map (optPortOf f) ∨ (s.opt p).credit = 230) :
    ((L.foldl (fun s l => s.onOpt (optPortOf f l) (fun x => { x with credit := 230 })) s).opt p).credit = 230 := by
  induction L generalizing s with
  | nil => exact h.resolve_left List.not_mem_nil
  | cons l L ih =>
    refine ih (hc.onOpt _ _) ?_
    by_cases hp : p = optPortOf f l
    · right
      rw [hp, State.onOpt_opt_same hc]
    · rw [State.onOpt_opt_other hp]
      exact h.imp_left (fun hm => (List.mem_cons.1 hm).resolve_left hp)

theorem foldl_onOpt_rest {f : Nat} {g : OptPort → OptPort} (L : List Nat) (s : State) : ∃ o,
    L.foldl (fun s l => s.onOpt (optPortOf f l) g) s = { s with optPorts := o } :=
  List.foldlRecOn (motive := fun u : State => ∃ o, u = { s with optPorts := o }) _ _ ⟨_, rfl⟩
    (fun u hu l _ => by obtain ⟨o, rfl⟩ := hu; exact ⟨_, rfl⟩)

theorem comesUp_frame (hc : s.Canonical) (hf : f < 8) (p : Nat → Bool) (rtt : List Nat) :
    let u := s.comesUp f ((List.range 14).filter p) rtt
    u.facetState f = fsUp ∧ ∀ l, l < 14 → (u.portUp (optPortOf f l) = true ↔ p l = true) ∧
      (p l = true → (u.opt (optPortOf f l)).credit = 230) := by
  obtain ⟨hlt, hbit⟩ := laneBits_range p 14
  obtain ⟨ports, hports⟩ := foldl_onOpt_rest (f := f) (g := fun x => { x with credit := 230 }) ((List.range 14).filter p) s
  have h1 : (((List.range 14).filter p).foldl (fun s l => s.onOpt (optPortOf f l) (fun x => { x with credit := 230 })) s).Canonical :=
    foldl_canonical (fun u l hu => hu.onOpt _ _) hc _
  have h2 := h1.setFld (rFacetStat f) 47 34 (laneBits ((List.range 14).filter p))
  have h3 := h2.setFld (rFacetStat f) 19 0 (((List.range 14).filter p).foldl (fun (n : Nat) l => max n (rtt.getD l 0)) 0)
  have hstate : (s.comesUp f ((List.range 14).filter p) rtt).facetState f = fsUp := setFacet_state h3 f (by decide)
  have hfld : (s.comesUp f ((List.range 14).filter p) rtt).fld (rFacetStat f) 47 34 = laneBits ((List.range 14).filter p) :=
    (setFacet_field h3 f fsUp (by decide)).trans ((State.setFld_fld_field h2 _ (.inr (by decide)) (by decide)).trans
      (State.setFld_fld_of_lt h1 (by decide) (by decide) hlt))
  refine ⟨hstate, fun l hl => ⟨?_, fun hp => ?_⟩⟩
  · have hlane : ((s.comesUp f ((List.range 14).filter p) rtt).reg (rFacetStat f)).getLsbD (34 + l) = p l := by
      have hb := Dword.testBit_field ((s.comesUp f ((List.range 14).filter p) rtt).reg (rFacetStat f)) 47 34 l
      rw [← State.fld, hfld, hbit] at hb
      simpa [hl] using hb.symm
    have hst : (s.comesUp f ((List.range 14).filter p) rtt).fld (rFacetStat f) 63 60 = 3 := hstate
    rw [State.portUp, optFacet_optPortOf hf, optLane_optPortOf hf, hlane, hst]
    simp
  · exact foldl_credit hc (.inl (List.mem_map_of_mem (List.mem_filter.2 ⟨List.mem_range.2 hl, hp⟩)))

/-! ### Replay and failed ports (R311, R317) -/

/-- The sender goes back to the frame that a NAK names. -/
def State.sendsAgain (s : State) (o n : Nat) (rest : List CtrlGrain) : State :=
  (((s.onOpt o (fun x => { x with ctrlIn := rest })).bump (rFacetErr (optFacet o)) 47 32 1).bump (rFacetErr (optFacet o)) 63 48 1).onOpt o
    (fun x => { x with resend := x.replay.dropWhile (fun f => decide (f.fseq ≠ n)) })

theorem exec_nak {o n : Nat} {g : CtrlGrain} {rest : List CtrlGrain} (ho : o < Config.optPorts) (hz : s.frozen = false)
    (hb : g.body = .nak n) (hp : Picks (fun x => decide (x = g)) (s.opt o).ctrlIn g rest) :
    exec (.nak o g) s = .next (s.sendsAgain o n rest) := by
  have hpc : s.portCtrl o g = some (s.onOpt o (fun x => { x with ctrlIn := rest })) := by rw [State.portCtrl, takeFirst_picks hp]; rfl
  refine (onUnit_of (decide_eq_true ho)).trans ?_
  simp only [hz, Bool.false_eq_true, if_false, hb]
  exact whenSome_of hpc

theorem sendsAgain_opt (hc : s.Canonical) (o n : Nat) (rest : List CtrlGrain) : (s.sendsAgain o n rest).opt o = { s.opt o with
    ctrlIn := rest, resend := (s.opt o).replay.dropWhile (fun f => decide (f.fseq ≠ n)) } := by
  have h1 := hc.onOpt o (fun x => { x with ctrlIn := rest })
  have h2 := (h1.bump (rFacetErr (optFacet o)) 47 32 1).bump (rFacetErr (optFacet o)) 63 48 1
  have hopt : (((s.onOpt o (fun x => { x with ctrlIn := rest })).bump (rFacetErr (optFacet o)) 47 32 1).bump (rFacetErr (optFacet o))
      63 48 1).opt o = { s.opt o with ctrlIn := rest } :=
    State.onOpt_opt_same hc o (fun x => { x with ctrlIn := rest })
  rw [State.sendsAgain, State.onOpt_opt_same h2, hopt]

theorem exec_facetPortFail {o : Nat} (ho : o < Config.optPorts) (hz : s.frozen = false) (hu : s.portUp o = true) :
    exec (.facetPortFail o) s = .next (s.failPort o) := by
  refine (onUnit_of (decide_eq_true ho)).trans ?_
  simp only [hz, Bool.false_eq_true, if_false]
  exact when_of hu

/-! ### Opens across modules (R321 to R323) -/

section
variable {o p vx vy tag : Nat} (ho : o < Config.optPorts) (hz : s.frozen = false)
include ho hz

theorem exec_optRelayOpen_incoming {x : Grain × List (List Grain)} (hx : takeOpen (s.opt o).rxbuf = some x)
    (hb : x.1.body = .openReq p vx vy tag) : exec (.optRelayOpen o true) s =
      .next (((s.onOpt o (fun y => { y with rxbuf := x.2 })).openHere o x.1 (p % 64) vx vy).drainRx o) := by
  refine (onUnit_of (decide_eq_true ho)).trans ?_
  simp only [hz, Bool.false_eq_true, if_false, if_true]
  refine (whenSome_of hx).trans ?_
  simp only [hb]

theorem exec_optRelayOpen_outgoing {x : Grain} {l : List Grain} (hp : Picks (fun y => ofKind 6 y) (s.ni (optSite o)).inbox x l)
    (hb : x.body = .openReq p vx vy tag) : exec (.optRelayOpen o false) s =
      .next ((s.withInbox (optSite o) l).openThere o x p vx vy tag) := by
  refine (onUnit_of (decide_eq_true ho)).trans ?_
  simp only [hz, Bool.false_eq_true, if_false]
  refine (whenSome_of (inKind_ofKind hp)).trans ?_
  simp only [hb]

end

theorem State.phys_onOpt (s : State) (o : Nat) (k : OptPort → OptPort) (p vx vy : Nat) : (s.onOpt o k).phys p vx vy = s.phys p vx vy := by
  have hrow : ∀ p py, (s.onOpt o k).rowOf p py = s.rowOf p py :=
    State.rowOf_congr (fun _ => rfl) (fun _ => rfl) (fun _ => rfl) (fun _ => rfl)
  rw [State.phys, hrow]
  rfl


theorem openHere_fenced {o port vx vy : Nat} {g : Grain} (k : OptPort → OptPort) (h : s.fenceState g.sx.toNat ≠ 0) :
    (s.onOpt o k).openHere o g port vx vy = (s.onOpt o k).toPort o (linkErrTo g errFenced) := if_pos h

theorem openHere_noTile {o port vx vy : Nat} {g : Grain} (k : OptPort → OptPort) (h : s.fenceState g.sx.toNat = 0)
    (hp : s.phys g.sx.toNat vx vy = none) : (s.onOpt o k).openHere o g port vx vy =
      (s.onOpt o k).toPort o (linkGrain 7 (linkIdx g) g.sx.toNat 0 true (.openR (linkIdx g) (.refuse 4))) := by
  have h' : (s.onOpt o k).fenceState g.sx.toNat = 0 := h
  simp only [State.openHere, h', State.phys_onOpt, hp, ne_eq, not_true_eq_false, if_false]

theorem openThere_down {o port vx vy tag : Nat} {g : Grain} (h : s.portUp o = false) : s.openThere o g port vx vy tag =
    s.niSend (optSite o) (mkGrain (optSite o) (grainSrc g) 7 g.conn.toNat 0 true (.openR tag (.refuse 5))) := by
  simp only [State.openThere, h, Bool.not_false, if_true]

end

section
variable {s : State} {f : Nat} (hc : s.Canonical) (hf : f < 8)
include hc hf

/-- The end of training: no lane joined fails the facet, a joined lane leads to ATTEST. -/
theorem trainingDone_outcome (hs : s.facetState f = fsTraining) (joined miswired : BitVec 14) (id pf : Nat) :
    ∃ s', exec (.facetTrainingDone f joined miswired id pf) s = .next s' ∧
      s'.fld (rFacetStat f) 33 20 = (miswired &&& s.laneEn f &&& ~~~ (joined &&& s.laneEn f)).toNat ∧
      (joined &&& s.laneEn f = 0 → s'.facetState f = fsFailed) ∧
      (joined &&& s.laneEn f ≠ 0 → s'.facetState f = fsAttest ∧ (s'.facet f).joined = joined &&& s.laneEn f ∧
        (s'.facet f).segs = [] ∧ s'.freeCtr = s.freeCtr + 4 ∧ ∃ p, s'.attestPort f = some p ∧ (s'.opt p).ctrl.length = 501) := by
  have h1 := hc.setFld (rFacetStat f) 33 20 (miswired &&& s.laneEn f &&& ~~~ (joined &&& s.laneEn f)).toNat
  have hmis := State.setFld_fld_of_lt (a := rFacetStat f) hc (by decide : 33 < 64) (by decide : 20 ≤ 33)
    (BitVec.isLt (miswired &&& s.laneEn f &&& ~~~ (joined &&& s.laneEn f)))
  by_cases hon : joined &&& s.laneEn f = 0
  · exact ⟨_, exec_facetTrainingDone_fails hf hs hon, (setFacet_field h1 f fsFailed (by decide)).trans hmis,
      fun _ => setFacet_state h1 f (by decide), fun h => absurd hon h⟩
  · obtain ⟨k1, k2, k3, k4, k5, k6⟩ := joinedTo_frame (f := f) h1 (joined &&& s.laneEn f) id pf
    obtain ⟨p, gs, he, hp, hlen⟩ := attesting_frame k1 (by rw [k3]) hon k6 s.nonce
    have hex := exec_facetTrainingDone_joins (id := id) (pf := pf) (miswired := miswired) hf hs hon
    generalize (s.setFld (rFacetStat f) 33 20 (miswired &&& s.laneEn f &&& ~~~ (joined &&& s.laneEn f)).toNat).joinedTo f
      (joined &&& s.laneEn f) id pf = u at k1 k2 k3 k4 k5 k6 he hp hlen hex
    refine ⟨_, hex, ?_, fun h => absurd h hon, fun _ => ⟨?_, ?_, ?_, ?_, p, ?_, hlen⟩⟩
    · rw [he]; exact k5.trans hmis
    · rw [he]; exact k2
    · rw [he, State.onOpt_facet, k3]
    · rw [he, State.onOpt_facet, k3]
    · rw [he]; exact k4
    · rw [he]; exact hp

/-- A segment is kept by its number; a facet that has signed already, or has no identity, sends nothing. -/
theorem attest_outcome {i : Nat} {bytes : List Byte} {g : CtrlGrain} {rest : List CtrlGrain} (hz : s.frozen = false)
    (hb : g.body = .attest i bytes) (hs : s.facetState f = fsAttest) {p : Nat} (ha : s.attestPort f = some p)
    (hp : Picks (fun x => decide (x = g)) (s.opt p).ctrlIn g rest) :
    ∃ s', exec (.attest f g) s = .next s' ∧ (s'.opt p).ctrlIn = rest ∧
      (s'.facet f).segs = (s.facet f).segs.filter (fun e => decide (e.1 ≠ i)) ++ [(i, bytes)] ∧
      ((s.facet f).has 0 2 = true ∨ s.noIdent = true → (s'.opt p).ctrl = (s.opt p).ctrl) := by
  refine ⟨_, exec_attest hf hz hb hs ha hp, ?_⟩
  have h1 := hc.onOpt p (fun x => { x with ctrlIn := rest })
  have hfacet : ((s.onOpt p (fun x => { x with ctrlIn := rest })).segmentIn f i bytes).facet f = { s.facet f with
      segs := (s.facet f).segs.filter (fun e => decide (e.1 ≠ i)) ++ [(i, bytes)] } :=
    State.onFacet_facet_same h1 f (fun x => { x with segs := x.segs.filter (fun e => decide (e.1 ≠ i)) ++ [(i, bytes)] })
  have h2 : ((s.onOpt p (fun x => { x with ctrlIn := rest })).segmentIn f i bytes).Canonical := h1.onFacet f _
  have hopt : ((s.onOpt p (fun x => { x with ctrlIn := rest })).segmentIn f i bytes).opt p = { s.opt p with ctrlIn := rest } :=
    State.onOpt_opt_same hc p (fun x => { x with ctrlIn := rest })
  dsimp only
  split
  · next hsign =>
    rw [State.onOpt_opt_same h2, State.onOpt_facet, hfacet, hopt]
    refine ⟨rfl, rfl, fun h => ?_⟩
    rcases h with h | h <;> simp [h] at hsign
  · rw [hfacet, hopt]
    exact ⟨rfl, rfl, fun _ => rfl⟩

/-- After a good check the lanes with a good round trip come up with their credit; none of them fails the facet. -/
theorem attestDone_good_outcome {failStep : Option Nat} {rtt : List Nat} (hs : s.facetState f = fsAttest)
    (hk : s.attestStep f = none) (hn : failStep = none) (hd : (s.facet f).has 0 667 = true) :
    let good := fun l => (s.facet f).joined.getLsbD l = true ∧ rtt.getD l 0 ≤ 10220
    ∃ s', exec (.facetAttestDone f failStep rtt) s = .next s' ∧
      ((∀ l, l < 14 → ¬ good l) → s'.facetState f = fsFailed) ∧
      ((∃ l, l < 14 ∧ good l) → s'.facetState f = fsUp ∧
        ∀ l, l < 14 → (s'.portUp (optPortOf f l) = true ↔ good l) ∧ (good l → (s'.opt (optPortOf f l)).credit = 230)) := by
  refine ⟨_, exec_facetAttestDone_good hf hs hk hn hd, ?_⟩
  have h1 : (s.attested f (s.goodLanes f rtt)).Canonical := hc.onFacet f _
  have hmem : ∀ l, l ∈ s.goodLanes f rtt ↔ l < 14 ∧ (s.facet f).joined.getLsbD l = true ∧ rtt.getD l 0 ≤ 10220 := fun l => by
    simp [State.goodLanes]
  by_cases he : s.goodLanes f rtt = []
  · refine ⟨fun _ => ?_, fun ⟨l, hl, hg⟩ => ?_⟩
    · rw [if_pos (by rw [he]; rfl)]
      exact setFacet_state h1 f (by decide)
    · have := (hmem l).2 ⟨hl, hg⟩
      rw [he] at this
      exact absurd this List.not_mem_nil
  · obtain ⟨k1, k2⟩ := comesUp_frame h1 hf (fun l => (s.facet f).joined.getLsbD l && decide (rtt.getD l 0 ≤ 10220)) rtt
    refine ⟨fun hn => absurd (List.eq_nil_iff_forall_not_mem.2 fun l hm => hn l ((hmem l).1 hm).1 ((hmem l).1 hm).2) he, fun _ => ?_⟩
    rw [if_neg (by simpa using he)]
    simp only [Bool.and_eq_true, decide_eq_true_eq] at k2
    exact ⟨k1, k2⟩

end

/-- Settles O48: link-up and its ends by the state of the facet, opens by what the other side can offer. -/
theorem facetsComeUpAndFail : Obligations.FacetsComeUpAndFail := by
  intro s f o g rest hc hf ho
  refine ⟨fun v => ⟨_, exec_facetCfgWrite hf v, fun h0 hv => ?_, fun h1 hv => ?_, writeFacetCfg_same hc⟩,
    trainingDone_outcome hc hf, fun i bytes hz hb hs p ha hp => attest_outcome hc hf hz hb hs ha hp,
    fun hs failStep rtt => ⟨fun k hk hd => exec_facetAttestDone_denied hf hs (by rw [hk]; rfl) hd,
      fun k hk hn => ⟨_, exec_facetAttestDone_denied hf hs (by rw [hk]; exact hn) (.inl (by rw [hn]; rfl)), ?_⟩,
      attestDone_good_outcome hc hf hs⟩,
    fun n hz hb hp => ⟨_, exec_nak ho hz hb hp, ?_⟩, exec_facetPortFail ho,
    fun hz => ⟨fun x hx p vx vy tag hb => ⟨exec_optRelayOpen_incoming ho hz hx hb,
        openHere_fenced (s := s) (fun y => { y with rxbuf := x.2 }), openHere_noTile (s := s) (fun y => { y with rxbuf := x.2 })⟩,
      fun x l hp p vx vy tag hb => ⟨exec_optRelayOpen_outgoing ho hz hp hb, fun h =>
        openThere_down (s := s.withInbox (optSite o) l) h⟩⟩⟩
  · rw [writeFacetCfg_starts hc h0 hv]
    obtain ⟨h1, h2, h3, h4⟩ := facetCleared_frame (f := f) (hc.setReg (rFacetCfg f) (v &&& 0xFFFF))
    exact ⟨setFacet_state h1 f (by decide), (setFacet_facet ..).trans h2,
      (setFacet_field h1 f fsTraining (by decide)).trans h3, fun l hl => (setFacet_opt ..).trans (h4 l hl)⟩
  · rw [writeFacetCfg_stops hc h1 hv]
    obtain ⟨h2, h3⟩ := facetDown_frame (f := f) (hc.setReg (rFacetCfg f) (v &&& 0xFFFF))
    exact ⟨setFacet_state h2 f (by decide), (setFacet_facet ..).trans h3⟩
  · exact setFacet_state hc f (by decide)
  · rw [sendsAgain_opt hc]
    exact ⟨rfl, rfl, rfl, rfl⟩

end Sys2Proof.Machine
end

section
/-!
PROOFS. Steward registers under several writes: the fields that simp reads through a chain of writes, and what the replacement of plots
leaves alone.
-/
namespace Sys2Proof.Machine

section
variable (s : State) (a hi lo v f k : Nat)

@[simp] theorem State.setFld_fieldRt : (s.setFld a hi lo v).fieldRt f = s.fieldRt f := rfl
@[simp] theorem State.onField_canonical {s : State} (hc : s.Canonical) (g : FieldRt → FieldRt) : (s.onField f g).Canonical :=
  (State.onField_keeps hc.keeps).canon

theorem State.Canonical.onField {s : State} (hc : s.Canonical) (f : Nat) (g : FieldRt → FieldRt) : (s.onField f g).Canonical :=
  (State.onField_keeps hc.keeps).canon

theorem State.Canonical.onPlot {s : State} (hc : s.Canonical) (p : Nat) (g : PlotSt → PlotSt) : (s.onPlot p g).Canonical :=
  (State.onPlot_keeps hc.keeps).canon

end

/-- A saturating counter that is not wider than its field counts one on, up to its ceiling. -/
theorem State.bump_fld_same {s : State} (hc : s.Canonical) (a : Nat) {hi lo : Nat} (n : Nat) (h64 : hi < 64) (hl : lo ≤ hi) :
    (s.bump a hi lo n).fld a hi lo = min (2 ^ (hi + 1 - lo) - 1) (s.fld a hi lo + n) :=
  State.setFld_fld_of_lt hc h64 hl (by have := Nat.two_pow_pos (hi + 1 - lo); omega)

/-- A field within the field that was written reads its part of the value. -/
theorem State.setFld_fld_inside {s : State} (hc : s.Canonical) (a : Nat) {hi lo h l : Nat} (v : Nat) (h64 : hi < 64) (hl : lo ≤ l)
    (hh : h ≤ hi) (hle : lo ≤ hi) : (s.setFld a hi lo v).fld a h l = v / 2 ^ (l - lo) % 2 ^ (h + 1 - l) := by
  rw [State.setFld, State.setReg_fld_same hc, Dword.field_setField_inside _ _ h64 hl hh hle]

/-! ### Plots that are replaced (R276, R369) -/

/-- Only plots and their PLOT_PLACE registers differ. -/
structure Replaced (s s' : State) : Prop where
  rest  : s' = { s with sreg := s'.sreg, plots := s'.plots }
  reg   : ∀ a, a < rPlotRect 0 → s'.reg a = s.reg a
  canon : s.Canonical → s'.Canonical

section
variable {s s' s'' : State}

theorem Replaced.refl (s : State) : Replaced s s := ⟨rfl, fun _ _ => rfl, id⟩

theorem Replaced.trans (h : Replaced s s') (k : Replaced s' s'') : Replaced s s'' where
  rest := by rw [k.rest, h.rest]
  reg := fun a ha => (k.reg a ha).trans (h.reg a ha)
  canon := fun hc => k.canon (h.canon hc)

theorem Replaced.fld (h : Replaced s s') {a : Nat} (ha : a < rPlotRect 0) (hi lo : Nat) : s'.fld a hi lo = s.fld a hi lo := by
  rw [State.fld, h.reg a ha, State.fld]

theorem Replaced.fieldRt (h : Replaced s s') (f : Nat) : s'.fieldRt f = s.fieldRt f := by
  rw [h.rest]
  rfl

theorem replaced_onPlot (s : State) (p : Nat) (f : PlotSt → PlotSt) : Replaced s (s.onPlot p f) :=
  ⟨rfl, fun _ _ => rfl, fun hc => hc.onPlot p f⟩

theorem replaced_setPlace (s : State) (p n : Nat) : Replaced s (s.setPlace p n) :=
  ⟨rfl, fun a ha => State.setFld_reg_other (by rw [rPlotRect] at ha; rw [rPlotPlace]; omega) _ _ _, fun hc => hc.setFld _ _ _ _⟩

theorem replaced_startReplace (s : State) (p : Nat) : Replaced s (s.startReplace p) := by
  unfold State.startReplace
  split
  · exact replaced_setPlace s p 4
  · split
    · exact replaced_onPlot s p _
    · exact .refl s

theorem replaced_foldl {α : Type} {f : State → α → State} (hf : ∀ s x, Replaced s (f s x)) (l : List α) (s : State) :
    Replaced s (l.foldl f s) :=
  List.foldlRecOn (motive := Replaced s) l f (.refl s) fun _ hu x _ => hu.trans (hf _ x)

theorem replaced_restartPlacing (s : State) : Replaced s s.restartPlacing := replaced_foldl (fun s p => replaced_onPlot s p _) _ s

end

end Sys2Proof.Machine
end

section
/-!
PROOFS. The reference, field PLLs, clock multiplexers and the measuring counter (R381 to R391).
-/
namespace Sys2Proof.Machine

section
variable {s : State}

/-! ### CLKOUT -/

theorem showClkOut_canonical (hc : s.Canonical) : s.showClkOut.Canonical := (State.showClkOut_keeps hc.keeps).canon

theorem showClkOut_fld (s : State) {a : Nat} (ha : a ≠ rClkOut) (hi lo : Nat) : s.showClkOut.fld a hi lo = s.fld a hi lo :=
  State.setFld_fld_other ha _ _ _ _ _

theorem showClkOut_fieldRt (s : State) (f : Nat) : s.showClkOut.fieldRt f = s.fieldRt f := rfl

/-! ### The reference (R383, R387, R388) -/

theorem State.refSrc_congr {s' : State} (h : s'.fld rClkRef 5 4 = s.fld rClkRef 5 4) : s'.refSrc = s.refSrc := by
  rw [State.refSrc, h, State.refSrc]

theorem State.refSrc_rc (h : s.fld rClkRef 5 4 = 0) : s.refSrc = .rc := by
  simp only [State.refSrc, h]

/-- What a window leaves in CLK_REF and in the strap pins. -/
def State.windowSeen (s : State) (src : RefSrc) (count : Nat) : State :=
  let s := s.setFld rClkRef 47 32 (min 0xFFFF count)
  if src = .refclk then s.setFld rStrapPins 16 16 (if count = 0 then 0 else 1) else s

theorem windowSeen_frame (hc : s.Canonical) (src : RefSrc) {count : Nat} (hn : count < 2 ^ 16) :
    let u := s.windowSeen src count
    u.Canonical ∧ u.fld rClkRef 47 32 = count ∧ (∀ hi lo, hi < 32 → u.fld rClkRef hi lo = s.fld rClkRef hi lo) ∧ u.refmon = s.refmon := by
  have h1 := hc.setFld rClkRef 47 32 (min 0xFFFF count)
  have hcount : (s.setFld rClkRef 47 32 (min 0xFFFF count)).fld rClkRef 47 32 = count := by
    rw [State.setFld_fld_of_lt hc (by decide) (by decide) (by omega)]
    omega
  have hrest : ∀ hi lo, hi < 32 → (s.setFld rClkRef 47 32 (min 0xFFFF count)).fld rClkRef hi lo = s.fld rClkRef hi lo :=
    fun hi lo h => State.setFld_fld_field hc _ (.inl h) (by decide)
  dsimp only [State.windowSeen]
  split
  · have ho : ∀ v hi lo, ((s.setFld rClkRef 47 32 (min 0xFFFF count)).setFld rStrapPins 16 16 v).fld rClkRef hi lo =
        (s.setFld rClkRef 47 32 (min 0xFFFF count)).fld rClkRef hi lo := fun v hi lo =>
      State.setFld_fld_other (by decide) _ _ _ _ _
    exact ⟨h1.setFld _ _ _ _, (ho _ _ _).trans hcount, fun hi lo h => (ho _ _ _).trans (hrest hi lo h), rfl⟩
  · exact ⟨h1, hcount, hrest, rfl⟩

/-- The registers of a failover (R387). -/
def State.onRc (s : State) : State :=
  (((((s.setGclk 0).setFld rClkRef 0 0 1).setFld rClkRef 7 7 1).setFld rClkRef 6 6 0).setFld (rClkMuxStat 0) 1 0 0).bump
    (rClkMuxStat 0) 7 4 1

/-- The monitor once a source has failed: multiplexer 0 switches no more. -/
def State.offRef (s : State) (src : RefSrc) : State :=
  { s with refmon := { failed := some src, goodRuns := 0 }, muxes := mapDel s.muxes 0 }

theorem offRef_fld (s : State) (src : RefSrc) (a hi lo : Nat) : (s.offRef src).fld a hi lo = s.fld a hi lo := rfl

theorem failover_eq (s : State) : s.failover =
    (s.onRc.offRef s.refSrc).alarm 0x0002 wholeModule ((s.onRc.offRef s.refSrc).reg rClkRef).toNat := by
  simp only [State.failover, State.offRef, State.onRc]

theorem failover_fld (s : State) {a : Nat} (ha : a ∉ toldRegs) (hi lo : Nat) : s.failover.fld a hi lo = s.onRc.fld a hi lo := by
  rw [failover_eq, (told_alarm _ _ _ _).fld ha, offRef_fld]

theorem onRc_frame (hc : s.Canonical) :
    s.onRc.fld rClkRef 5 4 = 0 ∧ s.onRc.fld rClkRef 0 0 = 1 ∧ s.onRc.fld rClkRef 7 7 = 1 ∧ s.onRc.fld rClkRef 6 6 = 0 ∧
      s.onRc.fld (rClkMuxStat 0) 15 8 = 0 ∧ s.onRc.fld (rClkMuxStat 0) 7 4 = min 15 (s.fld (rClkMuxStat 0) 7 4 + 1) := by
  have hne : rClkRef ≠ rClkMuxStat 0 := by decide
  unfold State.onRc State.setGclk State.bump
  grind [State.setFld_canonical, State.setFld_fld_same, State.setFld_fld_field, State.setFld_fld_other]

theorem failover_frame (hc : s.Canonical) :
    s.failover.refSrc = .rc ∧ s.failover.fld rClkRef 0 0 = 1 ∧ s.failover.fld rClkRef 7 7 = 1 ∧
      s.failover.fld rClkRef 6 6 = 0 ∧ s.failover.fld (rClkMuxStat 0) 15 8 = 0 ∧
      s.failover.fld (rClkMuxStat 0) 7 4 = min 15 (s.fld (rClkMuxStat 0) 7 4 + 1) ∧
      s.failover.refmon = { failed := some s.refSrc, goodRuns := 0 } := by
  obtain ⟨h1, h2, h3, h4, h5, h6⟩ := onRc_frame hc
  have hr := fun hi lo => failover_fld s (a := rClkRef) (by decide) hi lo
  have hm := fun hi lo => failover_fld s (a := rClkMuxStat 0) (by decide) hi lo
  exact ⟨State.refSrc_rc ((hr _ _).trans h1), (hr _ _).trans h2, (hr _ _).trans h3, (hr _ _).trans h4, (hm _ _).trans h5,
    (hm _ _).trans h6, by rw [failover_eq]; rfl⟩

theorem exec_refMonitorWindow_selected {src : RefSrc} {count : Nat} {gap : Bool} (hs : src ≠ .rc) (h : s.refSrc = src) :
    exec (.refMonitorWindow src count gap) s = .next (if (decide (973 ≤ count) && decide (count ≤ 1075) && !gap) = true
      then (s.windowSeen src count).setFld rClkRef 6 6 1 else (s.windowSeen src count).failover) :=
  (if_neg hs).trans (if_pos h)

/-- The windows in a row that were good, this one among them (R388). -/
def State.goodAfter (s : State) (good : Bool) : Nat := if good then s.refmon.goodRuns + 1 else 0

/-- A window of the source that failed (R388). -/
def State.goodRuns (s : State) (n : Nat) : State :=
  ({ s with refmon := { s.refmon with goodRuns := n } } : State).setFld rClkRef 6 6 (if 1024 ≤ n then 1 else 0)

theorem exec_refMonitorWindow_failed {src : RefSrc} {count : Nat} {gap : Bool} (hs : src ≠ .rc) (h : s.refSrc ≠ src)
    (hf : s.refmon.failed = some src) : exec (.refMonitorWindow src count gap) s =
      .next ((s.windowSeen src count).goodRuns (s.goodAfter (decide (973 ≤ count) && decide (count ≤ 1075) && !gap))) :=
  (if_neg hs).trans ((if_neg h).trans (if_pos hf))

theorem goodRuns_usable (hc : s.Canonical) (n : Nat) : (s.goodRuns n).fld rClkRef 6 6 = 1 ↔ 1024 ≤ n := by
  have h0 : ({ s with refmon := { s.refmon with goodRuns := n } } : State).Canonical := { hc with }
  have h : (s.goodRuns n).fld rClkRef 6 6 = if 1024 ≤ n then 1 else 0 :=
    State.setFld_fld_of_lt h0 (by decide) (by decide) (by split <;> decide)
  rw [h]
  split
  · simpa
  · next h => simpa using h

/-! ### Field PLLs (R385, R386) -/

theorem fieldPresent_lt {f : Nat} (hf : Config.fieldPresent f = true) : f < 64 :=
  of_decide_eq_true (Bool.and_eq_true_iff.1 hf).1

theorem rPwrField_ne_rClkField {f : Nat} (hf : f < 64) (k : Nat) : rPwrField k ≠ rClkField f := by
  unfold rPwrField rClkField
  omega

section
variable {f : Nat} (hc : s.Canonical) (hf : Config.fieldPresent f = true)

theorem slew_moves {n : Nat} (h : s.fld (rClkField f) 4 3 ≠ n ∨ (s.fieldRt f).pllTo.isSome = true) :
    s.slew f n = (s.setFld (rClkField f) 5 5 1).onField f (fun r => { r with pllTo := some n }) := by
  refine if_neg fun hk => ?_
  rcases h with h | h <;> simp_all

include hc in
theorem slew_pllTo {n : Nat} (h : s.fld (rClkField f) 4 3 ≠ n ∨ (s.fieldRt f).pllTo.isSome = true) :
    ((s.slew f n).fieldRt f).pllTo = some n := by
  rw [slew_moves h, State.onField_fieldRt_same (hc.setFld _ _ _ _)]

include hc in
/-- A slew touches no bit of CLK_FIELD but 5. -/
theorem slew_field (n : Nat) {hi lo : Nat} (h : hi < 5 ∨ 5 < lo) : (s.slew f n).fld (rClkField f) hi lo = s.fld (rClkField f) hi lo := by
  unfold State.slew
  split
  · rfl
  · exact State.setFld_fld_field hc 1 h (by decide)

include hf

theorem exec_pllCoast (h6 : s.fld (rClkField f) 6 6 = 0) (h2 : s.fieldState f ≠ 2)
    (h : s.fld (rClkField f) 4 3 ≠ 0 ∨ (s.fieldRt f).pllTo.isSome = true) :
    exec (.pllCoast f) s = .next (((s.setFld (rClkField f) 7 7 1).setFld (rClkField f) 6 6 1).slew f 2) := by
  refine (onUnit_of hf).trans (when_of ?_)
  rcases h with h | h <;> simp [h6, h2, h]

theorem exec_pllRelock (h6 : s.fld (rClkField f) 6 6 = 1) (ht : (s.fieldRt f).stateTo = none) : exec (.pllRelock f) s =
    .next (if s.fieldState f = 0 then (s.setFld (rClkField f) 6 6 0).slew f 1 else s.setFld (rClkField f) 6 6 0) := by
  refine (onUnit_of hf).trans ((when_of (decide_eq_true h6)).trans ?_)
  have hs : (s.setFld (rClkField f) 6 6 0).fieldState f = s.fieldState f := State.setFld_fld_other (rPwrField_ne_rClkField (fieldPresent_lt hf) f) _ _ _ _ _
  simp only [hs, State.setFld_fieldRt, ht]
  by_cases h : s.fieldState f = 0 <;> simp [h]

omit hf in
/-- The operating point is reached. -/
def State.pllReached (s : State) (f n : Nat) : State :=
  ((s.setFld (rClkField f) 4 3 n).setFld (rClkField f) 5 5 0).onField f (fun r => { r with pllTo := none })

/-- The field state that waited for the operating point is reached with it. -/
def State.stateReached (s : State) (f k : Nat) : State := (s.onField f (fun r => { r with stateTo := none })).fieldReaches f k

/-- The state after the operating point: a field that waits for UMBRA is not there yet. -/
def State.goalReached (s : State) (f : Nat) : Option Nat → State
  | some k => if k = 2 then s else s.stateReached f k
  | none => s

theorem exec_pllSlewDone {n : Nat} (hn : (s.fieldRt f).pllTo = some n) :
    exec (.pllSlewDone f) s = .next ((s.pllReached f n).goalReached f (s.fieldRt f).stateTo).showClkOut := by
  refine (onUnit_of hf).trans ((whenSome_of hn).trans ?_)
  rfl

omit hf

include hc in
theorem pllReached_frame {n : Nat} (hn : n < 4) (hf : f < 64) :
    let u := s.pllReached f n
    u.Canonical ∧ u.fld (rClkField f) 4 3 = n ∧ u.fld (rClkField f) 5 5 = 0 ∧ u.fieldRt f = { s.fieldRt f with pllTo := none } ∧
      u.fieldState f = s.fieldState f := by
  have h1 := hc.setFld (rClkField f) 4 3 n
  have h2 := h1.setFld (rClkField f) 5 5 0
  refine ⟨h2.onField _ _, ?_, State.setFld_fld_of_lt h1 (by decide) (by decide) (by decide), State.onField_fieldRt_same h2 f _, ?_⟩
  · exact (State.setFld_fld_field h1 0 (.inl (by decide)) (by decide)).trans (State.setFld_fld_of_lt hc (by decide) (by decide) hn)
  · exact (State.setFld_fld_other (rPwrField_ne_rClkField hf f) _ _ _ _ _).trans (State.setFld_fld_other (rPwrField_ne_rClkField hf f) _ _ _ _ _)

/-- PWR_FIELD shows the state; new tables are due. -/
def State.shownAt (s : State) (f n : Nat) : State := { s.setFld (rPwrField f) 27 26 n with tablesDue := true }

omit hc in
theorem fieldReaches_lit (s : State) (f : Nat) : s.fieldReaches f 0 =
    (((s.shownAt f 0).fieldRt f).lost.foldl (fun s p => s.startReplace p) (s.shownAt f 0)).onField f
      (fun r => { r with lost := [], thermal := false, asked := none, hot := 0, cool := 0 }) := rfl

/-- A field outside LIT starts its counts again. -/
def State.countsAnew (s : State) (f : Nat) : State := s.onField f (fun r => { r with hot := 0, cool := 0 })

theorem fieldReaches_dark {k : Nat} (hk : k ≠ 0) : s.fieldReaches f k =
    if (((s.shownAt f k).countsAnew f).fieldRt f).untested = true then ((s.shownAt f k).countsAnew f).setFld rRasScan 63 63 1
    else (s.shownAt f k).countsAnew f := if_neg hk

/-- What a field that reaches a state keeps: its PLL's goal and the field state it waits for. -/
structure ReachedAt (f k : Nat) (s s' : State) : Prop where
  state   : k < 4 → s'.fieldState f = k
  fld     : ∀ a hi lo, a < rPlotRect 0 → a ≠ rPwrField f → a ≠ rRasScan → s'.fld a hi lo = s.fld a hi lo
  pllTo   : (s'.fieldRt f).pllTo = (s.fieldRt f).pllTo
  stateTo : (s'.fieldRt f).stateTo = (s.fieldRt f).stateTo
  due     : s'.tablesDue = true

include hc in
theorem fieldReaches_reachedAt (k : Nat) (hf : f < 64) : ReachedAt f k s (s.fieldReaches f k) := by
  have h1 : (s.shownAt f k).Canonical := { hc.setFld (rPwrField f) 27 26 k with }
  have hs : k < 4 → (s.shownAt f k).fieldState f = k := fun hk =>
    State.setFld_fld_of_lt hc (by decide) (by decide) hk
  have ho : ∀ a hi lo, a ≠ rPwrField f → (s.shownAt f k).fld a hi lo = s.fld a hi lo := fun a hi lo ha =>
    State.setFld_fld_other ha _ _ _ _ _
  by_cases h0 : k = 0
  · subst h0
    rw [fieldReaches_lit]
    have hr := replaced_foldl replaced_startReplace ((s.shownAt f 0).fieldRt f).lost (s.shownAt f 0)
    have hrt : (s.shownAt f 0).fieldRt f = s.fieldRt f := rfl
    have hdue : (s.shownAt f 0).tablesDue = true := rfl
    generalize ((s.shownAt f 0).fieldRt f).lost.foldl (fun s p => s.startReplace p) (s.shownAt f 0) = w at hr
    have hw : w.fieldRt f = s.fieldRt f := (hr.fieldRt f).trans hrt
    have hp : rPwrField f < rPlotRect 0 := by unfold rPwrField rPlotRect; omega
    refine ⟨fun hk => (hr.fld hp _ _).trans (hs hk), fun a hi lo ha hb _ => (hr.fld ha _ _).trans (ho a hi lo hb), ?_, ?_, ?_⟩
    · rw [State.onField_fieldRt_same (hr.canon h1), hw]
    · rw [State.onField_fieldRt_same (hr.canon h1), hw]
    · rw [hr.rest]
      exact hdue
  · have hw : ((s.shownAt f k).countsAnew f).fieldRt f = { s.fieldRt f with hot := 0, cool := 0 } := State.onField_fieldRt_same h1 f _
    rw [fieldReaches_dark h0]
    split
    · have hne : rPwrField f ≠ rRasScan := by unfold rPwrField rRasScan; omega
      exact ⟨fun hk => (State.setFld_fld_other hne _ _ _ _ _).trans (hs hk), fun a hi lo _ hb hc => (State.setFld_fld_other hc _ _ _ _ _).trans (ho a hi lo hb),
        by rw [State.setFld_fieldRt, hw], by rw [State.setFld_fieldRt, hw], rfl⟩
    · exact ⟨hs, fun a hi lo _ hb _ => ho a hi lo hb, by rw [hw], by rw [hw], rfl⟩

include hc in
theorem stateReached_reachedAt (k : Nat) (hf : f < 64) : ReachedAt f k (s.onField f (fun r => { r with stateTo := none }))
    (s.stateReached f k) := fieldReaches_reachedAt (hc.onField f _) k hf

end

/-! ### Multiplexers (R389, R390) -/

section
variable {m : Nat} (hm : muxNamed m = true)

theorem mux_regs_apart {m : Nat} (hm : muxNamed m = true) (k : Nat) : rClkMux m ≠ rClkMuxStat k ∧ rClkRef ≠ rClkMuxStat k ∧ rClkOut ≠ rClkMuxStat k := by
  simp only [muxNamed, Bool.or_eq_true, Bool.and_eq_true, decide_eq_true_eq] at hm
  unfold rClkMux rClkMuxStat rClkRef rClkOut
  omega

/-- A multiplexer that takes a source is busy with it. -/
def State.muxGoesTo (s : State) (m sel : Nat) : State :=
  { s.setFld (rClkMuxStat m) 0 0 1 with muxes := mapPut s.muxes m { target := sel } }

theorem writeMuxSel_busy {sel : Nat} (h : muxHere m = false ∨ s.fld (rClkMuxStat m) 0 0 = 1) : s.writeMuxSel m sel = s := by
  refine if_pos ?_
  rcases h with h | h <;> simp [h]

theorem writeMuxSel_free {sel : Nat} (h : muxHere m = true) (h0 : s.fld (rClkMuxStat m) 0 0 = 0) : s.writeMuxSel m sel =
    if muxTakes m sel = true then (s.setFld (rClkMux m) 7 0 sel).muxGoesTo m sel else s.setFld (rClkMux m) 7 0 sel := by
  refine if_neg ?_
  simp [h, h0]

/-- The registers of the multiplexer whose output passes the new clock. -/
def State.passes (s : State) (m n : Nat) : State :=
  { (s.setFld (rClkMuxStat m) 15 8 n).setFld (rClkMuxStat m) 1 0 0 with muxes := mapDel s.muxes m }

theorem passes_canonical (hc : s.Canonical) (m n : Nat) : (s.passes m n).Canonical :=
  { (hc.setFld (rClkMuxStat m) 15 8 n).setFld (rClkMuxStat m) 1 0 0 with }

theorem passes_stat (hc : s.Canonical) (m : Nat) {n : Nat} (hn : n < 256) : (s.passes m n).fld (rClkMuxStat m) 15 8 = n ∧
    (s.passes m n).fld (rClkMuxStat m) 0 0 = 0 ∧ (s.passes m n).fld (rClkMuxStat m) 1 1 = 0 := by
  have h1 := hc.setFld (rClkMuxStat m) 15 8 n
  refine ⟨?_, ?_, ?_⟩
  · exact (State.setFld_fld_field h1 0 (.inr (by decide)) (by decide)).trans (State.setFld_fld_of_lt hc (by decide) (by decide) hn)
  · exact (State.setFld_fld_inside h1 _ 0 (by decide) (by decide) (by decide) (by decide))
  · exact (State.setFld_fld_inside h1 _ 0 (by decide) (by decide) (by decide) (by decide))

/-- GCLK runs from the new source of multiplexer 0. -/
def State.passesGclk (s : State) (m n : Nat) : State := if m = 0 then (s.passes m n).setGclk n else s.passes m n

/-- The monitor watches the new source. -/
def State.watches (s : State) : State := { s with refmon := { failed := none, goodRuns := 0 } }

theorem watches_fld (s : State) (a hi lo : Nat) : s.watches.fld a hi lo = s.fld a hi lo := rfl

theorem muxOn_eq (s : State) (m n : Nat) : s.muxOn m n =
    (if (decide (m = 0) && decide (n ≠ 0)) = true then (s.passesGclk m n).watches else s.passesGclk m n).showClkOut := by
  simp only [State.muxOn, State.watches, State.passesGclk, State.passes]

theorem muxOn_fld (s : State) (m n : Nat) {a : Nat} (ha : a ≠ rClkOut) (hi lo : Nat) :
    (s.muxOn m n).fld a hi lo = (s.passesGclk m n).fld a hi lo := by
  rw [muxOn_eq, showClkOut_fld _ ha]
  split
  · exact watches_fld _ _ _ _
  · rfl

theorem muxOn_frame (hc : s.Canonical) (hm : muxNamed m = true) {n : Nat} (hn : n < 256) :
    (s.muxOn m n).fld (rClkMuxStat m) 15 8 = n ∧ (s.muxOn m n).fld (rClkMuxStat m) 0 0 = 0 ∧
      (s.muxOn m n).fld (rClkMuxStat m) 1 1 = 0 ∧ (m = 0 → n ≤ 2 → (s.muxOn m n).fld rClkRef 5 4 = n) := by
  obtain ⟨-, h2, h3⟩ := mux_regs_apart hm m
  have hp := passes_canonical hc m n
  obtain ⟨k1, k2, k3⟩ := passes_stat hc m hn
  simp only [muxOn_fld s m n h3.symm, muxOn_fld s m n (show rClkRef ≠ rClkOut by decide), State.passesGclk]
  split
  · next h =>
    subst h
    unfold State.setGclk
    grind [State.setFld_canonical, State.setFld_fld_of_lt, State.setFld_fld_field, State.setFld_fld_other]
  · next h => exact ⟨k1, k2, k3, fun h' => absurd h' h⟩

theorem State.muxGoal_find {n : Nat} (h : s.muxGoal m = some n) : ∃ k x, s.muxes.find? (fun e => decide (e.1 = m)) = some (k, x) ∧
    x.target = n := by
  obtain ⟨⟨k, x⟩, he, hx⟩ := Option.map_eq_some_iff.1 h
  exact ⟨k, x, he, hx⟩

theorem forceMux_eq {n : Nat} (h : s.muxGoal m = some n) : s.forceMux m =
    if s.fld (rClkMuxStat m) 1 1 = 1 then (s.bump (rClkMuxStat m) 7 4 1).muxOn m n else s := by
  obtain ⟨k, x, he, hx⟩ := State.muxGoal_find h
  simp only [State.forceMux, he, hx]

end

/-! ### Measuring (R391) -/

theorem writeMeas_frame (hc : s.Canonical) (v : Dword) : (s.writeMeas v).fld rClkMeas 31 8 = Dword.field v 31 8 ∧
    ((s.writeMeas v).fld rClkMeas 0 0 = 1 ↔ v.getLsbD 0 = true ∨ s.fld rClkMeas 0 0 = 1) := by
  have h1 := hc.setFld rClkMeas 31 8 (Dword.field v 31 8)
  have hv := State.setFld_fld_of_lt (a := rClkMeas) hc (by decide : 31 < 64) (by decide : 8 ≤ 31) (Dword.field_lt v 31 8)
  have h0 : (s.setFld rClkMeas 31 8 (Dword.field v 31 8)).fld rClkMeas 0 0 = s.fld rClkMeas 0 0 :=
    State.setFld_fld_field hc _ (.inl (by decide)) (by decide)
  have hlt := s.fld_lt rClkMeas 0 0
  simp only [State.writeMeas, h0, Dword.field_bit]
  cases hb : v.getLsbD 0 with
  | false => simpa [h0] using hv
  | true =>
    by_cases hg : s.fld rClkMeas 0 0 = 0
    · simp only [hg, Bool.toNat_true, decide_true, Bool.and_self, if_true, true_or, iff_true]
      exact ⟨(State.setFld_fld_field h1 1 (.inr (by decide)) (by decide)).trans hv, State.setFld_fld_of_lt h1 (by decide) (by decide) (by decide)⟩
    · have hg1 : s.fld rClkMeas 0 0 = 1 := by omega
      simpa [hg1, h0] using hv

end

section
variable {s : State} (hc : s.Canonical)
include hc

/-- A window counts, and takes the source out of use or back into it. -/
theorem refMonitorWindow_outcome {src : RefSrc} {count : Nat} {gap : Bool} (hs : src ≠ .rc) (hn : count < 2 ^ 16) :
    let good := 973 ≤ count ∧ count ≤ 1075 ∧ gap = false
    (s.refSrc = src → good → ∃ s', exec (.refMonitorWindow src count gap) s = .next s' ∧ s'.fld rClkRef 6 6 = 1 ∧
      s'.fld rClkRef 47 32 = count ∧ s'.refSrc = src ∧ s'.refmon = s.refmon) ∧
    (s.refSrc = src → ¬ good → ∃ s', exec (.refMonitorWindow src count gap) s = .next s' ∧ s'.refSrc = .rc ∧
      s'.fld rClkRef 0 0 = 1 ∧ s'.fld rClkRef 7 7 = 1 ∧ s'.fld rClkRef 6 6 = 0 ∧ s'.fld (rClkMuxStat 0) 15 8 = 0 ∧
      s'.refmon.failed = some src ∧ s'.refmon.goodRuns = 0) ∧
    (s.refSrc ≠ src → s.refmon.failed = some src → ∃ s', exec (.refMonitorWindow src count gap) s = .next s' ∧
      (good → s'.refmon.goodRuns = s.refmon.goodRuns + 1) ∧ (¬ good → s'.refmon.goodRuns = 0) ∧
      (s'.fld rClkRef 6 6 = 1 ↔ 1024 ≤ s'.refmon.goodRuns)) := by
  obtain ⟨h1, hcount, hrest, hmon⟩ := windowSeen_frame hc src hn
  have hgood : (decide (973 ≤ count) && decide (count ≤ 1075) && !gap) = true ↔ 973 ≤ count ∧ count ≤ 1075 ∧ gap = false := by
    simp [and_assoc]
  have hsrc : (s.windowSeen src count).refSrc = s.refSrc := State.refSrc_congr (hrest _ _ (by decide))
  refine ⟨fun h hg => ⟨_, exec_refMonitorWindow_selected hs h, ?_⟩, fun h hg => ⟨_, exec_refMonitorWindow_selected hs h, ?_⟩,
    fun h hf => ⟨_, exec_refMonitorWindow_failed hs h hf, ?_⟩⟩
  · rw [if_pos (hgood.2 hg)]
    have hfld : ∀ hi lo, (6 < lo ∨ hi < 6) → ((s.windowSeen src count).setFld rClkRef 6 6 1).fld rClkRef hi lo =
        (s.windowSeen src count).fld rClkRef hi lo := fun hi lo h => State.setFld_fld_field h1 1 h.symm (by decide)
    exact ⟨State.setFld_fld_of_lt h1 (by decide) (by decide) (by decide), (hfld _ _ (by decide)).trans hcount,
      (State.refSrc_congr (hfld _ _ (by decide))).trans (hsrc.trans h), hmon⟩
  · rw [if_neg (mt hgood.1 hg)]
    obtain ⟨k1, k2, k3, k4, k5, -, k6⟩ := failover_frame h1
    exact ⟨k1, k2, k3, k4, k5, by rw [k6, hsrc, h], by rw [k6]⟩
  · refine ⟨fun hg => ?_, fun hg => ?_, goodRuns_usable h1 _⟩
    · exact (if_pos (hgood.2 hg)).trans rfl
    · exact if_neg (mt hgood.1 hg)

/-- The PLL of a field coasts, relocks and reaches its operating point. -/
theorem pll_outcomes {f : Nat} (hp : Config.fieldPresent f = true) :
    (s.fld (rClkField f) 6 6 = 0 → s.fieldState f ≠ 2 → s.fld (rClkField f) 4 3 = 1 → ∃ s', exec (.pllCoast f) s = .next s' ∧
      s'.fld (rClkField f) 7 7 = 1 ∧ s'.fld (rClkField f) 6 6 = 1 ∧ s'.fld (rClkField f) 5 5 = 1 ∧ (s'.fieldRt f).pllTo = some 2) ∧
    (s.fld (rClkField f) 6 6 = 0 → s.fieldState f ≠ 2 → (s.fieldRt f).pllTo.isSome = true → ∃ s', exec (.pllCoast f) s = .next s' ∧
      s'.fld (rClkField f) 6 6 = 1 ∧ (s'.fieldRt f).pllTo = some 2) ∧
    (s.fld (rClkField f) 6 6 = 1 → s.fieldState f = 0 → (s.fieldRt f).stateTo = none → s.fld (rClkField f) 4 3 = 2 →
      ∃ s', exec (.pllRelock f) s = .next s' ∧ s'.fld (rClkField f) 6 6 = 0 ∧ (s'.fieldRt f).pllTo = some 1) ∧
    (s.fld (rClkField f) 6 6 = 1 → s.fieldState f = 1 → (s.fieldRt f).stateTo = none →
      exec (.pllRelock f) s = .next (s.setFld (rClkField f) 6 6 0)) := by
  have h7 := hc.setFld (rClkField f) 7 7 1
  have h76 := h7.setFld (rClkField f) 6 6 1
  have hset6 : ∀ v, v < 2 → (s.setFld (rClkField f) 6 6 v).fld (rClkField f) 6 6 = v := fun v hv =>
    State.setFld_fld_of_lt hc (by decide) (by decide) hv
  have hrun6 : ((s.setFld (rClkField f) 7 7 1).setFld (rClkField f) 6 6 1).fld (rClkField f) 6 6 = 1 :=
    State.setFld_fld_of_lt h7 (by decide) (by decide) (by decide)
  have hrun43 : ((s.setFld (rClkField f) 7 7 1).setFld (rClkField f) 6 6 1).fld (rClkField f) 4 3 = s.fld (rClkField f) 4 3 :=
    (State.setFld_fld_field h7 1 (.inl (by decide)) (by decide)).trans (State.setFld_fld_field hc 1 (.inl (by decide)) (by decide))
  refine ⟨fun h6 h2 h43 => ?_, fun h6 h2 hto => ?_, fun h6 h0 hto h43 => ?_, fun h6 h1 hto => ?_⟩
  · have hm : ((s.setFld (rClkField f) 7 7 1).setFld (rClkField f) 6 6 1).fld (rClkField f) 4 3 ≠ 2 := by omega
    refine ⟨_, exec_pllCoast hp h6 h2 (.inl (by omega)), ?_, (slew_field h76 2 (.inr (by decide))).trans hrun6, ?_, slew_pllTo h76 (.inl hm)⟩
    · exact (slew_field h76 2 (.inr (by decide))).trans ((State.setFld_fld_field h7 1 (.inr (by decide)) (by decide)).trans
        (State.setFld_fld_of_lt hc (by decide) (by decide) (by decide)))
    · rw [slew_moves (.inl hm)]
      exact State.setFld_fld_of_lt h76 (by decide) (by decide) (by decide)
  · exact ⟨_, exec_pllCoast hp h6 h2 (.inr hto), (slew_field h76 2 (.inr (by decide))).trans hrun6, slew_pllTo h76 (.inr hto)⟩
  · rw [exec_pllRelock hp h6 hto, if_pos h0]
    have h60 := hc.setFld (rClkField f) 6 6 0
    refine ⟨_, rfl, (slew_field h60 1 (.inr (by decide))).trans (hset6 0 (by decide)), slew_pllTo h60 (.inl ?_)⟩
    rw [State.setFld_fld_field hc 0 (.inl (by decide)) (by decide)]
    omega
  · rw [exec_pllRelock hp h6 hto, if_neg (by omega)]

theorem pllSlewDone_outcome {f : Nat} (hf : f < 64) (hp : Config.fieldPresent f = true) {n : Nat} (hn : n < 4)
    (ht : (s.fieldRt f).pllTo = some n) : ∃ s', exec (.pllSlewDone f) s = .next s' ∧ s'.fld (rClkField f) 4 3 = n ∧
      s'.fld (rClkField f) 5 5 = 0 ∧ (s'.fieldRt f).pllTo = none ∧
      ((s.fieldRt f).stateTo = none → s'.fieldState f = s.fieldState f) ∧
      (∀ k, (s.fieldRt f).stateTo = some k → k < 2 → s'.fieldState f = k ∧ (s'.fieldRt f).stateTo = none ∧ s'.tablesDue = true) := by
  obtain ⟨h1, h2, h3, h4, h5⟩ := pllReached_frame hc (f := f) hn hf
  have hrt : ((s.pllReached f n).onField f (fun r => { r with stateTo := none })).fieldRt f =
      { (s.pllReached f n).fieldRt f with stateTo := none } := State.onField_fieldRt_same h1 f _
  refine ⟨_, exec_pllSlewDone hp ht, ?_⟩
  have hne : rClkField f ≠ rClkOut := by unfold rClkField rClkOut; omega
  have hne' : rPwrField f ≠ rClkOut := by unfold rPwrField rClkOut; omega
  simp only [showClkOut_fld _ hne, State.fieldState, showClkOut_fld _ hne', showClkOut_fieldRt]
  cases hg : (s.fieldRt f).stateTo with
  | none => exact ⟨h2, h3, by rw [State.goalReached, h4], fun _ => h5, nofun⟩
  | some k =>
    rw [State.goalReached]
    split
    · next h => exact ⟨h2, h3, by rw [h4], nofun, fun j hj hlt => absurd (Option.some.inj hj) (by omega)⟩
    · have hr := stateReached_reachedAt h1 k hf
      have hfld : ∀ hi lo, ((s.pllReached f n).stateReached f k).fld (rClkField f) hi lo = (s.pllReached f n).fld (rClkField f) hi lo :=
        fun hi lo => hr.fld _ _ _ (by unfold rClkField rPlotRect; omega) (rPwrField_ne_rClkField hf f).symm
          (by unfold rClkField rRasScan; omega)
      refine ⟨(hfld _ _).trans h2, (hfld _ _).trans h3, by rw [hr.pllTo, hrt, h4], nofun, fun j hj hlt => ?_⟩
      cases hj
      exact ⟨hr.state (by omega), by rw [hr.stateTo, hrt], hr.due⟩

end

section
variable {s : State} (hc : s.Canonical) {m : Nat} (hm : muxNamed m = true)
include hc hm

/-- SEL is written while a multiplexer is not busy, and starts a switch where it names a source. -/
theorem clkMuxSelWrite_outcome (v : Dword) :
    let sel := Dword.field v 7 0
    (muxHere m = false ∨ s.fld (rClkMuxStat m) 0 0 = 1 → exec (.clkMuxSelWrite m v) s = .next s) ∧
    (muxHere m = true → s.fld (rClkMuxStat m) 0 0 = 0 → ∃ s', exec (.clkMuxSelWrite m v) s = .next s' ∧
      s'.fld (rClkMux m) 7 0 = sel ∧ (muxTakes m sel = true → s'.fld (rClkMuxStat m) 0 0 = 1 ∧
        s'.muxes = mapPut s.muxes m { target := sel }) ∧ (muxTakes m sel = false → s'.fld (rClkMuxStat m) 0 0 = 0 ∧ s'.muxes = s.muxes)) := by
  have hex : exec (.clkMuxSelWrite m v) s = .next (s.writeMuxSel m (Dword.field v 7 0)) := onUnit_of hm
  obtain ⟨hne, -, -⟩ := mux_regs_apart hm m
  have h1 := hc.setFld (rClkMux m) 7 0 (Dword.field v 7 0)
  have hsel : (s.setFld (rClkMux m) 7 0 (Dword.field v 7 0)).fld (rClkMux m) 7 0 = Dword.field v 7 0 :=
    State.setFld_fld_of_lt hc (by decide) (by decide) (Dword.field_lt v 7 0)
  rw [hex]
  refine ⟨fun h => by rw [writeMuxSel_busy h], fun h h0 => ⟨_, rfl, ?_⟩⟩
  rw [writeMuxSel_free h h0]
  split
  · next ht => exact ⟨(State.setFld_fld_other hne _ _ _ _ _).trans hsel,
      fun _ => ⟨State.setFld_fld_of_lt h1 (by decide) (by decide) (by decide), rfl⟩, fun hn => absurd ht (by simp [hn])⟩
  · next ht => exact ⟨hsel, fun hn => absurd hn ht, fun _ => ⟨(State.setFld_fld_other hne.symm _ _ _ _ _).trans h0, rfl⟩⟩

/-- A multiplexer that switches passes its clock, hangs, or is forced. -/
theorem clkMuxSwitch_outcomes {n : Nat} (hg : s.muxGoal m = some n) :
    (s.fld (rClkMuxStat m) 1 1 = 0 → exec (.clkMuxSwitchDone m) s = .next (s.muxOn m n)) ∧
    (s.fld (rClkMuxStat m) 1 1 = 0 → ∃ s', exec (.clkMuxHang m) s = .next s' ∧ s'.fld (rClkMuxStat m) 1 1 = 1) ∧
    (s.fld (rClkMuxStat m) 1 1 = 1 → exec (.clkMuxForce m) s = .next ((s.bump (rClkMuxStat m) 7 4 1).muxOn m n)) ∧
    (s.fld (rClkMuxStat m) 1 1 = 0 → exec (.clkMuxForce m) s = .next s) ∧
    (n < 256 → (s.muxOn m n).fld (rClkMuxStat m) 15 8 = n ∧ (s.muxOn m n).fld (rClkMuxStat m) 0 0 = 0 ∧
      (s.muxOn m n).fld (rClkMuxStat m) 1 1 = 0 ∧ (m = 0 → n ≤ 2 → (s.muxOn m n).fld rClkRef 5 4 = n)) := by
  have hforce : exec (.clkMuxForce m) s = .next (s.forceMux m) := onUnit_of hm
  rw [hforce, forceMux_eq hg]
  refine ⟨fun h => (onUnit_of hm).trans ((whenSome_of hg).trans (when_of (decide_eq_true h))),
    fun h => ⟨_, (onUnit_of hm).trans (when_of (by simp [hg, h])), ?_⟩, fun h => by rw [if_pos h], fun h => by rw [if_neg (by omega)],
    muxOn_frame hc hm⟩
  have hm' : m < 128 := by
    simp only [muxNamed, Bool.or_eq_true, Bool.and_eq_true, decide_eq_true_eq] at hm
    omega
  have hmt : rClkMuxStat m ∉ toldRegs := by
    simp only [toldRegs, List.mem_cons, List.not_mem_nil, or_false, rClkMuxStat, rTelemDrop, rTelemStat]
    omega
  exact ((told_event _ _ _ _).fld hmt _ _).trans (State.setFld_fld_of_lt hc (by decide) (by decide) (by decide))

end

/-- Settles O53: each event by its own guard, with what it leaves in CLK_REF, CLK_FIELD and CLK_MUX. -/
theorem clocksFollowTheirRules : Obligations.ClocksFollowTheirRules := by
  intro s f m hc
  refine ⟨fun src count gap hs hn => refMonitorWindow_outcome hc hs hn, fun h => ⟨_, when_of (decide_eq_true h), ?_⟩, fun hf hp => ?_,
    fun v hm => clkMuxSelWrite_outcome hc hm v, fun n hm hg => clkMuxSwitch_outcomes hc hm hg, fun v => ⟨_, rfl, writeMeas_frame hc v⟩,
    fun count h => ⟨_, when_of (decide_eq_true h), ?_⟩⟩
  · obtain ⟨h1, h2, -, -, -, h3, h4⟩ := failover_frame hc
    exact ⟨h1, by rw [h4], h2, h3⟩
  · obtain ⟨h1, h2, h3, h4⟩ := pll_outcomes hc hp
    exact ⟨h1, h2, h3, h4, fun n hn ht => pllSlewDone_outcome hc hf hp hn ht⟩
  · have hlt : (if s.clockKhz (s.fld rClkMeas 31 24) = 0 then 0 else min 0xFFFFFFFF count) < 2 ^ (63 + 1 - 32) := by
      split <;> omega
    have h1 := hc.setFld rClkMeas 63 32 (if s.clockKhz (s.fld rClkMeas 31 24) = 0 then 0 else min 0xFFFFFFFF count)
    exact ⟨State.setFld_fld_of_lt h1 (by decide) (by decide) (by decide),
      (State.setFld_fld_field h1 0 (.inr (by decide)) (by decide)).trans (State.setFld_fld_of_lt hc (by decide) (by decide) hlt)⟩

end Sys2Proof.Machine
end

section
/-!
PROOFS. Tile and field power states, shorts, and the commit of tables (R394 to R398, R413, R414, R422, R437).
-/
namespace Sys2Proof.Machine

/-! ### Sites and their keys -/

theorem siteOf_key {t : Site} (h : t.px < 512) : siteOf t.key = t := by
  have h1 : (t.py * 512 + t.px) % 512 = t.px := by omega
  have h2 : (t.py * 512 + t.px) / 512 = t.py := by omega
  rw [siteOf, Site.key, h1, h2]

theorem siteOf_injective {j k : Nat} (h : siteOf j = siteOf k) : j = k := by
  simp only [siteOf, Site.mk.injEq] at h
  omega

theorem key_siteOf (k : Nat) : (siteOf k).key = k := by
  simp only [siteOf, Site.key]
  omega

theorem mapGet_of_not_mem {α : Type} (d : Nat → α) {m : List (Nat × α)} {k : Nat} (h : k ∉ m.map Prod.fst) : mapGet d m k = d k := by
  induction m with
  | nil => rfl
  | cons e m ih =>
    simp only [List.map_cons, List.mem_cons, not_or] at h
    exact (if_neg h.1).trans (ih h.2)

/-! ### Tiles of a field -/

/-- Only tiles and memory differ. -/
structure TilesOnly (s s' : State) : Prop where
  rest  : s' = { s with tiles := s'.tiles, mem := s'.mem }
  canon : s.Canonical → s'.Canonical

section
variable {s s' s'' : State}

theorem TilesOnly.refl (s : State) : TilesOnly s s := ⟨rfl, id⟩

theorem TilesOnly.trans (h : TilesOnly s s') (k : TilesOnly s' s'') : TilesOnly s s'' where
  rest := by rw [k.rest, h.rest]
  canon := fun hc => k.canon (h.canon hc)

theorem TilesOnly.fld (h : TilesOnly s s') (a hi lo : Nat) : s'.fld a hi lo = s.fld a hi lo := by
  rw [h.rest]
  rfl

theorem TilesOnly.fieldRt (h : TilesOnly s s') (f : Nat) : s'.fieldRt f = s.fieldRt f := by
  rw [h.rest]
  rfl

theorem tilesOnly_nap (s : State) (t : Site) : TilesOnly s (s.nap t) := ⟨rfl, fun hc => (State.nap_keeps hc.keeps).canon⟩
theorem tilesOnly_darken (s : State) (t : Site) : TilesOnly s (s.darken t) := ⟨rfl, fun hc => (State.darken_keeps hc.keeps).canon⟩

theorem tilesOnly_foldl {α : Type} {g : State → α → State} (hg : ∀ s t, TilesOnly s (g s t)) (l : List α) (s : State) :
    TilesOnly s (l.foldl g s) :=
  List.foldlRecOn (motive := TilesOnly s) l g (.refl s) fun _ hu t _ => hu.trans (hg _ t)

theorem tilesOnly_eachInField {g : State → Site → State} (hg : ∀ s t, TilesOnly s (g s t)) (s : State) (f : Nat) :
    TilesOnly s (s.eachInField f g) := tilesOnly_foldl hg _ s

/-- A tile that a NAP meets is not ACTIVE, and no tile becomes so. -/
theorem nap_power (hc : s.Canonical) (t u : Site) (h : u = t ∨ (s.tile u).power ≠ .active) : ((s.nap t).tile u).power ≠ .active := by
  by_cases hk : u.key = t.key
  · have hu : (s.nap t).tile u = (s.nap t).tile t := by rw [State.tile, hk, State.tile]
    have ht : (s.tile u) = s.tile t := by rw [State.tile, hk, State.tile]
    rw [hu, State.nap, State.onTile_tile hc]
    split
    · exact nofun
    · next hp =>
      intro ha
      exact hp (by rw [Tile.powered, ha]; rfl)
  · rw [State.nap, State.onTile_tile_other hk]
    rcases h with h | h
    · exact absurd (congrArg Site.key h) hk
    · exact h

theorem naps_power (l : List Site) : ∀ {s : State}, s.Canonical → ∀ u, (u ∈ l ∨ (s.tile u).power ≠ .active) →
    ((l.foldl State.nap s).tile u).power ≠ .active := by
  induction l with
  | nil => exact fun _ u h => h.resolve_left List.not_mem_nil
  | cons t l ih =>
    intro s hc u h
    refine ih (tilesOnly_nap s t |>.canon hc) u ?_
    rcases h with h | h
    · rcases List.mem_cons.1 h with h | h
      · exact .inr (nap_power hc t u (.inl h))
      · exact .inl h
    · exact .inr (nap_power hc t u (.inr h))

/-- No tile of a field is ACTIVE once they have gone to NAP; a tile that the state does not list is DARK. -/
theorem eachInField_nap (hc : s.Canonical) {f : Nat} {u : Site} (hu : u.px < 512) (hf : u.field = f) :
    ((s.eachInField f State.nap).tile u).power ≠ .active := by
  refine naps_power _ hc u ?_
  by_cases h : u.key ∈ s.tiles.map Prod.fst
  · obtain ⟨e, he, hk⟩ := List.mem_map.1 h
    refine .inl (List.mem_filter.2 ⟨List.mem_map.2 ⟨e, he, ?_⟩, decide_eq_true hf⟩)
    rw [hk, siteOf_key hu]
  · refine .inr ?_
    rw [State.tile, mapGet_of_not_mem _ h]
    exact nofun

/-! ### Tile power (R394, R395) -/

theorem exec_tileNapWake {t : Site} (hl : s.Live t) (hp : (s.tile t).power = .nap) (hf : s.fieldState t.field = 0)
    (hr : ∀ p, s.plotOf t = some p → s.fld (rPwrPlot p) 0 0 = 0 ∨ s.runWanted p = true) :
    exec (.tileNapWake t) s = .next (s.onTile t (fun x => { x with power := .active })) := by
  refine (onTile_live hl).trans (when_of ?_)
  cases hq : s.plotOf t with
  | none => simp [hp, hf]
  | some p => rcases hr p hq with h | h <;> simp [hp, hf, h]

theorem exec_tileDarkWake {t : Site} (hl : s.Live t) (hp : (s.tile t).power = .dark) (hf : s.fieldState t.field = 0)
    (hr : s.rated t = true) (hq : (s.plotOf t).isSome = true) : exec (.tileDarkWake t) s = .next (s.resetTile t) :=
  (onTile_live hl).trans (when_of (by simp [hp, hf, hr, hq]))

/-! ### Field states (R396 to R398) -/

section
variable {f : Nat}

theorem slew_rest (s : State) (f n : Nat) : (s.slew f n) = { s with sreg := (s.slew f n).sreg, fields := (s.slew f n).fields } := by
  unfold State.slew
  split <;> rfl

theorem slew_canonical (hc : s.Canonical) (f n : Nat) : (s.slew f n).Canonical := (State.slew_keeps hc.keeps).canon

theorem slew_fieldState (s : State) (n : Nat) (hf : f < 64) (k : Nat) : (s.slew f n).fieldState k = s.fieldState k := by
  unfold State.slew
  split
  · rfl
  · exact State.setFld_fld_other (rPwrField_ne_rClkField hf k) _ _ _ _ _

/-- What is done with a tile of a field that goes to PENUMBRA. -/
def State.leaves (s : State) (f : Nat) : State → Site → State := if s.scanning f then State.darken else State.nap

theorem tilesOnly_leaves (s : State) (f : Nat) (u : State) (t : Site) : TilesOnly u (s.leaves f u t) := by
  unfold State.leaves
  split
  · exact tilesOnly_darken u t
  · exact tilesOnly_nap u t

theorem toPenumbra_frame (hc : s.Canonical) (hf : f < 64) :
    ((s.toPenumbra f).fieldRt f).stateTo = some 1 ∧ ((s.toPenumbra f).fieldRt f).pllTo = some 2 ∧
      (s.toPenumbra f).fieldState f = s.fieldState f ∧ (s.toPenumbra f).tiles = (s.eachInField f (s.leaves f)).tiles := by
  have ht := tilesOnly_eachInField (tilesOnly_leaves s f) s f
  have he : s.toPenumbra f = ((s.eachInField f (s.leaves f)).slew f 2).onField f
    (fun r => { r with stateTo := some 1, pllTo := some 2, asked := none }) := rfl
  rw [he]
  generalize s.eachInField f (s.leaves f) = u at ht
  have hu := ht.canon hc
  have h2 := slew_canonical hu f 2
  refine ⟨by rw [State.onField_fieldRt_same h2], by rw [State.onField_fieldRt_same h2], ?_, ?_⟩
  · exact (slew_fieldState u 2 hf f).trans (ht.fld _ _ _)
  · rw [State.onField_tiles, slew_rest]

section
variable (hp : Config.fieldPresent f = true)
include hp

theorem exec_fieldToPenumbra (h0 : s.fieldState f = 0) (hr : s.fieldRests f = true)
    (hs : s.scanning f = true → ∀ p ∈ s.usersOf f, s.fenceState p = 2) : exec (.fieldToPenumbra f) s = .next (s.toPenumbra f) := by
  refine (onUnit_of hp).trans (when_of ?_)
  cases h : s.scanning f with
  | false => simp [h0, hr]
  | true => simpa [h0, hr] using hs h

theorem exec_fieldToLit (h1 : s.fieldState f = 1) (hr : s.fieldRests f = true) (hs : s.scanning f = false)
    (hf : f ∉ s.repair.retiredFields) (hg : f ∉ s.retiringFields)
    (ha : (s.fieldRt f).thermal = false ∨ (s.fieldRt f).asked = some 0) : exec (.fieldToLit f) s = .next (s.toLit f) := by
  refine (onUnit_of hp).trans (when_of ?_)
  rcases ha with ha | ha <;> simp [h1, hr, hs, hf, hg, ha]

theorem exec_fieldPowerUp (h2 : s.fieldState f = 2) (hr : s.fieldRests f = true) (hl : (s.fieldRt f).latched = false)
    (hs : s.shutDown = false) (hf : f ∉ s.repair.retiredFields) (hg : f ∉ s.retiringFields)
    (ha : (s.fieldRt f).thermal = false ∨ (s.fieldRt f).asked = some 4) : exec (.fieldPowerUp f) s = .next (s.softStart f) := by
  refine (onUnit_of hp).trans (when_of ?_)
  rcases ha with ha | ha <;> simp [h2, hr, hl, hs, hf, hg, ha]

theorem exec_fieldToUmbra (h2 : s.fieldState f ≠ 2) (emergency : Bool) : exec (.fieldToUmbra f emergency) s =
    if emergency = true then .next (s.fieldOff f (if (s.fieldRt f).asked = some 3 then fcThermal else fcField))
    else if (s.fieldRt f).stateTo = some 2 then
      when_ "FIELD_TO_UMBRA" (s.tables.umbra.contains f && !s.tablesDue) (s.fieldOff f fcField)
    else when_ "FIELD_TO_UMBRA" (s.fieldRests f) ({ s with tablesDue := true }.onField f (fun r => { r with stateTo := some 2 })) := by
  refine (onUnit_of hp).trans ?_
  simp only [h2, if_false, decide_eq_true_eq]

end

theorem toLit_frame (hc : s.Canonical) (hf : f < 64) : ((s.toLit f).fieldRt f).stateTo = some 0 ∧
    ((s.toLit f).fieldRt f).pllTo = some (if s.fld (rClkField f) 6 6 = 1 then 2 else 1) ∧ (s.toLit f).fieldState f = s.fieldState f := by
  have h1 := hc.setFld (rClkField f) 5 5 1
  have hrt := State.onField_fieldRt_same h1 f (fun r => { r with
    stateTo := some 0, pllTo := some (if s.fld (rClkField f) 6 6 = 1 then 2 else 1), asked := none })
  exact ⟨congrArg FieldRt.stateTo hrt, congrArg FieldRt.pllTo hrt, State.setFld_fld_other (rPwrField_ne_rClkField hf f) _ _ _ _ _⟩

theorem softStart_fieldRt (hc : s.Canonical) (f : Nat) : (s.softStart f).fieldRt f =
    { s.fieldRt f with stateTo := some 1, pllTo := some 2, asked := none, untested := true } :=
  State.onField_fieldRt_same (hc.setFld (rClkField f) 5 5 1) f _

theorem softStart_fieldReg (s : State) (hf : f < 64) (hi lo : Nat) : (s.softStart f).fld (rPwrField f) hi lo = s.fld (rPwrField f) hi lo :=
  State.setFld_fld_other (rPwrField_ne_rClkField hf f) _ _ _ _ _

/-! ### UMBRA -/

/-- The maps of a field whose stage is off. -/
def State.fieldLost (s : State) (f : Nat) : State :=
  { s with tiles := s.tiles.filter (fun e => !decide ((siteOf e.1).field = f)),
           routers := s.routers.filter (fun e => !decide ((siteOf e.1).field = f)),
           mem := s.mem.filter (fun e => decide ((addrSite e.1).field ≠ f)), tablesDue := true }

/-- The field shows UMBRA, its PLL is off, and nothing of it is asked for. -/
def State.showsUmbra (s : State) (f : Nat) : State :=
  ((s.setFld (rPwrField f) 27 26 2).setFld (rClkField f) 6 3 0).onField f (fun r => { r with
    clamp := none, pllTo := none, stateTo := none, asked := none, hot := 0, cool := 0, untested := false })

theorem fieldDark_eq (s : State) (f : Nat) : s.fieldDark f = ((s.fieldLost f).showsUmbra f).showClkOut := rfl

theorem fieldDark_rest (s : State) (f : Nat) : (s.fieldDark f).tiles = (s.fieldLost f).tiles ∧
    (s.fieldDark f).routers = (s.fieldLost f).routers ∧ (s.fieldDark f).mem = (s.fieldLost f).mem ∧ (s.fieldDark f).tablesDue = true :=
  ⟨rfl, rfl, rfl, rfl⟩

theorem fieldLost_canonical (hc : s.Canonical) (f : Nat) : (s.fieldLost f).Canonical :=
  { hc with tiles := mapWf_filter _ hc.tiles, routers := mapWf_filter _ hc.routers, mem := mapWf_filter _ hc.mem }

theorem fieldDark_fields (hc : s.Canonical) (hf : f < 64) : (s.fieldDark f).fieldState f = 2 ∧ (s.fieldDark f).fld (rClkField f) 6 3 = 0 := by
  have h1 := (fieldLost_canonical hc f)
  have h2 := h1.setFld (rPwrField f) 27 26 2
  rw [fieldDark_eq]
  refine ⟨?_, ?_⟩
  · exact (showClkOut_fld _ (by unfold rPwrField rClkOut; omega) _ _).trans ((State.setFld_fld_other (rPwrField_ne_rClkField hf f) _ _ _ _ _).trans
      (State.setFld_fld_of_lt h1 (by decide) (by decide) (by decide)))
  · exact (showClkOut_fld _ (by unfold rClkField rClkOut; omega) _ _).trans (State.setFld_fld_of_lt h2 (by decide) (by decide) (by decide))

theorem fieldDark_sites {u : Site} (hu : u.px < 512) (hf : u.field = f) :
    (s.fieldDark f).tile u = Tile.reset ∧ (s.fieldDark f).router u = Router.empty := by
  obtain ⟨h1, h2, -, -⟩ := fieldDark_rest s f
  have hq : (!decide ((siteOf u.key).field = f)) = false := by rw [siteOf_key hu, hf]; simp
  constructor
  · rw [State.tile, h1]
    exact (mapGet_filter_key _ (fun k => !decide ((siteOf k).field = f)) _ _).trans (by rw [hq]; rfl)
  · rw [State.router, h2]
    exact (mapGet_filter_key _ (fun k => !decide ((siteOf k).field = f)) _ _).trans (by rw [hq]; rfl)

theorem fieldDark_byte {a : Nat} (ha : (addrSite a).field ≠ f) : (s.fieldDark f).byte a = s.byte a := by
  obtain ⟨-, -, h3, -⟩ := fieldDark_rest s f
  rw [State.byte, h3]
  exact (mapGet_filter_key _ (fun k => decide ((addrSite k).field ≠ f)) _ _).trans (by simp [ha, State.byte])

/-! ### Shorts (R413, R414) -/

/-- What a short leaves in PWR_FIELD, and its ALARM. -/
def State.shortSeen (s : State) (f : Nat) : State :=
  ((s.setFld (rPwrField f) 31 31 1).setFld (rPwrField f) 29 28 0).alarm 0x0007 wholeModule f

/-- The stage is latched off, with the shorts of the last hour. -/
def State.latchedOff (s : State) (f : Nat) (shorts : List Nat) : State :=
  let s := s.fieldOff f fcFieldShort
  s.onField f (fun r => { r with latched := true, shorts := shorts ++ [s.cycle] })

/-- The field's shorts within the hour. -/
def State.recentShorts (s : State) (f : Nat) : List Nat := (s.fieldRt f).shorts.filter (fun c => decide (s.cycle < c + 3600 * second))

theorem exec_fieldShort (hp : Config.fieldPresent f = true) (hl : (s.fieldRt f).latched = false) (h2 : s.fieldState f ≠ 2) :
    exec (.fieldShort f) s = .next (if (s.recentShorts f).isEmpty then (s.shortSeen f).latchedOff f (s.recentShorts f)
      else ((s.shortSeen f).latchedOff f (s.recentShorts f)).retireField f fcField) :=
  (onUnit_of hp).trans (when_of (by simp [hl, h2]))

theorem latchedOff_first (hc : s.Canonical) (f : Nat) : (((s.latchedOff f []).fieldRt f)).latched = true ∧
    ((s.latchedOff f []).fieldRt f).shorts.length = 1 := by
  have h := State.onField_fieldRt_same (State.fieldOff_keeps (f := f) (cause := fcFieldShort) hc.keeps).canon f
    (fun r => { r with latched := true, shorts := [(s.fieldOff f fcFieldShort).cycle] })
  exact ⟨congrArg FieldRt.latched h, congrArg (fun r => r.shorts.length) h⟩

/-- The retries that PWR_FIELD counts. -/
def State.retried (s : State) (f : Nat) : State := s.setFld (rPwrField f) 29 28 (s.fld (rPwrField f) 29 28 + 1)

theorem exec_shortRetry (hp : Config.fieldPresent f = true) (hl : (s.fieldRt f).latched = true) (h3 : s.fld (rPwrField f) 29 28 < 3)
    (hf : f ∉ s.repair.retiredFields) (hg : f ∉ s.retiringFields) (short : Bool) : exec (.shortRetry f short) s =
      .next (if short = true then (if (s.retried f).fld (rPwrField f) 29 28 = 3 then (s.retried f).retireField f fcField else s.retried f)
        else ((s.retried f).onField f (fun r => { r with latched := false })).softStart f) :=
  (onUnit_of hp).trans (when_of (by simp [hl, h3, hf, hg]))

theorem retried_count (hc : s.Canonical) (h3 : s.fld (rPwrField f) 29 28 < 3) :
    (s.retried f).fld (rPwrField f) 29 28 = s.fld (rPwrField f) 29 28 + 1 :=
  State.setFld_fld_of_lt hc (by decide) (by decide) (by omega)

theorem retried_canonical (hc : s.Canonical) (f : Nat) : (s.retried f).Canonical := hc.setFld _ _ _ _

/-- A retry that meets no short takes the field out of its latch. -/
theorem shortRetry_clears (hc : s.Canonical) (hlt : f < 64) (hp : Config.fieldPresent f = true) (hl : (s.fieldRt f).latched = true)
    (h3 : s.fld (rPwrField f) 29 28 < 3) (hf : f ∉ s.repair.retiredFields) (hg : f ∉ s.retiringFields) :
    ∃ s', exec (.shortRetry f false) s = .next s' ∧ (s'.fieldRt f).latched = false ∧ (s'.fieldRt f).stateTo = some 1 ∧
      s'.fld (rPwrField f) 29 28 = s.fld (rPwrField f) 29 28 + 1 := by
  have hr := retried_canonical hc f
  have h1 := hr.onField f (fun r => { r with latched := false })
  have h2 := State.onField_fieldRt_same hr f (fun r => { r with latched := false })
  have hcount := retried_count hc h3
  rw [exec_shortRetry hp hl h3 hf hg, if_neg (by decide)]
  generalize s.retried f = u at *
  refine ⟨_, rfl, ?_, ?_, (softStart_fieldReg _ hlt _ _).trans hcount⟩
  · rw [softStart_fieldRt h1, h2]
  · rw [softStart_fieldRt h1]

end

/-! ### The commit of tables (R422, R437) -/

/-- ID_FRETIRED and PWR_FIELD show a retired field. -/
def State.showRetired (s : State) (f : Nat) : State := (s.setFld rIdFretired f f 1).setFld (rPwrField f) 30 30 1

/-- Registers show retired fields by bits 30 of PWR_FIELD, whatever the numbers. -/
structure ShowsRetired (s s' : State) : Prop where
  rest  : s' = { s with sreg := s'.sreg }
  fld   : s.Canonical → ∀ a hi lo, a ≠ rIdFretired → (hi < 30 ∨ 30 < lo) → s'.fld a hi lo = s.fld a hi lo
  canon : s.Canonical → s'.Canonical

theorem showsRetired_foldl (l : List Nat) (s : State) : ShowsRetired s (l.foldl State.showRetired s) := by
  refine List.foldlRecOn (motive := ShowsRetired s) l _ ⟨rfl, fun _ _ _ _ _ _ => rfl, id⟩ fun u hu f _ =>
    ⟨by rw [hu.rest]; rfl, fun hc a hi lo ha hb => ?_, fun hc => ((hu.canon hc).setFld _ _ _ _).setFld _ _ _ _⟩
  have h1 := (hu.canon hc).setFld rIdFretired f f 1
  exact (State.setFld_fld_apart h1 1 (.inr hb) (by decide)).trans ((State.setFld_fld_other ha _ _ _ _ _).trans (hu.fld hc a hi lo ha hb))

theorem mem_foldl_insertNat {l m : List Nat} {k : Nat} (h : k ∈ l ∨ k ∈ m) : k ∈ l.foldl insertNat m := by
  induction l generalizing m with
  | nil => exact h.resolve_left List.not_mem_nil
  | cons x l ih =>
    refine ih ?_
    rcases h with h | h
    · exact (List.mem_cons.1 h).elim (fun h => .inr (mem_insertNat.2 (.inl h))) .inl
    · exact .inr (mem_insertNat.2 (.inr h))

/-- A spare takes the place of a tile, where there is one. -/
def State.promotes (s : State) (t : Site) : State := match s.spareFor t with | some u => s.promote u | none => s

theorem promotes_foldl_rest (l : List Site) (s : State) : l.foldl State.promotes s =
    { s with repair := { s.repair with promoted := (l.foldl State.promotes s).repair.promoted } } := by
  refine List.foldlRecOn (motive := fun u : State => u = { s with repair := { s.repair with promoted := u.repair.promoted } }) l _ rfl
    fun u hu t _ => ?_
  rw [hu, State.promotes]
  split <;> rfl

/-- The repair map with what was retiring. -/
def State.mapsFields (s : State) : State :=
  { s with repair := { s.repair with retiredFields := s.retiringFields.foldl insertNat s.repair.retiredFields }, retiringFields := [] }
def State.mapsTiles (s : State) : State :=
  { s with repair := { s.repair with retired := s.retiring.foldl insertNat s.repair.retired }, retiring := [] }

theorem mapFields_eq (s : State) : s.mapFields = s.mapsFields.repair.retiredFields.foldl State.showRetired s.mapsFields := rfl

theorem mapTiles_eq (s : State) : s.mapTiles = ((s.retiring.map siteOf).filter s.rated).foldl State.promotes
    ((s.retiring.map siteOf).foldl (fun s t => s.darken t) s.mapsTiles) := rfl

/-- The parts of the state that a table commit reads after the retirements have entered the repair map. -/
structure Mapped (s s' : State) : Prop where
  retired : ∀ k ∈ s.retiring, k ∈ s'.repair.retired
  fields  : ∀ k ∈ s.retiringFields, k ∈ s'.repair.retiredFields
  none_   : s'.retiring = [] ∧ s'.retiringFields = []
  fld     : ∀ a hi lo, a ≠ rIdFretired → (hi < 30 ∨ 30 < lo) → s'.fld a hi lo = s.fld a hi lo

theorem mapped_mapTiles (hc : s.Canonical) : Mapped s s.mapFields.mapTiles := by
  have h0 : s.mapsFields.Canonical := { hc with }
  have h1 := showsRetired_foldl s.mapsFields.repair.retiredFields s.mapsFields
  rw [← mapFields_eq] at h1
  have h2 := tilesOnly_foldl (fun s t => tilesOnly_darken s t) (s.mapFields.retiring.map siteOf) s.mapFields.mapsTiles
  have h3 := promotes_foldl_rest ((s.mapFields.retiring.map siteOf).filter s.mapFields.rated)
    ((s.mapFields.retiring.map siteOf).foldl (fun s t => s.darken t) s.mapFields.mapsTiles)
  rw [← mapTiles_eq] at h3
  have hret : s.mapFields.retiring = s.retiring := by rw [h1.rest]; rfl
  have hfields : s.mapFields.repair = s.mapsFields.repair := by rw [h1.rest]
  have hnone : s.mapFields.retiringFields = [] := by rw [h1.rest]; rfl
  have hfld := h1.fld h0
  generalize s.mapFields.mapTiles = w at h3
  generalize (s.mapFields.retiring.map siteOf).foldl (fun s t => s.darken t) s.mapFields.mapsTiles = v at h2 h3
  generalize s.mapFields = u at *
  rw [h3, h2.rest]
  refine ⟨fun k hk => mem_foldl_insertNat (.inl (by rwa [hret])), fun k hk => ?_, ⟨rfl, hnone⟩, hfld⟩
  change k ∈ u.repair.retiredFields
  rw [hfields]
  exact mem_foldl_insertNat (.inl hk)

theorem writeTrees_rest (s : State) (p : Nat) : s.writeTrees p = { s with prism := (s.writeTrees p).prism } := by
  unfold State.writeTrees
  dsimp only
  split
  · rfl
  · refine List.foldlRecOn (motive := fun u : State => u = { s with prism := u.prism }) _ _ rfl fun u hu x _ => ?_
    refine List.foldlRecOn (motive := fun u : State => u = { s with prism := u.prism }) _ _ hu fun v hv m _ => ?_
    rw [hv]
    rfl

theorem writeAllTrees_rest (s : State) : s.writeAllTrees = { s with prism := s.writeAllTrees.prism } := by
  refine List.foldlRecOn (motive := fun u : State => u = { s with prism := u.prism }) _ _ rfl fun u hu p _ => ?_
  split
  · rw [writeTrees_rest, hu]
  · exact hu

theorem State.withPrism_fld (s : State) (m : List (Nat × Nat)) (a hi lo : Nat) : ({ s with prism := m } : State).fld a hi lo = s.fld a hi lo := rfl

theorem writeAllTrees_frame (s : State) : s.writeAllTrees.tablesDue = s.tablesDue ∧ s.writeAllTrees.retiring = s.retiring ∧
    s.writeAllTrees.retiringFields = s.retiringFields ∧ s.writeAllTrees.repair = s.repair ∧
    s.writeAllTrees.flashRepair = s.flashRepair ∧ ∀ a hi lo, s.writeAllTrees.fld a hi lo = s.fld a hi lo := by
  rw [writeAllTrees_rest]
  exact ⟨rfl, rfl, rfl, rfl, rfl, State.withPrism_fld s _⟩

/-- The tables in force, with the repair map in flash. -/
def State.tablesIn (s : State) : State :=
  { s with tables := s.newBasis, tablesDue := false, flashRepair := s.flashCopy (fun _ => s.repair) }

/-- The new tables, counted in ROUTE_STAT, with the trees of every placement. -/
def State.tablesSet (s : State) : State :=
  ((s.tablesIn.count rRouteStat 63 32 1).setReg rRouteLast (BitVec.ofNat 64 s.tablesIn.cycle)).writeAllTrees

theorem tablesSet_frame (hc : s.Canonical) : s.tablesSet.tablesDue = false ∧ s.tablesSet.retiring = s.retiring ∧
    s.tablesSet.retiringFields = s.retiringFields ∧ s.tablesSet.repair = s.repair ∧
    s.tablesSet.fld rRouteStat 63 32 = (s.fld rRouteStat 63 32 + 1) % 2 ^ 32 ∧
    s.tablesSet.flashRepair = s.flashCopy (fun _ => s.repair) := by
  have ht : s.tablesIn.Canonical := { hc with }
  have hf : ((s.tablesIn.count rRouteStat 63 32 1).setReg rRouteLast (BitVec.ofNat 64 s.tablesIn.cycle)).fld rRouteStat 63 32 =
      (s.fld rRouteStat 63 32 + 1) % 2 ^ 32 := by
    rw [State.setReg_fld_other (by decide)]
    exact State.setFld_fld_of_lt ht (by decide) (by decide) (Nat.mod_lt _ (by decide))
  obtain ⟨h1, h2, h3, h4, h5, h6⟩ := writeAllTrees_frame ((s.tablesIn.count rRouteStat 63 32 1).setReg rRouteLast (BitVec.ofNat 64 s.tablesIn.cycle))
  exact ⟨h1, h2, h3, h4, (h6 _ _ _).trans hf, h5⟩

theorem commitTables_eq (s : State) : s.commitTables = s.mapFields.mapTiles.tablesSet := by
  simp only [State.commitTables, State.tablesSet, State.tablesIn]

theorem commitTables_frame (hc : s.Canonical) :
    s.commitTables.tablesDue = false ∧ s.commitTables.retiring = [] ∧ s.commitTables.retiringFields = [] ∧
      (∀ k ∈ s.retiring, k ∈ s.commitTables.repair.retired) ∧ (∀ k ∈ s.retiringFields, k ∈ s.commitTables.repair.retiredFields) ∧
      s.commitTables.fld rRouteStat 63 32 = (s.fld rRouteStat 63 32 + 1) % 2 ^ 32 ∧
      (s.shutDown = false → s.commitTables.flashRepair = s.commitTables.repair) := by
  have hm := mapped_mapTiles hc
  have hcm : s.mapFields.mapTiles.Canonical := (State.mapTiles_keeps (State.mapFields_keeps hc.keeps)).canon
  rw [commitTables_eq]
  generalize s.mapFields.mapTiles = u at hm hcm
  obtain ⟨h1, h2, h3, h4, h5, h6⟩ := tablesSet_frame hcm
  rw [h1, h2, h3, h4, h5, h6, hm.fld _ _ _ (by decide) (by decide)]
  refine ⟨rfl, hm.none_.1, hm.none_.2, hm.retired, hm.fields, rfl, fun hs => ?_⟩
  have hs' : u.shutDown = false := by
    rw [State.shutDown, hm.fld _ _ _ (by decide) (by decide)]
    exact hs
  rw [State.flashCopy, hs']
  rfl

end

/-- Settles O55: each change of state by its own guard, then what it leaves of the field, its sites and the tables. -/
theorem powerStatesChange : Obligations.PowerStatesChange := by
  intro s t f hc
  refine ⟨fun hl hp hf hr => ⟨_, exec_tileNapWake hl hp hf hr, ?_⟩, exec_tileDarkWake, fun hf hp => ?_, fun hd =>
    ⟨_, when_of hd, commitTables_frame hc⟩⟩
  · simp only [State.core, State.ni, State.onTile_tile hc]
    exact ⟨trivial, trivial, trivial, fun _ => rfl⟩
  · refine ⟨fun h0 hr hs => ⟨_, exec_fieldToPenumbra hp h0 hr hs, ?_⟩, fun h1 hr hs hg hh ha => ⟨_, exec_fieldToLit hp h1 hr hs hg hh ha, ?_⟩,
      fun h2 => ?_, fun h2 hr => ?_, fun h2 hto hu hd => ?_, ?_, fun h2 hr hl hs hg hh ha => ⟨_, exec_fieldPowerUp hp h2 hr hl hs hg hh ha, ?_⟩,
      fun hl h2 hs => ⟨_, exec_fieldShort hp hl h2, ?_⟩, fun hl h2 => ⟨_, exec_fieldShort hp hl h2⟩, fun hl h3 hg hh => ⟨?_, fun h => ?_, fun h => ?_⟩⟩
    · obtain ⟨k1, k2, k3, k4⟩ := toPenumbra_frame hc hf
      refine ⟨k1, k2, k3.trans h0, fun u hu ht hsc => ?_⟩
      have hpx : u.px < 512 := by
        simp only [Site.isTile, Site.onWafer, Bool.and_eq_true, decide_eq_true_eq] at ht
        omega
      rw [State.tile, k4, State.leaves, hsc]
      exact eachInField_nap hc hpx hu
    · obtain ⟨k1, k2, k3⟩ := toLit_frame hc hf
      exact ⟨k1, k2, k3.trans h1⟩
    · rw [exec_fieldToUmbra hp h2, if_pos rfl]
    · have hto : (s.fieldRt f).stateTo ≠ some 2 := fun h => by simp [State.fieldRests, h] at hr
      rw [exec_fieldToUmbra hp h2, if_neg (by decide), if_neg hto]
      exact when_of hr
    · rw [exec_fieldToUmbra hp h2, if_neg (by decide), if_pos hto]
      exact when_of (by simp [hu, hd])
    · obtain ⟨k1, k2⟩ := fieldDark_fields hc hf
      exact ⟨k1, k2, rfl, fun u hu hx _ => fieldDark_sites hx hu, fun a ha => fieldDark_byte ha⟩
    · rw [softStart_fieldRt hc]
      exact ⟨rfl, rfl, rfl⟩
    · have hr : s.recentShorts f = [] := List.filter_eq_nil_iff.2 fun c hcm => by simpa using hs c hcm
      rw [hr]
      have h1 : (s.shortSeen f).Canonical := (told_alarm _ _ _ _).canon ((hc.setFld _ _ _ _).setFld _ _ _ _)
      exact latchedOff_first h1 f
    · exact shortRetry_clears hc hf hp hl h3 hg hh
    · rw [exec_shortRetry hp hl h3 hg hh, if_pos rfl, retried_count hc h3, if_neg (by omega)]
      rfl
    · rw [exec_shortRetry hp hl h3 hg hh, if_pos rfl, retried_count hc h3, if_pos (by omega), State.retried, h]

end Sys2Proof.Machine
end

section
/-!
PROOFS. The power cap, energy counters, droop and backfill, the supply and its shutdown, and heat (R401 to R412).
-/
namespace Sys2Proof.Machine

/-! ### What a plot's usable tiles rest on (R255, R256) -/

section
variable {s s' : State} (hrep : s'.repair = s.repair) (hf : ∀ f, f < 64 → s'.fieldState f = s.fieldState f)
  (hr : ∀ p, p < 64 → ∀ hi lo, s'.fld (rPlotRect p) hi lo = s.fld (rPlotRect p) hi lo)

theorem Site.field_of_isTile {t : Site} (h : t.isTile = true) : t.field < 64 := by
  simp only [Site.isTile, Site.onWafer, Bool.and_eq_true, decide_eq_true_eq] at h
  unfold Site.field
  omega

include hrep hf in
theorem State.goodSite_congr (t : Site) : s'.goodSite t = s.goodSite t := by
  simp only [State.goodSite, State.rated, State.tileGone, State.inUmbra, hrep]
  cases h : t.isTile with
  | false => rfl
  | true => rw [hf _ (Site.field_of_isTile h)]

theorem State.plotValid_of_ge {p : Nat} (hp : ¬ p < 64) (s : State) : s.plotValid p = false := by
  simp [State.plotValid, hp]

include hr in
theorem State.plotValid_congr (p : Nat) : s'.plotValid p = s.plotValid p := by
  by_cases hp : p < 64
  · rw [State.plotValid, hr p hp, State.plotValid]
  · rw [State.plotValid_of_ge hp, State.plotValid_of_ge hp]

include hrep hf hr in
theorem State.rowOf_same (p py : Nat) : s'.rowOf p py = s.rowOf p py := by
  by_cases hp : p < 64
  · have hx : s'.rectXs p = s.rectXs p := by simp only [State.rectXs, hr p hp]
    simp only [State.rowOf, State.plotValid_congr hr, hx,
      rowWalk_congr (State.goodSite_congr hrep hf) (fun t => by simp only [State.irregular, State.goodSite_congr hrep hf])]
  · simp [State.rowOf, State.plotValid_of_ge hp]

include hrep hf hr in
theorem State.usable_same (p : Nat) : s'.usable p = s.usable p := by
  by_cases hp : p < 64
  · have hy : s'.rectYs p = s.rectYs p := by simp only [State.rectYs, hr p hp]
    simp only [State.usable, State.rowOf_same hrep hf hr, State.plotValid_congr hr, hy]
  · simp [State.usable, State.plotValid_of_ge hp]

end

/-! ### One field of many registers -/

/-- One field of the registers that a list numbers takes a value that its old value gives. -/
structure FldsSet (R : Nat → Nat) (l : List Nat) (hi lo : Nat) (g : Nat → Nat → Nat) (s s' : State) : Prop where
  rest  : s' = { s with sreg := s'.sreg }
  canon : s'.Canonical
  same  : ∀ p ∈ l, s'.fld (R p) hi lo = g p (s.fld (R p) hi lo) % 2 ^ (hi + 1 - lo)
  other : ∀ a h k, (∀ p ∈ l, a ≠ R p) ∨ h < lo ∨ hi < k → s'.fld a h k = s.fld a h k

section
variable {R : Nat → Nat} {hi lo : Nat} {g : Nat → Nat → Nat}

theorem fldsSet_foldl (hR : ∀ i j, R i = R j → i = j) (h64 : hi < 64) (hl : lo ≤ hi) :
    ∀ (l : List Nat), l.Nodup → ∀ {s : State}, s.Canonical →
      FldsSet R l hi lo g s (l.foldl (fun s p => s.setFld (R p) hi lo (g p (s.fld (R p) hi lo))) s)
  | [], _, s, hc => ⟨rfl, hc, fun _ h => absurd h List.not_mem_nil, fun _ _ _ _ => rfl⟩
  | q :: l, hd, s, hc => by
    obtain ⟨hq, hd⟩ := List.nodup_cons.1 hd
    have h := fldsSet_foldl hR h64 hl l hd (hc.setFld (R q) hi lo (g q (s.fld (R q) hi lo)))
    rw [List.foldl_cons]
    refine ⟨by rw [h.rest]; rfl, h.canon, fun p hp => ?_, fun a x k ha => ?_⟩
    · rcases List.mem_cons.1 hp with rfl | hp
      · rw [h.other _ _ _ (.inl fun j hj he => hq (by rwa [hR _ _ he]))]
        exact State.setFld_fld_same hc _ h64 hl
      · rw [h.same p hp, State.setFld_fld_other (fun he => hq (hR p q he ▸ hp))]
    · rcases ha with ha | ha
      · rw [h.other _ _ _ (.inl fun p hp => ha p (List.mem_cons_of_mem _ hp)), State.setFld_fld_other (ha q List.mem_cons_self)]
      · rw [h.other _ _ _ (.inr ha), State.setFld_fld_apart hc _ (.inr ha) hl]

end

/-! ### The cap controller (R401) -/

theorem rPwrPlot_inj (i j : Nat) (h : rPwrPlot i = rPwrPlot j) : i = j := by
  unfold rPwrPlot at h
  omega

/-- Outside PWR_STAT, only fields of PWR_PLOT from bit m up differ. -/
structure Shown (m : Nat) (s s' : State) : Prop where
  rest  : s' = { s with sreg := s'.sreg }
  canon : s.Canonical → s'.Canonical
  reg   : ∀ a, a ≠ rPwrStat → (a < rPwrPlot 0 ∨ rPwrEplot 0 ≤ a) → s'.reg a = s.reg a
  low   : s.Canonical → ∀ p h k, h < m → s'.fld (rPwrPlot p) h k = s.fld (rPwrPlot p) h k

section
variable {s s' s'' : State} {m : Nat}

theorem Shown.refl (s : State) : Shown m s s := ⟨rfl, id, fun _ _ _ => rfl, fun _ _ _ _ _ => rfl⟩

theorem Shown.trans (h : Shown m s s') (k : Shown m s' s'') : Shown m s s'' where
  rest := by rw [k.rest, h.rest]
  canon := fun hc => k.canon (h.canon hc)
  reg := fun a ha hb => (k.reg a ha hb).trans (h.reg a ha hb)
  low := fun hc p x y hx => (k.low (h.canon hc) p x y hx).trans (h.low hc p x y hx)

theorem Shown.mono {n : Nat} (h : Shown n s s') (hm : m ≤ n) : Shown m s s' :=
  ⟨h.rest, h.canon, h.reg, fun hc p x y hx => h.low hc p x y (by omega)⟩

theorem shown_stat (s : State) (hi lo v m : Nat) : Shown m s (s.setFld rPwrStat hi lo v) :=
  ⟨rfl, fun hc => hc.setFld _ _ _ _, fun a ha _ => State.setFld_reg_other ha _ _ _, fun _ p _ _ _ =>
    State.setFld_fld_other (by unfold rPwrPlot rPwrStat; omega) _ _ _ _ _⟩

theorem shown_plot (s : State) {p hi lo : Nat} (v : Nat) (hp : p < 64) (hm : m ≤ lo) (hl : lo ≤ hi) :
    Shown m s (s.setFld (rPwrPlot p) hi lo v) where
  rest := rfl
  canon := fun hc => hc.setFld _ _ _ _
  reg := fun a _ hb => State.setFld_reg_other (by unfold rPwrPlot rPwrEplot at *; omega) _ _ _
  low := fun hc q h k hh => State.setFld_fld_apart hc _ (.inr (.inl (by omega))) hl

theorem shown_foldl {l : List Nat} {f : State → Nat → State} (hl : ∀ p ∈ l, p < 64) (hf : ∀ s p, p < 64 → Shown m s (f s p)) (s : State) :
    Shown m s (l.foldl f s) :=
  List.foldlRecOn (motive := Shown m s) l f (.refl s) fun _ hu p hp => hu.trans (hf _ p (hl p hp))

/-- What the loop works from is no part of what it shows. -/
theorem Shown.runners (h : Shown m s s') : s'.runners = s.runners := by
  have hr : s'.running = s.running := by rw [h.rest]; rfl
  rw [State.runners, hr, State.runners]

theorem Shown.cap (h : Shown m s s') : s'.fld rPwrCapSet 15 0 = s.fld rPwrCapSet 15 0 := by
  rw [State.fld, h.reg _ (by decide) (.inl (by decide)), State.fld]

theorem Shown.policy (h : Shown m s s') : s'.policy = s.policy := by
  rw [State.policy, State.fld, h.reg _ (by decide) (.inr (by decide)), State.policy, State.fld]

theorem Shown.usable (h : Shown m s s') (p : Nat) : s'.usable p = s.usable p := by
  refine State.usable_same (by rw [h.rest]) (fun f hf => ?_) (fun q _ hi lo => ?_) p
  · rw [State.fieldState, State.fld, h.reg _ (by unfold rPwrField rPwrStat; omega) (.inl (by unfold rPwrField rPwrPlot; omega)),
      State.fieldState, State.fld]
  · rw [State.fld, h.reg _ (by unfold rPlotRect rPwrStat; omega) (.inr (by unfold rPlotRect rPwrEplot; omega)), State.fld]

theorem Shown.share (h : Shown m s s') (hc : s.Canonical) (hm : 32 ≤ m) (pin : Nat) (powers : Nat → Nat) (p : Nat) :
    s'.share pin powers p = s.share pin powers p := by
  have hw : ∀ q, s'.weight q = s.weight q := fun q => by
    simp only [State.weight, h.low hc q 31 24 (by omega), h.usable]
  simp only [State.share, h.runners, h.cap, hw]

theorem mem_runners {p : Nat} : p ∈ s.runners ↔ p < 64 ∧ s.running p = true := by
  simp [State.runners]

theorem runners_lt : ∀ p ∈ s.runners, p < 64 := fun _ hp => (mem_runners.1 hp).1

theorem runners_nodup (s : State) : s.runners.Nodup := List.nodup_range.filter _

/-- A plot's power is above its share. -/
def State.overShare (s : State) (pin : Nat) (powers : Nat → Nat) (p : Nat) : Prop :=
  (s.share pin powers p).1 < (powers p : Int) * ((s.share pin powers p).2 : Int)

/-- The plots whose rate goes down when the input is above the cap: those above their share, or all. -/
def State.slowed (s : State) (pin : Nat) (powers : Nat → Nat) : List Nat :=
  let above := fun p => decide ((s.share pin powers p).1 < (powers p : Int) * ((s.share pin powers p).2 : Int))
  if s.runners.any above then s.runners.filter above else s.runners

/-- The plots whose rate goes up when the input is below 98 % of the cap. -/
def State.sped (s : State) (pin : Nat) (powers : Nat → Nat) : List Nat :=
  let above := fun p => decide ((s.share pin powers p).1 < (powers p : Int) * ((s.share pin powers p).2 : Int))
  let below := fun p => decide ((powers p : Int) * ((s.share pin powers p).2 : Int) < (s.share pin powers p).1)
  s.runners.filter (fun p => s.belowCeil p &&
    !(above p && s.runners.any (fun o => decide (o ≠ p) && below o && s.belowCeil o)))

theorem capStep_over {pin : Nat} (h : s.fld rPwrCapSet 15 0 < pin) (powers : Nat → Nat) :
    s.capStep pin powers = (s.slowed pin powers).foldl (fun s p => s.setRate p (s.rateOf p - 1)) s := if_pos h

theorem capStep_under {pin : Nat} (h : 100 * pin < 98 * s.fld rPwrCapSet 15 0) (powers : Nat → Nat) :
    s.capStep pin powers = (s.sped pin powers).foldl (fun s p => s.setRate p (s.rateOf p + 1)) s :=
  (if_neg (by omega)).trans (if_pos h)

theorem capStep_held {pin : Nat} (h : pin ≤ s.fld rPwrCapSet 15 0) (h' : 98 * s.fld rPwrCapSet 15 0 ≤ 100 * pin) (powers : Nat → Nat) :
    s.capStep pin powers = s := (if_neg (by omega)).trans (if_neg (by omega))

theorem slowed_nodup (pin : Nat) (powers : Nat → Nat) : (s.slowed pin powers).Nodup := by
  unfold State.slowed
  dsimp only
  split
  · exact (runners_nodup s).filter _
  · exact runners_nodup s

/-- A rate that the loop changes is a running plot's; above the cap it is one above its share, where there is one. -/
theorem mem_slowed {pin p : Nat} {powers : Nat → Nat} : p ∈ s.slowed pin powers ↔ p ∈ s.runners ∧
    ((∃ q ∈ s.runners, s.overShare pin powers q) → s.overShare pin powers p) := by
  unfold State.slowed State.overShare
  dsimp only
  split
  · next h => simp_all
  · next h =>
    simp only [List.any_eq_true, decide_eq_true_eq] at h
    simp [h]

theorem mem_sped_of_not_over {pin p : Nat} {powers : Nat → Nat} (h : ¬ s.overShare pin powers p) :
    p ∈ s.sped pin powers ↔ p ∈ s.runners ∧ s.belowCeil p = true := by
  unfold State.overShare at h
  simp [State.sped, h]

/-- What the loop does with the rates. -/
structure CapStepped (pin : Nat) (powers : Nat → Nat) (s s' : State) : Prop where
  idle  : ∀ p, s.running p = false → s'.rateOf p = s.rateOf p
  above : s.fld rPwrCapSet 15 0 < pin → ∀ p, p ∈ s.slowed pin powers → s'.rateOf p = s.rateOf p - 1
  below : 100 * pin < 98 * s.fld rPwrCapSet 15 0 → ∀ p, p ∈ s.runners → ¬ s.overShare pin powers p →
    s'.rateOf p = if s.belowCeil p = true then s.rateOf p + 1 else s.rateOf p
  held  : pin ≤ s.fld rPwrCapSet 15 0 → 98 * s.fld rPwrCapSet 15 0 ≤ 100 * pin → ∀ p, s'.rateOf p = s.rateOf p
  other : ∀ a h k, (a < rPwrPlot 0 ∨ 23 < k) → s'.fld a h k = s.fld a h k

theorem capStep_stepped (hc : s.Canonical) (pin : Nat) (powers : Nat → Nat) : CapStepped pin powers s (s.capStep pin powers) := by
  have hfar : ∀ (l : List Nat) a h k, (a < rPwrPlot 0 ∨ 23 < k) → (∀ p ∈ l, a ≠ rPwrPlot p) ∨ h < 20 ∨ 23 < k := by
    rintro l a h k (ha | ha)
    · exact .inl fun p _ => by unfold rPwrPlot at *; omega
    · exact .inr (.inr ha)
  have hout : ∀ (l : List Nat) p, p ∉ l → (∀ q ∈ l, rPwrPlot p ≠ rPwrPlot q) := fun l p hp q hq he => hp (rPwrPlot_inj p q he ▸ hq)
  by_cases h1 : s.fld rPwrCapSet 15 0 < pin
  · have hs := fldsSet_foldl (g := fun _ n => n - 1) rPwrPlot_inj (by decide : 23 < 64) (by decide : 20 ≤ 23) _ (slowed_nodup (s := s) pin powers) hc
    rw [capStep_over h1]
    refine ⟨fun p hp => ?_, fun _ p hp => (hs.same p hp).trans (Nat.mod_eq_of_lt ?_), fun h => absurd h (by omega), fun h => absurd h (by omega),
      fun a h k ha => hs.other a h k (hfar _ a h k ha)⟩
    · refine hs.other _ _ _ (.inl (hout _ p fun h => ?_))
      have := (mem_runners.1 (mem_slowed.1 h).1).2
      rw [hp] at this
      exact absurd this nofun
    · have := s.fld_lt (rPwrPlot p) 23 20
      omega
  · by_cases h2 : 100 * pin < 98 * s.fld rPwrCapSet 15 0
    · have hs := fldsSet_foldl (g := fun _ n => n + 1) rPwrPlot_inj (by decide : 23 < 64) (by decide : 20 ≤ 23) _
        ((runners_nodup s).filter _ : (s.sped pin powers).Nodup) hc
      rw [capStep_under h2]
      refine ⟨fun p hp => ?_, fun h => absurd h h1, fun _ p hp ho => ?_, fun _ h => absurd h (by omega),
        fun a h k ha => hs.other a h k (hfar _ a h k ha)⟩
      · refine hs.other _ _ _ (.inl (hout _ p fun h => ?_))
        have := (mem_runners.1 (List.mem_filter.1 h).1).2
        rw [hp] at this
        exact absurd this nofun
      · split
        · next hb =>
          refine (hs.same p ((mem_sped_of_not_over ho).2 ⟨hp, hb⟩)).trans (Nat.mod_eq_of_lt ?_)
          have := s.fld_lt (rPwrPlot p) 19 16
          have := of_decide_eq_true hb
          unfold State.rateOf at this
          omega
        · next hb => exact hs.other _ _ _ (.inl (hout _ p fun h => hb ((mem_sped_of_not_over ho).1 h).2))
    · rw [capStep_held (by omega) (by omega)]
      exact ⟨fun _ _ => rfl, fun h => absurd h h1, fun h => absurd h h2, fun _ _ _ => rfl, fun _ _ _ _ => rfl⟩

/-- PWR_STAT and the power of every plot, as a round of the loop finds them. -/
def State.powersShown (s : State) (pin : Nat) (powers : Nat → Nat) : State :=
  (List.range 64).foldl (fun s p => s.setFld (rPwrPlot p) 47 32 (min 65535 (powers p))) (s.setFld rPwrStat 47 32 (min 65535 pin))

/-- The shares of the plots that run. -/
def State.sharesShown (s : State) (pin : Nat) (powers : Nat → Nat) : State :=
  s.runners.foldl (fun s p => s.setFld (rPwrPlot p) 63 48 (shareW (s.share pin powers p))) s

/-- The power of a plot among those measured. -/
def powerOf (plots : List (Nat × Nat)) (p : Nat) : Nat := match plots.find? (fun e => decide (e.1 = p)) with | some e => e.2 | none => 0

theorem exec_capLoop (pin : Nat) (plots : List (Nat × Nat)) : exec (.capLoop pin plots) s =
    if (s.powersShown pin (powerOf plots)).policy = 2 then .next (s.powersShown pin (powerOf plots))
    else .next (((s.powersShown pin (powerOf plots)).sharesShown pin (powerOf plots)).capStep pin (powerOf plots)) := rfl

theorem powersShown_frame (hc : s.Canonical) (pin : Nat) (powers : Nat → Nat) :
    Shown 32 s (s.powersShown pin powers) ∧ (s.powersShown pin powers).fld rPwrStat 47 32 = min 65535 pin ∧
      ∀ p, p < 64 → (s.powersShown pin powers).fld (rPwrPlot p) 47 32 = min 65535 (powers p) := by
  have h1 := hc.setFld rPwrStat 47 32 (min 65535 pin)
  have hs := fldsSet_foldl (g := fun p _ => min 65535 (powers p)) rPwrPlot_inj (by decide : 47 < 64) (by decide : 32 ≤ 47)
    (List.range 64) List.nodup_range h1
  refine ⟨(shown_stat s 47 32 _ 32).trans (shown_foldl (fun p hp => List.mem_range.1 hp) (fun u p hp => shown_plot u _ hp (by decide) (by decide)) _),
    ?_, fun p hp => (hs.same p (List.mem_range.2 hp)).trans (Nat.mod_eq_of_lt (by omega))⟩
  exact (hs.other rPwrStat 47 32 (.inl fun p _ => by unfold rPwrStat rPwrPlot; omega)).trans
    (State.setFld_fld_of_lt hc (by decide) (by decide) (by omega))

theorem sharesShown_shown (s : State) (pin : Nat) (powers : Nat → Nat) : Shown 48 s (s.sharesShown pin powers) :=
  shown_foldl runners_lt (fun u _ hp => shown_plot u _ hp (by decide) (by decide)) s

theorem sharesShown_stat (s : State) (pin : Nat) (powers : Nat → Nat) (hi lo : Nat) :
    (s.sharesShown pin powers).fld rPwrStat hi lo = s.fld rPwrStat hi lo :=
  List.foldlRecOn (motive := fun u : State => u.fld rPwrStat hi lo = s.fld rPwrStat hi lo) _ _ rfl fun _ hu _ _ =>
    (State.setFld_fld_other (by unfold rPwrStat rPwrPlot; omega) _ _ _ _ _).trans hu

theorem Shown.rateOf {m : Nat} (h : Shown m s s') (hc : s.Canonical) (hm : 32 ≤ m) (p : Nat) : s'.rateOf p = s.rateOf p :=
  h.low hc p 23 20 (by omega)

theorem Shown.belowCeil {m : Nat} (h : Shown m s s') (hc : s.Canonical) (hm : 32 ≤ m) (p : Nat) : s'.belowCeil p = s.belowCeil p := by
  rw [State.belowCeil, h.rateOf hc hm, h.low hc p 19 16 (by omega), State.belowCeil]

/-- The outcome of a round: powers shown, and the rates by the power of each plot against its share. -/
theorem capLoop_outcome (hc : s.Canonical) (pin : Nat) (plots : List (Nat × Nat)) :
    ∃ s', exec (.capLoop pin plots) s = .next s' ∧ s'.fld rPwrStat 47 32 = min 65535 pin ∧
      (∀ p, p < 64 → s'.fld (rPwrPlot p) 47 32 = min 65535 (powerOf plots p)) ∧
      (s.policy = 2 → ∀ p, s'.rateOf p = s.rateOf p) ∧
      (s.policy ≠ 2 → ∃ u, CapStepped pin (powerOf plots) u s' ∧ Shown 32 s u) := by
  obtain ⟨h1, h2, h3⟩ := powersShown_frame hc pin (powerOf plots)
  rw [exec_capLoop, h1.policy]
  have hs := sharesShown_shown (s.powersShown pin (powerOf plots)) pin (powerOf plots)
  have hstat := sharesShown_stat (s.powersShown pin (powerOf plots)) pin (powerOf plots) 47 32
  generalize s.powersShown pin (powerOf plots) = v at *
  have hcv := h1.canon hc
  split
  · next hp => exact ⟨_, rfl, h2, h3, fun _ p => h1.rateOf hc (by decide) p, fun h => absurd hp h⟩
  · next hp =>
    have hstep := capStep_stepped (hs.canon hcv) pin (powerOf plots)
    refine ⟨_, rfl, ?_, fun p hlt => ?_, fun h => absurd h hp, fun _ => ⟨_, hstep, h1.trans (hs.mono (by decide))⟩⟩
    · rw [hstep.other _ _ _ (.inl (by decide)), hstat, h2]
    · rw [hstep.other _ _ _ (.inr (by decide)), hs.low hcv p 47 32 (by decide), h3 p hlt]

end

end Sys2Proof.Machine
end

section
/-!
PROOFS. Hints, energy, droop, backfill, the supply with its shutdown, and heat (R402 to R412).
-/
namespace Sys2Proof.Machine

section
variable {s : State} {f : Nat}

/-! ### Hints and the cap's register (R402, R403) -/

theorem exec_heavyHintReceive {t : Site} {phase level mp mr : Nat} {rest : List (Site × SvcNote)}
    (hp : Picks (fun e => (isHeavy e.2).isSome) s.svc (t, .heavy phase level) rest) :
    (∀ p, s.virt t = some (p, 0, 0) → s.policy = 1 →
      exec (.heavyHintReceive mp mr) s = .next ({ s with svc := rest }.hint p phase level mp mr)) ∧
    (s.policy ≠ 1 → exec (.heavyHintReceive mp mr) s = .next { s with svc := rest }) := by
  have hv : ({ s with svc := rest } : State).virt t = s.virt t := by
    have hrow : ∀ p py, ({ s with svc := rest } : State).rowOf p py = s.rowOf p py :=
      State.rowOf_same rfl (fun _ _ => rfl) (fun _ _ _ _ => rfl)
    simp only [State.virt, hrow]
    rfl
  have hpol : ({ s with svc := rest } : State).policy = s.policy := rfl
  refine ⟨fun p hq hp1 => (whenSome_of (takeFirst_picks hp)).trans ?_, fun hp1 => (whenSome_of (takeFirst_picks hp)).trans ?_⟩
  · simp only [isHeavy, hv, hq, hpol, hp1, if_true]
  · simp only [isHeavy, hpol, hp1, if_false]
    split <;> rfl

theorem writeCapSet_frame (hc : s.Canonical) (v : Dword) :
    (s.writeCapSet v).fld rPwrCapSet 15 0 = max 4000 (min 42000 (Dword.field v 15 0)) ∧
      (s.writeCapSet v).fld rPwrCapSet 19 16 = Dword.field v 19 16 := by
  have h1 := hc.setFld rPwrCapSet 19 16 (Dword.field v 19 16)
  exact ⟨State.setFld_fld_of_lt h1 (by decide) (by decide) (by omega),
    (State.setFld_fld_field h1 _ (.inr (by decide)) (by decide)).trans
      (State.setFld_fld_of_lt hc (by decide) (by decide) (Dword.field_lt v 19 16))⟩

/-! ### Energy and droop (R404 to R406) -/

theorem State.count_fld_same (hc : s.Canonical) (a : Nat) {hi lo : Nat} (n : Nat) (h64 : hi < 64) (hl : lo ≤ hi) :
    (s.count a hi lo n).fld a hi lo = (s.fld a hi lo + n) % 2 ^ (hi + 1 - lo) :=
  State.setFld_fld_of_lt hc h64 hl (Nat.mod_lt _ (Nat.two_pow_pos _))

theorem State.count_fld_other {a b : Nat} (hb : b ≠ a) (hi lo n h l : Nat) : (s.count a hi lo n).fld b h l = s.fld b h l :=
  State.setFld_fld_other hb _ _ _ _ _

theorem State.Canonical.count (hc : s.Canonical) (a hi lo n : Nat) : (s.count a hi lo n).Canonical := hc.setFld _ _ _ _

theorem exec_energySample (hp : Config.fieldPresent f = true) {p q : Nat} (a b dev ein w : Nat) (hlp : p < 64) (hlq : q < 64) :
    exec (.energySample f [(p, a)] [(q, b)] dev ein w) s = .next (((((s.setFld (rPwrField f) 47 36 (min 4095 w)).count (rPwrEplot p) 63 0 a).count
      (rPwrEqueue q) 63 0 b).count rPwrEdev 63 0 dev).count rPwrEin 63 0 ein) := by
  refine (onUnit_of hp).trans ?_
  simp only [List.foldl_cons, List.foldl_nil, hlp, hlq, if_true]

theorem energySample_outcome (hc : s.Canonical) (hf : f < 64) (hp : Config.fieldPresent f = true) {p q : Nat} (a b dev ein w : Nat)
    (hlp : p < 64) (hlq : q < 64) : ∃ s', exec (.energySample f [(p, a)] [(q, b)] dev ein w) s = .next s' ∧
      s'.fld (rPwrEplot p) 63 0 = (s.fld (rPwrEplot p) 63 0 + a) % 2 ^ 64 ∧
      s'.fld (rPwrEqueue q) 63 0 = (s.fld (rPwrEqueue q) 63 0 + b) % 2 ^ 64 ∧
      s'.fld rPwrEdev 63 0 = (s.fld rPwrEdev 63 0 + dev) % 2 ^ 64 ∧ s'.fld rPwrEin 63 0 = (s.fld rPwrEin 63 0 + ein) % 2 ^ 64 ∧
      s'.fld (rPwrField f) 47 36 = min 4095 w := by
  refine ⟨_, exec_energySample hp a b dev ein w hlp hlq, ?_⟩
  have h1 := hc.setFld (rPwrField f) 47 36 (min 4095 w)
  have h2 := h1.count (rPwrEplot p) 63 0 a
  have h3 := h2.count (rPwrEqueue q) 63 0 b
  have h4 := h3.count rPwrEdev 63 0 dev
  have hset := State.setFld_fld_of_lt (a := rPwrField f) (v := min 4095 w) hc (by decide : 47 < 64) (by decide : 36 ≤ 47) (by omega)
  have hpq : rPwrEplot p ≠ rPwrEqueue q := by unfold rPwrEplot rPwrEqueue; omega
  have hpf : rPwrEplot p ≠ rPwrField f ∧ rPwrEqueue q ≠ rPwrField f := by unfold rPwrEplot rPwrEqueue rPwrField; omega
  have hd : rPwrEdev ≠ rPwrEin ∧ rPwrEdev ≠ rPwrEplot p ∧ rPwrEdev ≠ rPwrEqueue q ∧ rPwrEdev ≠ rPwrField f := by
    unfold rPwrEdev rPwrEin rPwrEplot rPwrEqueue rPwrField; omega
  have he : rPwrEin ≠ rPwrEplot p ∧ rPwrEin ≠ rPwrEqueue q ∧ rPwrEin ≠ rPwrField f := by
    unfold rPwrEin rPwrEplot rPwrEqueue rPwrField; omega
  obtain ⟨hd1, hd2, hd3, hd4⟩ := hd
  obtain ⟨he1, he2, he3⟩ := he
  refine ⟨?_, ?_, ?_, ?_, ?_⟩
  · rw [State.count_fld_other he1.symm, State.count_fld_other hd2.symm, State.count_fld_other hpq,
      State.count_fld_same h1 _ _ (by decide) (by decide), State.setFld_fld_other hpf.1]
  · rw [State.count_fld_other he2.symm, State.count_fld_other hd3.symm, State.count_fld_same h2 _ _ (by decide) (by decide),
      State.count_fld_other hpq.symm, State.setFld_fld_other hpf.2]
  · rw [State.count_fld_other hd1, State.count_fld_same h3 _ _ (by decide) (by decide), State.count_fld_other hd3,
      State.count_fld_other hd2, State.setFld_fld_other hd4]
  · rw [State.count_fld_same h4 _ _ (by decide) (by decide), State.count_fld_other hd1.symm, State.count_fld_other he2,
      State.count_fld_other he1, State.setFld_fld_other he3]
  · rw [State.count_fld_other he3.symm, State.count_fld_other hd4.symm, State.count_fld_other hpf.2.symm,
      State.count_fld_other hpf.1.symm, hset]

/-- The crossings of the last second, this one among them. -/
def State.recentDroops (s : State) (f : Nat) : List Nat := (s.fieldRt f).droops.filter (fun c => decide (s.cycle < c + second)) ++ [s.cycle]

/-- A crossing counts in PWR_FIELD, and issue stops. -/
def State.droopSeen (s : State) (f : Nat) : State :=
  (s.bump (rPwrField f) 63 48 1).onField f (fun r => { r with clamp := some 0, droops := s.recentDroops f })

theorem exec_droopCrossing (hp : Config.fieldPresent f = true) : exec (.droopCrossing f) s =
    .next (if 1000 < (s.recentDroops f).length then (s.droopSeen f).alarm 0x0003 wholeModule ((s.droopSeen f).fld (rPwrField f) 63 48)
      else s.droopSeen f) := onUnit_of hp

theorem droopCrossing_outcome (hc : s.Canonical) (hf : f < 64) (hp : Config.fieldPresent f = true) :
    ∃ s', exec (.droopCrossing f) s = .next s' ∧ s'.fld (rPwrField f) 63 48 = min 65535 (s.fld (rPwrField f) 63 48 + 1) ∧
      (s'.fieldRt f).clamp = some 0 ∧ ∀ c, c ∈ (s'.fieldRt f).droops ↔ (c ∈ (s.fieldRt f).droops ∧ s.cycle < c + second) ∨ c = s.cycle := by
  refine ⟨_, exec_droopCrossing hp, ?_⟩
  have hfld : (s.droopSeen f).fld (rPwrField f) 63 48 = min 65535 (s.fld (rPwrField f) 63 48 + 1) :=
    State.bump_fld_same hc _ _ (by decide) (by decide)
  have hrt : (s.droopSeen f).fieldRt f = { s.fieldRt f with clamp := some 0, droops := s.recentDroops f } :=
    State.onField_fieldRt_same (hc.bump _ _ _ _) f _
  have hmem : ∀ c, c ∈ s.recentDroops f ↔ (c ∈ (s.fieldRt f).droops ∧ s.cycle < c + second) ∨ c = s.cycle := fun c => by
    simp [State.recentDroops]
  have ht : ∀ n, ((s.droopSeen f).alarm 0x0003 wholeModule n).fld (rPwrField f) 63 48 = (s.droopSeen f).fld (rPwrField f) 63 48 := fun n =>
    (told_alarm _ _ _ _).fld (by simp only [toldRegs, List.mem_cons, List.not_mem_nil, or_false, rPwrField, rTelemDrop, rTelemStat]; omega) _ _
  have hrt' : ∀ n, ((s.droopSeen f).alarm 0x0003 wholeModule n).fieldRt f = (s.droopSeen f).fieldRt f := fun n => rfl
  split
  · rw [ht, hrt', hrt]
    exact ⟨hfld, rfl, hmem⟩
  · rw [hrt]
    exact ⟨hfld, rfl, hmem⟩

theorem exec_droopClampStep (hp : Config.fieldPresent f = true) {n : Nat} (hn : (s.fieldRt f).clamp = some n) :
    exec (.droopClampStep f) s = .next (s.onField f (fun r => { r with clamp := if 15 ≤ n then none else some (n + 1) })) :=
  (onUnit_of hp).trans (whenSome_of hn)

/-! ### Heat (R411, R412) -/

/-- The samples of a field's four sites. -/
def State.sampled (s : State) (f t0 t1 t2 t3 : Nat) : State :=
  s.setFld (rThmField f) 31 0 (min 255 t0 + min 255 t1 * 2 ^ 8 + min 255 t2 * 2 ^ 16 + min 255 t3 * 2 ^ 24)

theorem sampled_frame (hc : s.Canonical) {t0 t1 t2 t3 : Nat} (h0 : t0 < 256) (h1 : t1 < 256) (h2 : t2 < 256) (h3 : t3 < 256) :
    (s.sampled f t0 t1 t2 t3).fld (rThmField f) 7 0 = t0 ∧ (s.sampled f t0 t1 t2 t3).fld (rThmField f) 15 8 = t1 ∧
      (s.sampled f t0 t1 t2 t3).fld (rThmField f) 23 16 = t2 ∧ (s.sampled f t0 t1 t2 t3).fld (rThmField f) 31 24 = t3 := by
  have hin : ∀ h l, 0 ≤ l → h ≤ 31 → (s.sampled f t0 t1 t2 t3).fld (rThmField f) h l =
      (min 255 t0 + min 255 t1 * 2 ^ 8 + min 255 t2 * 2 ^ 16 + min 255 t3 * 2 ^ 24) / 2 ^ (l - 0) % 2 ^ (h + 1 - l) := fun h l hl hh =>
    State.setFld_fld_inside hc _ _ (by decide) hl hh (by decide)
  rw [hin 7 0 (by decide) (by decide), hin 15 8 (by decide) (by decide), hin 23 16 (by decide) (by decide), hin 31 24 (by decide) (by decide)]
  omega

theorem thermalSample_outcome (hc : s.Canonical) (hp : Config.fieldPresent f = true) {t0 t1 t2 t3 : Nat}
    (h0 : t0 < 256) (h1 : t1 < 256) (h2 : t2 < 256) (h3 : t3 < 256) : ∃ s1 : State, s1.fld (rThmField f) 7 0 = t0 ∧
      s1.fld (rThmField f) 15 8 = t1 ∧ s1.fld (rThmField f) 23 16 = t2 ∧ s1.fld (rThmField f) 31 24 = t3 ∧
      (∀ a, a ≠ rThmField f → s1.reg a = s.reg a) ∧ s1.temp f = max (max t0 t1) (max t2 t3) ∧
      exec (.thermalSample f t0 t1 t2 t3) s = .next (((s1.showHeat f).heatCeil f).heatState f) := by
  obtain ⟨k0, k1, k2, k3⟩ := sampled_frame (f := f) hc h0 h1 h2 h3
  exact ⟨s.sampled f t0 t1 t2 t3, k0, k1, k2, k3, fun a ha => State.setFld_reg_other ha _ _ _, by rw [State.temp, k0, k1, k2, k3], onUnit_of hp⟩

theorem heatCeil_between (h1 : s.temp f < s.fld rThmCfg 7 0) (h2 : s.fld rThmCfg 7 0 ≤ s.temp f + 3) :
    s.heatCeil f = s.onField f (fun r => { r with below := 0, warm := 0 }) :=
  (if_neg (by omega)).trans (if_neg (by omega))

theorem heatCeil_down (hc : s.Canonical) (h1 : s.fld rThmCfg 7 0 ≤ s.temp f) (h2 : 10 ≤ (s.fieldRt f).below + 1) :
    (s.heatCeil f).fld (rPwrField f) 35 32 = s.fld (rPwrField f) 35 32 - 1 := by
  have hlt := s.fld_lt (rPwrField f) 35 32
  have hset : ∀ u : State, u.Canonical → ∀ g : FieldRt → FieldRt,
      ((u.setFld (rPwrField f) 35 32 (s.fld (rPwrField f) 35 32 - 1)).onField f g).fld (rPwrField f) 35 32 = s.fld (rPwrField f) 35 32 - 1 :=
    fun u hu g => State.setFld_fld_of_lt hu (by decide) (by decide) (by omega)
  have he : s.heatCeil f = _ := (if_pos h1).trans (if_neg (by omega))
  rw [he]
  dsimp only
  split
  · exact hset s hc _
  · exact hset _ ((told_event _ _ _ _).canon hc) _

/-! ### Backfill (R407) -/

theorem exec_backfillStep_down {t : Site} (hl : s.Live t) {r : Nat} (hb : (s.tile t).backfill = some r) (h : s.fld rPwrBf 7 4 + 1 < r)
    (hk : (s.core t).blocked ≠ some (.bar 15)) : exec (.backfillStep t) s = .next (s.onTile t (fun x => { x with backfill := some (r - 1) })) := by
  refine (onTile_live hl).trans ?_
  simp only [hb]
  exact when_of (by simp [h, hk])

theorem exec_backfillStep_up {t : Site} (hl : s.Live t) {r : Nat} (hb : (s.tile t).backfill = none) (hr : (s.tile t).climb = some r) :
    exec (.backfillStep t) s = .next (s.onTile t (fun x => { x with climb := if s.rateGoal t ≤ r + 1 then none else some (r + 1) })) := by
  refine (onTile_live hl).trans ?_
  simp only [hb, hr]

/-! ### Thresholds (R412) -/

theorem writeThmCfg_frame (hc : s.Canonical) (v : Dword) : (s.writeThmCfg v).fld rThmCfg 7 0 = min 95 (Dword.field v 7 0) ∧
    (s.writeThmCfg v).fld rThmCfg 15 8 = min 105 (Dword.field v 15 8) ∧
    (s.writeThmCfg v).fld rThmCfg 23 16 = min 115 (Dword.field v 23 16) := by
  have h1 := hc.setFld rThmCfg 23 16 (min 115 (Dword.field v 23 16))
  have h2 := h1.setFld rThmCfg 15 8 (min 105 (Dword.field v 15 8))
  refine ⟨State.setFld_fld_of_lt h2 (by decide) (by decide) (by omega), ?_, ?_⟩
  · exact (State.setFld_fld_field h2 _ (.inr (by decide)) (by decide)).trans (State.setFld_fld_of_lt h1 (by decide) (by decide) (by omega))
  · exact (State.setFld_fld_field h2 _ (.inr (by decide)) (by decide)).trans ((State.setFld_fld_field h1 _ (.inr (by decide)) (by decide)).trans
      (State.setFld_fld_of_lt hc (by decide) (by decide) (by omega)))

/-! ### The supply (R408 to R410) -/

/-- PWR_STAT, the dips that PWR_SUPPLY counts, and the samples in a row. -/
def State.dipCounted (s : State) (vin : Nat) : State :=
  let s := s.setFld rPwrStat 63 48 (min 65535 vin)
  if decide (4600 ≤ vin) && decide (0 < s.supply.low46) && decide (s.supply.low46 ≤ 40) then s.bump rPwrSupply 63 48 1 else s

/-- Good samples in a row while a warning stands. -/
def State.goodRow (s : State) (vin : Nat) : Nat :=
  if decide (s.fld rPwrSupply 0 0 = 1) && decide (5000 < vin) then s.supply.good + 1 else 0

/-- The lowest sample of the dip. -/
def State.lowestOf (s : State) (vin : Nat) : Nat :=
  if decide (s.fld rPwrSupply 0 0 = 1) || decide (0 < s.supply.low49) then min s.supply.lowest vin else vin

def State.rowsCounted (s : State) (vin : Nat) : State :=
  (s.dipCounted vin).onSupply (fun u => { u with
    low49 := if vin < 4900 then s.supply.low49 + 1 else 0, low46 := if vin < 4600 then s.supply.low46 + 1 else 0,
    over58 := if 5800 < vin then s.supply.over58 + 1 else 0, over60 := if 6000 < vin then s.supply.over60 + 1 else 0,
    good := s.goodRow vin, lowest := s.lowestOf vin, vin := vin })

/-- A warning is entered, or ends. -/
def State.warns (s : State) (low : Nat) : State := if 2 ≤ low then s.warnSupply else s
def State.calms (s : State) (good : Nat) : State := if 2000 ≤ good then s.endWarn else s
def State.tooHigh (s : State) (high : Nat) : State :=
  if high = 2000 then s.alarm 0x0004 wholeModule (s.reg rPwrStat).toNat else s

theorem supplySample_eq (s : State) (vin : Nat) : s.supplySample vin =
    let low49 := if vin < 4900 then s.supply.low49 + 1 else 0
    let low46 := if vin < 4600 then s.supply.low46 + 1 else 0
    let high58 := if 5800 < vin then s.supply.over58 + 1 else 0
    let high60 := if 6000 < vin then s.supply.over60 + 1 else 0
    let u := (((s.rowsCounted vin).warns low49).calms (s.goodRow vin)).tooHigh high58
    if decide (41 ≤ low46) || decide (40 ≤ high60) then u.beginShutdown else u := by
  simp only [State.supplySample, State.rowsCounted, State.dipCounted, State.warns, State.calms, State.tooHigh, State.goodRow, State.lowestOf]
  rfl

/-- The input voltage and the bit of a shutdown stay. -/
structure Supplied (s s' : State) : Prop where
  canon : s.Canonical → s'.Canonical
  stat  : ∀ hi lo, s'.fld rPwrStat hi lo = s.fld rPwrStat hi lo
  down  : s.Canonical → s'.shutDown = s.shutDown
  vin   : s'.supply.vin = s.supply.vin

theorem Supplied.refl (s : State) : Supplied s s := ⟨id, fun _ _ => rfl, fun _ => rfl, rfl⟩

theorem Supplied.trans {s' s'' : State} (h : Supplied s s') (k : Supplied s' s'') : Supplied s s'' :=
  ⟨fun hc => k.canon (h.canon hc), fun hi lo => (k.stat hi lo).trans (h.stat hi lo),
    fun hc => (k.down (h.canon hc)).trans (h.down hc), k.vin.trans h.vin⟩

theorem Told.supplied {s' : State} (h : Told s s') : Supplied s s' :=
  ⟨h.canon, h.fld (by decide), fun _ => by rw [State.shutDown, h.fld (by decide), State.shutDown], by rw [h.rest]⟩

/-- A field of PWR_SUPPLY beside the bit of a shutdown. -/
theorem supplied_setFld (s : State) {hi lo : Nat} (v : Nat) (h : 2 < lo ∨ hi < 2) (hl : lo ≤ hi) : Supplied s (s.setFld rPwrSupply hi lo v) :=
  ⟨fun hc => hc.setFld _ _ _ _, fun _ _ => State.setFld_fld_other (by decide) _ _ _ _ _,
    fun hc => by rw [State.shutDown, State.setFld_fld_field hc v h hl, State.shutDown], rfl⟩

theorem supplied_onSupply (s : State) (g : Supply → Supply) (h : (g s.supply).vin = s.supply.vin) : Supplied s (s.onSupply g) :=
  ⟨fun hc => { hc with }, fun _ _ => rfl, fun _ => rfl, h⟩

theorem supplied_warns (s : State) (n : Nat) : Supplied s (s.warns n) := by
  unfold State.warns State.warnSupply
  split
  · split
    · exact .refl s
    · exact ((supplied_setFld s 3 (.inr (by decide)) (by decide)).trans (supplied_setFld _ _ (.inl (by decide)) (by decide))).trans
        (supplied_onSupply _ _ rfl)
  · exact .refl s

theorem supplied_calms (s : State) (n : Nat) : Supplied s (s.calms n) := by
  unfold State.calms State.endWarn
  split
  · exact (supplied_setFld s 0 (.inr (by decide)) (by decide)).trans (told_event _ _ _ _).supplied
  · exact .refl s

theorem supplied_tooHigh (s : State) (n : Nat) : Supplied s (s.tooHigh n) := by
  unfold State.tooHigh
  split
  · exact (told_alarm _ _ _ _).supplied
  · exact .refl s

theorem rowsCounted_frame (hc : s.Canonical) {vin : Nat} (hv : vin < 65536) : (s.rowsCounted vin).Canonical ∧
    (s.rowsCounted vin).fld rPwrStat 63 48 = vin ∧ (s.rowsCounted vin).shutDown = s.shutDown ∧ (s.rowsCounted vin).supply.vin = vin := by
  have h1 := hc.setFld rPwrStat 63 48 (min 65535 vin)
  have hstat : (s.setFld rPwrStat 63 48 (min 65535 vin)).fld rPwrStat 63 48 = vin :=
    (State.setFld_fld_of_lt hc (by decide) (by decide) (by omega)).trans (by omega)
  have hdown : (s.setFld rPwrStat 63 48 (min 65535 vin)).shutDown = s.shutDown := by
    rw [State.shutDown, State.setFld_fld_other (by decide), State.shutDown]
  have hd : (s.dipCounted vin).Canonical ∧ (s.dipCounted vin).fld rPwrStat 63 48 = vin ∧ (s.dipCounted vin).shutDown = s.shutDown := by
    dsimp only [State.dipCounted]
    split
    · have hs := supplied_setFld (s.setFld rPwrStat 63 48 (min 65535 vin)) (hi := 63) (lo := 48)
        (min (2 ^ (63 + 1 - 48) - 1) ((s.setFld rPwrStat 63 48 (min 65535 vin)).fld rPwrSupply 63 48 + 1)) (.inl (by decide)) (by decide)
      exact ⟨hs.canon h1, (hs.stat _ _).trans hstat, (hs.down h1).trans hdown⟩
    · exact ⟨h1, hstat, hdown⟩
  obtain ⟨k1, k2, k3⟩ := hd
  exact ⟨{ k1 with }, k2, k3, rfl⟩

theorem warns_low (hc : s.Canonical) {n : Nat} (h : 2 ≤ n) : (s.warns n).fld rPwrSupply 0 0 = 1 := by
  rw [State.warns, if_pos h, State.warnSupply]
  split
  · next h => exact h
  · have h1 := hc.setFld rPwrSupply 1 0 3
    exact (State.setFld_fld_field h1 _ (.inl (by decide)) (by decide)).trans
      (State.setFld_fld_inside hc _ 3 (by decide) (by decide) (by decide) (by decide))

theorem beginShutdown_frame (hc : s.Canonical) : s.beginShutdown.shutDown = true ∧ s.beginShutdown.supply.vin = s.supply.vin ∧
    s.beginShutdown.fld rPwrSupply 0 0 = s.fld rPwrSupply 0 0 ∧ ∀ hi lo, s.beginShutdown.fld rPwrStat hi lo = s.fld rPwrStat hi lo := by
  unfold State.beginShutdown
  split
  · next h => exact ⟨h, rfl, rfl, fun _ _ => rfl⟩
  · have hset : (s.setFld rPwrSupply 2 2 1).fld rPwrSupply 2 2 = 1 := State.setFld_fld_of_lt hc (by decide) (by decide) (by decide)
    exact ⟨decide_eq_true hset, rfl, State.setFld_fld_field hc 1 (.inl (by decide)) (by decide),
      fun _ _ => State.setFld_fld_other (by decide) _ _ _ _ _⟩

theorem supplySample_outcome (hc : s.Canonical) {vin : Nat} (hv : vin < 65536) :
    let s' := s.supplySample vin
    s'.fld rPwrStat 63 48 = vin ∧ s'.supply.vin = vin ∧ (vin < 4900 → 1 ≤ s.supply.low49 → s'.fld rPwrSupply 0 0 = 1) ∧
      (vin < 4600 → 40 ≤ s.supply.low46 → s'.shutDown = true) ∧ (6000 < vin → 39 ≤ s.supply.over60 → s'.shutDown = true) ∧
      (s.shutDown = false → ¬ (vin < 4600 ∧ 40 ≤ s.supply.low46) → ¬ (6000 < vin ∧ 39 ≤ s.supply.over60) → s'.shutDown = false) := by
  obtain ⟨h0, hstat, hdown, hvin⟩ := rowsCounted_frame hc hv
  have hgood : vin < 4900 → s.goodRow vin = 0 := fun h => by
    have : ¬ 5000 < vin := by omega
    simp [State.goodRow, this]
  dsimp only
  rw [supplySample_eq]
  dsimp only
  generalize hlow : (if vin < 4900 then s.supply.low49 + 1 else 0) = low49
  generalize hlow6 : (if vin < 4600 then s.supply.low46 + 1 else 0) = low46
  generalize hhigh : (if 6000 < vin then s.supply.over60 + 1 else 0) = high60
  generalize (if 5800 < vin then s.supply.over58 + 1 else 0) = high58
  generalize s.rowsCounted vin = v at *
  have hall := ((supplied_warns v low49).trans (supplied_calms _ (s.goodRow vin))).trans (supplied_tooHigh _ high58)
  have hwarn : vin < 4900 → 1 ≤ s.supply.low49 → (((v.warns low49).calms (s.goodRow vin)).tooHigh high58).fld rPwrSupply 0 0 = 1 := by
    intro h1 h2
    have ht : ∀ u : State, (u.tooHigh high58).fld rPwrSupply 0 0 = u.fld rPwrSupply 0 0 := fun u => by
      unfold State.tooHigh
      split <;> rfl
    rw [ht, hgood h1]
    exact warns_low h0 (by rw [if_pos h1] at hlow; omega)
  generalize ((v.warns low49).calms (s.goodRow vin)).tooHigh high58 = u at *
  have hu := hall.canon h0
  have husat := (hall.stat 63 48).trans hstat
  have hud := (hall.down h0).trans hdown
  have huv := hall.vin.trans hvin
  obtain ⟨k1, k2, k3, k4⟩ := beginShutdown_frame hu
  split
  · next h =>
    refine ⟨(k4 _ _).trans husat, k2.trans huv, fun h1 h2 => k3.trans (hwarn h1 h2), fun _ _ => k1, fun _ _ => k1, fun _ hn1 hn2 => ?_⟩
    simp only [Bool.or_eq_true, decide_eq_true_eq] at h
    split at hlow6 <;> split at hhigh <;> omega
  · next h =>
    simp only [Bool.or_eq_true, decide_eq_true_eq] at h
    refine ⟨husat, huv, hwarn, fun h1 h2 => ?_, fun h1 h2 => ?_, fun hs _ _ => hud.trans hs⟩
    · rw [if_pos h1] at hlow6
      omega
    · rw [if_pos h1] at hhigh
      omega

/-- PWR_SUPPLY shows an overload, which raises one ALARM. -/
def State.overloadShown (s : State) : State :=
  if s.fld rPwrSupply 3 3 = 1 then s
  else (s.setFld rPwrSupply 3 3 1).alarm 0x0004 wholeModule ((s.setFld rPwrSupply 3 3 1).reg rPwrStat).toNat

/-- The rate of every plot goes down. -/
def State.allSlowed (s : State) : State := (List.range 64).foldl (fun s p => s.setRate p (s.rateOf p - 1)) s

theorem allSlowed_set (hc : s.Canonical) : FldsSet rPwrPlot (List.range 64) 23 20 (fun _ n => n - 1) s s.allSlowed :=
  fldsSet_foldl rPwrPlot_inj (by decide) (by decide) _ List.nodup_range hc

theorem State.onSupply_fld (s : State) (g : Supply → Supply) (a hi lo : Nat) : (s.onSupply g).fld a hi lo = s.fld a hi lo := rfl

theorem exec_overloadStep_low {avg : Nat} (h : avg ≤ 42000) : exec (.overloadStep avg) s = .next (s.onSupply (fun u => { u with drops := 0 })) :=
  if_neg (by simpa using h)

theorem exec_overloadStep_high {avg : Nat} (h : 42000 < avg) : exec (.overloadStep avg) s =
    .next (s.overloadShown.allSlowed.onSupply (fun u => { u with drops := min 15 (u.drops + 1) })) := if_pos (by simpa using h)

theorem overloadShown_frame (hc : s.Canonical) : s.overloadShown.Canonical ∧ s.overloadShown.fld rPwrSupply 3 3 = 1 ∧
    s.overloadShown.supply = s.supply ∧ ∀ p, s.overloadShown.rateOf p = s.rateOf p := by
  unfold State.overloadShown
  split
  · next h => exact ⟨hc, h, rfl, fun _ => rfl⟩
  · exact ⟨(told_alarm _ _ _ _).canon (hc.setFld _ _ _ _), State.setFld_fld_of_lt hc (by decide) (by decide) (by decide), rfl,
      fun p => State.setFld_fld_other (by unfold rPwrPlot rPwrSupply; omega) _ _ _ _ _⟩

theorem allSlowed_frame (hc : s.Canonical) : s.allSlowed.fld rPwrSupply 3 3 = s.fld rPwrSupply 3 3 ∧ s.allSlowed.supply = s.supply ∧
    ∀ p, p < 64 → s.allSlowed.rateOf p = s.rateOf p - 1 := by
  have hs := allSlowed_set hc
  refine ⟨hs.other _ _ _ (.inl fun p _ => by unfold rPwrSupply rPwrPlot; omega), by rw [hs.rest], fun p hp => ?_⟩
  refine (hs.same p (List.mem_range.2 hp)).trans (Nat.mod_eq_of_lt ?_)
  have := s.fld_lt (rPwrPlot p) 23 20
  omega

theorem overloadStep_outcome (hc : s.Canonical) {avg : Nat} (h : 42000 < avg) : ∃ s', exec (.overloadStep avg) s = .next s' ∧
    s'.fld rPwrSupply 3 3 = 1 ∧ s'.supply.drops = min 15 (s.supply.drops + 1) ∧ ∀ p, p < 64 → s'.rateOf p = s.rateOf p - 1 := by
  obtain ⟨h1, h2, h3, h4⟩ := overloadShown_frame hc
  obtain ⟨k1, k2, k3⟩ := allSlowed_frame h1
  refine ⟨_, exec_overloadStep_high h, ?_, ?_, fun p hp => ?_⟩
  · rw [State.onSupply_fld, k1, h2]
  · rw [← h3, ← k2]
    rfl
  · rw [State.rateOf, State.onSupply_fld, ← State.rateOf, k3 p hp, h4]

theorem fieldDark_other (s : State) (hf : f < 64) {g : Nat} (hg : g ≠ f) (hg64 : g < 64) : (s.fieldDark f).fieldState g = s.fieldState g := by
  rw [fieldDark_eq]
  refine (showClkOut_fld _ (by unfold rPwrField rClkOut; omega) _ _).trans ((State.setFld_fld_other (rPwrField_ne_rClkField hf g) _ _ _ _ _).trans ?_)
  exact State.setFld_fld_other (by unfold rPwrField; omega) _ _ _ _ _

theorem fieldDark_canonical (hc : s.Canonical) (f : Nat) : (s.fieldDark f).Canonical := (State.fieldDark_keeps hc.keeps).canon

/-- Every field of a list is dark in the end, and one that is dark stays so. -/
theorem fieldsDark_state : ∀ (l : List Nat), (∀ g ∈ l, g < 64) → ∀ {s : State}, s.Canonical → ∀ g, g < 64 → (g ∈ l ∨ s.fieldState g = 2) →
    (l.foldl (fun s f => s.fieldDark f) s).fieldState g = 2
  | [], _, _, _, g, _, h => h.resolve_left List.not_mem_nil
  | k :: l, hl, s, hc, g, hg, h => by
    refine fieldsDark_state l (fun g hg => hl g (List.mem_cons_of_mem _ hg)) (fieldDark_canonical hc k) g hg ?_
    by_cases hk : g = k
    · exact .inr (hk ▸ (fieldDark_fields hc (hl k List.mem_cons_self)).1)
    · rcases h with h | h
      · exact .inl ((List.mem_cons.1 h).resolve_left hk)
      · exact .inr ((fieldDark_other s (hl k List.mem_cons_self) hk hg).trans h)

/-- The fields that go dark in the second stage. -/
def darkFields : List Nat := (List.range 64).filter (fun f => Config.fieldPresent f && !stewardFields.contains f)

theorem exec_shutdownStage_fences (h : s.supply.stage = 1) : exec .shutdownStage s =
    .next ((((List.range 64).filter s.plotValid).foldl (fun s p => s.fence p fcSupply 0xFFFF) s).onSupply (fun u => { u with stage := 2 })) := by
  change execShutdownStage s = _
  simp only [execShutdownStage, h]

theorem exec_shutdownStage_darkens (h : s.supply.stage = 2) : exec .shutdownStage s =
    .next ((darkFields.foldl (fun s f => s.fieldDark f) s).onSupply (fun u => { u with stage := 3 })) := by
  change execShutdownStage s = _
  simp only [execShutdownStage, h]
  rfl

/-- The steward fields' tiles go DARK, loam loses everything, and PWR_OK falls. -/
def State.powerLost (s : State) : State :=
  let s := stewardFields.foldl (fun s f => s.eachInField f State.darken) s
  { s with mem := s.mem.filter (fun e => decide (e.1 < 0x200000000000) || !decide (e.1 < 0x400000000000)), pwrOk := false }

theorem exec_shutdownStage_ends (h : s.supply.stage = 3) : exec .shutdownStage s =
    .next (s.powerLost.onSupply (fun u => { u with stage := 4 })) := by
  change execShutdownStage s = _
  simp only [execShutdownStage, h]
  rfl

end

/-- Settles O56: the rounds of the cap by each plot's share, and every sample by what it counts and shows. -/
theorem powerIsHeldInBounds : Obligations.PowerIsHeldInBounds := by
  intro s f hc
  refine ⟨fun pin plots => ?_, fun t phase level rest mp mr hp => exec_heavyHintReceive hp, fun v => ⟨_, rfl, ?_⟩, fun hp hf => ?_, fun t hl => ?_,
    fun vin ha hv => ⟨_, when_of ha, supplySample_outcome hc hv⟩, fun hz hs => when_of (by simp [hz, hs]),
    fun avg => ⟨exec_overloadStep_low, overloadStep_outcome hc⟩, fun h => ⟨_, exec_shutdownStage_fences h, rfl⟩,
    fun h => ⟨_, exec_shutdownStage_darkens h, rfl, fun g hg hp hn => ?_⟩, fun h => ⟨_, exec_shutdownStage_ends h, rfl, rfl⟩,
    fun v => ⟨_, rfl, writeThmCfg_frame hc v⟩⟩
  · obtain ⟨s', he, h1, h2, h3, h4⟩ := capLoop_outcome hc pin plots
    refine ⟨s', he, h1, h2, fun h p _ => h3 h p, fun h => ?_⟩
    obtain ⟨u, hs, hu⟩ := h4 h
    have hrate := hu.rateOf hc (by decide)
    have hrun : ∀ p, u.running p = s.running p := fun p => by rw [hu.rest]; rfl
    have hover : ∀ p, u.overShare pin (powerOf plots) p ↔ s.overShare pin (powerOf plots) p := fun p => by
      rw [State.overShare, hu.share hc (by decide), State.overShare]
    have hmem : ∀ p, p ∈ u.runners ↔ p < 64 ∧ s.running p = true := fun p => by rw [mem_runners, hrun]
    refine ⟨fun p hp hn => ?_, fun hcap p hp hr ha => ?_, fun hcap hno p hp hr => ?_, fun hcap p hp hr hn => ?_, fun h5 h6 p hp => ?_⟩
    · rw [hs.idle p (by rw [hrun]; exact hn), hrate]
    · rw [hs.above (by rw [hu.cap]; exact hcap) p (mem_slowed.2 ⟨(hmem p).2 ⟨hp, hr⟩, fun _ => (hover p).2 ha⟩), hrate]
    · rw [hs.above (by rw [hu.cap]; exact hcap) p (mem_slowed.2 ⟨(hmem p).2 ⟨hp, hr⟩, fun ⟨q, hq, ho⟩ =>
        absurd ((hover q).1 ho) (hno q ((hmem q).1 hq).1 ((hmem q).1 hq).2)⟩), hrate]
    · rw [hs.below (by rw [hu.cap]; exact hcap) p ((hmem p).2 ⟨hp, hr⟩) (mt (hover p).1 hn), hu.belowCeil hc (by decide), hrate]
    · rw [hs.held (by rw [hu.cap]; exact h5) (by rw [hu.cap]; exact h6), hrate]
  · obtain ⟨h1, h2⟩ := writeCapSet_frame hc v
    rw [h1, h2]
    omega
  · refine ⟨fun p q a b dev ein w => energySample_outcome hc hf hp a b dev ein w, droopCrossing_outcome hc hf hp,
      fun n hn => ⟨_, exec_droopClampStep hp hn, by rw [State.onField_fieldRt_same hc]⟩, fun t0 t1 t2 t3 => thermalSample_outcome hc hp,
      fun h1 h2 => by rw [heatCeil_between h1 h2]; rfl, heatCeil_down hc⟩
  · exact ⟨fun r hb h hk => ⟨_, exec_backfillStep_down hl hb h hk, by rw [State.onTile_tile hc]⟩,
      fun r hb hr => ⟨_, exec_backfillStep_up hl hb hr, by rw [State.onTile_tile hc]⟩⟩
  · rw [State.fieldState, State.onSupply_fld]
    refine fieldsDark_state darkFields (fun g hg => List.mem_range.1 (List.mem_filter.1 hg).1) hc g hg (.inl ?_)
    exact List.mem_filter.2 ⟨List.mem_range.2 hg, by simp [hp, hn]⟩

end Sys2Proof.Machine
end

section
/-!
PROOFS. What leaves by the host ports, commands that complete, and shadow sets that are cancelled (R346, R349, R356, R371).
-/
namespace Sys2Proof.Machine

/-! ### What leaves the module -/

/-- Only queue q, what the ports hold and what has left differ; queue q gets no new command. -/
structure HostOnly (q : Nat) (s s' : State) : Prop where
  rest  : s' = { s with hostQ := s'.hostQ, hostPorts := s'.hostPorts, out := s'.out }
  canon : s.Canonical → s'.Canonical
  other : ∀ r, r ≠ q → s'.hostq r = s.hostq r
  sub   : s.Canonical → ∀ c ∈ (s'.hostq q).cmds, c ∈ (s.hostq q).cmds

section
variable {q : Nat} {s s' s'' : State}

theorem HostOnly.refl (q : Nat) (s : State) : HostOnly q s s := ⟨rfl, id, fun _ _ => rfl, fun _ _ h => h⟩

theorem HostOnly.trans (h : HostOnly q s s') (k : HostOnly q s' s'') : HostOnly q s s'' where
  rest := by rw [k.rest, h.rest]
  canon := fun hc => k.canon (h.canon hc)
  other := fun r hr => (k.other r hr).trans (h.other r hr)
  sub := fun hc c hm => h.sub hc c (k.sub (h.canon hc) c hm)

theorem HostOnly.reg (h : HostOnly q s s') (a : Nat) : s'.reg a = s.reg a := by
  rw [h.rest]
  rfl

theorem HostOnly.fld (h : HostOnly q s s') (a hi lo : Nat) : s'.fld a hi lo = s.fld a hi lo := by rw [State.fld, h.reg, State.fld]

theorem HostOnly.plot (h : HostOnly q s s') (p : Nat) : s'.plot p = s.plot p := by
  rw [h.rest]
  rfl

theorem hostOnly_foldl {α : Type} {f : State → α → State} (hf : ∀ s x, HostOnly q s (f s x)) (l : List α) (s : State) :
    HostOnly q s (l.foldl f s) :=
  List.foldlRecOn (motive := HostOnly q s) l f (.refl q s) fun _ hu x _ => hu.trans (hf _ x)

theorem hostOut_rest (s : State) (o : HostOut) : s.hostOut o = { s with hostPorts := (s.hostOut o).hostPorts, out := (s.hostOut o).out } := by
  unfold State.hostOut
  split
  · split <;> rfl
  · rfl

theorem hostOnly_hostOut (q : Nat) (s : State) (o : HostOut) : HostOnly q s (s.hostOut o) where
  rest := by rw [hostOut_rest]
  canon := fun hc => (State.hostOut_keeps hc.keeps).canon
  other := fun r _ => by rw [hostOut_rest]; rfl
  sub := fun _ c hm => by rw [hostOut_rest] at hm; exact hm

theorem hostOut_hostq (s : State) (o : HostOut) (r : Nat) : (s.hostOut o).hostq r = s.hostq r := by
  rw [hostOut_rest]
  rfl

/-- A queue with the record of a command that has ended. -/
def HostQueue.withRecord (h : HostQueue) (c : HostCmd) (x : Completion) : HostQueue :=
  { h with cmds := h.cmds.filter (fun y => decide (y.seq ≠ c.seq)), done := (h.done ++ [x]).drop (h.done.length - 63) }

theorem record_eq (s : State) (q : Nat) (c : HostCmd) (status detail : Nat) (data : List Byte) : ∃ x : Completion,
    s.record q c status detail data = (s.onHostq q (fun h => h.withRecord c x)).hostOut (.frame c.port x.frame) := ⟨_, rfl⟩

/-- The record of a command takes it from its queue. -/
theorem record_outcome (hc : s.Canonical) (q : Nat) (c : HostCmd) (status detail : Nat) (data : List Byte) (x : HostCmd) :
    x ∈ ((s.record q c status detail data).hostq q).cmds ↔ x ∈ (s.hostq q).cmds ∧ x.seq ≠ c.seq := by
  obtain ⟨y, hy⟩ := record_eq s q c status detail data
  rw [hy, hostOut_hostq, State.onHostq_hostq_same hc]
  simp [HostQueue.withRecord]

theorem hostOnly_record (s : State) (q : Nat) (c : HostCmd) (status detail : Nat) (data : List Byte) :
    HostOnly q s (s.record q c status detail data) := by
  obtain ⟨y, hy⟩ := record_eq s q c status detail data
  refine ⟨?_, fun hc => (State.record_keeps hc.keeps).canon, fun r hr => ?_, fun hc x hx => ((record_outcome hc q c status detail data x).1 hx).1⟩
  · rw [hy, hostOut_rest]
    rfl
  · rw [hy, hostOut_hostq]
    exact State.onHostq_hostq_other hr _

/-- The ABORTs that wait for a command that has ended complete after it. -/
def State.releaseWaiting (s : State) (q status : Nat) (waiting : List HostCmd) : State :=
  waiting.foldl (fun s a => if status = stAborted then s.record q a stOk 0 [] else s.record q a stAlready status []) s

theorem hostOnly_releaseWaiting (s : State) (q status : Nat) (l : List HostCmd) : HostOnly q s (s.releaseWaiting q status l) := by
  refine hostOnly_foldl (fun u a => ?_) l s
  split
  · exact hostOnly_record u q a _ _ _
  · exact hostOnly_record u q a _ _ _

theorem complete_eq (s : State) (q : Nat) (c : HostCmd) (status detail : Nat) (data : List Byte) : s.complete q c status detail data =
    if s.outstanding q c.seq = true then
      (s.record q c status detail data).releaseWaiting q status ((s.hostq q).cmds.filter (waitsFor c.seq))
    else s := by
  unfold State.complete State.releaseWaiting
  cases s.outstanding q c.seq <;> rfl

theorem hostOnly_complete (s : State) (q : Nat) (c : HostCmd) (status detail : Nat) (data : List Byte) :
    HostOnly q s (s.complete q c status detail data) := by
  rw [complete_eq]
  split
  · exact (hostOnly_record s q c status detail data).trans (hostOnly_releaseWaiting _ q status _)
  · exact .refl q s

/-- No command with the number of one that completes stays in the queue. -/
theorem complete_gone (hc : s.Canonical) (q : Nat) (c : HostCmd) (status detail : Nat) (data : List Byte) {x : HostCmd}
    (hx : x ∈ ((s.complete q c status detail data).hostq q).cmds) : x ∈ (s.hostq q).cmds ∧ x.seq ≠ c.seq := by
  rw [complete_eq] at hx
  split at hx
  · exact (record_outcome hc q c status detail data x).1
      ((hostOnly_releaseWaiting _ q status _).sub ((hostOnly_record s q c status detail data).canon hc) x hx)
  · next h =>
    refine ⟨hx, fun he => h ?_⟩
    exact List.any_eq_true.2 ⟨x, hx, decide_eq_true he⟩

theorem hostOnly_sweep : ∀ (n : Nat) (s : State) (q : Nat), HostOnly q s (State.sweep n s q)
  | 0, s, q => .refl q s
  | n + 1, s, q => by
    rw [State.sweep]
    split
    · split
      · exact .refl q s
      · refine HostOnly.trans ?_ (hostOnly_sweep n _ q)
        split
        · exact hostOnly_complete s q _ _ _ _
        · exact .refl q s
    · exact .refl q s

theorem hostOnly_finish (s : State) (q : Nat) (c : HostCmd) (status detail : Nat) (data : List Byte) :
    HostOnly q s (s.finish q c status detail data) := (hostOnly_complete s q c status detail data).trans (hostOnly_sweep 32 _ q)

end

/-! ### Sets that are cancelled (R371) -/

/-- Only sets, bits 7 of PLOT_MODE, host queues and what leaves differ. -/
structure Cancelled (s s' : State) : Prop where
  rest  : s' = { s with sreg := s'.sreg, shadow := s'.shadow, hostQ := s'.hostQ, hostPorts := s'.hostPorts, out := s'.out }
  canon : s.Canonical → s'.Canonical
  fld   : s.Canonical → ∀ a hi lo, (∀ p, p < 64 → a ≠ rPlotMode p) ∨ hi < 7 ∨ 7 < lo → s'.fld a hi lo = s.fld a hi lo

section
variable {s s' s'' : State}

theorem Cancelled.refl (s : State) : Cancelled s s := ⟨rfl, id, fun _ _ _ _ _ => rfl⟩

theorem Cancelled.trans (h : Cancelled s s') (k : Cancelled s' s'') : Cancelled s s'' where
  rest := by rw [k.rest, h.rest]
  canon := fun hc => k.canon (h.canon hc)
  fld := fun hc a hi lo ha => (k.fld (h.canon hc) a hi lo ha).trans (h.fld hc a hi lo ha)

theorem Cancelled.plot (h : Cancelled s s') (p : Nat) : s'.plot p = s.plot p := by
  rw [h.rest]
  rfl

theorem HostOnly.cancelled {q : Nat} (h : HostOnly q s s') : Cancelled s s' where
  rest := by rw [h.rest]
  canon := h.canon
  fld := fun _ a hi lo _ => h.fld a hi lo

theorem cancelled_putSet (s : State) (k : Nat) (x : ShadowSet) : Cancelled s (s.putSet k x) :=
  ⟨rfl, fun hc => { hc with }, fun _ _ _ _ _ => rfl⟩

theorem cancelled_foldl {α : Type} {f : State → α → State} {l : List α} (hf : ∀ s, ∀ x ∈ l, Cancelled s (f s x)) (s : State) :
    Cancelled s (l.foldl f s) :=
  List.foldlRecOn (motive := Cancelled s) l f (.refl s) fun _ hu x hx => hu.trans (hf _ x hx)

theorem cancelled_showArmed (s : State) {ps : List Nat} (hp : ∀ p ∈ ps, p < 64) : Cancelled s (s.showArmed ps) := by
  refine cancelled_foldl (fun u p hm => ⟨rfl, fun hc => hc.setFld _ _ _ _, fun hc a hi lo ha => ?_⟩) s
  refine State.setFld_fld_apart hc _ ?_ (by decide)
  rcases ha with ha | ha
  · exact .inl (ha p (hp p hm))
  · exact .inr ha

theorem ShadowSet.mask_lt {x : ShadowSet} : ∀ p ∈ x.mask, p < 64 := fun _ hp => List.mem_range.1 (List.mem_filter.1 hp).1

theorem cancelled_disarm (s : State) (k : Nat) (x : ShadowSet) (state code : Nat) : Cancelled s (s.disarm k x state code) :=
  (cancelled_putSet s k _).trans (cancelled_showArmed _ ShadowSet.mask_lt)

theorem cancelled_cancelSets (s : State) (hit : ShadowSet → Bool) (code : Nat) : Cancelled s (s.cancelSets hit code) := by
  refine cancelled_foldl (fun u e _ => ?_) s
  dsimp only
  split
  · have h := cancelled_disarm u e.1 e.2 2 code
    split
    · exact h.trans (hostOnly_finish _ _ _ _ _ _).cancelled
    · exact h
  · split
    · exact cancelled_disarm u e.1 e.2 2 code
    · exact .refl u

end

end Sys2Proof.Machine
end

section
/-!
PROOFS. Fences: what one decides, what it stops, how it ends (R423 to R430, R439, R440, R450, R451).
-/
namespace Sys2Proof.Machine

section
variable {s s' s'' : State} {p : Nat}

/-! ### Cores that are stopped -/

/-- A core at an instruction boundary with nothing to wait for. -/
def Core.atRest (c : Core) : Prop := c.run = .stopped ∧ c.blocked = none

/-- A tile's core is stopped, and the OPEN it waits for becomes stale. -/
def State.stopCore (s : State) (t : Site) : State :=
  (match (s.core t).blocked with
    | some (.openConn tag _) => s.onNi t (fun n => { n with
        opens := n.opens.map (fun (o : OpenReq) => if o.tag = tag then { o with stale := true } else o) })
    | _ => s).onCore t Core.stop

theorem stopCores_eq (s : State) (p : Nat) : s.stopCores p = (s.usable p).foldl State.stopCore s := rfl

theorem stopCore_eq (s : State) (t : Site) : s.stopCore t = s.onCore t Core.stop ∨
    ∃ f, s.stopCore t = (s.onNi t f).onCore t Core.stop := by
  unfold State.stopCore
  split
  · exact .inr ⟨_, rfl⟩
  · exact .inl rfl

theorem tilesOnly_stopCore (s : State) (t : Site) : TilesOnly s (s.stopCore t) := by
  obtain h | ⟨f, h⟩ := stopCore_eq s t
  · rw [h]
    exact ⟨rfl, fun hc => hc.onCore t _⟩
  · rw [h]
    exact ⟨rfl, fun hc => (hc.onNi t f).onCore t _⟩

theorem stopCore_mem (s : State) (t : Site) : (s.stopCore t).mem = s.mem := by
  obtain h | ⟨f, h⟩ := stopCore_eq s t <;> rw [h] <;> rfl

theorem stopCore_core (hc : s.Canonical) (t : Site) : (s.stopCore t).core t = (s.core t).stop := by
  obtain h | ⟨f, h⟩ := stopCore_eq s t
  · rw [h, State.onCore_core_same hc]
  · rw [h, State.onCore_core_same (hc.onNi t f), State.onNi_core hc]

theorem stopCore_core_other (s : State) {t u : Site} (h : u.key ≠ t.key) : (s.stopCore t).core u = s.core u := by
  obtain he | ⟨f, he⟩ := stopCore_eq s t
  · rw [he, State.core, State.onCore, State.onTile_tile_other h, State.core]
  · rw [he, State.core, State.onCore, State.onTile_tile_other h, State.onNi, State.onTile_tile_other h, State.core]

/-- A core that a fence meets is at rest, no core leaves its rest, and none loses a register. -/
theorem stopCore_rest (hc : s.Canonical) (t u : Site) : ((s.stopCore t).core u).regs = (s.core u).regs ∧
    (u = t ∨ (s.core u).atRest → ((s.stopCore t).core u).atRest) := by
  by_cases h : u.key = t.key
  · have hk : ∀ x : State, x.core u = x.core t := fun x => by rw [State.core, State.tile, h, State.core, State.tile]
    rw [hk, hk, stopCore_core hc]
    exact ⟨rfl, fun _ => ⟨rfl, rfl⟩⟩
  · rw [stopCore_core_other s h]
    exact ⟨rfl, fun hu => hu.resolve_left fun he => h (congrArg Site.key he)⟩

theorem stopped_rest : ∀ (l : List Site) {s : State}, s.Canonical → ∀ u, ((l.foldl State.stopCore s).core u).regs = (s.core u).regs ∧
    (u ∈ l ∨ (s.core u).atRest → ((l.foldl State.stopCore s).core u).atRest)
  | [], _, _, u => ⟨rfl, fun h => h.resolve_left List.not_mem_nil⟩
  | t :: l, s, hc, u => by
    obtain ⟨h1, h2⟩ := stopCore_rest hc t u
    obtain ⟨k1, k2⟩ := stopped_rest l ((tilesOnly_stopCore s t).canon hc) u
    refine ⟨k1.trans h1, fun h => k2 ?_⟩
    rcases h with h | h
    · exact (List.mem_cons.1 h).elim (fun h => .inr (h2 (.inl h))) .inl
    · exact .inr (h2 (.inr h))

theorem tilesOnly_stopCores (s : State) (p : Nat) : TilesOnly s (s.stopCores p) := tilesOnly_foldl tilesOnly_stopCore _ s

theorem stopCores_mem (s : State) (p : Nat) : (s.stopCores p).mem = s.mem := foldl_mem stopCore_mem s _

/-! ### The registers and the plot of a fence -/

/-- What fences of plot p change: its registers and its fence, and what a cancelled set, an EVENT and a stopped core do. -/
structure Fencing (p : Nat) (s s' : State) : Prop where
  rest  : s' = { s with sreg := s'.sreg, telem := s'.telem, plots := s'.plots, shadow := s'.shadow, hostQ := s'.hostQ,
                        hostPorts := s'.hostPorts, out := s'.out, tiles := s'.tiles }
  canon : s.Canonical → s'.Canonical
  fld   : s.Canonical → ∀ a hi lo, a ∉ toldRegs → a ≠ rRasPlot p → a ≠ rRasFlt p 6 →
    ((∀ p, p < 64 → a ≠ rPlotMode p) ∨ hi < 7 ∨ 7 < lo) → s'.fld a hi lo = s.fld a hi lo
  plot  : s.Canonical → ∀ q, s'.plot q = { s.plot q with fence := (s'.plot q).fence }
  other : ∀ q, q ≠ p → s'.plot q = s.plot q

theorem Fencing.refl (p : Nat) (s : State) : Fencing p s s := ⟨rfl, id, fun _ _ _ _ _ _ _ _ => rfl, fun _ _ => rfl, fun _ _ => rfl⟩

theorem Fencing.trans (h : Fencing p s s') (k : Fencing p s' s'') : Fencing p s s'' where
  rest := by rw [k.rest, h.rest]
  canon := fun hc => k.canon (h.canon hc)
  fld := fun hc a hi lo h1 h2 h3 h4 => (k.fld (h.canon hc) a hi lo h1 h2 h3 h4).trans (h.fld hc a hi lo h1 h2 h3 h4)
  plot := fun hc q => by rw [k.plot (h.canon hc), h.plot hc]
  other := fun q hq => (k.other q hq).trans (h.other q hq)

theorem Told.fencing (h : Told s s') : Fencing p s s' where
  rest := by rw [h.rest]
  canon := h.canon
  fld := fun _ _ hi lo ha _ _ _ => h.fld ha hi lo
  plot := fun _ q => by rw [h.rest]; rfl
  other := fun q _ => by rw [h.rest]; rfl

theorem Cancelled.fencing (h : Cancelled s s') : Fencing p s s' where
  rest := by rw [h.rest]
  canon := h.canon
  fld := fun hc a hi lo _ _ _ ha => h.fld hc a hi lo ha
  plot := fun _ q => by rw [h.plot]
  other := fun q _ => h.plot q

theorem fencing_stopCores (p : Nat) (s : State) (q : Nat) : Fencing p s (s.stopCores q) where
  rest := by
    have h := (tilesOnly_stopCores s q).rest
    rw [stopCores_mem] at h
    rw [h]
  canon := (tilesOnly_stopCores s q).canon
  fld := fun _ a hi lo _ _ _ _ => (tilesOnly_stopCores s q).fld a hi lo
  plot := fun _ r => by rw [(tilesOnly_stopCores s q).rest]; rfl
  other := fun r _ => by rw [(tilesOnly_stopCores s q).rest]; rfl

theorem fencing_setFld (s : State) {a : Nat} (ha : a = rRasPlot p ∨ a = rRasFlt p 6) (hi lo v : Nat) : Fencing p s (s.setFld a hi lo v) where
  rest := rfl
  canon := fun hc => hc.setFld _ _ _ _
  fld := fun _ b h k _ h1 h2 _ => State.setFld_fld_other (by rintro rfl; exact ha.elim h1 h2) _ _ _ _ _
  plot := fun _ _ => rfl
  other := fun _ _ => rfl

theorem fencing_onFence (s : State) (p : Nat) (f : Option FenceSt → Option FenceSt) :
    Fencing p s (s.onPlot p (fun x => { x with fence := f x.fence })) where
  rest := rfl
  canon := fun hc => hc.onPlot p _
  fld := fun _ _ _ _ _ _ _ _ => rfl
  plot := fun hc q => by
    by_cases h : q = p
    · subst h
      rw [State.onPlot_plot_same hc]
    · rw [State.onPlot_plot_other h]
  other := fun _ h => State.onPlot_plot_other h _

/-! ### Deciding a fence (R427) -/

/-- The fence that a call makes, with the command that runs. -/
def State.fenceOf (s : State) (p cause : Nat) (c : FenceCall) : FenceSt :=
  let running := (s.hostq p).front.filter (fun c => c.started)
  { cause := cause, cycle := s.cycle, queue := if running.isSome then p else 0xFF
    seq := match running with | some c => c.seq | none => 0
    tile := (s.named p cause c).1.map Site.key, engine := (s.named p cause c).2, field := c.field, more := 0, tcause := c.tcause
    epc := c.epc, tval := c.tval, culprit := c.culprit, status := c.status, replay := c.replay, cut := false }

/-- RAS_PLOT shows a fence with its cause. -/
def State.fenceShown (s : State) (p cause : Nat) (f : FenceSt) : State :=
  ((s.setFld (rRasPlot p) 63 62 1).setFld (rRasPlot p) 55 48 cause).onPlot p (fun x => { x with fence := some f })

/-- The EVENT of a fence, and the sets that it cancels. -/
def State.fenceTold (s : State) (p cause : Nat) : State :=
  (s.event 0x0107 (plotSource p) (cause + p * 2 ^ 32)).cancelSets (fun x => x.mask.contains p) 7

theorem fencePlot_fresh (h : s.fenceState p = 0) (cause : Nat) (c : FenceCall) :
    s.fencePlot p cause c = ((s.fenceShown p cause (s.fenceOf p cause c)).fenceTold p cause).stopCores p :=
  if_neg (Classical.not_not.2 h)

theorem fencePlot_more (h : s.fenceState p ≠ 0) (cause : Nat) (c : FenceCall) : s.fencePlot p cause c = s.moreFault p := if_pos h

theorem fencing_fenceShown (s : State) (p cause : Nat) (f : FenceSt) : Fencing p s (s.fenceShown p cause f) :=
  ((fencing_setFld s (.inl rfl) 63 62 1).trans (fencing_setFld _ (.inl rfl) 55 48 cause)).trans (fencing_onFence _ p (fun _ => some f))

theorem fencing_fenceTold (s : State) (p cause : Nat) : Fencing p s (s.fenceTold p cause) :=
  (told_event s _ _ _).fencing.trans (cancelled_cancelSets _ _ _).fencing

theorem fencing_moreFault (s : State) (p : Nat) : Fencing p s (s.moreFault p) := by
  unfold State.moreFault
  split
  · exact fencing_onFence s p (fun o => o.map (fun f => { f with more := satAdd 0xFFFF f.more 1 }))
  · exact fencing_setFld s (.inr rfl) _ _ _

theorem fencing_fencePlot (s : State) (p cause : Nat) (c : FenceCall) : Fencing p s (s.fencePlot p cause c) := by
  by_cases h : s.fenceState p = 0
  · rw [fencePlot_fresh h]
    exact ((fencing_fenceShown s p cause _).trans (fencing_fenceTold _ p cause)).trans (fencing_stopCores p _ p)
  · rw [fencePlot_more h]
    exact fencing_moreFault s p

/-! ### What a fence shows (R425 to R427) -/

theorem rRasPlot_apart {p : Nat} (hp : p < 64) (a : Nat) (h : a = rRasPlot p) : a ∉ toldRegs ∧ (∀ q, q < 64 → a ≠ rPlotMode q) := by
  subst h
  refine ⟨?_, fun q hq => ?_⟩
  · simp only [toldRegs, List.mem_cons, List.not_mem_nil, or_false, rRasPlot, rTelemDrop, rTelemStat]
    omega
  · unfold rRasPlot rPlotMode
    omega

/-- What Topsoil and the sets do with a fence leaves its register and its plot. -/
theorem fenceTold_frame (hc : s.Canonical) (hp : p < 64) (cause : Nat) : (s.fenceTold p cause).Canonical ∧
    (∀ hi lo, (s.fenceTold p cause).fld (rRasPlot p) hi lo = s.fld (rRasPlot p) hi lo) ∧
    (∀ q, (s.fenceTold p cause).plot q = s.plot q) ∧ (s.fenceTold p cause).mem = s.mem ∧ (s.fenceTold p cause).tiles = s.tiles := by
  have h1 := told_event s 0x0107 (plotSource p) (cause + p * 2 ^ 32)
  have h2 := cancelled_cancelSets (s.event 0x0107 (plotSource p) (cause + p * 2 ^ 32)) (fun x => x.mask.contains p) 7
  obtain ⟨ha, hb⟩ := rRasPlot_apart hp _ rfl
  refine ⟨h2.canon (h1.canon hc), fun hi lo => (h2.fld (h1.canon hc) _ _ _ (.inl hb)).trans (h1.fld ha hi lo), fun q => ?_, ?_, ?_⟩
  · refine (h2.plot q).trans ?_
    rw [h1.rest]
    rfl
  · rw [State.fenceTold, h2.rest]
    exact h1.mem
  · rw [State.fenceTold, h2.rest]
    exact h1.tiles

theorem fenceShown_frame (hc : s.Canonical) (p : Nat) {cause : Nat} (hcause : cause < 256) (f : FenceSt) :
    (s.fenceShown p cause f).Canonical ∧ (s.fenceShown p cause f).fenceState p = 1 ∧
      (s.fenceShown p cause f).fld (rRasPlot p) 55 48 = cause ∧ ((s.fenceShown p cause f).plot p).fence = some f := by
  have h1 := hc.setFld (rRasPlot p) 63 62 1
  have h2 := h1.setFld (rRasPlot p) 55 48 cause
  refine ⟨h2.onPlot p _, ?_, State.setFld_fld_of_lt h1 (by decide) (by decide) hcause, ?_⟩
  · exact (State.setFld_fld_field h1 cause (.inr (by decide)) (by decide)).trans (State.setFld_fld_of_lt hc (by decide) (by decide) (by decide))
  · rw [State.fenceShown, State.onPlot_plot_same h2]

/-- The tiles that a fence stops are the plot's, whatever it has shown. -/
theorem Fencing.fld_low (h : Fencing p s s') (hp : p < 64) (hc : s.Canonical) {a : Nat} (ha : a < rPlotMode 0 ∨ ∃ q, q < 64 ∧ a = rPlotRect q)
    (hi lo : Nat) : s'.fld a hi lo = s.fld a hi lo := by
  obtain ⟨h1, h2, h3, h4⟩ : a ∉ toldRegs ∧ a ≠ rRasPlot p ∧ a ≠ rRasFlt p 6 ∧ ∀ q, q < 64 → a ≠ rPlotMode q := by
    simp only [toldRegs, List.mem_cons, List.not_mem_nil, or_false, rTelemDrop, rTelemStat, rRasPlot, rRasFlt]
    rcases ha with ha | ⟨r, hr, rfl⟩
    · unfold rPlotMode at *
      exact ⟨by omega, by omega, by omega, fun q _ => by omega⟩
    · unfold rPlotMode rPlotRect
      exact ⟨by omega, by omega, by omega, fun q _ => by omega⟩
  exact h.fld hc a hi lo h1 h2 h3 (.inl h4)

theorem Fencing.usable (h : Fencing p s s') (hp : p < 64) (hc : s.Canonical) (q : Nat) : s'.usable q = s.usable q :=
  State.usable_same (by rw [h.rest])
    (fun f hf => h.fld_low hp hc (.inl (by unfold rPwrField rPlotMode; omega)) _ _)
    (fun q hq hi lo => h.fld_low hp hc (.inr ⟨q, hq, rfl⟩) hi lo) q

/-- What a decided fence shows, and what it has stopped. -/
structure Decided (p cause : Nat) (s s' : State) : Prop where
  state : s'.fenceState p = 1
  shown : s'.fld (rRasPlot p) 55 48 = cause
  fence : ∃ f, (s'.plot p).fence = some f ∧ f.cause = cause ∧ f.cycle = s.cycle ∧ f.more = 0 ∧ f.cut = false
  cores : ∀ t ∈ s.usable p, (s'.core t).run = .stopped ∧ (s'.core t).blocked = none ∧ (s'.core t).regs = (s.core t).regs
  mem   : s'.mem = s.mem

theorem fencePlot_decided (hc : s.Canonical) (hp : p < 64) (h0 : s.fenceState p = 0) {cause : Nat} (hcause : cause < 256) (c : FenceCall) :
    Decided p cause s (s.fencePlot p cause c) := by
  rw [fencePlot_fresh h0]
  have hf : Fencing p s ((s.fenceShown p cause (s.fenceOf p cause c)).fenceTold p cause) :=
    (fencing_fenceShown s p cause _).trans (fencing_fenceTold _ p cause)
  obtain ⟨k1, k2, k3, k4⟩ := fenceShown_frame hc p hcause (s.fenceOf p cause c)
  have hmem : (s.fenceShown p cause (s.fenceOf p cause c)).mem = s.mem := rfl
  have htiles : (s.fenceShown p cause (s.fenceOf p cause c)).tiles = s.tiles := rfl
  generalize s.fenceShown p cause (s.fenceOf p cause c) = u at *
  obtain ⟨j1, j2, j3, j4, j5⟩ := fenceTold_frame k1 hp cause
  have husable := hf.usable hp hc p
  generalize u.fenceTold p cause = v at *
  have ht := tilesOnly_stopCores v p
  have hcore : ∀ t, v.core t = s.core t := fun t => by rw [State.core, State.tile, j5, htiles, State.core, State.tile]
  refine ⟨(ht.fld _ _ _).trans ((j2 _ _).trans k2), (ht.fld _ _ _).trans ((j2 _ _).trans k3), ⟨s.fenceOf p cause c, ?_, rfl, rfl, rfl, rfl⟩,
    fun t hm => ?_, by rw [stopCores_mem, j4, hmem]⟩
  · have hplot : (v.stopCores p).plot p = v.plot p := by rw [ht.rest]; rfl
    rw [hplot, j3, k4]
  · obtain ⟨h1, h2⟩ := stopped_rest (v.usable p) j1 t
    obtain ⟨h3, h4⟩ := h2 (.inl (husable ▸ hm))
    rw [stopCores_eq]
    exact ⟨h3, h4, h1.trans (by rw [hcore])⟩

/-! ### The end of a fence (R427) -/

theorem tilesOnly_cutTile (s : State) (t : Site) : TilesOnly s (s.cutTile t) := ⟨rfl, fun hc => (hc.onTile t _).onNi t _⟩

/-- Engines that still execute are cut where the drain has reached its limit. -/
def State.cutFor (s : State) (p : Nat) (drained : Bool) : State := if drained then s else (s.usable p).foldl (fun s t => s.cutTile t) s

theorem tilesOnly_cutFor (s : State) (p : Nat) (drained : Bool) : TilesOnly s (s.cutFor p drained) := by
  unfold State.cutFor
  split
  · exact .refl s
  · exact tilesOnly_foldl tilesOnly_cutTile _ s

/-- The plot is FENCED. -/
def State.fencedAs (s : State) (p : Nat) (f : FenceSt) : State :=
  (s.setFld (rRasPlot p) 63 62 2).onPlot p (fun x => { x with fence := some f })

/-- The end of a fence but for the commands of its plot. -/
def State.fenceRecorded (s : State) (p : Nat) (f : FenceSt) (drained : Bool) : State :=
  (((s.cutFor p drained).fencedAs p f).writeRecord p (((s.cutFor p drained).fencedAs p f).faultRecord p f drained)).dropWork p

theorem fenced_eq {f : FenceSt} (hf : (s.plot p).fence = some f) (hr : f.replay = none) (drained : Bool) : s.fenced p drained =
    (s.fenceRecorded p { f with cut := !drained } drained).endCommands p { f with cut := !drained }
      (((s.cutFor p drained).fencedAs p { f with cut := !drained }).faultRecord p { f with cut := !drained } drained) := by
  simp only [State.fenced, hf, hr]
  rfl

/-- What a fence's end shows of its plot. -/
structure Ended (p : Nat) (s : State) : Prop where
  canon   : s.Canonical
  state   : s.fenceState p = 2
  run     : (s.plot p).run = none
  placing : (s.plot p).placing = none
  place   : s.placeState p ≠ 2

/-- Words of the record differ, and nothing else. -/
structure Recorded (p : Nat) (s s' : State) : Prop where
  rest  : s' = { s with sreg := s'.sreg }
  canon : s.Canonical → s'.Canonical
  fld   : ∀ a hi lo, (∀ i, i < 8 → a ≠ rRasFlt p i) → s'.fld a hi lo = s.fld a hi lo

theorem Recorded.trans (h : Recorded p s s') (k : Recorded p s' s'') : Recorded p s s'' where
  rest := by rw [k.rest, h.rest]
  canon := fun hc => k.canon (h.canon hc)
  fld := fun a hi lo ha => (k.fld a hi lo ha).trans (h.fld a hi lo ha)

theorem recorded_setReg (s : State) (p : Nat) {i : Nat} (hi : i < 8) (v : Dword) : Recorded p s (s.setReg (rRasFlt p i) v) :=
  ⟨rfl, fun hc => hc.setReg _ _, fun _ x y ha => State.setReg_fld_other (ha i hi) x y v⟩

theorem recorded_writeRecord (s : State) (p : Nat) (r : List Byte) : Recorded p s (s.writeRecord p r) :=
  List.foldlRecOn (motive := Recorded p s) _ _ ⟨rfl, id, fun _ _ _ _ => rfl⟩ fun u hu _ hi =>
    hu.trans (recorded_setReg u p (List.mem_range.1 hi) _)

/-- A plot with nothing in hand. -/
def State.workDropped (s : State) (p : Nat) : State :=
  let s := s.onPlot p (fun x => { x with run := none, draining := false, placing := none })
  { s with rdma := s.rdma.filter (fun r => decide (r.queue ≠ p)) }

theorem dropWork_eq (s : State) (p : Nat) : s.dropWork p =
    if (s.workDropped p).placeState p = 2 then (s.workDropped p).setPlace p 1 else s.workDropped p := rfl

theorem dropWork_ended (hc : s.Canonical) (hp : p < 64) (h : s.fenceState p = 2) : Ended p (s.dropWork p) := by
  have h1 : (s.workDropped p).Canonical := { hc.onPlot p (fun x => { x with run := none, draining := false, placing := none }) with }
  have hplot : (s.workDropped p).plot p = { s.plot p with run := none, draining := false, placing := none } :=
    State.onPlot_plot_same hc p (fun x => { x with run := none, draining := false, placing := none })
  have hst : (s.workDropped p).fenceState p = 2 := h
  rw [dropWork_eq]
  generalize s.workDropped p = u at *
  split
  · have hne : rRasPlot p ≠ rPlotPlace p := by unfold rRasPlot rPlotPlace; omega
    have hpl : (u.setPlace p 1).placeState p = 1 := State.setFld_fld_of_lt h1 (by decide) (by decide) (by decide)
    have hup : (u.setPlace p 1).plot p = u.plot p := rfl
    exact ⟨h1.setFld _ _ _ _, (State.setFld_fld_other hne _ _ _ _ _).trans hst, by rw [hup, hplot], by rw [hup, hplot], by omega⟩
  · next hn => exact ⟨h1, hst, by rw [hplot], by rw [hplot], hn⟩

theorem fenceRecorded_ended (hc : s.Canonical) (hp : p < 64) (f : FenceSt) (drained : Bool) : Ended p (s.fenceRecorded p f drained) := by
  have h1 := (tilesOnly_cutFor s p drained).canon hc
  have h2 : ((s.cutFor p drained).fencedAs p f).Canonical := (h1.setFld _ _ _ _).onPlot p _
  have hst : ((s.cutFor p drained).fencedAs p f).fenceState p = 2 := State.setFld_fld_of_lt h1 (by decide) (by decide) (by decide)
  have hr := recorded_writeRecord ((s.cutFor p drained).fencedAs p f) p (((s.cutFor p drained).fencedAs p f).faultRecord p f drained)
  exact dropWork_ended (hr.canon h2) hp ((hr.fld _ _ _ fun i hi => by unfold rRasPlot rRasFlt; omega).trans hst)

theorem HostOnly.ended {q : Nat} (h : HostOnly q s s') (he : Ended p s) : Ended p s' where
  canon := h.canon he.canon
  state := (h.fld _ _ _).trans he.state
  run := by rw [h.plot, he.run]
  placing := by rw [h.plot, he.placing]
  place := fun hk => he.place ((h.fld _ _ _).symm.trans hk)

/-- The command that the fence names as its cause completes first. -/
def State.endCulprit (s : State) (p : Nat) (f : FenceSt) (r : List Byte) : State :=
  match (s.hostq p).cmds.find? (fun c => decide (f.culprit = some c.seq)) with
  | some c => if f.replay.isSome then s else s.complete p c f.status 0 r
  | none => s

/-- Commands complete, one after another. -/
def State.completeAll (s : State) (p : Nat) (l : List HostCmd) : State := l.foldl (fun s c => s.complete p c stFenced 0 []) s

theorem endCommands_eq (s : State) (p : Nat) (f : FenceSt) (r : List Byte) : s.endCommands p f r =
    (s.endCulprit p f r).completeAll p (((s.endCulprit p f r).hostq p).cmds.filter (fun c => decide (f.culprit ≠ some c.seq))) := rfl

theorem hostOnly_endCulprit (s : State) (p : Nat) (f : FenceSt) (r : List Byte) : HostOnly p s (s.endCulprit p f r) := by
  unfold State.endCulprit
  split
  · split
    · exact .refl p s
    · exact hostOnly_complete s p _ _ _ _
  · exact .refl p s

theorem endCulprit_gone (hc : s.Canonical) {f : FenceSt} (hr : f.replay = none) (r : List Byte) {x : HostCmd}
    (hx : x ∈ ((s.endCulprit p f r).hostq p).cmds) : f.culprit ≠ some x.seq := by
  unfold State.endCulprit at hx
  split at hx
  · next c hfind =>
    rw [hr] at hx
    obtain ⟨-, hne⟩ := complete_gone hc p c f.status 0 r hx
    have hseq : f.culprit = some c.seq := by simpa using List.find?_some hfind
    intro he
    rw [hseq] at he
    exact hne (Option.some.inj he).symm
  · next hnone =>
    have := List.find?_eq_none.1 hnone x hx
    simpa using this

theorem hostOnly_completeAll (s : State) (p : Nat) (l : List HostCmd) : HostOnly p s (s.completeAll p l) :=
  hostOnly_foldl (fun u c => hostOnly_complete u p c _ _ _) l s

theorem completeAll_gone : ∀ (l : List HostCmd) {s : State}, s.Canonical → ∀ x ∈ ((s.completeAll p l).hostq p).cmds,
    x ∈ (s.hostq p).cmds ∧ ∀ c ∈ l, x.seq ≠ c.seq
  | [], _, _, x, hx => ⟨hx, fun _ h => absurd h List.not_mem_nil⟩
  | c :: l, s, hc, x, hx => by
    have hk := hostOnly_complete s p c stFenced 0 []
    obtain ⟨h1, h2⟩ := completeAll_gone l (hk.canon hc) x hx
    obtain ⟨h3, h4⟩ := complete_gone hc p c stFenced 0 [] h1
    exact ⟨h3, fun d hd => (List.mem_cons.1 hd).elim (fun h => h ▸ h4) (h2 d)⟩

theorem endCommands_empty (hc : s.Canonical) {f : FenceSt} (hr : f.replay = none) (r : List Byte) (x : HostCmd) :
    x ∉ ((s.endCommands p f r).hostq p).cmds := by
  rw [endCommands_eq]
  intro hx
  obtain ⟨h1, h2⟩ := completeAll_gone _ ((hostOnly_endCulprit s p f r).canon hc) x hx
  exact h2 x (List.mem_filter.2 ⟨h1, decide_eq_true (endCulprit_gone hc hr r h1)⟩) rfl

theorem hostOnly_endCommands (s : State) (p : Nat) (f : FenceSt) (r : List Byte) : HostOnly p s (s.endCommands p f r) := by
  rw [endCommands_eq]
  exact (hostOnly_endCulprit s p f r).trans (hostOnly_completeAll _ p _)

theorem fenced_outcome (hc : s.Canonical) (hp : p < 64) {f : FenceSt} (hf : (s.plot p).fence = some f) (hr : f.replay = none) (drained : Bool) :
    Ended p (s.fenced p drained) ∧ ∀ c, c ∉ ((s.fenced p drained).hostq p).cmds := by
  have he := fenceRecorded_ended hc hp { f with cut := !drained } drained
  rw [fenced_eq hf hr]
  exact ⟨(hostOnly_endCommands _ p _ _).ended he, fun c => endCommands_empty he.canon (f := { f with cut := !drained }) hr _ c⟩

end

end Sys2Proof.Machine
end

section
/-!
PROOFS. Scan tests, the digests of twins, and the obligation on fences (R425 to R427, R439, R443, R444, R450, R451).
-/
namespace Sys2Proof.Machine

section
variable {s s' : State} {f p : Nat}

/-! ### Scans (R443, R444) -/

/-- What a write of RAS_SCAN stores, whether or not it starts a scan. -/
def State.scanWritten (s : State) (v : Dword) : State :=
  ((s.setFld rRasScan 60 60 (Dword.field v 60 60)).setFld rRasScan 55 48 (Dword.field v 55 48)).setFld rRasScan 31 16 (Dword.field v 31 16)

theorem writeScan_eq (s : State) (v : Dword) : s.writeScan v =
    let u := s.scanWritten v
    let f := Dword.field v 55 48
    if decide (Dword.field v 61 61 = 0) || decide (u.fld rRasScan 63 63 = 1) || !u.scanFree f then u
    else if Dword.field v 60 60 = 1 then ((u.usersOf f).foldl (fun s p => s.fence p fcField f) u).beginScan f
    else if (u.usersOf f).isEmpty then u.beginScan f
    else u := rfl

theorem scanWritten_frame (hc : s.Canonical) (v : Dword) : (s.scanWritten v).Canonical ∧
    (s.scanWritten v).fld rRasScan 31 16 = Dword.field v 31 16 ∧ (s.scanWritten v).fld rRasScan 63 63 = s.fld rRasScan 63 63 ∧
    (∀ a hi lo, a ≠ rRasScan → (s.scanWritten v).fld a hi lo = s.fld a hi lo) := by
  have h1 := hc.setFld rRasScan 60 60 (Dword.field v 60 60)
  have h2 := h1.setFld rRasScan 55 48 (Dword.field v 55 48)
  refine ⟨h2.setFld _ _ _ _, State.setFld_fld_of_lt h2 (by decide) (by decide) (Dword.field_lt v 31 16), ?_, fun a hi lo ha => ?_⟩
  · exact (State.setFld_fld_field h2 _ (.inr (by decide)) (by decide)).trans ((State.setFld_fld_field h1 _ (.inr (by decide)) (by decide)).trans
      (State.setFld_fld_field hc _ (.inr (by decide)) (by decide)))
  · exact (State.setFld_fld_other ha _ _ _ _ _).trans ((State.setFld_fld_other ha _ _ _ _ _).trans (State.setFld_fld_other ha _ _ _ _ _))

theorem scanWritten_rest (s : State) (v : Dword) : s.scanWritten v = { s with sreg := (s.scanWritten v).sreg } := rfl

theorem State.usersOf_congr (hplot : ∀ p, s'.plot p = s.plot p)
    (hr : ∀ p, p < 64 → ∀ hi lo, s'.fld (rPlotRect p) hi lo = s.fld (rPlotRect p) hi lo) (f : Nat) : s'.usersOf f = s.usersOf f := by
  refine List.filter_congr fun p hp => ?_
  have hp := List.mem_range.1 hp
  simp only [State.usesField, State.rectInField, State.plotValid_congr hr, hr p hp, hplot]

theorem scanFree_present (h : s.scanFree f = true) : Config.fieldPresent f = true := by
  simp only [State.scanFree, Bool.and_eq_true] at h
  exact h.1.1.1.1

theorem scanFree_written (hc : s.Canonical) (v : Dword) (f : Nat) : (s.scanWritten v).scanFree f = s.scanFree f := by
  cases hp : Config.fieldPresent f with
  | false => simp [State.scanFree, hp]
  | true =>
    obtain ⟨-, -, -, h4⟩ := scanWritten_frame hc v
    have hs : (s.scanWritten v).fieldState f = s.fieldState f := h4 _ _ _ (by
      have := fieldPresent_lt hp
      unfold rPwrField rRasScan
      omega)
    rw [State.scanFree, hs, State.scanFree]
    rfl

theorem usersOf_written (hc : s.Canonical) (v : Dword) (f : Nat) : (s.scanWritten v).usersOf f = s.usersOf f := by
  obtain ⟨-, -, -, h4⟩ := scanWritten_frame hc v
  exact State.usersOf_congr (s' := s.scanWritten v) (s := s) (fun _ => rfl) (fun p hp hi lo => h4 (rPlotRect p) _ _ (by unfold rPlotRect rRasScan; omega)) f

theorem beginScan_frame (hc : s.Canonical) (f : Nat) : (s.beginScan f).fld rRasScan 63 63 = 1 ∧
    (s.beginScan f).fld rRasScan 31 16 = s.fld rRasScan 31 16 ∧ (s.beginScan f).scan = { field := f, next := f + 1, active := true } :=
  ⟨State.setFld_fld_of_lt hc (by decide) (by decide) (by decide), State.setFld_fld_field hc 1 (.inl (by decide)) (by decide), rfl⟩

theorem writeScan_starts (hc : s.Canonical) {v : Dword} (hgo : Dword.field v 61 61 = 1) (h0 : s.fld rRasScan 63 63 = 0)
    (hfree : s.scanFree (Dword.field v 55 48) = true) (hno : ∀ o, o < 64 → s.usesField o (Dword.field v 55 48) = false) :
    s.writeScan v = (s.scanWritten v).beginScan (Dword.field v 55 48) := by
  obtain ⟨-, -, h3, -⟩ := scanWritten_frame hc v
  have husers : s.usersOf (Dword.field v 55 48) = [] := List.filter_eq_nil_iff.2 fun o ho => by simp [hno o (List.mem_range.1 ho)]
  rw [writeScan_eq]
  simp only [hgo, h3, h0, scanFree_written hc, hfree, usersOf_written hc, husers, List.foldl_nil]
  split
  · next h => exact absurd h (by decide)
  · split <;> rfl

theorem writeScan_stores (hc : s.Canonical) {v : Dword}
    (h : Dword.field v 61 61 = 0 ∨ s.fld rRasScan 63 63 = 1 ∨ s.scanFree (Dword.field v 55 48) = false) : s.writeScan v = s.scanWritten v := by
  obtain ⟨-, -, h3, -⟩ := scanWritten_frame hc v
  rw [writeScan_eq]
  refine if_pos ?_
  rw [h3, scanFree_written hc]
  rcases h with h | h | h <;> simp [h]

theorem scanGo_outcome (hc : s.Canonical) (v : Dword) :
    let f := Dword.field v 55 48
    ∃ s', exec (.scanGo v) s = .next s' ∧
      (Dword.field v 61 61 = 1 → s.fld rRasScan 63 63 = 0 → s.scanFree f = true → (∀ o, o < 64 → s.usesField o f = false) →
        s'.fld rRasScan 31 16 = Dword.field v 31 16 ∧ s'.fld rRasScan 63 63 = 1 ∧ s'.scan = { field := f, next := f + 1, active := true }) ∧
      (Dword.field v 61 61 = 0 ∨ s.fld rRasScan 63 63 = 1 ∨ s.scanFree f = false → s'.scan = s.scan ∧
        s'.fld rRasScan 31 16 = Dword.field v 31 16 ∧ s'.fld rRasScan 63 63 = s.fld rRasScan 63 63) := by
  obtain ⟨h1, h2, h3, -⟩ := scanWritten_frame hc v
  refine ⟨s.writeScan v, rfl, fun hgo h0 hfree hno => ?_, fun h => ?_⟩
  · obtain ⟨k1, k2, k3⟩ := beginScan_frame h1 (Dword.field v 55 48)
    rw [writeScan_starts hc hgo h0 hfree hno]
    exact ⟨k2.trans h2, k1, k3⟩
  · rw [writeScan_stores hc h]
    exact ⟨rfl, h2, h3⟩

/-- The registers and the field of a scan that has found nothing. -/
def State.scanPassed (s : State) (f : Nat) : State :=
  ((s.setFld rRasScan 63 62 1).setFld rRasScan 47 32 0).onField f (fun r => { r with untested := false, failed := [] })

/-- The scan of a field is over. -/
def State.scanOff (s : State) (f : Nat) : State := if s.scan.field = f then { s with scan := { s.scan with active := false } } else s

theorem judgeScan_clean (s : State) (f : Nat) : s.judgeScan f [] [] = ((s.scanPassed f).scanOff f, false) := by
  unfold State.judgeScan
  dsimp only
  rw [if_neg (by simp)]
  rfl

theorem endScan_clean (s : State) (f : Nat) : s.endScan f [] [] = ((s.scanPassed f).scanOff f).toLit f := by
  simp only [State.endScan, judgeScan_clean, Bool.false_eq_true, if_false]

theorem scanOff_frame (s : State) (f : Nat) : (s.Canonical → (s.scanOff f).Canonical) ∧ (∀ a hi lo, (s.scanOff f).fld a hi lo = s.fld a hi lo) ∧
    ∀ g, (s.scanOff f).fieldRt g = s.fieldRt g := by
  unfold State.scanOff
  split
  · exact ⟨fun hc => { hc with }, fun _ _ _ => rfl, fun _ => rfl⟩
  · exact ⟨id, fun _ _ _ => rfl, fun _ => rfl⟩

theorem toLit_fieldRt (hc : s.Canonical) (f : Nat) : ((s.toLit f).fieldRt f).untested = (s.fieldRt f).untested := by
  have h := State.onField_fieldRt_same (hc.setFld (rClkField f) 5 5 1) f (fun r => { r with
    stateTo := some 0, pllTo := some (if s.fld (rClkField f) 6 6 = 1 then 2 else 1), asked := none })
  exact (congrArg FieldRt.untested h).trans rfl

theorem scanPassed_frame (hc : s.Canonical) (f : Nat) : (s.scanPassed f).Canonical ∧ (s.scanPassed f).fld rRasScan 63 63 = 0 ∧
    (s.scanPassed f).fld rRasScan 62 62 = 1 ∧ (s.scanPassed f).fld rRasScan 47 32 = 0 ∧ ((s.scanPassed f).fieldRt f).untested = false := by
  have h1 := hc.setFld rRasScan 63 62 1
  have h2 := h1.setFld rRasScan 47 32 0
  have htop : ∀ k, 62 ≤ k → k < 64 → (s.scanPassed f).fld rRasScan k k = 1 / 2 ^ (k - 62) % 2 ^ (k + 1 - k) := fun k hk hlt =>
    (State.setFld_fld_field h1 0 (.inr (by omega)) (by decide)).trans (State.setFld_fld_inside hc _ 1 (by decide) hk (by omega) (by decide))
  have hrt := State.onField_fieldRt_same h2 f (fun r => { r with untested := false, failed := [] })
  exact ⟨h2.onField f _, htop 63 (by decide) (by decide), htop 62 (by decide) (by decide),
    State.setFld_fld_of_lt h1 (by decide) (by decide) (by decide), (congrArg FieldRt.untested hrt).trans rfl⟩

theorem toLit_scanReg (s : State) (hf : f < 64) (hi lo : Nat) : (s.toLit f).fld rRasScan hi lo = s.fld rRasScan hi lo := by
  unfold State.toLit
  rw [State.onField_fld]
  exact State.setFld_fld_other (by unfold rRasScan rClkField; omega) _ _ _ _ _

theorem endScan_outcome (hc : s.Canonical) (hf : f < 64) : (s.endScan f [] []).fld rRasScan 63 63 = 0 ∧
    (s.endScan f [] []).fld rRasScan 62 62 = 1 ∧ (s.endScan f [] []).fld rRasScan 47 32 = 0 ∧
    ((s.endScan f [] []).fieldRt f).untested = false ∧ ((s.endScan f [] []).fieldRt f).stateTo = some 0 := by
  obtain ⟨h1, h2, h3, h4, h5⟩ := scanPassed_frame hc f
  rw [endScan_clean]
  generalize s.scanPassed f = u at *
  obtain ⟨k1, k2, k3⟩ := scanOff_frame u f
  obtain ⟨j1, -, -⟩ := toLit_frame (k1 h1) hf
  simp only [toLit_scanReg _ hf, k2]
  exact ⟨h2, h3, h4, by rw [toLit_fieldRt (k1 h1), k3, h5], j1⟩

/-! ### Reports of tiles (R425, R439) -/

theorem fencePlot_more_fencing (h : s.fenceState p = 1) (hc : s.Canonical) {g : FenceSt} (hf : (s.plot p).fence = some g) (cause : Nat) (c : FenceCall) :
    (s.fencePlot p cause c).fenceState p = 1 ∧ ((s.fencePlot p cause c).plot p).fence = some { g with more := min 0xFFFF (g.more + 1) } := by
  rw [fencePlot_more (by omega), State.moreFault, if_pos h]
  refine ⟨h, ?_⟩
  rw [State.onPlot_plot_same hc, hf]
  rfl

theorem fencePlot_counts (h : s.fenceState p = 2) (hc : s.Canonical) (cause : Nat) (c : FenceCall) :
    (s.fencePlot p cause c).fld (rRasFlt p 6) 31 16 = min 65535 (s.fld (rRasFlt p 6) 31 16 + 1) := by
  rw [fencePlot_more (by omega), State.moreFault, if_neg (by omega)]
  exact State.bump_fld_same hc _ _ (by decide) (by decide)

theorem exec_fence (hp : p < Config.plots) {cause : Nat} {e : Site × SvcNote} {rest : List (Site × SvcNote)}
    (h : Picks (fun e => decide (reportCause e.2 = some cause) && decide (s.plotOf e.1 = some p)) s.svc e rest) :
    exec (.fence p cause) s = .next ({ s with svc := rest }.fenceReport p e.1 e.2) := by
  refine (onUnit_of (decide_eq_true hp)).trans ?_
  simp only [takeFirst_picks h]

theorem exec_fenceDrainLimit_drain (hp : p < Config.plots) (h0 : s.fenceState p = 0) (hd : (s.plot p).draining = true) {r : RunSt}
    (hr : (s.plot p).run = some r) : exec (.fenceDrainLimit p) s =
      .next ((s.fencePlot p fcDrain { FenceCall.plain with culprit := some r.seq, status := stAborted }).fenced p false) := by
  refine (onUnit_of (decide_eq_true hp)).trans ?_
  simp only [h0, hd, hr]
  rfl

end

/-- Settles O57: a fence by what it shows and stops, its end by what the plot then has in hand, scans by the register that starts them. -/
theorem fencesStopPlots : Obligations.FencesStopPlots := by
  intro s p hc hp
  have hdec : ∀ (u s' : State) cause, Decided p cause u s' → u.cycle = s.cycle → (∀ t, t ∈ s.usable p → t ∈ u.usable p) →
      (∀ t, u.core t = s.core t) → s'.fenceState p = 1 ∧ s'.fld (rRasPlot p) 55 48 = cause ∧
      (∃ f, (s'.plot p).fence = some f ∧ f.cause = cause ∧ f.cycle = s.cycle ∧ f.more = 0 ∧ f.cut = false) ∧
      ∀ t ∈ s.usable p, (s'.core t).run = .stopped ∧ (s'.core t).blocked = none ∧ (s'.core t).regs = (s.core t).regs :=
    fun u s' cause h hcyc hus hcore => ⟨h.state, h.shown, by rw [← hcyc]; exact h.fence, fun t ht => by rw [← hcore]; exact h.cores t (hus t ht)⟩
  have hreset : exec (.plotResetFence p) s = .next (s.fencePlot p fcHost FenceCall.plain) := onUnit_of (decide_eq_true hp)
  refine ⟨fun h0 => ⟨_, hreset, ?_⟩, fun h1 f hf => ⟨_, hreset, fencePlot_more_fencing h1 hc hf _ _⟩, fun h2 => ⟨_, hreset, fencePlot_counts h2 hc _ _⟩,
    fun t n rest cause hr hq hpk => ⟨exec_fence hp hpk, fun h0 hn => ?_, fun hn hrun => ?_⟩,
    fun h1 hd => (onUnit_of (decide_eq_true hp)).trans (when_of (by simp [h1, hd])), fun h1 => ?_, fun f drained hf hr => ?_,
    fun r h0 hd hr => exec_fenceDrainLimit_drain hp h0 hd hr, fun t g rest a n v d hl hb hd hpk => ?_, fun v => ⟨_, rfl, ?_⟩, fun v => scanGo_outcome hc v,
    fun h1 h2 => ⟨fun hn => ?_, fun f hn => ?_⟩, fun f hf hpr hs h1 hr => ⟨⟨_, ?_, endScan_outcome hc hf⟩, fun tiles spills => ?_⟩⟩
  · have h := fencePlot_decided hc hp h0 (by decide : fcHost < 256) FenceCall.plain
    exact ⟨hdec s _ _ h rfl (fun _ => id) (fun _ => rfl), SameMemory.of_mem h.mem⟩
  · obtain ⟨c, e, v, rfl⟩ := hn
    have husable : ({ s with svc := rest } : State).usable p = s.usable p :=
      State.usable_same (s' := { s with svc := rest }) (s := s) rfl (fun _ _ => rfl) (fun _ _ _ _ => rfl) p
    have h := fencePlot_decided (s := { s with svc := rest }) { hc with } hp h0 (by decide : fcDoubleTrap < 256)
      (({ s with svc := rest } : State).runFault p { FenceCall.plain with tile := some t, tcause := c.toNat % 256, epc := e, tval := v })
    exact hdec _ _ _ h rfl (fun t ht => husable ▸ ht) (fun _ => rfl)
  · subst hn
    exact if_neg (by rw [Bool.not_eq_true]; exact hrun)
  · refine (onUnit_of (decide_eq_true hp)).trans ?_
    simp only [h1, if_true]
  · obtain ⟨h1, h2⟩ := fenced_outcome hc hp hf hr drained
    exact ⟨h1.state, h1.run, h1.placing, h1.place, h2⟩
  · have hex : exec (.twinDigest t) s = _ := (onTile_live hl).trans (whenSome_of (inKind_picks hpk))
    rw [hex]
    simp only [hb, hd]
    exact ⟨fun h => by simp only [h, decide_true, if_true], fun h => by simp only [h, decide_false, Bool.false_eq_true, if_false]⟩
  · exact State.setFld_fld_of_lt hc (by decide) (by decide) (by have := Dword.field_lt v 15 0; omega)
  · refine (when_of (by simp [h1, h2])).trans ?_
    simp only [hn]
  · refine (when_of (by simp [h1, h2])).trans ?_
    simp only [hn]
  · exact (onUnit_of hpr).trans (when_of (by simp [hs, h1, hr]))
  · exact (onUnit_of hpr).trans (when_of (by simp [hs, h1, hr]))

end Sys2Proof.Machine
end

section
/-!
PROOFS. Resets: what is asked for, when one ends, what each leaves (R429, R431 to R436, R450, R451, R503).
-/
namespace Sys2Proof.Machine

section
variable {s s' s'' : State} {p : Nat} {t : Site}

/-! ### What a request shows (R431, R450) -/

/-- What comes before a request: its list and its register stand. -/
structure Unasked (s s' : State) : Prop where
  canon  : s.Canonical → s'.Canonical
  resets : s'.resets = s.resets
  stat   : s.Canonical → s'.fld rRasResetStat 63 32 = s.fld rRasResetStat 63 32

theorem Unasked.refl (s : State) : Unasked s s := ⟨id, rfl, fun _ => rfl⟩

theorem Unasked.trans (h : Unasked s s') (k : Unasked s' s'') : Unasked s s'' where
  canon := fun hc => k.canon (h.canon hc)
  resets := k.resets.trans h.resets
  stat := fun hc => (k.stat (h.canon hc)).trans (h.stat hc)

theorem unasked_foldl {α : Type} {f : State → α → State} {l : List α} (hf : ∀ s, ∀ x ∈ l, Unasked s (f s x)) (s : State) :
    Unasked s (l.foldl f s) :=
  List.foldlRecOn (motive := Unasked s) l f (.refl s) fun _ hu x hx => hu.trans (hf _ x hx)

/-- A request stands last in the list, with its domain's code and one more request counted. -/
structure Asked (s s' : State) (d : Domain) (code : Nat) : Prop where
  resets : s'.resets = s.resets ++ [d]
  code   : s'.fld rRasResetStat 2 0 = code
  busy   : s'.fld rRasResetStat 31 31 = 1
  count  : s'.fld rRasResetStat 63 32 = (s.fld rRasResetStat 63 32 + 1) % 2 ^ 32

theorem Domain.code_lt (d : Domain) : d.code < 8 := by cases d <;> simp [Domain.code]

theorem askReset_asked (h : Unasked s s') (hc : s.Canonical) (d : Domain) : Asked s (s'.askReset d) d d.code := by
  have h0 : ({ s' with resets := s'.resets ++ [d] } : State).Canonical := { h.canon hc with }
  have h1 := h0.count rRasResetStat 63 32 1
  have h2 := h1.setFld rRasResetStat 31 31 1
  refine ⟨congrArg (· ++ [d]) h.resets, State.setFld_fld_of_lt h2 (by decide) (by decide) d.code_lt, ?_, ?_⟩
  · exact (State.setFld_fld_field h2 _ (.inr (by decide)) (by decide)).trans (State.setFld_fld_of_lt h1 (by decide) (by decide) (by decide))
  · refine (State.setFld_fld_field h2 _ (.inr (by decide)) (by decide)).trans
      ((State.setFld_fld_field h1 _ (.inr (by decide)) (by decide)).trans ((State.count_fld_same h0 _ _ (by decide) (by decide)).trans ?_))
    exact congrArg (fun n => (n + 1) % 2 ^ 32) (h.stat hc)

theorem askReset_fenceState (s : State) (d : Domain) {o : Nat} (ho : o < 64) : (s.askReset d).fenceState o = s.fenceState o := by
  have ha : rRasPlot o ≠ rRasResetStat := by unfold rRasPlot rRasResetStat; omega
  exact (State.setFld_fld_other ha _ _ _ _ _).trans ((State.setFld_fld_other ha _ _ _ _ _).trans (State.count_fld_other ha _ _ _ _ _))

theorem HostOnly.unasked {q : Nat} (h : HostOnly q s s') : Unasked s s' :=
  ⟨h.canon, by rw [h.rest], fun _ => h.fld _ _ _⟩

theorem Fencing.unasked (h : Fencing p s s') (hp : p < 64) : Unasked s s' := by
  refine ⟨h.canon, by rw [h.rest], fun hc => h.fld hc _ _ _ ?_ ?_ ?_ (.inl fun q hq => ?_)⟩
  · decide
  · unfold rRasPlot rRasResetStat; omega
  · unfold rRasFlt rRasResetStat; omega
  · unfold rPlotMode rRasResetStat; omega

/-! ### Fences that a request makes (R432) -/

theorem fence_eq (s : State) (p cause field : Nat) : ∃ c, s.fence p cause field = s.fencePlot p cause c := ⟨_, rfl⟩

theorem fencing_fence (s : State) (p cause field : Nat) : Fencing p s (s.fence p cause field) := by
  obtain ⟨c, h⟩ := fence_eq s p cause field
  exact h ▸ fencing_fencePlot s p cause c

theorem moreFault_state (s : State) (p : Nat) : (s.moreFault p).fenceState p = s.fenceState p := by
  unfold State.moreFault
  split
  · rfl
  · exact State.setFld_fld_other (by unfold rRasPlot rRasFlt; omega) _ _ _ _ _

/-- The fence that a request makes. -/
def State.hostFence (s : State) (p : Nat) : State := s.fence p fcHost 0xFFFF

theorem fence_fenced (hc : s.Canonical) (hp : p < 64) {cause : Nat} (hcause : cause < 256) (field : Nat) :
    (s.fence p cause field).fenceState p ≠ 0 := by
  obtain ⟨c, h⟩ := fence_eq s p cause field
  rw [h]
  by_cases h0 : s.fenceState p = 0
  · rw [(fencePlot_decided hc hp h0 hcause c).state]
    decide
  · rw [fencePlot_more h0, moreFault_state]
    exact h0

theorem fence_other (hc : s.Canonical) (hp : p < 64) {o : Nat} (ho : o < 64) (hne : o ≠ p) (cause field : Nat) :
    (s.fence p cause field).fenceState o = s.fenceState o := by
  obtain ⟨h1, h2⟩ := rRasPlot_apart ho _ rfl
  refine (fencing_fence s p cause field).fld hc _ _ _ h1 ?_ ?_ (.inl h2)
  · unfold rRasPlot; omega
  · unfold rRasPlot rRasFlt; omega

/-- Fences of a list of plots: each has one, and no plot loses its own. -/
theorem fences_fenced : ∀ (l : List Nat) {s : State}, s.Canonical → (∀ p ∈ l, p < 64) → ∀ o, o < 64 → (o ∈ l ∨ s.fenceState o ≠ 0) →
    (l.foldl State.hostFence s).fenceState o ≠ 0
  | [], _, _, _, _, _, h => h.resolve_left List.not_mem_nil
  | p :: l, s, hc, hl, o, ho, h => by
    have hp := hl p List.mem_cons_self
    refine fences_fenced l ((fencing_fence s p fcHost 0xFFFF).canon hc) (fun q hq => hl q (List.mem_cons_of_mem _ hq)) o ho ?_
    by_cases he : o = p
    · subst he
      exact .inr (fence_fenced hc hp (by decide) _)
    · refine Or.imp_right (fun hs => ?_) (h.imp_left fun hm => (List.mem_cons.1 hm).resolve_left he)
      exact fun he' => hs ((fence_other hc hp ho he _ _).symm.trans he')

/-! ### The requests -/

/-- Every command of a queue completes FENCED. -/
def State.endQueue (s : State) (q : Nat) : State := s.completeAll q (s.hostq q).cmds

theorem fenceQueues_eq (s : State) : s.fenceQueues = (List.range Config.hostQueues).foldl State.endQueue s := rfl

theorem hostOnly_endQueue (s : State) (q : Nat) : HostOnly q s (s.endQueue q) := hostOnly_completeAll s q _

theorem endQueue_empty (hc : s.Canonical) (q : Nat) : ((s.endQueue q).hostq q).cmds = [] := by
  refine List.eq_nil_iff_forall_not_mem.2 fun x hx => ?_
  obtain ⟨h1, h2⟩ := completeAll_gone (p := q) (s.hostq q).cmds hc x hx
  exact h2 x h1 rfl

/-- No queue of a list keeps a command that is outstanding. -/
theorem endQueues_empty : ∀ (l : List Nat) {s : State}, s.Canonical → ∀ q, (q ∈ l ∨ (s.hostq q).cmds = []) →
    ((l.foldl State.endQueue s).hostq q).cmds = []
  | [], _, _, _, h => h.resolve_left List.not_mem_nil
  | r :: l, s, hc, q, h => by
    refine endQueues_empty l ((hostOnly_endQueue s r).canon hc) q ?_
    by_cases he : q = r
    · exact .inr (he ▸ endQueue_empty hc q)
    · exact h.imp (fun hm => (List.mem_cons.1 hm).resolve_left he) fun hq => by rw [(hostOnly_endQueue s r).other q he, hq]

theorem unasked_fenceQueues (s : State) : Unasked s s.fenceQueues := by
  rw [fenceQueues_eq]
  exact unasked_foldl (fun u q _ => (hostOnly_endQueue u q).unasked) s

theorem fenceQueues_empty (hc : s.Canonical) {q : Nat} (hq : q < Config.hostQueues) : (s.fenceQueues.hostq q).cmds = [] := by
  rw [fenceQueues_eq]
  exact endQueues_empty _ hc q (.inl (List.mem_range.2 hq))

theorem askReset_hostq (s : State) (d : Domain) (q : Nat) : (s.askReset d).hostq q = s.hostq q := rfl

theorem askWarm_outcome (hc : s.Canonical) : Asked s s.askWarm .warm 2 ∧ ∀ q, q < Config.hostQueues → (s.askWarm.hostq q).cmds = [] := by
  refine ⟨askReset_asked (unasked_fenceQueues s) hc .warm, fun q hq => ?_⟩
  rw [State.askWarm, askReset_hostq]
  exact fenceQueues_empty hc hq

theorem mem_usersOf {s : State} {f o : Nat} : o ∈ s.usersOf f ↔ o < 64 ∧ s.usesField o f = true := by
  rw [State.usersOf, List.mem_filter, List.mem_range]

theorem askField_outcome (hc : s.Canonical) {f : Nat} (hf : Config.fieldPresent f = true) : Asked s (s.askField f) (.field f) 3 ∧
    ∀ o, o < 64 → s.usesField o f = true → (s.askField f).fenceState o ≠ 0 := by
  have hl : ∀ p ∈ s.usersOf f, p < 64 := fun p hp => (mem_usersOf.1 hp).1
  have h : s.askField f = ((s.usersOf f).foldl State.hostFence s).askReset (.field f) := by
    rw [State.askField, hf]
    rfl
  rw [h]
  refine ⟨askReset_asked (unasked_foldl (fun u p hp => (fencing_fence u p fcHost 0xFFFF).unasked (hl p hp)) s) hc _, fun o ho hu => ?_⟩
  rw [askReset_fenceState _ _ ho]
  exact fences_fenced _ hc hl o ho (.inl (mem_usersOf.2 ⟨ho, hu⟩))

theorem fenced_asked (hc : s.Canonical) (hp : p < 64) (d : Domain) : Asked s ((s.fence p fcHost 0xFFFF).askReset d) d d.code ∧
    ((s.fence p fcHost 0xFFFF).askReset d).fenceState p ≠ 0 := by
  refine ⟨askReset_asked ((fencing_fence s p fcHost 0xFFFF).unasked hp) hc d, ?_⟩
  rw [askReset_fenceState _ _ hp]
  exact fence_fenced hc hp (by decide) _

theorem askPlot_outcome (hc : s.Canonical) (hp : p < Config.plots) (hv : s.plotValid p = true) :
    Asked s (s.askPlot p) (.plot p) 4 ∧ (s.askPlot p).fenceState p ≠ 0 := by
  rw [State.askPlot, if_pos hv]
  exact fenced_asked hc hp (.plot p)

theorem askTile_outcome (hc : s.Canonical) (ht : t.isTile = true) : Asked s (s.askTile t) (.tile t) 5 ∧
    ∀ o, o < 64 → s.plotOf t = some o → (s.askTile t).fenceState o ≠ 0 := by
  have h : s.askTile t = (match s.plotOf t with | some p => s.fence p fcHost 0xFFFF | none => s).askReset (.tile t) := by
    rw [State.askTile, ht]
    rfl
  cases ho : s.plotOf t with
  | none =>
    rw [h, ho]
    exact ⟨askReset_asked (.refl s) hc _, nofun⟩
  | some p =>
    have hp : p < 64 := List.mem_range.1 (List.mem_of_find?_eq_some ho)
    obtain ⟨h1, h2⟩ := fenced_asked hc hp (.tile t)
    rw [h, ho]
    refine ⟨h1, fun o _ he => ?_⟩
    cases he
    exact h2

/-! ### DEVICE (R434, R503) -/

theorem deviceReset_outcome (s : State) : (∀ a, s.deviceReset.reg a = regReset a) ∧ (∀ u, s.deviceReset.tile u = Tile.reset) ∧
    (∀ a, s.deviceReset.byte a = 0) := ⟨fun _ => rfl, fun _ => rfl, fun _ => rfl⟩

/-! ### A tile that a reset reaches (R433) -/

theorem tilesOnly_restartTile (s : State) (t : Site) : TilesOnly s (s.restartTile t) := by
  refine ⟨?_, fun hc => (State.restartTile_keeps hc.keeps).canon⟩
  unfold State.restartTile
  split
  · rfl
  · exact (tilesOnly_darken s t).rest

theorem tilesOnly_dropSpill (s : State) (here : Site → Bool) : TilesOnly s (s.dropSpill here) :=
  ⟨rfl, fun hc => (State.dropSpill_keeps hc.keeps).canon⟩

/-- The tile that a reset leaves awake. -/
def State.wakes (s : State) (t : Site) : Tile := Tile.wake (s.tile t).loam s.cycle (s.repair.remapOf t) (s.storeMode t)

theorem resetTile_tile (hc : s.Canonical) (t : Site) : (s.resetTile t).tile t = s.wakes t :=
  mapGet_set_same t.key _ (mapWf_each (fun y : Tile => { y with ni := y.ni.partFrom t }) hc.tiles)

theorem restartTile_outcome (hc : s.Canonical) (hf : s.fieldState t.field = 0) (hr : s.rated t = true) (hp : (s.plotOf t).isSome = true) :
    (s.restartTile t).tile t = s.wakes t := by
  rw [State.restartTile, decide_eq_true hf, hr, hp]
  exact resetTile_tile hc t

theorem wakes_queue (s : State) (t : Site) (q : Nat) : (s.wakes t).queue q = .reset := by
  unfold Tile.queue
  split
  · exact Vector.getElem_replicate _
  · rfl

theorem wakes_core_get (s : State) (t : Site) (i : Nat) : (s.wakes t).core.get i = 0 := by
  unfold Core.get
  split
  · rfl
  · show (if h : i < 32 then (Vector.replicate 32 (0 : Word))[i] else 0) = 0
    split
    · exact Vector.getElem_replicate _
    · rfl

/-! ### The end of a PLOT reset (R429, R433) -/

theorem liftFence_canonical (hc : s.Canonical) (p : Nat) : (s.liftFence p).Canonical := (State.liftFence_keeps hc.keeps).canon

theorem liftFence_state (hc : s.Canonical) (p : Nat) : (s.liftFence p).fenceState p = 0 := by
  unfold State.liftFence
  split
  · assumption
  · refine State.setFld_fld_of_lt (foldl_canonical (fun _ _ h => ?_) hc _) (by decide) (by decide) (by decide)
    exact h.onTile _ _

theorem tilesOnly_onTile (s : State) (t : Site) (f : Tile → Tile) : TilesOnly s (s.onTile t f) := ⟨rfl, fun hc => hc.onTile t f⟩

theorem tilesOnly_startCore (s : State) (args : List Word) (t : Site) : TilesOnly s (s.startCore args t) := ⟨rfl, fun hc => (State.startCore_keeps hc.keeps).canon⟩

theorem tilesOnly_onNi (s : State) (t : Site) (f : Ni → Ni) : TilesOnly s (s.onNi t f) := ⟨rfl, fun hc => hc.onNi t f⟩

theorem startRun_fenceState (hc : s.Canonical) (p : Nat) (r : RunSt) : (s.startRun p r).fenceState p = s.fenceState p :=
  ((tilesOnly_foldl (fun _ _ => (tilesOnly_startCore _ _ _).trans (tilesOnly_onNi _ _ _)) _ _).fld _ _ _).trans
    (State.setFld_fld_field hc _ (.inr (by decide)) (by decide))

theorem tilesOnly_sleepPlot (s : State) (p : Nat) : TilesOnly s (s.sleepPlot p) := by
  unfold State.sleepPlot
  split
  · exact tilesOnly_foldl tilesOnly_nap _ s
  · exact .refl s

/-- A plot's tables and frames come from its placement. -/
def State.plotTables (s : State) (p : Nat) : State :=
  match (s.plot p).placed with
  | some pl => if decide (s.placeState p = 3) || decide (s.placeState p = 5) then (s.setTiles pl).onPlot p (fun x => { x with layer := 0 }) else s
  | none => s

/-- A PLOT reset up to the fence that it lifts. -/
def State.plotRestored (s : State) (p : Nat) : State :=
  (((s.usable p).foldl State.restartTile s).plotTables p).dropSets (fun x => x.mask.contains p)

theorem endPlotReset_eq (s : State) (p : Nat) : s.endPlotReset p =
    match (s.plot p).fence.bind (fun f => f.replay) with
    | some r => ((((s.plotRestored p).liftFence p).onPlot p (fun x => { x with run := none, draining := false })).bump (rRasPlot p) 15 8 1).startRun p r
    | none => (((s.plotRestored p).liftFence p).onPlot p (fun x => { x with run := none, draining := false })).sleepPlot p := rfl

theorem plotRestored_canonical (hc : s.Canonical) (p : Nat) : (s.plotRestored p).Canonical := by
  have h1 : ((s.usable p).foldl State.restartTile s).Canonical := (tilesOnly_foldl tilesOnly_restartTile _ s).canon hc
  refine (State.dropSets_keeps (State.Canonical.keeps ?_)).canon
  unfold State.plotTables
  split
  · split
    · exact State.Canonical.onPlot (State.setTiles_keeps h1.keeps).canon p _
    · exact h1
  · exact h1

theorem endPlotReset_fenceState (hc : s.Canonical) (p : Nat) : (s.endPlotReset p).fenceState p = 0 := by
  rw [endPlotReset_eq]
  have h1 := plotRestored_canonical hc p
  generalize s.plotRestored p = u at *
  have h2 := (liftFence_canonical h1 p).onPlot p (fun x => { x with run := none, draining := false })
  have h3 : ((u.liftFence p).onPlot p (fun x => { x with run := none, draining := false })).fenceState p = 0 := liftFence_state h1 p
  generalize (u.liftFence p).onPlot p (fun x => { x with run := none, draining := false }) = v at *
  split
  · rw [startRun_fenceState (h2.bump _ _ _ _)]
    exact (State.setFld_fld_field h2 _ (.inr (by decide)) (by decide)).trans h3
  · exact ((tilesOnly_sleepPlot v p).fld _ _ _).trans h3

/-! ### The end of a WARM reset (R434, R435, R460) -/

/-- A plot becomes EMPTY, its fence standing. -/
def State.warmPlot (s : State) (p : Nat) : State :=
  let s := (((s.freePlaced p).freeStaging p).setPlace p 0).setFld (rPlotMode p) 7 7 0
  s.setPlot p { PlotSt.reset with fence := (s.plot p).fence, ueRing := (s.plot p).ueRing }

/-- What a WARM reset drops, and what it zeroes of a delivery. -/
def State.warmCleared (s : State) : State :=
  let z : List (Nat × Nat × Nat × Nat) := match s.boot.delivery with
    | some d => d.extents.map (fun e => (64, e.site, e.off, k64))
    | none => []
  let s := { s with zeroing := s.zeroing ++ z, shadow := [], svc := [], rdma := [], frozen := false, aiDue := none }
  { s with boot := { s.boot with delivery := none, tries := 0, watchdog := false } }

/-- Topsoil is verified and started again. -/
def State.topsoilStarts (s : State) : State :=
  let s := (s.setFld rRasAi 62 62 0).setFld rSecRecov 0 0 0
  let s := ((s.setFld rSecBoot 7 4 6).setFld rTelemStat 31 31 0).onTelem (fun t => { t with
    events := [], traces := [], sums := [], eseq := 0, tseq := 0, dseqE := 0, dseqT := 0 })
  { s with alertN := false }

def State.warmStart (s : State) : State := s.warmCleared.topsoilStarts

theorem endWarm_eq (s : State) : s.endWarm = ((List.range 64).foldl State.warmPlot
    (((s.tiles.map (fun e => siteOf e.1)).foldl State.restartTile s).dropSpill (fun _ => true))).warmStart := by
  rw [State.endWarm]
  generalize ((s.tiles.map (fun e => siteOf e.1)).foldl State.restartTile s).dropSpill (fun _ => true) = u
  generalize List.range 64 = l
  rfl

/-- What freeing and emptying plots leaves as it was. -/
structure PlotsFreed (s s' : State) : Prop where
  rest  : s' = { s with plots := s'.plots, sreg := s'.sreg, zeroing := s'.zeroing }
  canon : s.Canonical → s'.Canonical
  fld   : s.Canonical → ∀ a hi lo, (∀ p, p < 64 → a ≠ rPlotPlace p ∧ a ≠ rPlotMode p) → s'.fld a hi lo = s.fld a hi lo

theorem PlotsFreed.trans (h : PlotsFreed s s') (k : PlotsFreed s' s'') : PlotsFreed s s'' where
  rest := by rw [k.rest, h.rest]
  canon := fun hc => k.canon (h.canon hc)
  fld := fun hc a hi lo ha => (k.fld (h.canon hc) a hi lo ha).trans (h.fld hc a hi lo ha)

theorem freePlaced_fld (s : State) {a : Nat} (ha : a ≠ rPlotMode p) (hi lo : Nat) : (s.freePlaced p).fld a hi lo = s.fld a hi lo := by
  unfold State.freePlaced
  split
  · rfl
  · exact State.setFld_fld_other ha _ _ _ _ _

theorem freeStaging_fld (s : State) (p a hi lo : Nat) : (s.freeStaging p).fld a hi lo = s.fld a hi lo := by
  unfold State.freeStaging
  split <;> rfl

theorem freePlaced_freed (s : State) (hp : p < 64) : PlotsFreed s (s.freePlaced p) := by
  refine ⟨?_, fun hc => (State.freePlaced_keeps hc.keeps).canon, fun _ a hi lo ha => freePlaced_fld s (ha p hp).2 hi lo⟩
  unfold State.freePlaced
  split <;> rfl

theorem freeStaging_freed (s : State) (p : Nat) : PlotsFreed s (s.freeStaging p) := by
  refine ⟨?_, fun hc => (State.freeStaging_keeps hc.keeps).canon, fun _ a hi lo _ => freeStaging_fld s p a hi lo⟩
  unfold State.freeStaging
  split <;> rfl

theorem setPlace_freed (s : State) (hp : p < 64) : PlotsFreed s ((s.setPlace p 0).setFld (rPlotMode p) 7 7 0) := by
  refine ⟨rfl, fun hc => (hc.setFld _ _ _ _).setFld _ _ _ _, fun hc a hi lo ha => ?_⟩
  exact (State.setFld_fld_other (ha p hp).2 _ _ _ _ _).trans (State.setFld_fld_other (ha p hp).1 _ _ _ _ _)

theorem setPlot_freed (s : State) (p : Nat) (x : PlotSt) : PlotsFreed s (s.setPlot p x) :=
  ⟨rfl, fun hc => hc.onPlot p (fun _ => x), fun _ _ _ _ _ => rfl⟩

theorem warmPlot_freed (s : State) (hp : p < 64) : PlotsFreed s (s.warmPlot p) :=
  (((freePlaced_freed s hp).trans (freeStaging_freed _ p)).trans (setPlace_freed _ hp)).trans (setPlot_freed _ p _)

/-- A plot that a WARM reset has emptied. -/
structure WarmEmpty (o : Nat) (s : State) : Prop where
  state  : s.placeState o = 0
  placed : (s.plot o).placed = none
  pkg    : (s.plot o).pkg = none

theorem warmPlot_empty (hc : s.Canonical) (hp : p < 64) : WarmEmpty p (s.warmPlot p) := by
  have h1 := (freeStaging_freed (s.freePlaced p) p).canon ((freePlaced_freed s hp).canon hc)
  have hne : rPlotPlace p ≠ rPlotMode p := by unfold rPlotPlace rPlotMode; omega
  have hplot : (s.warmPlot p).plot p = { PlotSt.reset with
      fence := ((((s.freePlaced p).freeStaging p).setPlace p 0).setFld (rPlotMode p) 7 7 0 |>.plot p).fence
      ueRing := ((((s.freePlaced p).freeStaging p).setPlace p 0).setFld (rPlotMode p) 7 7 0 |>.plot p).ueRing } :=
    mapGet_set_same p _ ((setPlace_freed _ hp).canon h1).plots
  refine ⟨?_, by rw [hplot]; rfl, by rw [hplot]; rfl⟩
  exact (State.setFld_fld_other hne _ _ _ _ _).trans (State.setFld_fld_of_lt h1 (by decide) (by decide) (by decide))

theorem freePlaced_other (s : State) {o : Nat} (h : o ≠ p) : (s.freePlaced p).plot o = s.plot o := by
  unfold State.freePlaced
  split
  · rfl
  · exact mapGet_set_other _ h

theorem freeStaging_other (s : State) {o : Nat} (h : o ≠ p) : (s.freeStaging p).plot o = s.plot o := by
  unfold State.freeStaging
  split
  · rfl
  · exact mapGet_set_other _ h

theorem warmPlot_other (s : State) {o : Nat} (h : o ≠ p) : (s.warmPlot p).plot o = s.plot o ∧
    (s.warmPlot p).placeState o = s.placeState o := by
  refine ⟨(mapGet_set_other _ h).trans ((freeStaging_other _ h).trans (freePlaced_other s h)), ?_⟩
  have h1 : rPlotPlace o ≠ rPlotMode p := by unfold rPlotPlace rPlotMode; omega
  have h2 : rPlotPlace o ≠ rPlotPlace p := by unfold rPlotPlace; omega
  exact (State.setFld_fld_other h1 _ _ _ _ _).trans ((State.setFld_fld_other h2 _ _ _ _ _).trans
    ((freeStaging_fld _ p _ _ _).trans (freePlaced_fld s h1 _ _)))

/-- Plots that a WARM reset meets are empty, and none is filled again. -/
theorem warmPlots_empty : ∀ (l : List Nat) {s : State}, s.Canonical → (∀ p ∈ l, p < 64) → ∀ o, o < 64 → (o ∈ l ∨ WarmEmpty o s) →
    WarmEmpty o (l.foldl State.warmPlot s)
  | [], _, _, _, _, _, h => h.resolve_left List.not_mem_nil
  | p :: l, s, hc, hl, o, ho, h => by
    have hp := hl p List.mem_cons_self
    refine warmPlots_empty l ((warmPlot_freed s hp).canon hc) (fun q hq => hl q (List.mem_cons_of_mem _ hq)) o ho ?_
    by_cases he : o = p
    · subst he
      exact .inr (warmPlot_empty hc hp)
    · obtain ⟨h1, h2⟩ := warmPlot_other s he
      exact h.imp (fun hm => (List.mem_cons.1 hm).resolve_left he)
        fun hw => ⟨h2.trans hw.state, by rw [h1, hw.placed], by rw [h1, hw.pkg]⟩

theorem PlotsFreed.refl (s : State) : PlotsFreed s s := ⟨rfl, id, fun _ _ _ _ _ => rfl⟩

theorem warmPlots_freed (l : List Nat) (hl : ∀ p ∈ l, p < 64) (s : State) : PlotsFreed s (l.foldl State.warmPlot s) :=
  List.foldlRecOn (motive := PlotsFreed s) l State.warmPlot (.refl s) fun _ hu p hp => hu.trans (warmPlot_freed _ (hl p hp))

theorem topsoilStarts_rest (s : State) : s.topsoilStarts.plots = s.plots ∧ s.topsoilStarts.flash = s.flash ∧
    s.topsoilStarts.frozen = s.frozen ∧ s.topsoilStarts.shadow = s.shadow := by
  simp only [State.topsoilStarts, State.onTelem, State.setFld, State.setReg, and_self]

theorem warmCleared_rest (s : State) : s.warmCleared.plots = s.plots ∧ s.warmCleared.flash = s.flash ∧
    s.warmCleared.frozen = false ∧ s.warmCleared.shadow = [] := ⟨rfl, rfl, rfl, rfl⟩

theorem warmStart_rest (s : State) : s.warmStart.plots = s.plots ∧ s.warmStart.flash = s.flash ∧
    s.warmStart.frozen = false ∧ s.warmStart.shadow = [] := by
  obtain ⟨h1, h2, h3, h4⟩ := warmCleared_rest s
  obtain ⟨k1, k2, k3, k4⟩ := topsoilStarts_rest s.warmCleared
  exact ⟨k1.trans h1, k2.trans h2, k3.trans h3, k4.trans h4⟩

theorem warmCleared_fld (s : State) (a hi lo : Nat) : s.warmCleared.fld a hi lo = s.fld a hi lo := rfl
theorem warmCleared_canonical (hc : s.Canonical) : s.warmCleared.Canonical := { hc with }

theorem topsoilStarts_fld (s : State) {a : Nat} (ha : a ∉ [rRasAi, rSecRecov, rSecBoot, rTelemStat]) (hi lo : Nat) :
    s.topsoilStarts.fld a hi lo = s.fld a hi lo := by
  simp only [List.mem_cons, List.not_mem_nil, or_false, not_or] at ha
  obtain ⟨h1, h2, h3, h4⟩ := ha
  exact (State.setFld_fld_other h4 _ _ _ _ _).trans ((State.setFld_fld_other h3 _ _ _ _ _).trans
    ((State.setFld_fld_other h2 _ _ _ _ _).trans (State.setFld_fld_other h1 _ _ _ _ _)))

theorem topsoilStarts_stage (hc : s.Canonical) : s.topsoilStarts.stage = 6 :=
  (State.setFld_fld_other (a := rTelemStat) (b := rSecBoot) (by decide) _ _ _ _ _).trans
    (State.setFld_fld_of_lt ((hc.setFld rRasAi 62 62 0).setFld rSecRecov 0 0 0) (by decide) (by decide) (by decide))

theorem warmStart_fld (s : State) {a : Nat} (ha : a ∉ [rRasAi, rSecRecov, rSecBoot, rTelemStat]) (hi lo : Nat) :
    s.warmStart.fld a hi lo = s.fld a hi lo := (topsoilStarts_fld _ ha hi lo).trans (warmCleared_fld s a hi lo)

theorem warmStart_stage (hc : s.Canonical) : s.warmStart.stage = 6 := topsoilStarts_stage (warmCleared_canonical hc)

theorem endWarm_outcome (hc : s.Canonical) : s.endWarm.frozen = false ∧ s.endWarm.stage = 6 ∧ s.endWarm.shadow = [] ∧
    s.endWarm.flash = s.flash ∧ ∀ o, o < 64 → WarmEmpty o s.endWarm ∧ s.endWarm.fenceState o = s.fenceState o := by
  have ht : TilesOnly s (((s.tiles.map (fun e => siteOf e.1)).foldl State.restartTile s).dropSpill (fun _ => true)) :=
    (tilesOnly_foldl tilesOnly_restartTile _ s).trans (tilesOnly_dropSpill _ _)
  rw [endWarm_eq]
  generalize ((s.tiles.map (fun e => siteOf e.1)).foldl State.restartTile s).dropSpill (fun _ => true) = u at *
  have hl : ∀ p ∈ List.range 64, p < 64 := fun p hp => List.mem_range.1 hp
  have hf := warmPlots_freed _ hl u
  have he := fun o ho => warmPlots_empty _ (ht.canon hc) hl o ho (.inl (List.mem_range.2 ho))
  generalize (List.range 64).foldl State.warmPlot u = v at *
  obtain ⟨k1, k2, k3, k4⟩ := warmStart_rest v
  have hplot : ∀ o, v.warmStart.plot o = v.plot o := fun o => by rw [State.plot, k1, State.plot]
  refine ⟨k3, warmStart_stage (hf.canon (ht.canon hc)), k4, ?_, fun o ho => ⟨?_, ?_⟩⟩
  · rw [k2, hf.rest, ht.rest]
  · have hne : rPlotPlace o ∉ [rRasAi, rSecRecov, rSecBoot, rTelemStat] := by
      simp only [List.mem_cons, List.not_mem_nil, or_false, rPlotPlace, rRasAi, rSecRecov, rSecBoot, rTelemStat]
      omega
    have h := he o ho
    exact ⟨(warmStart_fld v hne _ _).trans h.state, by rw [hplot, h.placed], by rw [hplot, h.pkg]⟩
  · have hne : rRasPlot o ∉ [rRasAi, rSecRecov, rSecBoot, rTelemStat] := by
      simp only [List.mem_cons, List.not_mem_nil, or_false, rRasPlot, rRasAi, rSecRecov, rSecBoot, rTelemStat]
      omega
    refine (warmStart_fld v hne _ _).trans ((hf.fld (ht.canon hc) _ _ _ fun p hp => ?_).trans (ht.fld _ _ _))
    unfold rRasPlot rPlotPlace rPlotMode
    omega

/-! ### Loam that has left a plot (R435) -/

/-- Whether a byte stands in a range of a column. -/
def Zeroes (z : Nat × Nat × Nat × Nat) (a : Nat) : Prop :=
  loamAddr (siteOf z.2.1) z.2.2.1 ≤ a ∧ a < loamAddr (siteOf z.2.1) z.2.2.1 + z.2.2.2

/-- The ranges of a list are zeroed. -/
def State.zeroRanges (s : State) (l : List (Nat × Nat × Nat × Nat)) : State := l.foldl (fun s z => s.zeroRange z.2.1 z.2.2.1 z.2.2.2) s

theorem zeroRange_byte (s : State) (z : Nat × Nat × Nat × Nat) (a : Nat) :
    (Zeroes z a → (s.zeroRange z.2.1 z.2.2.1 z.2.2.2).byte a = 0) ∧
      (¬ Zeroes z a → (s.zeroRange z.2.1 z.2.2.1 z.2.2.2).byte a = s.byte a) := by
  have h := mapGet_filter_key memDefault
    (fun k => !(decide (loamAddr (siteOf z.2.1) z.2.2.1 ≤ k) && decide (k < loamAddr (siteOf z.2.1) z.2.2.1 + z.2.2.2))) s.mem a
  refine ⟨fun hr => h.trans ?_, fun hr => h.trans (if_pos ?_)⟩
  · rw [decide_eq_true hr.1, decide_eq_true hr.2]
    rfl
  · rw [Bool.not_eq_true', ← Bool.decide_and]
    exact decide_eq_false hr

theorem zeroRanges_byte (a : Nat) : ∀ (l : List (Nat × Nat × Nat × Nat)) (s : State),
    ((∃ z ∈ l, Zeroes z a) ∨ s.byte a = 0 → (s.zeroRanges l).byte a = 0) ∧
      ((∀ z ∈ l, ¬ Zeroes z a) → (s.zeroRanges l).byte a = s.byte a)
  | [], _ => ⟨fun h => h.resolve_left fun ⟨_, hz, _⟩ => List.not_mem_nil hz, fun _ => rfl⟩
  | z :: l, s => by
    obtain ⟨h1, h2⟩ := zeroRanges_byte a l (s.zeroRange z.2.1 z.2.2.1 z.2.2.2)
    obtain ⟨k1, k2⟩ := zeroRange_byte s z a
    refine ⟨fun h => h1 ?_, fun h => (h2 fun y hy => h y (List.mem_cons_of_mem _ hy)).trans (k2 (h z List.mem_cons_self))⟩
    by_cases hz : Zeroes z a
    · exact .inr (k1 hz)
    · refine h.imp (fun ⟨y, hy, hr⟩ => ⟨y, (List.mem_cons.1 hy).resolve_left fun he => hz (he ▸ hr), hr⟩) fun h0 => (k2 hz).trans h0

theorem zeroRanges_rest (l : List (Nat × Nat × Nat × Nat)) (s : State) : (s.zeroRanges l).zeroing = s.zeroing :=
  List.foldlRecOn (motive := fun u : State => u.zeroing = s.zeroing) l _ rfl fun _ hu _ _ => hu

/-- Loam zeroed for a plot. -/
def State.zeroes (s : State) (p : Nat) : State :=
  ({ s with zeroing := s.zeroing.filter (fun z => decide (z.1 ≠ p)) } : State).zeroRanges (s.zeroing.filter (fun z => decide (z.1 = p)))

theorem exec_loamZeroing {z : Nat × Nat × Nat × Nat} (hz : z ∈ s.zeroing) (hp : z.1 = p) : exec (.loamZeroing p) s = .next (s.zeroes p) := by
  refine when_of ?_
  have hm : z ∈ s.zeroing.filter (fun z => decide (z.1 = p)) := List.mem_filter.2 ⟨hz, decide_eq_true hp⟩
  cases hl : s.zeroing.filter (fun z => decide (z.1 = p)) with
  | nil => exact absurd (hl ▸ hm) List.not_mem_nil
  | cons y l => rfl

theorem zeroes_outcome (s : State) (p : Nat) : (s.zeroes p).zeroing = s.zeroing.filter (fun z => decide (z.1 ≠ p)) ∧
    (∀ z ∈ s.zeroing, z.1 = p → ∀ k, k < z.2.2.2 → (s.zeroes p).byte (loamAddr (siteOf z.2.1) z.2.2.1 + k) = 0) ∧
    ∀ a, (∀ z ∈ s.zeroing, z.1 = p → a < loamAddr (siteOf z.2.1) z.2.2.1 ∨ loamAddr (siteOf z.2.1) z.2.2.1 + z.2.2.2 ≤ a) →
      (s.zeroes p).byte a = s.byte a := by
  refine ⟨zeroRanges_rest _ _, fun z hz hp k hk => ?_, fun a ha => ?_⟩
  · exact (zeroRanges_byte _ _ _).1 (.inl ⟨z, List.mem_filter.2 ⟨hz, decide_eq_true hp⟩, by unfold Zeroes; omega⟩)
  · refine (zeroRanges_byte a _ _).2 fun z hz hr => ?_
    obtain ⟨hm, hd⟩ := List.mem_filter.1 hz
    unfold Zeroes at hr
    have := ha z hm (of_decide_eq_true hd)
    omega

/-! ### Events -/

theorem exec_resetComplete {d : Domain} {rest : List Domain} (h : Picks s.resetReady s.resets d rest) :
    exec .resetComplete s = .next ((s.withoutReset rest).endReset d) := by
  show execResetComplete s = _
  rw [execResetComplete, takeFirst_picks h]
  rfl

theorem exec_tileResetTimeout (hl : s.Live t) {rest : List Domain} (h : Picks (fun d => decide (d = .tile t)) s.resets (.tile t) rest)
    (hr : s.resetReady (.tile t) = true) : exec (.tileResetTimeout t) s = .next ((s.withoutReset rest).retireTile t) := by
  refine (onTile_live hl).trans ?_
  rw [takeFirst_picks h]
  exact when_of hr

end

/-- Settles O58. -/
theorem resetsReachTheirDomains : Obligations.ResetsReachTheirDomains := by
  unfold Obligations.ResetsReachTheirDomains
  intro s p f t hc asked
  have hasked : ∀ {s' d c}, Asked s s' d c → asked s' d c := fun h => ⟨h.resets, h.code, h.busy, h.count⟩
  obtain ⟨d1, d2, d3⟩ := deviceReset_outcome s
  refine ⟨⟨s.deviceReset, rfl, d1, d2, d3, rfl, rfl, rfl, rfl, rfl, rfl⟩, ⟨_, rfl, fun _ => rfl, rfl, rfl⟩, ?_, fun hf => ?_, fun hf => ?_,
    fun hp => ⟨fun hv => ?_, fun hv => ⟨?_, ?_⟩⟩, fun ht => ?_, fun ht => ?_, fun d rest h => exec_resetComplete h, fun o => decide_eq_true_iff,
    fun _ => endPlotReset_fenceState hc p, fun hf hr ho => ?_, ?_, fun rest hl hpk hr => exec_tileResetTimeout hl hpk hr, fun ⟨z, hz, hzp⟩ => ?_⟩
  · obtain ⟨h1, h2⟩ := askWarm_outcome hc
    exact ⟨_, rfl, hasked h1, h2⟩
  · refine congrArg _ (?_ : s.askField f = s.refuseReset)
    rw [State.askField, hf]
    rfl
  · obtain ⟨h1, h2⟩ := askField_outcome hc hf
    exact ⟨_, rfl, hasked h1, h2⟩
  · obtain ⟨h1, h2⟩ := askPlot_outcome hc hp hv
    refine ⟨s.askPlot p, onUnit_of (decide_eq_true hp), (onUnit_of (decide_eq_true hp)).trans ?_, hasked h1, h2⟩
    rw [if_pos hv]
  · refine (onUnit_of (decide_eq_true hp)).trans ?_
    rw [State.askPlot, hv]
    rfl
  · refine (onUnit_of (decide_eq_true hp)).trans ?_
    rw [hv]
    rfl
  · refine congrArg _ (?_ : s.askTile t = s.refuseReset)
    rw [State.askTile, ht]
    rfl
  · obtain ⟨h1, h2⟩ := askTile_outcome hc ht
    exact ⟨_, rfl, hasked h1, h2⟩
  · have h := restartTile_outcome hc hf hr ho
    refine ⟨by rw [h]; rfl, ?_, fun i => ?_, fun q => ?_⟩
    · rw [State.core, h]
      rfl
    · rw [State.core, h]
      exact wakes_core_get s t i
    · rw [State.queue, h, wakes_queue]
      exact ⟨rfl, rfl⟩
  · obtain ⟨h1, h2, h3, h4, h5⟩ := endWarm_outcome hc
    refine ⟨h1, h2, h3, h4, fun o ho => ?_⟩
    obtain ⟨hw, hs⟩ := h5 o ho
    exact ⟨hw.state, hw.placed, hw.pkg, hs⟩
  · obtain ⟨h1, h2, h3⟩ := zeroes_outcome s p
    exact ⟨s.zeroes p, exec_loamZeroing hz hzp, h1, h2, h3⟩

end Sys2Proof.Machine
end

section
/-!
PROOFS. Shadow sets: STAGE, CHECK, COMMIT, the instant, and what items do at it (R359 to R375).
-/
namespace Sys2Proof.Machine

section
variable {s : State} {q op k i : Nat} {c : HostCmd} {x : ShadowSet}

/-! ### A command that its queue serves -/

theorem hostRow_serves (h : s.Serves q op c) (name : String) (f : HostCmd → Out) : hostRow name op q s f = f c := by
  refine (onUnit_of (decide_eq_true h.queue)).trans ((whenSome_of h.cmd).trans ?_)
  simp only [h.sound, h.unheld]
  rfl

/-! ### STAGE (R359 to R362) -/

/-- The item that a part of STAGE names. -/
def HostCmd.partItem (c : HostCmd) (i : Nat) : ShadowItem :=
  { item := c.num (16 * i + 4) 1, plot := c.num (16 * i + 5) 1, value := BitVec.ofNat 64 (c.num (16 * i + 8) 8) }

/-- A part of STAGE has the form of R361. -/
def HostCmd.PartFits (c : HostCmd) (i : Nat) : Prop :=
  c.num (16 * i) 4 ≠ 0 ∧ c.num (16 * i + 6) 2 = 0 ∧ itemValueOk (c.num (16 * i + 4) 1) (c.num (16 * i + 8) 8) = true ∧
    (if isPlotItem (c.num (16 * i + 4) 1) then c.num (16 * i + 5) 1 ≤ 63 else c.num (16 * i + 5) 1 = 0)

/-- The queue may stage what a part names (R350). -/
def State.PartMine (s : State) (q : Nat) (c : HostCmd) (i : Nat) : Prop :=
  s.queueDev q = true ∨ (c.num (16 * i + 4) 1 < 0x10 ∧ (isPlotItem (c.num (16 * i + 4) 1) = true → c.num (16 * i + 5) 1 = q))

theorem partFits_iff (c : HostCmd) (i : Nat) :
    (decide (c.num (16 * i) 4 = 0) || decide (c.num (16 * i + 6) 2 ≠ 0) || !itemValueOk (c.num (16 * i + 4) 1) (c.num (16 * i + 8) 8) ||
      (if isPlotItem (c.num (16 * i + 4) 1) then decide (63 < c.num (16 * i + 5) 1) else decide (c.num (16 * i + 5) 1 ≠ 0))) = true ↔
      ¬ c.PartFits i := by
  unfold HostCmd.PartFits
  cases itemValueOk (c.num (16 * i + 4) 1) (c.num (16 * i + 8) 8) <;> cases isPlotItem (c.num (16 * i + 4) 1) <;> simp <;> omega

theorem partMine_iff (s : State) (q : Nat) (c : HostCmd) (i : Nat) :
    (!s.queueDev q && (decide (0x10 ≤ c.num (16 * i + 4) 1) || (isPlotItem (c.num (16 * i + 4) 1) && decide (c.num (16 * i + 5) 1 ≠ q)))) = true ↔
      ¬ s.PartMine q c i := by
  unfold State.PartMine
  cases s.queueDev q
  · cases isPlotItem (c.num (16 * i + 4) 1)
    · simp
    · simp
      omega
  · simp

theorem stagePart_unfit (h : ¬ c.PartFits i) : s.stagePart q c i = (stBadop, s) := if_pos ((partFits_iff c i).2 h)

theorem stagePart_other (h : c.PartFits i) (hm : ¬ s.PartMine q c i) : s.stagePart q c i = (stPerm, s) :=
  (if_neg fun hb => (partFits_iff c i).1 hb h).trans (if_pos ((partMine_iff s q c i).2 hm))

/-- A set with its first item. -/
def ShadowSet.fresh (num q : Nat) (it : ShadowItem) : ShadowSet :=
  { num := num, owner := q, state := 0, code := 0, items := [it], whenKind := 0, instant := 0, want := 0, named := 0, sent := false }

/-- A part that the queue may stage, as the set that it names stands. -/
def State.stageSet (s : State) (q num : Nat) (it : ShadowItem) : Nat × State :=
  match s.setNamed num with
  | some (k, x) =>
    if x.owner ≠ q then (stPerm, s)
    else if x.state = 3 then (stState, s)
    else if it.item = 0 then (stOk, s.dropSet k)
    else if decide (255 ≤ x.items.length) && decide ((x.put it).items.length ≠ x.items.length) then (stNospace, s)
    else (stOk, s.putSet k (x.put it))
  | none =>
    if it.item = 0 then (stOk, s)
    else match s.freeSlot with
      | none => (stNospace, s)
      | some k => (stOk, s.putSet k (.fresh num q it))

theorem stagePart_mine (h : c.PartFits i) (hm : s.PartMine q c i) : s.stagePart q c i = s.stageSet q (c.num (16 * i) 4) (c.partItem i) :=
  (if_neg fun hb => (partFits_iff c i).1 hb h).trans (if_neg fun hb => (partMine_iff s q c i).1 hb hm)

theorem stageSet_named {num : Nat} (hn : s.setNamed num = some (k, x)) (it : ShadowItem) :
    (x.owner ≠ q → s.stageSet q num it = (stPerm, s)) ∧ (x.owner = q → x.state = 3 → s.stageSet q num it = (stState, s)) ∧
      (x.owner = q → x.state ≠ 3 → it.item = 0 → s.stageSet q num it = (stOk, s.dropSet k)) ∧
      (x.owner = q → x.state ≠ 3 → it.item ≠ 0 → x.items.length < 255 → s.stageSet q num it = (stOk, s.putSet k (x.put it))) := by
  unfold State.stageSet
  rw [hn]
  refine ⟨fun h => if_pos h, fun h h3 => (if_neg (Classical.not_not.2 h)).trans (if_pos h3),
    fun h h3 h0 => (if_neg (Classical.not_not.2 h)).trans ((if_neg h3).trans (if_pos h0)), fun h h3 h0 hl => ?_⟩
  refine (if_neg (Classical.not_not.2 h)).trans ((if_neg h3).trans ((if_neg h0).trans (if_neg ?_)))
  rw [decide_eq_false (Nat.not_le.2 hl)]
  exact Bool.false_ne_true

theorem stageSet_new {num : Nat} (hn : s.setNamed num = none) {it : ShadowItem} (h0 : it.item ≠ 0) :
    (s.freeSlot = none → s.stageSet q num it = (stNospace, s)) ∧ ∀ k, s.freeSlot = some k → ∃ x, s.stageSet q num it = (stOk, s.putSet k x) ∧
      x.num = num ∧ x.owner = q ∧ x.state = 0 ∧ x.items = [it] := by
  unfold State.stageSet
  rw [hn]
  refine ⟨fun hf => (if_neg h0).trans ?_, fun k hf => ⟨.fresh num q it, (if_neg h0).trans ?_, rfl, rfl, rfl, rfl⟩⟩
  · rw [hf]
  · rw [hf]

/-- Two items that set the same thing of the same plot. -/
def ShadowItem.alike (i j : ShadowItem) : Bool := decide (j.item = i.item) && decide (j.plot = i.plot)

theorem alike_self (i : ShadowItem) : i.alike i = true := by simp [ShadowItem.alike]

theorem find_replaced (it : ShadowItem) : ∀ l : List ShadowItem, l.any it.alike = true →
    (l.map (fun j => if it.alike j then it else j)).find? it.alike = some it
  | [], h => absurd h Bool.false_ne_true
  | j :: l, h => by
    rw [List.map_cons]
    by_cases hj : it.alike j = true
    · rw [if_pos hj, List.find?_cons_of_pos (alike_self it)]
    · rw [if_neg hj, List.find?_cons_of_neg hj]
      rw [List.any_cons, Bool.eq_false_iff.2 hj, Bool.false_or] at h
      exact find_replaced it l h

theorem put_items (x : ShadowSet) (it : ShadowItem) : (x.put it).items =
    if x.items.any it.alike then x.items.map (fun j => if it.alike j then it else j) else x.items ++ [it] := rfl

/-- An item that a set has taken is what the set holds for its plot. -/
theorem put_get (x : ShadowSet) (it : ShadowItem) : (x.put it).get it.item it.plot = some it.value.toNat := by
  show ((x.put it).items.find? it.alike).map (fun i => i.value.toNat) = _
  rw [put_items]
  split
  · next h => rw [find_replaced it _ h, Option.map_some]
  · next h =>
    rw [List.find?_append, List.find?_eq_none.2 fun j hj hb => h (List.any_eq_true.2 ⟨j, hj, hb⟩), Option.none_or,
      List.find?_cons_of_pos (alike_self it), Option.map_some]

/-! ### CHECK and COMMIT (R364, R365) -/

theorem devRefused_none (h : s.setNamed k = none) : s.devRefused q k = false := by
  rw [State.devRefused, h, Bool.and_false]

theorem judge_owned {num : Nat} (hn : s.setNamed num = some (k, x)) (ho : x.owner = q) : s.judge q num = s.checkSet x := by
  rw [State.judge, hn]
  exact if_pos ho

theorem judge_none {num : Nat} (hn : s.setNamed num = none) : s.judge q num = 1 := by rw [State.judge, hn]

theorem exec_check_refused (h : s.Serves q opCheck c) (hd : s.devRefused q (c.num 0 4) = true) :
    exec (.check q) s = .next (s.finish q c stPerm 0 []) := (hostRow_serves h _ _).trans (if_pos hd)

theorem exec_check_none (h : s.Serves q opCheck c) (hn : s.setNamed (c.num 0 4) = none) :
    exec (.check q) s = .next (s.finish q c stRefused 1 []) := by
  refine (hostRow_serves h _ _).trans ((if_neg ?_).trans ?_)
  · rw [devRefused_none hn]
    exact Bool.false_ne_true
  · simp only [hn, judge_none hn]
    rfl

theorem exec_check_owned (h : s.Serves q opCheck c) (hd : s.devRefused q (c.num 0 4) = false) (hn : s.setNamed (c.num 0 4) = some (k, x))
    (ho : x.owner = q) (h3 : x.state ≠ 3) :
    (s.checkSet x = 0 → exec (.check q) s = .next (((s.putSet k { x with state := 1, code := 0 }).ownChecked (c.num 0 4)).finish q c stOk 0 [])) ∧
      (s.checkSet x ≠ 0 → exec (.check q) s =
        .next ((s.putSet k { x with state := 2, code := s.checkSet x }).finish q c stRefused (s.checkSet x) [])) := by
  have hg : (decide (x.owner ≠ q) || decide (x.state = 3)) = false := by simp [ho, h3]
  have hd' : ¬ s.devRefused q (c.num 0 4) = true := by rw [hd]; exact Bool.false_ne_true
  refine ⟨fun h0 => (hostRow_serves h _ _).trans ((if_neg hd').trans ?_), fun h0 => (hostRow_serves h _ _).trans ((if_neg hd').trans ?_)⟩
  · simp only [hn, judge_owned hn ho, hg, h0]
    rfl
  · simp only [hn, judge_owned hn ho, hg, if_neg h0]
    rfl

/-- A set armed by a COMMIT. -/
def State.armSet (s : State) (k : Nat) (x : ShadowSet) (w named : Nat) : State :=
  (s.putSet k { x with state := 3, code := 0, want := w, named := named }).showArmed x.mask

theorem exec_commit_refused (h : s.Serves q opCommit c) (hs : c.started = false) (hd : s.devRefused q (c.num 0 4) = true) :
    exec (.commit q) s = .next (s.finish q c stPerm 0 []) := by
  refine (hostRow_serves h _ _).trans ?_
  rw [hs]
  exact if_pos hd

theorem exec_commit_none (h : s.Serves q opCommit c) (hs : c.started = false) (hn : s.setNamed (c.num 0 4) = none) :
    exec (.commit q) s = .next (s.finish q c stRefused 1 []) := by
  refine (hostRow_serves h _ _).trans ?_
  simp only [hs, devRefused_none hn, hn]
  rfl

theorem exec_commit_owned (h : s.Serves q opCommit c) (hs : c.started = false) (hd : s.devRefused q (c.num 0 4) = false)
    (hn : s.setNamed (c.num 0 4) = some (k, x)) (ho : x.owner = q) (h3 : x.state ≠ 3) :
    (s.checkSet x = 0 → s.whenBad x (c.num 4 1) = false → exec (.commit q) s =
        .next ((s.armSet k x (c.num 4 1) (c.num 8 8)).onCommand q c.seq (fun c => { c with started := true }))) ∧
      (s.checkSet x = 0 → s.whenBad x (c.num 4 1) = true → exec (.commit q) s =
        .next ((s.putSet k { x with state := 2, code := 10 }).finish q c stRefused 10 [])) ∧
      (s.checkSet x ≠ 0 → exec (.commit q) s =
        .next ((s.putSet k { x with state := 2, code := s.checkSet x }).finish q c stRefused (s.checkSet x) [])) := by
  have hg : (decide (x.owner = q) && decide (x.state ≠ 3)) = true := by simp [ho, h3]
  refine ⟨fun h0 hw => (hostRow_serves h _ _).trans ?_, fun h0 hw => (hostRow_serves h _ _).trans ?_, fun h0 => (hostRow_serves h _ _).trans ?_⟩
  · simp only [hs, hd, hn, judge_owned hn ho, h0, hw]
    rfl
  · simp only [hs, hd, hn, judge_owned hn ho, h0, hw, hg]
    rfl
  · simp only [hs, hd, hn, judge_owned hn ho, decide_eq_false h0, if_neg h0, hg, Bool.false_and, Bool.false_eq_true, if_false, if_true]

/-- Sets that show plots as armed write bit 7 of PLOT_MODE alone. -/
theorem showArmed_rest (ps : List Nat) (s : State) : s.showArmed ps = { s with sreg := (s.showArmed ps).sreg } :=
  List.foldlRecOn (motive := fun u : State => u = { s with sreg := u.sreg }) ps _ rfl fun u hu p _ => by rw [hu]; rfl

theorem showArmed_shows : ∀ (ps : List Nat) {s : State}, s.Canonical → ∀ p,
    s.shadow.any (fun e => decide (e.2.state = 3) && e.2.mask.contains p) = true → (p ∈ ps ∨ s.fld (rPlotMode p) 7 7 = 1) →
      (s.showArmed ps).fld (rPlotMode p) 7 7 = 1
  | [], _, _, _, _, h => h.resolve_left List.not_mem_nil
  | r :: ps, s, hc, p, ha, h => by
    refine showArmed_shows ps (hc.setFld _ _ _ _) p ha ?_
    by_cases he : p = r
    · subst he
      refine .inr ?_
      rw [ha]
      exact State.setFld_fld_of_lt hc (by decide) (by decide) (by decide)
    · refine h.imp (fun hm => (List.mem_cons.1 hm).resolve_left he) fun hf => ?_
      exact (State.setFld_fld_other (by unfold rPlotMode; omega) _ _ _ _ _).trans hf

theorem armSet_armed (hc : s.Canonical) (k : Nat) (x : ShadowSet) (w named : Nat) {p : Nat} (hp : p ∈ x.mask) :
    (s.armSet k x w named).fld (rPlotMode p) 7 7 = 1 := by
  have hc' : (s.putSet k { x with state := 3, code := 0, want := w, named := named }).Canonical := { hc with }
  refine showArmed_shows x.mask hc' p ?_ (.inl hp)
  refine List.any_eq_true.2 ⟨(k, { x with state := 3, code := 0, want := w, named := named }), List.mem_of_find?_eq_some (find_mapPut _ _ _), ?_⟩
  rw [decide_eq_true rfl]
  exact List.contains_iff_mem.2 hp

/-! ### The instant (R366, R367) -/

theorem commitOf_congr {s' : State} (h : s'.hostQ = s.hostQ) (x : ShadowSet) : s'.commitOf x = s.commitOf x := by
  unfold State.commitOf State.command State.hostq
  rw [h]

theorem disarm_commitOf (s : State) (k : Nat) (x y : ShadowSet) (state code : Nat) : (s.disarm k x state code).commitOf y = s.commitOf y :=
  commitOf_congr (by rw [State.disarm, showArmed_rest]; rfl) y

theorem acks_enabled (h3 : x.state = 3) (hs : x.sent = false) {w : Nat} (hw : x.want = w) (h2 : w ≠ 2) :
    (!(decide (x.state = 3) && !x.sent && decide (x.want ≠ 2))) = false := by simp [h3, hs, hw, h2]

theorem exec_commitAcksComplete (hk : k < Config.shadowSlots) (hx : s.setAt k = some x) (h3 : x.state = 3) (hs : x.sent = false)
    (h2 : x.want ≠ 2) : exec (.commitAcksComplete k) s =
      if decide (x.want = 1) && decide (x.named < s.cycle + 2048) then
        .next (match (s.disarm k x 2 11).commitOf x with
          | some c => (s.disarm k x 2 11).finish x.owner c stRefused 11 []
          | none => s.disarm k x 2 11)
      else .next (s.putSet k { x with sent := true, whenKind := 1, instant := if x.want = 1 then x.named else s.cycle + 2048 }) := by
  refine (onUnit_of (decide_eq_true hk)).trans ((whenSome_of hx).trans ?_)
  simp only [acks_enabled h3 hs rfl h2]
  rfl

theorem exec_commitInstant (hk : k < Config.shadowSlots) (hx : s.setAt k = some x) (hs : x.sent = true) (hw : x.whenKind = 1) :
    exec (.commitInstant k) s = .next (s.commitSet k x) := by
  refine (onUnit_of (decide_eq_true hk)).trans ((whenSome_of hx).trans (when_of ?_))
  rw [hs, hw]
  rfl

/-- A set that has taken effect is gone, and is the last one. -/
def State.lastShown (s : State) (k num : Nat) : State := ((s.setFld rShadowLast 63 32 num).dropSet k).trace 10 0x0412 wholeModule num

theorem lastShown_frame (hc : s.Canonical) (k num : Nat) : (s.lastShown k num).hostQ = s.hostQ ∧ (s.lastShown k num).cycle = s.cycle ∧
    (s.lastShown k num).shadow = mapDel s.shadow k ∧ (s.lastShown k num).fld rShadowLast 63 32 = num % 2 ^ 32 ∧
    (s.lastShown k num).fld rShadowDev 3 2 = s.fld rShadowDev 3 2 := by
  have ht := told_trace ((s.setFld rShadowLast 63 32 num).dropSet k) 10 0x0412 wholeModule num
  refine ⟨?_, ht.cycle, ?_, ?_, ?_⟩
  · rw [State.lastShown, ht.rest]
    rfl
  · rw [State.lastShown, ht.rest]
    rfl
  · exact (ht.fld (by decide) _ _).trans (State.setFld_fld_same hc num (by decide) (by decide))
  · exact (ht.fld (by decide) _ _).trans (State.setFld_fld_other (a := rShadowLast) (b := rShadowDev) (by decide) _ _ _ _ _)

/-- An instant that comes in time, of a set of no plot's items, up to the completion of its COMMIT. -/
def State.instantShown (s : State) (k : Nat) (x : ShadowSet) : State := ((s.atEdge x.instant).applySet x).lastShown k x.num

theorem commitSet_timely (hm : x.mask = []) (hl : s.cycle ≤ x.instant) (hc : (s.instantShown k x).commitOf x = none) :
    s.commitSet k x = s.instantShown k x := by
  unfold State.commitSet
  rw [hm, decide_eq_false (Nat.not_lt.2 hl)]
  show (match (s.instantShown k x).commitOf x with
    | some c => (s.instantShown k x).finish x.owner c stOk 0 []
    | none => s.instantShown k x) = _
  rw [hc]

theorem applySet_one {it : ShadowItem} (h : x.items = [it]) (h10 : it.item ≠ itUnplace) (h8 : it.item ≠ itRect) : s.applySet x = s.applyItem it := by
  rw [State.applySet, h, List.filter_cons_of_neg (by simpa using h10), List.filter_cons_of_neg (by simpa using h8)]
  rfl

theorem instant_outcome (hc : s.Canonical) {v : Dword} (hv : v.toNat < 3) (hi : x.items = [{ item := 0x11, plot := 0, value := v }])
    (hl : s.cycle ≤ x.instant) : (s.instantShown k x).hostQ = s.hostQ ∧ (s.instantShown k x).fld rShadowDev 3 2 = v.toNat ∧
      (s.instantShown k x).cycle = x.instant ∧ (s.instantShown k x).shadow = mapDel s.shadow k ∧
      (s.instantShown k x).fld rShadowLast 63 32 = x.num % 2 ^ 32 := by
  have he : (s.atEdge x.instant).Canonical := { hc with }
  have h1 := he.setFld rShadowDev 3 2 v.toNat
  have hset : (s.atEdge x.instant).applySet x = (s.atEdge x.instant).setFld rShadowDev 3 2 v.toNat := applySet_one hi nofun nofun
  rw [State.instantShown, hset]
  obtain ⟨k1, k2, k3, k4, k5⟩ := lastShown_frame h1 k x.num
  refine ⟨k1, ?_, ?_, k3, k4⟩
  · exact k5.trans (State.setFld_fld_of_lt he (by decide) (by decide) (by omega))
  · exact k2.trans (Nat.max_eq_right hl)

/-! ### Items (R361, R370) -/

theorem applyItem_beat (hc : s.Canonical) {it : ShadowItem} (h : it.item = 0x14) (hv : it.value.toNat ≤ 125000) :
    (s.applyItem it).fld rFacetBeat 48 32 = it.value.toNat := by
  have h1 := State.setFld_fld_of_lt hc (a := rFacetBeat) (hi := 48) (lo := 32) (v := it.value.toNat) (by decide) (by decide) (by omega)
  simp only [State.applyItem, h]
  split
  · exact h1
  · exact (State.setFld_fld_field (hc.setFld _ _ _ _) _ (.inr (by decide)) (by decide)).trans h1

theorem applyItem_modes (hc : s.Canonical) (it : ShadowItem) :
    (it.item = 1 → it.value.toNat ≤ 1 → (s.applyItem it).fld (rPlotMode it.plot) 0 0 = it.value.toNat) ∧
      (it.item = 6 → it.value.toNat ≤ 1 → (s.applyItem it).fld (rPlotMode it.plot) 5 5 = it.value.toNat) ∧
      (it.item = 7 → (s.applyItem it).reg (rPlotSeed it.plot) = it.value) ∧
      (it.item = 0x13 → it.value.toNat ≤ 1 → (s.applyItem it).fld rShadowDev 6 6 = it.value.toNat) := by
  refine ⟨fun h hv => ?_, fun h hv => ?_, fun h => ?_, fun h hv => ?_⟩ <;> simp only [State.applyItem, h]
  · exact State.setFld_fld_of_lt hc (by decide) (by decide) (by omega)
  · exact State.setFld_fld_of_lt hc (by decide) (by decide) (by omega)
  · exact State.setReg_reg_same hc _ _
  · exact State.setFld_fld_of_lt hc (by decide) (by decide) (by omega)

end

section
variable {s : State} {q k : Nat} {c : HostCmd} {x : ShadowSet}

/-- A COMMIT whose set passes arms it. -/
theorem commit_outcome (hc : s.Canonical) (h : s.Serves q opCommit c) (hs : c.started = false) (hd : s.devRefused q (c.num 0 4) = false)
    (hn : s.setNamed (c.num 0 4) = some (k, x)) (ho : x.owner = q) (h3 : x.state ≠ 3) (h0 : s.checkSet x = 0)
    (hw : s.whenBad x (c.num 4 1) = false) : ∃ s', exec (.commit q) s = .next s' ∧
      s' = (s.armSet k x (c.num 4 1) (c.num 8 8)).onCommand q c.seq (fun c => { c with started := true }) ∧
      ∀ p ∈ x.mask, s'.fld (rPlotMode p) 7 7 = 1 := by
  refine ⟨_, (exec_commit_owned h hs hd hn ho h3).1 h0 hw, rfl, fun p hp => ?_⟩
  exact armSet_armed hc k x _ _ hp

/-- The acknowledgements of an armed set name its instant, or refuse it. -/
theorem acks_outcome (hk : k < Config.shadowSlots) (hx : s.setAt k = some x) (h3 : x.state = 3) (hs : x.sent = false) :
    (x.want = 0 → exec (.commitAcksComplete k) s = .next (s.putSet k { x with sent := true, whenKind := 1, instant := s.cycle + 2048 })) ∧
      (x.want = 1 → s.cycle + 2048 ≤ x.named → exec (.commitAcksComplete k) s =
        .next (s.putSet k { x with sent := true, whenKind := 1, instant := x.named })) ∧
      (x.want = 1 → x.named < s.cycle + 2048 → s.commitOf x = none → exec (.commitAcksComplete k) s = .next (s.disarm k x 2 11)) ∧
      (x.want = 1 → x.named < s.cycle + 2048 → ∀ d, (s.disarm k x 2 11).commitOf x = some d →
        exec (.commitAcksComplete k) s = .next ((s.disarm k x 2 11).finish x.owner d stRefused 11 [])) := by
  refine ⟨fun hw => ?_, fun hw hl => ?_, fun hw hl hd => ?_, fun hw hl d hd => ?_⟩ <;>
    refine (exec_commitAcksComplete hk hx h3 hs (by omega)).trans ?_
  · rw [hw]
    rfl
  · rw [hw, decide_eq_false (Nat.not_lt.2 hl)]
    rfl
  · rw [hw, decide_eq_true hl, disarm_commitOf, hd]
    rfl
  · rw [hw, decide_eq_true hl, hd]
    rfl

end

/-- Settles O51. -/
theorem shadowSetsCommit : Obligations.ShadowSetsCommit := by
  unfold Obligations.ShadowSetsCommit
  intro s q c hc
  refine ⟨fun h => hostRow_serves h _ _, fun i => ?_, fun h => ⟨exec_check_refused h, exec_check_none h, fun hd k x hn => exec_check_owned h hd hn⟩,
    fun h hs => ⟨exec_commit_refused h hs, exec_commit_none h hs, fun hd k x hn ho h3 => ⟨commit_outcome hc h hs hd hn ho h3,
      (exec_commit_owned h hs hd hn ho h3).2⟩⟩, fun k x hk hx => ?_, fun it _ => ?_⟩
  · refine ⟨stagePart_unfit, stagePart_other, fun hf hm k x hn => ?_, fun hf hm hn h0 => ?_, fun hf hm hn h0 => ?_⟩
    · rw [stagePart_mine hf hm]
      obtain ⟨h1, h2, h3, h4⟩ := stageSet_named (q := q) hn (c.partItem i)
      exact ⟨h1, h2, h3, fun ho h3 h0 hl => ⟨h4 ho h3 h0 hl, put_get x (c.partItem i)⟩⟩
    · rw [stagePart_mine hf hm]
      exact (stageSet_new hn (it := c.partItem i) h0).1
    · rw [stagePart_mine hf hm]
      exact (stageSet_new hn (it := c.partItem i) h0).2
  · refine ⟨fun h3 hs => (acks_outcome hk hx h3 hs).1, fun h3 hs => (acks_outcome hk hx h3 hs).2.1,
      fun h3 hs => (acks_outcome hk hx h3 hs).2.2.1, fun h3 hs => (acks_outcome hk hx h3 hs).2.2.2, exec_commitInstant hk hx,
      fun hs hw hm hl hn v hv hi => ?_⟩
    obtain ⟨h1, h2, h3, h4, h5⟩ := instant_outcome (k := k) hc hv hi hl
    refine ⟨s.instantShown k x, (exec_commitInstant hk hx hs hw).trans ?_, h2, h3, h4, h5⟩
    rw [commitSet_timely hm hl ((commitOf_congr h1 x).trans hn)]
  · obtain ⟨h1, h2, h3, h4⟩ := applyItem_modes hc it
    exact ⟨h1, h2, h3, h4, applyItem_beat hc⟩

end Sys2Proof.Machine
end

section
/-!
PROOFS. PLACE and its commit, re-placement, RUN and what ends it, ABORT and timeouts (R252, R275 to R277, R348, R351, R356, R369 to R373).
-/
namespace Sys2Proof.Machine

section
variable {s s' s'' : State} {p q : Nat} {t : Site} {c : HostCmd} {pl : Placement}

/-! ### What leaves the plots and the stewards' registers -/

/-- No plot and no register of the stewards differs. -/
structure Beside (s s' : State) : Prop where
  canon : s.Canonical → s'.Canonical
  plots : s.Canonical → s'.plots = s.plots
  sreg  : s.Canonical → s'.sreg = s.sreg

theorem Beside.refl (s : State) : Beside s s := ⟨id, fun _ => rfl, fun _ => rfl⟩

theorem Beside.trans (h : Beside s s') (k : Beside s' s'') : Beside s s'' where
  canon := fun hc => k.canon (h.canon hc)
  plots := fun hc => (k.plots (h.canon hc)).trans (h.plots hc)
  sreg := fun hc => (k.sreg (h.canon hc)).trans (h.sreg hc)

theorem Beside.plot (h : Beside s s') (hc : s.Canonical) (o : Nat) : s'.plot o = s.plot o := by rw [State.plot, h.plots hc, State.plot]

theorem Beside.fld (h : Beside s s') (hc : s.Canonical) (a hi lo : Nat) : s'.fld a hi lo = s.fld a hi lo := by
  rw [State.fld, State.reg, h.sreg hc, State.fld, State.reg]

theorem beside_foldl {α : Type} {f : State → α → State} (hf : ∀ s x, Beside s (f s x)) (l : List α) (s : State) : Beside s (l.foldl f s) :=
  List.foldlRecOn (motive := Beside s) l f (.refl s) fun _ hu x _ => hu.trans (hf _ x)

theorem TilesOnly.beside (h : TilesOnly s s') : Beside s s' := ⟨h.canon, fun _ => by rw [h.rest], fun _ => by rw [h.rest]⟩

theorem Meets.beside (h : Meets t s s') : Beside s s' := ⟨h.canon, fun hc => by rw [h.rest hc], fun hc => by rw [h.rest hc]⟩

theorem tilesOnly_onCore (s : State) (t : Site) (f : Core → Core) : TilesOnly s (s.onCore t f) := ⟨rfl, fun hc => hc.onCore t f⟩

theorem tilesOnly_setCreg (s : State) (t : Site) (a : Nat) (v : Dword) : TilesOnly s (s.setCreg t a v) := ⟨rfl, fun hc => hc.setCreg t a v⟩

theorem tilesOnly_ctrlStore (s : State) (t : Site) (a : Nat) (v : Dword) : TilesOnly s (s.ctrlStore t a v) := tilesOnly_setCreg s t a _

theorem tilesOnly_setBytes (s : State) (a : Nat) (bs : List Byte) : TilesOnly s (s.setBytes a bs) :=
  ⟨by rw [State.setBytes_eq], fun hc => State.setBytes_canonical hc a bs⟩

theorem tilesOnly_loadFrame (s : State) (pl : Placement) (role f : Nat) (t : Site) (l : Nat) (r : LayerRec) :
    TilesOnly s (s.loadFrame pl role f t l r) := (tilesOnly_setBytes s _ _).trans (tilesOnly_ctrlStore _ _ _ _)

theorem tilesOnly_niSend (s : State) (t : Site) (g : Grain) : TilesOnly s (s.niSend t g) := tilesOnly_onNi s t _

theorem tilesOnly_sendClose (s : State) (t : Site) (x : TxConn) : TilesOnly s (s.sendClose t x) :=
  (tilesOnly_onNi s t _).trans (tilesOnly_niSend _ t _)

theorem tilesOnly_clearNi (s : State) (t : Site) : TilesOnly s (s.clearNi t) :=
  ((tilesOnly_foldl (fun u x => tilesOnly_sendClose u t x) ((s.ni t).tx.filter (fun x => decide (x.conn < 0x3C0))) s).trans
    (tilesOnly_onNi _ t _)).trans (tilesOnly_onCore _ t (fun c => { c with held := none }))

theorem tilesOnly_loadTable (s : State) (t : Site) (h : List Byte) (off a w n : Nat) : TilesOnly s (s.loadTable t h off a w n) :=
  tilesOnly_foldl (fun u _ => tilesOnly_ctrlStore u t _ _) _ s

theorem tilesOnly_checkSpill (s : State) (t : Site) : TilesOnly s (s.checkSpill t) := by
  unfold State.checkSpill
  split
  · exact tilesOnly_setCreg s t _ _
  · exact .refl s

theorem tilesOnly_loadTables (s : State) (t : Site) (h : List Byte) : TilesOnly s (s.loadTables t h) :=
  ((((tilesOnly_loadTable ..).trans (tilesOnly_loadTable ..)).trans (tilesOnly_loadTable ..)).trans
    (tilesOnly_loadTable ..)).trans (tilesOnly_checkSpill ..)

theorem tilesOnly_startOpen {m vx vy port tag : Nat} {e : Option Nat} (h : s.startOpen t m vx vy port e = .ok (tag, s')) :
    TilesOnly s s' := by
  unfold State.startOpen at h
  split at h
  · cases h
  · split at h
    · cases h
    · cases h
      exact (tilesOnly_onNi s t _).trans (tilesOnly_niSend _ t _)

theorem beside_openEntry (s : State) (t : Site) (base : Nat) (h : List Byte) (i : Nat) : Beside s (s.openEntry t base h i) := by
  unfold State.openEntry
  extract_lets e at_
  split
  · exact .refl s
  · split
    · next hs => exact (tilesOnly_startOpen hs).beside
    · exact (meets_eccRead s t _ _).beside.trans (tilesOnly_setBytes _ _ _).beside

/-- A tile takes its spill area and its resident frames. -/
def State.tileFramed (s : State) (pl : Placement) (i : Nat) (t : Site) : State :=
  let role := pl.role i
  let f := (pl.frames role).getD 2
  let (site, n) := pl.spill.getD i (0, 0)
  let u := siteOf site
  let s := s.ctrlStore t aNiSpill (BitVec.ofNat 64 (8 * 2 ^ 26 + 8 * n * 2 ^ 18 + u.py * 2 ^ 9 + u.px))
  (pl.layers.zipIdx.take f).foldl (fun s e => s.loadFrame pl role f t e.2 e.1) s

/-- A tile takes the tables of a frame header, and its connections open. -/
def State.tileOpened (s : State) (t : Site) (base : Nat) (h : List Byte) : State :=
  (List.range (min 12 (nopen h))).foldl (fun s k => s.openEntry t base h k) ((s.clearNi t).loadTables t h)

/-- A tile stands at the entry of frame 0. -/
def State.tileEntered (s : State) (t : Site) (base : Nat) : State :=
  let h := s.bytes (storeAddr t base) 1024
  (s.tileOpened t base h).onCore t (fun c => ({ c with frame := 0, switch := none }).jump (BitVec.ofNat 19 (leAt h 0 8 % 2 ^ 19 / 4 * 4)))

theorem setTile'_eq (s : State) (pl : Placement) (i : Nat) (t : Site) : s.setTile' pl i t =
    (s.tileFramed pl i t).tileEntered t (pl.areaBase (pl.role i) ((pl.frames (pl.role i)).getD 2) 0) := rfl

theorem tilesOnly_tileFramed (s : State) (pl : Placement) (i : Nat) (t : Site) : TilesOnly s (s.tileFramed pl i t) :=
  (tilesOnly_ctrlStore s t _ _).trans (tilesOnly_foldl (fun u _ => tilesOnly_loadFrame u _ _ _ _ _ _) _ _)

theorem beside_tileOpened (s : State) (t : Site) (base : Nat) (h : List Byte) : Beside s (s.tileOpened t base h) :=
  ((tilesOnly_clearNi s t).trans (tilesOnly_loadTables _ t h)).beside.trans (beside_foldl (fun u k => beside_openEntry u t base h k) _ _)

theorem beside_tileEntered (s : State) (t : Site) (base : Nat) : Beside s (s.tileEntered t base) := by
  unfold State.tileEntered
  exact (beside_tileOpened s t base _).trans (tilesOnly_onCore _ t _).beside

theorem beside_setTile' (s : State) (pl : Placement) (i : Nat) (t : Site) : Beside s (s.setTile' pl i t) := by
  rw [setTile'_eq]
  exact (tilesOnly_tileFramed s pl i t).beside.trans (beside_tileEntered _ t _)

theorem beside_setTiles (s : State) (pl : Placement) : Beside s (s.setTiles pl) := beside_foldl (fun u _ => beside_setTile' u pl _ _) _ s

theorem beside_writeTrees (s : State) (p : Nat) : Beside s (s.writeTrees p) :=
  ⟨fun hc => (State.writeTrees_keeps hc.keeps).canon, fun _ => by rw [writeTrees_rest], fun _ => by rw [writeTrees_rest]⟩

theorem tilesOnly_resetTile (s : State) (t : Site) : TilesOnly s (s.resetTile t) := ⟨rfl, fun hc => (State.resetTile_keeps hc.keeps).canon⟩

/-! ### A commit instant of a plot (R366) -/

theorem tilesOnly_writeGenCfg (s : State) (t : Site) (v : Dword) : TilesOnly s (s.writeGenCfg t v) := by
  refine ⟨?_, fun hc => (State.writeGenCfg_keeps hc.keeps).canon⟩
  unfold State.writeGenCfg
  dsimp only
  split
  · rfl
  · split <;> rfl

/-- A staged GEN_CFG is in force. -/
def State.genApplied (s : State) (t : Site) (o : Option Word) : State :=
  match o with
  | some v => s.writeGenCfg t (BitVec.setWidth 64 v)
  | none => s

/-- An OPEN that a core waits for becomes stale. -/
def State.openStale (s : State) (t : Site) : State :=
  match (s.core t).blocked with
  | some (.openConn tag _) => s.onNi t (fun n => { n with
      opens := n.opens.map (fun (o : OpenReq) => if o.tag = tag then { o with stale := true } else o) })
  | _ => s

/-- A staged frame is entered where it is valid and the core has not stopped. -/
def State.frameApplied (s : State) (t : Site) (o : Option Nat) : State :=
  match o with
  | some f =>
    if decide (s.cfld t (aNiFrame f) 63 63 = 1) && decide ((s.core t).run ≠ .stopped) then
      (s.openStale t).onCore t (fun c => { c with blocked := none, switch := some { frame := f, opening := false, entry := 0 } })
    else s
  | none => s

theorem applyStaged_eq (s : State) (t : Site) : ∃ f o w, s.applyStaged t = ((s.onCore t f).genApplied t o).frameApplied t w :=
  ⟨fun c => { c with
      staged := .none, wlimit := (s.core t).staged.wlimit.getD c.wlimit, handE := (s.core t).staged.he.getD c.handE },
    (s.core t).staged.genCfg, (s.core t).staged.frame, rfl⟩

theorem tilesOnly_genApplied (s : State) (t : Site) (o : Option Word) : TilesOnly s (s.genApplied t o) := by
  cases o with
  | none => exact .refl s
  | some v => exact tilesOnly_writeGenCfg s t _

theorem tilesOnly_openStale (s : State) (t : Site) : TilesOnly s (s.openStale t) := by
  unfold State.openStale
  split
  · exact tilesOnly_onNi s t _
  · exact .refl s

theorem tilesOnly_frameApplied (s : State) (t : Site) (o : Option Nat) : TilesOnly s (s.frameApplied t o) := by
  unfold State.frameApplied
  split
  · split
    · exact (tilesOnly_openStale s t).trans (tilesOnly_onCore _ t _)
    · exact .refl s
  · exact .refl s

theorem tilesOnly_applyStaged (s : State) (t : Site) : TilesOnly s (s.applyStaged t) := by
  obtain ⟨f, o, w, h⟩ := applyStaged_eq s t
  rw [h]
  exact ((tilesOnly_onCore s t f).trans (tilesOnly_genApplied _ t o)).trans (tilesOnly_frameApplied _ t w)

theorem tilesOnly_wfeWake (s : State) (t : Site) : TilesOnly s (s.wfeWake t) := by
  unfold State.wfeWake
  split
  · exact tilesOnly_onCore s t (fun c => (id { c with blocked := none }).advance)
  · exact .refl s

theorem tilesOnly_instantAt (s : State) (t : Site) : TilesOnly s (s.instantAt t) :=
  (((tilesOnly_onCore s t (fun c => { c with commits := c.commits + 1 })).trans
    (tilesOnly_onTile _ t (fun x => if x.power = .idle then { x with power := .active } else x))).trans (tilesOnly_applyStaged _ t)).trans
    (tilesOnly_wfeWake _ t)

/-- What an instant of a plot leaves: the stewards' registers, and what the plots hold but for runs and layers. -/
structure InstantKept (s s' : State) : Prop where
  canon  : s.Canonical → s'.Canonical
  sreg   : s'.sreg = s.sreg
  placed : s.Canonical → ∀ o, (s'.plot o).placed = (s.plot o).placed ∧ (s'.plot o).pkg = (s.plot o).pkg

theorem InstantKept.trans (h : InstantKept s s') (k : InstantKept s' s'') : InstantKept s s'' where
  canon := fun hc => k.canon (h.canon hc)
  sreg := k.sreg.trans h.sreg
  placed := fun hc o => ⟨(k.placed (h.canon hc) o).1.trans (h.placed hc o).1, (k.placed (h.canon hc) o).2.trans (h.placed hc o).2⟩

theorem TilesOnly.instantKept (h : TilesOnly s s') : InstantKept s s' where
  canon := h.canon
  sreg := by rw [h.rest]
  placed := fun hc o => by rw [h.beside.plot hc]; exact ⟨rfl, rfl⟩

theorem instantKept_onPlot (s : State) (p : Nat) {f : PlotSt → PlotSt} (hf : ∀ x, (f x).placed = x.placed ∧ (f x).pkg = x.pkg) :
    InstantKept s (s.onPlot p f) where
  canon := fun hc => hc.onPlot p f
  sreg := rfl
  placed := fun hc o => by
    by_cases h : o = p
    · subst h
      rw [State.onPlot_plot_same hc]
      exact hf _
    · rw [State.onPlot_plot_other h]
      exact ⟨rfl, rfl⟩

theorem instantKept_nextLayer (s : State) (p : Nat) (pl : Placement) : InstantKept s (s.nextLayer p pl) := by
  have h := instantKept_onPlot s p (f := fun x => { x with layer := x.layer + 1 }) fun _ => ⟨rfl, rfl⟩
  unfold State.nextLayer
  dsimp only
  split
  · refine h.trans (tilesOnly_foldl (fun u e => ?_) _ _).instantKept
    split
    · exact tilesOnly_loadFrame u _ _ _ _ _ _
    · exact .refl u
  · exact h

theorem instantKept_instantOf (s : State) (p : Nat) : InstantKept s (s.instantOf p) := by
  have h := (tilesOnly_foldl tilesOnly_instantAt (s.usable p) s).instantKept
  unfold State.instantOf
  dsimp only
  split
  · exact h
  · have h2 := h.trans (instantKept_onPlot _ p (f := fun x => { x with run := x.run.map (fun r =>
      { r with reports := r.reports.filter (fun e => !((s.usable p).filter (fun t => s.entersFrame t)).any (fun t => decide (e.1 = t.key))) }) })
      fun _ => ⟨rfl, rfl⟩)
    split
    · exact h2.trans (instantKept_nextLayer _ p _)
    · exact h2

/-! ### The commit of a placement (R276) -/

/-- The staging extents that no placement stands over are to be zeroed. -/
def State.stagingZeroed (s : State) (p : Nat) (pl : Placement) : State :=
  let z : List (Nat × Nat × Nat × Nat) := match (s.plot p).pkg with
    | some k => (k.extents.filter (fun e => !(s.asPlaced p pl).placedOver e)).map (fun e => (p, e.site, e.off, k64))
    | none => []
  { s with zeroing := s.zeroing ++ z }

/-- A plot that a placement fills. -/
def PlotSt.takes (x : PlotSt) (pl : Placement) : PlotSt :=
  { x with placed := some { pl with moved := false }, placing := none, pkg := none, run := none, layer := 0
           begun := 0, marks := 0, beatDone := false, sentSlip := false, barEpoch := 0, ueRing := 0 }

/-- The slots of a placement are taken, and its plot holds it. -/
def State.placementTaken (s : State) (p : Nat) (pl : Placement) : State :=
  ((s.stagingZeroed p pl).onPlot p (fun x => x.takes pl)).setFld (rPlotMode p) 63 48 (pl.slots.foldl (fun n i => n + 2 ^ i) 0)

/-- The plot's dark tiles wake, and its trees, tables and frames are in force. -/
def State.placementSet (s : State) (p : Nat) (pl : Placement) : State :=
  (((s.usable p).foldl (fun s t => if (s.tile t).power = .dark then s.resetTile t else s) s).writeTrees p).setTiles pl

/-- The plot shows its placement, and its record tells of it. -/
def State.placementShown (s : State) (p : Nat) (pl : Placement) : State :=
  (s.setPlace p (if pl.missing.isEmpty then 3 else 5)).onPlot p
    (fun x => { x with record := (s.setPlace p (if pl.missing.isEmpty then 3 else 5)).recordOf p pl })

theorem commitPlacement_eq (s : State) (p : Nat) (pl : Placement) :
    s.commitPlacement p pl = (((s.placementTaken p pl).placementSet p pl).placementShown p pl).instantOf p := rfl

theorem placementTaken_outcome (hc : s.Canonical) (p : Nat) (pl : Placement) : (s.placementTaken p pl).Canonical ∧
    (s.placementTaken p pl).plot p = ((s.stagingZeroed p pl).plot p).takes pl := by
  have h0 : (s.stagingZeroed p pl).Canonical := { hc with }
  exact ⟨(h0.onPlot p _).setFld _ _ _ _, State.onPlot_plot_same h0 p (fun x => x.takes pl)⟩

theorem beside_placementSet (s : State) (p : Nat) (pl : Placement) : Beside s (s.placementSet p pl) := by
  refine .trans (.trans (tilesOnly_foldl (fun u t => ?_) (s.usable p) s).beside (beside_writeTrees _ p)) (beside_setTiles _ pl)
  split
  · exact tilesOnly_resetTile u t
  · exact .refl u

theorem commitPlacement_outcome (hc : s.Canonical) (p : Nat) (pl : Placement) :
    ((s.commitPlacement p pl).plot p).placed = some { pl with moved := false } ∧ ((s.commitPlacement p pl).plot p).pkg = none ∧
      (s.commitPlacement p pl).placeState p = if pl.missing = [] then 3 else 5 := by
  obtain ⟨h1, h2⟩ := placementTaken_outcome hc p pl
  have hb := beside_placementSet (s.placementTaken p pl) p pl
  rw [commitPlacement_eq]
  rw [← hb.plot h1] at h2
  have h4 := hb.canon h1
  generalize (s.placementTaken p pl).placementSet p pl = u at *
  have h5 : (u.setPlace p (if pl.missing.isEmpty then 3 else 5)).Canonical := h4.setFld _ _ _ _
  have hk := instantKept_instantOf (u.placementShown p pl) p
  have h6 : (u.placementShown p pl).Canonical := h5.onPlot p _
  have hplot : (u.placementShown p pl).plot p =
      { u.plot p with record := (u.setPlace p (if pl.missing.isEmpty then 3 else 5)).recordOf p pl } := State.onPlot_plot_same h5 p _
  refine ⟨(hk.placed h6 p).1.trans (by rw [hplot, h2]; rfl), (hk.placed h6 p).2.trans (by rw [hplot, h2]; rfl), ?_⟩
  have hs : ((u.placementShown p pl).instantOf p).placeState p = (u.setPlace p (if pl.missing.isEmpty then 3 else 5)).placeState p := by
    rw [State.placeState, State.fld, State.reg, hk.sreg]
    rfl
  rw [hs]
  refine (State.setFld_fld_of_lt h4 (by decide) (by decide) (by split <;> decide)).trans ?_
  simp only [List.isEmpty_iff]

/-! ### PLACE (R275, R276) -/

/-- Tilth has judged a placement, and is to move it. -/
def State.placeBegun (s : State) (q : Nat) (c : HostCmd) (pl : Placement) : State :=
  ((s.setPlace q 2).onPlot q (fun x => { x with placing := some pl })).onCommand q c.seq (fun c => { c with started := true })

theorem exec_place_new (h : s.Serves q opPlace c) (hpl : (s.plot q).placing = none) (ha : s.heavyArmed q = false) (hz : s.zeroing = [])
    (hb : s.tilthBusy = false) : (∀ r, s.judgePlace q c.seq = .error r → exec (.place q) s = .next (s.refusePlace q c r)) ∧
      ∀ pl, s.judgePlace q c.seq = .ok pl → exec (.place q) s = .next (s.placeBegun q c pl) := by
  refine ⟨fun r hr => (hostRow_serves h _ _).trans ?_, fun pl hj => (hostRow_serves h _ _).trans ?_⟩
  · simp only [hpl, ha, hz, hb, hr]
    rfl
  · simp only [hpl, ha, hz, hb, hj]
    rfl

theorem exec_place_again {old : Placement} (h : s.Serves q opPlace c) (hpl : (s.plot q).placing = some old) (hm : old.moved = false) :
    (∀ r, (s.setPlace q 1).judgePlace q c.seq = .error r → exec (.place q) s = .next (s.refusePlace q c r)) ∧
      ∀ pl k st, (s.setPlace q 1).judgePlace q c.seq = .ok pl → (s.plot q).pkg = some k → s.movesOf q pl = some st →
        exec (.place q) s = .next (s.moveRegions q k pl st) := by
  refine ⟨fun r hr => (hostRow_serves h _ _).trans ?_, fun pl k st hj hk hs => (hostRow_serves h _ _).trans ?_⟩
  · simp only [hpl, hm, hr]
    rfl
  · simp only [hpl, hm, hj, hk, hs]
    rfl

theorem placeBegun_outcome (hc : s.Canonical) (q : Nat) (c : HostCmd) (pl : Placement) : (s.placeBegun q c pl).placeState q = 2 ∧
    ((s.placeBegun q c pl).plot q).placing = some pl ∧ SameMemory s (s.placeBegun q c pl) := by
  have h1 : (s.setPlace q 2).Canonical := hc.setFld _ _ _ _
  refine ⟨State.setFld_fld_of_lt (a := rPlotPlace q) (hi := 63) (lo := 60) (v := 2) hc (by decide) (by decide) (by decide), ?_, fun _ => rfl⟩
  exact congrArg PlotSt.placing (State.onPlot_plot_same h1 q (fun x => { x with placing := some pl }))

/-- The regions of a placement in their places. -/
def State.regionsMoved (s : State) (p : Nat) (k : Package) (pl : Placement) (st : List Standing) : State :=
  let src := s
  let s := match s.aiAfter p pl with | .ok m => { s with aiMoved := m } | .error _ => s
  let s := s.relocate p st
  let s := pl.regions.foldl (fun s r => s.putRegion pl (fun i roles => src.peersOf pl i roles) r (src.pkgBytes k r.pkgOff r.len)) s
  s.putIdle pl

theorem moveRegions_eq (s : State) (p : Nat) (k : Package) (pl : Placement) (st : List Standing) :
    s.moveRegions p k pl st = (s.regionsMoved p k pl st).onPlot p (fun x => { x with placing := some { pl with moved := true } }) := rfl

theorem regionsMoved_canonical (hc : s.Canonical) (p : Nat) (k : Package) (pl : Placement) (st : List Standing) :
    (s.regionsMoved p k pl st).Canonical := by
  have h1 : ∀ m, ({ s with aiMoved := m } : State).Canonical := fun _ => { hc with }
  unfold State.regionsMoved
  dsimp only
  refine (State.putIdle_keeps (State.Canonical.keeps (foldl_canonical (fun u r hu => (State.putRegion_keeps hu.keeps).canon) ?_ _))).canon
  split
  · exact (State.relocate_keeps (h1 _).keeps).canon
  · exact (State.relocate_keeps hc.keeps).canon

theorem moveRegions_placing (hc : s.Canonical) (p : Nat) (k : Package) (pl : Placement) (st : List Standing) :
    ((s.moveRegions p k pl st).plot p).placing = some { pl with moved := true } := by
  rw [moveRegions_eq, State.onPlot_plot_same (regionsMoved_canonical hc p k pl st)]

/-- A refusal in the package's own judgement is the whole judgement's. -/
theorem judgePlace_planned {k : Package} {r : Refused} (hk : (s.plot q).pkg = some k) (hw : k.whole = true) {seq : Nat}
    (h : s.planned q seq k = .error r) : s.judgePlace q seq = .error r := by
  simp only [State.judgePlace, hk, hw, h]
  rfl

theorem planned_format {k : Package} (h : s.formatBad k = true) (p seq : Nat) : s.planned p seq k = .error (pkgRefused reFormat 0 0) := if_pos h

theorem planned_mode {k : Package} (h : s.formatBad k = false) (hm : s.modeMissing p (s.header k).flags = true) (seq : Nat) :
    s.planned p seq k = .error (pkgRefused reMode (s.header k).flags (s.fld (rPlotMode p) 5 0)) :=
  (if_neg (by rw [h]; exact Bool.false_ne_true)).trans (if_pos hm)

theorem exec_placementCommit (hp : p < Config.plots) (hpl : (s.plot p).placing = some pl) (hm : pl.moved = true)
    (hs : s.placeState p = 2 ∨ s.placeState p = 4) : exec (.placementCommit p) s = .next (s.endPlacing p pl) := by
  refine (onUnit_of (decide_eq_true hp)).trans ((whenSome_of hpl).trans (when_of ?_))
  rcases hs with hs | hs <;> rw [hm, hs] <;> rfl

/-! ### Re-placement (R277) -/

/-- A re-placement that is refused. -/
def State.replaceRefused (s : State) (p : Nat) (old : Placement) (r : Refused) : State :=
  let s := (s.placeReason p r).setPlace p 6
  let head := s.recordHead p (s.rebind p old) "REFUSED" r.code (if r.layer = 0xFFFF then "-" else dec r.layer)
    (if r.code = reQueue then dec r.join else "-")
  let rec_ := textOf (head ++ ["NEED need=" ++ dec r.need ++ " have=" ++ dec r.have_])
  s.onPlot p (fun x => { x with record := rec_ })

/-- A re-placement whose regions have been copied. -/
def State.replaced (s : State) (p : Nat) (pl : Placement) : State :=
  if pl.missing.isEmpty then s.onPlot p (fun x => { x with placing := some pl })
  else (s.onPlot p (fun x => { x with placed := some { pl with moved := false }, record := s.recordOf p pl })).setPlace p 5

theorem exec_replacement {old : Placement} (hp : p < Config.plots) (hold : (s.plot p).placed = some old) (h4 : s.placeState p = 4)
    (h1 : s.fenceState p ≠ 1) (hn : (s.plot p).placing = none) (hz : s.zeroing = []) (ht : s.tablesDue = false) :
    (∀ r, s.rebound p old = .error r → exec (.replacement p) s = .next (s.replaceRefused p old r)) ∧
      ∀ pl, s.rebound p old = .ok pl → exec (.replacement p) s = .next ((s.copyRegions p old pl).1.replaced p (s.copyRegions p old pl).2) := by
  have hg : (!(decide (s.placeState p = 4) && decide (s.fenceState p ≠ 1) && (s.plot p).placing.isNone && s.zeroing.isEmpty &&
      !s.tablesDue)) = false := by simp [h4, h1, hn, hz, ht]
  refine ⟨fun r hr => (onUnit_of (decide_eq_true hp)).trans ((whenSome_of hold).trans ?_),
    fun pl hr => (onUnit_of (decide_eq_true hp)).trans ((whenSome_of hold).trans ?_)⟩
  · simp only [hg, hr]
    rfl
  · simp only [hg, hr, State.replaced, Bool.false_eq_true, if_false]
    by_cases hm : (s.copyRegions p old pl).2.missing.isEmpty = true
    · rw [if_pos hm, if_pos hm]
    · rw [if_neg hm, if_neg hm]

theorem replaceRefused_state (hc : s.Canonical) (p : Nat) (old : Placement) (r : Refused) : (s.replaceRefused p old r).placeState p = 6 :=
  State.setFld_fld_of_lt (s := s.placeReason p r) (((hc.setFld _ _ _ _).setFld _ _ _ _).setFld _ _ _ _) (by decide) (by decide) (by decide)

theorem replaced_outcome (hc : s.Canonical) (p : Nat) (pl : Placement) : (pl.missing = [] → ((s.replaced p pl).plot p).placing = some pl) ∧
    (pl.missing ≠ [] → (s.replaced p pl).placeState p = 5) := by
  unfold State.replaced
  refine ⟨fun h => ?_, fun h => ?_⟩
  · rw [h, List.isEmpty_nil, if_pos rfl, State.onPlot_plot_same hc]
  · rw [if_neg fun he => h (List.isEmpty_iff.1 he)]
    exact State.setFld_fld_of_lt (hc.onPlot p _) (by decide) (by decide) (by decide)

/-! ### RUN (R351, R369) -/

theorem exec_run (h : s.Serves q opRun c) : exec (.run q) s =
    if c.started && s.running q then .refused (.notEnabled "RUN")
    else if decide (s.placeState q ≠ 3) then .next (s.finish q c stState (s.placeState q) [])
    else if s.running q then .next (s.finish q c stState (s.placeState q) [])
    else if s.runHeld q then
      (if c.started then .refused (.notEnabled "RUN") else .next (s.onCommand q c.seq (fun c => { c with started := true })))
    else .next ((s.onCommand q c.seq (fun c => { c with started := true })).beginRun q c) := hostRow_serves h _ _

theorem exec_run_unplaced (h : s.Serves q opRun c) (h3 : s.placeState q ≠ 3) (hr : c.started = false ∨ s.running q = false) :
    exec (.run q) s = .next (s.finish q c stState (s.placeState q) []) := by
  have hg : (c.started && s.running q) = false := by rcases hr with hr | hr <;> simp [hr]
  rw [exec_run h, hg, decide_eq_true h3]
  rfl

theorem exec_run_running (h : s.Serves q opRun c) (h3 : s.placeState q = 3) (hr : s.running q = true) (hs : c.started = false) :
    exec (.run q) s = .next (s.finish q c stState 3 []) := by
  simp [exec_run h, hs, h3, hr]

theorem exec_run_held (h : s.Serves q opRun c) (h3 : s.placeState q = 3) (hr : s.running q = false) (hh : s.runHeld q = true)
    (hs : c.started = false) : exec (.run q) s = .next (s.onCommand q c.seq (fun c => { c with started := true })) := by
  simp [exec_run h, hs, h3, hr, hh]

theorem exec_run_starts (h : s.Serves q opRun c) (h3 : s.placeState q = 3) (hr : s.running q = false) (hh : s.runHeld q = false) :
    exec (.run q) s = .next ((s.onCommand q c.seq (fun c => { c with started := true })).beginRun q c) := by
  simp [exec_run h, h3, hr, hh]

/-- A tile's core starts for a RUN, its twins at compare point 0. -/
def State.tileStarts (s : State) (r : RunSt) (t : Site) : State :=
  (s.startCore r.args t).onNi t (fun n => { n with digests := [], twinNum := 0 })

theorem tilesOnly_tileStarts (s : State) (r : RunSt) (t : Site) : TilesOnly s (s.tileStarts r t) :=
  (tilesOnly_startCore s r.args t).trans (tilesOnly_onNi _ t _)

theorem tileStarts_mem (s : State) (r : RunSt) (t : Site) : (s.tileStarts r t).mem = s.mem := rfl

/-- The cores of a plot started for a RUN. -/
def State.coresStart (s : State) (p : Nat) (r : RunSt) : State :=
  ((s.setFld (rRasPlot p) 0 0 0).usable p).foldl (fun s t => s.tileStarts r t) (s.setFld (rRasPlot p) 0 0 0)

theorem startRun_eq (s : State) (p : Nat) (r : RunSt) : s.startRun p r = (s.coresStart p r).onPlot p (fun x => { x with
    run := some { r with reports := [] }, draining := false, begun := 0, marks := 0, beatDone := false, sentSlip := false }) := rfl

theorem startRun_outcome (hc : s.Canonical) (p : Nat) (r : RunSt) : ((s.startRun p r).plot p).run = some { r with reports := [] } ∧
    (s.startRun p r).mem = s.mem ∧ ∀ a hi lo, a ≠ rRasPlot p ∨ 0 < lo → (s.startRun p r).fld a hi lo = s.fld a hi lo := by
  have h1 := hc.setFld (rRasPlot p) 0 0 0
  have ht : TilesOnly (s.setFld (rRasPlot p) 0 0 0) (s.coresStart p r) := tilesOnly_foldl (fun u t => tilesOnly_tileStarts u r t) _ _
  have hm : (s.coresStart p r).mem = s.mem := foldl_mem (fun u t => tileStarts_mem u r t) (s.setFld (rRasPlot p) 0 0 0) _
  rw [startRun_eq]
  refine ⟨congrArg PlotSt.run (State.onPlot_plot_same (ht.canon h1) p _), hm, fun a hi lo ha => ?_⟩
  refine (ht.fld a hi lo).trans (State.setFld_fld_apart hc _ ?_ (by decide))
  rcases ha with ha | ha
  · exact .inl ha
  · exact .inr (.inr ha)

/-- The RUN that a command starts, before any report. -/
def State.runOf (s : State) (p : Nat) (c : HostCmd) : RunSt :=
  { seq := c.seq, args := (List.range 4).map (fun i => BitVec.ofNat 32 (c.num (4 * i) 4)), reports := []
    keep := decide (s.fld (rPlotMode p) 5 5 = 1) }

theorem beginRun_eq (s : State) (p : Nat) (c : HostCmd) :
    s.beginRun p c = ((s.setFld (rRasPlot p) 15 8 0).setFld (rPwrPlot p) 23 20 15).startRun p (s.runOf p c) := rfl

theorem beginRun_outcome (hc : s.Canonical) (p : Nat) (c : HostCmd) : ((s.beginRun p c).plot p).run = some (s.runOf p c) ∧
    (s.beginRun p c).fld (rPwrPlot p) 23 20 = 15 ∧ (s.beginRun p c).fld (rRasPlot p) 15 8 = 0 ∧ (s.beginRun p c).mem = s.mem := by
  have h1 := hc.setFld (rRasPlot p) 15 8 0
  have h2 := h1.setFld (rPwrPlot p) 23 20 15
  have hne : rPwrPlot p ≠ rRasPlot p := by unfold rPwrPlot rRasPlot; omega
  rw [beginRun_eq]
  obtain ⟨k1, k2, k3⟩ := startRun_outcome h2 p (s.runOf p c)
  refine ⟨k1, (k3 _ _ _ (.inl hne)).trans (State.setFld_fld_of_lt h1 (by decide) (by decide) (by decide)), (k3 _ _ _ (.inr (by decide))).trans ?_, k2⟩
  exact (State.setFld_fld_other hne.symm _ _ _ _ _).trans (State.setFld_fld_of_lt hc (by decide) (by decide) (by decide))

/-! ### Reports, layers and drains (R252, R369) -/

theorem endFinished_eq {r : RunSt} (hr : (s.plot p).run = some r) : s.endFinished p =
    if s.allFinished p r && !s.frameStaged p then s.endRun p stOk (s.fld (rRasPlot p) 15 8) else s := by
  rw [State.endFinished, hr]

theorem endFinished_outcome {r : RunSt} (hr : (s.plot p).run = some r) :
    (s.allFinished p r = false ∨ s.frameStaged p = true → s.endFinished p = s) ∧
      (s.allFinished p r = true → s.frameStaged p = false → s.endFinished p = s.endRun p stOk (s.fld (rRasPlot p) 15 8)) := by
  rw [endFinished_eq hr]
  refine ⟨fun h => if_neg ?_, fun h1 h2 => if_pos ?_⟩
  · rcases h with h | h <;> simp [h]
  · simp [h1, h2]

theorem exec_frameReport {next : Option Nat} {rest : List (Site × SvcNote)}
    (h : Picks (fun e => isFrameReport e.2) s.svc (t, .frameReport next) rest) :
    exec .frameReport s = .next (({ s with svc := rest } : State).takeReport t next) := by
  refine (whenSome_of (takeFirst_picks h)).trans rfl

theorem takeReport_idle (h : s.plotOf t = none) (next : Option Nat) : s.takeReport t next = s := by rw [State.takeReport, h]

/-- A plot's RUN with one more report. -/
def State.reported (s : State) (p : Nat) (r : RunSt) (t : Site) (next : Option Nat) : State :=
  s.onPlot p (fun x => { x with run := some { r with reports := mapPut r.reports t.key next } })

theorem takeReport_eq {r : RunSt} (h : s.plotOf t = some p) (hr : (s.plot p).run = some r) (next : Option Nat) : s.takeReport t next =
    if !((s.reported p r t next).plot p).draining && decide ((s.reported p r t next).fenceState p = 0) then (s.reported p r t next).endFinished p
    else s.reported p r t next := by
  simp only [State.takeReport, h, hr]
  rfl

theorem takeReport_outcome (hc : s.Canonical) {r : RunSt} (h : s.plotOf t = some p) (hr : (s.plot p).run = some r) (next : Option Nat) :
    ((s.reported p r t next).allFinished p { r with reports := mapPut r.reports t.key next } = false ∨
        (s.reported p r t next).frameStaged p = true → s.takeReport t next = s.reported p r t next) ∧
      ((s.reported p r t next).allFinished p { r with reports := mapPut r.reports t.key next } = true →
        (s.reported p r t next).frameStaged p = false → (s.plot p).draining = false → s.fenceState p = 0 →
          s.takeReport t next = (s.reported p r t next).endRun p stOk (s.fld (rRasPlot p) 15 8)) := by
  have hplot : (s.reported p r t next).plot p = { s.plot p with run := some { r with reports := mapPut r.reports t.key next } } :=
    State.onPlot_plot_same hc p _
  obtain ⟨h1, h2⟩ := endFinished_outcome (s := s.reported p r t next) (p := p) (by rw [hplot])
  rw [takeReport_eq h hr]
  refine ⟨fun hf => ?_, fun hf hs hd h0 => ?_⟩
  · rw [h1 hf, ite_self]
  · have hfs : (s.reported p r t next).fenceState p = 0 := h0
    rw [hplot, hfs]
    dsimp only
    rw [hd]
    exact h2 hf hs

theorem exec_layerAdvance {r : RunSt} (hp : p < Config.plots) (hr : (s.plot p).run = some r) (h0 : s.fenceState p = 0)
    (hd : (s.plot p).draining = false) (hf : s.allFinished p r = true) :
    (s.frameStaged p = true → exec (.layerAdvance p) s = .next (((s.atEdge (s.cycle + 2048)).instantOf p).endFinished p)) ∧
      (s.frameStaged p = false → exec (.layerAdvance p) s = .next (s.endRun p stOk (s.fld (rRasPlot p) 15 8))) := by
  have hx : exec (.layerAdvance p) s =
      .next ((if s.frameStaged p then (s.atEdge (s.cycle + 2048)).instantOf p else s).endFinished p) := by
    refine (onUnit_of (decide_eq_true hp)).trans ((whenSome_of hr).trans (when_of ?_))
    rw [h0, hd, hf]
    rfl
  rw [hx]
  refine ⟨fun hs => by rw [if_pos hs], fun hs => ?_⟩
  rw [if_neg (by rw [hs]; exact Bool.false_ne_true), (endFinished_outcome hr).2 hf hs]

theorem exec_plotDrained (hp : p < Config.plots) (hd : (s.plot p).draining = true) (h0 : s.fenceState p = 0)
    (ht : ∀ t ∈ s.usable p, s.drained t = true) : exec (.plotDrained p) s = .next ((s.stopCores p).endRun p stAborted 0) := by
  refine (onUnit_of (decide_eq_true hp)).trans (when_of ?_)
  rw [hd, h0, List.all_eq_true.2 ht]
  rfl

/-! ### ABORT and timeouts (R348, R356, R373) -/

theorem exec_abort_done {d : Completion} (h : s.Serves q opAbort c)
    (hd : (s.hostq q).done.find? (fun d => decide (d.seq = c.num 0 4)) = some d) : exec (.abort q) s =
      if besides (leAt d.frame 5 1) then .next (s.finish q c stBadop 32 []) else .next (s.finish q c stAlready d.status []) := by
  refine (hostRow_serves h _ _).trans ?_
  simp only [hd]

theorem exec_abort_missing (h : s.Serves q opAbort c) (hd : (s.hostq q).done.find? (fun d => decide (d.seq = c.num 0 4)) = none)
    (hl : (s.hostq q).cmds.find? (fun d => decide (d.seq = c.num 0 4)) = none) :
    exec (.abort q) s = .next (s.finish q c stNotfound (c.num 0 4) []) := by
  refine (hostRow_serves h _ _).trans ?_
  simp only [hd, hl]

theorem exec_abort_left {d : HostCmd} (h : s.Serves q opAbort c) (hd : (s.hostq q).done.find? (fun d => decide (d.seq = c.num 0 4)) = none)
    (hl : (s.hostq q).cmds.find? (fun d => decide (d.seq = c.num 0 4)) = some d) : exec (.abort q) s =
      if besides d.op then .next (s.finish q c stBadop 32 [])
      else if d.started then .next ((s.onCommand q c.seq (fun c => { c with started := true })).stopCommand q d stAborted)
      else .next ((s.onCommand q c.seq (fun c => { c with started := true })).finish q d stAborted 0 []) := by
  refine (hostRow_serves h _ _).trans ?_
  simp only [hd, hl]

theorem stopCommand_run {d : HostCmd} (ho : d.op = opRun) (hr : s.running q = true) (status : Nat) :
    s.stopCommand q d status = s.onPlot q (fun x => { x with draining := true }) := (if_pos ho).trans (if_pos hr)

theorem aborted_run {d : HostCmd} (ho : d.op = opRun) (hr : s.running q = true) (seq : Nat) (f : HostCmd → HostCmd) (status : Nat) :
    (s.onCommand q seq f).stopCommand q d status = (s.onCommand q seq f).onPlot q (fun x => { x with draining := true }) := by
  have hz : (s.onCommand q seq f).running q = s.running q := rfl
  exact stopCommand_run ho (hz.trans hr) status

theorem exec_commandTimeout (hq : q < Config.hostQueues) {d : HostCmd} (ht : s.timed q = some d) (hp : s.pastTimeout q d = false) :
    exec (.commandTimeout q) s = if s.plotScope d then .next (s.timeoutFence q d) else .next (s.stopCommand q d stTimeout) := by
  refine (onUnit_of (decide_eq_true hq)).trans ((whenSome_of ht).trans ?_)
  rw [hp]
  rfl

end

theorem if_false_of {α : Type} {b : Bool} (h : b = false) (x y : α) : (if b then x else y) = y := if_neg (by rw [h]; exact Bool.false_ne_true)

/-- Settles O52. -/
theorem plotsArePlacedAndRun : Obligations.PlotsArePlacedAndRun := by
  unfold Obligations.PlotsArePlacedAndRun
  intro s q c hc
  refine ⟨fun h => ⟨fun hpl ha hz hb => ?_, fun old hpl hm => ?_⟩, fun k hk hw _ _ => ⟨fun hf => judgePlace_planned hk hw (planned_format hf q c.seq),
    fun hf hm => ⟨_, judgePlace_planned hk hw (planned_mode hf hm c.seq), rfl⟩⟩, fun pl hp hpl hm hs => exec_placementCommit hp hpl hm hs,
    fun pl => commitPlacement_outcome hc q pl, fun old hp hold h4 h1 hn hz ht => ?_, fun h => ⟨exec_run_unplaced h, exec_run_running h,
    exec_run_held h, fun h3 hr hh => ?_⟩, fun t next rest h => ⟨exec_frameReport h, fun hn => takeReport_idle (s := { s with svc := rest }) hn next,
    fun p r hp hr => takeReport_outcome (s := { s with svc := rest }) { hc with } hp hr next⟩, fun r hp hr h0 hd hf => exec_layerAdvance hp hr h0 hd hf,
    fun z r hr => endFinished_outcome hr, fun hp hd h0 ht => exec_plotDrained hp hd h0 ht, fun h => ?_, fun hq d ht hp => ?_⟩
  · obtain ⟨h1, h2⟩ := exec_place_new h hpl ha hz hb
    exact ⟨h1, fun pl hj => ⟨_, h2 pl hj, placeBegun_outcome hc q c pl⟩⟩
  · obtain ⟨h1, h2⟩ := exec_place_again h hpl hm
    exact ⟨h1, fun pl k st hj hk hs => ⟨h2 pl k st hj hk hs, moveRegions_placing hc q k pl st⟩⟩
  · obtain ⟨h1, h2⟩ := exec_replacement hp hold h4 h1 hn hz ht
    have ho := fun pl => replaced_outcome (s := (s.copyRegions q old pl).1) (State.copyRegions_keeps' hc.keeps).canon q (s.copyRegions q old pl).2
    exact ⟨fun r hr => ⟨_, h1 r hr, replaceRefused_state hc q old r⟩, fun pl hr hm => ⟨_, h2 pl hr, (ho pl).1 hm⟩,
      fun pl hr hm => ⟨_, h2 pl hr, (ho pl).2 hm⟩⟩
  · have h1 : (s.onCommand q c.seq (fun c => { c with started := true })).Canonical := (State.onCommand_keeps hc.keeps).canon
    obtain ⟨k1, k2, k3, k4⟩ := beginRun_outcome h1 q c
    exact ⟨_, _, exec_run_starts h h3 hr hh, k1, rfl, rfl, rfl, k2, k3, SameMemory.of_mem k4⟩
  · refine ⟨fun d hd hb => (exec_abort_done h hd).trans (if_false_of hb _ _), fun d hd hb => (exec_abort_done h hd).trans (if_pos hb),
      exec_abort_missing h, fun d hd hl => ⟨fun hb => (exec_abort_left h hd hl).trans (if_pos hb), fun hb hs => ?_, fun hb hs => ?_,
      fun ho hr => aborted_run ho hr c.seq _ _⟩⟩
    · exact (exec_abort_left h hd hl).trans ((if_false_of hb _ _).trans (if_false_of hs _ _))
    · exact (exec_abort_left h hd hl).trans ((if_false_of hb _ _).trans (if_pos hs))
  · exact ⟨fun h => (exec_commandTimeout hq ht hp).trans (if_pos h), fun h => (exec_commandTimeout hq ht hp).trans (if_false_of h _ _)⟩

end Sys2Proof.Machine
end

section
/-!
PROOFS. Telemetry on its way out, host ports, and register accesses (R8, R9, R339, R483 to R491, R520 to R528).
-/
namespace Sys2Proof.Machine

section
variable {s : State} {t : Site} {a : Nat}

/-! ### Records in (R483, R489, R490) -/

theorem exec_telemAlarm (hl : s.Live t) {r : TRec} (h : (s.ni t).teleAlarm = some r) : exec (.telemRecordReceive t) s =
    .next ((s.onNi t (fun n => { n with teleAlarm := none })).onTelem (fun tm => alarmIn tm r)) := by
  refine (onTile_live hl).trans ?_
  simp only [h]

theorem exec_telemRecord (hl : s.Live t) {r : TRec} {rest : List TRec} (h : (s.ni t).teleAlarm = none) (hr : (s.ni t).tele = r :: rest) :
    exec (.telemRecordReceive t) s = .next (if r.cls = 1 then (s.onNi t (fun n => { n with tele := rest })).eventIn r
      else (s.onNi t (fun n => { n with tele := rest })).traceIn r (s.plotOf t).isNone) := by
  refine (onTile_live hl).trans ?_
  simp only [h, hr]
  rfl

/-- An EVENT stands last in the ring. -/
def State.eventPut (s : State) (r : TRec) : State :=
  s.onTelem (fun tm => { tm with events := tm.events ++ [{ r with cls := 1, seq := tm.eseq }], eseq := (tm.eseq + 1) % 2 ^ 32 })

theorem eventIn_put (h : s.coalescing = false) (hl : s.telem.events.length < 16384) (r : TRec) : s.eventIn r =
    if !decide ((s.eventPut r).telem.events.length < 12288) then (s.eventPut r).setFld rTelemStat 31 31 1 else s.eventPut r := by
  rw [State.eventIn, h, decide_eq_true hl]
  rfl

theorem eventPut_length (s : State) (r : TRec) : (s.eventPut r).telem.events.length = s.telem.events.length + 1 := List.length_append

theorem eventIn_outcome (hc : s.Canonical) (h : s.coalescing = false) (r : TRec) :
    (s.telem.events.length < 12287 → (s.eventIn r).telem.events = s.telem.events ++ [{ r with cls := 1, seq := s.telem.eseq }] ∧
      (s.eventIn r).coalescing = false) ∧
      (s.telem.events.length = 12287 → (s.eventIn r).coalescing = true) := by
  refine ⟨fun hl => ?_, fun hl => ?_⟩
  · rw [eventIn_put h (by omega), eventPut_length, decide_eq_true (by omega)]
    exact ⟨rfl, h⟩
  · rw [eventIn_put h (by omega), eventPut_length, decide_eq_false (by omega)]
    have h1 : (s.eventPut r).Canonical := { hc with }
    exact decide_eq_true (State.setFld_fld_of_lt h1 (by decide) (by decide) (by decide))

theorem traceIn_dropped (h : s.coalescing = true) (r : TRec) : s.traceIn r false = s.bump rTelemDrop 63 32 1 := by
  rw [State.traceIn, h]
  rfl

/-! ### Datagrams (R485, R486) -/

theorem hostOut_sent {o : HostOut} (hp : s.outPort o = some a) (hl : s.linkOn a = true) (hr : o.isRoce = false) :
    s.hostOut o = { s with out := s.out ++ [o] } := by
  simp [State.hostOut, hp, State.linkHolds, hl, hr]

theorem sendAlarms_eq (s : State) (rs : List TRec) : s.sendAlarms rs =
    (s.alarmPorts.foldl (fun s' a => s'.hostOut (.telemetry a 0 s.telem.dseqA rs)) s).onTelem (fun tm => { tm with
      dseqA := (s.telem.dseqA + 1) % 2 ^ 32
      alarmSent := tm.alarmSent ++ (rs.map (fun r => r.seq)).filter (fun q => !tm.alarmSent.contains q) }) := rfl

theorem alarmsOut_telem (s : State) (l : List Nat) (d : Nat) (rs : List TRec) :
    (l.foldl (fun s' a => s'.hostOut (.telemetry a 0 d rs)) s).telem = s.telem :=
  List.foldlRecOn (motive := fun u : State => u.telem = s.telem) l _ rfl fun u hu a _ => by
    rw [hostOut_rest]
    exact hu

theorem sendAlarms_outcome (s : State) (rs : List TRec) : (s.sendAlarms rs).telem.alarms = s.telem.alarms ∧
    (s.sendAlarms rs).telem.dseqA = (s.telem.dseqA + 1) % 2 ^ 32 ∧ ∀ r ∈ rs, r.seq ∈ (s.sendAlarms rs).telem.alarmSent := by
  have h := alarmsOut_telem s s.alarmPorts s.telem.dseqA rs
  rw [sendAlarms_eq]
  generalize s.alarmPorts.foldl (fun s' a => s'.hostOut (.telemetry a 0 s.telem.dseqA rs)) s = u at *
  refine ⟨by rw [← h]; rfl, rfl, fun r hr => ?_⟩
  show r.seq ∈ u.telem.alarmSent ++ (rs.map (fun r => r.seq)).filter (fun q => !u.telem.alarmSent.contains q)
  by_cases hm : r.seq ∈ u.telem.alarmSent
  · exact List.mem_append_left _ hm
  · refine List.mem_append_right _ (List.mem_filter.2 ⟨List.mem_map_of_mem hr, ?_⟩)
    simpa using hm

theorem sendAlarmRun_alarms (n : Nat) : ∀ (k : Nat) (s : State) (rs : List TRec), (State.sendAlarmRun n k s rs).telem.alarms = s.telem.alarms
  | 0, _, _ => rfl
  | k + 1, s, rs => by
    rw [State.sendAlarmRun]
    split
    · rfl
    · exact (sendAlarmRun_alarms n k _ _).trans (sendAlarms_outcome s _).1

theorem exec_alarmDatagram (hd : s.hasDest = true) (hn : s.telem.alarms.filter (fun r => !s.telem.alarmSent.contains r.seq) ≠ [])
    (hp : s.alarmPorts ≠ []) : exec (.telemDatagramSend 0) s =
      .next (s.sendAlarms ((s.telem.alarms.filter (fun r => !s.telem.alarmSent.contains r.seq)).take s.alarmMax)) := by
  refine (onUnit_of rfl).trans ?_
  rw [hd]
  refine when_of ?_
  rw [List.isEmpty_eq_false_iff.2 hn, List.isEmpty_eq_false_iff.2 hp]
  rfl

/-- The port may carry EVENTs and TRACEs. -/
structure State.Carries (s : State) (a : Nat) : Prop where
  port   : s.telemPort = some a
  link   : s.linkOn a = true
  ready  : s.stage = 8
  thawed : s.frozen = false

theorem State.Carries.opens (h : s.Carries a) : (s.linkOn a && decide (s.stage = 8) && !s.frozen) = true := by
  simp [h.link, h.ready, h.thawed]

/-- An EVENT datagram, before what follows from the ring's fall. -/
def State.eventsSent (s : State) (a : Nat) : State :=
  (s.onTelem (fun tm => { tm with events := tm.events.drop (s.maxRecords a), dseqE := (s.telem.dseqE + 1) % 2 ^ 32 })).hostOut
    (.telemetry a 1 s.telem.dseqE (s.telem.events.take (s.maxRecords a)))

def State.tracesSent (s : State) (a : Nat) : State :=
  (s.onTelem (fun tm => { tm with traces := tm.traces.drop (s.maxRecords a), dseqT := (s.telem.dseqT + 1) % 2 ^ 32 })).hostOut
    (.telemetry a 2 s.telem.dseqT (s.telem.traces.take (s.maxRecords a)))

theorem maxRecords_pos (s : State) (a : Nat) : 0 < s.maxRecords a := by
  unfold State.maxRecords
  omega

theorem take_isEmpty {α : Type} {l : List α} (h : l ≠ []) {n : Nat} (hn : 0 < n) : (l.take n).isEmpty = false := by
  cases l with
  | nil => exact absurd rfl h
  | cons x l => cases n with
    | zero => omega
    | succ n => rfl

theorem exec_eventDatagram (hd : s.hasDest = true) (h : s.Carries a) (hn : s.telem.events ≠ []) :
    exec (.telemDatagramSend 1) s = .next (s.eventsSent a).ringFell := by
  refine (onUnit_of rfl).trans ?_
  rw [hd]
  refine (whenSome_of h.port).trans (when_of ?_)
  rw [h.opens, take_isEmpty hn (maxRecords_pos s a)]
  rfl

theorem exec_traceDatagram (hd : s.hasDest = true) (h : s.Carries a) (he : s.telem.events.length < s.maxRecords a) (hn : s.telem.traces ≠ []) :
    exec (.telemDatagramSend 2) s = .next (s.tracesSent a) := by
  refine (onUnit_of rfl).trans ?_
  rw [hd]
  refine (whenSome_of h.port).trans (when_of ?_)
  rw [h.opens, take_isEmpty hn (maxRecords_pos s a), decide_eq_true he]
  rfl

theorem enterSummaries_dseqE (l : List TRec) (tm : Telem) : (l.foldl enterSummary tm).dseqE = tm.dseqE :=
  List.foldlRecOn (motive := fun x : Telem => x.dseqE = tm.dseqE) l _ rfl fun _ hu _ _ => hu

theorem ringFell_outcome (s : State) : s.ringFell.telem.dseqE = s.telem.dseqE ∧ s.ringFell.out = s.out := by
  unfold State.ringFell
  split
  · exact ⟨enterSummaries_dseqE _ _, rfl⟩
  · exact ⟨rfl, rfl⟩

theorem eventsSent_outcome (hl : s.linkOn a = true) : (s.eventsSent a).ringFell.telem.dseqE = (s.telem.dseqE + 1) % 2 ^ 32 ∧
    (s.eventsSent a).ringFell.out = s.out ++ [.telemetry a 1 s.telem.dseqE (s.telem.events.take (s.maxRecords a))] := by
  obtain ⟨h1, h2⟩ := ringFell_outcome (s.eventsSent a)
  rw [h1, h2, State.eventsSent, hostOut_sent rfl (by exact hl) rfl]
  exact ⟨rfl, rfl⟩

theorem tracesSent_outcome (hl : s.linkOn a = true) : (s.tracesSent a).telem.traces = s.telem.traces.drop (s.maxRecords a) ∧
    (s.tracesSent a).telem.dseqT = (s.telem.dseqT + 1) % 2 ^ 32 ∧
    (s.tracesSent a).out = s.out ++ [.telemetry a 2 s.telem.dseqT (s.telem.traces.take (s.maxRecords a))] := by
  rw [State.tracesSent, hostOut_sent rfl (by exact hl) rfl]
  exact ⟨rfl, rfl, rfl⟩

theorem exec_alarmResend (hd : s.hasDest = true) (hn : s.telem.alarms.filter (fun r => s.telem.alarmSent.contains r.seq) ≠ [])
    (hp : s.alarmPorts ≠ []) : exec .alarmResend s = .next (State.sendAlarmRun s.alarmMax
      (s.telem.alarms.filter (fun r => s.telem.alarmSent.contains r.seq)).length s
      (s.telem.alarms.filter (fun r => s.telem.alarmSent.contains r.seq))) := by
  refine when_of ?_
  rw [hd, List.isEmpty_eq_false_iff.2 hn, List.isEmpty_eq_false_iff.2 hp]
  rfl

/-! ### Acknowledgements and summaries (R487, R490) -/

/-- How far SEQ number x stands ahead of y. -/
def seqAhead (x y : Nat) : Nat := (x + 2 ^ 32 - y) % 2 ^ 32

theorem writeAack_behind {v : Dword} (h : 2 ^ 31 ≤ seqAhead (Dword.field v 31 0) (s.fld rTelemAack 31 0)) : s.writeAack v = s :=
  if_pos (by show (!decide (seqAhead _ _ < 2 ^ 31)) = true; rw [decide_eq_false (Nat.not_lt.2 h)]; rfl)

theorem writeAack_ahead {v : Dword} (h : seqAhead (Dword.field v 31 0) (s.fld rTelemAack 31 0) < 2 ^ 31) : s.writeAack v =
    (s.setFld rTelemAack 31 0 (Dword.field v 31 0)).onTelem (fun tm => { tm with
      alarms := tm.alarms.filter (fun r => !decide (seqAhead (Dword.field v 31 0) r.seq < 2 ^ 31))
      alarmSent := tm.alarmSent.filter (fun q => !decide (seqAhead (Dword.field v 31 0) q < 2 ^ 31)) }) :=
  if_neg (by show ¬ (!decide (seqAhead _ _ < 2 ^ 31)) = true; rw [decide_eq_true h]; exact Bool.false_ne_true)

theorem writeAack_outcome (hc : s.Canonical) {v : Dword} (h : seqAhead (Dword.field v 31 0) (s.fld rTelemAack 31 0) < 2 ^ 31) :
    (s.writeAack v).fld rTelemAack 31 0 = Dword.field v 31 0 ∧
      ∀ r, r ∈ (s.writeAack v).telem.alarms ↔ r ∈ s.telem.alarms ∧ 2 ^ 31 ≤ seqAhead (Dword.field v 31 0) r.seq := by
  rw [writeAack_ahead h]
  refine ⟨State.setFld_fld_of_lt hc (by decide) (by decide) (Dword.field_lt v 31 0), fun r => List.mem_filter.trans ?_⟩
  rw [Bool.not_eq_true', decide_eq_false_iff_not, Nat.not_lt]
  rfl

theorem exec_summaryClose {r : TRec} {code : Nat} (h : s.telem.sums.find? (fun r => decide (r.code = code)) = some r)
    (hl : s.telem.events.length < 16384) : exec (.summaryClose code) s = .next (s.onTelem (fun tm => enterSummary tm r)) :=
  (whenSome_of h).trans (when_of (decide_eq_true hl))

theorem enterSummary_sums (tm : Telem) (r : TRec) : ∀ x ∈ (enterSummary tm r).sums, x.code ≠ r.code :=
  fun _ hx => of_decide_eq_true (List.mem_filter.1 hx).2

/-! ### Host ports (R339, R470, R507) -/

theorem onHostPort_same (hc : s.Canonical) (a : Nat) (f : HostPort → HostPort) : (s.onHostPort a f).hostPort a = f (s.hostPort a) :=
  mapGet_set_same a _ hc.hostPorts

/-- A port that holds nothing back sends all that it held. -/
theorem flushPort_open (hc : s.Canonical) (h : ∀ o, s.linkHolds a o = false) : (s.flushPort a).out = s.out ++ (s.hostPort a).held ∧
    (s.flushPort a).hostPort a = { s.hostPort a with held := [] } ∧ ∀ x hi lo, (s.flushPort a).fld x hi lo = s.fld x hi lo := by
  have hf1 : (s.hostPort a).held.filter (fun o => !s.linkHolds a o) = (s.hostPort a).held :=
    List.filter_eq_self.2 fun o _ => by rw [h]; rfl
  have hf2 : (s.hostPort a).held.filter (fun o => s.linkHolds a o) = [] := List.filter_eq_nil_iff.2 fun o _ => by rw [h]; exact Bool.false_ne_true
  have he : s.flushPort a = ({ s with out := s.out ++ (s.hostPort a).held.filter (fun o => !s.linkHolds a o) } : State).onHostPort a
    (fun x => { x with held := (s.hostPort a).held.filter (fun o => s.linkHolds a o) }) := rfl
  rw [he, hf1, hf2]
  have hc' : ({ s with out := s.out ++ (s.hostPort a).held } : State).Canonical := { hc with }
  exact ⟨rfl, onHostPort_same hc' a _, fun _ _ _ => rfl⟩

theorem linkHolds_open (hl : s.linkOn a = true) (hp : (s.hostPort a).paused = false) (o : HostOut) : s.linkHolds a o = false := by
  simp [State.linkHolds, hl, hp]

/-- A port has PCS lock and a link. -/
def State.linkUp (s : State) (a : Nat) (sw : Bool) : State :=
  (s.setFld (rHostPortStat a) 1 0 3).onHostPort a (fun x => { x with swapped := sw, paused := false })

theorem linkUp_outcome (hc : s.Canonical) (a : Nat) (sw : Bool) : (s.linkUp a sw).Canonical ∧ (s.linkUp a sw).linkOn a = true ∧
    (s.linkUp a sw).fld (rHostPortStat a) 1 1 = 1 ∧
    (s.linkUp a sw).hostPort a = { s.hostPort a with swapped := sw, paused := false } := by
  have h1 := hc.setFld (rHostPortStat a) 1 0 3
  have h2 := State.setFld_fld_inside hc (rHostPortStat a) (hi := 1) (lo := 0) (h := 0) (l := 0) 3 (by decide) (by decide) (by decide) (by decide)
  have h3 := State.setFld_fld_inside hc (rHostPortStat a) (hi := 1) (lo := 0) (h := 1) (l := 1) 3 (by decide) (by decide) (by decide) (by decide)
  exact ⟨(State.onHostPort_keeps h1.keeps).canon, decide_eq_true h2, h3, onHostPort_same h1 a _⟩

theorem exec_linkUp (ha : a < 2) (h : s.portReady a = true) (sw : Bool) :
    exec (.hostLinkChange a true sw) s = .next ((s.linkUp a sw).flushPort a) := (onUnit_of (decide_eq_true ha)).trans (when_of h)

theorem linkUp_flushed (hc : s.Canonical) (a : Nat) (sw : Bool) : ((s.linkUp a sw).flushPort a).linkOn a = true ∧
    ((s.linkUp a sw).flushPort a).fld (rHostPortStat a) 1 1 = 1 ∧ (((s.linkUp a sw).flushPort a).hostPort a).swapped = sw ∧
    (((s.linkUp a sw).flushPort a).hostPort a).paused = false ∧ (((s.linkUp a sw).flushPort a).hostPort a).held = [] ∧
    ((s.linkUp a sw).flushPort a).out = s.out ++ (s.hostPort a).held := by
  obtain ⟨h1, h2, h3, h4⟩ := linkUp_outcome hc a sw
  obtain ⟨k1, k2, k3⟩ := flushPort_open h1 (linkHolds_open h2 (by rw [h4]))
  have hlink : ((s.linkUp a sw).flushPort a).linkOn a = (s.linkUp a sw).linkOn a := by rw [State.linkOn, k3, State.linkOn]
  refine ⟨hlink.trans h2, (k3 _ _ _).trans h3, ?_, ?_, ?_, ?_⟩
  · rw [k2, h4]
  · rw [k2, h4]
  · rw [k2]
  · rw [k1, h4]
    rfl

theorem exec_secureAssociation (ha : a < 2) :
    (s.linkOn a = true → s.hasCak = true → exec (.secureAssociation a true) s = .next (s.setFld (rHostPortStat a) 2 2 1)) ∧
      exec (.secureAssociation a false) s = .next (s.setFld (rHostPortStat a) 2 2 0) :=
  ⟨fun hl hk => (onUnit_of (decide_eq_true ha)).trans (when_of (by rw [hl, hk]; rfl)), onUnit_of (decide_eq_true ha)⟩

theorem exec_pfcFrame (ha : a < 2) (hl : s.linkOn a = true) (b : Bool) : exec (.pfcFrame a b) s = .next
    (if s.fld (rHostPortCfg a) 19 19 = 0 then s.dropFrame a else (s.onHostPort a (fun x => { x with paused := b })).flushPort a) :=
  (onUnit_of (decide_eq_true ha)).trans (when_of hl)

theorem flushPort_paused (hc : s.Canonical) (a : Nat) : ((s.flushPort a).hostPort a).paused = (s.hostPort a).paused := by
  have h : ∀ (z : State) (f : HostPort → HostPort), z.Canonical → z.hostPort a = s.hostPort a → (∀ x, (f x).paused = x.paused) →
      ((z.onHostPort a f).hostPort a).paused = (s.hostPort a).paused := fun z f hz he hf => by rw [onHostPort_same hz, hf, he]
  exact h _ _ { hc with } rfl fun _ => rfl

theorem pfc_outcome (hc : s.Canonical) (hl : s.linkOn a = true) (b : Bool) :
    (((s.onHostPort a (fun x => { x with paused := b })).flushPort a).hostPort a).paused = b ∧
      (b = false → (((s.onHostPort a (fun x => { x with paused := b })).flushPort a).hostPort a).held = []) := by
  have h1 : (s.onHostPort a (fun x => { x with paused := b })).Canonical := (State.onHostPort_keeps hc.keeps).canon
  have h2 := onHostPort_same hc a (fun x => { x with paused := b })
  have h3 : (s.onHostPort a (fun x => { x with paused := b })).linkOn a = true := hl
  generalize s.onHostPort a (fun x => { x with paused := b }) = u at *
  refine ⟨(flushPort_paused h1 a).trans (by rw [h2]), fun hb => ?_⟩
  rw [(flushPort_open h1 (linkHolds_open h3 (by rw [h2]; exact hb))).2.1]

theorem exec_ptpReceived (ha : a < 2) (hl : s.linkOn a = true) (time : Nat) :
    exec (.ptpEventMessage a false time) s = .next (s.onHostPort a (fun x => { x with stamp := time })) :=
  (onUnit_of (decide_eq_true ha)).trans (when_of hl)

theorem exec_ptpSync (ha : a < 2) (hl : s.linkOn a = true) (time : Nat) :
    exec (.ptpEventMessage a true time) s = .next ((s.onHostPort a (fun x => { x with stamp := time })).hostOut (.sync a time)) :=
  (onUnit_of (decide_eq_true ha)).trans (when_of hl)

theorem ptpSync_outcome (hc : s.Canonical) (hl : s.linkOn a = true) (time : Nat) :
    (((s.onHostPort a (fun x => { x with stamp := time })).hostOut (.sync a time)).hostPort a).stamp = time ∧
      ((s.onHostPort a (fun x => { x with stamp := time })).hostOut (.sync a time)).out = s.out ++ [.sync a time] := by
  rw [hostOut_sent rfl (by exact hl) rfl]
  exact ⟨congrArg HostPort.stamp (onHostPort_same hc a (fun x => { x with stamp := time })), rfl⟩

/-! ### Registers (R8, R9, R520 to R528) -/

theorem meshCfg_outcome (hc : s.Canonical) (v : Dword) :
    (s.setFld rMeshCfg 11 0 (max 16 (Dword.field v 11 0))).fld rMeshCfg 11 0 = max 16 (Dword.field v 11 0) :=
  State.setFld_fld_of_lt hc (by decide) (by decide) (by have := Dword.field_lt v 11 0; omega)

theorem routerAnswer_umbra (h : s.fieldState (8 * (s.fld rMeshRsel 17 9 / 40) + s.fld rMeshRsel 8 0 / 40) = 2) (b : Bool) :
    s.routerAnswer b = 0 := by
  refine if_pos (Bool.or_eq_true_iff.2 (.inr ?_))
  exact decide_eq_true h

/-- A register that software writes by the type of its fields alone. -/
def plainReg (y : Nat) : Bool :=
  (regRow y).isSome && !absentEntry y &&
    !([rClkMeas, rClkOut, rPwrCapSet, rThmCfg, rMeshCfg, rRasReset, rRasDrain, rRasScan, rRasAi, rTelemAack] : List Nat).contains y &&
    (regIdx (rClkMux 0) 8 128 y).isNone && (regIdx (rPwrPlot 0) 8 64 y).isNone && (regIdx (rFacetCfg 0) 0x40 8 y).isNone &&
    (regIdx (rHostQp 0 0) 8 (6 * Config.qps) y).isNone && (regIdx (rPlotReset 0) 0x400 64 y).isNone

theorem writeReg_plain (s : State) {y : Nat} (h : plainReg y = true) (v : Dword) :
    ∃ r, regRow y = some r ∧ s.writeReg y v = s.setReg y (regStore r (s.reg y) v) := by
  simp only [plainReg, Bool.and_eq_true, Bool.not_eq_true', Option.isSome_iff_exists, Option.isNone_iff_eq_none, List.contains_eq_mem,
    decide_eq_false_iff_not, List.mem_cons, List.not_mem_nil, or_false, not_or] at h
  obtain ⟨⟨⟨⟨⟨⟨⟨⟨r, hr⟩, ha⟩, h1, h2, h3, h4, h5, h6, h7, h8, h9, h10⟩, hm⟩, hp⟩, hf⟩, hq⟩, hx⟩ := h
  refine ⟨r, hr, ?_⟩
  have hw : s.writeArray y v = none := by simp only [State.writeArray, hm, hp, hf, hq, hx]
  simp only [State.writeReg, hr, ha, Bool.false_eq_true, if_false, if_neg h1, if_neg h2, if_neg h3, if_neg h4, if_neg h5, if_neg h6,
    if_neg h7, if_neg h8, if_neg h9, if_neg h10, hw]

theorem writeReg_reserved (s : State) {y : Nat} (h : regRow y = none) (v : Dword) : s.writeReg y v = s := by
  rw [State.writeReg, h]

theorem plainRegs : ∀ y ∈ [rTelemCfg, rTelemDest 0, rTelemDest 1, rTelemTrace, rRasScrub, rMeshRsel, rRouteTsel, rHostPortCfg 0, rPlotPlaceCfg 63],
    plainReg y = true := by decide

/-- A bit of a register after a write, by its type (R8). -/
theorem regStore_getLsbD (r : RegRow) (old v : Dword) {i : Nat} (hi : i < 64) : (regStore r old v).getLsbD i =
    if r.w1c.testBit i = true ∧ v.getLsbD i = true then false else if r.rw.testBit i = true then v.getLsbD i else old.getLsbD i := by
  simp only [regStore, BitVec.getLsbD_and, BitVec.getLsbD_or, BitVec.getLsbD_not, BitVec.getLsbD_ofNat, hi, decide_true, Bool.true_and]
  cases r.w1c.testBit i <;> cases r.rw.testBit i <;> cases v.getLsbD i <;> cases old.getLsbD i <;> rfl

end

section
variable {s : State} {a : Nat}

theorem datagrams_outcome (hd : s.hasDest = true) :
    (s.telem.alarms.filter (fun r => !s.telem.alarmSent.contains r.seq) ≠ [] → s.alarmPorts ≠ [] →
      ∃ s', exec (.telemDatagramSend 0) s = .next s' ∧ s'.telem.alarms = s.telem.alarms ∧ s'.telem.dseqA = (s.telem.dseqA + 1) % 2 ^ 32 ∧
        ∀ r ∈ (s.telem.alarms.filter (fun r => !s.telem.alarmSent.contains r.seq)).take s.alarmMax, r.seq ∈ s'.telem.alarmSent) ∧
      (s.Carries a → (s.telem.events ≠ [] → ∃ s', exec (.telemDatagramSend 1) s = .next s' ∧
          s'.telem.dseqE = (s.telem.dseqE + 1) % 2 ^ 32 ∧
          s'.out = s.out ++ [.telemetry a 1 s.telem.dseqE (s.telem.events.take (s.maxRecords a))]) ∧
        (s.telem.events.length < s.maxRecords a → s.telem.traces ≠ [] → ∃ s', exec (.telemDatagramSend 2) s = .next s' ∧
          s'.telem.traces = s.telem.traces.drop (s.maxRecords a) ∧ s'.telem.dseqT = (s.telem.dseqT + 1) % 2 ^ 32 ∧
          s'.out = s.out ++ [.telemetry a 2 s.telem.dseqT (s.telem.traces.take (s.maxRecords a))])) ∧
      (s.telem.alarms.filter (fun r => s.telem.alarmSent.contains r.seq) ≠ [] → s.alarmPorts ≠ [] →
        ∃ s', exec .alarmResend s = .next s' ∧ s'.telem.alarms = s.telem.alarms) :=
  ⟨fun hn hp => ⟨_, exec_alarmDatagram hd hn hp, sendAlarms_outcome s _⟩,
    fun h => ⟨fun hn => ⟨_, exec_eventDatagram hd h hn, eventsSent_outcome h.link⟩,
      fun he hn => ⟨_, exec_traceDatagram hd h he hn, tracesSent_outcome h.link⟩⟩,
    fun hn hp => ⟨_, exec_alarmResend hd hn hp, sendAlarmRun_alarms _ _ s _⟩⟩

theorem hostPorts_outcome (hc : s.Canonical) (ha : a < 2) :
    (∀ sw, s.portReady a = true → ∃ s', exec (.hostLinkChange a true sw) s = .next s' ∧ s'.linkOn a = true ∧ s'.fld (rHostPortStat a) 1 1 = 1 ∧
        (s'.hostPort a).swapped = sw ∧ (s'.hostPort a).paused = false ∧ (s'.hostPort a).held = [] ∧ s'.out = s.out ++ (s.hostPort a).held) ∧
      (∀ sw, ∃ s', exec (.hostLinkChange a false sw) s = .next s' ∧ s'.fld (rHostPortStat a) 2 0 = 0 ∧ s'.out = s.out) ∧
      (s.linkOn a = true → s.hasCak = true → exec (.secureAssociation a true) s = .next (s.setFld (rHostPortStat a) 2 2 1)) ∧
      exec (.secureAssociation a false) s = .next (s.setFld (rHostPortStat a) 2 2 0) :=
  ⟨fun sw h => ⟨_, exec_linkUp ha h sw, linkUp_flushed hc a sw⟩,
    fun _ => ⟨_, onUnit_of (decide_eq_true ha), State.setFld_fld_of_lt hc (by decide) (by decide) (by decide), rfl⟩, exec_secureAssociation ha⟩

theorem linkedPort_outcome (hc : s.Canonical) (ha : a < 2) (hl : s.linkOn a = true) :
    (∀ b, s.fld (rHostPortCfg a) 19 19 = 0 → exec (.pfcFrame a b) s = .next (s.bump (rHostPortStat a) 63 32 1)) ∧
      (∀ b, s.fld (rHostPortCfg a) 19 19 = 1 → ∃ s', exec (.pfcFrame a b) s = .next s' ∧ (s'.hostPort a).paused = b ∧
        (b = false → (s'.hostPort a).held = [])) ∧
      ∀ time, exec (.ptpEventMessage a false time) s = .next (s.onHostPort a (fun x => { x with stamp := time })) ∧
        ∃ s', exec (.ptpEventMessage a true time) s = .next s' ∧ (s'.hostPort a).stamp = time ∧ s'.out = s.out ++ [.sync a time] := by
  refine ⟨fun b h => ?_, fun b h => ⟨_, ?_, pfc_outcome hc hl b⟩,
    fun time => ⟨exec_ptpReceived ha hl time, _, exec_ptpSync ha hl time, ptpSync_outcome hc hl time⟩⟩
  · rw [exec_pfcFrame ha hl, if_pos h]
    rfl
  · rw [exec_pfcFrame ha hl, if_neg (by omega)]

end

/-- Settles O60. -/
theorem telemetryPortsAndRegisters : Obligations.TelemetryPortsAndRegisters := by
  unfold Obligations.TelemetryPortsAndRegisters
  intro s t a hc
  refine ⟨fun hl => ⟨fun r h => exec_telemAlarm hl h, fun r rest h hr => exec_telemRecord hl h hr⟩,
    fun r h hl => (eventIn_outcome hc h r).1 hl, fun r h hl => (eventIn_outcome hc h r).2 hl, fun r h => traceIn_dropped h r, fun hd => ?_,
    fun v => ⟨fun h => congrArg _ (writeAack_behind h), fun h => ⟨_, rfl, writeAack_outcome hc h⟩⟩,
    fun r code h hl => ⟨_, exec_summaryClose h hl, rfl, enterSummary_sums _ r⟩, fun ha => ?_, fun v => ⟨_, rfl, meshCfg_outcome hc v⟩,
    fun b => ⟨rfl, fun h => routerAnswer_umbra h b⟩, rfl, fun x v => ⟨rfl, fun h => writeReg_reserved s h v,
    fun y hy => writeReg_plain s (plainRegs y hy) v⟩, fun r old v i hi => regStore_getLsbD r old v hi⟩
  · obtain ⟨h1, h2, h3⟩ := datagrams_outcome (a := a) hd
    refine ⟨h1, fun n hp hl hr hf hn => ?_, h3⟩
    subst hn
    exact h2 ⟨hp, hl, hr, hf⟩
  · obtain ⟨h1, h2, h3, h4⟩ := hostPorts_outcome hc ha
    exact ⟨h1, h2, h3, h4, linkedPort_outcome hc ha⟩

end Sys2Proof.Machine
end

section
/-!
PROOFS. The freeze of the device and its afterimage (R445, R446, R449).
-/
namespace Sys2Proof.Machine

section
variable {s s' s'' : State} {p : Nat}

/-! ### What the freeze of a plot leaves -/

/-- What stands while plot p is fenced by a freeze: the freeze's own state, RAS_AI, and the fences of the other plots. -/
structure FreezeKept (p : Nat) (s s' : State) : Prop where
  canon  : s.Canonical → s'.Canonical
  rest   : s'.frozen = s.frozen ∧ s'.alertN = s.alertN ∧ s'.aiDue = s.aiDue ∧ s'.cycle = s.cycle
  ai     : s.Canonical → ∀ hi lo, s'.fld rRasAi hi lo = s.fld rRasAi hi lo
  state  : s.Canonical → ∀ o, o < 64 → o ≠ p → s'.fenceState o = s.fenceState o
  fence  : s.Canonical → ∀ o, o ≠ p → (s'.plot o).fence = (s.plot o).fence

theorem FreezeKept.trans (h : FreezeKept p s s') (k : FreezeKept p s' s'') : FreezeKept p s s'' where
  canon := fun hc => k.canon (h.canon hc)
  rest := ⟨k.rest.1.trans h.rest.1, k.rest.2.1.trans h.rest.2.1, k.rest.2.2.1.trans h.rest.2.2.1, k.rest.2.2.2.trans h.rest.2.2.2⟩
  ai := fun hc hi lo => (k.ai (h.canon hc) hi lo).trans (h.ai hc hi lo)
  state := fun hc o ho hne => (k.state (h.canon hc) o ho hne).trans (h.state hc o ho hne)
  fence := fun hc o hne => (k.fence (h.canon hc) o hne).trans (h.fence hc o hne)

theorem FreezeKept.refl (p : Nat) (s : State) : FreezeKept p s s :=
  ⟨id, ⟨rfl, rfl, rfl, rfl⟩, fun _ _ _ => rfl, fun _ _ _ _ => rfl, fun _ _ _ => rfl⟩

theorem HostOnly.freezeKept {q : Nat} (h : HostOnly q s s') (p : Nat) : FreezeKept p s s' where
  canon := h.canon
  rest := by rw [h.rest]; exact ⟨rfl, rfl, rfl, rfl⟩
  ai := fun _ _ _ => h.fld _ _ _
  state := fun _ _ _ _ => h.fld _ _ _
  fence := fun _ o _ => by rw [h.plot]

theorem Recorded.freezeKept (h : Recorded p s s') : FreezeKept p s s' where
  canon := h.canon
  rest := by rw [h.rest]; exact ⟨rfl, rfl, rfl, rfl⟩
  ai := fun _ _ _ => h.fld _ _ _ fun i _ => by unfold rRasAi rRasFlt; omega
  state := fun _ o ho _ => h.fld _ _ _ fun i _ => by unfold rRasPlot rRasFlt; omega
  fence := fun _ o _ => by rw [h.rest]; rfl

theorem Fencing.freezeKept (h : Fencing p s s') (hp : p < 64) : FreezeKept p s s' where
  canon := h.canon
  rest := by rw [h.rest]; exact ⟨rfl, rfl, rfl, rfl⟩
  ai := fun hc hi lo => by
    refine h.fld hc _ _ _ (by decide) ?_ ?_ (.inl fun q hq => ?_)
    · unfold rRasAi rRasPlot; omega
    · unfold rRasAi rRasFlt; omega
    · unfold rRasAi rPlotMode; omega
  state := fun hc o ho hne => by
    obtain ⟨h1, h2⟩ := rRasPlot_apart ho _ rfl
    refine h.fld hc _ _ _ h1 ?_ ?_ (.inl h2)
    · unfold rRasPlot; omega
    · unfold rRasPlot rRasFlt; omega
  fence := fun _ o hne => by rw [h.other o hne]

theorem freezeKept_setFld (s : State) {a : Nat} (ha : a ≠ rRasAi ∧ ∀ o, o < 64 → o ≠ p → rRasPlot o ≠ a) (hi lo v : Nat) :
    FreezeKept p s (s.setFld a hi lo v) where
  canon := fun hc => hc.setFld _ _ _ _
  rest := ⟨rfl, rfl, rfl, rfl⟩
  ai := fun _ _ _ => State.setFld_fld_other ha.1.symm _ _ _ _ _
  state := fun _ o ho hne => State.setFld_fld_other (ha.2 o ho hne) _ _ _ _ _
  fence := fun _ _ _ => rfl

theorem freezeKept_onPlot (s : State) (p : Nat) (f : PlotSt → PlotSt) : FreezeKept p s (s.onPlot p f) where
  canon := fun hc => hc.onPlot p f
  rest := ⟨rfl, rfl, rfl, rfl⟩
  ai := fun _ _ _ => rfl
  state := fun _ _ _ _ => rfl
  fence := fun _ o hne => by rw [State.onPlot_plot_other hne]

theorem freezeKept_fencedAs (s : State) (p : Nat) (f : FenceSt) : FreezeKept p s (s.fencedAs p f) :=
  (freezeKept_setFld s ⟨by unfold rRasPlot rRasAi; omega, fun o _ hne => by unfold rRasPlot; omega⟩ _ _ _).trans (freezeKept_onPlot _ p _)

theorem freezeKept_dropWork (s : State) (hp : p < 64) : FreezeKept p s (s.dropWork p) := by
  have h1 : FreezeKept p s (s.workDropped p) :=
    ⟨fun hc => { hc.onPlot p (fun x => { x with run := none, draining := false, placing := none }) with }, ⟨rfl, rfl, rfl, rfl⟩,
      fun _ _ _ => rfl, fun _ _ _ _ => rfl,
      fun hc => (freezeKept_onPlot s p (fun x => { x with run := none, draining := false, placing := none })).fence hc⟩
  rw [dropWork_eq]
  split
  · refine h1.trans (freezeKept_setFld _ ⟨?_, fun o ho hne => ?_⟩ _ _ _)
    · unfold rPlotPlace rRasAi; omega
    · unfold rPlotPlace rRasPlot; omega
  · exact h1

/-! ### A plot that a freeze fences (R446) -/

/-- A plot's fence may be ended: it is to be decided, stands, or has ended. -/
def State.Fenceable (s : State) (o : Nat) : Prop := s.fenceState o = 0 ∨ (s.plot o).fence.isSome = true ∨ s.fenceState o = 2

theorem FreezeKept.fenceable (h : FreezeKept p s s') (hc : s.Canonical) {o : Nat} (ho : o < 64) (hne : o ≠ p) (hf : s.Fenceable o) :
    s'.Fenceable o := by
  unfold State.Fenceable at *
  rwa [h.state hc o ho hne, h.fence hc o hne]

/-- The end of a fence whose engines hold their state, but for the commands of its plot. -/
def State.heldRecorded (s : State) (p : Nat) (f : FenceSt) : State :=
  ((s.fencedAs p f).writeRecord p ((s.fencedAs p f).faultRecord p f false)).dropWork p

/-- A decided fence ends at once. -/
def State.fenceEnds (s : State) (p : Nat) : State :=
  if s.fenceState p = 2 then s
  else match (s.plot p).fence with
    | none => s
    | some f => (s.heldRecorded p { f with replay := none }).endCommands p { f with replay := none }
        ((s.fencedAs p { f with replay := none }).faultRecord p { f with replay := none } false)

theorem fenceHeld_eq (s : State) (p : Nat) : s.fenceHeld p = (s.fencePlot p fcFatal (s.runFault p FenceCall.plain)).fenceEnds p := rfl

theorem freezeKept_heldRecorded (s : State) (hp : p < 64) (f : FenceSt) : FreezeKept p s (s.heldRecorded p f) :=
  ((freezeKept_fencedAs s p f).trans (recorded_writeRecord _ p _).freezeKept).trans (freezeKept_dropWork _ hp)

theorem freezeKept_fenceEnds (s : State) (hp : p < 64) : FreezeKept p s (s.fenceEnds p) := by
  unfold State.fenceEnds
  split
  · exact .refl p s
  · split
    · exact .refl p s
    · exact (freezeKept_heldRecorded s hp _).trans ((hostOnly_endCommands _ p _ _).freezeKept p)

theorem freezeKept_fenceHeld (s : State) (hp : p < 64) : FreezeKept p s (s.fenceHeld p) := by
  rw [fenceHeld_eq]
  exact ((fencing_fencePlot s p _ _).freezeKept hp).trans (freezeKept_fenceEnds _ hp)

theorem heldRecorded_state (hc : s.Canonical) (hp : p < 64) (f : FenceSt) : (s.heldRecorded p f).fenceState p = 2 := by
  have h1 : (s.fencedAs p f).fenceState p = 2 := State.setFld_fld_of_lt hc (by decide) (by decide) (by decide)
  have hr := recorded_writeRecord (s.fencedAs p f) p ((s.fencedAs p f).faultRecord p f false)
  refine (dropWork_ended (hr.canon ((freezeKept_fencedAs s p f).canon hc)) hp ((hr.fld _ _ _ fun i _ => ?_).trans h1)).state
  unfold rRasPlot rRasFlt
  omega

theorem fenceEnds_state (hc : s.Canonical) (hp : p < 64) (h : (s.plot p).fence.isSome = true ∨ s.fenceState p = 2) :
    (s.fenceEnds p).fenceState p = 2 := by
  unfold State.fenceEnds
  split
  · assumption
  · next h2 =>
    obtain ⟨f, hf⟩ := Option.isSome_iff_exists.1 (h.resolve_right h2)
    rw [hf]
    exact ((hostOnly_endCommands _ p _ _).fld _ _ _).trans (heldRecorded_state hc hp _)

/-- A plot that a freeze meets is FENCED after it. -/
theorem fenceHeld_state (hc : s.Canonical) (hp : p < 64) (h : s.Fenceable p) : (s.fenceHeld p).fenceState p = 2 := by
  rw [fenceHeld_eq]
  have hk := (fencing_fencePlot s p fcFatal (s.runFault p FenceCall.plain)).canon hc
  refine fenceEnds_state hk hp ?_
  by_cases h0 : s.fenceState p = 0
  · obtain ⟨f, hf, -⟩ := (fencePlot_decided hc hp h0 (cause := fcFatal) (by decide) (s.runFault p FenceCall.plain)).fence
    exact .inl (by rw [hf]; rfl)
  · rw [fencePlot_more h0, moreFault_state]
    refine (h.resolve_left h0).imp_left fun hs => ?_
    unfold State.moreFault
    split
    · rw [State.onPlot_plot_same hc, Option.isSome_map, hs]
    · exact hs

theorem fencesHeld_states : ∀ (l : List Nat) {s : State}, s.Canonical → (∀ p ∈ l, p < 64) → ∀ o, o < 64 →
    (o ∈ l ∧ s.Fenceable o ∨ s.fenceState o = 2) → (l.foldl State.fenceHeld s).fenceState o = 2
  | [], _, _, _, _, _, h => h.resolve_left fun hm => List.not_mem_nil hm.1
  | p :: l, s, hc, hl, o, ho, h => by
    have hp := hl p List.mem_cons_self
    have hk := freezeKept_fenceHeld s hp
    refine fencesHeld_states l (hk.canon hc) (fun q hq => hl q (List.mem_cons_of_mem _ hq)) o ho ?_
    by_cases he : o = p
    · subst he
      exact .inr (fenceHeld_state hc ho (h.elim (fun hm => hm.2) fun h2 => .inr (.inr h2)))
    · exact h.imp (fun hm => ⟨(List.mem_cons.1 hm.1).resolve_left he, hk.fenceable hc ho he hm.2⟩) fun h2 => (hk.state hc o ho he).trans h2

/-! ### The freeze (R445, R446) -/

/-- A frozen device, before its plots are fenced. -/
def State.freezeBegun (s : State) (cause : Nat) : State :=
  let s := { s with aiDue := some s.cycle }
  let s := ((s.setFld rRasAi 62 62 1).setFld rRasAi 59 56 cause).alarm 0x000C wholeModule cause
  { s with frozen := true, alertN := true, boot := { s.boot with writing := none } }

theorem freeze_eq (hf : s.frozen = false) (hd : ¬ (s.aiDue.isSome = true ∨ s.fld rRasAi 63 63 = 1)) (cause : Nat) : s.freeze cause =
    (((List.range 64).filter (s.freezeBegun cause).plotValid).foldl State.fenceHeld (s.freezeBegun cause)).fenceQueues := by
  have hl : (s.aiDue.isSome || decide (s.fld rRasAi 63 63 = 1)) = false := by simpa using hd
  rw [State.freeze]
  simp only [hl, Bool.false_eq_true, if_false, hf]
  rfl

theorem freezeBegun_outcome (hc : s.Canonical) {cause : Nat} (hcause : cause < 16) : (s.freezeBegun cause).Canonical ∧
    (s.freezeBegun cause).fld rRasAi 62 62 = 1 ∧ (s.freezeBegun cause).fld rRasAi 59 56 = cause ∧
    (∀ a hi lo, a ≠ rRasAi → (s.freezeBegun cause).fld a hi lo = s.fld a hi lo) ∧ ∀ o, (s.freezeBegun cause).plot o = s.plot o := by
  have h0 : ({ s with aiDue := some s.cycle } : State).Canonical := { hc with }
  have h1 := h0.setFld rRasAi 62 62 1
  have h2 := h1.setFld rRasAi 59 56 cause
  refine ⟨{ h2 with }, ?_, State.setFld_fld_of_lt h1 (by decide) (by decide) hcause, fun a hi lo ha => ?_, fun _ => rfl⟩
  · exact (State.setFld_fld_field h1 _ (.inr (by decide)) (by decide)).trans (State.setFld_fld_of_lt h0 (by decide) (by decide) (by decide))
  · exact (State.setFld_fld_other ha _ _ _ _ _).trans (State.setFld_fld_other ha _ _ _ _ _)

theorem freezeBegun_rest (s : State) (cause : Nat) : (s.freezeBegun cause).frozen = true ∧ (s.freezeBegun cause).alertN = true ∧
    (s.freezeBegun cause).aiDue = some s.cycle ∧ (s.freezeBegun cause).cycle = s.cycle := ⟨rfl, rfl, rfl, rfl⟩

theorem freezeKept_foldl {α : Type} {f : State → α → State} {l : List α} (hf : ∀ s, ∀ x ∈ l, ∀ p, FreezeKept p s (f s x)) (p : Nat) (s : State) :
    FreezeKept p s (l.foldl f s) :=
  List.foldlRecOn (motive := FreezeKept p s) l f (.refl p s) fun _ hu x hx => hu.trans (hf _ x hx p)

theorem freezeKept_fenceQueues (s : State) (p : Nat) : FreezeKept p s s.fenceQueues := by
  rw [fenceQueues_eq]
  exact freezeKept_foldl (fun u q _ o => (hostOnly_endQueue u q).freezeKept o) p s

/-- What every fence of a freeze leaves. -/
structure Frozen (s s' : State) : Prop where
  canon : s'.Canonical
  rest  : s'.frozen = s.frozen ∧ s'.alertN = s.alertN ∧ s'.aiDue = s.aiDue ∧ s'.cycle = s.cycle
  ai    : ∀ hi lo, s'.fld rRasAi hi lo = s.fld rRasAi hi lo

theorem frozen_fencesHeld (hc : s.Canonical) {l : List Nat} (hl : ∀ p ∈ l, p < 64) : Frozen s (l.foldl State.fenceHeld s) :=
  List.foldlRecOn (motive := Frozen s) l State.fenceHeld ⟨hc, ⟨rfl, rfl, rfl, rfl⟩, fun _ _ => rfl⟩ fun u hu p hp => by
    have h := freezeKept_fenceHeld u (hl p hp)
    exact ⟨h.canon hu.canon, ⟨h.rest.1.trans hu.rest.1, h.rest.2.1.trans hu.rest.2.1, h.rest.2.2.1.trans hu.rest.2.2.1,
      h.rest.2.2.2.trans hu.rest.2.2.2⟩, fun hi lo => (h.ai hu.canon hi lo).trans (hu.ai hi lo)⟩

/-- A frozen device with its cause, every plot of it FENCED. -/
structure FreezeDone (s s' : State) (cause : Nat) : Prop where
  frozen : s'.frozen = true
  alertN : s'.alertN = true
  busy   : s'.fld rRasAi 62 62 = 1
  cause  : s'.fld rRasAi 59 56 = cause
  due    : s'.aiDue = some s'.cycle
  cycle  : s'.cycle = s.cycle
  fenced : ∀ p, p < 64 → s.plotValid p = true → (s.fenceState p = 0 ∨ (s.plot p).fence.isSome = true) → s'.fenceState p = 2

theorem freeze_outcome (hc : s.Canonical) (hf : s.frozen = false) (hd : ¬ (s.aiDue.isSome = true ∨ s.fld rRasAi 63 63 = 1)) {cause : Nat}
    (hcause : cause < 16) : FreezeDone s (s.freeze cause) cause := by
  obtain ⟨h1, h2, h3, h4, h5⟩ := freezeBegun_outcome hc hcause
  obtain ⟨r1, r2, r3, r4⟩ := freezeBegun_rest s cause
  rw [freeze_eq hf hd]
  have hl : ∀ p ∈ (List.range 64).filter (s.freezeBegun cause).plotValid, p < 64 := fun p hp => List.mem_range.1 (List.mem_filter.1 hp).1
  have hk := frozen_fencesHeld h1 hl
  have hs := fun o ho hm => fencesHeld_states _ h1 hl o ho (.inl hm)
  have hq := fun p => freezeKept_fenceQueues (((List.range 64).filter (s.freezeBegun cause).plotValid).foldl State.fenceHeld (s.freezeBegun cause)) p
  generalize hv : ((List.range 64).filter (s.freezeBegun cause).plotValid).foldl State.fenceHeld (s.freezeBegun cause) = v at *
  obtain ⟨k1, k2, k3, k4⟩ := hk.rest
  obtain ⟨j1, j2, j3, j4⟩ := (hq 64).rest
  refine ⟨j1.trans (k1.trans r1), j2.trans (k2.trans r2), ((hq 64).ai hk.canon _ _).trans ((hk.ai _ _).trans h2),
    ((hq 64).ai hk.canon _ _).trans ((hk.ai _ _).trans h3), ?_, j4.trans (k4.trans r4), fun p hp hpv hfp => ?_⟩
  · rw [j3, k3, r3, j4, k4, r4]
  · refine ((hq 64).state hk.canon p hp (by omega)).trans (hs p hp ⟨List.mem_filter.2 ⟨List.mem_range.2 hp, ?_⟩, ?_⟩)
    · unfold State.plotValid at hpv ⊢
      rwa [h4 _ _ _ (by unfold rPlotRect rRasAi; omega)]
    · have hst : (s.freezeBegun cause).fenceState p = s.fenceState p := h4 _ _ _ (by unfold rRasPlot rRasAi; omega)
      rw [State.Fenceable, hst, h5]
      exact hfp.imp_right .inl

theorem freeze_again (hf : s.frozen = true) (hd : s.aiDue.isSome = true ∨ s.fld rRasAi 63 63 = 1) (cause : Nat) :
    s.freeze cause = s.bump rRasAi 55 48 1 := by
  have hl : (s.aiDue.isSome || decide (s.fld rRasAi 63 63 = 1)) = true := by simpa using hd
  rw [State.freeze]
  simp only [hl, if_true]
  exact if_pos hf

theorem exec_fatalError_freeze {c : Nat} (h1 : 1 ≤ c) (h3 : c ≤ 3) (h : c = 3 ∨ 8 ≤ s.stage) : exec (.fatalError c) s = .next (s.freeze c) := by
  refine (when_of ?_).trans (congrArg _ (if_neg ?_))
  · rw [decide_eq_true h1, decide_eq_true h3]
    rfl
  · rw [Bool.and_eq_true, decide_eq_true_eq, decide_eq_true_eq]
    omega

theorem exec_fatalError_halt {c : Nat} (h1 : 1 ≤ c) (h2 : c ≤ 2) (h : s.stage < 8) : exec (.fatalError c) s = .next s.halt := by
  refine (when_of ?_).trans (congrArg _ (if_pos ?_))
  · rw [decide_eq_true h1, decide_eq_true (by omega : c ≤ 3)]
    rfl
  · rw [decide_eq_true h2, decide_eq_true h]
    rfl

theorem exec_watchdogExpiry (hw : s.boot.watchdog = true) (hf : s.frozen = false) :
    exec .watchdogExpiry s = .next ((s.atEdge (s.boot.answered + second)).freeze 4) := when_of (by rw [hw, hf]; rfl)

/-! ### The afterimage (R446, R449) -/

theorem foldl_le_foldl {α : Type} {f g : Nat → α → Nat} (h : ∀ a b x, a ≤ b → f a x ≤ g b x) :
    ∀ (l : List α) {a b : Nat}, a ≤ b → l.foldl f a ≤ l.foldl g b
  | [], _, _, hab => hab
  | x :: l, _, _, hab => foldl_le_foldl h l (h _ _ x hab)

theorem countTiles_le {c d : Site → Bool} (h : ∀ t, c t = true → d t = true) : countTiles c ≤ countTiles d := by
  refine foldl_le_foldl (fun a b y hab => foldl_le_foldl (fun a b x hab => ?_) _ hab) _ (Nat.le_refl _)
  by_cases hcx : c { px := x, py := y } = true
  · rw [if_pos hcx, if_pos (h _ hcx)]
    omega
  · rw [if_neg hcx]
    split <;> omega

theorem sitesRead_le (s : State) : s.sitesRead ≤ allSites := countTiles_le fun t ht => by
  rw [State.siteRead, Bool.and_eq_true, Bool.and_eq_true] at ht
  exact ht.1.1

/-- The afterimage is held. -/
def State.imageHeld (s : State) (cycle : Nat) : State :=
  let t := (s.setFld rRasAi 63 63 1).setFld rRasAi 31 0 (s.snapshot cycle).sites
  { t with ai := some (s.snapshot cycle), aiDue := none }

theorem exec_afterimageSigned {c : Nat} (hd : s.aiDue = some c) (hf : s.frozen = true) : exec .afterimageSigned s = .next (s.imageHeld c) :=
  (whenSome_of hd).trans (when_of hf)

theorem snapshot_sites (s : State) (c : Nat) : (s.snapshot c).sites + (s.snapshot c).lost = allSites := by
  have h := Nat.add_sub_of_le (sitesRead_le s)
  simp only [State.snapshot]
  exact h

theorem imageHeld_eq (s : State) (c : Nat) (x : AiSnap) (hx : s.snapshot c = x) :
    s.imageHeld c = { (s.setFld rRasAi 63 63 1).setFld rRasAi 31 0 x.sites with ai := some x, aiDue := none } := by
  rw [State.imageHeld, hx]

theorem imageHeld_outcome (hc : s.Canonical) (c : Nat) : (s.imageHeld c).fld rRasAi 63 63 = 1 ∧ (s.imageHeld c).ai = some (s.snapshot c) ∧
    (s.imageHeld c).aiDue = none := by
  rw [imageHeld_eq s c _ rfl]
  generalize s.snapshot c = x
  have h1 : (s.setFld rRasAi 63 63 1).fld rRasAi 63 63 = 1 := State.setFld_fld_of_lt hc (by decide) (by decide) (by decide)
  have h2 := State.setFld_fld_field (hc.setFld rRasAi 63 63 1) (a := rRasAi) (hi := 31) (lo := 0) (h' := 63) (l' := 63) x.sites
    (.inr (by decide)) (by decide)
  exact ⟨h2.trans h1, rfl, rfl⟩

end

end Sys2Proof.Machine
end

section
/-!
PROOFS. Power, the boot stages, Topsoil's requests and the TAP (R382, R383, R454 to R460, R476, R498, R514, R515).
-/
namespace Sys2Proof.Machine

section
variable {s : State}

/-! ### Power (R498, R514, R515) -/

theorem exec_powerUp (h : s.supply.aux = false) :
    exec .powerUp s = .next (s.onSupply (fun u => { u with aux := true, vin := 5000 })).deviceReset := when_of (by rw [h]; rfl)

theorem exec_auxStop (h : s.supply.aux = true) : exec .auxStop s =
    .next { (s.onSupply (fun u => { u with aux := false, vin := 4000 })).deviceReset with alertN := true } := when_of h

theorem exec_stewardSupplyLoss (h : s.supply.steward = true) : exec .stewardSupplyLoss s =
    .next { s.onSupply (fun u => { u with steward := false }) with pwrOk := false } := when_of h

/-! ### DEVICE_BOOT (R382, R456, R502) -/

/-- The straps as the registers show them. -/
def strapValue (straps : Dword) : Dword :=
  BitVec.ofNat 64 (Dword.field straps 15 8 * 256 + Dword.field straps 5 4 * 16 + Dword.field straps 2 0)

theorem strapValue_fields (straps : Dword) : Dword.field (strapValue straps) 15 8 = Dword.field straps 15 8 ∧
    Dword.field (strapValue straps) 5 4 = Dword.field straps 5 4 ∧ Dword.field (strapValue straps) 2 0 = Dword.field straps 2 0 := by
  have h1 := Dword.field_lt straps 15 8
  have h2 := Dword.field_lt straps 5 4
  have h3 := Dword.field_lt straps 2 0
  unfold strapValue
  generalize Dword.field straps 15 8 = x at *
  generalize Dword.field straps 5 4 = y at *
  generalize Dword.field straps 2 0 = z at *
  simp only [Dword.field, BitVec.toNat_ofNat, Nat.shiftRight_eq_div_pow]
  omega

/-- The straps are sampled, before the fields. -/
def State.strapped (s : State) (v : Dword) : State :=
  let s := { s with resetN := true, boot := { s.boot with running := true } }
  let s := (s.setReg rStrapVal v).setReg rStrapPins v
  let s := (s.setFld rClkRef 3 1 (Dword.field v 2 0)).setFld rFacetCasc 31 24 (Dword.field v 15 8)
  (s.setFld rSecBoot 1 0 (Dword.field v 5 4)).setFld rSecBoot 3 3 (if Dword.field v 5 4 = 3 then 1 else 0)

/-- Fields that are unpowered. -/
def State.unlit (s : State) (l : List Nat) : State := l.foldl (fun s f => s.setFld (rPwrField f) 27 26 2) s

theorem exec_deviceBoot (hr : s.boot.running = false) (ha : s.supply.aux = true) (hs : s.supply.steward = true) (v : Dword) :
    exec (.deviceBoot v) s = .next ((s.strapped (strapValue v)).unlit otherFields) := when_of (by rw [hr, ha, hs]; rfl)

theorem strapped_outcome (hc : s.Canonical) (v : Dword) : (s.strapped v).Canonical ∧ (s.strapped v).boot.running = true ∧
    (s.strapped v).fld rSecBoot 1 0 = Dword.field v 5 4 ∧ (s.strapped v).fld rFacetCasc 31 24 = Dword.field v 15 8 ∧
    (s.strapped v).fld rClkRef 3 1 = Dword.field v 2 0 ∧ (s.strapped v).fld rSecBoot 3 3 = if Dword.field v 5 4 = 3 then 1 else 0 := by
  have h0 : ({ s with resetN := true, boot := { s.boot with running := true } } : State).Canonical := { hc with }
  have hu : (s.strapped v).boot.running = true := rfl
  unfold State.strapped at hu ⊢
  generalize ({ s with resetN := true, boot := { s.boot with running := true } } : State) = u at *
  have h1 := (h0.setReg rStrapVal v).setReg rStrapPins v
  dsimp only at *
  generalize (u.setReg rStrapVal v).setReg rStrapPins v = w at *
  have h2 := h1.setFld rClkRef 3 1 (Dword.field v 2 0)
  have h3 := h2.setFld rFacetCasc 31 24 (Dword.field v 15 8)
  have h4 := h3.setFld rSecBoot 1 0 (Dword.field v 5 4)
  refine ⟨h4.setFld _ _ _ _, hu, ?_, ?_, ?_, State.setFld_fld_of_lt h4 (by decide) (by decide) (by split <;> decide)⟩
  · exact (State.setFld_fld_field h4 _ (.inl (by decide)) (by decide)).trans
      (State.setFld_fld_of_lt h3 (by decide) (by decide) (Dword.field_lt v 5 4))
  · exact (State.setFld_fld_other (by decide) _ _ _ _ _).trans ((State.setFld_fld_other (by decide) _ _ _ _ _).trans
      (State.setFld_fld_of_lt h2 (by decide) (by decide) (Dword.field_lt v 15 8)))
  · exact (State.setFld_fld_other (by decide) _ _ _ _ _).trans ((State.setFld_fld_other (by decide) _ _ _ _ _).trans
      ((State.setFld_fld_other (by decide) _ _ _ _ _).trans (State.setFld_fld_of_lt h1 (by decide) (by decide) (Dword.field_lt v 2 0))))

theorem otherFields_nodup : otherFields.Nodup := (List.nodup_range.filter _).filter _

theorem otherFields_lt : ∀ f ∈ otherFields, f < 64 := fun _ hf => List.mem_range.1 (List.mem_filter.1 (List.mem_filter.1 hf).1).1

theorem unlit_set (hc : s.Canonical) {l : List Nat} (hl : l.Nodup) : FldsSet rPwrField l 27 26 (fun _ _ => 2) s (s.unlit l) :=
  fldsSet_foldl (fun i j h => by unfold rPwrField at h; omega) (by decide) (by decide) l hl hc

theorem rPwrField_apart (a : Nat) (h : a < rPwrField 0 ∨ rPwrField 64 ≤ a) : ∀ f ∈ otherFields, a ≠ rPwrField f := fun f hf => by
  have := otherFields_lt f hf
  unfold rPwrField at *
  omega

theorem deviceBoot_outcome (hc : s.Canonical) (v : Dword) :
    ((s.strapped (strapValue v)).unlit otherFields).boot.running = true ∧ ((s.strapped (strapValue v)).unlit otherFields).bootMode = Dword.field v 5 4 ∧
      ((s.strapped (strapValue v)).unlit otherFields).myId = Dword.field v 15 8 ∧
      ((s.strapped (strapValue v)).unlit otherFields).fld rClkRef 3 1 = Dword.field v 2 0 ∧
      (((s.strapped (strapValue v)).unlit otherFields).service = true ↔ Dword.field v 5 4 = 3) ∧
      ∀ f ∈ otherFields, ((s.strapped (strapValue v)).unlit otherFields).fieldState f = 2 := by
  obtain ⟨h1, h2, h3, h4, h5, h6⟩ := strapped_outcome hc (strapValue v)
  obtain ⟨f1, f2, f3⟩ := strapValue_fields v
  have hu := unlit_set h1 otherFields_nodup
  generalize (s.strapped (strapValue v)).unlit otherFields = u at *
  have ho : ∀ a hi lo, (a < rPwrField 0 ∨ rPwrField 64 ≤ a) → u.fld a hi lo = (s.strapped (strapValue v)).fld a hi lo :=
    fun a hi lo ha => hu.other a hi lo (.inl (rPwrField_apart a ha))
  refine ⟨by rw [hu.rest]; exact h2, ?_, ?_, ?_, ?_, fun f hf => hu.same f hf⟩
  · exact (ho _ _ _ (by decide)).trans (h3.trans f2)
  · exact (ho _ _ _ (by decide)).trans (h4.trans f1)
  · exact (ho _ _ _ (by decide)).trans (h5.trans f3)
  · rw [State.service, ho _ _ _ (by decide), h6, f2, decide_eq_true_eq]
    split <;> simp [*]

/-! ### The stages (R457 to R460) -/

/-- A stage in progress may complete. -/
abbrev stageRuns (n : Nat) : Prop := n = 0 ∨ (2 ≤ n ∧ n ≤ 6)

theorem bootStage_runs {n : Nat} (hr : s.boot.running = true) (hs : s.supply.steward = true) (h : s.stage = n) (hn : stageRuns n) :
    ¬ (!(s.boot.running && s.supply.steward && (decide (s.stage = 0) || (decide (2 ≤ s.stage) && decide (s.stage ≤ 6))))) = true := by
  rw [hr, hs, h]
  rw [Bool.not_eq_true, Bool.not_eq_false', Bool.true_and, Bool.true_and, Bool.or_eq_true, Bool.and_eq_true]
  simpa only [decide_eq_true_eq] using hn

theorem exec_bootStage_halt {n : Nat} (hr : s.boot.running = true) (hs : s.supply.steward = true) (h : s.stage = n) (hn : stageRuns n)
    {o : BootObs} (ho : o.bedrockOk = false) : exec (.bootStage o) s = .next s.halt :=
  (if_neg (bootStage_runs hr hs h hn)).trans (if_pos (by rw [ho]; rfl))

/-- Boot waits for a reference. -/
def State.refWaits (s : State) : State := { (s.setStage 1).alarm 0x0002 wholeModule (s.reg rClkRef).toNat with alertN := true }

/-- RESET's end, by the reference that is in window. -/
def State.refDone (s : State) : Option Nat → State
  | some n => s.startRef n
  | none => s.refWaits

/-- What a stage's completion leaves. -/
def State.stageDone (s : State) (o : BootObs) : Nat → State
  | 2 => (s.setFld rSecBoot 2 2 (if o.identOk then 0 else 1)).setStage 3
  | 3 => s.bootMap
  | 4 => s.bootTest o
  | 5 => s.bootFields o
  | _ => s.bootImage

theorem exec_bootStage_reset (hr : s.boot.running = true) (hs : s.supply.steward = true) (h : s.stage = 0) {o : BootObs}
    (ho : o.bedrockOk = true) : exec (.bootStage o) s = .next (s.refDone (refFound o.refclkOk o.crystalOk)) := by
  refine (if_neg (bootStage_runs hr hs h (.inl rfl))).trans ((if_neg (by rw [ho]; decide)).trans ?_)
  rw [h]
  generalize refFound o.refclkOk o.crystalOk = r
  cases r
  · exact congrArg Host.Outcome.next (by rw [State.refDone]; rfl)
  · exact congrArg Host.Outcome.next (by rw [State.refDone])

theorem exec_bootStage {n : Nat} (hr : s.boot.running = true) (hs : s.supply.steward = true) (h : s.stage = n) (hn : 2 ≤ n ∧ n ≤ 6)
    {o : BootObs} (ho : o.bedrockOk = true) : exec (.bootStage o) s = .next (s.stageDone o n) := by
  refine (if_neg (bootStage_runs hr hs h (.inr hn))).trans ((if_neg (by rw [ho]; decide)).trans ?_)
  rw [h]
  have hc : n = 2 ∨ n = 3 ∨ n = 4 ∨ n = 5 ∨ n = 6 := by omega
  rcases hc with rfl | rfl | rfl | rfl | rfl <;> rfl

theorem halt_outcome (hc : s.Canonical) : s.halt.stage = 0xF ∧ s.halt.alertN = true :=
  ⟨State.setFld_fld_of_lt (s := s) (a := rSecBoot) hc (by decide) (by decide) (by decide), rfl⟩

theorem setStage_stage (hc : s.Canonical) {n : Nat} (hn : n < 16) : (s.setStage n).stage = n :=
  State.setFld_fld_of_lt hc (by decide) (by decide) hn

/-- The clocks that a reference found sets, before the steward fields' PLLs. -/
def State.refChosen (s : State) (n : Nat) : State :=
  let s := ((s.setGclk n).setFld (rClkMux 0) 7 0 n).setFld rClkRef 6 6 1
  if n = 2 then s.setFld rStrapPins 16 16 1 else s

theorem startRef_eq (s : State) (n : Nat) : s.startRef n =
    State.setStage { stewardFields.foldl (fun s f => s.setFld (rClkField f) 4 3 1) (s.refChosen n) with alertN := false } 2 := rfl

theorem refChosen_outcome (hc : s.Canonical) (n : Nat) : (s.refChosen n).Canonical ∧ (n ≤ 2 → (s.refChosen n).fld rClkRef 5 4 = n) ∧
    (s.refChosen n).fld rClkRef 6 6 = 1 := by
  have h1 := hc.setFld rClkRef 5 4 n
  have h2 := h1.setFld (rClkMuxStat 0) 15 8 n
  have h3 := h2.setFld (rClkMux 0) 7 0 n
  have h4 := h3.setFld rClkRef 6 6 1
  have k1 : n ≤ 2 → (((s.setGclk n).setFld (rClkMux 0) 7 0 n).setFld rClkRef 6 6 1).fld rClkRef 5 4 = n := fun hn =>
    (State.setFld_fld_field h3 _ (.inl (by decide)) (by decide)).trans ((State.setFld_fld_other (by decide) _ _ _ _ _).trans
      ((State.setFld_fld_other (by decide) _ _ _ _ _).trans (State.setFld_fld_of_lt hc (by decide) (by decide) (by omega))))
  have k2 : (((s.setGclk n).setFld (rClkMux 0) 7 0 n).setFld rClkRef 6 6 1).fld rClkRef 6 6 = 1 :=
    State.setFld_fld_of_lt h3 (by decide) (by decide) (by decide)
  unfold State.refChosen
  dsimp only
  split
  · exact ⟨h4.setFld _ _ _ _, fun hn => (State.setFld_fld_other (by decide) _ _ _ _ _).trans (k1 hn),
      (State.setFld_fld_other (by decide) _ _ _ _ _).trans k2⟩
  · exact ⟨h4, k1, k2⟩

theorem startRef_outcome (hc : s.Canonical) (n : Nat) : (s.startRef n).stage = 2 ∧ (n ≤ 2 → (s.startRef n).fld rClkRef 5 4 = n) ∧
    (s.startRef n).fld rClkRef 6 6 = 1 := by
  obtain ⟨h1, h2, h3⟩ := refChosen_outcome hc n
  have hf : FldsSet rClkField stewardFields 4 3 (fun _ _ => 1) (s.refChosen n)
      (stewardFields.foldl (fun s f => s.setFld (rClkField f) 4 3 1) (s.refChosen n)) :=
    fldsSet_foldl (fun i j h => by unfold rClkField at h; omega) (by decide) (by decide) stewardFields (by decide) h1
  rw [startRef_eq]
  generalize stewardFields.foldl (fun s f => s.setFld (rClkField f) 4 3 1) (s.refChosen n) = u at *
  have hu : ({ u with alertN := false } : State).Canonical := { hf.canon with }
  have ho : ∀ hi lo, (State.setStage { u with alertN := false } 2).fld rClkRef hi lo = (s.refChosen n).fld rClkRef hi lo := fun hi lo =>
    (State.setFld_fld_other (a := rSecBoot) (by decide) _ _ _ _ _).trans (hf.other _ _ _ (.inl (by decide)))
  exact ⟨setStage_stage hu (by decide), fun hn => (ho _ _).trans (h2 hn), (ho _ _).trans h3⟩

theorem refWaits_outcome (hc : s.Canonical) : s.refWaits.stage = 1 ∧ s.refWaits.alertN = true :=
  ⟨((told_alarm (s.setStage 1) 0x0002 wholeModule (s.reg rClkRef).toNat).fld (a := rSecBoot) (by decide) 7 4).trans (setStage_stage hc (by decide)), rfl⟩

theorem identShown_outcome (hc : s.Canonical) (b : Bool) :
    ((s.setFld rSecBoot 2 2 (if b then 0 else 1)).setStage 3).stage = 3 ∧
      (((s.setFld rSecBoot 2 2 (if b then 0 else 1)).setStage 3).noIdent = true ↔ b = false) := by
  have h1 := hc.setFld rSecBoot 2 2 (if b then 0 else 1)
  have h2 : ((s.setFld rSecBoot 2 2 (if b then 0 else 1)).setStage 3).fld rSecBoot 2 2 = if b then 0 else 1 :=
    (State.setFld_fld_field h1 _ (.inl (by decide)) (by decide)).trans
      (State.setFld_fld_of_lt hc (by decide) (by decide) (by cases b <;> decide))
  refine ⟨setStage_stage h1 (by decide), ?_⟩
  rw [State.noIdent, h2]
  cases b <;> decide

/-- The blocks of MAP in force and the repair map of flash. -/
def State.blocksShown (s : State) (cfg ros : List Byte) (on : Bool) : State :=
  let s := { s with repair := s.flashRepair, boot := { s.boot with config := cfg, applied := cfg, roster := ros } }
  s.showBlocks.setFld rShadowDev 6 6 (if on then 1 else 0)

theorem blocksShown_outcome (hc : s.Canonical) (cfg ros : List Byte) (on : Bool) :
    (s.blocksShown cfg ros on).Canonical ∧ (s.blocksShown cfg ros on).repair = s.flashRepair := by
  have h : ({ s with repair := s.flashRepair, boot := { s.boot with config := cfg, applied := cfg, roster := ros } } : State).Canonical := { hc with }
  exact ⟨((h.setReg _ _).setReg _ _).setFld _ _ _ _, rfl⟩

theorem bootMap_eq (s : State) : ∃ cfg ros on, s.bootMap = (s.blocksShown cfg ros on).setStage 4 := ⟨_, _, _, rfl⟩

theorem bootMap_outcome (hc : s.Canonical) : s.bootMap.stage = 4 ∧ s.bootMap.repair = s.flashRepair := by
  obtain ⟨cfg, ros, on, h⟩ := bootMap_eq s
  obtain ⟨h1, h2⟩ := blocksShown_outcome hc cfg ros on
  rw [h]
  exact ⟨setStage_stage h1 (by decide), h2⟩

theorem bootTest_passed (hc : s.Canonical) {o : BootObs} (h : o.pathToHost = true) : (s.bootTest o).stage = 5 := by
  have h1 := (State.commitTables_keeps (State.note_keeps (f := fun r => { r with
    deadRouters := o.deadRouters.foldl (fun l t => insertNat l t.key) r.deadRouters
    deadUnits := o.deadUnits.foldl (fun l t => insertNat l t.key) r.deadUnits }) hc.keeps)).canon
  rw [State.bootTest, h]
  simp only [Bool.not_true, Bool.false_eq_true, if_false]
  generalize State.commitTables _ = u at *
  exact setStage_stage (s := { u with tables := _ }) { h1 with } (by decide)

theorem bootTest_unreached {o : BootObs} (h : o.pathToHost = false) : s.bootTest o = s.halt := by
  rw [State.bootTest, h]
  rfl

/-- A field is lit. -/
def State.lit (s : State) (f : Nat) : State := (s.setFld (rPwrField f) 27 26 0).setFld (rClkField f) 4 3 1

theorem lit_fieldState (hc : s.Canonical) {f : Nat} (hf : f < 64) (g : Nat) : (g = f → (s.lit f).fieldState g = 0) ∧
    (g ≠ f → (s.lit f).fieldState g = s.fieldState g) := by
  have h : (s.lit f).fieldState g = (s.setFld (rPwrField f) 27 26 0).fieldState g :=
    State.setFld_fld_other (rPwrField_ne_rClkField hf g) _ _ _ _ _
  refine ⟨fun he => ?_, fun hne => h.trans (State.setFld_fld_other (by unfold rPwrField; omega) _ _ _ _ _)⟩
  subst he
  exact h.trans (State.setFld_fld_of_lt hc (by decide) (by decide) (by decide))

theorem lits_outcome : ∀ (l : List Nat) {s : State}, s.Canonical → (∀ f ∈ l, f < 64) →
    (l.foldl State.lit s).Canonical ∧ ∀ g, (g ∈ l ∨ s.fieldState g = 0) → (l.foldl State.lit s).fieldState g = 0
  | [], _, hc, _ => ⟨hc, fun _ h => h.resolve_left List.not_mem_nil⟩
  | f :: l, s, hc, hl => by
    have hf := hl f List.mem_cons_self
    obtain ⟨h1, h2⟩ := lits_outcome l (s := s.lit f) ((hc.setFld _ _ _ _).setFld _ _ _ _) fun g hg => hl g (List.mem_cons_of_mem _ hg)
    refine ⟨h1, fun g hg => h2 g ?_⟩
    by_cases he : g = f
    · exact .inr ((lit_fieldState hc hf g).1 he)
    · exact hg.imp (fun hm => (List.mem_cons.1 hm).resolve_left he) fun h0 => ((lit_fieldState hc hf g).2 he).trans h0

/-- The fields that FIELDS lights. -/
def State.fieldsToLight (s : State) : List Nat := otherFields.filter (fun f => !s.repair.retiredFields.contains f)

theorem lits_bootMode (s : State) {l : List Nat} (hl : ∀ f ∈ l, f < 64) : (l.foldl State.lit s).bootMode = s.bootMode :=
  List.foldlRecOn (motive := fun u => u.bootMode = s.bootMode) l State.lit rfl fun u hu f hf => by
    have hlt := hl f hf
    have h1 : rSecBoot ≠ rClkField f := by
      unfold rSecBoot rClkField
      omega
    have h2 : rSecBoot ≠ rPwrField f := by
      unfold rSecBoot rPwrField
      omega
    exact (State.setFld_fld_other h1 _ _ _ _ _).trans ((State.setFld_fld_other h2 _ _ _ _ _).trans hu)

theorem State.fieldsToLight_lt (s : State) : ∀ f ∈ s.fieldsToLight, f < 64 := fun f hf => otherFields_lt f (List.mem_filter.1 hf).1

theorem bootFields_recovery (h : s.bootMode = 2) (o : BootObs) : s.bootFields o = s.enterRecovery 1 := if_pos h

theorem bootFields_normal (h : s.bootMode = 0) (o : BootObs) : s.bootFields o =
    State.setStage { s.fieldsToLight.foldl State.lit s with tiles := [], mem := [] } 6 := by
  have h2 : (s.fieldsToLight.foldl State.lit s).bootMode = 0 := (lits_bootMode s s.fieldsToLight_lt).trans h
  have he : s.bootFields o = if s.bootMode = 2 then s.enterRecovery 1 else State.setStage
      (if (s.fieldsToLight.foldl State.lit s).bootMode = 1 then State.bootScan { s.fieldsToLight.foldl State.lit s with tiles := [], mem := [] } o
        else { s.fieldsToLight.foldl State.lit s with tiles := [], mem := [] }) 6 := rfl
  rw [he, if_neg (by rw [h]; decide), if_neg (by rw [h2]; decide)]

theorem bootFields_outcome (hc : s.Canonical) (h : s.bootMode = 0) (o : BootObs) : (s.bootFields o).stage = 6 ∧
    (∀ f ∈ otherFields, f ∉ s.repair.retiredFields → (s.bootFields o).fieldState f = 0) ∧ ∀ a, (s.bootFields o).byte a = 0 := by
  obtain ⟨h1, h2⟩ := lits_outcome s.fieldsToLight hc s.fieldsToLight_lt
  rw [bootFields_normal h o]
  generalize s.fieldsToLight.foldl State.lit s = u at *
  have hu : ({ u with tiles := [], mem := [] } : State).Canonical := { h1 with tiles := mapWf_nil _, mem := mapWf_nil _ }
  refine ⟨setStage_stage hu (by decide), fun f hf hr => ?_, fun _ => rfl⟩
  refine (State.setFld_fld_other (a := rSecBoot) ?_ _ _ _ _ _).trans (h2 f (.inl (List.mem_filter.2 ⟨hf, ?_⟩)))
  · unfold rPwrField rSecBoot
    have := otherFields_lt f hf
    omega
  · simpa using hr

/-- Network recovery's fields are dark. -/
def State.recoveryDark (s : State) : State := (otherFields.filter (fun f => decide (s.fieldState f ≠ 2))).foldl (fun s f => s.fieldDark f) s

theorem recoveryDark_canonical (hc : s.Canonical) : s.recoveryDark.Canonical := foldl_canonical (fun _ f hu => fieldDark_canonical hu f) hc _

/-- Network recovery runs no image, and its reason stands. -/
def State.recoveryRuns (s : State) (r : Nat) : State :=
  State.setStage (((s.onBoot (fun b => { b with image := [], watchdog := false })).setFld rSecBoot 23 16 r).setReg rSecImg 0) 9

theorem enterRecovery_eq (s : State) (r : Nat) : s.enterRecovery r = s.recoveryDark.recoveryRuns r := by
  rw [State.enterRecovery, State.recoveryDark]
  generalize List.foldl _ _ _ = u
  rfl

theorem recoveryRuns_outcome (hc : s.Canonical) {r : Nat} (hr : r < 256) : (s.recoveryRuns r).stage = 9 ∧
    (s.recoveryRuns r).fld rSecBoot 23 16 = r ∧ (s.recoveryRuns r).boot.image = [] := by
  have h0 : (s.onBoot (fun b => { b with image := [], watchdog := false })).Canonical := { hc with }
  have hi : (s.onBoot (fun b => { b with image := [], watchdog := false })).boot.image = [] := rfl
  rw [State.recoveryRuns]
  generalize s.onBoot (fun b => { b with image := [], watchdog := false }) = u at *
  have h1 := (h0.setFld rSecBoot 23 16 r).setReg rSecImg 0
  refine ⟨setStage_stage h1 (by decide), ?_, hi⟩
  exact (State.setFld_fld_field h1 _ (.inr (by decide)) (by decide)).trans ((State.setReg_fld_other (by decide) _ _ _).trans
    (State.setFld_fld_of_lt h0 (by decide) (by decide) hr))

theorem enterRecovery_outcome (hc : s.Canonical) {r : Nat} (hr : r < 256) : (s.enterRecovery r).stage = 9 ∧
    (s.enterRecovery r).fld rSecBoot 23 16 = r ∧ (s.enterRecovery r).boot.image = [] := by
  rw [enterRecovery_eq]
  exact recoveryRuns_outcome (recoveryDark_canonical hc) hr

theorem bootImage_missing (h : leAt (s.slotObject imageSlot 0x3FFE000) 0 4 ≠ 0x4A424F56) : s.bootImage = s.enterRecovery 2 := by
  rw [State.bootImage]
  simp only [ne_eq, h, not_false_eq_true, if_true]

theorem exec_refwaitRetry (hr : s.boot.running = true) (h1 : s.stage = 1) (a b : Bool) :
    (refFound a b = none → exec (.refwaitRetry a b) s = .next s) ∧
      ∀ n, refFound a b = some n → exec (.refwaitRetry a b) s = .next (s.startRef n) := by
  have hg : (s.boot.running && decide (s.stage = 1)) = true := by rw [hr, h1]; rfl
  refine ⟨fun hf => (when_of hg).trans ?_, fun n hf => (when_of hg).trans ?_⟩
  · rw [hf]
  · rw [hf]

/-- The watchdog is armed, and the report for facet link-up is signed. -/
def State.topsoilUp (s : State) : State :=
  let s := s.setStage 8
  { s with boot := { s.boot with watchdog := true, answered := s.cycle, report := s.attestation 0 } }

theorem exec_topsoilReady (hr : s.boot.running = true) (h7 : s.stage = 7) : exec .topsoilReady s = .next s.topsoilUp :=
  when_of (by rw [hr, h7]; rfl)

theorem topsoilUp_outcome (hc : s.Canonical) : s.topsoilUp.stage = 8 ∧ s.topsoilUp.boot.watchdog = true ∧ s.topsoilUp.boot.answered = s.cycle :=
  ⟨setStage_stage (s := s) hc (by decide), rfl, rfl⟩

theorem exec_topsoilStartTimeout (hr : s.boot.running = true) (h7 : s.stage = 7) : exec .topsoilStartTimeout s =
    .next (if s.boot.tries = 0 then { s with boot := { s.boot with tries := 1 } } else s.enterRecovery 4) := when_of (by rw [hr, h7]; rfl)

/-! ### Topsoil (R454, R455) -/

theorem exec_watchdogAnswer (ht : s.topsoilRuns = true) (hw : s.boot.watchdog = true) :
    exec .watchdogAnswer s = .next { s with boot := { s.boot with answered := s.cycle } } := when_of (by rw [ht, hw]; rfl)

theorem refuseTopsoil_outcome (s : State) : SameMemory s s.refuseTopsoil ∧ s.refuseTopsoil.sreg = s.sreg ∧ s.refuseTopsoil.flash = s.flash :=
  ⟨fun _ => rfl, rfl, rfl⟩

theorem exec_topsoilRefused (ht : s.topsoilRuns = true) {r : TopReq}
    (hr : r ∈ [TopReq.secWrite, .flashWrite, .tableWrite, .safetyWrite, .afterimage, .keys]) :
    exec (.topsoilRequest r) s = .next s.refuseTopsoil := by
  refine (when_of ht).trans ?_
  simp only [List.mem_cons, List.not_mem_nil, or_false] at hr
  rcases hr with rfl | rfl | rfl | rfl | rfl | rfl <;> rfl

theorem exec_topsoilFence (ht : s.topsoilRuns = true) {p cause : Nat} (hp : s.plotValid p = true) (h1 : 1 ≤ cause) (h2 : cause ≤ 13) :
    exec (.topsoilRequest (.fence p cause)) s = .next (s.fence p cause 0xFFFF) := by
  refine (when_of ht).trans (congrArg _ (if_pos ?_))
  rw [hp, decide_eq_true h1, decide_eq_true h2]
  rfl

/-! ### The TAP (R456) -/

theorem hostOut_tdo (s : State) (v : Word) : s.hostOut (.tdo v) = { s with out := s.out ++ [.tdo v] } := rfl

theorem exec_tapBypass (h : s.supply.aux = true) : exec (.tapAccess .bypass) s = .next { s with out := s.out ++ [.tdo 0] } := when_of h

theorem exec_tapPrivate (h : s.supply.aux = true) (hs : s.boot.running = false ∨ s.service = false) :
    exec (.tapAccess .priv) s = .next { s with out := s.out ++ [.tdo 0] } := by
  have hb : (s.boot.running && s.service) = false := by rcases hs with hs | hs <;> simp [hs]
  refine (when_of h).trans ?_
  simp only [hb]
  rfl

/-- What a shift register of the TAP holds shifts out. -/
def State.shifted (s : State) : State :=
  let (v, s) := s.takeFree
  s.hostOut (.tdo (v.setWidth 32))

theorem exec_tapShift (h : s.supply.aux = true) {c : TapInstr} (hc : c ∈ [TapInstr.sample, .preload, .extest, .idcode]) :
    exec (.tapAccess c) s = .next s.shifted := by
  refine (when_of h).trans ?_
  simp only [List.mem_cons, List.not_mem_nil, or_false] at hc
  rcases hc with rfl | rfl | rfl | rfl <;> rfl

theorem shifted_outcome (s : State) : s.shifted.sreg = s.sreg ∧ SameMemory s s.shifted ∧ s.shifted.freeCtr = s.freeCtr + 1 :=
  ⟨rfl, fun _ => rfl, rfl⟩

/-! ### The clauses of the obligation -/

theorem boots_follow (hc : s.Canonical) (o : BootObs) (hr : s.boot.running = true) (hs : s.supply.steward = true) :
    ((s.stage = 0 ∨ (2 ≤ s.stage ∧ s.stage ≤ 6)) → o.bedrockOk = false → ∃ s', exec (.bootStage o) s = .next s' ∧ s'.stage = 0xF ∧
      s'.alertN = true) ∧
    (s.stage = 0 → o.bedrockOk = true → ∀ n, refFound o.refclkOk o.crystalOk = some n → exec (.bootStage o) s = .next (s.startRef n) ∧
      (s.startRef n).stage = 2 ∧ (n ≤ 2 → (s.startRef n).fld rClkRef 5 4 = n) ∧ (s.startRef n).fld rClkRef 6 6 = 1) ∧
    (s.stage = 0 → o.bedrockOk = true → refFound o.refclkOk o.crystalOk = none → ∃ s', exec (.bootStage o) s = .next s' ∧
      s'.stage = 1 ∧ s'.alertN = true) ∧
    (s.stage = 2 → o.bedrockOk = true → ∃ s', exec (.bootStage o) s = .next s' ∧ s'.stage = 3 ∧ (s'.noIdent = true ↔ o.identOk = false)) ∧
    (s.stage = 3 → o.bedrockOk = true → ∃ s', exec (.bootStage o) s = .next s' ∧ s'.stage = 4 ∧ s'.repair = s.flashRepair) ∧
    (s.stage = 4 → o.bedrockOk = true → o.pathToHost = false → exec (.bootStage o) s = .next s.halt) ∧
    (s.stage = 4 → o.bedrockOk = true → o.pathToHost = true → ∃ s', exec (.bootStage o) s = .next s' ∧ s'.stage = 5) ∧
    (s.stage = 5 → o.bedrockOk = true → s.bootMode = 2 → exec (.bootStage o) s = .next (s.enterRecovery 1)) ∧
    (s.stage = 5 → o.bedrockOk = true → s.bootMode = 0 → ∃ s', exec (.bootStage o) s = .next s' ∧ s'.stage = 6 ∧
      (∀ f ∈ otherFields, f ∉ s.repair.retiredFields → s'.fieldState f = 0) ∧ ∀ a, s'.byte a = 0) ∧
    (s.stage = 6 → o.bedrockOk = true → exec (.bootStage o) s = .next s.bootImage) := by
  refine ⟨fun h ho => ⟨_, exec_bootStage_halt hr hs rfl h ho, halt_outcome hc⟩,
    fun h ho n hn => ⟨(exec_bootStage_reset hr hs h ho).trans (congrArg (fun r => Host.Outcome.next (s.refDone r)) hn), startRef_outcome hc n⟩,
    fun h ho hn => ⟨s.refWaits, (exec_bootStage_reset hr hs h ho).trans (congrArg (fun r => Host.Outcome.next (s.refDone r)) hn), refWaits_outcome hc⟩,
    fun h ho => ⟨_, exec_bootStage (n := 2) hr hs h (by decide) ho, identShown_outcome hc o.identOk⟩,
    fun h ho => ⟨s.bootMap, exec_bootStage (n := 3) hr hs h (by decide) ho, bootMap_outcome hc⟩,
    fun h ho hp => (exec_bootStage (n := 4) hr hs h (by decide) ho).trans (congrArg _ (bootTest_unreached hp)),
    fun h ho hp => ⟨_, exec_bootStage (n := 4) hr hs h (by decide) ho, bootTest_passed hc hp⟩,
    fun h ho hm => (exec_bootStage (n := 5) hr hs h (by decide) ho).trans (congrArg _ (bootFields_recovery hm o)),
    fun h ho hm => ⟨_, exec_bootStage (n := 5) hr hs h (by decide) ho, bootFields_outcome hc hm o⟩,
    fun h ho => exec_bootStage (n := 6) hr hs h (by decide) ho⟩

/-- The device is frozen by a cause, and every plot of it FENCED. -/
def FrozenBy (s s' : State) (cause : Nat) : Prop :=
  s'.frozen = true ∧ s'.alertN = true ∧ s'.fld rRasAi 62 62 = 1 ∧ s'.fld rRasAi 59 56 = cause ∧ s'.aiDue = some s'.cycle ∧
    ∀ p, p < 64 → s.plotValid p = true → (s.fenceState p = 0 ∨ (s.plot p).fence.isSome = true) → s'.fenceState p = 2

theorem FreezeDone.frozenBy {s' : State} {cause : Nat} (h : FreezeDone s s' cause) : FrozenBy s s' cause :=
  ⟨h.frozen, h.alertN, h.busy, h.cause, h.due, h.fenced⟩

theorem freezes_follow (hc : s.Canonical) (hf : s.frozen = false) (hd : ¬ (s.aiDue.isSome = true ∨ s.fld rRasAi 63 63 = 1)) :
    (∃ s', exec .aiTrigger s = .next s' ∧ FrozenBy s s' 5) ∧
    (∀ c, 1 ≤ c → c ≤ 3 → (c = 3 ∨ 8 ≤ s.stage) → ∃ s', exec (.fatalError c) s = .next s' ∧ FrozenBy s s' c) ∧
    (s.boot.watchdog = true → ∃ s', exec .watchdogExpiry s = .next s' ∧ FrozenBy s s' 4 ∧ s.boot.answered + second ≤ s'.cycle) := by
  refine ⟨⟨_, rfl, (freeze_outcome hc hf hd (by decide)).frozenBy⟩,
    fun c h1 h3 h => ⟨_, exec_fatalError_freeze h1 h3 h, (freeze_outcome hc hf hd (by omega)).frozenBy⟩,
    fun hw => ⟨_, exec_watchdogExpiry hw hf, ?_⟩⟩
  have he : (s.atEdge (s.boot.answered + second)).Canonical := { hc with }
  have h := freeze_outcome (s := s.atEdge (s.boot.answered + second)) he hf hd (cause := 4) (by decide)
  exact ⟨h.frozenBy, Nat.le_trans (Nat.le_max_right s.cycle _) (Nat.le_of_eq h.cycle.symm)⟩

theorem topsoil_follows (ht : s.topsoilRuns = true) :
    (s.boot.watchdog = true → exec .watchdogAnswer s = .next { s with boot := { s.boot with answered := s.cycle } }) ∧
    exec (.topsoilRequest .sign) s = .next s ∧
    (∀ r ∈ [TopReq.secWrite, .flashWrite, .tableWrite, .safetyWrite, .afterimage, .keys],
      exec (.topsoilRequest r) s = .next s.refuseTopsoil ∧ SameMemory s s.refuseTopsoil ∧ s.refuseTopsoil.sreg = s.sreg ∧
        s.refuseTopsoil.flash = s.flash) ∧
    (∀ p cause, s.plotValid p = true → 1 ≤ cause → cause ≤ 13 →
      exec (.topsoilRequest (.fence p cause)) s = .next (s.fence p cause 0xFFFF)) ∧
    ∀ p, exec (.topsoilRequest (.resetPlot p)) s = .next (if s.plotValid p = true then s.askPlot p else s.refuseTopsoil) :=
  ⟨exec_watchdogAnswer ht, when_of ht, fun _ hr => ⟨exec_topsoilRefused ht hr, refuseTopsoil_outcome s⟩,
    fun _ _ hp h1 h2 => exec_topsoilFence ht hp h1 h2, fun _ => when_of ht⟩

theorem releaseAi_outcome (hc : s.Canonical) : s.releaseAi.fld rRasAi 63 63 = 0 ∧ s.releaseAi.ai = none ∧ SameMemory s s.releaseAi :=
  ⟨State.setFld_fld_of_lt (s := s) (a := rRasAi) hc (by decide) (by decide) (by decide), rfl, fun _ => rfl⟩

theorem supplies_follow (s : State) :
    (s.supply.aux = false → ∃ s', exec .powerUp s = .next s' ∧ s'.supply.aux = true ∧ s'.supply.steward = true ∧
      (∀ a, s'.reg a = regReset a) ∧ s'.flash = s.flash) ∧
    (s.supply.aux = true → ∃ s', exec .auxStop s = .next s' ∧ s'.supply.aux = false ∧ s'.pwrOk = false ∧ s'.alertN = true ∧
      s'.flash = s.flash) ∧
    (s.supply.steward = true → ∃ s', exec .stewardSupplyLoss s = .next s' ∧ s'.supply.steward = false ∧ s'.pwrOk = false ∧ SameMemory s s') :=
  ⟨fun h => ⟨_, exec_powerUp h, rfl, rfl, fun _ => rfl, rfl⟩, fun h => ⟨_, exec_auxStop h, rfl, rfl, rfl, rfl⟩,
    fun h => ⟨_, exec_stewardSupplyLoss h, rfl, rfl, fun _ => rfl⟩⟩

theorem topsoil_starts (hc : s.Canonical) (hr : s.boot.running = true) (h7 : s.stage = 7) :
    (∃ s', exec .topsoilReady s = .next s' ∧ s'.stage = 8 ∧ s'.boot.watchdog = true ∧ s'.boot.answered = s.cycle) ∧
    (s.boot.tries = 0 → exec .topsoilStartTimeout s = .next { s with boot := { s.boot with tries := 1 } }) ∧
    (s.boot.tries ≠ 0 → exec .topsoilStartTimeout s = .next (s.enterRecovery 4)) :=
  ⟨⟨_, exec_topsoilReady hr h7, topsoilUp_outcome hc⟩, fun h => (exec_topsoilStartTimeout hr h7).trans (congrArg _ (if_pos h)),
    fun h => (exec_topsoilStartTimeout hr h7).trans (congrArg _ (if_neg h))⟩

end

/-- Settles O59: the supplies, the boot stages and Topsoil each leave what their lemmas say, a fatal error freezes the device by
`freeze_outcome`, and the TAP shifts out what its instruction lets it. -/
theorem bootAndFreeze : Obligations.BootAndFreeze := by
  unfold Obligations.BootAndFreeze
  intro s hc
  obtain ⟨p1, p2, p3⟩ := supplies_follow s
  refine ⟨p1, p2, p3, fun v h1 h2 h3 => ⟨_, exec_deviceBoot h1 h2 h3 v, deviceBoot_outcome hc v⟩,
    fun o hr hs => boots_follow hc o hr hs, bootImage_missing, fun r hr => enterRecovery_outcome hc hr,
    exec_refwaitRetry, topsoil_starts hc, topsoil_follows, ⟨freezes_follow hc, ?_, ?_⟩, ?_, ?_, ?_⟩
  · exact fun c h1 h2 h => exec_fatalError_halt h1 h2 h
  · exact fun hf hd => congrArg _ (freeze_again hf hd 5)
  · intro c hd hf
    obtain ⟨h1, h2, h3⟩ := imageHeld_outcome hc c
    exact ⟨_, _, exec_afterimageSigned hd hf, h1, h2, rfl, rfl, snapshot_sites s c, h3⟩
  · exact ⟨_, rfl, releaseAi_outcome hc⟩
  · exact fun ha => ⟨exec_tapBypass ha, exec_tapPrivate ha, fun c hm => ⟨_, exec_tapShift ha hm, shifted_outcome s⟩⟩

end Sys2Proof.Machine
end

section
/-!
PROOFS. RoCEv2: what the host asks of a plot's store and loam, its SEND, congestion and the queue-pair contexts (R341 to R344, R529, R530).
-/
namespace Sys2Proof.Machine

section
variable {s : State} {e : Ether} {qpn n : Nat} {rkey : Word} {va : Dword} {bs : List Byte} {len : Nat} {t : Site} {o : Nat}

/-! ### A request that a port takes -/

theorem roce_admits (h : s.Admits e qpn n) (name : String) (k : Nat → State) : roce name e qpn s k = .next (k n) := by
  refine (onUnit_of (decide_eq_true h.port)).trans ((when_of h.link).trans ?_)
  simp only [h.qp, h.takes, h.ready, h.stage]
  rfl

/-- A frame that the port or the context does not take. -/
def State.Discards (s : State) (e : Ether) (qpn : Nat) : Prop := s.takes e = false ∨ qpOf qpn = none ∨ s.stage ≠ 8

theorem discards_guard (h : s.Discards e qpn) (hq : qpOf qpn = some n) : (s.takes e && s.qpReady n && decide (s.stage = 8)) = false := by
  rcases h with h | h | h
  · simp [h]
  · rw [hq] at h
    cases h
  · simp [h]

theorem roce_discards (hp : e.port < 2) (hl : s.linkOn e.port = true) (h : s.Discards e qpn) (name : String) (k : Nat → State) :
    roce name e qpn s k = .next (s.dropFrame e.port) := by
  refine (onUnit_of (decide_eq_true hp)).trans ((when_of hl).trans (congrArg _ ?_))
  cases hq : qpOf qpn with
  | none => rfl
  | some n => exact if_neg (by rw [discards_guard h hq]; decide)

theorem exec_roceSend_discards (hp : e.port < 2) (hl : s.linkOn e.port = true) (h : s.Discards e qpn) :
    exec (.roceSend e qpn bs) s = .next (s.dropFrame e.port) := by
  refine (onUnit_of (decide_eq_true hp)).trans ((if_neg (by rw [hl]; decide)).trans ?_)
  cases hq : qpOf qpn with
  | none => rfl
  | some n => exact if_neg (by rw [discards_guard h hq, Bool.false_and]; exact Bool.false_ne_true)

/-- What leaves on a port that does not hold it. -/
theorem hostOut_open {a : Nat} {x : HostOut} (hp : s.outPort x = some a) (hh : s.linkHolds a x = false) :
    s.hostOut x = { s with out := s.out ++ [x] } := by
  simp only [State.hostOut, hp, hh, Bool.false_eq_true, if_false]

/-! ### ROCE_WRITE (R343) -/

theorem exec_roceWrite_nak (h : s.Admits e qpn n) (hw : s.hostWindow n rkey va bs.length = none) :
    exec (.roceWrite e qpn rkey va bs) s = .next (s.hostOut (.nak e.port qpn)) := by
  refine (roce_admits h _ _).trans ?_
  simp only [hw]

theorem exec_roceWrite_store (h : s.Admits e qpn n) (hw : s.hostWindow n rkey va bs.length = some (t, .store o)) :
    exec (.roceWrite e qpn rkey va bs) s = .next (((s.advanceGot n bs.length).writeStore t o bs
      ((s.advanceGot n bs.length).cfld t aNiCfg 47 44)).hostOut (.ack e.port qpn)) := by
  refine (roce_admits h _ _).trans ?_
  simp only [hw]

theorem exec_roceWrite_loam (h : s.Admits e qpn n) (hw : s.hostWindow n rkey va bs.length = some (t, .loam o)) :
    exec (.roceWrite e qpn rkey va bs) s = .next (((s.advanceGot n bs.length).loamPut t o bs).hostOut (.ack e.port qpn)) := by
  refine (roce_admits h _ _).trans ?_
  simp only [hw]

theorem writeStore_sreg (hc : s.Canonical) (t : Site) (off : Nat) (bs : List Byte) (g : Nat) : (s.writeStore t off bs g).sreg = s.sreg := by
  by_cases hb : bs = []
  · subst hb
    rfl
  · obtain ⟨u, hu, he⟩ := State.writeStore_eq hc t off hb g
    rw [he, State.genStamp]
    split
    · show (u.setBytes (storeAddr t off) bs).sreg = s.sreg
      rw [State.setBytes_sreg, hu.rest]
    · rw [State.setBytes_sreg, hu.rest]

theorem writeStore_outcome (hc : s.Canonical) (t : Site) (off : Nat) (bs : List Byte) (g : Nat) :
    SameOutside s (s.writeStore t off bs g) (storeAddr t off) bs.length ∧
      ∀ k, k < bs.length → (s.writeStore t off bs g).byte (storeAddr t off + k) = bs.getD k 0 := by
  by_cases hb : bs = []
  · subst hb
    exact ⟨fun _ _ => rfl, fun k hk => absurd hk (Nat.not_lt_zero k)⟩
  · exact ⟨State.writeStore_sameOutside hc t off hb g, fun k hk => State.writeStore_reads hc t off hb g hk⟩

theorem hostOut_byte (s : State) (x : HostOut) (a : Nat) : (s.hostOut x).byte a = s.byte a := by
  rw [hostOut_rest]
  rfl

theorem hostOut_fld (s : State) (x : HostOut) (a hi lo : Nat) : (s.hostOut x).fld a hi lo = s.fld a hi lo := by
  rw [hostOut_rest]
  rfl

theorem roceWrite_outcome (hc : s.Canonical) (n g : Nat) (t : Site) (o : Nat) (bs : List Byte) (x : HostOut) (s' : State)
    (hs : s' = ((s.advanceGot n bs.length).writeStore t o bs g).hostOut x) :
    SameOutside s s' (storeAddr t o) bs.length ∧ (∀ k, k < bs.length → s'.byte (storeAddr t o + k) = bs.getD k 0) ∧
      s'.fld (rHostQp n 2) 23 0 = (s.fld (rHostQp n 2) 23 0 + s.packets n bs.length) % 2 ^ 24 := by
  subst hs
  have h1 : (s.advanceGot n bs.length).Canonical := hc.count _ _ _ _
  obtain ⟨h2, h3⟩ := writeStore_outcome h1 t o bs g
  refine ⟨fun a ha => (hostOut_byte _ x a).trans (h2 a ha), fun k hk => (hostOut_byte _ x _).trans (h3 k hk), ?_⟩
  have hr := writeStore_sreg h1 t o bs g
  rw [hostOut_fld, State.fld, State.reg, hr]
  exact State.count_fld_same hc (rHostQp n 2) (s.packets n bs.length) (by decide) (by decide)

/-! ### ROCE_READ (R343) -/

theorem exec_roceRead_nak (h : s.Admits e qpn n) (hw : s.hostWindow n rkey va len = none) :
    exec (.roceRead e qpn rkey va len) s = .next (s.hostOut (.nak e.port qpn)) := by
  refine (roce_admits h _ _).trans ?_
  simp only [hw]

theorem exec_roceRead_store (h : s.Admits e qpn n) (hw : s.hostWindow n rkey va len = some (t, .store o)) (hu : s.firstUe t o len = none) :
    exec (.roceRead e qpn rkey va len) s = .next (((s.eccRead t o len).1.advanceGot n len).hostOut
      (.readData e.port qpn (s.bytes (storeAddr t o) len))) := by
  refine (roce_admits h _ _).trans ?_
  simp only [hw, State.readStore_eq, hu, Option.isSome_none, Bool.false_eq_true, if_false]

theorem exec_roceRead_bad (h : s.Admits e qpn n) (hw : s.hostWindow n rkey va len = some (t, .store o)) (hu : (s.firstUe t o len).isSome = true) :
    exec (.roceRead e qpn rkey va len) s = .next ((s.eccRead t o len).1.hostOut (.nak e.port qpn)) := by
  refine (roce_admits h _ _).trans ?_
  simp only [hw, State.readStore_eq, hu, if_true]

theorem exec_roceRead_loam (h : s.Admits e qpn n) (hw : s.hostWindow n rkey va len = some (t, .loam o)) {x : Option (List Byte) × State}
    (hx : s.loamBytes t o len = x) :
    (∀ r, x.1 = some r → exec (.roceRead e qpn rkey va len) s = .next ((x.2.advanceGot n len).hostOut (.readData e.port qpn r))) ∧
      (x.1 = none → exec (.roceRead e qpn rkey va len) s = .next (x.2.hostOut (.nak e.port qpn))) := by
  obtain ⟨r, u⟩ := x
  refine ⟨fun r' hr => (roce_admits h _ _).trans ?_, fun hr => (roce_admits h _ _).trans ?_⟩
  all_goals
    dsimp only at hr
    subst hr
    simp only [hw, hx]

theorem roceRead_outcome (hc : s.Canonical) (hl : s.linkOn e.port = true) (hp : (s.hostPort e.port).paused = false) (s' : State)
    (hs : s' = ((s.eccRead t o len).1.advanceGot n len).hostOut (.readData e.port qpn bs)) :
    SameMemory s s' ∧ s'.out = s.out ++ [.readData e.port qpn bs] := by
  have hr := (meets_eccRead s t o len).rest hc
  have hlink : ((s.eccRead t o len).1.advanceGot n len).linkOn e.port = true := by
    rw [State.linkOn, State.advanceGot, State.count_fld_other (by unfold rHostPortStat rHostQp; omega), hr]
    exact hl
  have hport : (((s.eccRead t o len).1.advanceGot n len).hostPort e.port).paused = false := by
    rw [hr]
    exact hp
  rw [hs, hostOut_open (a := e.port) rfl (linkHolds_open hlink hport _)]
  refine ⟨SameMemory.of_mem ?_, ?_⟩
  · exact State.eccRead_mem s t o len
  · rw [hr]
    rfl

/-! ### ROCE_SEND (R344) -/

/-- The tile that a context's SEND goes to. -/
def State.sendTarget (s : State) (n : Nat) : Option Site := s.phys (s.qpPlot n) (s.fld (rHostQp n 2) 48 40) (s.fld (rHostQp n 2) 57 49)

section
variable (h : s.Admits e qpn n) (hb : bs.length ≤ 4096)
include h hb

theorem exec_roceSend_nak (hf : s.fenceState (s.qpPlot n) ≠ 0 ∨ s.sendTarget n = none) :
    exec (.roceSend e qpn bs) s = .next (s.hostOut (.nak e.port qpn)) := by
  have hg : (decide (s.fenceState (s.qpPlot n) ≠ 0) || (s.sendTarget n).isNone) = true := by
    rcases hf with hf | hf <;> simp [hf]
  unfold State.sendTarget at hg
  refine (onUnit_of (decide_eq_true h.port)).trans ((if_neg (by rw [h.link]; decide)).trans ?_)
  simp only [h.qp, h.takes, h.ready, h.stage, hb, decide_true, Bool.and_true, if_true, hg]

/-- A SEND whose plot stands goes to the ring of its tile. -/
theorem exec_roceSend_served (hf : s.fenceState (s.qpPlot n) = 0) (ht : s.sendTarget n = some t) : exec (.roceSend e qpn bs) s =
    match s.hostRing t with
    | some p => whenSome "ROCE_SEND" (s.hostMessage t p (s.fld (rHostQp n 2) 63 58) bs) (fun s =>
        .next ((s.advanceGot n bs.length).hostOut (.ack e.port qpn)))
    | none => .next s := by
  unfold State.sendTarget at ht
  refine (onUnit_of (decide_eq_true h.port)).trans ((if_neg (by rw [h.link]; decide)).trans ?_)
  simp only [h.qp, h.takes, h.ready, h.stage, hb, decide_true, Bool.and_true, if_true, hf, ht, ne_eq, not_true_eq_false, decide_false,
    Option.isNone_some, Bool.or_false, Bool.false_eq_true, if_false, Option.bind_some]
  cases s.hostRing t <;> rfl

theorem exec_roceSend_message {p : Nat} {s1 : State} (hf : s.fenceState (s.qpPlot n) = 0) (ht : s.sendTarget n = some t)
    (hr : s.hostRing t = some p) (hm : s.hostMessage t p (s.fld (rHostQp n 2) 63 58) bs = some s1) :
    exec (.roceSend e qpn bs) s = .next ((s1.advanceGot n bs.length).hostOut (.ack e.port qpn)) := by
  rw [exec_roceSend_served h hb hf ht, hr]
  exact whenSome_of hm

theorem exec_roceSend_waits (hf : s.fenceState (s.qpPlot n) = 0) (ht : s.sendTarget n = some t) (hr : s.hostRing t = none) :
    exec (.roceSend e qpn bs) s = .next s := by
  rw [exec_roceSend_served h hb hf ht, hr]

end

/-! ### Queue-pair contexts (R529, R530) -/

/-- A context's word as a write leaves it. -/
def State.qpStored (s : State) (a : Nat) (v : Dword) : State := match regRow a with
  | some r => s.setReg a (regStore r (s.reg a) v)
  | none => s

theorem qpStored_canonical (hc : s.Canonical) (a : Nat) (v : Dword) : (s.qpStored a v).Canonical := by
  unfold State.qpStored
  split
  · exact hc.setReg _ _
  · exact hc

theorem writeQp_eq (s : State) (n : Nat) (v : Dword) : s.writeQp n 0 v =
    if s.fld (rHostQp n 0) 63 63 = 1 then
      (if Dword.field v 63 63 = 0 then ((s.setFld (rHostQp n 0) 63 63 0).setFld (rHostQp n 0) 62 60 0).failContext n else s)
    else if Dword.field v 63 63 = 1 then
      (s.qpStored (rHostQp n 0) v).setFld (rHostQp n 0) 62 60
        (if s.plotValid (Dword.field v 59 54) && decide (Dword.field v 53 52 ≠ 3) then 1 else 2)
    else s.qpStored (rHostQp n 0) v := by
  have h : s.writeQp n 0 v =
      if s.fld (rHostQp n 0) 63 63 = 1 then
        (if decide (0 = 0) && decide (Dword.field v 63 63 = 0) then
          ((s.setFld (rHostQp n 0) 63 63 0).setFld (rHostQp n 0) 62 60 0).failContext n else s)
      else if decide (0 = 0) && decide (Dword.field v 63 63 = 1) then
        (s.qpStored (rHostQp n 0) v).setFld (rHostQp n 0) 62 60
          (if s.plotValid (Dword.field v 59 54) && decide (Dword.field v 53 52 ≠ 3) then 1 else 2)
      else s.qpStored (rHostQp n 0) v := rfl
  rw [h]
  simp only [decide_true, Bool.true_and, decide_eq_true_eq]

section
variable (hn : n < Config.qps) (v : Dword)
include hn

theorem exec_hostQpW0Write : exec (.hostQpW0Write n v) s = .next (s.writeQp n 0 v) := onUnit_of (decide_eq_true hn)

theorem exec_hostQpW0Write_kept (h : s.fld (rHostQp n 0) 63 63 = 1) (hv : v.getLsbD 63 = true) : exec (.hostQpW0Write n v) s = .next s := by
  rw [exec_hostQpW0Write hn, writeQp_eq, if_pos h, Dword.field_bit, hv]
  rfl

theorem exec_hostQpW0Write_off (h : s.fld (rHostQp n 0) 63 63 = 1) (hv : v.getLsbD 63 = false) : exec (.hostQpW0Write n v) s =
    .next (((s.setFld (rHostQp n 0) 63 63 0).setFld (rHostQp n 0) 62 60 0).failContext n) := by
  rw [exec_hostQpW0Write hn, writeQp_eq, if_pos h, Dword.field_bit, hv]
  rfl

theorem exec_hostQpW0Write_on (hc : s.Canonical) (h : s.fld (rHostQp n 0) 63 63 = 0) (hv : v.getLsbD 63 = true) :
    ∃ s', exec (.hostQpW0Write n v) s = .next s' ∧
      s'.qpState n = if s.plotValid (Dword.field v 59 54) = true ∧ Dword.field v 53 52 ≠ 3 then 1 else 2 := by
  have hv1 : Dword.field v 63 63 = 1 := by rw [Dword.field_bit, hv]; rfl
  refine ⟨_, (exec_hostQpW0Write hn v).trans (congrArg _ ((writeQp_eq s n v).trans ((if_neg (by rw [h]; decide)).trans (if_pos hv1)))), ?_⟩
  refine (State.setFld_fld_of_lt (qpStored_canonical hc _ v) (by decide) (by decide) (by split <;> decide)).trans ?_
  simp only [Bool.and_eq_true, decide_eq_true_eq]

end

section
variable {r : Rdma} (hn : n < Config.qps) (hr : s.rdma.find? (fun r => decide (r.qp = n)) = some r)
include hn hr

theorem exec_qpRetryTimeout_again (h : s.qpReady n = true) (ht : r.tries < 7) : exec (.qpRetryTimeout n) s = .next
    (State.hostOut { s with rdma := s.rdma.map (fun x => if x = r then { x with tries := x.tries + 1 } else x) } r.msg) :=
  (onUnit_of (decide_eq_true hn)).trans ((whenSome_of hr).trans (if_pos (by rw [h, decide_eq_true ht]; rfl)))

theorem exec_qpRetryTimeout_spent (h : s.qpReady n = true) (ht : 7 ≤ r.tries) : exec (.qpRetryTimeout n) s =
    .next ((s.setFld (rHostQp n 0) 62 60 2).failContext n) := by
  refine (onUnit_of (decide_eq_true hn)).trans ((whenSome_of hr).trans ((if_neg ?_).trans ?_))
  · rw [h, decide_eq_false (by omega)]
    decide
  · rw [if_pos h]

theorem exec_qpRetryTimeout_lost (h : s.qpReady n = false) : exec (.qpRetryTimeout n) s = .next (s.failContext n) := by
  refine (onUnit_of (decide_eq_true hn)).trans ((whenSome_of hr).trans ((if_neg ?_).trans ?_))
  · rw [h, Bool.false_and]
    exact Bool.false_ne_true
  · rw [h]
    rfl

end

/-! ### The device's own transfers (R351, R352) -/

/-- The state once a request has ended. -/
def State.withoutRdma (s : State) (r : Rdma) : State := { s with rdma := s.rdma.filter (fun x => decide (x ≠ r)) }

section
variable {q : Nat} {c : HostCmd} {r : Rdma} (hq : q < Config.hostQueues) (hf : (s.hostq q).front = some c) (hr : s.qpReady r.qp = true)
include hq hf hr

theorem exec_rdmaReadResponse_whole (h : s.rdma.find? (fun r => decide (r.queue = q) && !r.write) = some r) (hl : bs.length = r.len) :
    exec (.rdmaReadResponse q bs) s = .next ((s.withoutRdma r).takePart q c r.off bs) := by
  refine (onUnit_of (decide_eq_true hq)).trans ?_
  simp only [h, hf, hr, hl, if_true]
  rfl

theorem exec_rdmaReadResponse_short (h : s.rdma.find? (fun r => decide (r.queue = q) && !r.write) = some r) (hl : bs.length ≠ r.len) :
    exec (.rdmaReadResponse q bs) s = .next ((s.withoutRdma r).endPart q c stRdma []) := by
  have hm := List.find?_some h
  have hqr : r.queue = q := of_decide_eq_true (Bool.and_eq_true_iff.1 hm).1
  have hf' : ((s.withoutRdma r).hostq r.queue).front = some c := by rw [hqr]; exact hf
  have hfail : s.failRdma r = (s.withoutRdma r).endPart q c stRdma [] := by
    unfold State.failRdma
    dsimp only
    split
    · next c' hc' =>
      rw [hqr, Option.some.inj (hf'.symm.trans hc')]
      rfl
    · next hn => exact absurd (hf'.symm.trans hn) nofun
  refine (onUnit_of (decide_eq_true hq)).trans ?_
  simp only [h, hf, hr, hl, if_true, if_false]
  rw [hfail]

theorem exec_rdmaWriteAck (h : s.rdma.find? (fun r => decide (r.queue = q) && r.write) = some r) :
    exec (.rdmaWriteAck q) s = .next ((s.withoutRdma r).endPart q c stOk []) := by
  refine (onUnit_of (decide_eq_true hq)).trans ?_
  simp only [h, hf]
  exact when_of hr

end

end

end Sys2Proof.Machine
end

section
/-!
PROOFS. LOAD_PACKAGE: which part it reads and how it ends (R351).
-/
namespace Sys2Proof.Machine

section
variable {s : State} {q : Nat} {c : HostCmd}

/-- What LOAD_PACKAGE does with its command. -/
def State.loads (s : State) (q : Nat) (c : HostCmd) : Out :=
  if s.inFlight q then .refused (.notEnabled "LOAD_PACKAGE")
  else if 0 < c.part then .next (s.loadPart q c c.part)
  else if c.num 8 1 = 0 then
    if 1 < s.placeState q then .next (s.finish q c stState (s.placeState q) [])
    else if !c.started && (s.plot q).pkg.isSome then
      .next (((s.freeStaging q).emptyPlot q).onCommand q c.seq (fun c => { c with started := true }))
    else when_ "LOAD_PACKAGE" s.zeroing.isEmpty (s.loadStart q c)
  else if decide (s.placeState q = 5) || (decide (s.placeState q ≤ 1) && (s.plot q).pkg.isSome) then .next (s.loadPart q c 0)
  else .next (s.finish q c stState (s.placeState q) [])

theorem exec_loadPackage (h : s.Serves q opLoad c) : exec (.loadPackage q) s = s.loads q c := hostRow_serves h _ _

section
variable (h : s.Serves q opLoad c) (hi : s.inFlight q = false)
include h hi

theorem exec_loadPackage_later (hp : 0 < c.part) : exec (.loadPackage q) s = .next (s.loadPart q c c.part) := by
  rw [exec_loadPackage h, State.loads, if_neg (by rw [hi]; exact Bool.false_ne_true), if_pos hp]

section
variable (hp : c.part = 0) (hm : c.num 8 1 = 0)
include hp hm

/-- A first part in MODE 0. -/
theorem exec_loadPackage_fresh : exec (.loadPackage q) s =
    if 1 < s.placeState q then .next (s.finish q c stState (s.placeState q) [])
    else if !c.started && (s.plot q).pkg.isSome then
      .next (((s.freeStaging q).emptyPlot q).onCommand q c.seq (fun c => { c with started := true }))
    else when_ "LOAD_PACKAGE" s.zeroing.isEmpty (s.loadStart q c) := by
  rw [exec_loadPackage h, State.loads, if_neg (by rw [hi]; exact Bool.false_ne_true), if_neg (by omega), if_pos hm]

theorem exec_loadPackage_state (hs : 1 < s.placeState q) : exec (.loadPackage q) s = .next (s.finish q c stState (s.placeState q) []) := by
  rw [exec_loadPackage_fresh h hi hp hm, if_pos hs]

theorem exec_loadPackage_frees (hs : s.placeState q ≤ 1) (hc : c.started = false) (hk : (s.plot q).pkg.isSome = true) :
    exec (.loadPackage q) s = .next (((s.freeStaging q).emptyPlot q).onCommand q c.seq (fun c => { c with started := true })) := by
  rw [exec_loadPackage_fresh h hi hp hm, if_neg (by omega), if_pos (by rw [hc, hk]; rfl)]

theorem exec_loadPackage_starts (hs : s.placeState q ≤ 1) (hc : c.started = true ∨ (s.plot q).pkg = none) (hz : s.zeroing = []) :
    exec (.loadPackage q) s = .next (s.loadStart q c) := by
  rw [exec_loadPackage_fresh h hi hp hm, if_neg (by omega), if_neg (by rcases hc with hc | hc <;> simp [hc])]
  exact when_of (by rw [hz]; rfl)

end

section
variable (hp : c.part = 0) (hm : c.num 8 1 ≠ 0)
include hp hm

/-- A first part in MODE 1. -/
theorem exec_loadPackage_more : exec (.loadPackage q) s =
    if decide (s.placeState q = 5) || (decide (s.placeState q ≤ 1) && (s.plot q).pkg.isSome) then .next (s.loadPart q c 0)
    else .next (s.finish q c stState (s.placeState q) []) := by
  rw [exec_loadPackage h, State.loads, if_neg (by rw [hi]; exact Bool.false_ne_true), if_neg (by omega), if_neg hm]

theorem exec_loadPackage_first (hs : s.placeState q = 5 ∨ (s.placeState q ≤ 1 ∧ (s.plot q).pkg.isSome = true)) :
    exec (.loadPackage q) s = .next (s.loadPart q c 0) := by
  rw [exec_loadPackage_more h hi hp hm, if_pos (by simpa only [Bool.or_eq_true, Bool.and_eq_true, decide_eq_true_eq] using hs)]

theorem exec_loadPackage_none (h5 : s.placeState q ≠ 5) (hs : 1 < s.placeState q ∨ (s.plot q).pkg = none) :
    exec (.loadPackage q) s = .next (s.finish q c stState (s.placeState q) []) := by
  rw [exec_loadPackage_more h hi hp hm, if_neg]
  simp only [Bool.or_eq_true, Bool.and_eq_true, decide_eq_true_eq, not_or, not_and]
  refine ⟨h5, fun h1 hk => ?_⟩
  rcases hs with hs | hs
  · omega
  · rw [hs] at hk
    exact Bool.false_ne_true hk

end

end

/-- The staging area is freed, and the plot EMPTY. -/
theorem loadFreed_outcome (hc : s.Canonical) (q seq : Nat) (f : HostCmd → HostCmd) :
    ((((s.freeStaging q).emptyPlot q).onCommand q seq f).plot q).pkg = none ∧
      (((s.freeStaging q).emptyPlot q).onCommand q seq f).placeState q = 0 := by
  have h1 : (s.freeStaging q).Canonical := (State.freeStaging_keeps hc.keeps).canon
  have h2 : ((s.freeStaging q).plot q).pkg = none := by
    unfold State.freeStaging
    split
    · assumption
    · exact congrArg PlotSt.pkg (State.onPlot_plot_same hc q (fun x => { x with pkg := none }))
  refine ⟨(congrArg PlotSt.pkg (State.onPlot_plot_same (h1.setFld (rPlotPlace q) 63 60 0) q (fun x => { x with phase := none, phases := [] }))).trans h2, ?_⟩
  exact State.setFld_fld_of_lt h1 (by decide) (by decide) (by decide)

/-- The request of a part. -/
def HostCmd.partRead (c : HostCmd) (q i : Nat) : Rdma :=
  let b := 16 + 32 * i
  { queue := q, write := false, off := c.num b 8, len := c.num (b + 8) 8, qp := (qpOf (c.num (b + 28) 4)).getD 0, tries := 0
    msg := .rdmaRead (c.num (b + 28) 4) (BitVec.ofNat 64 (c.num (b + 16) 8)) (BitVec.ofNat 32 (c.num (b + 24) 4)) (c.num (b + 8) 8) }

/-- Why part i is not read, or 0. -/
def State.partBad (s : State) (q : Nat) (c : HostCmd) (i : Nat) : Nat :=
  s.loadBad q (c.num (16 + 32 * i) 8) (c.num (16 + 32 * i + 8) 8) (c.num (16 + 32 * i + 28) 4)

theorem loadPart_fails {i : Nat} (hb : s.partBad q c i ≠ 0) : s.loadPart q c i = s.endPart q c (s.partBad q c i) [] := if_pos hb

theorem loadPart_reads {i : Nat} (hb : s.partBad q c i = 0) : (s.loadPart q c i).rdma = s.rdma ++ [c.partRead q i] := by
  have h : s.loadPart q c i = (State.onCommand { s.advanceSent (c.partRead q i).qp (c.partRead q i).len with
      rdma := (s.advanceSent (c.partRead q i).qp (c.partRead q i).len).rdma ++ [c.partRead q i] } q c.seq
        (fun c => { c with started := true })).hostOut (c.partRead q i).msg := if_neg (Classical.not_not.2 hb)
  rw [h, hostOut_rest]
  rfl

end

section
variable {s : State}

/-! ### The clauses of the obligation -/

theorem sends_follow {e : Ether} {qpn n : Nat} {bs : List Byte} (h : s.Admits e qpn n) (hb : bs.length ≤ 4096) :
    (s.fenceState (s.qpPlot n) ≠ 0 ∨ s.sendTarget n = none → exec (.roceSend e qpn bs) s = .next (s.hostOut (.nak e.port qpn))) ∧
    (∀ t p s1, s.fenceState (s.qpPlot n) = 0 → s.sendTarget n = some t → s.hostRing t = some p →
      s.hostMessage t p (s.fld (rHostQp n 2) 63 58) bs = some s1 →
      exec (.roceSend e qpn bs) s = .next ((s1.advanceGot n bs.length).hostOut (.ack e.port qpn))) ∧
    ∀ t, s.fenceState (s.qpPlot n) = 0 → s.sendTarget n = some t → s.hostRing t = none → exec (.roceSend e qpn bs) s = .next s :=
  ⟨exec_roceSend_nak h hb, fun _ _ _ hf ht hr hm => exec_roceSend_message h hb hf ht hr hm, fun _ hf ht hr => exec_roceSend_waits h hb hf ht hr⟩

theorem loads_follow (hc : s.Canonical) {q : Nat} {c : HostCmd} (h : s.Serves q opLoad c) (hi : s.inFlight q = false) :
    let st := s.placeState q
    (0 < c.part → exec (.loadPackage q) s = .next (s.loadPart q c c.part)) ∧
    (c.part = 0 → c.num 8 1 = 0 → 1 < st → exec (.loadPackage q) s = .next (s.finish q c stState st [])) ∧
    (c.part = 0 → c.num 8 1 = 0 → st ≤ 1 → c.started = false → (s.plot q).pkg.isSome = true → ∃ s',
      exec (.loadPackage q) s = .next s' ∧ (s'.plot q).pkg = none ∧ s'.placeState q = 0) ∧
    (c.part = 0 → c.num 8 1 = 0 → st ≤ 1 → (c.started = true ∨ (s.plot q).pkg = none) → s.zeroing = [] →
      exec (.loadPackage q) s = .next (s.loadStart q c)) ∧
    (c.part = 0 → c.num 8 1 ≠ 0 → (st = 5 ∨ (st ≤ 1 ∧ (s.plot q).pkg.isSome = true)) →
      exec (.loadPackage q) s = .next (s.loadPart q c 0)) ∧
    (c.part = 0 → c.num 8 1 ≠ 0 → st ≠ 5 → (1 < st ∨ (s.plot q).pkg = none) →
      exec (.loadPackage q) s = .next (s.finish q c stState st [])) ∧
    (∀ i,
      let b := 16 + 32 * i
      let bad := s.loadBad q (c.num b 8) (c.num (b + 8) 8) (c.num (b + 28) 4)
      (bad ≠ 0 → s.loadPart q c i = s.endPart q c bad []) ∧
      (bad = 0 → ∃ r, (s.loadPart q c i).rdma = s.rdma ++ [r] ∧ r.queue = q ∧ r.write = false ∧ r.off = c.num b 8 ∧
        r.len = c.num (b + 8) 8 ∧ r.tries = 0)) :=
  ⟨exec_loadPackage_later h hi, fun hp hm => exec_loadPackage_state h hi hp hm,
    fun hp hm hs hst hk => ⟨_, exec_loadPackage_frees h hi hp hm hs hst hk, loadFreed_outcome hc q _ _⟩,
    fun hp hm => exec_loadPackage_starts h hi hp hm, fun hp hm => exec_loadPackage_first h hi hp hm,
    fun hp hm => exec_loadPackage_none h hi hp hm,
    fun i => ⟨loadPart_fails, fun hb => ⟨c.partRead q i, loadPart_reads hb, rfl, rfl, rfl, rfl, rfl⟩⟩⟩

theorem requests_follow (hc : s.Canonical) {e : Ether} {qpn n : Nat} {rkey : Word} {va : Dword} {bs : List Byte} {len : Nat}
    (h : s.Admits e qpn n) :
    (s.hostWindow n rkey va bs.length = none → exec (.roceWrite e qpn rkey va bs) s = .next (s.hostOut (.nak e.port qpn))) ∧
    (∀ t o, s.hostWindow n rkey va bs.length = some (t, .store o) → ∃ s', exec (.roceWrite e qpn rkey va bs) s = .next s' ∧
      SameOutside s s' (storeAddr t o) bs.length ∧ (∀ k, k < bs.length → s'.byte (storeAddr t o + k) = bs.getD k 0) ∧
      s'.fld (rHostQp n 2) 23 0 = (s.fld (rHostQp n 2) 23 0 + s.packets n bs.length) % 2 ^ 24) ∧
    (∀ t o, s.hostWindow n rkey va bs.length = some (t, .loam o) → exec (.roceWrite e qpn rkey va bs) s =
      .next (((s.advanceGot n bs.length).loamPut t o bs).hostOut (.ack e.port qpn))) ∧
    (s.hostWindow n rkey va len = none → exec (.roceRead e qpn rkey va len) s = .next (s.hostOut (.nak e.port qpn))) ∧
    (∀ t o, s.hostWindow n rkey va len = some (t, .store o) → s.firstUe t o len = none → (s.hostPort e.port).paused = false →
      ∃ s', exec (.roceRead e qpn rkey va len) s = .next s' ∧ SameMemory s s' ∧
        s'.out = s.out ++ [.readData e.port qpn (s.bytes (storeAddr t o) len)]) ∧
    (∀ t o, s.hostWindow n rkey va len = some (t, .store o) → (s.firstUe t o len).isSome = true →
      exec (.roceRead e qpn rkey va len) s = .next ((s.eccRead t o len).1.hostOut (.nak e.port qpn))) ∧
    ∀ t o x, s.hostWindow n rkey va len = some (t, .loam o) → s.loamBytes t o len = x →
      (∀ r, x.1 = some r → exec (.roceRead e qpn rkey va len) s = .next ((x.2.advanceGot n len).hostOut (.readData e.port qpn r))) ∧
      (x.1 = none → exec (.roceRead e qpn rkey va len) s = .next (x.2.hostOut (.nak e.port qpn))) :=
  ⟨exec_roceWrite_nak h, fun t o hw => ⟨_, exec_roceWrite_store h hw, roceWrite_outcome hc n _ t o bs _ _ rfl⟩,
    fun _ _ hw => exec_roceWrite_loam h hw, exec_roceRead_nak h,
    fun t o hw hu hp => ⟨_, exec_roceRead_store h hw hu, roceRead_outcome (t := t) (o := o) (n := n) (len := len) hc h.link hp _ rfl⟩,
    fun _ _ hw hu => exec_roceRead_bad h hw hu, fun _ _ _ hw hx => exec_roceRead_loam h hw hx⟩

end

/-- Settles O54: each request of the host, each of the device's own transfers and each case of LOAD_PACKAGE has its equation, and the
writes and reads of the store their outcome. -/
theorem hostTransfersAndLoads : Obligations.HostTransfersAndLoads := by
  unfold Obligations.HostTransfersAndLoads
  intro s hc
  refine ⟨fun e qpn n rkey va bs len h => ?_, fun e qpn rkey va bs len hp hl hd => ?_, rfl, rfl, fun n v hn => ?_, fun n r hn hr => ?_,
    fun q c r bs hq hf hr => ?_, fun q c h hi => loads_follow hc h hi⟩
  · obtain ⟨h1, h2, h3, h4, h5, h6, h7⟩ := requests_follow hc (rkey := rkey) (va := va) (bs := bs) (len := len) h
    exact ⟨h1, h2, h3, h4, h5, h6, h7, fun hb => sends_follow h hb⟩
  · exact ⟨roce_discards hp hl hd _ _, roce_discards hp hl hd _ _, exec_roceSend_discards hp hl hd⟩
  · exact ⟨exec_hostQpW0Write_kept hn v, exec_hostQpW0Write_off hn v, exec_hostQpW0Write_on hn v hc⟩
  · exact ⟨exec_qpRetryTimeout_again hn hr, exec_qpRetryTimeout_spent hn hr, exec_qpRetryTimeout_lost hn hr⟩
  · exact ⟨exec_rdmaReadResponse_whole hq hf hr, exec_rdmaReadResponse_short hq hf hr, exec_rdmaWriteAck hq hf hr⟩

end Sys2Proof.Machine
end

section
/-!
PROOFS. The ring: forming, its roster and its failures, and each control grain as its direction delivers it (R319, R320, R324, R333 to
R335, R337).
-/
namespace Sys2Proof.Machine

section
variable {s s0 : State} {g : CtrlGrain} {d : Bool}

/-! ### A grain that is taken -/

/-- The state once the inbox holds the rest. -/
def State.withRing (s : State) (rest : List (Bool × CtrlGrain)) : State := s.onCasc (fun c => { c with inbox := rest })

theorem takeRing_rest (h : s.takeRing g = some (d, s0)) : ∃ rest, s0 = s.withRing rest := by
  obtain ⟨b, -, hb⟩ := List.exists_of_findSome?_eq_some h
  split at hb
  · next e rest _ =>
    split at hb
    · obtain ⟨-, rfl⟩ := Prod.mk.inj (Option.some.inj hb)
      exact ⟨rest, rfl⟩
    · cases hb
  · cases hb

theorem onRing_of (hf : s.frozen = false) (h : s.takeRing g = some (d, s0)) (name : String) (k : Bool → State → State) :
    onRing name g s k = .next (k d s0) := by
  unfold onRing
  rw [hf]
  exact whenSome_of h

/-- A member of a ring that is up. -/
def State.inRing (s : State) : Bool := s.isMember && s.cascUp

/-- What FORM does at a module. -/
def State.formTaken (s : State) (g : CtrlGrain) (count fail : Nat) (map : BitVec 256) : State :=
  if !s.isMember then s
  else if fail ≠ 0 then
    (if s.cascState = 4 then s
    else (((s.setFld rFacetCasc 63 60 4).setFld rFacetCasc 59 56 fail).ringAlarm).sendDown g)
  else if s.isLead then s.formAtLead count map
  else s.formAtFollower g count map

/-- What ROSTER does at a module. -/
def State.rosterTaken (s : State) (g : CtrlGrain) (c lead rrt : Nat) : State :=
  if decide (s.cascState ≠ 1) || !s.isMember then s
  else if s.isLead then
    (if s.casc.rosterSent && decide (lead = s.myId) then
      ((s.setFld rFacetCasc 63 60 2).setFld rFacetBeat 16 0 (s.fld rFacetBeat 48 32)).sendMark 0
    else s)
  else State.sendDown (State.setRing (((s.setFld rFacetCasc 55 48 lead).setFld rFacetCasc 39 32 (c - 1)).setFld rFacetCasc 63 60 2) rrt) g

/-- The mark that has come round to the lead. -/
def State.markBack (s : State) (beat : Nat) (e : Nat × Nat) : State :=
  (s.setRing (s.nsSince e.2)).onCasc (fun c => { c with markSent := c.markSent.filter (fun x => decide (x.1 ≠ beat)) })

/-- What MARK does at the lead. -/
def State.markAtLead (s : State) (beat : Nat) : State := match s.casc.markSent.find? (fun e => decide (e.1 = beat)) with
  | some e => s.markBack beat e
  | none => s

/-- The positions that the lead holds for a set once one more has come. -/
def State.checkedNow (s : State) (num pos : Nat) : List Nat :=
  (((s.casc.checked.find? (fun e => decide (e.1 = num))).map (fun e => e.2)).getD []).filter (fun x => decide (x ≠ pos)) ++ [pos]

/-- What CHECKED does at the lead. -/
def State.checkedAtLead (s : State) (num pos : Nat) : State :=
  let u := s.onCasc (fun c => { c with checked := mapPut c.checked num (s.checkedNow num pos) })
  if u.casc.running then u.sendCommits ((u.beatNow + 1) % 2 ^ 32) else u

section
variable (hf : s.frozen = false) (ht : s.takeRing g = some (d, s0))
include hf ht

theorem exec_form {count fail : Nat} {map : BitVec 256} (hb : g.body = .form count fail map) :
    exec (.form g) s = .next (s0.formTaken g count fail map) := by
  obtain ⟨pos, beat, body⟩ := g
  subst hb
  refine (rfl : _ = onRing "FORM" _ s (fun _ u => u.formTaken ⟨pos, beat, _⟩ count fail map)).trans (onRing_of hf ht _ _)

theorem exec_roster {c lead rrt : Nat} (hb : g.body = .roster c lead rrt) : exec (.roster g) s = .next (s0.rosterTaken g c lead rrt) := by
  obtain ⟨pos, beat, body⟩ := g
  subst hb
  refine (rfl : _ = onRing "ROSTER" _ s (fun _ u => u.rosterTaken ⟨pos, beat, _⟩ c lead rrt)).trans (onRing_of hf ht _ _)

theorem exec_mark {active : Nat} {slip : Bool} (hb : g.body = .mark active slip) : exec (.mark g) s = .next
    (if !s0.inRing then s0 else if s0.isLead then s0.markAtLead g.beat else (s0.sendDown g).takeMark g.beat active slip) := by
  obtain ⟨pos, beat, body⟩ := g
  subst hb
  refine (rfl : _ = onRing "MARK" _ s (fun _ u => if !u.inRing then u else if u.isLead then u.markAtLead beat else (u.sendDown ⟨pos, beat, _⟩).takeMark beat active slip)).trans (onRing_of hf ht _ _)

theorem exec_slipreq {b : Nat} (hb : g.body = .slipreq b) : exec (.slipreq g) s = .next
    (if !s0.inRing then s0 else if s0.isLead then s0.takeSlip else s0.passOn d g) := by
  obtain ⟨pos, beat, body⟩ := g
  subst hb
  refine (rfl : _ = onRing "SLIPREQ" _ s (fun d u => if !u.inRing then u else if u.isLead then u.takeSlip else u.passOn d ⟨pos, beat, _⟩)).trans (onRing_of hf ht _ _)

theorem exec_bararr {p epoch : Nat} (hb : g.body = .bararr p epoch) : exec (.bararr g) s = .next
    (if !s0.inRing then s0 else if s0.isLead then s0.arrive p epoch g.pos else s0.passOn d g) := by
  obtain ⟨pos, beat, body⟩ := g
  subst hb
  refine (rfl : _ = onRing "BARARR" _ s (fun d u => if !u.inRing then u else if u.isLead then u.arrive p epoch pos else u.passOn d ⟨pos, beat, _⟩)).trans (onRing_of hf ht _ _)

theorem exec_barrel {p epoch : Nat} (hb : g.body = .barrel p epoch) : exec (.barrel g) s = .next
    (if !s0.inRing || s0.isLead then s0 else (s0.sendDown g).takeBarrel p epoch) := by
  obtain ⟨pos, beat, body⟩ := g
  subst hb
  refine (rfl : _ = onRing "BARREL" _ s (fun _ u => if !u.inRing || u.isLead then u else (u.sendDown ⟨pos, beat, _⟩).takeBarrel p epoch)).trans (onRing_of hf ht _ _)

theorem exec_checked {num bad : Nat} (hb : g.body = .checked num bad) : exec (.checked g) s = .next
    (if !s0.inRing then s0 else if s0.isLead then s0.checkedAtLead num g.pos else s0.passOn d g) := by
  obtain ⟨pos, beat, body⟩ := g
  subst hb
  refine (rfl : _ = onRing "CHECKED" _ s (fun d u => if !u.inRing then u else if u.isLead then u.checkedAtLead num pos else u.passOn d ⟨pos, beat, _⟩)).trans (onRing_of hf ht _ _)

theorem exec_commitGrain {b num : Nat} (hb : g.body = .commit b num) : exec (.commitGrain g) s = .next
    (if !s0.inRing || s0.isLead then s0 else (s0.sendDown g).nameBeat b num) := by
  obtain ⟨pos, beat, body⟩ := g
  subst hb
  refine (rfl : _ = onRing "COMMIT_GRAIN" _ s (fun _ u => if !u.inRing || u.isLead then u else (u.sendDown ⟨pos, beat, _⟩).nameBeat b num)).trans (onRing_of hf ht _ _)

end

/-! ### Outside, at a follower and at the lead -/

variable {rest : List (Bool × CtrlGrain)}

theorem inRing_follows (h : s.isMember = true ∧ s.cascUp = true ∧ s.isLead = false) : (s.withRing rest).inRing = true ∧
    (s.withRing rest).isLead = false := ⟨Bool.and_eq_true_iff.2 ⟨h.1, h.2.1⟩, h.2.2⟩

theorem inRing_leads (h : s.isMember = true ∧ s.cascUp = true ∧ s.isLead = true) : (s.withRing rest).inRing = true ∧
    (s.withRing rest).isLead = true := ⟨Bool.and_eq_true_iff.2 ⟨h.1, h.2.1⟩, h.2.2⟩

theorem inRing_outside (h : ¬ (s.isMember = true ∧ s.cascUp = true)) : (s.withRing rest).inRing = false :=
  Bool.eq_false_iff.2 fun hr => h (Bool.and_eq_true_iff.1 hr)

theorem isMember_of_lead (h : s.isLead = true) : s.isMember = true := by
  rw [State.isLead, decide_eq_true_eq] at h
  rw [State.isMember, decide_eq_true_eq, h]
  decide

/-! ### A ring that fails (R320, R337) -/

/-- FACET_CASC shows a failure. -/
def State.shownFailed (s : State) (code : Nat) : State := ((s.setFld rFacetCasc 63 60 4).setFld rFacetCasc 59 56 code).ringAlarm

theorem shownFailed_outcome (hc : s.Canonical) {code : Nat} (hlt : code < 16) : (s.shownFailed code).cascState = 4 ∧
    (s.shownFailed code).fld rFacetCasc 59 56 = code := by
  have h1 := hc.setFld rFacetCasc 63 60 4
  refine ⟨?_, State.setFld_fld_of_lt h1 (by decide) (by decide) hlt⟩
  exact (State.setFld_fld_field h1 _ (.inr (by decide)) (by decide)).trans (State.setFld_fld_of_lt hc (by decide) (by decide) (by decide))

theorem ringFail_outcome (hc : s.Canonical) {code : Nat} (hlt : code < 16) : (s.ringFail code).cascState = 4 ∧
    (s.ringFail code).fld rFacetCasc 59 56 = code ∧ (s.ringFail code).casc.formSent = none ∧ (s.ringFail code).casc.up = [] ∧
    (s.ringFail code).casc.down.length = 1 ∧ (s.ringFail code).cycle = s.cycle := by
  obtain ⟨h1, h2⟩ := shownFailed_outcome hc hlt
  exact ⟨h1, h2, rfl, rfl, rfl, rfl⟩

theorem exec_formTimeout {c : Nat} (h : s.casc.formSent = some c) (hl : s.isLead = true) (h1 : s.cascState = 1)
    (hr : s.casc.rosterSent = false) : exec .formTimeout s = .next ((s.atEdge (c + 150000000)).ringFail 3) := by
  have he : exec .formTimeout s = execFormTimeout s := rfl
  rw [he, execFormTimeout, h]
  exact when_of (by rw [hl, h1, hr]; rfl)

theorem exec_markTimeout (hm : s.isMember = true) (h : s.cascUp = true ∨ s.casc.running = true) :
    exec .markTimeout s = .next ((s.ringFail 5).fenceRing.onCasc (fun c => { c with running := false })) :=
  when_of (by rw [hm, Bool.or_eq_true_iff.2 h]; rfl)

theorem exec_formationStart (hf : s.frozen = false) (hl : s.isLead = true) (h1 : s.cascState = 1) (h0 : s.facetState 0 = fsUp)
    (h4 : s.facetState 4 = fsUp) (hn : s.casc.formSent = none) : exec .formationStart s =
      .next ((s.onCasc (fun c => { c with formSent := some s.cycle })).sendDown
        { pos := 0, beat := 0, body := .form 1 0 (BitVec.ofNat 256 (2 ^ s.myId)) }) :=
  (if_neg (by rw [hf]; exact Bool.false_ne_true)).trans (when_of (by rw [hl, h1, h0, h4, hn]; rfl))

/-! ### FORM (R319, R320) -/

theorem formTaken_failing {count fail : Nat} {map : BitVec 256} (hm : s.isMember = true) (hfl : fail ≠ 0) (h4 : s.cascState ≠ 4) :
    s.formTaken g count fail map = (s.shownFailed fail).sendDown g := by
  rw [State.formTaken, if_neg (by rw [hm]; decide), if_pos hfl, if_neg h4]
  rfl

theorem formTaken_follower {count : Nat} {map : BitVec 256} (hm : s.isMember = true) (hl : s.isLead = false) :
    s.formTaken g count 0 map = s.formAtFollower g count map := by
  rw [State.formTaken, if_neg (by rw [hm]; decide), if_neg (by decide), if_neg (by rw [hl]; decide)]

theorem formTaken_lead {count : Nat} {map : BitVec 256} (hl : s.isLead = true) :
    s.formTaken g count 0 map = s.formAtLead count map := by
  rw [State.formTaken, if_neg (by rw [isMember_of_lead hl]; decide), if_neg (by decide), if_pos hl]

theorem formAtFollower_joins {count : Nat} {map : BitVec 256} (h1 : s.cascState = 1) (hb : map.getLsbD s.myId = false) (hcnt : count < 256) :
    s.formAtFollower g count map = (s.setFld rFacetCasc 47 40 count).sendDown
      { g with body := .form (count + 1) 0 (map ||| BitVec.ofNat 256 (2 ^ s.myId)) } := by
  rw [State.formAtFollower, if_neg (Classical.not_not.2 h1), if_neg (by rw [hb]; decide), if_neg (by omega)]

theorem formAtFollower_twice {count : Nat} {map : BitVec 256} (h1 : s.cascState = 1) (hb : map.getLsbD s.myId = true) :
    s.formAtFollower g count map = s.ringFail 1 := by
  rw [State.formAtFollower, if_neg (Classical.not_not.2 h1), if_pos hb]

theorem formAtLead_foreign {count : Nat} {map : BitVec 256} (h1 : s.cascState = 1) (hb : map.getLsbD s.myId = false) :
    s.formAtLead count map = s.ringFail 2 := by
  rw [State.formAtLead, if_neg (by rw [h1]; decide), if_pos (by rw [hb]; rfl)]

/-- The lead's own place in the ring that has formed. -/
def State.leadPlaced (s : State) (count : Nat) : State :=
  ((s.setFld rFacetCasc 55 48 s.myId).setFld rFacetCasc 47 40 0).setFld rFacetCasc 39 32 (count - 1)

/-- The lead's ROSTER goes round. -/
def State.rosterGoes (s : State) (count rrt : Nat) : State :=
  (((s.leadPlaced count).setRing rrt).onCasc (fun c => { c with rosterSent := true })).sendDown
    { pos := 0, beat := 0, body := .roster count (s.leadPlaced count).myId rrt }

theorem formAtLead_formed {count c : Nat} {map : BitVec 256} (h1 : s.cascState = 1) (hb : map.getLsbD s.myId = true)
    (hs : s.casc.formSent = some c) (hr : s.casc.rosterSent = false) : s.formAtLead count map = s.rosterGoes count (s.nsSince c) := by
  rw [State.formAtLead, if_neg (by rw [h1]; decide), if_neg (by rw [hb]; decide)]
  simp only [hs, hr, Bool.false_eq_true, if_false]
  rfl

theorem leadPlaced_outcome (hc : s.Canonical) {count : Nat} (hcnt : count ≤ 256) : (s.leadPlaced count).myPos = 0 ∧
    (s.leadPlaced count).fld rFacetCasc 55 48 = s.myId ∧ (s.leadPlaced count).fld rFacetCasc 39 32 = count - 1 ∧
    (s.leadPlaced count).myId = s.myId := by
  have h1 := hc.setFld rFacetCasc 55 48 s.myId
  have h2 := h1.setFld rFacetCasc 47 40 0
  have hid : s.myId < 2 ^ 8 := Dword.field_lt _ 31 24
  refine ⟨?_, ?_, State.setFld_fld_of_lt h2 (by decide) (by decide) (by omega), ?_⟩
  · exact (State.setFld_fld_field h2 _ (.inr (by decide)) (by decide)).trans (State.setFld_fld_of_lt h1 (by decide) (by decide) (by decide))
  · exact (State.setFld_fld_field h2 _ (.inr (by decide)) (by decide)).trans
      ((State.setFld_fld_field h1 _ (.inr (by decide)) (by decide)).trans (State.setFld_fld_of_lt hc (by decide) (by decide) hid))
  · exact (State.setFld_fld_field h2 _ (.inl (by decide)) (by decide)).trans
      ((State.setFld_fld_field h1 _ (.inl (by decide)) (by decide)).trans (State.setFld_fld_field hc _ (.inl (by decide)) (by decide)))

theorem setRing_fld (s : State) (rrt : Nat) {a : Nat} (ha : a ≠ rFacetRing) (hi lo : Nat) : (s.setRing rrt).fld a hi lo = s.fld a hi lo :=
  (State.setFld_fld_other ha _ _ _ _ _).trans (State.setFld_fld_other ha _ _ _ _ _)

theorem setRing_rrt (hc : s.Canonical) (rrt : Nat) : (s.setRing rrt).fld rFacetRing 63 32 = min (2 ^ 32 - 1) rrt :=
  (State.setFld_fld_field (hc.setFld _ _ _ _) _ (.inr (by decide)) (by decide)).trans
    (State.setFld_fld_of_lt hc (by decide) (by decide) (by omega))

theorem rosterGoes_outcome (hc : s.Canonical) {count : Nat} (hcnt : count ≤ 256) (rrt : Nat) : (s.rosterGoes count rrt).myPos = 0 ∧
    (s.rosterGoes count rrt).fld rFacetCasc 55 48 = s.myId ∧ (s.rosterGoes count rrt).fld rFacetCasc 39 32 = count - 1 ∧
    (s.rosterGoes count rrt).casc.rosterSent = true ∧
    (s.rosterGoes count rrt).casc.down = s.casc.down ++ [{ pos := 0, beat := 0, body := .roster count s.myId rrt }] := by
  obtain ⟨h1, h2, h3, h4⟩ := leadPlaced_outcome hc hcnt
  have ho : ∀ hi lo, (s.rosterGoes count rrt).fld rFacetCasc hi lo = (s.leadPlaced count).fld rFacetCasc hi lo := fun hi lo => by
    have h : (s.rosterGoes count rrt).sreg = ((s.leadPlaced count).setRing rrt).sreg := rfl
    rw [State.fld, State.reg, h]
    exact setRing_fld (s.leadPlaced count) rrt (a := rFacetCasc) (by decide) hi lo
  have hd : (s.rosterGoes count rrt).casc.down = s.casc.down ++ [{ pos := 0, beat := 0, body := .roster count (s.leadPlaced count).myId rrt }] := rfl
  rw [h4] at hd
  exact ⟨(ho 47 40).trans h1, (ho 55 48).trans h2, (ho 39 32).trans h3, rfl, hd⟩

/-! ### ROSTER (R319) -/

/-- A follower that a ROSTER has formed. -/
def State.ringFormed (s : State) (c lead rrt : Nat) : State :=
  State.setRing (((s.setFld rFacetCasc 55 48 lead).setFld rFacetCasc 39 32 (c - 1)).setFld rFacetCasc 63 60 2) rrt

theorem ringFormed_outcome (hc : s.Canonical) {c lead : Nat} (hl : lead < 256) (hn : c ≤ 256) (rrt : Nat) :
    (s.ringFormed c lead rrt).cascState = 2 ∧ (s.ringFormed c lead rrt).fld rFacetCasc 55 48 = lead ∧
      (s.ringFormed c lead rrt).fld rFacetCasc 39 32 = c - 1 := by
  have h1 := hc.setFld rFacetCasc 55 48 lead
  have h2 := h1.setFld rFacetCasc 39 32 (c - 1)
  have ho := fun hi lo => setRing_fld (((s.setFld rFacetCasc 55 48 lead).setFld rFacetCasc 39 32 (c - 1)).setFld rFacetCasc 63 60 2) rrt
    (a := rFacetCasc) (by decide) hi lo
  refine ⟨(ho _ _).trans (State.setFld_fld_of_lt h2 (by decide) (by decide) (by decide)), (ho _ _).trans ?_, (ho _ _).trans ?_⟩
  · exact (State.setFld_fld_field h2 _ (.inl (by decide)) (by decide)).trans
      ((State.setFld_fld_field h1 _ (.inr (by decide)) (by decide)).trans (State.setFld_fld_of_lt hc (by decide) (by decide) hl))
  · exact (State.setFld_fld_field h2 _ (.inl (by decide)) (by decide)).trans (State.setFld_fld_of_lt h1 (by decide) (by decide) (by omega))

theorem rosterTaken_other {c lead rrt : Nat} (h : s.cascState ≠ 1 ∨ s.isMember = false) : s.rosterTaken g c lead rrt = s :=
  if_pos (by rcases h with h | h <;> simp [h])

theorem roster_guard (h1 : s.cascState = 1) (hm : s.isMember = true) : ¬ (decide (s.cascState ≠ 1) || !s.isMember) = true := by
  rw [h1, hm]
  decide

theorem rosterTaken_follower {c lead rrt : Nat} (h1 : s.cascState = 1) (hm : s.isMember = true) (hl : s.isLead = false) :
    s.rosterTaken g c lead rrt = (s.ringFormed c lead rrt).sendDown g := by
  rw [State.rosterTaken, if_neg (roster_guard h1 hm), if_neg (by rw [hl]; decide)]
  rfl

theorem rosterTaken_lead {c lead rrt : Nat} (h1 : s.cascState = 1) (hl : s.isLead = true) (hr : s.casc.rosterSent = true)
    (hid : lead = s.myId) : s.rosterTaken g c lead rrt =
      ((s.setFld rFacetCasc 63 60 2).setFld rFacetBeat 16 0 (s.fld rFacetBeat 48 32)).sendMark 0 := by
  rw [State.rosterTaken, if_neg (roster_guard h1 (isMember_of_lead hl)), if_pos hl, if_pos (by rw [hr, hid, decide_eq_true rfl]; rfl)]

/-! ### CHECKED and BARREL at their goals (R334, R335) -/

theorem checkedAtLead_noted (num pos : Nat) (hr : s.casc.running = false) :
    ∃ l, (num, l) ∈ (s.checkedAtLead num pos).casc.checked ∧ pos ∈ l := by
  have h : s.checkedAtLead num pos = s.onCasc (fun c => { c with checked := mapPut c.checked num (s.checkedNow num pos) }) :=
    if_neg (by
      show ¬ s.casc.running = true
      rw [hr]
      exact Bool.false_ne_true)
  rw [h]
  exact ⟨s.checkedNow num pos, List.mem_of_find?_eq_some (find_mapPut _ _ _), List.mem_append_right _ List.mem_cons_self⟩

theorem takeBarrel_epoch (hc : s.Canonical) (p epoch : Nat) : ((s.takeBarrel p epoch).plot p).barEpoch = (epoch + 1) % 256 := by
  have h : (s.releaseGroup p 14).Canonical := (State.releaseGroup_keeps hc.keeps).canon
  rw [State.takeBarrel, State.onPlot_plot_same h]

end

end Sys2Proof.Machine
end

section
/-!
PROOFS. Beats: marks and what they start, slips, and the beat groups of plots (R325, R326, R333, R334).
-/
namespace Sys2Proof.Machine

section
variable {s s' : State}

/-! ### A mark that is taken (R325) -/

/-- The mark's beat, period and slip stand. -/
def State.markBegun (s : State) (b active : Nat) (slip : Bool) : State :=
  let s := (s.setFld rFacetBeatstat 63 32 b).setFld rFacetBeat 16 0 active
  let s := if slip then (s.bump rFacetBeatstat 31 24 1).onCasc (fun c => { c with slipBeat := some b }) else s
  s.onCasc (fun c => { c with running := true })

/-- UE_RING of a plot is written. -/
def State.ueRingAt (ring : Dword) (s : State) (p : Nat) : State := s.onPlot p (fun x => { x with ueRing := ring })

/-- UE_RING is written at the start of beat 0. -/
def State.ringWritten (s : State) (b : Nat) : State :=
  if b = 0 then (List.range 64).foldl (State.ueRingAt (BitVec.ofNat 64 (s.myPos * 256 + (s.members - 1)))) s else s

/-- The sets that name beat b are no longer due. -/
def State.commitsTaken (s : State) (b : Nat) : State :=
  s.onCasc (fun c => { c with commitBeat := c.commitBeat.filter (fun e => decide (e.1 ≠ b)) })

/-- A set whose beat starts at this edge. -/
def reachAt (b edge : Nat) (s : State) (e : Nat × Nat) : State := s.reachBeat b edge e.2

/-- The cascade unit at the edge of the mark's beat. -/
def State.markEdge (s : State) (b active : Nat) (slip : Bool) : State :=
  let u := (s.markBegun b active slip).ringWritten b
  ((u.casc.commitBeat.filter (fun e => decide (e.1 = b))).foldl (reachAt b (s.cycle + 64)) (u.commitsTaken b)).atEdge (s.cycle + 64)

theorem takeMark_eq (s : State) (b active : Nat) (slip : Bool) :
    s.takeMark b active slip = ((List.range 64).foldl State.markPlot (s.markEdge b active slip)).showLag := by
  unfold State.takeMark State.markEdge State.ringWritten
  generalize List.range 64 = l
  rfl

/-- What the writing of UE_RING leaves. -/
structure RingKept (s s' : State) : Prop where
  canon  : s'.Canonical
  rest   : s'.sreg = s.sreg ∧ s'.casc = s.casc ∧ s'.cycle = s.cycle
  placed : ∀ p, (s'.plot p).placed = (s.plot p).placed

theorem ringWritten_kept (hc : s.Canonical) (b : Nat) : RingKept s (s.ringWritten b) := by
  unfold State.ringWritten
  split
  · refine List.foldlRecOn (motive := RingKept s) _ _ ⟨hc, ⟨rfl, rfl, rfl⟩, fun _ => rfl⟩ fun u hu p _ => ?_
    refine ⟨hu.canon.onPlot p _, hu.rest, fun o => Eq.trans ?_ (hu.placed o)⟩
    by_cases ho : o = p
    · subst ho
      rw [State.ueRingAt, State.onPlot_plot_same hu.canon]
    · rw [State.ueRingAt, State.onPlot_plot_other ho]
  · exact ⟨hc, ⟨rfl, rfl, rfl⟩, fun _ => rfl⟩

/-- What a begun mark shows. -/
structure MarkBegun (s s' : State) (b active : Nat) : Prop where
  canon  : s'.Canonical
  beat   : s'.beatNow = b
  active : s'.fld rFacetBeat 16 0 = active
  runs   : s'.casc.running = true
  due    : s'.casc.commitBeat = s.casc.commitBeat
  plots  : s'.plots = s.plots

theorem markBegun_outcome (hc : s.Canonical) {b active : Nat} (hb : b < 2 ^ 32) (ha : active < 2 ^ 17) (slip : Bool) :
    MarkBegun s (s.markBegun b active slip) b active := by
  have h1 := hc.setFld rFacetBeatstat 63 32 b
  have h2 := h1.setFld rFacetBeat 16 0 active
  have k1 : ((s.setFld rFacetBeatstat 63 32 b).setFld rFacetBeat 16 0 active).beatNow = b :=
    (State.setFld_fld_other (by decide) _ _ _ _ _).trans (State.setFld_fld_of_lt hc (by decide) (by decide) hb)
  have k2 : ((s.setFld rFacetBeatstat 63 32 b).setFld rFacetBeat 16 0 active).fld rFacetBeat 16 0 = active :=
    State.setFld_fld_of_lt h1 (by decide) (by decide) ha
  cases slip with
  | false => exact ⟨{ h2 with }, k1, k2, rfl, rfl, rfl⟩
  | true =>
    have h3 := h2.bump rFacetBeatstat 31 24 1
    have h4 : ∀ u : State, u.Canonical → (u.bump rFacetBeatstat 31 24 1).beatNow = u.beatNow := fun u hu =>
      State.setFld_fld_field hu _ (.inr (by decide)) (by decide)
    have h5 : ∀ u : State, (u.bump rFacetBeatstat 31 24 1).fld rFacetBeat 16 0 = u.fld rFacetBeat 16 0 := fun u =>
      State.setFld_fld_other (by decide) _ _ _ _ _
    exact ⟨{ h3 with }, (h4 _ h2).trans k1, (h5 _).trans k2, rfl, rfl, rfl⟩

/-- With no set due, the edge of a mark's beat finds what the mark has begun. -/
theorem markEdge_eq (b active : Nat) (slip : Bool) (hd : ((s.markBegun b active slip).ringWritten b).casc.commitBeat = []) :
    s.markEdge b active slip = (((s.markBegun b active slip).ringWritten b).commitsTaken b).atEdge (s.cycle + 64) := by
  unfold State.markEdge
  dsimp only
  rw [hd, List.filter_nil, List.foldl_nil]

theorem markEdge_outcome (hc : s.Canonical) {b active : Nat} (hb : b < 2 ^ 32) (ha : active < 2 ^ 17) (slip : Bool)
    (hd : s.casc.commitBeat = []) : (s.markEdge b active slip).Canonical ∧ (s.markEdge b active slip).beatNow = b ∧
      (s.markEdge b active slip).fld rFacetBeat 16 0 = active ∧ (s.markEdge b active slip).casc.running = true ∧
      (s.markEdge b active slip).cycle = s.cycle + 64 ∧ ∀ p, (s.markEdge b active slip).holdsSlots p = s.holdsSlots p := by
  obtain ⟨m1, m2, m3, m4, m5, m6⟩ := markBegun_outcome hc hb ha slip
  have hcy : (s.markBegun b active slip).cycle = s.cycle := by cases slip <;> rfl
  have he := markEdge_eq (s := s) b active slip
  generalize s.markEdge b active slip = w at *
  generalize s.markBegun b active slip = u at *
  obtain ⟨r1, ⟨r2, r3, r4⟩, r5⟩ := ringWritten_kept m1 b
  generalize u.ringWritten b = v at *
  rw [he (by rw [r3, m5, hd])]
  have hv : ∀ a hi lo, v.fld a hi lo = u.fld a hi lo := fun a hi lo => by rw [State.fld, State.reg, r2, State.fld, State.reg]
  refine ⟨{ r1 with }, (hv _ _ _).trans m2, (hv _ _ _).trans m3, (congrArg Casc.running r3).trans m4, ?_, fun p => ?_⟩
  · show max v.cycle (s.cycle + 64) = s.cycle + 64
    rw [r4, hcy]
    omega
  · have h : (v.plot p).placed = (s.plot p).placed := (r5 p).trans (by rw [State.plot, m6, State.plot])
    show v.holdsSlots p = s.holdsSlots p
    unfold State.holdsSlots
    rw [h]

theorem markPlot_idle {p : Nat} (h : s.holdsSlots p = false) : s.markPlot p = s := if_pos (by rw [h]; rfl)

theorem marks_idle {l : List Nat} (h : ∀ p ∈ l, s.holdsSlots p = false) : l.foldl State.markPlot s = s :=
  List.foldlRecOn (motive := fun u => u = s) l State.markPlot rfl fun u hu p hp => by
    subst hu
    exact markPlot_idle (h p hp)

theorem showLag_kept (hc : s.Canonical) : s.showLag.beatNow = s.beatNow ∧ s.showLag.fld rFacetBeat 16 0 = s.fld rFacetBeat 16 0 := by
  unfold State.showLag
  generalize List.foldl _ _ _ = lag
  refine ⟨?_, (State.setFld_fld_other (by decide) _ _ _ _ _).trans (State.setFld_fld_other (by decide) _ _ _ _ _)⟩
  exact (State.setFld_fld_field (hc.setFld _ _ _ _) _ (.inr (by decide)) (by decide)).trans
    (State.setFld_fld_field hc _ (.inr (by decide)) (by decide))

theorem showLag_rest (s : State) : s.showLag.casc = s.casc ∧ s.showLag.cycle = s.cycle := ⟨rfl, rfl⟩

theorem takeMark_outcome (hc : s.Canonical) {b active : Nat} (hb : b < 2 ^ 32) (ha : active < 2 ^ 17) (slip : Bool)
    (hd : s.casc.commitBeat = []) (hp : ∀ p, p < 64 → s.holdsSlots p = false) : (s.takeMark b active slip).fld rFacetBeat 16 0 = active ∧
      (s.takeMark b active slip).beatNow = b ∧ (s.takeMark b active slip).casc.running = true ∧
      (s.takeMark b active slip).cycle = s.cycle + 64 := by
  obtain ⟨e1, e2, e3, e4, e5, e6⟩ := markEdge_outcome hc hb ha slip hd
  rw [takeMark_eq, marks_idle fun p hm => (e6 p).trans (hp p (List.mem_range.1 hm))]
  generalize s.markEdge b active slip = u at *
  obtain ⟨k1, k2⟩ := showLag_kept e1
  obtain ⟨k3, k4⟩ := showLag_rest u
  exact ⟨k2.trans e3, k1.trans e2, (congrArg Casc.running k3).trans e4, k4.trans e5⟩

/-! ### The lead's mark (R325, R333) -/

theorem sendMark_slip (b : Nat) (h : s.casc.slipDue = true) :
    let base := (s.periodAt b).getD (s.fld rFacetBeat 16 0)
    let long := min 125000 ((5 * base + 3) / 4)
    s.sendMark b = State.takeMark
      (((if (5 * base + 3) / 4 ≤ 125000 then s else s.ringAlarm).onCasc (fun c => { c with
        slipDue := false, markSent := c.markSent ++ [(b, s.cycle)] })).sendDown
          { pos := s.myPos, beat := b, body := .mark long true }) b long true := by
  dsimp only
  unfold State.sendMark
  simp only [h, Bool.true_and, if_true]
  generalize (s.periodAt b).getD (s.fld rFacetBeat 16 0) = base
  by_cases hw : (5 * base + 3) / 4 ≤ 125000
  · simp only [hw, decide_true, Bool.not_true, Bool.false_eq_true, if_false, if_true]
  · simp only [hw, decide_false, Bool.not_false, if_false, if_true]
    rfl

theorem sendMark_plain (b : Nat) (h : s.casc.slipDue = false) :
    let base := (s.periodAt b).getD (s.fld rFacetBeat 16 0)
    s.sendMark b = State.takeMark ((s.onCasc (fun c => { c with markSent := c.markSent ++ [(b, s.cycle)] })).sendDown
      { pos := s.myPos, beat := b, body := .mark base false }) b base false := by
  have hc : (s.onCasc (fun c => { c with slipDue := false, markSent := c.markSent ++ [(b, s.cycle)] })) =
      s.onCasc (fun c => { c with markSent := c.markSent ++ [(b, s.cycle)] }) := by
    simp only [State.onCasc, ← h]
  dsimp only
  rw [← hc]
  unfold State.sendMark
  simp only [h, Bool.false_and, Bool.false_eq_true, if_false]

theorem exec_beatTimer (hf : s.frozen = false) (hl : s.isLead = true) (hu : s.cascUp = true) (hr : s.casc.running = true) :
    exec .beatTimer s = .next ((s.sendCommits ((s.beatNow + 1) % 2 ^ 32)).sendMark ((s.beatNow + 1) % 2 ^ 32)) :=
  (if_neg (by rw [hf]; exact Bool.false_ne_true)).trans (when_of (by rw [hl, hu, hr]; rfl))

/-! ### Beat groups (R326, R334) -/

/-- A note of a beat group of plot p. -/
def beatNote (s : State) (p : Nat) (e : Site × SvcNote) : Bool :=
  decide (s.plotOf e.1 = some p) && (match e.2 with | .groupComplete _ => true | _ => false)

/-- The state without a note that is taken. -/
def State.withSvc (s : State) (rest : List (Site × SvcNote)) : State := { s with svc := rest }

theorem withSvc_lagOf (s : State) (rest : List (Site × SvcNote)) (p : Nat) : (s.withSvc rest).lagOf p = s.lagOf p := rfl

section
variable {p n : Nat} {t : Site} {rest : List (Site × SvcNote)} (hf : s.frozen = false) (hp : p < Config.plots)
  (h : takeFirst (beatNote s p) s.svc = some ((t, .groupComplete n), rest))
include hf hp h

theorem exec_beatGroupComplete_barrier (hn : n = 14) : exec (.beatGroupComplete p) s = .next
    (if s.isLead then (s.withSvc rest).arrive p (s.plot p).barEpoch 0 else (s.withSvc rest).toLead (.bararr p (s.plot p).barEpoch)) :=
  (onUnit_of (decide_eq_true hp)).trans ((if_neg (by rw [hf]; exact Bool.false_ne_true)).trans ((whenSome_of h).trans (if_pos hn)))

theorem exec_beatGroupComplete_waits (hn : n ≠ 14) (hl : s.lagOf p = 0) : exec (.beatGroupComplete p) s =
    .next ((s.withSvc rest).onPlot p (fun x => { x with beatDone := true })) :=
  (onUnit_of (decide_eq_true hp)).trans ((if_neg (by rw [hf]; exact Bool.false_ne_true)).trans ((whenSome_of h).trans
    ((if_neg hn).trans (if_neg (by rw [← withSvc_lagOf s rest] at hl; exact Nat.not_lt.2 (Nat.le_of_eq hl))))))

theorem exec_beatGroupComplete_begins (hn : n ≠ 14) (hl : 0 < s.lagOf p) : exec (.beatGroupComplete p) s =
    .next ((((s.withSvc rest).beginBeat p).newLag p (s.lagOf p)).showLag) :=
  (onUnit_of (decide_eq_true hp)).trans ((if_neg (by rw [hf]; exact Bool.false_ne_true)).trans ((whenSome_of h).trans
    ((if_neg hn).trans (if_pos hl))))

end

end

end Sys2Proof.Machine
end

section
/-!
PROOFS. The ring's obligation: each grain by what the module is (R319, R320, R325, R333 to R335, R337).
-/
namespace Sys2Proof.Machine

section
variable {s s0 : State} {g : CtrlGrain} {d : Bool} (hc : s.Canonical) (hf : s.frozen = false) (ht : s.takeRing g = some (d, s0))
include hf ht

/-! ### Grains that pass (R333 to R335) -/

/-- The module is a follower of a ring that is up. -/
def State.Follows (s : State) : Prop := s.isMember = true ∧ s.cascUp = true ∧ s.isLead = false
/-- The module is the lead of a ring that is up. -/
def State.Leads (s : State) : Prop := s.isMember = true ∧ s.cascUp = true ∧ s.isLead = true
/-- The module is outside a ring that is up. -/
def State.Outside (s : State) : Prop := ¬ (s.isMember = true ∧ s.cascUp = true)

omit hf in
theorem takeRing_follows (h : s.Follows) : s0.inRing = true ∧ s0.isLead = false := by
  obtain ⟨rest, rfl⟩ := takeRing_rest ht
  exact inRing_follows h

omit hf in
theorem takeRing_leads (h : s.Leads) : s0.inRing = true ∧ s0.isLead = true := by
  obtain ⟨rest, rfl⟩ := takeRing_rest ht
  exact inRing_leads h

omit hf in
theorem takeRing_outside (h : s.Outside) : s0.inRing = false := by
  obtain ⟨rest, rfl⟩ := takeRing_rest ht
  exact inRing_outside h

omit hf in
theorem takeRing_isLead : s0.isLead = s.isLead := by
  obtain ⟨rest, rfl⟩ := takeRing_rest ht
  rfl

theorem slipreqs_pass {b : Nat} (hb : g.body = .slipreq b) : (s.Outside → exec (.slipreq g) s = .next s0) ∧
    (s.Follows → exec (.slipreq g) s = .next (s0.passOn d g)) ∧ (s.Leads → exec (.slipreq g) s = .next s0.takeSlip) := by
  rw [exec_slipreq hf ht hb]
  refine ⟨fun h => ?_, fun h => ?_, fun h => ?_⟩
  · rw [takeRing_outside ht h]
    rfl
  · obtain ⟨h1, h2⟩ := takeRing_follows ht h
    rw [h1, h2]
    rfl
  · obtain ⟨h1, h2⟩ := takeRing_leads ht h
    rw [h1, h2]
    rfl

theorem bararrs_pass {p epoch : Nat} (hb : g.body = .bararr p epoch) : (s.Outside → exec (.bararr g) s = .next s0) ∧
    (s.Follows → exec (.bararr g) s = .next (s0.passOn d g)) ∧ (s.Leads → exec (.bararr g) s = .next (s0.arrive p epoch g.pos)) := by
  rw [exec_bararr hf ht hb]
  refine ⟨fun h => ?_, fun h => ?_, fun h => ?_⟩
  · rw [takeRing_outside ht h]
    rfl
  · obtain ⟨h1, h2⟩ := takeRing_follows ht h
    rw [h1, h2]
    rfl
  · obtain ⟨h1, h2⟩ := takeRing_leads ht h
    rw [h1, h2]
    rfl

omit hf in
theorem onward_kept (h : s.Outside ∨ s.isLead = true) : (!s0.inRing || s0.isLead) = true := by
  rcases h with h | h
  · rw [takeRing_outside ht h]
    rfl
  · rw [takeRing_isLead ht, h, Bool.or_true]

omit hf in
theorem onward_goes (h : s.Follows) : ¬ (!s0.inRing || s0.isLead) = true := by
  obtain ⟨h1, h2⟩ := takeRing_follows ht h
  rw [h1, h2]
  decide

omit hf in
include hc in
theorem takeRing_canonical : s0.Canonical := by
  obtain ⟨rest, rfl⟩ := takeRing_rest ht
  exact { hc with }

include hc in
theorem barrels_pass {p epoch : Nat} (hb : g.body = .barrel p epoch) :
    (s.Outside ∨ s.isLead = true → exec (.barrel g) s = .next s0) ∧
    (s.Follows → exec (.barrel g) s = .next ((s0.sendDown g).takeBarrel p epoch) ∧
      (((s0.sendDown g).takeBarrel p epoch).plot p).barEpoch = (epoch + 1) % 256) := by
  rw [exec_barrel hf ht hb]
  have h0 : (s0.sendDown g).Canonical := { takeRing_canonical hc ht with }
  exact ⟨fun h => congrArg _ (if_pos (onward_kept ht h)),
    fun h => ⟨congrArg _ (if_neg (onward_goes ht h)), takeBarrel_epoch h0 p epoch⟩⟩

theorem commits_pass {b num : Nat} (hb : g.body = .commit b num) :
    (s.Outside ∨ s.isLead = true → exec (.commitGrain g) s = .next s0) ∧
    (s.Follows → exec (.commitGrain g) s = .next ((s0.sendDown g).nameBeat b num)) := by
  rw [exec_commitGrain hf ht hb]
  exact ⟨fun h => congrArg _ (if_pos (onward_kept ht h)), fun h => congrArg _ (if_neg (onward_goes ht h))⟩

theorem checkeds_pass {num bad : Nat} (hb : g.body = .checked num bad) : (s.Outside → exec (.checked g) s = .next s0) ∧
    (s.Follows → exec (.checked g) s = .next (s0.passOn d g)) ∧
    (s.Leads → ∃ s', exec (.checked g) s = .next s' ∧ (s.casc.running = false → ∃ l, (num, l) ∈ s'.casc.checked ∧ g.pos ∈ l)) := by
  rw [exec_checked hf ht hb]
  refine ⟨fun h => ?_, fun h => ?_, fun h => ⟨s0.checkedAtLead num g.pos, ?_, fun hr => checkedAtLead_noted num g.pos ?_⟩⟩
  · rw [takeRing_outside ht h]
    rfl
  · obtain ⟨h1, h2⟩ := takeRing_follows ht h
    rw [h1, h2]
    rfl
  · obtain ⟨h1, h2⟩ := takeRing_leads ht h
    rw [h1, h2]
    rfl
  · obtain ⟨rest, rfl⟩ := takeRing_rest ht
    exact hr

/-! ### MARK (R325) -/

include hc in
theorem marks_pass {active : Nat} {slip : Bool} (hb : g.body = .mark active slip) : (s.Outside → exec (.mark g) s = .next s0) ∧
    (s.Follows → exec (.mark g) s = .next ((s0.sendDown g).takeMark g.beat active slip)) ∧
    (s.Leads → s.casc.markSent.find? (fun e => decide (e.1 = g.beat)) = none → exec (.mark g) s = .next s0) ∧
    (s.Leads → ∀ e, s.casc.markSent.find? (fun e => decide (e.1 = g.beat)) = some e → ∃ s', exec (.mark g) s = .next s' ∧
      s'.fld rFacetRing 63 32 = min (2 ^ 32 - 1) (s.nsSince e.2) ∧
      s'.casc.markSent = s.casc.markSent.filter (fun x => decide (x.1 ≠ g.beat))) := by
  rw [exec_mark hf ht hb]
  have h0 := takeRing_canonical hc ht
  have hl : s.Leads → (if !s0.inRing then s0 else if s0.isLead then s0.markAtLead g.beat else (s0.sendDown g).takeMark g.beat active slip) =
      s0.markAtLead g.beat := fun h => by
    obtain ⟨h1, h2⟩ := takeRing_leads ht h
    rw [h1, h2]
    rfl
  refine ⟨fun h => ?_, fun h => ?_, fun h hn => ?_, fun h e he => ⟨s0.markBack g.beat e, ?_, ?_, ?_⟩⟩
  · rw [takeRing_outside ht h]
    rfl
  · obtain ⟨h1, h2⟩ := takeRing_follows ht h
    rw [h1, h2]
    rfl
  · rw [hl h, State.markAtLead]
    obtain ⟨rest, rfl⟩ := takeRing_rest ht
    have hn' : (s.withRing rest).casc.markSent.find? (fun e => decide (e.1 = g.beat)) = none := hn
    rw [hn']
  · rw [hl h, State.markAtLead]
    obtain ⟨rest, rfl⟩ := takeRing_rest ht
    have he' : (s.withRing rest).casc.markSent.find? (fun e => decide (e.1 = g.beat)) = some e := he
    rw [he']
  · obtain ⟨rest, rfl⟩ := takeRing_rest ht
    exact setRing_rrt h0 _
  · obtain ⟨rest, rfl⟩ := takeRing_rest ht
    rfl

/-! ### FORM and ROSTER (R319, R320) -/

include hc in
theorem forms_pass {count fail : Nat} {map : BitVec 256} (hb : g.body = .form count fail map) :
    (s.isMember = false → exec (.form g) s = .next s0) ∧
    (s.isMember = true → fail ≠ 0 → s.cascState = 4 → exec (.form g) s = .next s0) ∧
    (s.isMember = true → fail ≠ 0 → fail < 16 → s.cascState ≠ 4 → ∃ s', exec (.form g) s = .next s' ∧ s'.cascState = 4 ∧
      s'.fld rFacetCasc 59 56 = fail ∧ s'.casc.down = s.casc.down ++ [g]) ∧
    (s.isMember = true → s.isLead = false → fail = 0 → s.cascState = 1 → map.getLsbD s.myId = false → count < 256 →
      ∃ s', exec (.form g) s = .next s' ∧ s'.myPos = count ∧ s'.casc.down = s.casc.down ++
        [{ g with body := .form (count + 1) 0 (map ||| BitVec.ofNat 256 (2 ^ s.myId)) }]) ∧
    (s.isMember = true → s.isLead = false → fail = 0 → s.cascState = 1 → map.getLsbD s.myId = true →
      exec (.form g) s = .next (s0.ringFail 1)) ∧
    (s.isLead = true → fail = 0 → s.cascState = 1 → map.getLsbD s.myId = false → exec (.form g) s = .next (s0.ringFail 2)) ∧
    (s.isLead = true → fail = 0 → s.cascState = 1 → map.getLsbD s.myId = true → count ≤ 256 → s.casc.rosterSent = false →
      ∀ c, s.casc.formSent = some c → ∃ s', exec (.form g) s = .next s' ∧ s'.myPos = 0 ∧ s'.fld rFacetCasc 55 48 = s.myId ∧
        s'.fld rFacetCasc 39 32 = count - 1 ∧ s'.casc.rosterSent = true ∧ s'.casc.down = s.casc.down ++
          [{ pos := 0, beat := 0, body := .roster count s.myId (s.nsSince c) }]) := by
  rw [exec_form hf ht hb]
  have h0 := takeRing_canonical hc ht
  obtain ⟨rest, rfl⟩ := takeRing_rest ht
  refine ⟨fun hm => congrArg _ (if_pos ?_), fun hm hfl h4 => congrArg _ ?_, fun hm hfl hlt h4 => ?_, fun hm hl h00 h1 hid hcnt => ?_,
    fun hm hl h00 h1 hid => ?_, fun hl h00 h1 hid => ?_, fun hl h00 h1 hid hcnt hr c hs => ?_⟩
  · rw [show (s.withRing rest).isMember = false from hm]
    rfl
  · rw [State.formTaken, if_neg (by rw [show (s.withRing rest).isMember = true from hm]; decide), if_pos hfl]
    exact if_pos h4
  · obtain ⟨h1, h2⟩ := shownFailed_outcome h0 hlt
    exact ⟨_, congrArg _ (formTaken_failing (s := s.withRing rest) hm hfl h4), h1, h2, rfl⟩
  · subst h00
    exact ⟨_, congrArg _ ((formTaken_follower (s := s.withRing rest) hm hl).trans (formAtFollower_joins (s := s.withRing rest) h1 hid hcnt)),
      State.setFld_fld_of_lt h0 (by decide) (by decide) hcnt, rfl⟩
  · subst h00
    exact congrArg _ ((formTaken_follower (s := s.withRing rest) hm hl).trans (formAtFollower_twice (s := s.withRing rest) h1 hid))
  · subst h00
    exact congrArg _ ((formTaken_lead (s := s.withRing rest) hl).trans (formAtLead_foreign (s := s.withRing rest) h1 hid))
  · subst h00
    exact ⟨_, congrArg _ ((formTaken_lead (s := s.withRing rest) hl).trans (formAtLead_formed (s := s.withRing rest) h1 hid hs hr)), rosterGoes_outcome h0 hcnt _⟩

include hc in
theorem rosters_pass {c lead rrt : Nat} (hb : g.body = .roster c lead rrt) :
    (s.cascState ≠ 1 ∨ s.isMember = false → exec (.roster g) s = .next s0) ∧
    (s.cascState = 1 → s.isMember = true → s.isLead = false → lead < 256 → c ≤ 256 → ∃ s', exec (.roster g) s = .next s' ∧
      s'.cascState = 2 ∧ s'.fld rFacetCasc 55 48 = lead ∧ s'.fld rFacetCasc 39 32 = c - 1 ∧ s'.casc.down = s.casc.down ++ [g]) ∧
    (s.cascState = 1 → s.isLead = true → s.casc.rosterSent = true → lead = s.myId → exec (.roster g) s =
      .next (((s0.setFld rFacetCasc 63 60 2).setFld rFacetBeat 16 0 (s.fld rFacetBeat 48 32)).sendMark 0)) := by
  rw [exec_roster hf ht hb]
  have h0 := takeRing_canonical hc ht
  obtain ⟨rest, rfl⟩ := takeRing_rest ht
  refine ⟨fun h => congrArg _ (rosterTaken_other (s := s.withRing rest) h), fun h1 hm hl hlead hcnt => ?_,
    fun h1 hl hr hid => congrArg _ (rosterTaken_lead (s := s.withRing rest) h1 hl hr hid)⟩
  obtain ⟨k1, k2, k3⟩ := ringFormed_outcome h0 hlead hcnt rrt
  exact ⟨_, congrArg _ (rosterTaken_follower (s := s.withRing rest) h1 hm hl), k1, k2, k3, rfl⟩

end

/-- Settles O49: a grain of the ring does what `forms_pass`, `rosters_pass`, `marks_pass` and the lemmas beside them say, a mark what
`takeMark_outcome` says. -/
theorem ringFormsAndBeats : Obligations.RingFormsAndBeats := by
  unfold Obligations.RingFormsAndBeats
  intro s s0 g d hc hf
  refine ⟨exec_formationStart hf, fun c h hl h1 hr => ⟨_, exec_formTimeout h hl h1 hr, ?_⟩,
    fun hm h => ⟨_, exec_markTimeout hm h, rfl⟩, exec_beatTimer hf, fun ht => ?_,
    fun b active slip hb ha hd hp => takeMark_outcome hc hb ha slip hd hp, fun b => ⟨sendMark_slip b, sendMark_plain b⟩,
    fun p hp t n rest hpl hpk => ?_⟩
  · have he : (s.atEdge (c + 150000000)).Canonical := { hc with }
    obtain ⟨h1, h2, h3, h4, h5, h6⟩ := ringFail_outcome he (code := 3) (by decide)
    exact ⟨h1, h2, h3, h4, h5, Nat.le_trans (Nat.le_max_right s.cycle _) (Nat.le_of_eq h6.symm)⟩
  · exact ⟨fun _ _ _ hb => forms_pass hc hf ht hb, fun _ _ _ hb => rosters_pass hc hf ht hb, fun _ _ hb => marks_pass hc hf ht hb,
      fun _ hb => slipreqs_pass hf ht hb, fun _ _ hb => bararrs_pass hf ht hb, fun _ _ hb => barrels_pass hc hf ht hb,
      fun _ _ hb => checkeds_pass hf ht hb, fun _ _ hb => commits_pass hf ht hb⟩
  · have h : takeFirst (beatNote s p) s.svc = some ((t, .groupComplete n), rest) := takeFirst_picks hpk
    exact ⟨exec_beatGroupComplete_barrier hf hp h, exec_beatGroupComplete_waits hf hp h,
      fun hn hl => ⟨_, exec_beatGroupComplete_begins hf hp h hn hl⟩⟩

end Sys2Proof.Machine
end
